-- ==== Sys2Proof/Word.lean ====
section
/-!
DEFINITION. The plain types every layer shares: bytes, byte strings and sparse tables.
-/

namespace Sys2Proof

/-- One byte. -/
abbrev Byte := BitVec 8

/-- A byte string, the byte at the lowest address first (R3). -/
abbrev Bytes := List Byte

/-- A sparse table: pairs of a key and a value, keys rising. -/
abbrev Table (α : Type) := List (Nat × α)

end Sys2Proof
end

