-- ==== Sys2Proof/Syntax.lean ====
section
/-!
DEFINITION. The commands of the block: one constructor of `Instr` per row of the table of operations and events, and
the plain records that are their operands.
-/

namespace Sys2Proof

/-- A mailbox command record as Busum reads it from CMDQ with its header good (R363, R364 checks 1 and 2), and its
buffer head (R366). `params` is the inline parameters or the parameter buffer's bytes. -/
structure Cmd where
  /-- TAG of the record header, echoed in the response. -/
  tag : BitVec 16
  /-- LEN of the record header, in 16-byte units. -/
  len : BitVec 16
  /-- The parameter bytes. -/
  params : Bytes
  /-- OB_ADDR. -/
  obAddr : BitVec 64
  /-- OB_LEN. -/
  obLen : BitVec 32
  /-- The DMA status with which a buffer transfer of this command fails, if one does (R366). -/
  xferFail : Option Byte
  /-- How many Binder leaves a long command takes (R369); 0 and 1 both mean one. -/
  leaves : Nat
deriving DecidableEq, Repr

/-- One sum group a program declares (R271 to R273). -/
structure SumDecl where
  /-- Position of the group object in the quire's run of sync objects. -/
  obj : Nat
  /-- 0 FP32, 1 INT32, 2 ACC48. -/
  fmt : Nat
  /-- K, the number of contributors. -/
  k : Nat
  /-- Destination, an offset in the quire-data window. -/
  dst : Nat
  /-- Bytes of one contribution. -/
  bytes : Nat
  /-- Staging area, an offset in the quire-data window, if the program declares one there. -/
  staging : Option Nat
deriving DecidableEq, Repr

/-- What the program of a quire declares and its scheduler grants at quire start (R230). -/
structure Prog where
  /-- Relative cores the quire runs on: bit 0 and bit 1. -/
  cores : BitVec 2
  /-- Engine positions the program uses. -/
  positions : Nat
  /-- Bytes of the quire-data window and of the code region (R139). -/
  qdBytes : Nat
  codeBytes : Nat
  /-- Bytes of the scratchpad window and units of the accumulator window (R229, R162). -/
  spadBytes : Nat
  accUnits : Nat
  /-- Marked FULL by the Ropel compiler (R229). -/
  full : Bool
  /-- Initial COUNT of each object of the run of sync objects, 2 to 256 of them (R251). -/
  objInit : List (BitVec 32)
  /-- System objects granted by name, at most 16 (R251). -/
  named : List Nat
  /-- Stitch queues declared, each with the descriptors of its ring (R324). -/
  stitchQueues : List (List Bytes)
  /-- Sum groups declared (R271). -/
  sums : List SumDecl
  /-- The carder descriptor lists the program starts with, 64 bytes a descriptor, and how many of each the scheduler
  launches at quire start (R142, R145). -/
  lists : List (List Bytes × Nat)
  /-- The window of DDR5 that the quire's carder descriptors may reach, base and length (R144, R158). -/
  ddrBase : Nat
  ddrLen : Nat
  /-- Offset in the quire-data window at which the coded bits of each entry of a downlink slot go, by entry (R214). -/
  codedAt : List Nat
  /-- Bytes of the quire-data window on each other cluster of which it declares one, with the cluster (R139, Table 7-5). -/
  remote : List (Fin 4 × Nat)
  /-- Where each relative core starts in the code region, in bytes. -/
  entry0 : Nat
  entry1 : Nat
deriving DecidableEq, Repr

/-- A live extent the Ropel compiler lists at a boundary (R236): position, kind, start, length. -/
structure Extent where
  pos : Nat
  /-- false: scratchpad, bytes. true: accumulator, units. -/
  acc : Bool
  start : Nat
  len : Nat
deriving DecidableEq, Repr

/-- A DMRS resource element of a PUSCH: symbol, subcarrier of the carrier, and the value of each of its layers there, as integers of
one amplitude. -/
structure Pilot where
  sym : Nat
  sub : Nat
  vals : List (Int × Int)
deriving DecidableEq, Repr

/-- A PUSCH PDU of an UL_SLOT record: what the Yilon acts on of the FAPI PDU, with the fields it adds (Table 16-10). -/
structure Pusch where
  /-- False where the PDU asks for what Table 9-3, R196 or Table 13-4 excludes (R381). -/
  supported : Bool
  rnti : BitVec 16
  harqId : Byte
  harqBuf : BitVec 16
  rxBufAddr : BitVec 64
  rxBufLen : BitVec 32
  /-- TBS in bits. -/
  tbs : Nat
  /-- LDPC base graph that the PDU carries (R195). -/
  bg : Nat
  newData : Bool
  qm : Nat
  layers : Nat
  rv : Fin 4
  /-- G, the coded bits of the UL-SCH. -/
  g : Nat
  /-- TBS_LBRM of limited-buffer rate matching, if on (TS 38.212 clause 5.4.2.1). -/
  tbsLbrm : Option Nat
  /-- Code blocks of the transmitted code-block groups; none: all of them. -/
  cbgTx : Option (List Nat)
  /-- c_init of the scrambling sequence. -/
  cInit : BitVec 31
  /-- Places of the UL-SCH's coded bits in the scrambled codeword where UCI is multiplexed with it (R195, R198); none: 0, 1, 2
  and so on. -/
  ulAt : Option (List Nat)
  /-- DMRS symbols in the slot (R173). -/
  dmrs : Nat
  /-- Its DMRS resource elements, and those that carry data in the order in which the codeword's symbols take them: symbol and
  subcarrier of each (TS 38.211 clauses 6.3.1 and 6.4.1.1), as the built-in receivers use them (R187, R188). -/
  pilots : List Pilot
  dataRe : List (Nat × Nat)
  startSym : Nat
  numSym : Nat
  startPrb : Nat
  numPrb : Nat
  /-- beamId of category B (R192). -/
  beam : Nat
deriving DecidableEq, Repr

/-- A UCI part of a PUCCH or PUSCH (R211, R212): K bits, E rate-matched LLRs, CRC length, the PDU index. -/
structure UciPart where
  pdu : Nat
  k : Nat
  e : Nat
  qm : Nat
  /-- UCI on a PUSCH: c_init of the scrambling sequence and the place of each coded bit in the codeword (R196). -/
  scr : Option (BitVec 31 × List Nat)
deriving DecidableEq, Repr

/-- A PRACH PDU (R196, R216 to R219). -/
structure PrachPdu where
  /-- False where it asks for what R196 does not name. -/
  supported : Bool
  /-- Preamble format: 0 to 3, then A1, A2, A3, B1, B4, C0, C2 as 4 to 10. -/
  format : Nat
  /-- Subcarrier spacing of the short formats: 0 for 15 kHz, 1 for 30 kHz. -/
  scs : Nat
  /-- The symbol of the first repetition. -/
  startSym : Nat
  /-- Logical root sequence index, set of cyclic shifts (0 unrestricted, 1 restricted A, 2 restricted B) and N_CS. -/
  rootIndex : Nat
  restricted : Nat
  ncs : Nat
  /-- Preamble count the PDU asks for. -/
  count : Nat
  /-- frequencyOffset and FFT size of its C-plane section (Table 13-4), and the beamId of category B. -/
  freqOffset : Nat
  fft : Nat
  beam : Nat
deriving DecidableEq, Repr

/-- A section of a slot's C-plane request: stream list is every stream of its direction; symbols and PRBs. -/
structure Section where
  /-- First symbol, number of symbols, first PRB, number of PRBs (0: every PRB of the carrier, R295). -/
  sym : Nat
  nSym : Nat
  prb : Nat
  nPrb : Nat
  /-- beamId of category B (R192). -/
  beam : Nat
deriving DecidableEq, Repr

/-- An uplink slot record as Busum reads it from SPQ with its header good (R380, R381). -/
structure UlSlot where
  len : BitVec 16
  cell : BitVec 16
  sfn : BitVec 16
  slot : Byte
  pusch : List Pusch
  uci : List UciPart
  prach : List PrachPdu
  /-- PUCCH sections, beside those the PUSCH PDUs ask for. -/
  pucch : List Section
  /-- SRS PDUs and other excluded PDUs: their PDU indices (R381, R12). -/
  excluded : List Nat
  /-- The record's bytes, which the input digest covers (R279). -/
  raw : Bytes
deriving DecidableEq, Repr

/-- A PDSCH PDU of a downlink slot record. -/
structure Pdsch where
  supported : Bool
  bg : Nat
  /-- PRBs of a PRG and the precoding matrix index of each (R191); the port of each layer for category B (R192). -/
  prgSize : Nat
  pmis : List Nat
  ports : List Nat
  layers : Nat
  sect : Section
  /-- TBS in bits, modulation order, redundancy version, coded bits, TBS_LBRM of limited-buffer rate matching if on (R214). -/
  tbs : Nat
  qm : Nat
  rv : Fin 4
  g : Nat
  tbsLbrm : Option Nat
deriving DecidableEq, Repr

/-- A DCI of a PDCCH PDU: payload bits, RNTI of the CRC mask, coded bits (R195, R214). -/
structure DciPdu where
  bits : List Bool
  rnti : BitVec 16
  e : Nat
deriving DecidableEq, Repr

/-- The BCH of an SSB PDU: the 24 MIB bits and the 8 further payload bits in the order of TS 38.212 clause 7.1.1, the cell
identity, and whether L_max is 64 (R195, R214). -/
structure BchPdu where
  mib : List Bool
  extra : List Bool
  cellId : Nat
  l64 : Bool
deriving DecidableEq, Repr

/-- A downlink slot record (DL_SLOT) or UL_DCI record (R380). -/
structure DlSlot where
  len : BitVec 16
  cell : BitVec 16
  sfn : BitVec 16
  slot : Byte
  pdsch : List Pdsch
  /-- PDCCH, SSB and CSI-RS sections. -/
  other : List Section
  /-- DCI and BCH payloads to encode. -/
  dci : List DciPdu
  bch : List BchPdu
  excluded : List Nat
  raw : Bytes
deriving DecidableEq, Repr

/-- A TX_DATA record: TB_ADDR and TB_LEN for each transport block, and the payload fetched (R380). -/
structure TxData where
  len : BitVec 16
  cell : BitVec 16
  sfn : BitVec 16
  slot : Byte
  tbs : List (BitVec 64 × BitVec 32 × Bytes)
  raw : Bytes
deriving DecidableEq, Repr

/-- A U-plane section of a received frame (R293 to R296, R300). -/
structure USection where
  /-- startPrbu, numPrbu (0: every PRB of the carrier) and symInc. -/
  prb : Nat
  nPrb : Nat
  symInc : Nat
  /-- udCompHdr, if carried. -/
  comp : Option Byte
  /-- Each PRB's bytes in BFP form (or 48 bytes of uncompressed IQ for COMP_METH 0). -/
  prbs : List Bytes
deriving DecidableEq, Repr

/-- An eCPRI message of a received frame by field (Tables 13-3 and 13-4). -/
structure EcpriMsg where
  /-- Message type. -/
  typ : Nat
  /-- ecpriPcid, and ecpriSeqid: the sequence number, the E bit and the subsequence. -/
  eaxc : BitVec 16
  seq : Byte
  eBit : Bool
  subSeq : Nat
  filterIndex : Nat
  sfnSlot : Nat
  symbol : Nat
  sections : List USection
deriving DecidableEq, Repr

/-- How the MACsec check of a received frame comes out (R304). -/
inductive MacsecResult where
  | untagged | valid (sci : Nat) (an : Fin 4) (pn : Nat) | notValid | late | noSa
deriving DecidableEq, Repr

/-- A received Ethernet frame as the front end parses it (R292 to R296). -/
structure Frame where
  port : Fin 8
  dst : BitVec 48
  src : BitVec 48
  /-- VLAN tags: TPID and VLAN ID of each. -/
  tags : List (Nat × Nat)
  etherType : BitVec 16
  len : Nat
  fcsGood : Bool
  /-- A PAUSE frame (R288). -/
  pause : Bool
  /-- An uncorrectable FEC codeword fell in it. -/
  fecBad : Bool
  macsec : MacsecResult
  /-- ecpriRevision and the concatenated messages. -/
  revision : Nat
  msgs : List EcpriMsg
deriving DecidableEq, Repr

/-- A stitch message: the 32-byte header of R322 by field, and its data. -/
structure SMsg where
  typ : Byte
  src : BitVec 6
  dst : BitVec 6
  cluster : Fin 4
  tag : BitVec 16
  offset : BitVec 32
  xfer : BitVec 16
  seq : BitVec 16
  arg : BitVec 128
  /-- A reserved field of the header or ARG is not zero (R323). -/
  reservedSet : Bool
  data : Bytes
deriving DecidableEq, Repr

/-- What a carder thread reads for a line (R146, R157): its source, its index, or the words that its first and last bytes share
with bytes of the destination it must keep. -/
inductive CarderRead where
  | source | index | dest
deriving DecidableEq, Repr

/-- How the reads of a carder descriptor go, where memory errors strike (Table 7-10): no error, one error that the re-read mends,
or reads for these lines that stay wrong. -/
inductive SrcError where
  | none | mended (r : CarderRead) | lines (r : CarderRead) (l : List Nat)
deriving DecidableEq, Repr

/-- How the words of a sync object read (R155, R252, R262): right; a parity error that the re-read mends; a parity error, or
a complement mismatch, that persists. -/
inductive SyncError where
  | none | mended | parity | complement
deriving DecidableEq, Repr

/-- A sync request of another chip as the sync agent takes it: the message, and how the words of the object it names read. -/
structure SyncRequest where
  msg : SMsg
  err : SyncError := .none
deriving DecidableEq, Repr

/-- The stream whose symbol goes to the slot store, and the word of its place that meets a parity error when it is read for the
merge, with whether its re-read meets it again (R157). -/
structure StoredStream where
  stream : Nat
  par : Option (Nat × Bool) := none
deriving DecidableEq, Repr

/-- A bias reading of a module (R311): the multiplier of its scale, and the readings of its lanes. -/
structure BiasReading where
  mult : Nat
  lanes : List (BitVec 16)
deriving DecidableEq, Repr

/-- A standby copy (R182): the model slot and the engine. -/
structure StandbyCopy where
  slot : Fin 16
  eng : Fin 16
deriving DecidableEq, Repr

/-- What the link answers to a DMA channel while it moves a descriptor (R356, R357). -/
inductive DmaEvent where
  /-- Every line is delivered. -/
  | all
  /-- The lines before this one are delivered; its translation misses (ATS), a Translation Request is sent. -/
  | miss (line : Nat)
  /-- A host read is answered with an error, twice, at this line (DMA_HOST_ABORT). -/
  | hostError (line : Nat)
  /-- A device read stays unreadable at this line (DMA_DEV_ERROR). -/
  | devError (line : Nat)
  /-- A device read fails parity once at this line, and reads well the second time (R357): everything is delivered. -/
  | reread (line : Nat)
deriving DecidableEq, Repr

/-- Code blocks whose stored HARQ parts meet an uncorrectable ECC error, and the header's own error (R207). -/
structure HarqEcc where
  header : Bool
  cbs : List Nat
deriving DecidableEq, Repr

/-- What a training step produced on the arrays: for each record of its batch, in the order of use, the gradient of each adaptable
weight (FP32); and the order of arrival in which loose mode sums them, as places of that list (R178, R179). -/
structure StepResult where
  grads : List (List (BitVec 32))
  arrival : List Nat
deriving DecidableEq, Repr

/-- What the two receivers of a shadow evaluation produced: for each record of the block in order, the LLRs before narrowing, in
FP32 and in the order of its labels, of the candidate and of the active version (R178, R181). -/
structure EvalResult where
  cand : List (List (BitVec 32))
  active : List (List (BitVec 32))
deriving DecidableEq, Repr

/-- DDR5 population: GiB of each channel; none where a channel is missing (R32). -/
abbrev DdrChannels := List (Option Nat)

/-- The board's flash (R387): the PREFER word, the images of slots A and B (empty: erased) and the certificates. -/
structure Flash where
  prefer : BitVec 32 := 0xA5A50000
  slotA : Bytes := []
  slotB : Bytes := []
  certs : List Bytes := []
deriving DecidableEq, Repr


/-- One constructor per row of the table; the row's own sentence stands over each. -/
inductive Instr where
  /-- NOP (R367): Command that does nothing and completes with a response. -/
  | nop (c : Cmd)
  /-- DEVICE_INFO (R367): Command returning stepping, Busum release, engines in service, DDR5 capacity and start-up state. -/
  | deviceInfo (c : Cmd)
  /-- CERT_GET (R392): Command returning the device certificate chain, with status UNIDENTIFIED if the derived keys differ. -/
  | certGet (c : Cmd)
  /-- ATTEST (R394): Long command that snapshots device state and returns a signed attestation report for a nonce. -/
  | attest (c : Cmd)
  /-- KEY_IMPORT (R396): Command that checks, decapsulates and installs a key blob, or fuses the owner root for USE 0. -/
  | keyImport (c : Cmd)
  /-- FW_STAGE (R389): Long command that verifies a firmware slot image, writes it to the other slot and sets the PREFER word. -/
  | fwStage (c : Cmd)
  /-- MBX_CONFIG (R360): Command that sets the slot-path rings, the response vector and the configuration-report ring. -/
  | mbxConfig (c : Cmd)
  /-- SCHED_CONFIG (R378): Command that applies the scheduling record: mark source, mode, eviction window, accounting, context and staging bases. -/
  | schedConfig (c : Cmd)
  /-- SLOT_CONFIG (R377): Long command that checks and applies cell records, with placement, clamps and a configuration report. -/
  | slotConfig (c : Cmd)
  /-- FH_CONFIG (R367): Command that applies the quad layouts and port settings of the fronthaul. -/
  | fhConfig (c : Cmd)
  /-- SL_CONFIG (R315): Command that sets enable, speed mask and lane limit for each stitch link. -/
  | slConfig (c : Cmd)
  /-- POOL_CONFIG (R378): Command that applies the pool record and returns the spine digest. -/
  | poolConfig (c : Cmd)
  /-- HARQ_CONFIG (R205): Command that sets the HARQ region and the spill areas. -/
  | harqConfig (c : Cmd)
  /-- DMA_CONFIG (R348): Command that configures the rings, vector, class, PASID and page timeout of one host DMA channel. -/
  | dmaConfig (c : Cmd)
  /-- WINDOW_CREATE (R353): Command that creates a device window and returns its number. -/
  | windowCreate (c : Cmd)
  /-- WINDOW_REMOVE (R353): Command that removes a device window once descriptors using it complete. -/
  | windowRemove (c : Cmd)
  /-- MODEL_LOAD (R397): Long command that verifies, decrypts and checks a Ropel package and makes it resident. -/
  | modelLoad (c : Cmd)
  /-- MODEL_UNLOAD (R371): Command that removes a resident model, refused with BAD_STATE while the model is bound to a cell. -/
  | modelUnload (c : Cmd)
  /-- LDPC_TABLE_LOAD (R201): Command that writes an LDPC offset table 1 to 7 into the second copy and returns its digest. -/
  | ldpcTableLoad (c : Cmd)
  /-- PRECODER_LOAD (R191): Long command that loads precoding matrices into a cell's precoding table. -/
  | precoderLoad (c : Cmd)
  /-- ADAPT_CONFIG (R175): Command that checks and applies a model's adaptation parameter block. -/
  | adaptConfig (c : Cmd)
  /-- ADAPT_ROLLBACK (R184): Long command that makes a retained version active, discards any candidate and ends any rollback watch. -/
  | adaptRollback (c : Cmd)
  /-- ADAPT_STATUS (R185): Command returning a model's version table. -/
  | adaptStatus (c : Cmd)
  /-- YARDSTICK_READ (R190): Command returning yardstick heads and rows per cell, clearing the accumulation if asked. -/
  | yardstickRead (c : Cmd)
  /-- QUIRE_STATUS (R244): Command returning the state, consumer, leaf indices and fault code of a quire. -/
  | quireStatus (c : Cmd)
  /-- QUIRE_CANCEL (R245): Command that ends or faults a quire with QUIRE_CANCELLED, or returns NOT_FOUND. -/
  | quireCancel (c : Cmd)
  /-- SHARE_READ (R235): Command returning the consumer account records of the named clusters. -/
  | shareRead (c : Cmd)
  /-- COLOPHON_STORE (R285): Command that configures the batch store, refused while uncollected batches remain. -/
  | colophonStore (c : Cmd)
  /-- COLOPHON_SEAL (R284): Command that seals the open colophon batch, or returns BAD_STATE or NO_SPACE. -/
  | colophonSeal (c : Cmd)
  /-- COLOPHON_COLLECT (R284): Long command that returns sealed batches whose signatures are complete, oldest first. -/
  | colophonCollect (c : Cmd)
  /-- SETUP_READ (R280): Command returning one or all kept setup blocks. -/
  | setupRead (c : Cmd)
  /-- FH_STATS (R313): Command returning the front-end counters of a scope, and clearing them in one operation with CLEAR. -/
  | fhStats (c : Cmd)
  /-- MODULE_READ (R307): Command giving read-only access to CMIS pages of a module cage. -/
  | moduleRead (c : Cmd)
  /-- MODULE_POLICY (R309): Command that sets the quarantine mode, the allow-list and the life fields. -/
  | modulePolicy (c : Cmd)
  /-- MODULE_TABLE (R310): Command that saves or restores the module power-on-hours table. -/
  | moduleTable (c : Cmd)
  /-- SL_STATS (R339): Command returning the stitch counters, and clearing them in one operation with CLEAR. -/
  | slStats (c : Cmd)
  /-- TELEMETRY_READ (R367): Command returning power, junction temperature and throttle step. -/
  | telemetryRead (c : Cmd)
  /-- POWER_STATE (R407): Long command that moves between ACTIVE and STANDBY and sets the host floor step. -/
  | powerState (c : Cmd)
  /-- LONG_COMMAND_LEAF (R369): At a Binder leaf boundary Busum serves slot-path work, events, short commands and then the next leaf of the running long command. -/
  | longCommandLeaf
  /-- UL_SLOT (R380): Uplink slot record read from SPQ, with its checks and the PDUs that the slot will serve. -/
  | ulSlot (r : UlSlot)
  /-- DL_SLOT (R380): Downlink slot record read from SPQ. -/
  | dlSlot (r : DlSlot)
  /-- UL_DCI (R380): UL_DCI record read from SPQ. -/
  | ulDci (r : DlSlot)
  /-- TX_DATA (R380): TX_DATA record read from SPQ, naming the transport-block payload buffers. -/
  | txData (r : TxData)
  /-- MBX_DOORBELL (R362): Write to MBX_DOORBELL reporting the host's producer or consumer count for a ring. -/
  | mbxDoorbell (ring : BitVec 4) (index : BitVec 32)
  /-- MBX_DOORBELL_RESET (R362): Write to MBX_DOORBELL with RESET, which zeroes a ring's counts and latches its base and size. -/
  | mbxDoorbellReset (ring : BitVec 4) (index : BitVec 32)
  /-- SLOT_MARK (R427): Write to the SLOT_MARK doorbell announcing the next slot close of a timing group. -/
  | slotMark (v : BitVec 32)
  /-- DMA_DB_COUNT (R348): Write of a producer count to a host DMA channel's doorbell. -/
  | dmaDbCount (n : Fin 8) (count : BitVec 16)
  /-- DMA_DB_CANCEL (R428): Write of CANCEL to a host DMA channel's doorbell, which ends announced descriptors with DMA_CANCELLED. -/
  | dmaDbCancel (n : Fin 8)
  /-- SEC_LOCK_SET (R424): Write of 1 to SEC_LOCK.LOCK, which locks IDE_REQUIRED, FW_STAGE and owner provisioning. -/
  | secLockSet
  /-- REGISTER_WRITE (R6): Write to a BAR0 register with no behaviour of its own, handled under its access code. -/
  | registerWrite (off : BitVec 21) (val : BitVec 64) (wide : Bool)
  /-- BAR_ACCESS_SIZE (R4): A BAR0 access of the wrong size or alignment: the write is discarded, the read returns ones and the error is recorded. -/
  | barAccessSize (read : Bool) (len : Nat)
  /-- UNSUPPORTED_REQ (R343): A request to a BAR offset with no register completes as Unsupported Request. -/
  | unsupportedReq (read : Bool)
  /-- SCALAR_ARITH (R114): Scalar arithmetic instruction, including LI and LIH, on 64-bit registers. -/
  | scalarArith (core : Fin 8) (op : BitVec 6) (rd ra rb : Fin 64) (im : Bool) (imm : BitVec 32)
  /-- LDS (R114): Scalar load of 8 bytes from the core address map. -/
  | lds (core : Fin 8) (rd ra : Fin 64) (imm : BitVec 32) (par : Option Nat)
  /-- STS (R114): Scalar store of 8 bytes to the core address map. -/
  | sts (core : Fin 8) (ra rb : Fin 64) (imm : BitVec 32)
  /-- MOVA (R132): Move of a scalar into an address register, refused if it places a circular register outside its ring. -/
  | mova (core : Fin 8) (rd ra : Fin 64)
  /-- MOVSA (R114): Move of an address register into a scalar register. -/
  | movsa (core : Fin 8) (rd ra : Fin 64)
  /-- MOVSB (R132): Read of a ring base or length into a scalar register. -/
  | movsb (core : Fin 8) (rd rb : Fin 64)
  /-- MOVBS (R132): Privileged write of a ring base or length, refused in a leaf with SEQ_PRIVILEGE. -/
  | movbs (core : Fin 8) (rd ra : Fin 64)
  /-- BRANCH (R129): B, BEQ, BNE, BLT or BGE on scalar registers with a word offset. -/
  | branch (core : Fin 8) (op : BitVec 6) (ra rb : Fin 64) (imm : BitVec 32)
  /-- DLOOP (R129): Hardware loop with ring rotation, prologue and drain suppression, and repeat-cache capture. -/
  | dloop (core : Fin 8) (ra : Fin 64) (imm : BitVec 32) (bodyWords : Nat)
  /-- SIG (R119): Sync instruction that is held until its leaf ends and its check barriers clear, then released in issue order. -/
  | sig (core : Fin 8) (ra : Fin 64) (imm : BitVec 32)
  /-- TAKE (R255): Conditional decrement of a sync object, writing a status word to RD when the outcome arrives. -/
  | take (core : Fin 8) (rd ra : Fin 64) (imm : BitVec 32) (err : SyncError)
  /-- WAIT (R256): Take that monitors and retries on EMPTY, closing its leaf first if it holds unreleased SIGs. -/
  | wait (core : Fin 8) (rd ra : Fin 64) (imm : BitVec 32) (err : SyncError)
  /-- REMOTE_WAIT (R263): WAIT on another chip's object, which closes the leaf, registers at the owner and spins on the grant object. -/
  | remoteWait (core : Fin 8) (rd ra : Fin 64) (imm : BitVec 32)
  /-- LEAF_END (R119): End of a leaf after engine work, check barriers and TAKE outcomes, releasing held SIGs. -/
  | leafEnd (core : Fin 8) (cycles : Nat) (last : Bool) (live : List Extent)
  /-- ARRAY_MODE (R65): Sets the array operation mode, formats, conjugation, comparison and check tolerance, and invalidates the tile. -/
  | arrayMode (core : Fin 8) (eng : Bool) (sa : Fin 64)
  /-- ARRAY_LOAD (R66): Loads a weight tile and its checksum column in 256 array cycles. -/
  | arrayLoad (core : Fin 8) (eng : Bool) (sa : Fin 64) (par : Option Nat)
  /-- ARRAY_STREAM (R69): Streams vectors through the tile with checksum half-vectors, writing result rows to the accumulator store. -/
  | arrayStream (core : Fin 8) (eng : Bool) (sa : Fin 64) (par : Option Nat)
  /-- ARRAY_DRAIN (R74): Reads accumulator rows, converts them and writes them to the scratchpad, then clears the rows as asked. -/
  | arrayDrain (core : Fin 8) (eng : Bool) (sa : Fin 64) (par : Option Nat)
  /-- CHAIN (R96): Fused vector chain over load streams, stage descriptors, a store or a reduction. -/
  | chain (core : Fin 8) (eng : Bool) (sa : Fin 64) (mask : Fin 8) (mz : Bool) (stages : List (BitVec 64)) (par : Option Nat)
  /-- VLD (R451): Register-mode vector load of 64 elements at a byte stride. -/
  | vld (core : Fin 8) (eng : Bool) (sa : Fin 64) (reg : Byte) (mask : Fin 8) (w : BitVec 64) (par : Option Nat)
  /-- VST (R451): Register-mode vector store of 64 elements at a byte stride. -/
  | vst (core : Fin 8) (eng : Bool) (sa : Fin 64) (reg : Byte) (mask : Fin 8) (w : BitVec 64) (par : Option Nat)
  /-- ACTLD (R108): Loads an activation table from the scratchpad after checking its breakpoints. -/
  | actld (core : Fin 8) (eng : Bool) (sa : Fin 64) (table : Fin 4) (par : Option Nat)
  /-- ACT (R109): Evaluates an activation function through a loaded cubic table. -/
  | act (core : Fin 8) (eng : Bool) (reg : Byte) (mask : Fin 8) (mz : Bool) (w : BitVec 64)
  /-- VEC_INT_ARITH (R449): Vector integer arithmetic instruction on INT32 lanes. -/
  | vecIntArith (core : Fin 8) (eng : Bool) (reg : Byte) (mask : Fin 8) (mz : Bool) (w : BitVec 64)
  /-- VEC_LOGIC (R93): Vector bitwise logic instruction. -/
  | vecLogic (core : Fin 8) (eng : Bool) (reg : Byte) (mask : Fin 8) (mz : Bool) (w : BitVec 64)
  /-- VEC_FLOAT_ARITH (R449): Vector FP32 arithmetic instruction with a single rounding. -/
  | vecFloatArith (core : Fin 8) (eng : Bool) (reg : Byte) (mask : Fin 8) (mz : Bool) (w : BitVec 64)
  /-- VEC_FDIV_ROOT (R93): Vector FDIV, FSQRT or FRSQRT, correctly rounded. -/
  | vecFdivRoot (core : Fin 8) (eng : Bool) (reg : Byte) (mask : Fin 8) (mz : Bool) (w : BitVec 64)
  /-- VEC_COMPLEX_ARITH (R449): Vector complex arithmetic on CI16 or CF16 lanes. -/
  | vecComplexArith (core : Fin 8) (eng : Bool) (reg : Byte) (mask : Fin 8) (mz : Bool) (w : BitVec 64)
  /-- CMP (R93): Vector compare writing a mask register. -/
  | cmp (core : Fin 8) (eng : Bool) (reg : Byte) (mask : Fin 8) (mz : Bool) (w : BitVec 64)
  /-- SEL (R93): Vector select of each lane from one of two sources by a mask. -/
  | sel (core : Fin 8) (eng : Bool) (reg : Byte) (mask : Fin 8) (mz : Bool) (w : BitVec 64)
  /-- CVT (R60): Vector conversion between register formats. -/
  | cvt (core : Fin 8) (eng : Bool) (reg : Byte) (mask : Fin 8) (mz : Bool) (w : BitVec 64)
  /-- PERM (R104): Vector permute by index elements over two sources. -/
  | perm (core : Fin 8) (eng : Bool) (reg : Byte) (mask : Fin 8) (mz : Bool) (w : BitVec 64)
  /-- SHUF (R105): Vector shuffle by a fixed pattern. -/
  | shuf (core : Fin 8) (eng : Bool) (reg : Byte) (mask : Fin 8) (mz : Bool) (w : BitVec 64)
  /-- PACKC (R106): Packs real and imaginary lanes into complex lanes with narrowing. -/
  | packc (core : Fin 8) (eng : Bool) (reg : Byte) (mask : Fin 8) (mz : Bool) (w : BitVec 64)
  /-- UNPACKC (R106): Widens complex lanes into two real destinations. -/
  | unpackc (core : Fin 8) (eng : Bool) (reg : Byte) (mask : Fin 8) (mz : Bool) (w : BitVec 64)
  /-- RED (R102): Register-mode reduction in a fixed tree order. -/
  | red (core : Fin 8) (eng : Bool) (reg : Byte) (mask : Fin 8) (mz : Bool) (w : BitVec 64)
  /-- MASK_OP (R93): Mask instruction: logic on masks, population count, first set lane, or a move between a mask and a scalar. -/
  | maskOp (core : Fin 8) (eng : Bool) (reg : Byte) (mask : Fin 8) (mz : Bool) (w : BitVec 64)
  /-- INS (R93): Inserts a scalar into one vector lane. -/
  | ins (core : Fin 8) (eng : Bool) (reg : Byte) (mask : Fin 8) (mz : Bool) (w : BitVec 64)
  /-- EXT (R95): Extracts one vector lane into a scalar register, which is interlocked until written. -/
  | ext (core : Fin 8) (eng : Bool) (reg : Byte) (mask : Fin 8) (mz : Bool) (w : BitVec 64)
  /-- CMAC (R124): DSP complex multiply-accumulate into a register's two halves. -/
  | cmac (core : Fin 8) (w0 w1 : BitVec 64) (par : Option Nat)
  /-- CMACC (R123): DSP complex multiply-accumulate by the conjugate. -/
  | cmacc (core : Fin 8) (w0 w1 : BitVec 64) (par : Option Nat)
  /-- CMUL (R123): DSP complex multiply, or multiply by the conjugate, that writes in place of adding. -/
  | cmul (core : Fin 8) (w0 w1 : BitVec 64) (par : Option Nat)
  /-- DMAC (R123): DSP dual 16-bit multiply-accumulate. -/
  | dmac (core : Fin 8) (w0 w1 : BitVec 64) (par : Option Nat)
  /-- DMUL (R123): DSP dual 16-bit multiply that writes its result. -/
  | dmul (core : Fin 8) (w0 w1 : BitVec 64) (par : Option Nat)
  /-- CMAG2 (R123): DSP complex squared magnitude. -/
  | cmag2 (core : Fin 8) (w0 w1 : BitVec 64) (par : Option Nat)
  /-- DSP_HALF_ARITH (R123): DSP add, subtract, min, max, abs, negate or shift on halves, or 64-bit add and subtract. -/
  | dspHalfArith (core : Fin 8) (w0 w1 : BitVec 64) (par : Option Nat)
  /-- DSP_LOGIC (R123): DSP 64-bit AND, OR or XOR. -/
  | dspLogic (core : Fin 8) (w0 w1 : BitVec 64) (par : Option Nat)
  /-- PACK (R123): DSP narrowing of two halves to a CI16 value. -/
  | pack (core : Fin 8) (w0 w1 : BitVec 64) (par : Option Nat)
  /-- UNPACK (R123): DSP widening of a CI16 value to two INT32 halves. -/
  | unpack (core : Fin 8) (w0 w1 : BitVec 64) (par : Option Nat)
  /-- MOV (R123): DSP register move, or MOVI of an immediate. -/
  | mov (core : Fin 8) (w0 w1 : BitVec 64) (par : Option Nat)
  /-- MOVSD (R123): Move of a scalar register into a DSP register. -/
  | movsd (core : Fin 8) (w0 w1 : BitVec 64) (par : Option Nat)
  /-- MOVDS (R123): Move of a DSP register into an interlocked scalar register. -/
  | movds (core : Fin 8) (w0 w1 : BitVec 64) (par : Option Nat)
  /-- DCLR (R123): Clears DSP registers d64 to d127. -/
  | dclr (core : Fin 8) (w0 w1 : BitVec 64) (par : Option Nat)
  /-- RETI (R134): Return from an interrupt handler to the leaf in 4 DSP cycles. -/
  | reti (core : Fin 8)
  /-- PREEMPT (R241): Pre-emption interrupt taken in a remote wait: the wait record is written and the quire is suspended. -/
  | preempt (core : Fin 8)
  /-- OVERRUN (R133): Interrupt at 2,500 array cycles of a leaf, which records the overrun and lets the leaf run on. -/
  | overrun (core : Fin 8)
  /-- LEAF_TIMEOUT (R223): A leaf reaches 25,000 array cycles outside local waits and faults its quire. -/
  | leafTimeout (core : Fin 8)
  /-- CHECK_MISMATCH (R85): A row, column, duplicate, parity or adder check fails: the leaf stops and an array error record is written. -/
  | checkMismatch (e : Fin 16) (kind : Fin 5) (column : BitVec 16) (vector : BitVec 32) (expected observed : BitVec 64) (bound cycle : BitVec 32)
  /-- QUIRE_START (R230): A READY quire obtains all of its grants and sync objects, reads its configuration and becomes dispatchable. -/
  | quireStart (tag : BitVec 16) (p : Prog)
  /-- LEAF_DISPATCH (R227): At a core boundary or idle core the scheduler chooses and starts the next leaf by class, share and deadline. -/
  | leafDispatch (core : Fin 8)
  /-- RESHARD (R169): After a phase's last leaves the re-shard moves outputs between scratchpads over the cluster fabric. -/
  | reshard (tag : BitVec 16) (hit : Bool) (word : Nat) (again : Bool)
  /-- EVICTION_WINDOW_OPEN (R236): Before an expected slot close the scheduler marks overlapping best-effort quires for eviction. -/
  | evictionWindowOpen (k : Fin 4) (cell : Fin 64) (close : Nat)
  /-- CONTEXT_SAVE (R238): The control part and live extents of a suspended quire are written to DDR5. -/
  | contextSave (tag : BitVec 16) (parityBad : Bool)
  /-- CONTEXT_SAVE_DONE (R237): Completion of an eviction save lets a waiting slot-reception's first leaf start. -/
  | contextSaveDone (k : Fin 4)
  /-- FULL_QUIRE_SAVE (R239): A FULL quire on a cluster gaining a cell is saved at its next boundary before the placement takes effect. -/
  | fullQuireSave (tag : BitVec 16)
  /-- CONTEXT_RESTORE (R243): A saved quire's context is checked and written back, with the rest of its windows zeroed. -/
  | contextRestore (tag : BitVec 16) (eccBad : Bool)
  /-- QUIRE_TIMEOUT (R248): An LC quire live 500 µs past its deadline, or a BE quire in one local WAIT for 100 ms, faults. -/
  | quireTimeout (tag : BitVec 16)
  /-- ACCOUNT_WINDOW_END (R234): At the end of an accounting window the counts pass to the read-back and restart. -/
  | accountWindowEnd (k : Fin 4)
  /-- OBJECT_HOLD_EXPIRY (R261): A released or felled object index becomes assignable after 1,000 µs once its monitors have ended. -/
  | objectHoldExpiry (k : Fin 4) (idx : BitVec 15)
  /-- SLOT_DEADLINE (R225): A cluster counter reaches a slot-reception's deadline and the late handling starts. -/
  | slotDeadline (tag : BitVec 16)
  /-- SIG_APPLY (R254): A released SIG reaches its object and adds to COUNT, unless the object is felled, stale or would overflow. -/
  | sigApply (core : Fin 8) (err : SyncError)
  /-- WAIT_EXPIRED (R256): A WAIT's LIMIT runs out and it returns EXPIRED, sending a cancellation for a remote wait. -/
  | waitExpired (core : Fin 8)
  /-- REGISTRATION_RETRY (R263): After BUSY the waiter's core resends its registration every 2 µs. -/
  | registrationRetry (core : Fin 8)
  /-- FRAME_RECEIVE (R292): A fronthaul frame is received and checked for framing, MACsec, eCPRI and O-RAN before its sections are held. -/
  | frameReceive (f : Frame)
  /-- SLOT_STORE_FORWARD (R150): A completed stream-symbol is written to the slot store once the ring has been released. -/
  | slotStoreForward (cell : Fin 64) (sfnSlot symbol : Nat) (x : StoredStream)
  /-- QUIRE_RELEASE (R302): The front end releases a slot-reception quire to its home cluster with the age of the slot close. -/
  | quireRelease (cell : Fin 64) (sfnSlot : Nat) (age : Fin 101)
  /-- RECEPTION_WINDOW_END (R18): An uplink reception window closes, writing incomplete stream-symbols with zero PRBs. -/
  | receptionWindowEnd (cell : Fin 64) (sfnSlot symbol : Nat)
  /-- CPLANE_WINDOW_OPEN (R299): At a slot's first C-plane window the front end looks up the slot record and sends C-plane, or counts the record late. -/
  | cplaneWindowOpen (cell : Fin 64) (downlink : Bool)
  /-- DL_TX_WINDOW_OPEN (R25): A downlink symbol's transmission window opens and the held U-plane message is sent. -/
  | dlTxWindowOpen (cell : Fin 64) (sfnSlot symbol : Nat)
  /-- DL_TX_WINDOW_CLOSE (R25): A downlink window closes with its message not ready, so the message is discarded and counted late. -/
  | dlTxWindowClose (cell : Fin 64) (sfnSlot symbol : Nat)
  /-- PRACH_WINDOW_END (R216): A PRACH occasion's reception window ends: missing sections are zeroed and the occasion quire is triggered. -/
  | prachWindowEnd (cell : Fin 64) (sfnSlot pdu : Nat)
  /-- PORT_UP (R289): A port's PCS holds alignment with FEC lock for 100 ms, and the port is up. -/
  | portUp (p : Fin 8) (peer : BitVec 3)
  /-- PORT_DOWN (R290): A port loses alignment and its cells stop receiving and transmitting. -/
  | portDown (p : Fin 8)
  /-- MODULE_INSERT (R308): A module becomes present in a cage. -/
  | moduleInsert (cage : Fin 8)
  /-- MODULE_IDENTIFY (R308): A module reaches ModuleReady and its identity pages are read and checked. -/
  | moduleIdentify (cage : Fin 8) (lower upper : Bytes)
  /-- MODULE_READY_TIMEOUT (R308): A module that does not answer within 2 s is unidentified. -/
  | moduleReadyTimeout (cage : Fin 8)
  /-- MODULE_EVALUATE (R309): Present modules are re-evaluated against the allow-list and quarantined or brought up. -/
  | moduleEvaluate
  /-- BIAS_SAMPLE (R311): The transmit bias of every lane in use is read once per second. -/
  | biasSample (cage : Fin 8) (bias : BiasReading)
  /-- LIFE_UPDATE (R312): The hourly mean, drift and remaining life are recomputed, raising MODULE_LIFE if low. -/
  | lifeUpdate (cage : Fin 8)
  /-- POWER_ON_MINUTE (R310): A module's power-on hours advance by a minute while it is in ModuleReady. -/
  | powerOnMinute (cage : Fin 8)
  /-- MODULE_FLAG (R312): A CMIS alarm or warning flag is passed to the host. -/
  | moduleFlag (cage : Fin 8) (flags : Byte)
  /-- MKA_KEY_DISTRIBUTE (R305): A new secure association key is distributed and the transmit side moves to it at a frame boundary. -/
  | mkaKeyDistribute (p : Fin 8) (sci : Nat) (an : Fin 4)
  /-- SA_RETIRE (R305): The old receive association is no longer accepted 1 s after the first valid frame under the new one. -/
  | saRetire (p : Fin 8)
  /-- LLR_COMBINE (R198): The coding subsystem descrambles, de-interleaves, de-rate-matches and combines a PUSCH's LLRs. -/
  | llrCombine (tag : BitVec 16) (pdu : Nat) (at_ : Nat) (ecc : HarqEcc)
  /-- LLR_SPILL (R199): A cluster's LLR ring over three quarters full has its oldest code blocks spilled to DDR5. -/
  | llrSpill (k : Fin 4)
  /-- CODE_BLOCK_DECODE (R200): A decoder runs layered offset min-sum on one code block. -/
  | codeBlockDecode (tag : BitVec 16) (pdu cb : Nat) (eccBad : Bool)
  /-- CODE_BLOCK_WRITEBACK (R208): A code block's bit part or LLR part is written back to its HARQ buffer. -/
  | codeBlockWriteback (tag : BitVec 16) (pdu cb : Nat)
  /-- HARQ_HEADER_WRITE (R208): After every code-block write-back is accepted, the buffer header is written last. -/
  | harqHeaderWrite (tag : BitVec 16) (pdu : Nat)
  /-- TB_CRC_CHECK (R210): A CRC unit checks the transport-block CRC as the code blocks are assembled. -/
  | tbCrcCheck (tag : BitVec 16) (pdu : Nat)
  /-- POLAR_DECODE (R211): The polar unit list-decodes a UCI part and checks its CRC. -/
  | polarDecode (tag : BitVec 16) (part : Nat) (at_ : Nat)
  /-- SMALL_BLOCK_DECODE (R212): The polar unit decodes a small UCI part by maximum likelihood with DTX detection. -/
  | smallBlockDecode (tag : BitVec 16) (part : Nat) (at_ : Nat)
  /-- DL_ENCODE (R214): DL-SCH, DCI or BCH encoding of a code block for the downlink. -/
  | dlEncode (tag : BitVec 16) (pdu : Nat)
  /-- LABEL_ENCODE (R215): Best-effort re-encoding of a passed transport block into training labels. -/
  | labelEncode (tag : BitVec 16) (pdu : Nat)
  /-- PRACH_CORRELATION (R220): A correlation pipe computes one root, stream and repetition of the power-delay profile. -/
  | prachCorrelation (tag : BitVec 16) (root stream rep : Nat)
  /-- RESULT_POSTING (R20): Payloads, records and the producer index of a slot-reception are posted, followed by MSI-X. -/
  | resultPosting (tag : BitVec 16)
  /-- COLOPHON_FINALISE (R283): The colophon digest is formed and the record is appended to the open batch. -/
  | colophonFinalise (tag : BitVec 16)
  /-- SEAL_COMPLETE (R284): The batch signature completes and the batch enters the store. -/
  | sealComplete
  /-- TRAINING_STEP (R178): An adaptation step batch trains the adaptable layers on a batch of training records. -/
  | trainingStep (slot : Fin 16) (r : StepResult)
  /-- SHADOW_EVALUATION (R181): A candidate and the active version are evaluated, and the candidate is staged or rejected. -/
  | shadowEvaluation (slot : Fin 16) (r : EvalResult)
  /-- CANDIDATE_STAGING (R182): The candidate's image is written into the standby copies on every engine that holds the model. -/
  | candidateStaging (copy : StandbyCopy)
  /-- AUTO_ROLLBACK (R183): After RB_WINDOW slot-receptions the failure count is compared, rolling the version back if worse. -/
  | autoRollback (slot : Fin 16)
  /-- YARDSTICK_MEASURE (R189): A stored sample is measured by the classical or bound receiver and accumulated. -/
  | yardstickMeasure (cell : Fin 64) (tag : BitVec 16)
  /-- YARDSTICK_EXPIRY (R186): A sample not measured within YARD_EXPIRY is dropped and counted. -/
  | yardstickExpiry (cell : Fin 64)
  /-- LINK_TRAINED (R315): A stitch link's PCS holds alignment for 1 ms and HELLO is sent. -/
  | linkTrained (l : Fin 4) (slow fast : BitVec 4)
  /-- HELLO (R315): HELLO message from the peer, which brings the link up or marks it MISWIRED. -/
  | hello (l : Fin 4) (chip : BitVec 6) (poolId : BitVec 64) (topology : BitVec 2) (link : BitVec 2)
  /-- HELLO_RETRY (R315): A MISWIRED link retries HELLO every 100 ms. -/
  | helloRetry (l : Fin 4)
  /-- FLIT_RECEIVE (R316): A flit is received and checked, and its credits and acknowledgements are taken. -/
  | flitReceive (l : Fin 4) (flit : Bytes) (fec : Fin 3)
  /-- REPLAY_TIMEOUT (R318): 4 µs without acknowledgement makes the sender replay, and 8 replays without progress retrain the link. -/
  | replayTimeout (l : Fin 4)
  /-- LINK_HOLD_EXPIRY (R318): A retraining link not up within 1 ms goes DOWN, its buffered flits are dropped and routes change. -/
  | linkHoldExpiry (l : Fin 4)
  /-- CHIP_LOST (R321): A member unreachable for 100 µs is declared lost, with waits, multicasts and transfers to it ended. -/
  | chipLost (chip : Fin 64)
  /-- CHIP_FOUND (R321): A lost member becomes reachable again. -/
  | chipFound (chip : Fin 64)
  /-- WRITE (R326): WRITE message into a live quire's quire-data window. -/
  | write (m : SMsg) (par : Fin 3)
  /-- MCAST (R326): MCAST message into the pool window. -/
  | mcast (m : SMsg) (par : Fin 3)
  /-- SUM (R271): SUM message adding or staging a contribution into a sum group. -/
  | sum (m : SMsg) (par : Fin 3)
  /-- JR (R332): JR message accepted into the armed half of a joint-reception area. -/
  | jr (m : SMsg) (par : Fin 3)
  /-- READ_REQ (R452): READ_REQ message asking the source to resend the rest of a transfer by unicast. -/
  | readReq (m : SMsg)
  /-- PROGRESS (R325): PROGRESS message reporting wire bytes received in order. -/
  | progress (m : SMsg)
  /-- COMPLETE (R325): COMPLETE message, and the completion object counts once every target has completed. -/
  | complete (m : SMsg)
  /-- CUT (R330): CUT message making a multicast target fetch the rest by unicast. -/
  | cut (m : SMsg)
  /-- SYNC_SIG (R328): Remote SIG message applied at the destination object. -/
  | syncSig (r : SyncRequest)
  /-- SYNC_TAKE (R255): Remote TAKE message answered with a SYNC_REPLY. -/
  | syncTake (r : SyncRequest)
  /-- SYNC_REPLY (R263): Reply carrying a remote TAKE outcome or a BUSY refusal of a registration. -/
  | syncReply (m : SMsg)
  /-- SYNC_REG (R263): Registration of a remote wait, kept in order or refused with BUSY. -/
  | syncReg (r : SyncRequest)
  /-- SYNC_CANCEL (R264): Cancellation that removes a remote registration that has not yet succeeded. -/
  | syncCancel (m : SMsg)
  /-- SPINE (R338): SPINE message compared with this chip's epoch and digest, allowing or blocking joint reception. -/
  | spine (m : SMsg)
  /-- STITCH_DESCRIPTOR (R325): A stitch queue checks a transfer descriptor and sends its messages. -/
  | stitchDescriptor (q : Fin 32)
  /-- XFER_LOST (R325): A WRITE or SUM without progress for 200 µs on an up route fails with STITCH_XFER_LOST. -/
  | xferLost (num : BitVec 16)
  /-- SPINE_RECOMPUTE (R337): The spine digest is recomputed within 1 ms of a configuration change. -/
  | spineRecompute
  /-- SPINE_ROUND (R337): Every SPINE_PERIOD the chip sends SPINE to every reachable member. -/
  | spineRound
  /-- SPINE_MISSING (R338): No SPINE from a reachable member for 3 periods blocks joint reception. -/
  | spineMissing (chip : Fin 64)
  /-- JR_CUTOFF (R333): At slot close plus JR_CUTOFF, WAITs on the ready object end EXPIRED in loose mode. -/
  | jrCutoff (cell : Fin 64) (sfnSlot : Nat)
  /-- CARDER_DESCRIPTOR (R146): A carder thread takes, checks and runs the next launched descriptor. -/
  | carderDescriptor (k : Fin 4) (t : Fin 8) (err : SrcError)
  /-- CARDER_DONE (R145): A carder descriptor's last byte is written and DONE_N is added to its completion object. -/
  | carderDone (k : Fin 4) (t : Fin 8)
  /-- DMA_DESCRIPTOR (R352): A DMA channel checks a descriptor and moves its stream. -/
  | dmaDescriptor (ch : Fin 16) (desc : Bytes) (host : Bytes) (ev : DmaEvent)
  /-- DMA_READ_BACK (R354): The read-back of the last destination returns and the completion entry and MSI-X are written. -/
  | dmaReadBack (ch : Fin 16) (ok : Bool)
  /-- PAGE_RESPONSE (R356): A page response restarts the parked line or ends the descriptor with DMA_PAGE. -/
  | pageResponse (ch : Fin 16) (success : Bool) (host : Bytes) (ev : DmaEvent)
  /-- PAGE_TIMEOUT (R356): No page response within PAGE_TIMEOUT ends the descriptor with DMA_PAGE_TIMEOUT. -/
  | pageTimeout (ch : Fin 16)
  /-- CPL_TIMEOUT (R357): A request of the Yilon gets no completion within the completion timeout. -/
  | cplTimeout (ch : Option (Fin 16))
  /-- ATS_INVALIDATION (R358): An ATS invalidation request is taken after the lines already issued. -/
  | atsInvalidation (malformed : Bool)
  /-- POISONED_RX (R346): A poisoned TLP or error completion is received and recorded. -/
  | poisonedRx (ch : Option (Fin 16)) (again : Bool)
  /-- LINK_DOWN (R358): The PCIe link leaves L0 other than through Recovery: every channel stops and host rings are cleared. -/
  | linkDown
  /-- HOT_RESET (R414): PCIe hot reset clears the host-side state while the radio side keeps running. -/
  | hotReset
  /-- FUNCTION_LEVEL_RESET (R358): Function Level Reset acts as link down and clears the HOST-level state. -/
  | functionLevelReset
  /-- IDE_STREAM_INSECURE (R345): IDE stream 0 leaves Secure while IDE_REQUIRED is set and the channels stop. -/
  | ideStreamInsecure
  /-- D3HOT_ENTRY (R408): Entry to D3hot unplaces cells, cancels quires, finishes DMA and enters AON. -/
  | d3hotEntry
  /-- D0_RETURN (R406): A write of D0 returns the device from AON with no cell placed. -/
  | d0Return
  /-- GET_VERSION (R393): SPDM GET_VERSION request over DOE. -/
  | getVersion
  /-- GET_CAPABILITIES (R393): SPDM GET_CAPABILITIES request. -/
  | getCapabilities
  /-- NEGOTIATE_ALGORITHMS (R393): SPDM NEGOTIATE_ALGORITHMS request, refused unless ML-DSA-65 or ML-KEM-768 is offered. -/
  | negotiateAlgorithms (mldsa mlkem : Bool)
  /-- GET_DIGESTS (R393): SPDM GET_DIGESTS request. -/
  | getDigests
  /-- GET_CERTIFICATE (R393): SPDM GET_CERTIFICATE request for slot 0. -/
  | getCertificate (slot off len : Nat)
  /-- CHALLENGE (R393): SPDM CHALLENGE request. -/
  | challenge (slot : Nat) (nonce : Bytes)
  /-- GET_MEASUREMENTS (R393): SPDM GET_MEASUREMENTS request returning the ROM, firmware and fuse blocks. -/
  | getMeasurements (index : Nat) (nonce : Bytes)
  /-- KEY_EXCHANGE (R393): SPDM KEY_EXCHANGE request. -/
  | keyExchange (reqSession : BitVec 16) (kem : Bytes)
  /-- FINISH (R393): SPDM FINISH request. -/
  | finish (hmac : Bytes)
  /-- END_SESSION (R393): SPDM END_SESSION request. -/
  | endSession
  /-- IDE_KM (R345): IDE_KM message inside an SPDM session that programs IDE stream keys. -/
  | ideKm (stream : Fin 2) (go : Bool)
  /-- POWER_ON_RESET (R413): Power-good rises: a POWER-ON reset that clears everything, the AON counters included. -/
  | powerOnReset
  /-- PERST (R413): PERST# is asserted and the device takes a COLD reset. -/
  | perst
  /-- PERST_DEASSERT (R415): PERST# is deasserted and the PLLs and the boot ROM start. -/
  | perstDeassert (ddr : DdrChannels) (flash : Option Flash)
  /-- FIRMWARE_INIT (R415): Busum derives and compares the keys, advances the fuses, tests the engines and reaches READY. -/
  | firmwareInit (engineFails : BitVec 16)
  /-- WATCHDOG (R413): 1 s without a watchdog restart triggers a COLD reset. -/
  | watchdog
  /-- THERMAL_TRIP (R411): A sensor reaching 115 °C triggers a COLD reset that is held while hot. -/
  | thermalTrip
  /-- THERMAL_TRIP_RELEASE (R411): The trip reset ends when every sensor reads 95 °C or less. -/
  | thermalTripRelease
  /-- EXTEST (R401): Selecting EXTEST on the JTAG port forces a cold reset and erases the keys. -/
  | extest
  /-- FIRMWARE_FATAL (R413): Busum detects an unrecoverable error and takes a COLD reset. -/
  | firmwareFatal
  /-- THERMAL_SENSE (R410): On-die sensor readings make the THERMAL cause ask for, or stop asking for, a slower step. -/
  | thermalSense (t : Vector (BitVec 8) 8)
  /-- POWER_WINDOW_END (R410): The mean power over a 1 ms window is compared with the POWER limits. -/
  | powerWindowEnd (mean : BitVec 16)
  /-- IMON_SAMPLE (R445): The core current is sampled every 1 µs, and two samples over 66 A make CURRENT ask. -/
  | imonSample (milliamp : Nat)
  /-- THROTTLE_HOLD_EXPIRY (R410): A cause's step-up condition has held for 10 ms, so it stops asking. -/
  | throttleHoldExpiry (cause : Fin 3)
  /-- THROTTLE_STEP_CHANGE (R409): Every throttled domain switches divisor together and the THROTTLE event is raised. -/
  | throttleStepChange
  /-- DOMAIN_GATE (R405): A domain with no work for 64 of its cycles is gated. -/
  | domainGate (d : Fin 244)
  /-- PLL_STANDBY (R405): A PLL whose domains have all been gated for 1 ms enters standby where the state permits. -/
  | pllStandby (p : Fin 4)
  /-- DOMAIN_WAKE (R37): An access to a stopped domain wakes it and waits for the wake time. -/
  | domainWake (d : Fin 244)
  /-- SLOT_MARK_IN (R444): A debounced edge on SLOT_MARK_IN is taken as a slot mark. -/
  | slotMarkIn
  /-- MARK_LOST (R226): 10 ms without a mark for a timing group with cells raises MARK_LOST. -/
  | markLost (group : Fin 16)
  /-- EVQ_OVERFLOW (R365): When EVQ space returns, one event carrying the count of dropped events is written. -/
  | evqOverflow
  /-- MODULE_REMOVE (R308): A module leaves its cage: presence drops, its power-on hours stop and its table entry starts to age as absent. -/
  | moduleRemove (cage : Fin 8)
  /-- PWR_GOOD_FALL (R441): PWR_GOOD falls and the whole device, the AON domain included, is held in reset until the next rise. -/
  | pwrGoodFall
  /-- EXTEST_EXIT (R401): The TAP leaves EXTEST and the device comes out of the reset that EXTEST imposed. -/
  | extestExit
  /-- PCIE_LINK_TRAINED (R346): The PCIe link reaches L0, LINK_STATE is updated, and LINK_DEGRADED is set if the link trained below 32.0 GT/s or below x16. -/
  | pcieLinkTrained (speed : BitVec 3) (width : BitVec 5)
  /-- MSIX_VECTOR_UNMASK (R344): The host unmasks an MSI-X vector in BAR2, and a pending message for it is sent once. -/
  | msixVectorUnmask (v : Fin 64)
  /-- UNKNOWN_TYPE_RECORD (R364): A CMDQ or SPQ record whose TYPE is unknown, or whose header fails its checks, is answered with BAD_COMMAND or SLOT_ERROR, or halts the ring. -/
  | unknownTypeRecord (spq : Bool) (check1 : Bool) (typ : Byte) (tag : BitVec 16) (len : BitVec 16)
  /-- PAD_RECORD (R361): A PAD record read from CMDQ or SPQ consumes the ring up to its end. -/
  | padRecord (spq : Bool) (len : BitVec 16)
  /-- JR_AREA_DEADLINE (R332): A slot's deadline passes with no quire for it, so the JR half is released and its ready object set to 0. -/
  | jrAreaDeadline (cell : Fin 64) (sfnSlot : Nat)
  /-- TRANSLATION_COMPLETION (R356): A Translation Completion reaches a channel waiting on an ATS miss, and the channel either issues the line or parks and sends a page request. -/
  | translationCompletion (ch : Fin 16) (lacks : List Nat) (host : Bytes) (ev : DmaEvent)
deriving DecidableEq, Repr

end Sys2Proof
end

