-- ==== Sys2Proof/Config.lean ====
section
/-!
DEFINITION. What an implementation fixes and the manual does not give: the free values. Each is a constant without a
body, so no proof can see it; the log entries name them.
-/

namespace Sys2Proof.Config
open Sys2Proof

/-- A free value: the `n`-th drawn, as a number to be cut to the width it is wanted in. -/
opaque fresh : Nat → Nat

/-- The PDU index of a SLOT_ERROR that names no PDU (R381 gives none). -/
opaque noPdu : Nat

/-! ### What a package's sections say where the manual gives no layout byte by byte (DESIGN CHOICE, log entry 30) -/

/-- A layer entry of an image (R161): number, phase, OPMODE, XFMT, WFMT and CONJ, the offset and length of its weights in its
weights section in bytes, its MAC count, and the adaptation fields (the limits in FP32). -/
structure Layer where
  number : Nat
  phase : Nat
  op : Nat
  xfmt : Nat
  wfmt : Nat
  conj : Bool
  wOff : Nat
  wLen : Nat
  macs : Nat
  adaptable : Bool
  driftLimit : Nat
  lrScale : Nat
deriving DecidableEq, Repr, Inhabited

/-- The layer entries of an image's LAYERS section, in order. -/
opaque layers (image : Bytes) : List Layer

/-- A phase of a phase map (R162): its mapping kind (Table 8-5) and its leaf count. -/
structure Phase where
  kind : Nat
  leaves : Nat
deriving DecidableEq, Repr, Inhabited

/-- What a phase map gives for one engine (R162): RESIDENT_BYTES, WORK_BYTES, ACC_UNITS. -/
structure EngineSizes where
  resident : Nat
  work : Nat
  accUnits : Nat
deriving DecidableEq, Repr, Inhabited

/-- The PHASES section of a variant (R162): the three phases, and the sizes of each engine by its position. -/
structure PhaseMap where
  phases : List Phase
  engs : List EngineSizes
deriving DecidableEq, Repr, Inhabited

/-- The sizes of the engine at a position; none beyond the last. -/
def PhaseMap.resident (m : PhaseMap) (p : Nat) : Nat := match m.engs[p]? with | some e => e.resident | none => 0
def PhaseMap.work (m : PhaseMap) (p : Nat) : Nat := match m.engs[p]? with | some e => e.work | none => 0
def PhaseMap.acc (m : PhaseMap) (p : Nat) : Nat := match m.engs[p]? with | some e => e.accUnits | none => 0

/-- The leaves of a core up to the end of phase `b` (R162, R169). -/
def PhaseMap.leavesTo (m : PhaseMap) (b : Nat) : Nat := ((m.phases.take (b + 1)).map (·.leaves)).sum

/-- The phase map of an image's variant for an engine count. -/
opaque phaseMap (image : Bytes) (variant : Nat) : PhaseMap

/-- One re-shard entry (R168): a two-dimensional block move between engine positions. -/
structure ReshardMove where
  srcPos : Nat
  dstPos : Nat
  srcOff : Nat
  dstOff : Nat
  lineBytes : Nat
  lines : Nat
  srcStride : Int
  dstStride : Int
deriving DecidableEq, Repr, Inhabited

/-- The re-shard entries of an image's variant at a boundary, 0 or 1. -/
opaque reshardMoves (image : Bytes) (variant boundary : Nat) : List ReshardMove

/-- The fixed weights as they lie in the resident image of an engine position (R162). -/
opaque residentFixed (image : Bytes) (variant pos : Nat) : Bytes

/-- One copy of the adaptable weights as it lies in the resident image of an engine position, from the rounded weights (R162). -/
opaque residentAdapt (image : Bytes) (variant pos : Nat) (rounded : Bytes) : Bytes

/-- The fields of an image's ADAPT section by their number in Table 8-10: the default adaptation parameters and the
gradient clip. -/
opaque adaptField (image : Bytes) (no : Nat) : Nat

/-! ### Values of training and measurement that the manual leaves open -/

/-- The FP32 factor by which a step's gradients are multiplied when their norm is above the clip: R178 names the clipping, not
the order of its roundings. -/
opaque clipFactor (clip : BitVec 32) (grads : List (BitVec 32)) : BitVec 32

/-- log2(1 + exp(x)) of an FP32 value in FP32, as R178 and R189 use it: its rounding is not given. -/
opaque softplus2 (x : BitVec 32) : BitVec 32

/-- The place that a training record has in the order of a step (R178): from SEED, the version number, the step number and the
record's sample count. The records are taken by rising place. -/
opaque orderKey (seed : Bytes) (version step count : Nat) : Nat

/-- What the built-in receivers keep of an exact value of one of their steps (R187, R188): the manual gives the steps and no number
format. -/
opaque receiverRound (x : Rat) : Rat

/-- What a built-in receiver takes for a quotient by 0. -/
opaque overZero (x : Rat) : Rat

/-- The likelihood of a distance in the exact log-sum demapper (R188), exp(-x), and the natural logarithm of a sum of them. -/
opaque expNeg (x : Rat) : Rat
opaque logOf (x : Rat) : Rat

/-- The value 1 / sqrt(n) with which a square constellation is scaled (TS 38.211 clause 5.1). -/
opaque invSqrt (n : Nat) : Rat

/-- The built-in table of R189: the effective SINR in dB, FP32, of a modulation order and a mean I. -/
opaque sinrDb (qm : Nat) (i : BitVec 32) : BitVec 32

/-- The cluster on which a best-effort quire of a consumer is triggered (R222 gives none). -/
opaque beCluster (consumer draw : Nat) : Nat

/-! ### The device's own keys and the algorithms of the root of trust (DESIGN CHOICE, log entry 44) -/

/-- ML-DSA-65 verification under FIPS 204: public key, context string, message, signature. -/
opaque mldsaVerify (pk ctx msg sig : Bytes) : Bool

/-- UDS: the 32 bytes of the unique device secret as fused (Table 17-1). -/
opaque uds : Bytes

/-- The ML-DSA-65 public key, 1,952 bytes, that FIPS 204 generates from a seed; the signature of its key pair, 3,309 bytes, under a
context string. -/
opaque mldsaPk (seed : Bytes) : Bytes
opaque mldsaSign (seed ctx msg : Bytes) : Bytes

/-- The ML-KEM-768 encapsulation key, 1,184 bytes, that FIPS 203 generates from a seed; decapsulation by its key pair. -/
opaque mlkemEk (seed : Bytes) : Bytes
opaque kemDecaps (seed ct : Bytes) : Bytes

/-- AES-256-GCM decryption: key, nonce, additional data, ciphertext, tag; none where the tag fails. -/
opaque aesOpen (key nonce aad ct tag : Bytes) : Option Bytes

/-- FW_PK_HASH0 and FW_PK_HASH1 as fused (Table 17-1). -/
opaque fwHash0 : Bytes
opaque fwHash1 : Bytes

/-- Digest of the boot ROM, 32 bytes (Table 17-4). -/
opaque romDigest : Bytes

/-- The subject key and the encapsulation key that an X.509 device certificate carries (R392); none where it does not parse. -/
opaque certKeys (cert : Bytes) : Option (Bytes × Bytes)

/-- The bytes of an SPDM response beside what the manual names (DSP0274), from its code, the request's bytes and a draw. -/
opaque spdmBody (code : Nat) (request : Bytes) (draw : Nat) : Bytes

/-- The verification data of an SPDM FINISH is right for the session of a requester identifier. -/
opaque finishOk (session : BitVec 16) (hmac : Bytes) : Bool

/-- Snieth's PCI vendor identifier (R342 gives no number). -/
opaque pciVendor : BitVec 16

/-! ### Tables of the 3GPP standards that the manual names and does not print (PRESUMED, log entry 35) -/

/-- The entries of a row of an LDPC base graph (TS 38.212 Tables 5.3.2-2 and 5.3.2-3) for a set index: column and shift. -/
opaque ldpcRow (bg setIndex row : Nat) : List (Nat × Nat)

/-- The polar sequence Q_0 to Q_1023, by rising reliability (TS 38.212 Table 5.3.1.2-1). -/
opaque polarOrder : List Nat

/-- The CRC interleaving pattern (TS 38.212 Table 5.3.1.1-1). -/
opaque polarIl : List Nat

/-! ### Values of the coding subsystem that the manual leaves open -/

/-- Sample `n` of the inverse DFT of length L_RA of Y(k) · conj(X_u(k)), in FP32 (R216): the manual gives the format, not the order
of the operations inside it. Y is CI16, X_u a pair of FP32 parts. -/
opaque prachIdft (y : List (BitVec 32)) (x : List (BitVec 32 × BitVec 32)) (n : Nat) : BitVec 32 × BitVec 32

/-- The entry of the threshold table is the FP32 value above the threshold of R218, not the one below it. -/
opaque pfaUp (dof ncs exp : Nat) : Bool

/-- The sequence number u of a logical root index for L_RA 839 (TS 38.211 Table 6.3.3.1-3; PRESUMED, log entry 35). -/
opaque prachRoot839 (logical : Nat) : Nat

/-- The CI16 symbol of a layer of a PDSCH on a resource element, DMRS included: from the slot record, the PDU, its coded bits, symbol,
subcarrier and layer (R191: produced by the vector engines after modulation and layer mapping; DESIGN CHOICE, log entry 40). -/
opaque layerSymbol (slot : Bytes) (pdu : Nat) (coded : List Bool) (symbol sub layer : Nat) : BitVec 32

/-- The CI16 value that the slot's channels without precoding put on a transmit stream: PDCCH, SSB, CSI-RS (log entry 40). -/
opaque portSymbol (slot : Bytes) (coded : List (Nat × List Bool)) (stream symbol sub : Nat) : BitVec 32

/-- The FP32 frequency estimate in Hz (`freq`) or timing estimate in ns of a PUSCH (R173 names what they are computed from, not
how). -/
opaque offsetEst (draw i : Nat) (freq : Bool) : BitVec 32

/-- The measurements that a FAPI indication carries beside what the manual names (R380): the `i`-th of a record. -/
opaque fapiMeasure (draw i : Nat) : Nat

end Sys2Proof.Config
end

