-- ==== Sys2Proof/Machine/Bits.lean ====
section
/-!
DEFINITION. Byte-order, bit-field and table helpers: little-endian reading and writing (R3), bit fields of a word,
sign extension, and the lookup and update of a sparse table.
-/

namespace Sys2Proof

/-- The number that a little-endian byte string spells (R3). -/
def leNat : Bytes → Nat
  | [] => 0
  | b :: r => b.toNat + 256 * leNat r

/-- `len` bytes of `n`, least significant first (R3). -/
def toLE : Nat → Nat → Bytes
  | 0, _ => []
  | len + 1, n => BitVec.ofNat 8 n :: toLE len (n / 256)

/-- The bytes `[off, off + len)` of a string; bytes past its end read as zero. -/
def slice (b : Bytes) (off len : Nat) : Bytes :=
  let r := (b.drop off).take len
  r ++ List.replicate (len - r.length) 0

/-- The little-endian field of `len` bytes at `off`. -/
def fld (b : Bytes) (off len : Nat) : Nat := leNat ((b.drop off).take len)

/-- Bits `[lo + w - 1 : lo]` of a number. -/
def bits (n lo w : Nat) : Nat := (n / 2 ^ lo) % 2 ^ w

/-- One bit of a number. -/
def bit (n i : Nat) : Bool := n.testBit i

/-- The two's-complement reading of the low `w` bits of a number. -/
def sx (w n : Nat) : Int :=
  let m := n % 2 ^ w
  if m < 2 ^ (w - 1) then (m : Int) else (m : Int) - (2 ^ w : Nat)

/-- The low `w` bits of an integer, as a number. -/
def lowBits (w : Nat) (i : Int) : Nat := (i % (2 ^ w : Nat)).toNat

/-- The bitwise complement of a byte string. -/
def cpl (b : Bytes) : Bytes := b.map (fun x => ~~~x)

/-- `n` zero bytes. -/
def zeros (n : Nat) : Bytes := List.replicate n 0

/-- A string padded with zeros to a multiple of `m` bytes. -/
def padTo (m : Nat) (b : Bytes) : Bytes := b ++ zeros ((m - b.length % m) % m)

/-- The quotient rounded up. -/
def ceilDiv (a b : Nat) : Nat := (a + b - 1) / b

/-- Cut a string in pieces of `k` bytes, the last one possibly short. -/
def chunksGo (k : Nat) : Nat → List α → List (List α)
  | 0, _ => []
  | _ + 1, [] => []
  | f + 1, l => l.take k :: chunksGo k f (l.drop k)

/-- Cut a list in pieces of `k` elements. -/
def chunks (k : Nat) (l : List α) : List (List α) := chunksGo k l.length l

/-- The little-endian numbers of `k` bytes each that a string holds. -/
def leList (k : Nat) (b : Bytes) : List Nat := (chunks k b).map leNat

/-- A number clamped to a range. -/
def clampNat (lo hi v : Nat) : Nat := if v < lo then lo else if hi < v then hi else v

/-- Interval overlap, both given as start and length. -/
def overlaps (a la b lb : Nat) : Bool := decide (0 < la ∧ 0 < lb ∧ a < b + lb ∧ b < a + la)

/-- One interval inside another, both given as start and length. -/
def inside (a la b lb : Nat) : Bool := decide (b ≤ a ∧ a + la ≤ b + lb)

/-- Insert into a sorted list, before the first element it does not follow. -/
def insertBy (le : α → α → Bool) (a : α) : List α → List α
  | [] => [a]
  | b :: r => if le a b then a :: b :: r else b :: insertBy le a r

/-- Stable insertion sort. -/
def sortBy (le : α → α → Bool) : List α → List α
  | [] => []
  | a :: r => insertBy le a (sortBy le r)

/-! ### Sparse tables -/

/-- The entry of a key. -/
def tget? : Table α → Nat → Option α
  | [], _ => none
  | (k, v) :: r, i => if k = i then some v else tget? r i

/-- The entry of a key, or the given default. -/
def tget (t : Table α) (i : Nat) (d : α) : α := (tget? t i).getD d

/-- Store an entry, keeping the keys rising. -/
def tset : Table α → Nat → α → Table α
  | [], i, v => [(i, v)]
  | (k, w) :: r, i, v =>
    if i < k then (i, v) :: (k, w) :: r
    else if i = k then (i, v) :: r
    else (k, w) :: tset r i v

/-- Remove an entry. -/
def tdel (t : Table α) (i : Nat) : Table α := t.filter (fun p => p.1 != i)

/-- Change an entry, from the given default where it is absent. -/
def tmod (t : Table α) (i : Nat) (d : α) (f : α → α) : Table α := tset t i (f (tget t i d))

/-- Map over every entry. -/
def tmap (t : Table α) (f : Nat → α → α) : Table α := t.map (fun p => (p.1, f p.1 p.2))

/-- Change one place of a fixed file of registers or units. -/
def vmod (v : Vector α n) (i : Fin n) (f : α → α) : Vector α n := v.set i (f v[i])

/-- Replace the element at a place of a list. -/
def listMod : List α → Nat → (α → α) → List α
  | [], _, _ => []
  | a :: r, 0, f => f a :: r
  | a :: r, n + 1, f => a :: listMod r n f

end Sys2Proof
end

