-- ==== Sys2Proof/Machine/Float.lean ====
section
/-!
DEFINITION. Exact floating-point arithmetic: values as sign, magnitude and power of two, decoded from and rounded to
the binary formats of Table 3-2, to nearest with ties to even (R44, R45, R49). Bit patterns are plain numbers.
-/

namespace Sys2Proof

/-- A floating-point value taken exactly: `fin neg m e` is (−1)^neg · m · 2^e. -/
inductive FVal where
  | nan
  | inf (neg : Bool)
  | fin (neg : Bool) (m : Nat) (e : Int)
deriving DecidableEq, Repr

/-- A binary interchange format: exponent and fraction widths (Table 3-2). -/
structure FFmt where
  eb : Nat
  fb : Nat
deriving DecidableEq, Repr

/-- FP16, BF16 and FP32 (Table 3-2). -/
def fp16 : FFmt := ⟨5, 10⟩
def bf16 : FFmt := ⟨8, 7⟩
def fp32 : FFmt := ⟨8, 23⟩

/-- Exponent bias of a format. -/
def FFmt.bias (f : FFmt) : Nat := 2 ^ (f.eb - 1) - 1

/-- The bit pattern of +∞. -/
def FFmt.infBits (f : FFmt) : Nat := (2 ^ f.eb - 1) * 2 ^ f.fb

/-- The sign bit's weight. -/
def FFmt.signBit (f : FFmt) : Nat := 2 ^ (f.eb + f.fb)

/-- The canonical quiet NaN (R45). -/
def FFmt.qnan (f : FFmt) : Nat := f.infBits + 2 ^ (f.fb - 1)

/-- The value a bit pattern stands for. -/
def fdecode (f : FFmt) (b : Nat) : FVal :=
  let neg := bit b (f.eb + f.fb)
  let e := bits b f.fb f.eb
  let m := b % 2 ^ f.fb
  if e = 2 ^ f.eb - 1 then (if m = 0 then .inf neg else .nan)
  else if e = 0 then .fin neg m (1 - (f.bias : Int) - f.fb)
  else .fin neg (2 ^ f.fb + m) ((e : Int) - f.bias - f.fb)

/-- The pattern is a signalling NaN (R45). -/
def isSnan (f : FFmt) (b : Nat) : Bool :=
  bits b f.fb f.eb == 2 ^ f.eb - 1 && b % 2 ^ f.fb != 0 && !bit b (f.fb - 1)

/-- `m / 2^s` rounded to nearest, ties to even (R49). -/
def roundShift (m s : Nat) : Nat :=
  let q := m / 2 ^ s
  let r := m % 2 ^ s
  if s = 0 then m
  else if 2 ^ (s - 1) < r ∨ (r = 2 ^ (s - 1) ∧ q % 2 = 1) then q + 1 else q

/-- Round a nonzero magnitude `m · 2^e` to a format: the pattern without its sign, infinity where it overflows. -/
def froundMag (f : FFmt) (m : Nat) (e : Int) : Nat :=
  let top : Int := (Nat.log2 m : Int) + e
  let emin : Int := 1 - (f.bias : Int)
  let q : Int := (if top < emin then emin else top) - f.fb
  let r := if e ≥ q then m * 2 ^ (e - q).toNat else roundShift m (q - e).toNat
  let qmin : Int := emin - f.fb
  let p := (q - qmin).toNat * 2 ^ f.fb + r
  if p ≥ f.infBits then f.infBits else p

/-- The pattern of a value in a format, rounded to nearest, ties to even; NaN is canonical (R45, R49). -/
def fencode (f : FFmt) : FVal → Nat
  | .nan => f.qnan
  | .inf neg => f.infBits + if neg then f.signBit else 0
  | .fin neg m e => (if m = 0 then 0 else froundMag f m e) + if neg then f.signBit else 0

/-- Largest finite pattern. -/
def FFmt.maxBits (f : FFmt) : Nat := f.infBits - 1

/-- Negate. -/
def fneg : FVal → FVal
  | .nan => .nan
  | .inf n => .inf !n
  | .fin n m e => .fin (!n) m e

/-- Magnitude. -/
def fabsV : FVal → FVal
  | .nan => .nan
  | .inf _ => .inf false
  | .fin _ m e => .fin false m e

/-- The exact sum; opposite infinities give NaN, and an exact zero of unlike signs is +0 (R45). -/
def faddV : FVal → FVal → FVal
  | .nan, _ => .nan
  | _, .nan => .nan
  | .inf a, .inf b => if a = b then .inf a else .nan
  | .inf a, _ => .inf a
  | _, .inf b => .inf b
  | .fin na ma ea, .fin nb mb eb =>
    let e := if ea ≤ eb then ea else eb
    let x : Int := (ma * 2 ^ (ea - e).toNat : Nat)
    let y : Int := (mb * 2 ^ (eb - e).toNat : Nat)
    let s := (if na then -x else x) + (if nb then -y else y)
    if s = 0 then .fin (na && nb) 0 e else .fin (decide (s < 0)) s.natAbs e

/-- The exact product. -/
def fmulV : FVal → FVal → FVal
  | .nan, _ => .nan
  | _, .nan => .nan
  | .inf a, .inf b => .inf (a != b)
  | .inf a, .fin b m _ => if m = 0 then .nan else .inf (a != b)
  | .fin a m _, .inf b => if m = 0 then .nan else .inf (a != b)
  | .fin a ma ea, .fin b mb eb => .fin (a != b) (ma * mb) (ea + eb)

/-- A quotient with enough bits and a sticky bit to round it correctly. -/
def fdivV : FVal → FVal → FVal
  | .nan, _ => .nan
  | _, .nan => .nan
  | .inf _, .inf _ => .nan
  | .inf a, .fin b _ _ => .inf (a != b)
  | .fin a _ _, .inf b => .fin (a != b) 0 0
  | .fin a ma ea, .fin b mb eb =>
    if mb = 0 then (if ma = 0 then .nan else .inf (a != b))
    else
      let k := 64 + Nat.log2 mb
      let n := ma * 2 ^ k
      let q := n / mb
      .fin (a != b) (2 * q + if n % mb = 0 then 0 else 1) (ea - eb - k - 1)

/-- Integer square root by bits. -/
def isqrtGo (n : Nat) : Nat → Nat → Nat
  | 0, r => r
  | b + 1, r =>
    let t := r + 2 ^ b
    isqrtGo n b (if t * t ≤ n then t else r)

/-- Integer square root, rounded down. -/
def isqrt (n : Nat) : Nat := isqrtGo n (Nat.log2 n / 2 + 1) 0

/-- A square root with enough bits and a sticky bit to round it correctly; a negative operand gives NaN. -/
def fsqrtV : FVal → FVal
  | .nan => .nan
  | .inf n => if n then .nan else .inf false
  | .fin n m e =>
    if m = 0 then .fin n 0 e
    else if n then .nan
    else
      let odd : Nat := (e % 2).toNat
      let x := m * 2 ^ (odd + 128)
      let r := isqrt x
      .fin false (2 * r + if r * r = x then 0 else 1) ((e - odd) / 2 - 64 - 1)

/-- The reciprocal square root, likewise. -/
def frsqrtV : FVal → FVal
  | .nan => .nan
  | .inf n => if n then .nan else .fin false 0 0
  | .fin n m e =>
    if m = 0 then .inf n
    else if n then .nan
    else
      let odd : Nat := (e % 2).toNat
      let mm := m * 2 ^ odd
      let k := 64 + Nat.log2 mm
      let t := 2 ^ (2 * k) / mm
      let r := isqrt t
      .fin false (2 * r + if r * r * mm = 2 ^ (2 * k) then 0 else 1) (-((e - odd) / 2) - k - 1)

/-- Order of two numbers that are not NaN, −0 below +0 (R78, R93): less, equal or greater as −1, 0, 1. -/
def fcmpTotal : FVal → FVal → Int
  | .nan, _ => 0
  | _, .nan => 0
  | .inf a, .inf b => if a = b then 0 else if a then -1 else 1
  | .inf a, _ => if a then -1 else 1
  | _, .inf b => if b then 1 else -1
  | .fin na ma ea, .fin nb mb eb =>
    let e := if ea ≤ eb then ea else eb
    let x : Int := (ma * 2 ^ (ea - e).toNat : Nat)
    let y : Int := (mb * 2 ^ (eb - e).toNat : Nat)
    let a := if na then -x else x
    let b := if nb then -y else y
    if a < b then -1 else if b < a then 1
    else if na = nb then 0 else if ma = 0 then (if na then -1 else 1) else 0

/-- The same order with −0 equal to +0, as IEEE comparisons take it. -/
def fcmpIeee (a b : FVal) : Int :=
  match a, b with
  | .fin _ 0 _, .fin _ 0 _ => 0
  | _, _ => fcmpTotal a b

/-- The value is a NaN. -/
def FVal.isNan : FVal → Bool
  | .nan => true
  | _ => false

/-- The value is finite. -/
def FVal.isFin : FVal → Bool
  | .fin _ _ _ => true
  | _ => false

/-- The value is ±0. -/
def FVal.isZero : FVal → Bool
  | .fin _ 0 _ => true
  | _ => false

/-- A finite value rounded to an integer, to nearest with ties to even. -/
def froundInt : FVal → Int
  | .fin n m e =>
    let r : Int := if e ≥ 0 then (m * 2 ^ e.toNat : Nat) else (roundShift m (-e).toNat : Nat)
    if n then -r else r
  | _ => 0

/-- An integer as an exact value. -/
def fofInt (i : Int) : FVal := .fin (decide (i < 0)) i.natAbs 0

/-! ### Single operations on FP32 patterns, each rounded once -/

/-- FP32 value of a pattern. -/
def f32 (b : Nat) : FVal := fdecode fp32 b
/-- FP32 pattern of a value. -/
def to32 (v : FVal) : Nat := fencode fp32 v
def add32 (a b : Nat) : Nat := to32 (faddV (f32 a) (f32 b))
def sub32 (a b : Nat) : Nat := to32 (faddV (f32 a) (fneg (f32 b)))
def mul32 (a b : Nat) : Nat := to32 (fmulV (f32 a) (f32 b))
def fma32 (a b c : Nat) : Nat := to32 (faddV (fmulV (f32 a) (f32 b)) (f32 c))
def div32 (a b : Nat) : Nat := to32 (fdivV (f32 a) (f32 b))
def sqrt32 (a : Nat) : Nat := to32 (fsqrtV (f32 a))
def rsqrt32 (a : Nat) : Nat := to32 (frsqrtV (f32 a))

/-- Minimum or maximum of two values: a NaN operand gives NaN, and −0 orders below +0 (R78, R93). -/
def fminmaxV (max : Bool) (a b : FVal) : FVal :=
  if a.isNan || b.isNan then .nan
  else
    let c := fcmpTotal a b
    if max then (if c < 0 then b else a) else (if c > 0 then b else a)

/-! ### LE4M3 (Table 3-3) -/

/-- The value of an LE4M3 code. -/
def le4m3Val (b : Nat) : FVal :=
  let neg := bit b 7
  let e := bits b 3 4
  let m := b % 8
  if e = 15 ∧ m = 7 then .nan
  else if e = 0 then .fin neg m (-9)
  else .fin neg (8 + m) ((e : Int) - 10)

/-- The nearest LE4M3 code, clamped to ±448 (R51), and whether it clamped. -/
def le4m3Code : FVal → Nat × Bool
  | .nan => (0x7F, false)
  | .inf n => (0x7E + if n then 128 else 0, true)
  | .fin n m e =>
    let s := if n then 128 else 0
    if m = 0 then (s, false)
    else
      let p := froundMag ⟨4, 3⟩ m e
      let top : Int := (Nat.log2 m : Int) + e
      let v := if top < 8 then p else
        -- at exponent 8 the format goes on to fraction 0b110
        let r := if e ≥ 5 then m * 2 ^ (e - 5).toNat else roundShift m (5 - e).toNat
        if top = 8 ∧ r ≤ 14 then 112 + r else 200
      if v > 0x7E then (0x7E + s, true) else (v + s, false)

end Sys2Proof
end

