-- ==== Sys2Proof/Machine/State.lean ====
section
/-!
DEFINITION. The state of the part as plain data: every register, buffer, counter, mode and pin the manual names, with
its value at reset as the default of its field, and the queue of waiting commands.
-/

namespace Sys2Proof.Machine
open Sys2Proof

/-! ### Outputs that leave the block -/

/-- What the block sends out of itself: the trace of it is kept in `State.out`, newest first (the model's own field). -/
inductive Out where
  /-- An MSI-X message of a vector (R344). -/
  | msix (vector : Nat)
  /-- A BAR0 read answered with all ones, of the given length in bytes (R4). -/
  | readOnes (len : Nat)
  /-- A request completed as Unsupported Request (R343, R420). -/
  | unsupported (read : Bool)
  /-- A fronthaul frame payload sent on a port for a cell: plane (0 C-plane, 1 U-plane), SFN and slot, symbol. -/
  | fhFrame (port cell plane sfnSlot symbol : Nat) (data : Bytes)
  /-- A stitch message sent: header fields and data (R322). -/
  | stitch (msg : SMsg)
  /-- A flit sent on a link: its 256 bytes (R316). -/
  | flit (link : Nat) (data : Bytes)
  /-- A HELLO sent on a link (R315). -/
  | hello (link : Nat) (msg : SMsg)
  /-- A page request group of a DMA channel: its PASID, if it uses one, and the host page numbers (R356). -/
  | pageRequest (chan : Nat) (pasid : Option (BitVec 20)) (pages : List Nat)
  /-- A Translation Request of a DMA channel: its PASID, if it uses one, and the host address (R356). -/
  | translationRequest (chan : Nat) (pasid : Option (BitVec 20)) (addr : Nat)
  /-- An ATS invalidation completion. -/
  | invalCompletion
  /-- An SPDM or IDE_KM response over DOE: code and body (R393). -/
  | spdm (code : Nat) (body : Bytes)
  /-- A command word on a module cage's management bus: cage, and true to disable its transmitters and put it in low-power mode
  (R309). -/
  | moduleCtl (cage : Nat) (disable : Bool)
deriving DecidableEq, Repr

/-! ### Boot, reset, power -/

/-- Start-up state of BOOT_STATUS (R422, R417). -/
inductive BootState where
  | reset | bootRom | firmwareInit | ready | failed
deriving DecidableEq, Repr

/-- Identification, boot and reset (R413 to R417, R422, R441). -/
structure Boot where
  /-- BOOT_STATUS.STATE. -/
  state : BootState := .reset
  /-- BOOT_STATUS.SLOT_A_FAULT and SLOT_B_FAULT (Table 17-3). -/
  faultA : Byte := 0
  faultB : Byte := 0
  /-- BOOT_STATUS.MEM_FAULT. -/
  memFault : Byte := 0
  /-- BOOT_STATUS.IDENTITY_MISMATCH (R392). -/
  identityMismatch : Bool := false
  /-- BOOT_STATUS.BOOT_SLOT: false A, true B. -/
  bootSlotB : Bool := false
  /-- FW_RELEASE. -/
  fwRelease : BitVec 32 := 0
  /-- RESET_CAUSE.CAUSE: POWER_ON right after the power-on reset (R413). -/
  resetCause : BitVec 4 := 1
  /-- The PWR_GOOD ball is high (R441). -/
  pwrGood : Bool := true
  /-- PERST_N is asserted: power-good comes before its deassertion (R415). -/
  perst : Bool := true
  /-- The thermal trip holds the device in reset (R411). -/
  tripHold : Bool := false
  /-- EXTEST holds the device in reset (R401). -/
  extestHold : Bool := false
  /-- DDR5 population as the boot ROM last found it (R32). -/
  ddr : DdrChannels := []
  /-- DDR5 capacity in GiB found at start-up (R32). -/
  ddrGiB : Nat := 0
  /-- Number of the running DDR5 key pair: a new one is drawn at each COLD reset (R399). -/
  ddrEpoch : Nat := 0
deriving DecidableEq, Repr

/-- Power states of Table 18-2. -/
inductive PowerState where
  | active | quiet | standby | aon
deriving DecidableEq, Repr

/-- Clocks, power and throttling (R404 to R411, R429, R445). -/
structure Power where
  /-- POWER_STATUS.STATE: reads 0, ACTIVE, at reset (R429). -/
  state : PowerState := .active
  /-- Throttle step in force, 0 to 2. -/
  step : Fin 3 := 0
  /-- The step each of the causes THERMAL, POWER and CURRENT asks for; 0 when it does not ask (R410). -/
  askThermal : Fin 3 := 0
  askPower : Fin 3 := 0
  askCurrent : Fin 3 := 0
  /-- FLOOR_STEP (R407). -/
  floor : Fin 3 := 0
  /-- THROTTLE_STATE.CAUSE_LAST. -/
  causeLast : Nat := 0
  /-- The 8 on-die sensors, INT8 in °C (R429). -/
  sensors : Vector (BitVec 8) 8 := Vector.replicate 8 0
  /-- POWER_STATUS.MEAN_POWER in 1/256 W. -/
  meanPower : BitVec 16 := 0
  /-- THROTTLE_CHANGES. -/
  changes : BitVec 64 := 0
  /-- The last IMON_CORE sample was above the fast limit (R445). -/
  imonOver : Bool := false
  /-- AON tick of the last move towards step 0 (R410), if any. -/
  lastUp : Option Nat := none
  /-- AON tick from which the condition to step up of THERMAL, POWER and CURRENT has held, while it holds (R410). -/
  upSince : Vector (Option Nat) 3 := Vector.replicate 3 none
  /-- Code of the cause that stopped asking last (Table 18-4). -/
  stopped : Nat := 0
  /-- Clock domains gated (R405), by number 0 to 243 (Table 2-6). -/
  gated : List Nat := []
  /-- PLLs in standby (R405): 0 ARRAY, 1 CORE, 2 CTRL, 3 DDR. -/
  pllStandby : List Nat := []
deriving DecidableEq, Repr

/-! ### Host link, DMA, mailbox -/

/-- One entry of the MSI-X table with its pending bit (R344). -/
structure MsixVec where
  masked : Bool := true
  pending : Bool := false
deriving DecidableEq, Repr

/-- Host link registers (R344 to R346, R424). -/
structure HostLink where
  /-- MSI-X table, 64 vectors. -/
  msix : Vector MsixVec 64 := Vector.replicate 64 {}
  /-- HL_ERR_STATUS, bits 8 to 0. -/
  err : BitVec 9 := 0
  /-- HL_CONFIG.IDE_REQUIRED. -/
  ideRequired : Bool := false
  /-- SEC_LOCK.LOCK. -/
  lock : Bool := false
  /-- LINK_STATE.SPEED, WIDTH, L0. -/
  speed : BitVec 3 := 0
  width : BitVec 5 := 0
  l0 : Bool := false
  /-- LINK_STATE.STREAM0_SECURE and STREAM1_SECURE. -/
  secure0 : Bool := false
  secure1 : Bool := false
  /-- IDE streams 0 and 1 have keys programmed (R345). -/
  keyed0 : Bool := false
  keyed1 : Bool := false
  /-- INT_STATUS without its HL_ERROR bit, which follows `err`. -/
  intStatus : BitVec 16 := 0
  /-- The function is in D3hot (R358, Table 18-2). -/
  d3hot : Bool := false
deriving DecidableEq, Repr

/-- A DMA descriptor in progress on a channel (R352 to R356). -/
structure DmaRun where
  /-- The 64 bytes of the descriptor. -/
  desc : Bytes
  /-- Lines of the host side moved. -/
  hostLine : Nat := 0
  /-- The transfer waited on a page request at least once. -/
  parkedOnce : Bool := false
  /-- Waiting for a Translation Completion. -/
  missed : Bool := false
  /-- Parked on a page request group for these host page numbers. -/
  parked : Option (List Nat) := none
  /-- AON tick at which it parked last. -/
  parkedAt : Nat := 0
  /-- All lines delivered, read-back outstanding. -/
  readBack : Bool := false
deriving DecidableEq, Repr

/-- One DMA channel (R347, R348, R428). -/
structure DmaChan where
  /-- DMA_CONFIG has configured it (host channels). -/
  configured : Bool := false
  ringBase : Nat := 0
  /-- Ring size in entries. -/
  size : Nat := 0
  cplBase : Nat := 0
  /-- MSI-X vector; the default is the channel's number less 5 (R344). -/
  vector : Option Nat := none
  /-- Class LC; BE is the default of a host channel (R347). -/
  lc : Bool := false
  pasid : BitVec 20 := 0
  pasidEn : Bool := false
  atsEn : Bool := false
  priEn : Bool := false
  /-- PAGE_TIMEOUT in ms. -/
  pageTimeout : Nat := 100
  /-- Producer count last reported by the doorbell. -/
  prod : BitVec 16 := 0
  /-- SEQ the next descriptor must carry. -/
  next : BitVec 16 := 0
  /-- DMA_STATUS.COMPLETED. -/
  completed : BitVec 16 := 0
  /-- Descriptors before this count end DMA_CANCELLED as they are read (R428). -/
  cancelTo : Option (BitVec 16) := none
  /-- The descriptor in progress. -/
  run : Option DmaRun := none
deriving DecidableEq, Repr

/-- Memories a device window may name (R353). -/
inductive WinMem where
  | ddr5 | quireData (k : Fin 4) | decoderOut | binder
deriving DecidableEq, Repr

/-- An entry of the table of 64 device windows (R353). -/
structure DevWindow where
  mem : WinMem
  base : Nat
  len : Nat
  rd : Bool
  wr : Bool
  host : Bool
  /-- WINDOW_REMOVE came while a descriptor used it. -/
  removing : Bool := false
deriving DecidableEq, Repr

/-- One mailbox ring as latched (R360 to R362, R425, R426). -/
structure Ring where
  /-- Latched base; 0 means not configured. -/
  base : Nat := 0
  /-- Size in 16-byte units. -/
  size : Nat := 0
  prod : BitVec 32 := 0
  cons : BitVec 32 := 0
  /-- SEQ of the next record. -/
  seq : BitVec 16 := 0
  /-- MBX_STATUS.HALTED and BAD_INDEX bits of the ring. -/
  halted : Bool := false
  badIndex : Bool := false
deriving DecidableEq, Repr

/-- A record of a device-to-host ring that waits for room: TYPE, TAG, body (R365). -/
structure OutRec where
  typ : Nat
  tag : Nat
  body : Bytes
deriving DecidableEq, Repr

/-- A long command that runs or waits, or a short one that waits for its target (R369). -/
structure Job where
  code : Nat
  cmd : Cmd
  /-- Leaves still to run, the committing one included. -/
  leaves : Nat
  /-- What its first leaf took a snapshot of (R394). -/
  snap : Bytes := []
deriving DecidableEq, Repr

/-- Mailbox state (R360 to R376, R425, R426). -/
structure Mailbox where
  cmdq : Ring := {}
  spq : Ring := {}
  rspq : Ring := {}
  evq : Ring := {}
  spc : Ring := {}
  /-- MBX_CMD_BASE, MBX_RSP_BASE, MBX_EVT_BASE, MBX_IDX_BASE. -/
  cmdBase : BitVec 64 := 0
  rspBase : BitVec 64 := 0
  evtBase : BitVec 64 := 0
  idxBase : BitVec 64 := 0
  /-- MBX_RING_SIZE.LOG2_SIZE: reset 0x10. -/
  log2Size : Nat := 16
  /-- The index block's latched base. -/
  idxLatched : Nat := 0
  /-- Responses and SPC records that wait (R365). -/
  rspWait : List OutRec := []
  spcWait : List OutRec := []
  /-- EVT_DROPPED, and the drops not yet reported by EVQ_OVERFLOW (R365). -/
  evtDropped : BitVec 64 := 0
  evtOwed : Nat := 0
  /-- Events of start-up that wait until the event queue exists (R416): event, source, body. -/
  evtHeld : List (Nat × Nat × Bytes) := []
  /-- Vectors of RSPQ and SPC: defaults 1 and 2 (R344). -/
  rspVec : Nat := 1
  spcVec : Nat := 2
  /-- Configuration report ring: CFG_REPORT_BASE, entries, CFG_REPORT_COUNT (R376). -/
  reportBase : Nat := 0
  reportSize : Nat := 0
  reportCount : BitVec 32 := 0
  /-- Long commands in CMDQ order, the running one first; short ones that wait for its target (R369). -/
  longQ : List Job := []
  waitQ : List Job := []
deriving DecidableEq, Repr

/-! ### Sync objects, quires, clusters -/

/-- A sync object (Table 11-1). `bad` marks a stored integrity error (R262). -/
structure SyncObj where
  felled : Bool := false
  reason : BitVec 8 := 0
  owner : BitVec 16 := 0
  count : BitVec 32 := 0
  /-- The stored word and complement do not match, or the word reads wrong (R262). -/
  bad : Bool := false
  /-- Where the stored complement differs from the word's (R250). -/
  diff : BitVec 64 := 0
deriving DecidableEq, Repr

/-- Who waits on a sync object: a core of this chip, or a registration from another chip (R256, R259, R263). -/
structure Waiter where
  /-- Waiting chip and its even engine number: the pressed-mode order (R259). -/
  chip : Nat
  engine : Nat
  /-- The expected OWNER, and the amount. -/
  tag : BitVec 16
  n : BitVec 16
  /-- A remote registration: grant object index, wait sequence number, waiter's cluster and quire tag (R263). -/
  remote : Option (Nat × Nat × Nat × Nat) := none
deriving DecidableEq, Repr

/-- The kinds of quire of Table 10-1. -/
inductive QKind where
  | slotReception | downlink | prach | adaptation | yardstick
deriving DecidableEq, Repr

/-- The states of Table 10-8. -/
inductive QState where
  | queued | ready | running | boundary | suspended | ended | faulted
deriving DecidableEq, Repr

/-- A granted run of bytes or units. -/
structure Run where
  base : Nat := 0
  len : Nat := 0
deriving DecidableEq, Repr

/-- A descriptor list of a quire with its launch object, used by a carder thread (R142). -/
structure CarderList where
  descs : List Bytes := []
  /-- Launch object index in the cluster's system region. -/
  launchObj : Nat := 0
  /-- SEQ the next descriptor must carry. -/
  next : BitVec 16 := 0
  /-- Suspended progress: the next line of the descriptor that was stopped, whose launch is consumed (R149). -/
  line : Option Nat := none
  /-- The leaf-bound thread that ran it last (R142, Table 10-6). -/
  thread : Option Nat := none
deriving DecidableEq, Repr

/-- Parity replays of a leaf and the words that failed in its attempts (R156). -/
structure ParityCtx where
  replays : Nat := 0
  words : List Nat := []
  /-- One of them was for an instruction fetch, whose code was then copied again (Table 7-10). -/
  fetch : Bool := false
deriving DecidableEq, Repr

/-- A sum group of a live quire (R271 to R273). -/
structure SumGroup where
  decl : SumDecl
  /-- Contributors whose contribution was taken, and those that have landed. -/
  seen : List Nat := []
  got : List Nat := []
  /-- Staging base in the address map, in pressed mode. -/
  staging : Option Nat := none
  /-- Elements carried per staged contributor: (contributor, element index list). -/
  carried : List (Nat × List Nat) := []
deriving DecidableEq, Repr

/-- The report flags of a quire (R382, R282). -/
structure QFlags where
  late : Bool := false
  missing : Bool := false
  modelLimit : Bool := false
  quireFault : Bool := false
  jrOmitted : Bool := false
  jrBlocked : Bool := false
  memFill : Bool := false
  arrivalOrder : Bool := false
  offTol : Bool := false
  freqInvalid : Bool := false
  remoteRefused : Bool := false
  nonfinite : Bool := false
deriving DecidableEq, Repr

/-- A quire known to its cluster scheduler (R221 to R230, R244). -/
structure Quire where
  tag : BitVec 16
  cluster : Fin 4
  kind : QKind
  state : QState
  /-- Consumer number of Table 10-3. -/
  consumer : Nat
  /-- Cell index for LC and yardstick quires; model slot for adaptation. -/
  owner : Nat
  /-- SFN and slot, packed under R450. -/
  sfnSlot : Nat
  /-- Deadline on the cluster counter (R225). -/
  deadline : Option Nat := none
  prog : Option Prog := none
  pressed : Bool := false
  /-- Leaf index of relative cores 0 and 1; whether the core's last leaf has ended. -/
  leaf0 : Nat := 0
  leaf1 : Nat := 0
  done0 : Bool := false
  done1 : Bool := false
  /-- Fault code and the leaf index it struck. -/
  fault : BitVec 8 := 0
  faultLeaf : Nat := 0
  qd : Run := {}
  /-- Its quire-data windows on other clusters (R139, Table 7-5). -/
  remote : List (Fin 4 × Run) := []
  code : Run := {}
  spad : Run := {}
  acc : Run := {}
  objBase : Nat := 0
  objCount : Nat := 0
  ctxSlot : Option Nat := none
  /-- Positions whose engine data is saved in the context slot. -/
  saved : Bool := false
  /-- Save count of the context header (Table 10-6). -/
  saveCount : Nat := 0
  /-- It has waited in READY for a grant, and was counted in GRANT_WAIT (R230). -/
  waited : Bool := false
  /-- The cells whose coming slot-receptions it was evicted for (R236). -/
  evictFor : List Nat := []
  /-- Parity replays of the leaf on the even and on the odd core (R156). -/
  par0 : ParityCtx := {}
  par1 : ParityCtx := {}
  /-- Marked for a FULL save (R239). -/
  fullSave : Bool := false
  /-- A re-shard has ended and the next phase's first leaf has not started: its cores stay held (R169). -/
  hold : Bool := false
  lists : List CarderList := []
  stitchQ : List Nat := []
  sums : List SumGroup := []
  /-- Live extents of the last boundary (R236). -/
  live : List Extent := []
  flags : QFlags := {}
  /-- Model slot in use and its active version at quire start (R166, R182). -/
  modelSlot : Option Nat := none
  version : Nat := 0
  /-- IMAGE_DIGEST of the model and D_v of the version in use (R278). -/
  imageDigest : Bytes := []
  weightsDigest : Bytes := []
  /-- MODEL_ID and SEED of the model, and the spine digest, at quire start (R280, R282). -/
  modelId : Nat := 0
  seed : Bytes := []
  spine : Bytes := []
  /-- The image of its model, which it uses until it ends (R166). -/
  image : Bytes := []
  /-- Engines in service at quire start: the variant (R170). -/
  engines : Nat := 0
  /-- Members with which joint reception was blocked at quire start (Table 14-5). -/
  jrOff : List Nat := []
  /-- Its outcome has been taken up: a training step, an evaluation or a measurement (R178, R181, R189). -/
  used : Bool := false
deriving DecidableEq, Repr

/-- Consumer account (Table 10-4). -/
structure Account where
  engineCycles : Nat := 0
  /-- Engine time in the running window and in the last complete one, and its entitlement. -/
  window : Nat := 0
  lastWindow : Nat := 0
  lastEntitled : Nat := 0
  leaves : Nat := 0
  overruns : Nat := 0
  overShare : Nat := 0
  preemptions : Nat := 0
  evictions : Nat := 0
  bytesSaved : Nat := 0
  /-- Over its share in the running window (R234). -/
  exceeds : Bool := false
  /-- Deficit of the round-robin (R231). -/
  deficit : Int := 0
deriving DecidableEq, Repr

/-- An expected slot close (R224, R236). -/
structure Expect where
  cell : Nat
  close : Nat
  /-- Cluster counter at the arrival of its mark. -/
  marked : Nat := 0
  opened : Bool := false
deriving DecidableEq, Repr

/-- A bound carder thread (R142): the quire, its list, the descriptor whose bytes are written and whose DONE_N is
still to be added (R145), and the places of its destination lines. -/
structure Thread where
  tag : BitVec 16
  list : Nat
  finishing : Option Bytes := none
  lines : List Run := []
deriving DecidableEq, Repr

/-- Extents released and not yet zeroed (R244): the consumer that held them, the engines, and the runs. -/
structure Dirty where
  consumer : Nat
  engs : List Nat
  spad : Run := {}
  acc : Run := {}
  qd : Run := {}
  code : Run := {}
deriving DecidableEq, Repr

/-- One cluster: scheduler, sync agent, cluster counter (R221 to R265). -/
structure Cluster where
  /-- Cluster counter, 48 bits of AON ticks. -/
  counter : BitVec 48 := 0
  tagCounter : BitVec 14 := 0
  objs : Table SyncObj := []
  /-- Shadow counts of system objects (R262). -/
  shadow : Table (BitVec 32) := []
  /-- Monitors and registrations per object, in the order they were made. -/
  waiters : Table (List Waiter) := []
  /-- Objects released or felled, with the counter value at that time (R261). -/
  held : Table Nat := []
  accounts : Table Account := []
  /-- Consumer visited last by the round-robin (R231). -/
  rrLast : Nat := 0
  expects : List Expect := []
  /-- GRANT_WAIT_k, EVICT_LATE_k, SYNC_SIG_DISCARDED_k (Table 19-8, R430), SUM_DISCARDED (Table 14-7), LC_CYCLES_k,
  BE_CYCLES_k, IDLE_CYCLES_k (R430). -/
  grantWait : BitVec 64 := 0
  evictLate : BitVec 64 := 0
  sigDiscarded : BitVec 64 := 0
  sumDiscarded : BitVec 64 := 0
  lcCycles : BitVec 64 := 0
  beCycles : BitVec 64 := 0
  idleCycles : BitVec 64 := 0
  /-- Array cycles of the running accounting window (A of R234), and engines in service counted in it (N). -/
  winCycles : Nat := 0
  winEngines : Nat := 4
  /-- AON tick at which the running accounting window began. -/
  winStart : Nat := 0
  /-- Carder threads 0 to 7 (R142). -/
  threads : Vector (Option Thread) 8 := Vector.replicate 8 none
  /-- The resident images that its engines hold are not those of the models bound: they are copied from DDR5 before the next
  slot-reception starts (R170). -/
  imagesDue : Bool := false
  /-- Released extents that await zeroing (R244). -/
  dirty : List Dirty := []
  /-- Extents held by a leaf in progress are waiting for an eviction save (R237). -/
  evictWait : Bool := false
  /-- PARITY_EVENTS of the cluster memory (R155). -/
  parityEvents : BitVec 64 := 0
deriving DecidableEq, Repr

/-! ### Cells and configuration -/

/-- A placed or configured cell: the applied record of 256 bytes (Table 16-7) and what follows from it. -/
structure Cell where
  /-- The cell record as applied. -/
  rcd : Bytes
  /-- The cell is in service on this chip. -/
  placed : Bool := false
  cluster : Fin 4 := 0
  /-- The pool cell number (R336). -/
  poolCell : Nat := 0
  /-- MARK_MISSING_c (R226). -/
  markMissing : BitVec 64 := 0
  /-- Slot clock: the AON tick at which symbol 13's window of slot 0 of the clock ends, if set (R297). -/
  clock : Option Nat := none
  /-- What the clock was before its last re-alignments, oldest first: the first index that each no longer holds for, and its tick
  (R297). -/
  clocks : List (Nat × Nat) := []
  /-- Numbering: an index of the clock, and the SFN and slot, packed under R450, that it has (R297). -/
  number : Option (Nat × Nat) := none
  /-- Index of the next slot whose C-plane window opens, in the uplink and in the downlink (R299). -/
  cpUl : Nat := 0
  cpDl : Nat := 0
  /-- First index that is served after the port came up (R290). -/
  resume : Nat := 0
  /-- A placement that waits for FULL quires to be saved (R239). -/
  waitFull : Bool := false
deriving DecidableEq, Repr

/-- The SCHED_CONFIG record with every field at its default (Table 16-8). -/
def schedDefault : Bytes :=
  [0, 0, 80, 0, 10, 0, 0, 0] ++ List.replicate 8 0 ++ List.replicate 80 16 ++ List.replicate 32 0

/-- The POOL_CONFIG record with every field at its default (Table 16-8). -/
def poolDefault : Bytes :=
  List.replicate 32 0 ++ [0, 2, 2, 1, 0, 3, 100, 0] ++ List.replicate 24 0

/-- Chip configuration records (R373 to R378). -/
structure ChipCfg where
  /-- SCHED_CONFIG record as applied, 128 bytes (Table 16-8): the defaults at reset. -/
  sched : Bytes := schedDefault
  /-- POOL_CONFIG record as applied, 64 bytes (Table 16-8): the defaults at reset. -/
  pool : Bytes := poolDefault
  /-- Cells by local index. -/
  cells : Table Cell := []
  /-- Pool cell records kept for the canonical image, by pool cell number (R377). -/
  poolCells : Table Bytes := []
  /-- Marks: AON tick of the last mark of each timing group (R226). -/
  lastMark : Table Nat := []
  /-- Timing groups for which MARK_LOST was raised since their last mark (R226). -/
  lostGroups : List Nat := []
  /-- MARK_IGNORED. -/
  markIgnored : BitVec 64 := 0
  /-- AON tick of the last SLOT_MARK_IN edge taken (R444). -/
  lastEdge : Option Nat := none
deriving DecidableEq, Repr

/-! ### Coding -/

/-- Progress of one code block (R200 to R208). -/
inductive CbState where
  | waiting | spilled | stored | passed | failed
deriving DecidableEq, Repr

/-- One code block of a PUSCH in the coding subsystem. -/
structure CbCtx where
  state : CbState := .waiting
  /-- Combined LLRs in circular-buffer order. -/
  llr : List Int := []
  /-- The K′ decoded bits. -/
  bits : List Bool := []
  iters : Nat := 0
  /-- Its write-back has been accepted (R208). -/
  written : Bool := false
  /-- Outside the transmitted code-block groups and not passed before: not decoded, reported failed (R207). -/
  skip : Bool := false
  /-- Its place in the cluster's spill area while it is spilled; its LLRs stand there (R199). -/
  spill : Option Nat := none
deriving DecidableEq, Repr

/-- One PUSCH of a slot-reception in the coding subsystem. -/
structure PuschCtx where
  pdu : Pusch
  /-- Its LLRs have been handed over: where they start in the cluster's ring, and what its stored data meets (R194, R209). -/
  handed : Option (Nat × HarqEcc) := none
  /-- LLRs have been combined. -/
  combined : Bool := false
  cbs : List CbCtx := []
  noBuffer : Bool := false
  mismatch : Bool := false
  conflict : Bool := false
  memFill : Bool := false
  /-- The allocation breaks a limit of the bound model (R166). -/
  modelLimit : Bool := false
  /-- Transport-block CRC outcome. -/
  tbPass : Option Bool := none
  payload : Bytes := []
  headerWritten : Bool := false
  /-- The stored header matched the PDU; CB_OK, CB_VALID and TX_COUNT as read (R207). -/
  hdrOk : Bool := false
  okIn : Nat := 0
  validIn : Nat := 0
  txIn : Nat := 0
  /-- Stored data was lost to a memory error (R199, R207). -/
  missing : Bool := false
  /-- Bytes of its ring area that have been read (R194). -/
  readBytes : Nat := 0
  /-- Labels of a re-encoding (R177, R215). -/
  labels : Option (List Bool) := none
  /-- The demapper's INT8 LLRs as they came, of a slot that the yardstick samples (R186). -/
  raw : List Int := []
  posted : Bool := false
deriving DecidableEq, Repr

/-- One UCI part's outcome. -/
structure UciCtx where
  part : UciPart
  /-- 0 not decoded, 1 CRC pass or decoded, 2 CRC failure, 3 DTX. -/
  outcome : Nat := 0
  bits : List Bool := []
  /-- DTX metric m × 256 (Table 16-10). -/
  metric : Int := 0
  modelLimit : Bool := false
  posted : Bool := false
deriving DecidableEq, Repr

/-- What the coding subsystem and the Binder processor keep of one slot-reception until it is posted. -/
structure RxCtx where
  tag : BitVec 16
  cell : Nat
  sfnSlot : Nat
  pusch : List PuschCtx := []
  uci : List UciCtx := []
  /-- The allocations of its PUCCH PDUs, which the limits of its model bind too (R166). -/
  pucch : List Section := []
  /-- Offset table current at quire start (R201), MAX_ITER and UCI_DTX_THR (R197). -/
  beta : Bytes := []
  maxIter : Nat := 8
  dtxThr : Nat := 64
  late : Bool := false
  posted : Bool := false
  /-- Pages of the UL-SCH and the UCI ring that its leaves have taken and no reader has returned (R194). -/
  ulPages : Nat := 0
  uciPages : Nat := 0
  /-- AON tick of the slot close (R204, R209). -/
  close : Nat := 0
  /-- Digest of the slot record and of each stream-symbol (R279). -/
  inputImage : Bytes := []
  /-- The cell record in force at its start (R197, R278). -/
  cellRcd : Bytes := []
  /-- The slot close was forced (R18); some section is missing (R18, R301). -/
  forced : Bool := false
  missing : Bool := false
  /-- The free value of the slot-reception's measurements (R173, R380; the model's own field). -/
  draw : Nat := 0
  /-- Its colophon record once finalised (R283), and whether it has been posted. -/
  colo : Bytes := []
  coloSent : Bool := false
  /-- It has counted for its model (R176, R183). -/
  counted : Bool := false
deriving DecidableEq, Repr

/-- A PRACH occasion (R216 to R220): `y` and `pdp` are its part of the PRACH input and accumulators of bank 1, which no command
addresses (Table 9-2). -/
structure PrachCtx where
  tag : BitVec 16
  cell : Nat
  sfnSlot : Nat
  pdu : PrachPdu
  missing : Bool := false
  /-- Received samples Y by stream and repetition, stream * 64 + repetition (R216). -/
  y : Table (List (BitVec 32)) := []
  /-- Power-delay profiles by root position, stream and repetition, (root * 64 + stream) * 64 + repetition: FP32. -/
  pdp : Table (List (BitVec 32)) := []
  /-- Section digests by repetition, then stream (Table 12-5), for cells with COLOPHON. -/
  digests : List Bytes := []
  /-- The profiles are complete and detection has run. -/
  detected : Bool := false
  /-- Detected: preamble, timing advance, power dB, metric dB (FP32). -/
  found : List (Nat × Nat × BitVec 32 × BitVec 32) := []
  /-- The cell record in force at its start (R197), and the colophon record once finalised. -/
  cellRcd : Bytes := []
  colo : Bytes := []
  posted : Bool := false
deriving DecidableEq, Repr

/-- A downlink slot (R24, R25, R191). -/
structure DlCtx where
  tag : BitVec 16
  cell : Nat
  sfnSlot : Nat
  rcd : DlSlot
  tx : Option TxData := none
  /-- Coded bits by PDU: the encoder's output, which also stands in the home cluster's memory (R214). -/
  coded : Table (List Bool) := []
  /-- U-plane messages that the egress buffer holds, by symbol: stream and body of each (R25). -/
  held : Table (List (Nat × Bytes)) := []
  /-- Close of the transmission window of each scheduled symbol, on the cluster counter: the deadlines of its leaves (Table
  10-1). -/
  closes : List Nat := []
  /-- Symbols whose message was sent, and discarded (R25). -/
  sent : List Nat := []
  lateTx : List Nat := []
  precoderMissing : Bool := false
  /-- Payload of each symbol sent (R281). -/
  sentBytes : Table Bytes := []
  /-- The cell record and offset table in force at its start (R197, R201, R278), and the colophon record once finalised. -/
  cellRcd : Bytes := []
  beta : Bytes := []
  colo : Bytes := []
  fault : Bool := false
  posted : Bool := false
deriving DecidableEq, Repr

/-- HARQ region as HARQ_CONFIG set it (R205). -/
structure HarqCfg where
  base : Nat
  stride : Nat
  count : Nat
  spill : Nat
deriving DecidableEq, Repr

/-- Coding subsystem (R193 to R220). -/
structure Coding where
  harq : Option HarqCfg := none
  /-- LDPC tables 1 to 7 loaded (R201). -/
  ldpc : Table Bytes := []
  rx : Table RxCtx := []
  prach : Table PrachCtx := []
  dl : Table DlCtx := []
  /-- Bytes of LLRs waiting in each cluster's UL-SCH ring, oldest first: tag, PUSCH, code block, bytes (R199). -/
  ring : List (Nat × Nat × Nat × Nat × Nat) := []
  /-- Transport blocks in the decoder output, bank 3 of the working memory: tag, PUSCH, place (R35, Table 9-2). -/
  decOut : List (Nat × Nat × Run) := []
  /-- HARQ colophon table: C of the slot-reception that last wrote each buffer (R279). -/
  harqColophon : Table Bytes := []
deriving DecidableEq, Repr

/-! ### Front end -/

/-- A receive secure association (R304, R305). -/
structure RxSa where
  sci : Nat
  an : Fin 4
  /-- Next packet number expected: highest valid plus one. -/
  nextPn : Nat := 1
  /-- Of an older association: the AON tick of the first valid frame under the newer one of its channel (R305). -/
  since : Option Nat := none
deriving DecidableEq, Repr

/-- One port by its first lane (R287 to R292, R304, R305). -/
structure Port where
  /-- SPEED_MASK: bit 0 for 25.78125, bit 1 for 53.125, bit 2 for 106.25 Gb/s lanes. -/
  speedMask : Byte := 7
  an : Bool := false
  fec25 : Nat := 0
  mtu : Nat := 9216
  mac : BitVec 48 := 0
  eaxcWidths : List Nat := [2, 6, 4, 4]
  macsecMode : Nat := 2
  cipher : Nat := 3
  replayWindow : Nat := 64
  up : Bool := false
  /-- RATE code of FH_PORT_STATE. -/
  rate : Nat := 0
  /-- Receive associations in use, and the older ones still accepted beside them. -/
  rxSas : List RxSa := []
  rxOld : List RxSa := []
  /-- Transmit association number in use, and the packet number of the next frame under it. -/
  txAn : Fin 4 := 0
  txPn : Nat := 1
  /-- A connectivity association key is installed (R305, R396). -/
  cak : Bytes := []
  cakName : Bytes := []
deriving DecidableEq, Repr

/-- A stream-symbol being received (R300, R301). -/
structure StreamSym where
  cell : Nat
  sfnSlot : Nat
  symbol : Nat
  stream : Nat
  /-- PRBs requested, and those received with their bytes. -/
  want : List Nat
  got : Table Bytes := []
  /-- The window has closed or the stream-symbol is complete. -/
  closed : Bool := false
  /-- Granules of the ingress banks that it holds (R300), and its digest when it closes (R279). -/
  gran : Nat := 0
  digest : Bytes := []
  /-- Written to the slot store. -/
  stored : Bool := false
deriving DecidableEq, Repr

/-- An uplink slot in the front end (R17, R18, R299 to R302). -/
structure UlCtx where
  cell : Nat
  sfnSlot : Nat
  rcd : UlSlot
  syms : List StreamSym := []
  missing : Bool := false
  /-- PRACH samples by PDU, stream and symbol: (pdu * 64 + stream) * 64 + symbol, PRB to its bytes in slot-store form. -/
  prach : Table (Table Bytes) := []
  /-- PRACH PDUs whose occasion quire has been triggered. -/
  prachDone : List Nat := []
  /-- The slot close was forced (R18). -/
  forced : Bool := false
  /-- AON tick of the slot close. -/
  closeTick : Option Nat := none
  released : Bool := false
deriving DecidableEq, Repr

/-- A slot store's ring-table entry (R140, R150). -/
structure RingEntry where
  base : Nat
  len : Nat
  releaseObj : Nat
  /-- Placement descriptors a slot needs before the ring is free: RING_RELEASE_N. -/
  need : Nat
  cell : Nat
  /-- A slot holds the ring, and which. -/
  busy : Bool := false
  slot : Option Nat := none
deriving DecidableEq, Repr

/-- A cage (R307 to R312). -/
structure Cage where
  present : Bool := false
  ready : Bool := false
  /-- The check of R309 has decided the module: its port may come up unless it is quarantined. -/
  decided : Bool := false
  identified : Bool := false
  quarantined : Bool := false
  /-- MODULE_UNLISTED has been raised for it. -/
  unlisted : Bool := false
  /-- Page 00h as read, 256 bytes. -/
  page0 : Bytes := []
deriving DecidableEq, Repr

/-- An entry of the module table (R310, R311). -/
structure ModuleEntry where
  serial : Bytes
  minutes : Nat := 0
  unseeded : Bool := true
  /-- Order in which it became absent; 0 while present. -/
  absentAt : Nat := 0
  /-- Bias readings of this hour per lane, in units of 2 µA. -/
  readings : Table (List Nat) := []
  /-- The last 720 hourly means of each lane, newest first, and the first 24, each as sum and count. -/
  means : Table (List (Nat × Nat)) := []
  baseline : Table (List (Nat × Nat)) := []
  lifeRaised : Bool := false
deriving DecidableEq, Repr

/-- The front end (R287 to R313). -/
structure FrontEnd where
  quadMode : Vector (Fin 4) 2 := Vector.replicate 2 0
  ports : Vector Port 8 := Vector.replicate 8 {}
  /-- eAxC table: port, VLAN, eAxC ID to cell, direction (0 rx, 1 tx, 2 PRACH), stream (R294). -/
  eaxc : List (Nat × Nat × Nat × Nat × Nat × Nat) := []
  /-- Last sequence number seen per table entry position, and the next ones to send of U-plane and of C-plane messages (R293). -/
  seqSeen : Table Nat := []
  seqSent : Table Nat := []
  seqCtl : Table Nat := []
  /-- Uplink slots in progress by cell and slot key. -/
  ul : Table UlCtx := []
  /-- Slot records of the slot-path mailbox waiting for their windows (R299), by cell and slot key. -/
  ulRecs : Table UlSlot := []
  dlRecs : Table DlSlot := []
  dciRecs : Table DlSlot := []
  txRecs : Table TxData := []
  /-- Cell and slot of the records that wait, in the order they were read (R297). -/
  recOrder : List (Nat × Nat) := []
  rings : Table RingEntry := []
  /-- Bytes of the ingress banks in use, in 256-byte granules (R300). -/
  granules : Nat := 0
  /-- Counters of Table 13-8: chip counters by id; port and cell counters by id * 4096 + index. -/
  ctrs : Table (BitVec 64) := []
  cages : Vector Cage 8 := Vector.replicate 8 {}
  quarantineMode : Fin 3 := 2
  allow : List (Bytes × Bytes × Bytes) := []
  ratedHours : Nat := 50000
  driftEol : Nat := 50
  lifeWarn : Nat := 2000
  modules : List ModuleEntry := []
  absentSeq : Nat := 0
deriving DecidableEq, Repr

/-! ### Colophons -/

/-- A sealed or sealing batch (Table 12-8). -/
structure Batch where
  number : Nat
  records : List Bytes
deriving DecidableEq, Repr

/-- Colophon state (R278 to R285). -/
structure Colophon where
  /-- Number of the open batch and its records. -/
  openNumber : Nat := 0
  openRecs : List Bytes := []
  /-- Batches being signed, oldest first. -/
  sealing : List Batch := []
  /-- Batch store: base, capacity, batches (their 36,224 bytes) oldest first. -/
  store : Option (Nat × Nat) := none
  stored : List (Nat × Bytes) := []
  unsealed : BitVec 64 := 0
  /-- Setup blocks used since reset (R280). -/
  setups : List Bytes := []
deriving DecidableEq, Repr

/-! ### Stitch links and pool -/

/-- States of a stitch link (R315, R430). -/
inductive LinkState where
  | down | training | up | degraded | miswired
deriving DecidableEq, Repr

/-- A flit of a message on its way out: class DATA, FIRST, LAST and the payload (R316, R322). -/
structure QFlit where
  data : Bool
  first : Bool
  last : Bool
  payload : Bytes
  /-- It takes a buffer of the second half: its message has crossed the wrap link of a dimension (R317, R320). -/
  second : Bool := false
deriving DecidableEq, Repr

/-- One stitch link (R314 to R318). -/
structure Link where
  enable : Bool := false
  speedMask : Byte := 3
  lanesMax : Nat := 4
  state : LinkState := .down
  /-- Lanes trained, which they are, and 1 for 106.25 Gb/s. -/
  lanes : Nat := 0
  laneSet : BitVec 4 := 0
  rate : Nat := 0
  /-- SEQ of the last MSG flit sent, and of the last flit received in order and good: the first one sent has SEQ 0. -/
  txSeq : BitVec 16 := 0xFFFF
  rxSeq : BitVec 16 := 0xFFFF
  /-- Flits of messages that wait to be sent (R317). -/
  ctrlQ : List QFlit := []
  dataQ : List QFlit := []
  /-- The replay buffer, oldest first: SEQ and flit. -/
  replay : List (BitVec 16 × QFlit) := []
  /-- Replays without progress (R318). -/
  replays : Nat := 0
  /-- AON tick from which the 4 µs of R318 run, of the last HELLO sent, and of the start of a retrain. -/
  ackFrom : Nat := 0
  helloAt : Nat := 0
  heldAt : Nat := 0
  /-- Buffers of the peer that flits sent hold, oldest first, CTRL and DATA: true in the second half. A half of the first holds 32,
  of the second 256 (R317). -/
  ctrlOut : List Bool := []
  dataOut : List Bool := []
  /-- It retrains within LINK_HOLD, with its replay buffer kept (R318). -/
  retraining : Bool := false
deriving DecidableEq, Repr

/-- A target of an outgoing transfer: its chip, the acknowledged offset, cut (R329), complete, the link on which its messages
first left (R320). -/
structure XTarget where
  chip : Nat
  acked : Nat := 0
  cut : Bool := false
  done : Bool := false
  via : Option (Fin 4) := none
deriving DecidableEq, Repr

/-- An outgoing transfer of a stitch queue (R324 to R330). -/
structure OutXfer where
  num : Nat
  queue : Nat
  desc : Bytes
  wire : Bytes
  /-- Wire offset up to which the targets not cut have been sent the stream. -/
  sent : Nat
  /-- AON tick of the last progress (R325). -/
  at_ : Nat
  targets : List XTarget
deriving DecidableEq, Repr

/-- An incoming transfer (R452): from chip and number. -/
structure InXfer where
  src : Nat
  num : Nat
  nextSeq : BitVec 16 := 0
  /-- Wire bytes received in order, and those not yet decoded. -/
  wire : Nat := 0
  rest : Bytes := []
  /-- Bytes that decoding a narrowed stream has placed. -/
  pos : Nat := 0
  /-- FP32 scale register: VALUE of the last header of a scaled or zero channel (R58). -/
  scale : BitVec 32 := 0
  /-- Nothing more of it is written: it was refused, or its contribution discarded. -/
  refused : Bool := false
  /-- It has been completed, refused or abandoned. -/
  ended : Bool := false
  /-- A CUT has been received for it (R330). -/
  cut : Bool := false
  /-- A JR transfer: SFN and slot, and the areas that took it, by key. -/
  jrSlot : Option Nat := none
  halves : List Nat := []
deriving DecidableEq, Repr

/-- One half of a joint-reception area (R331, R332). -/
structure JrHalf where
  armed : Option Nat := none
  readyObj : Nat := 0
  base : Nat := 0
  bytes : Nat := 0
  cluster : Fin 4 := 0
  /-- The slot whose cut-off has passed last (R333). -/
  cutoff : Option Nat := none
deriving DecidableEq, Repr

/-- What this chip keeps of another member of the pool (R321, R338). -/
structure Member where
  lost : Bool := false
  jrAllowed : Bool := false
  /-- Rounds for which the EPOCH has differed. -/
  epochRounds : Nat := 0
  /-- AON tick from which the periods without SPINE count; EPOCH and digest of the last SPINE. -/
  heardAt : Nat := 0
  epoch : Nat := 0
  digest : Bytes := []
deriving DecidableEq, Repr

/-- A stitch transfer queue (R324): 8 per cluster. -/
structure SQueue where
  quire : Option (BitVec 16) := none
  descs : List Bytes := []
  launchObj : Nat := 0
  next : BitVec 16 := 0
  /-- FP32 scale register: the scale of the channel encoded last, 0.0 for a zero channel (R55, R56). -/
  scale : BitVec 32 := 0
deriving DecidableEq, Repr

/-- The stitch unit (R314 to R340). -/
structure Stitch where
  links : Vector Link 4 := Vector.replicate 4 {}
  members : Table Member := []
  queues : Vector SQueue 32 := Vector.replicate 32 {}
  outX : List OutXfer := []
  inX : List InXfer := []
  nextXfer : Nat := 0
  /-- JR areas: key cell * 8 + peer * 2 + half. -/
  jr : Table JrHalf := []
  /-- Spine digest of the canonical image, and whether a change waits for the recomputation (R337). -/
  spine : Bytes := []
  spineStale : Bool := true
  /-- AON tick of the last spine round (R337). -/
  roundAt : Nat := 0
  /-- Messages held while no route to their destination is up, or until the transfers sent there on an earlier route have
  ended; each with its class, true for DATA (R320). -/
  held : List (Bool × SMsg) := []
  /-- Counters of Table 14-7: link counters by id * 8 + link; chip, cell and cluster counters by id * 4096 + index. -/
  ctrs : Table (BitVec 64) := []
  /-- Wait sequence number of each core (R263). -/
  waitSeq : Table Nat := []
  /-- Remote takes outstanding: request number, core, destination register. -/
  takes : List (Nat × Nat × Nat) := []
  /-- OK grants sent to remote waiters: transfer number, cluster, object, amount (R264). -/
  grants : List (Nat × Nat × Nat × Nat) := []
  nextTake : Nat := 0
deriving DecidableEq, Repr

/-! ### Engines and cores -/

/-- The sticky status flags of R50, with the EMPTY flag of a leaf's completion status (R71, R103). -/
structure Sticky where
  sat : Bool := false
  inval : Bool := false
  wrap : Bool := false
  empty : Bool := false
deriving DecidableEq, Repr

/-- The mode operands that ARRAY_MODE sets (Table 4-2). -/
structure ArrayMode where
  op : Nat
  xfmt : Nat
  wfmt : Nat
  conj : Bool
  cmp : Nat
  tol : Nat
  gateOff : Bool
deriving DecidableEq, Repr

/-- The array state at a leaf boundary (R87): mode operands with τ, tile validity, W_ADDR, W_STRIDE, the sticky flags and
the mismatch count of the leaf. -/
structure ArrayState where
  mode : Option ArrayMode := none
  tileValid : Bool := false
  wAddr : Nat := 0
  wStride : Int := 0
  flags : Sticky := {}
  mismatches : Nat := 0
deriving DecidableEq, Repr

/-- Bytes of the scratchpad, or units of the accumulator store, that an engine instruction in flight has still to read or
write (R63, R99, R118): the span, and the DSP cycle of the leaf from which it has done so. -/
structure Flight where
  acc : Bool
  write : Bool
  /-- By the array's feeder, its drain, or the vector engine: 0, 1, 2. -/
  unit_ : Nat
  lo : Int
  hi : Int
  done : Nat
deriving DecidableEq, Repr

/-- Where the units of an engine stand in the live leaf, in DSP cycles from its start (R62 to R64, R97, R99, R117). -/
structure EngTime where
  /-- First cycle in which the feeder path, the accumulator read port and the vector engine are free. -/
  feed : Nat := 0
  drain : Nat := 0
  vec : Nat := 0
  /-- The check barrier has cleared from here on (R64). -/
  barrier : Nat := 0
  /-- Starts of the array and of the vector instructions issued: one that lies ahead is pending (R117). -/
  arrStarts : List Nat := []
  vecStarts : List Nat := []
  flights : List Flight := []
  /-- The cycle from which a vector or mask register may be read, by operand code (R99). -/
  ready : Table Nat := []
  /-- Array and vector cycles of this attempt that a cause of Table 7-9 has counted (R154). -/
  stallArr : Nat := 0
  stallVec : Nat := 0
deriving DecidableEq, Repr

/-- One engine: matrix array, vector engine, counters (R61 to R110, R153, R431). -/
structure Engine where
  /-- Retired (R36, R86). -/
  retired : Bool := false
  /-- The quire whose array state the engine holds (R87, R240). -/
  owner : Option (BitVec 16) := none
  /-- Mode operands; none until an ARRAY_MODE (R65). -/
  mode : Option ArrayMode := none
  tileValid : Bool := false
  /-- A reload is due before the next stream (R68). -/
  tileReload : Bool := false
  wAddr : Nat := 0
  wStride : Int := 0
  /-- Weights of the tile by lane, expanded to 128 columns; a negated weight is (pattern, true) (R66, R79). -/
  tile : List (List (Nat × Bool)) := []
  /-- Accumulator units written by the leaf since its boundary (R73). -/
  written : List Nat := []
  flags : Sticky := {}
  /-- Vector registers, 64 lanes each; absent: zero (R92). -/
  v : Table (List Nat) := []
  /-- Mask registers m1 to m7; absent: zero (R92). -/
  m : Table Nat := []
  /-- Loaded activation tables, 80 words each (R108). -/
  acts : Table (List Nat) := []
  /-- Checksum mismatches of the live leaf (R86, R87). -/
  mismatches : Nat := 0
  /-- Array instructions issued in the leaf, and the issue index and mode of its latest stream, once there is one (Table
  4-9). -/
  issued : Nat := 0
  stream : Option (Nat × ArrayMode) := none
  /-- The array state of the leaf's boundary, from which a replay starts (R85, R87). -/
  bound : ArrayState := {}
  tm : EngTime := {}
  /-- Counters of Table 19-9 by offset / 8. -/
  ctrs : Vector (BitVec 64) 16 := Vector.replicate 16 0
deriving DecidableEq, Repr

/-- A value on its way to a DSP register (R124, R127). -/
inductive DspWrite where
  /-- Replace the register. -/
  | put (v : BitVec 64)
  /-- Add the two parts to the halves at landing, clamping if the flag is set. -/
  | acc (lo hi : Int) (sat : Bool)
deriving DecidableEq, Repr

/-- An in-flight DSP write: the issue cycle at whose end it lands, and the physical register. -/
structure DspPend where
  land : Nat
  reg : Nat
  w : DspWrite
deriving DecidableEq, Repr

/-- An active hardware loop (R129). -/
structure LoopCtx where
  top : Nat
  remaining : Nat
  iter : Nat
  pro : Nat
  drn : Nat
  /-- Instructions of the body, and those of them still to issue in this iteration. -/
  len : Nat
  left : Nat
  /-- Ring size, or 0. -/
  ring : Nat
  /-- It is an outer loop: an inner one ran in its body. -/
  outer : Bool := false
deriving DecidableEq, Repr

/-- A WAIT in progress (R256, R263, Table 11-8). -/
structure WaitCtx where
  ref : BitVec 64
  n : BitVec 16
  limit : BitVec 16
  rd : Nat
  remote : Bool
  /-- Wait sequence number of a remote wait. -/
  seq : Nat := 0
  /-- Cluster counter at issue. -/
  issued : Nat := 0
  /-- AON tick at which the owner answered BUSY, until the registration is sent again (R263). -/
  busy : Option Nat := none
deriving DecidableEq, Repr

/-- The context of a core at a leaf boundary (R120). -/
structure CoreCtx where
  s : Table (BitVec 64) := []
  a : Table (BitVec 32) := []
  /-- ACB0 to ACB3 and ACL0 to ACL3, those bound. -/
  acb : Table Nat := []
  acl : Table Nat := []
  pc : Nat := 0
  flags : Sticky := {}
deriving DecidableEq, Repr

/-- A leaf's completion status (R50, R88, R110, R135): the leaf, its fault code or 0, and the flags of the core's two engines
and of its DSP. -/
structure LeafStatus where
  tag : BitVec 16 := 0
  leaf : Nat := 0
  code : Nat := 0
  eng0 : Sticky := {}
  eng1 : Sticky := {}
  dsp : Sticky := {}
  /-- REMOTE_REFUSED and NONFINITE of a transfer that the leaf launched (R326, R327). -/
  refused : Bool := false
  nonfinite : Bool := false
deriving DecidableEq, Repr

/-- One core: sequencer and DSP (R111 to R135). -/
structure Core where
  /-- Tag of the quire whose leaf is live on the core. -/
  leaf : Option (BitVec 16) := none
  /-- The live context: s0 to s63, a0 to a15, rings, leaf program counter, DSP flags. -/
  cx : CoreCtx := {}
  /-- The hidden boundary copy (R120). -/
  boundary : CoreCtx := {}
  /-- Shadow copies of s56 to s63, a8 to a11, pc and flags while a handler runs (R134). -/
  shadow : CoreCtx := {}
  inHandler : Bool := false
  /-- d0 to d127 by physical register; absent: zero (R120). -/
  d : Table (BitVec 64) := []
  pend : List DspPend := []
  /-- Issue cycles since leaf start (R113). -/
  cycle : Nat := 0
  /-- DSP cycles since leaf start, those without issue included (R113, R223). -/
  now : Nat := 0
  /-- The DSP cycle from which an s register may be read (R114). -/
  ready : Table Nat := []
  roff : Nat := 0
  rsize : Nat := 64
  /-- Active hardware loops, innermost first. -/
  loops : List LoopCtx := []
  /-- SIGs held until the leaf ends, in issue order: reference and amount (R119). -/
  sigs : List (BitVec 64 × BitVec 32) := []
  /-- SIGs released by the leaf's end and not yet applied, oldest first, with the tag of their quire (R119, R328). -/
  released : List (BitVec 64 × BitVec 32 × BitVec 16) := []
  /-- Destination registers of outstanding TAKEs, by request number (R119). -/
  takes : List (Nat × Nat) := []
  wait : Option WaitCtx := none
  /-- Remote waits that expired, by sequence number, with reference and amount: an OK grant that crosses the cancellation
  is returned (R264). -/
  expired : List (Nat × BitVec 64 × BitVec 16) := []
  /-- Array cycles of the leaf that are charged already: a leaf may cross accounting windows (R234). -/
  charged : Nat := 0
  /-- The object reference of the latest TAKE of this chip that found EMPTY, and the DSP cycle of its issue: until a TAKE of that
  object again, the core retries (R153, R258). -/
  retry : Option (BitVec 64 × Nat) := none
  overrun : Bool := false
  /-- An OVERRUN arrived during a handler and is taken after its return (R133). -/
  overrunHeld : Bool := false
  /-- A pre-emption request is held (R133). -/
  preempt : Bool := false
  /-- The completion status of the leaf that ended or stopped last on the core (R50). -/
  status : LeafStatus := {}
  /-- Leaf replays since the boundary. -/
  replays : Nat := 0
  /-- SEQ_ISSUE_WAIT (R113). -/
  issueWait : BitVec 64 := 0
deriving DecidableEq, Repr

/-- A joint-mode context kept with a quire between its leaves: its core contexts by relative core (R120, R242). -/
structure QuireCtx where
  core0 : CoreCtx := {}
  core1 : CoreCtx := {}
  wait0 : Option WaitCtx := none
  wait1 : Option WaitCtx := none
  /-- Array states by position (R87). -/
  arr : Table ArrayState := []
deriving DecidableEq, Repr

/-! ### Receiver models, adaptation, yardstick, precoding -/

/-- The states of a version (Table 8-9), with the codes of ADAPT_STATUS. -/
inductive VState where
  | training | evaluating | staged | active | retired | rejected | discarded
deriving DecidableEq, Repr

/-- A version of a model's adaptable weights (R180, R185). -/
structure Version where
  number : Nat
  parent : Nat
  state : VState
  meanLoss : BitVec 32 := 0
  /-- SFN and slot of the first slot batch, packed under R450; none if never active. -/
  firstSlot : Option Nat := none
  /-- D_v. -/
  digest : Bytes := []
  /-- The FP32 adaptable weights of the version. -/
  weights : List (BitVec 32) := []
deriving DecidableEq, Repr

/-- A transport block that labels are built of (R177, R186): its PUSCH, whether it passed CRC once that is known, the copy of the
demapper's INT8 LLRs that the yardstick takes, and the coded bits in their order, once they are built. Its bits have weight 1 then;
those of UCI and of blocks that failed have weight 0. -/
structure LabelTb where
  pdu : Pusch
  passed : Bool := false
  llrs : List Int := []
  labels : Option (List Bool) := none
deriving DecidableEq, Repr

/-- A record of a model's record ring (R176). -/
structure SampleRec where
  /-- Sample count: even counts train, odd counts evaluate. -/
  count : Nat
  cell : Nat
  sfnSlot : Nat
  /-- Number of its slot batch. -/
  batch : Nat := 0
  /-- Input digest of the slot, the slot record, and the cell's BFP symbols. -/
  digest : Bytes := []
  raw : Bytes := []
  data : Bytes := []
  /-- The slot has posted and is kept: some transport block passed CRC. -/
  kept : Bool := false
  /-- Its transport blocks with their labels (R177). -/
  tbs : List LabelTb := []
deriving DecidableEq, Repr

/-- A change of the active version that waits for its point (R182, R183, R184). -/
structure Promote where
  /-- The version that becomes ACTIVE. -/
  version : Nat
  /-- Slot-batch count from which it is active in pressed mode; none in loose mode. -/
  atBatch : Option Nat
  /-- It is a rollback: the version replaced is RETIRED and no watch starts. -/
  rollback : Bool
deriving DecidableEq, Repr

/-- The two copies of a model's adaptable weights on the engines of one cluster (R162, R182). -/
structure ModelCopies where
  /-- The version in the active copy, and the one that stands complete in the standby copy of every engine. -/
  active : Nat := 0
  standby : Option Nat := none
  /-- The version that is being written, and the engines on which its standby copy is written. -/
  writing : Option Nat := none
  written : List Nat := []
  /-- The second of the two copies is the active one. -/
  second : Bool := false
deriving DecidableEq, Repr

/-- The watch that follows a promotion (R183). -/
structure Watch where
  fNew : Nat := 0
  seen : Nat := 0
  fOld : Nat
  parent : Nat
deriving DecidableEq, Repr

/-- A resident model (R159 to R185). -/
structure Model where
  id : BitVec 64
  /-- The decrypted package image. -/
  image : Bytes
  /-- Adaptation parameter block in force, 64 bytes (Table 8-10), and the one that the next candidate takes (R174). -/
  params : Bytes
  nextParams : Option Bytes := none
  versions : List Version
  active : Nat := 0
  /-- The copies on each cluster (R182). -/
  copies : Vector ModelCopies 4 := Vector.replicate 4 {}
  promote : Option Promote := none
  /-- Candidate in progress: momenta, steps done, input digests used (R178, R185). -/
  momenta : List (BitVec 32) := []
  steps : Nat := 0
  digests : List Bytes := []
  /-- Sample counts of the records that the running job holds, in the order of use (R176, R178, R181, R247). -/
  job : List Nat := []
  /-- Sample count of the newest training record that the candidate has used (R181). -/
  newest : Nat := 0
  /-- Slot batch of the newest evaluation record. -/
  evalBatch : Nat := 0
  watch : Option Watch := none
  /-- Failed transport blocks of the last RB_WINDOW slot-receptions, newest first (R183). -/
  history : List Nat := []
  /-- Samples counted, and the record ring, oldest first (R176). -/
  samples : Nat := 0
  ring : List SampleRec := []
  /-- Number of the newest slot batch of its cells, counted on over the SFN's wrap. -/
  clock : Nat := 0
  /-- The last change in pressed mode: the first slot batch of the new version, and the version before it. -/
  switched : Option (Nat × Nat) := none
  /-- Clusters on which the model runs non-resident (R170). -/
  nonResident : List Nat := []
deriving DecidableEq, Repr

/-- A stored yardstick sample waiting to be measured (R186). -/
structure YardSample where
  sfnSlot : Nat
  /-- AON tick of the sample. -/
  at_ : Nat
  /-- The cell's CI16 symbols, as the front end's expansion unit writes them. -/
  data : Bytes := []
  /-- Its transport blocks with the LLRs and labels copied, and the cell record it was received under. -/
  tbs : List LabelTb := []
  cellRcd : Bytes := []
  /-- The slot has posted, so that the CRC of each block is known. -/
  posted : Bool := false
deriving DecidableEq, Repr

/-- One row of the yardstick: per Qm (R189, R190). -/
structure YardRow where
  count : Nat := 0
  /-- FP32 sums of I of the learned and of the other receiver. -/
  learned : BitVec 32 := 0
  other : BitVec 32 := 0
deriving DecidableEq, Repr

/-- The yardstick of a cell (R186 to R190). -/
structure Yard where
  taken : BitVec 32 := 0
  dropped : BitVec 32 := 0
  tb : BitVec 32 := 0
  rows : Vector YardRow 4 := Vector.replicate 4 {}
  samples : List YardSample := []
deriving DecidableEq, Repr

/-- A precoding matrix of a cell's precoding table (R191): CI16 elements by row, a row for each stream. -/
structure Precoder where
  layers : Nat
  streams : Nat
  elems : List (BitVec 32)
deriving DecidableEq, Repr

/-! ### Security -/

/-- The fuse fields that change or that the shadow copies (Table 17-1); the key hashes and the UDS are constants of the
device in `Config`. -/
structure Fuses where
  jtagLock : Bool := true
  lifecycle : BitVec 2 := 1
  key0Revoked : Bool := false
  pkgSvn : BitVec 64 := 0
  fwSvn : BitVec 64 := 0
  /-- OWNER_ROOT: none while blank. -/
  ownerRoot : Option Bytes := none
deriving DecidableEq, Repr

/-- An SPDM responder's progress (R393). -/
structure Spdm where
  version : Bool := false
  caps : Bool := false
  algs : Bool := false
  /-- A session is being set up or open: requester and responder session identifiers. -/
  session : Option (BitVec 16) := none
  finished : Bool := false
deriving DecidableEq, Repr

/-- Root of trust (R385 to R403). -/
structure Security where
  fuses : Fuses := {}
  shadow : Fuses := {}
  /-- Board flash (R387, R389). -/
  flash : Flash := {}
  /-- Manifest bytes 0x000 to 0xAE0 of the running bundle. -/
  manifest : Bytes := []
  /-- The derived keys are present (R391, R401). -/
  keys : Bool := false
  spdm : Spdm := {}
deriving DecidableEq, Repr

/-! ### The machine -/

/-- One canonical byte memory over the model's own numbering of every memory of the part (see `Ops`). -/
abbrev Mem := List Host.Cell

/-- A context slot of the context area (R242, Table 10-6). -/
structure CtxSlot where
  tag : BitVec 16
  valid : Bool := false
  /-- The header bytes last written. -/
  header : Bytes := []
deriving DecidableEq, Repr

/-- The state of the part. -/
structure State where
  /-- AON_TICKS (R422). -/
  ticks : BitVec 64 := 0
  boot : Boot := {}
  power : Power := {}
  sec : Security := {}
  host : HostLink := {}
  mbx : Mailbox := {}
  dma : Vector DmaChan 16 := Vector.ofFn fun i : Fin 16 => { lc := decide (i.val < 4) }
  /-- Device windows by number (R353). -/
  windows : Vector (Option DevWindow) 64 := Vector.replicate 64 none
  cfg : ChipCfg := {}
  clusters : Vector Cluster 4 := Vector.replicate 4 {}
  /-- Quires by tag, with the context of each (R222). -/
  quires : Table Quire := []
  qctx : Table QuireCtx := []
  /-- The 64 context slots (R242). -/
  ctxSlots : Vector (Option CtxSlot) 64 := Vector.replicate 64 none
  engines : Vector Engine 16 := Vector.replicate 16 {}
  cores : Vector Core 8 := Vector.replicate 8 {}
  /-- Model slots (R164). -/
  models : Vector (Option Model) 16 := Vector.replicate 16 none
  /-- Yardsticks and precoding tables by cell (R186, R191). -/
  yard : Table Yard := []
  precoders : Table (Table Precoder) := []
  coding : Coding := {}
  fe : FrontEnd := {}
  colo : Colophon := {}
  stitch : Stitch := {}
  /-- Every byte memory. -/
  mem : Mem := []
  /-- What the part has sent out, newest first (the model's own field). -/
  out : List Out := []
  /-- Free values drawn so far (the model's own field): a free value is `Config.fresh` of this count. -/
  fresh : Nat := 0
  /-- Commands waiting, first in, first out (the model's own field). -/
  pending : List Instr := []
deriving DecidableEq, Repr

/-- Faults of the model. No command raises one: every fault the manual names is an effect on the state. -/
inductive Fault where
  /-- An access outside every memory of the part. Raised by nothing in this model: the units check their addresses
  first. Safe. -/
  | unmapped (addr : Nat)
deriving DecidableEq, Repr

/-- Refusals of the model. -/
inductive Refusal where
  /-- A row of the table that has no meaning yet. Raised by the dispatch alone. Safe: nothing is claimed of it. -/
  | notModelled (mnemonic : String)
deriving DecidableEq, Repr

/-- The machine right after the power-on reset: every field at the value its declaration names. -/
def State.reset : State := {}

end Sys2Proof.Machine
end

