-- ==== Sys2Proof/Machine/Flags.lean ====
section
/-!
DEFINITION. Status flags and narrowing: the sticky flags of R50, the integer narrowing of R49 and the out-of-range
rules of Table 3-5 (R51), each with the flag it raises.
-/

namespace Sys2Proof.Machine
open Sys2Proof

/-- Gather the flags of two results. -/
def Sticky.or (a b : Sticky) : Sticky :=
  ⟨a.sat || b.sat, a.inval || b.inval, a.wrap || b.wrap, a.empty || b.empty⟩

/-- Only SAT, only INVALID. -/
def stSat (b : Bool) : Sticky := { sat := b }
def stInval (b : Bool) : Sticky := { inval := b }

/-- An integer shifted right by `k`, rounded to nearest with ties to even (R49). -/
def shiftRound (x : Int) (k : Nat) : Int :=
  if k = 0 then x
  else
    let q := x / (2 ^ k : Nat)
    let r := x % (2 ^ k : Nat)
    let half : Int := (2 ^ (k - 1) : Nat)
    if r > half ∨ (r = half ∧ q % 2 = 1) then q + 1 else q

/-- Clamp to a range, telling whether the value lay outside it. -/
def clampInt (lo hi x : Int) : Int × Bool :=
  if x > hi then (hi, true) else if x < lo then (lo, true) else (x, false)

/-- `narrow_int` of R49: shift by `k`, round, clamp to a signed field of `n` bits; the flag is SAT. -/
def narrowInt (x : Int) (k n : Nat) : Int × Bool :=
  clampInt (-(2 ^ (n - 1) : Nat)) ((2 ^ (n - 1) : Nat) - 1) (shiftRound x k)

/-- Wrap to a signed field of `n` bits. -/
def wrapInt (n : Nat) (x : Int) : Int := sx n (lowBits n x)

/-- Integer arithmetic into `n` bits: clamp with SAT, or wrap, as the saturation bit selects (Table 3-5). -/
def fitInt (sat : Bool) (n : Nat) (x : Int) : Int × Sticky :=
  if sat then
    let (y, f) := clampInt (-(2 ^ (n - 1) : Nat)) ((2 ^ (n - 1) : Nat) - 1) x
    (y, stSat f)
  else (wrapInt n x, {})

/-- A float value written to a float format: infinity on overflow, or with the saturation option the largest finite
value and SAT (Table 3-5); an infinity does not overflow and stays one. -/
def fitFloat (sat : Bool) (f : FFmt) (v : FVal) : Nat × Sticky :=
  let p := fencode f v
  match v with
  | .fin n _ _ =>
    if sat && p % f.signBit == f.infBits then (f.maxBits + (if n then f.signBit else 0), stSat true) else (p, {})
  | _ => (p, {})

/-- A float converted to an integer range: rounded under R49, 0 with INVALID for NaN, clamped with SAT (Table 3-5). -/
def floatToInt (lo hi : Int) (v : FVal) : Int × Sticky :=
  match v with
  | .nan => (0, stInval true)
  | .inf n => (if n then lo else hi, stSat true)
  | .fin _ _ _ =>
    let (y, f) := clampInt lo hi (froundInt v)
    (y, stSat f)

/-- One accumulation into ACC48: modulo 2^48, ACC_WRAP when it wraps (R51). -/
def accAdd48 (a b : Int) : Int × Sticky :=
  let s := a + b
  let w := wrapInt 48 s
  (w, { wrap := decide (w ≠ s) })

end Sys2Proof.Machine
end

