-- ==== Sys2Proof/Machine/Operands.lean ====
section
/-!
DEFINITION. The operand formats (Table 3-1) and every conversion between them: element sizes, the conversions of
Table 3-7, block floating point (R43, R53, R54), and the link-only formats (R55 to R59). Elements are bit patterns.
-/

namespace Sys2Proof.Machine
open Sys2Proof

/-! ### Formats by code (Table 3-1) -/

def fmtInt8 : Nat := 0
def fmtInt12 : Nat := 1
def fmtInt16 : Nat := 2
def fmtInt32 : Nat := 3
def fmtAcc48 : Nat := 4
def fmtU16 : Nat := 5
def fmtFp16 : Nat := 6
def fmtBf16 : Nat := 7
def fmtFp32 : Nat := 8
def fmtCi16 : Nat := 9
def fmtCf16 : Nat := 10
def fmtBfp : Nat := 11
def fmtLs4 : Nat := 12
def fmtLs8 : Nat := 13
def fmtLe4m3 : Nat := 14

/-- Bytes of one stored element, of the formats that memory holds element by element. -/
def fmtBytes : Nat → Nat
  | 0 => 1 | 1 => 2 | 2 => 2 | 3 => 4 | 4 => 8 | 5 => 2 | 6 => 2 | 7 => 2 | 8 => 4 | 9 => 4 | 10 => 4 | _ => 0

/-- A signed integer format. -/
def isSint (f : Nat) : Bool := decide (f ≤ 4)

/-- Significant bits of a signed integer format (Table 3-1). -/
def sigBits : Nat → Nat
  | 0 => 8 | 1 => 12 | 2 => 16 | 3 => 32 | _ => 48

/-- A real float format. -/
def isFlt (f : Nat) : Bool := f == 6 || f == 7 || f == 8

/-- The layout of a real float format. -/
def fltFmt : Nat → FFmt
  | 6 => fp16 | 7 => bf16 | _ => fp32

/-- A complex format. -/
def isCplx (f : Nat) : Bool := f == 9 || f == 10

/-- The format of one part of a complex format; a real format is its own. -/
def partFmt : Nat → Nat
  | 9 => 2 | 10 => 6 | f => f

/-- The integer an element of an integer format holds: the upper bits of INT12 and ACC48 are ignored (R42). -/
def intVal (f x : Nat) : Int := if f = 5 then ((x % 65536 : Nat) : Int) else sx (sigBits f) x

/-- The stored pattern of an integer: the container filled with copies of the sign (R42). -/
def intPat (f : Nat) (i : Int) : Nat := lowBits (8 * fmtBytes f) i

/-- The range of an integer format. -/
def intLo (f : Nat) : Int := if f = 5 then 0 else -(2 ^ (sigBits f - 1) : Nat)
def intHi (f : Nat) : Int := if f = 5 then 65535 else (2 ^ (sigBits f - 1) : Nat) - 1

/-- The value of an element of a real format, and the flag of a signalling NaN read (R45, R50). -/
def fltVal (f x : Nat) : FVal × Sticky := (fdecode (fltFmt f) x, stInval (isSnan (fltFmt f) x))

/-! ### Conversions between real formats (Table 3-7) -/

/-- One real element converted with shift `k` and the saturation option; none for a pair the table does not list. A copy
to the same format keeps every bit (R60), and reading a signalling NaN sets INVALID (R45, R50). U16 is an integer output
of a wider signed integer, so `k` applies to it (R49, R74, R91). -/
def cvtReal (src dst k : Nat) (sat : Bool) (x : Nat) : Option (Nat × Sticky) :=
  if src = dst then
    if isSint src && k != 0 then
      let (y, fl) := fitInt sat (sigBits src) (shiftRound (intVal src x) k)
      some (intPat dst y, fl)
    else if isSint src then some (intPat dst (intVal src x), {})
    else some (x % 2 ^ (8 * fmtBytes src), if isFlt src then (fltVal src x).2 else {})
  else if isSint src then
    if isSint dst then
      if sigBits dst ≥ sigBits src then some (intPat dst (intVal src x), {})
      else
        let (y, c) := narrowInt (intVal src x) k (sigBits dst)
        some (intPat dst y, stSat c)
    else if dst = 5 then
      let (y, c) := clampInt 0 65535 (if 16 < sigBits src then shiftRound (intVal src x) k else intVal src x)
      some (intPat dst y, stSat c)
    else if isFlt dst then some (fitFloat sat (fltFmt dst) (fofInt (intVal src x)))
    else none
  else if src = 5 then
    if dst = 3 then some (x % 65536, {})
    else if dst = 2 then
      let (y, c) := clampInt (-32768) 32767 (intVal 5 x)
      some (intPat 2 y, stSat c)
    else if isFlt dst then some (fitFloat sat (fltFmt dst) (fofInt (intVal 5 x)))
    else none
  else if isFlt src then
    let (v, fl) := fltVal src x
    if isFlt dst then
      let (y, g) := fitFloat sat (fltFmt dst) v
      some (y, fl.or g)
    else if isSint dst || dst == 5 then
      let (y, g) := floatToInt (intLo dst) (intHi dst) v
      some (intPat dst y, fl.or g)
    else none
  else none

/-- The two parts of a complex element, real part low (R3, Table 3-2). -/
def cplxParts (x : Nat) : Nat × Nat := (x % 65536, x / 65536 % 65536)

/-- A complex element of its two parts. -/
def cplxOf (re im : Nat) : Nat := re % 65536 + im % 65536 * 65536

/-- One element converted, complex formats included: a real element becomes the real part, with imaginary part +0; a
complex one is never converted to a real format, but CI16 to INT12 part by part, both parts kept in their places (Table 3-7; DEDUCED,
log entry 49). -/
def cvtElem (src dst k : Nat) (sat : Bool) (x : Nat) : Option (Nat × Sticky) :=
  if isCplx src && isCplx dst then
    let (re, im) := cplxParts x
    match cvtReal (partFmt src) (partFmt dst) k sat re, cvtReal (partFmt src) (partFmt dst) k sat im with
    | some (a, fa), some (b, fb) => some (cplxOf a b, fa.or fb)
    | _, _ => none
  else if isCplx dst then
    if (dst == 9 && (isSint src || src == 5)) || (dst == 10 && isFlt src) then
      (cvtReal src (partFmt dst) k sat x).map fun p => (cplxOf p.1 0, p.2)
    else none
  else if isCplx src then
    if src == 9 && dst == 1 then
      let (re, im) := cplxParts x
      match cvtReal 2 1 k sat re, cvtReal 2 1 k sat im with
      | some (a, fa), some (b, fb) => some (cplxOf a b, fa.or fb)
      | _, _ => none
    else none
  else cvtReal src dst k sat x

/-- The pair of formats is one of Table 3-7. -/
def cvtListed (src dst : Nat) : Bool := (cvtElem src dst 0 false 0).isSome

/-! ### Block floating point (R43, R53, R54) -/

/-- The number that a bit stream spells, its first byte most significant. -/
def beNat (b : Bytes) : Nat := b.foldl (fun n x => n * 256 + x.toNat) 0

/-- `len` bytes of a number, most significant first. -/
def toBE (len n : Nat) : Bytes := (toLE len n).reverse

/-- Bytes of one PRB at mantissa width `w`: the exponent byte and 24 mantissas. -/
def prbBytes (w : Nat) : Nat := 1 + 3 * w

/-- The 24 mantissas of a PRB, as signed `w`-bit integers in wire order. -/
def prbMants (w : Nat) (b : Bytes) : List Int :=
  let n := beNat (slice b 1 (3 * w))
  (List.range 24).map fun i => sx w (n / 2 ^ ((23 - i) * w))

/-- Expansion of one PRB (R53): the 24 INT16 parts, and whether any was clamped. The upper bits of the exponent byte
are ignored. -/
def bfpExpand (w : Nat) (b : Bytes) : List Int × Bool :=
  let e := (b.headD 0).toNat % 16
  let l := (prbMants w b).map fun m => clampInt (-32768) 32767 (m * (2 ^ e : Nat))
  (l.map (·.1), l.any (·.2))

/-- Every rounded mantissa fits at exponent `e` (R54 step 1). -/
def bfpFits (w e : Nat) (parts : List Int) : Bool :=
  parts.all fun x => !(narrowInt x e w).2

/-- The smallest fitting exponent from `e` on, or 15. -/
def bfpExpGo (w : Nat) (parts : List Int) : Nat → Nat → Nat
  | 0, e => e
  | n + 1, e => if bfpFits w e parts then e else bfpExpGo w parts n (e + 1)

/-- Compression of one PRB (R54): its bytes, and whether the clamp counter counts it. -/
def bfpCompress (w : Nat) (parts : List Int) : Bytes × Bool :=
  let e := bfpExpGo w parts 15 0
  let ms := parts.map fun x => (narrowInt x e w).1
  let n := ms.foldl (fun n m => n * 2 ^ w + lowBits w m) 0
  (BitVec.ofNat 8 e :: toBE (3 * w) n, !bfpFits w e parts)

/-- The CI16 elements of expanded parts. -/
def ci16Of : List Int → List Nat
  | re :: im :: r => cplxOf (lowBits 16 re) (lowBits 16 im) :: ci16Of r
  | _ => []

/-- The INT16 parts of CI16 elements. -/
def ci16Parts (l : List Nat) : List Int :=
  l.flatMap fun x => [sx 16 x, sx 16 (x / 65536)]

/-! ### Link-only formats (R55 to R59) -/

/-- How a channel is sent (Table 3-6). -/
structure ChanEnc where
  zero : Bool := false
  const : Bool := false
  nonfinite : Bool := false
  /-- Counted in the link underflow counter (order 4). -/
  underflow : Bool := false
  /-- The FP32 scale, or the constant. -/
  scale : Nat := 0
  /-- One code per element, both parts of a complex one. -/
  codes : List Nat := []
deriving DecidableEq, Repr

/-- The format may be a source or destination of the stitch-link encoder (R55 step 1). -/
def linkSource (f : Nat) : Bool := [1, 2, 3, 6, 7, 8, 9, 10].contains f

/-- The FP32 values of an element: both parts of a complex one (R55 step 1). -/
def linkParts (f x : Nat) : List FVal :=
  if isCplx f then
    [x % 65536, x / 65536 % 65536].map fun p =>
      f32 (((cvtReal (partFmt f) 8 0 false p).getD (0, {})).1)
  else [f32 (((cvtReal f 8 0 false x).getD (0, {})).1)]

/-- Largest code magnitude Q of a link format (R55). -/
def linkQ : Nat → Nat
  | 12 => 7 | 13 => 127 | _ => 448

/-- The larger of two magnitudes. -/
def fmaxMag (a b : FVal) : FVal := if fcmpIeee a b < 0 then b else a

/-- The code of one value at scale `s` (R55 steps 4 and 5). -/
def linkCode (fmt : Nat) (s x : FVal) : Nat :=
  let q := f32 (to32 (fdivV x s))
  if fmt = 14 then (le4m3Code q).1
  else
    let c := (clampInt (-(linkQ fmt : Int)) (linkQ fmt) (froundInt q)).1
    lowBits (if fmt = 12 then 4 else 8) c

/-- Encode one channel of FP32 values (R55, R56). -/
def chanEncode (fmt : Nat) (xs : List FVal) : ChanEnc :=
  let m := xs.foldl (fun a x => fmaxMag a (fabsV x)) (.fin false 0 0)
  if xs.any (fun x => !x.isFin) then { const := true, nonfinite := true, scale := fp32.qnan }
  else if m.isZero then { zero := true, codes := xs.map fun _ => 0 }
  else if xs.all (fun x => fcmpIeee x (xs.headD .nan) == 0) then
    { const := true, scale := to32 (xs.headD .nan) }
  else if to32 m < 2 ^ 23 then { zero := true, underflow := true, codes := xs.map fun _ => 0 }
  else
    let s := to32 (fdivV m (fofInt (linkQ fmt)))
    { scale := s, codes := xs.map (linkCode fmt (f32 s)) }

/-- The FP32 value of a code at scale `s` (R57), and whether it is one the encoder never writes. -/
def linkValue (fmt s c : Nat) : Nat × Bool :=
  if fmt = 14 then
    if c % 128 = 127 then (fp32.qnan, true) else (to32 (fmulV (le4m3Val c) (f32 s)), false)
  else if fmt = 12 then
    if c = 8 then (to32 (fmulV (fofInt (-7)) (f32 s)), true) else (to32 (fmulV (fofInt (sx 4 c)) (f32 s)), false)
  else
    if c = 128 then (to32 (fmulV (fofInt (-127)) (f32 s)), true)
    else (to32 (fmulV (fofInt (sx 8 c)) (f32 s)), false)

/-- Pack codes to bytes (R59). -/
def packCodes (fmt : Nat) (codes : List Nat) : Bytes :=
  if fmt = 12 then
    (chunks 2 codes).map fun p => BitVec.ofNat 8 (p.headD 0 + 16 * (p.drop 1).headD 0)
  else codes.map (BitVec.ofNat 8)

/-- Bytes that `n` codes take (R59). -/
def codeBytes (fmt n : Nat) : Nat := if fmt = 12 then (n + 1) / 2 else n

/-- Unpack `n` codes (R59): the pad nibble is ignored. -/
def unpackCodes (fmt n : Nat) (b : Bytes) : List Nat :=
  if fmt = 12 then (b.flatMap fun x => [x.toNat % 16, x.toNat / 16]).take n
  else (b.map (·.toNat)).take n

/-- Join FP32 parts to elements of a destination format (R57). -/
def linkElems (dst : Nat) (parts : List Nat) : List Nat :=
  let cv := fun f p => ((cvtReal 8 f 0 false p).getD (0, {})).1
  if isCplx dst then
    (chunks 2 parts).map fun p => cplxOf (cv (partFmt dst) (p.headD 0)) (cv (partFmt dst) ((p.drop 1).headD 0))
  else parts.map (cv dst)

/-- The bytes of elements of a stored format, in memory order. -/
def elemBytes (f : Nat) (xs : List Nat) : Bytes := xs.flatMap (toLE (fmtBytes f))

end Sys2Proof.Machine
end

