-- ==== Sys2Proof/Machine/Ops.lean ====
section
/-!
DEFINITION. The named operations that the meanings share: the byte memory, the host-side rings, events, MSI-X,
responses to commands, the configuration report, and the passing of time.
-/

namespace Sys2Proof.Machine
open Sys2Proof

/-! ### The byte memory -/

/-- One byte; an unlisted address reads as zero (DESIGN CHOICE, log entry 2). -/
def Mem.byte : Mem → Nat → Byte
  | [], _ => 0
  | (k, v) :: r, a => if k = a then v else if a < k then 0 else Mem.byte r a

/-- Write one byte, keeping the canonical form. -/
def Mem.put : Mem → Nat → Byte → Mem
  | [], a, b => if b = 0 then [] else [(a, b)]
  | (k, v) :: r, a, b =>
    if a < k then (if b = 0 then (k, v) :: r else (a, b) :: (k, v) :: r)
    else if a = k then (if b = 0 then r else (a, b) :: r)
    else (k, v) :: Mem.put r a b

/-- `n` bytes from an address on. -/
def Mem.read (m : Mem) (a : Nat) : Nat → Bytes
  | 0 => []
  | n + 1 => m.byte a :: Mem.read m (a + 1) n

/-- Write a byte string from an address on. -/
def Mem.write (m : Mem) (a : Nat) : Bytes → Mem
  | [] => m
  | b :: r => Mem.write (m.put a b) (a + 1) r

/-- The keys rise strictly above a bound. -/
def Mem.risingFrom : Nat → Mem → Bool
  | _, [] => true
  | lo, (k, v) :: r => decide (lo ≤ k) && decide (v ≠ 0) && Mem.risingFrom (k + 1) r

/-- The canonical form: keys strictly rising, no entry equal to what an unlisted address reads as. -/
def Mem.wf (m : Mem) : Bool := m.risingFrom 0

/-- Zero a range of addresses. -/
def Mem.clear (m : Mem) (a n : Nat) : Mem := m.filter fun p => decide (p.1 < a ∨ a + n ≤ p.1)

/-! ### The model's numbering of the part's memories (DESIGN CHOICE, log entry 3) -/

/-- Scratchpad of an engine, 4 MiB (R29). -/
def spadAt (e : Nat) : Nat := e * 0x400000
/-- Accumulator store of an engine, 1.5 MiB (R72). -/
def accAt (e : Nat) : Nat := 0x10000000 + e * 0x180000
/-- Cluster memory, 8 MiB (R30). -/
def cmemAt (k : Nat) : Nat := 0x20000000 + k * 0x800000
/-- Quire-data space of a cluster memory: it starts at 0.5 MiB (R118). -/
def qdAt (k : Nat) : Nat := cmemAt k + 0x80000
/-- Front-end buffer, 12 MiB. -/
def feAt : Nat := 0x30000000
/-- Coding working memory, 12 MiB. -/
def codAt : Nat := 0x40000000

/-- The division of coding working memory (Table 9-2), the banks and the clusters' quarters in order (DESIGN CHOICE, log entry 39):
a cluster's UL-SCH LLR ring and UCI ring, and the decoder output of bank 3, as offsets, with their sizes. -/
def ulRing (k : Nat) : Run := ⟨0x120000 * k, 0x120000⟩
def uciRing (k : Nat) : Run := ⟨0x480000 + 0x20000 * k, 0x20000⟩
def decOut : Run := ⟨0x900000, 0x300000⟩
/-- Binder memory, 2 MiB. -/
def binderAt : Nat := 0x50000000
/-- Slot store of a ring-table entry of a cluster (R140). Its bytes are numbered apart from the rest of cluster memory, in
which the slot stores of a cluster share their space by the slots' phases (DEDUCED, log entry 33). -/
def ringAt (k i : Nat) : Nat := 0x60000000 + (k * 16 + i) * 0x800000
/-- DDR5. -/
def ddrAt : Nat := 2 ^ 40
/-- Host memory, by host address. -/
def hostAt : Nat := 2 ^ 64

/-- Read and write the byte memory of the part. -/
def State.rd (s : State) (a n : Nat) : Bytes := s.mem.read a n
def State.wr (s : State) (a : Nat) (b : Bytes) : State := { s with mem := s.mem.write a b }

def State.clearMem (s : State) (a n : Nat) : State := { s with mem := s.mem.clear a n }

/-- Write to host memory. -/
def State.hostWr (s : State) (a : Nat) (b : Bytes) : State := s.wr (hostAt + a) b

/-! ### Places of the file of units -/

def State.eng (s : State) (e : Nat) : Engine := (s.engines.toList[e]?).getD {}
def State.setEng (s : State) (e : Nat) (f : Engine → Engine) : State :=
  if h : e < 16 then { s with engines := vmod s.engines ⟨e, h⟩ f } else s
def State.core (s : State) (c : Fin 8) : Core := s.cores[c]
def State.setCore (s : State) (c : Fin 8) (f : Core → Core) : State := { s with cores := vmod s.cores c f }
def State.cl (s : State) (k : Fin 4) : Cluster := s.clusters[k]
def State.setCl (s : State) (k : Fin 4) (f : Cluster → Cluster) : State := { s with clusters := vmod s.clusters k f }
def State.link (s : State) (l : Fin 4) : Link := s.stitch.links[l]
def State.setLink (s : State) (l : Fin 4) (f : Link → Link) : State :=
  { s with stitch := { s.stitch with links := vmod s.stitch.links l f } }
def State.setFe (s : State) (f : FrontEnd → FrontEnd) : State := { s with fe := f s.fe }
def State.setMbx (s : State) (f : Mailbox → Mailbox) : State := { s with mbx := f s.mbx }
def State.setHost (s : State) (f : HostLink → HostLink) : State := { s with host := f s.host }
def State.setPower (s : State) (f : Power → Power) : State := { s with power := f s.power }
def State.setCoding (s : State) (f : Coding → Coding) : State := { s with coding := f s.coding }
def State.setStitch (s : State) (f : Stitch → Stitch) : State := { s with stitch := f s.stitch }
def State.setColo (s : State) (f : Colophon → Colophon) : State := { s with colo := f s.colo }
def State.setCfg (s : State) (f : ChipCfg → ChipCfg) : State := { s with cfg := f s.cfg }
def State.setSec (s : State) (f : Security → Security) : State := { s with sec := f s.sec }

/-- The cluster of a core and of an engine. -/
def clOfCore (c : Fin 8) : Fin 4 := ⟨c.val / 2, by omega⟩
def clOfEng (e : Fin 16) : Fin 4 := ⟨e.val / 4, by omega⟩

/-- The engines of a cluster in service, in ascending number (R36, R162). -/
def State.inService (s : State) (k : Nat) : List Nat :=
  [4 * k, 4 * k + 1, 4 * k + 2, 4 * k + 3].filter (fun e => !(s.eng e).retired)

/-- Change a quire, if it is known. -/
def State.setQuire (s : State) (tag : Nat) (f : Quire → Quire) : State :=
  match tget? s.quires tag with
  | some q => { s with quires := tset s.quires tag (f q) }
  | none => s

/-! ### Outputs, MSI-X, events -/

/-- Send something out of the part. -/
def State.emit (s : State) (o : Out) : State := { s with out := o :: s.out }

/-- A free value index: the count advances, so that each draw is a value of its own. -/
def State.draw (s : State) : Nat × State := (s.fresh, { s with fresh := s.fresh + 1 })

/-- Send the MSI-X message of a vector, or set its pending bit where it is masked (R344). -/
def State.msix (s : State) (v : Nat) : State :=
  if h : v < 64 then
    if (s.host.msix[v]).masked then
      s.setHost fun l => { l with msix := vmod l.msix ⟨v, h⟩ (fun m => { m with pending := true }) }
    else s.emit (.msix v)
  else s

/-- The Yilon's requests reach the host: the link is in L0 and, where IDE is required, stream 0 is Secure (R345, R358);
in AON the Binder processor is halted (Table 18-2). -/
def State.linkOk (s : State) : Bool :=
  s.host.l0 && (!s.host.ideRequired || s.host.secure0) && decide (s.power.state ≠ .aon)

/-- The 16 header bytes of a record (R363). -/
def recHead (typ tag seq len : Nat) : Bytes :=
  let h := toLE 8 (typ % 256 * 2 ^ 56 + 2 ^ 52 + len % 65536 * 2 ^ 32 + tag % 65536 * 2 ^ 16 + seq % 65536)
  h ++ cpl h

/-- Units that a record of this body takes (R361). -/
def recUnits (body : Bytes) : Nat := 1 + ceilDiv body.length 16

/-- Units written and not yet consumed. -/
def Ring.used (r : Ring) : Nat := (r.prod - r.cons).toNat

/-- Put a record into a device-to-host ring, with the PAD record that keeps it from wrapping (R361): the ring after it
and the bytes written at host addresses; none where there is no room (R362). -/
def Ring.put (r : Ring) (o : OutRec) : Option (Ring × List (Nat × Bytes)) :=
  let u := recUnits o.body
  let pos := r.prod.toNat % r.size
  let pad := if pos + u > r.size then r.size - pos else 0
  if r.base = 0 ∨ r.used + pad + u > r.size then none
  else
    let s1 := r.seq + if pad = 0 then 0 else 1
    let pos1 := if pad = 0 then pos else 0
    some ({ r with prod := r.prod + BitVec.ofNat 32 (pad + u), seq := s1 + 1 },
      (if pad = 0 then [] else [(r.base + 16 * pos, recHead 0 0 r.seq.toNat pad)])
        ++ [(r.base + 16 * pos1, recHead o.typ o.tag s1.toNat u ++ padTo 16 o.body)])

/-- Put as many waiting records as fit, in order (R365). -/
def Ring.putAll : Ring → List OutRec → Ring × List (Nat × Bytes) × List OutRec
  | r, [] => (r, [], [])
  | r, o :: rest =>
    match r.put o with
    | none => (r, [], o :: rest)
    | some (r1, w) =>
      let (r2, w2, left) := Ring.putAll r1 rest
      (r2, w ++ w2, left)

/-- Write a list of strings to host memory. -/
def State.hostWrAll (s : State) (w : List (Nat × Bytes)) : State :=
  w.foldl (fun s p => s.hostWr p.1 p.2) s

/-- Write a count of the index block (R361). -/
def State.putIndex (s : State) (off : Nat) (n : BitVec 32) : State :=
  s.hostWr (s.mbx.idxLatched + off) (toLE 8 n.toNat)

/-- Set a bit of INT_STATUS (R424). -/
def State.setInt (s : State) (i : Nat) : State :=
  s.setHost fun h => { h with intStatus := h.intStatus ||| BitVec.ofNat 16 (2 ^ i) }

/-- Post the responses that wait, in order, then the producer count, the status bit and the message (R361, R365). -/
def State.drainRsp (s : State) : State :=
  if s.linkOk then
    let (r, w, left) := s.mbx.rspq.putAll s.mbx.rspWait
    if w.isEmpty then s
    else
      let s1 := (s.hostWrAll w).setMbx fun m => { m with rspq := r, rspWait := left }
      ((s1.putIndex 0x00 r.prod).setInt 2).msix s.mbx.rspVec
  else s

/-- Post the SPC records that wait, likewise. -/
def State.drainSpc (s : State) : State :=
  if s.linkOk then
    let (r, w, left) := s.mbx.spc.putAll s.mbx.spcWait
    if w.isEmpty then s
    else
      let s1 := (s.hostWrAll w).setMbx fun m => { m with spc := r, spcWait := left }
      ((s1.putIndex 0x10 r.prod).setInt 4).msix s.mbx.spcVec
  else s

/-- Post records to SPC, or let them wait in Binder memory (R20, R365). -/
def State.postSpc (s : State) (l : List OutRec) : State :=
  (s.setMbx fun m => { m with spcWait := m.spcWait ++ l }).drainSpc

/-- Write an event record, if the event queue has room (R384). -/
def State.tryEvent (s : State) (ev src : Nat) (body : Bytes) : Option State :=
  if s.linkOk then
    match s.mbx.evq.put ⟨1, 0, toLE 2 ev ++ toLE 2 src ++ toLE 4 0 ++ toLE 8 s.ticks.toNat ++ body⟩ with
    | none => none
    | some (r, w) =>
      let s1 := (s.hostWrAll w).setMbx fun m => { m with evq := r }
      some (((s1.putIndex 0x08 r.prod).setInt 3).msix 0)
  else none

/-- Raise an event: written to EVQ, or dropped and counted where it has no room (R365, R384). -/
def State.event (s : State) (ev src : Nat) (body : Bytes) : State :=
  match s.tryEvent ev src body with
  | some t => t
  | none => s.setMbx fun m => { m with evtDropped := m.evtDropped + 1, evtOwed := m.evtOwed + 1 }

/-- Set a bit of HL_ERR_STATUS; a bit newly set raises HL_ERROR (R346). -/
def State.hlError (s : State) (i : Nat) : State :=
  if s.host.err.getLsbD i then s
  else (s.setHost fun h => { h with err := h.err ||| BitVec.ofNat 9 (2 ^ i) }).event 1 0 (toLE 4 (2 ^ i))

/-! ### Commands and their responses -/

/-- One correction of the configuration report: KIND, RECORD, FIELD, ELEMENT, WRITTEN, APPLIED (Table 16-6). -/
structure Rep where
  kind : Nat
  rcd : Nat := 0
  field : Nat
  elem : Nat := 0
  written : Nat
  applied : Nat
deriving DecidableEq, Repr

/-- What a command answers: the state with its effect, the status and DETAIL, the response body, the bytes for the
output buffer, its corrections. -/
structure CmdOut where
  st : State
  status : Nat := 0
  detail : Nat := 0
  body : Bytes := []
  outb : Bytes := []
  rep : List Rep := []

/-- A command that ends with a status and changes nothing. -/
def CmdOut.fail (s : State) (status : Nat) (detail : Nat := 0) : CmdOut := { st := s, status := status, detail := detail }

/-- A result of a command: in the response while it fits there, else in the output buffer (R363, R366). -/
def CmdOut.answer (s : State) (b : Bytes) : CmdOut := if b.length ≤ 4080 then { st := s, body := b } else { st := s, outb := b }

/-- The bytes of a report entry (Table 16-6). -/
def Rep.bytes (r : Rep) (seq code tag : Nat) : Bytes :=
  toLE 4 seq ++ toLE 1 code ++ toLE 1 r.kind ++ toLE 2 tag ++ toLE 2 r.rcd ++ toLE 2 r.field ++ toLE 2 r.elem
    ++ toLE 2 0 ++ toLE 8 r.written ++ toLE 8 r.applied

/-- Add entries to the configuration report (R376). -/
def State.report (s : State) (code tag : Nat) : List Rep → State
  | [] => s
  | r :: rest =>
    let seq := s.mbx.reportCount
    let s1 := if s.mbx.reportBase ≠ 0 ∧ s.linkOk then
        s.hostWr (s.mbx.reportBase + seq.toNat % s.mbx.reportSize * 32) (r.bytes seq.toNat code tag)
      else s
    State.report (s1.setMbx fun m => { m with reportCount := seq + 1 }) code tag rest

/-- Queue a response and post what fits (R365, R366). -/
def State.respond (s : State) (code tag status detail first count outLen : Nat) (body : Bytes) : State :=
  let b := toLE 2 status ++ toLE 2 detail ++ toLE 4 first ++ toLE 2 count ++ toLE 2 0 ++ toLE 4 outLen ++ body
  (s.setMbx fun m => { m with rspWait := m.rspWait ++ [⟨code, tag, b⟩] }).drainRsp

/-- Finish a command: the report entries, the output buffer, then the response; a result too long for the output
buffer ends with BAD_LENGTH and applies nothing (R366, R372, R376). -/
def finish (s0 : State) (code : Nat) (c : Cmd) (r : CmdOut) : State :=
  if r.outb.length > c.obLen.toNat then s0.respond code c.tag.toNat 0x0003 0 s0.mbx.reportCount.toNat 0 0 []
  else
    let first := r.st.mbx.reportCount.toNat
    let s1 := r.st.report code c.tag.toNat r.rep
    let s2 := if r.outb.isEmpty then s1 else s1.hostWr c.obAddr.toNat r.outb
    let st := if r.status = 0 ∧ r.rep ≠ [] then 1 else r.status
    s2.respond code c.tag.toNat st r.detail first r.rep.length r.outb.length r.body

/-- Start-up has served the boot ROM: Busum runs (R417). -/
def State.busumUp (s : State) : Bool := s.boot.state == .firmwareInit || s.boot.state == .ready

/-- A record of `len` units can be read from a host-to-device ring (R362, R364). -/
def State.canRead (s : State) (r : Ring) (len : Nat) : Bool :=
  s.busumUp && s.linkOk && decide (r.base ≠ 0) && !r.halted && decide (0 < len) && decide (len ≤ r.used)

/-- Consume the units of a record read from CMDQ. -/
def State.takeCmd (s : State) (len : BitVec 16) : State :=
  let r := { s.mbx.cmdq with cons := s.mbx.cmdq.cons + len.setWidth 32, seq := s.mbx.cmdq.seq + 1 }
  (s.setMbx fun m => { m with cmdq := r }).putIndex 0x18 r.cons

/-- Consume the units of a record read from SPQ. -/
def State.takeSpq (s : State) (len : BitVec 16) : State :=
  let r := { s.mbx.spq with cons := s.mbx.spq.cons + len.setWidth 32, seq := s.mbx.spq.seq + 1 }
  (s.setMbx fun m => { m with spq := r }).putIndex 0x20 r.cons

/-- Why a command is turned away before it runs, if it is: LEN out of bounds, start-up not complete, a parameter length
out of the command's bounds, a failed buffer transfer (R364, R366, R368, R372). -/
def cmdRefusal (s : State) (early : Bool) (lenOk : Nat → Bool) (c : Cmd) : Option (Nat × Nat) :=
  if c.len.toNat < 3 ∨ 257 < c.len.toNat then some (0x0003, 0)
  else if !early && s.boot.state != .ready then some (0x0004, 0)
  else if !lenOk c.params.length then some (0x0003, 0)
  else match c.xferFail with
    | some d => some (0x0006, d.toNat)
    | none => none

/-- What a command acts on, where a running long command may hold it (R369). -/
inductive Target where
  | none | model (id : Nat) | cells | store
deriving DecidableEq, Repr

/-- The target of a command by its code and parameters. MODEL_LOAD names its model in the container's MODEL_ID. -/
def targetOf (code : Nat) (c : Cmd) : Target :=
  if code = 0x20 then .model (fld c.params 0x18 8)
  else if code = 0x21 ∨ code = 0x24 ∨ code = 0x25 ∨ code = 0x26 then .model (fld c.params 0 8)
  else if code = 0x12 ∨ code = 0x13 ∨ code = 0x15 ∨ code = 0x23 then .cells
  else if code = 0x38 ∨ code = 0x39 ∨ code = 0x3A then .store
  else .none

/-- A short command's target is that of the running long command (R369). -/
def State.targetBusy (s : State) (code : Nat) (c : Cmd) : Bool :=
  match s.mbx.longQ with
  | [] => false
  | j :: _ => targetOf code c != .none && targetOf code c == targetOf j.code j.cmd

/-- A short command (R366 to R372): read from CMDQ, checked, run, answered; it waits where its target is held. -/
def shortCmd (code : Nat) (early : Bool) (lenOk : Nat → Bool) (run : Cmd → State → CmdOut) (c : Cmd) (s : State) :
    State :=
  if s.canRead s.mbx.cmdq c.len.toNat then
    let s1 := s.takeCmd c.len
    match cmdRefusal s early lenOk c with
    | some (st, d) => finish s1 code c (.fail s1 st d)
    | none =>
      if s1.targetBusy code c then s1.setMbx fun m => { m with waitQ := m.waitQ ++ [⟨code, c, 1, []⟩] }
      else finish s1 code c (run c s1)
  else s

/-- A long command (R369): where none runs before it, its first leaf runs at once, and it commits there if it needs no
other; else it waits for its leaves. `snap` is what its first leaf keeps. -/
def longCmd (code : Nat) (early : Bool) (lenOk : Nat → Bool) (snap : State → Bytes)
    (run : Cmd → Bytes → State → CmdOut) (c : Cmd) (s : State) : State :=
  if s.canRead s.mbx.cmdq c.len.toNat then
    let s1 := s.takeCmd c.len
    match cmdRefusal s early lenOk c with
    | some (st, d) => finish s1 code c (.fail s1 st d)
    | none =>
      if s1.mbx.longQ.isEmpty then
        if c.leaves ≤ 1 then finish s1 code c (run c (snap s1) s1)
        else s1.setMbx fun m => { m with longQ := [⟨code, c, c.leaves - 1, snap s1⟩] }
      else s1.setMbx fun m => { m with longQ := m.longQ ++ [⟨code, c, c.leaves, []⟩] }
  else s

/-! ### The passing of time -/

/-- Array cycles in the next `n` AON ticks at the throttle step in force: 10, 7.5 or 5 a tick (Table 18-1), the half
cycles of step 1 falling on every second tick. -/
def State.cyclesIn (s : State) (n : Nat) : Nat :=
  let t := s.ticks.toNat
  match s.power.step.val with
  | 0 => 10 * n
  | 1 => 15 * (t + n) / 2 - 15 * t / 2
  | _ => 5 * n

/-- Engines of a cluster in service with no leaf live on their core. -/
def State.idleEngines (s : State) (k : Nat) : Nat :=
  ((s.inService k).filter (fun e => (s.cores.toList[e / 2]?.getD {}).leaf.isNone)).length

/-- A core waits in a WAIT of its leaf (R258). -/
def State.spins (s : State) (c : Nat) : Bool :=
  let x := s.cores.toList[c]?.getD {}
  x.leaf.isSome && x.wait.isSome && !x.inHandler

/-- DSP cycles of a wait: STALL_SYNC_WAIT of an engine (R258, Table 7-9). -/
def Engine.spin (e : Engine) (n : Nat) : Engine := { e with ctrs := vmod e.ctrs 4 (· + BitVec.ofNat 64 n) }

/-- DSP cycles of a wait, which are cycles without issue (R113). -/
def Core.spin (x : Core) (n : Nat) : Core := { x with now := x.now + n, issueWait := x.issueWait + BitVec.ofNat 64 n }

/-- AON ticks pass: the tick count, the engines of cores that wait, the four cluster counters, the running accounting windows,
the idle cycles (R222, R234, R258, R422, R430; DESIGN CHOICE, log entry 1). While PWR_GOOD is low the AON domain is held in reset (R441). -/
def State.advance (s : State) (n : Nat) : State :=
  let cyc := s.cyclesIn n
  if !s.boot.pwrGood then s else
  { s with
    ticks := s.ticks + BitVec.ofNat 64 n
    cores := Vector.ofFn fun c : Fin 8 => if s.spins c.val then (s.cores[c]).spin (4 * cyc) else s.cores[c]
    engines := Vector.ofFn fun e : Fin 16 => if s.spins (e.val / 2) then (s.engines[e]).spin (4 * cyc) else s.engines[e]
    clusters := Vector.ofFn fun k : Fin 4 =>
      let c := s.clusters[k]
      { c with
        counter := c.counter + BitVec.ofNat 48 n
        winCycles := c.winCycles + cyc
        idleCycles := c.idleCycles + BitVec.ofNat 64 (cyc * s.idleEngines k.val) } }

/-- Fronthaul and stitch lanes are powered: not in STANDBY nor in AON (Table 18-2). -/
def State.lanesOn (s : State) : Bool := s.power.state == .active || s.power.state == .quiet

/-- Let time pass until a count of AON ticks, if it is still to come. -/
def State.advanceTo (s : State) (t : Nat) : State := s.advance (t - s.ticks.toNat)

/-! ### Counters of the front end and of the stitch unit -/

/-- The front-end counters of Table 13-8, in its order. -/
inductive FeCtr where
  | frameBad | fecUncorr | pauseRx | macNotValid | macLate | macNoSa | macUntagged | ecpriBad | eaxcUnknown | seqGap
  | unrequested | duplicate | early | lateArrival | ingressOverflow | compMismatch | bfpClamp | lateTx | realign
  | slotRecordLate
deriving DecidableEq, Repr

/-- Key of a counter at a port, cell or table entry. -/
def FeCtr.key (c : FeCtr) (i : Nat) : Nat := c.ctorIdx * 4096 + i

/-- Add to a front-end counter. -/
def State.feCount (s : State) (c : FeCtr) (i : Nat) (n : Nat := 1) : State :=
  s.setFe fun f => { f with ctrs := tmod f.ctrs (c.key i) 0 (· + BitVec.ofNat 64 n) }

/-- The stitch counters of Table 14-7, in its order (SUM_DISCARDED stands in the cluster). -/
inductive SlCtr where
  | fecCorr | fecUncorr | crcErr | replay | retrain | msgBad | refused | underflow | fmtErr | nonfinite | mcastCut
  | jrLate | jrDiscard | jrBlockedDrop
deriving DecidableEq, Repr

/-- Key of a counter at a link or cell. -/
def SlCtr.key (c : SlCtr) (i : Nat) : Nat := c.ctorIdx * 4096 + i

/-- Add to a stitch counter. -/
def State.slCount (s : State) (c : SlCtr) (i : Nat) (n : Nat := 1) : State :=
  s.setStitch fun f => { f with ctrs := tmod f.ctrs (c.key i) 0 (· + BitVec.ofNat 64 n) }

/-- Ticks of 40 ns in a number of microseconds. -/
def usTicks (us : Nat) : Nat := us * 25

/-! ### Slot-receptions in the coding subsystem -/

def State.rx? (s : State) (tag : BitVec 16) : Option RxCtx := tget? s.coding.rx tag.toNat

def State.setRx (s : State) (tag : BitVec 16) (f : RxCtx → RxCtx) : State :=
  match s.rx? tag with
  | some r => s.setCoding fun c => { c with rx := tset c.rx tag.toNat (f r) }
  | none => s

end Sys2Proof.Machine
end

