-- ==== Sys2Proof/Machine/Fields.lean ====
section
/-!
DEFINITION. The field-by-field checking of configuration records (R373 to R376): what each kind of field does with a
value out of range, and the corrections it reports.
-/

namespace Sys2Proof.Machine
open Sys2Proof

/-- Write a little-endian field of a record. -/
def setFld (b : Bytes) (off len v : Nat) : Bytes := b.take off ++ toLE len v ++ b.drop (off + len)

/-- The check of one field value: the value applied and each correction made on the way, as KIND, value before and
value after (Table 16-6). -/
abbrev Chk := Nat → Nat × List (Nat × Nat × Nat)

/-- Any value. -/
def anyC : Chk := fun v => (v, [])

/-- A numeric field: clamped to the nearest legal value (KIND 0). -/
def numC (lo hi : Nat) : Chk := fun v =>
  let w := clampNat lo hi v
  (w, if w = v then [] else [(0, v, w)])

/-- A signed numeric field of `n` bits. -/
def intC (n : Nat) (lo hi : Int) : Chk := fun v =>
  let x := sx n v
  let y := if x < lo then lo else if hi < x then hi else x
  if x = y then (v, []) else (lowBits n y, [(0, v, lowBits n y)])

/-- An enumeration: an illegal value takes the default (KIND 1). -/
def enumC (ok : Nat → Bool) (dflt : Nat) : Chk := fun v => if ok v then (v, []) else (dflt, [(1, v, dflt)])

/-- A reserved field: cleared (KIND 2). -/
def rsvC : Chk := fun v => if v = 0 then (v, []) else (0, [(2, v, 0)])

/-- Reserved bits inside a field: cleared first (KIND 2), then the rest is checked (R374). -/
def maskC (mask : Nat) (k : Chk) : Chk := fun v =>
  let w := v &&& mask
  let (x, l) := k w
  (x, (if w = v then [] else [(2, v, w)]) ++ l)

/-- A field that must be a multiple within a range: the nearest legal value, the lower of two equally near (KIND 0;
DEDUCED, log entry 9). -/
def multC (m lo hi : Nat) : Chk := fun v =>
  let w := clampNat lo hi v
  let y := w - w % m
  let x := if 2 * (w % m) ≤ m ∨ hi < y + m then y else y + m
  (x, if x = v then [] else [(0, v, x)])

/-- The power of two in a range of exponents that lies nearest, the lower of two equally near. -/
def nearPow2Go (v : Nat) : Nat → Nat → Nat
  | 0, k => 2 ^ k
  | n + 1, k =>
    let r := nearPow2Go v n (k + 1)
    let d := fun a b : Nat => (a - b) + (b - a)
    if d v (2 ^ k) ≤ d v r then 2 ^ k else r

/-- A power of two between two exponents (KIND 0). -/
def pow2C (lo hi : Nat) : Chk := fun v =>
  let w := nearPow2Go v (hi - lo) lo
  (w, if w = v then [] else [(0, v, w)])

/-- A field of a record: its number, offset, size of one element and count of elements, and its check. -/
structure FSpec where
  no : Nat
  off : Nat
  size : Nat
  cnt : Nat := 1
  chk : Chk

/-- The first 8 bytes of a wider value (Table 16-6). -/
def low8 (v : Nat) : Nat := v % 2 ^ 64

/-- Check the elements of one field from element `i` on. -/
def checkElems (rcd : Nat) (f : FSpec) : Nat → Nat → Bytes → Bytes × List Rep
  | 0, _, b => (b, [])
  | n + 1, i, b =>
    let v := fld b (f.off + i * f.size) f.size
    let (w, l) := f.chk v
    let b1 := if w = v then b else setFld b (f.off + i * f.size) f.size w
    let (b2, r) := checkElems rcd f n (i + 1) b1
    (b2, l.map (fun t => ⟨t.1, rcd, f.no, i, low8 t.2.1, low8 t.2.2⟩) ++ r)

/-- Check a record field by field, in field-number order (R374). -/
def checkFields (rcd : Nat) : List FSpec → Bytes → Bytes × List Rep
  | [], b => (b, [])
  | f :: rest, b =>
    let (b1, r1) := checkElems rcd f f.cnt 0 b
    let (b2, r2) := checkFields rcd rest b1
    (b2, r1 ++ r2)

/-- The record of `n` bytes at an offset is followed by its complement (R373). -/
def cplAt (p : Bytes) (off n : Nat) : Bool := slice p (off + n) n == cpl (slice p off n)

/-- A parameter length of `n` bytes, with the padding to a whole unit that an inline body may carry (DESIGN CHOICE, log entry 8). -/
def exactLen (n l : Nat) : Bool := decide (n ≤ l ∧ l < n + 16)

/-- Field `i` of a parameter list of 8-byte fields (DESIGN CHOICE, log entry 8). -/
def par8 (p : Bytes) (i : Nat) : Nat := fld p (8 * i) 8

/-- Eight-byte fields joined (DESIGN CHOICE, log entry 8). -/
def join8 (l : List Nat) : Bytes := l.flatMap (toLE 8)

end Sys2Proof.Machine
end

