-- ==== Sys2Proof/Machine/Route.lean ====
section
/-!
DEFINITION. Stitch links and routes: the wiring of a pool (R319), the choice of a route (R320), flits, credits and the
replay buffer (R316 to R318), and the sending of messages.
-/

namespace Sys2Proof.Machine
open Sys2Proof

/-! ### The POOL_CONFIG record (Table 16-8) -/

def State.poolId (s : State) : Nat := fld s.cfg.pool 0 8
def State.epoch (s : State) : Nat := fld s.cfg.pool 8 8
def State.poolWin (s : State) : Run := ⟨fld s.cfg.pool 0x10 8, fld s.cfg.pool 0x18 8⟩
def State.topology (s : State) : Nat := fld s.cfg.pool 0x20 1
def State.dimX (s : State) : Nat := fld s.cfg.pool 0x21 1
def State.dimY (s : State) : Nat := fld s.cfg.pool 0x22 1
/-- The number of chips in the pool. -/
def State.poolSize (s : State) : Nat := fld s.cfg.pool 0x23 1
/-- The chip's own number (R319). -/
def State.chip (s : State) : Nat := fld s.cfg.pool 0x24 1
def State.spineGrace (s : State) : Nat := fld s.cfg.pool 0x25 1
def State.spinePeriod (s : State) : Nat := fld s.cfg.pool 0x26 2

/-! ### Wiring (R319) -/

/-- The links of a chip in a pool: all four, in a RING only SL0 and SL1. -/
def State.wired (s : State) (l : Fin 4) : Bool :=
  decide (1 < s.poolSize) && (s.topology != 1 || decide (l.val < 2))

/-- The peer's link: SL0 is wired to SL1, SL2 to SL3. -/
def peerLink (l : Fin 4) : Nat := if l.val % 2 = 0 then l.val + 1 else l.val - 1

/-- One step forward or back on a ring of `n`. -/
def ringStep (n c : Nat) (back : Bool) : Nat := if back then (c + n - 1) % n else (c + 1) % n

/-- The neighbour at the other end of a link. -/
def State.neighbour (s : State) (l : Fin 4) : Nat :=
  let back := decide (l.val % 2 = 1)
  if s.topology = 0 then
    let x := s.chip % s.dimX
    let y := s.chip / s.dimX
    if l.val < 2 then ringStep s.dimX x back + y * s.dimX else x + ringStep s.dimY y back * s.dimX
  else ringStep s.poolSize s.chip back

/-! ### Routes (R320) -/

/-- A link carries messages, or will within LINK_HOLD (R321). -/
def Link.counts (l : Link) : Bool := l.state == .up || l.state == .degraded || l.retraining

/-- The two directions of a ring of `n` from `a` to `b`, the shorter first, with ties to the link of lower number; none
where the two places are one. -/
def ringDirs (n a b : Nat) (fwd back : Fin 4) : List (Fin 4) :=
  let d := (b + n - a) % n
  if d = 0 then [] else if d ≤ n - d then [fwd, back] else [back, fwd]

/-- The first links of the routes to a chip, the preferred one first. -/
def State.firstLinks (s : State) (dst : Nat) : List (Fin 4) :=
  if s.topology = 0 then
    ringDirs s.dimX (s.chip % s.dimX) (dst % s.dimX) 0 1 ++ ringDirs s.dimY (s.chip / s.dimX) (dst / s.dimX) 2 3
  else if s.topology = 1 then ringDirs s.poolSize s.chip dst 0 1
  else ringDirs s.poolSize s.chip dst 0 1 ++ ringDirs s.poolSize s.chip dst 2 3

/-- The link on which messages to a chip leave, as far as this chip's own links tell. -/
def State.route (s : State) (dst : Nat) : Option (Fin 4) :=
  if dst < s.poolSize then (s.firstLinks dst).find? fun l => (s.link l).counts else none

/-- A member is reachable (R321): a route to it exists, and it has not been declared lost. -/
def State.reachable (s : State) (c : Nat) : Bool :=
  c != s.chip && (s.route c).isSome && !(tget s.stitch.members c {}).lost

/-! ### Messages and flits (R316, R322) -/

/-- The bytes of a message: its header of 32 bytes, then its data. -/
def msgBytes (m : SMsg) : Bytes :=
  [m.typ, m.src.setWidth 8, m.dst.setWidth 8, BitVec.ofNat 8 m.cluster.val] ++ toLE 2 m.data.length ++ toLE 2 m.tag.toNat
    ++ toLE 4 m.offset.toNat ++ toLE 2 m.xfer.toNat ++ toLE 2 m.seq.toNat ++ toLE 16 m.arg.toNat ++ m.data

/-- One bit of CRC-32C. -/
def crc32cBit (r : Nat) : Nat := if r % 2 = 1 then (r / 2) ^^^ 0x82F63B78 else r / 2

/-- CRC-32C of a byte string. -/
def crc32c (b : Bytes) : Nat :=
  (b.foldl (fun r x => Nat.repeat crc32cBit 8 (r ^^^ x.toNat)) 0xFFFFFFFF) ^^^ 0xFFFFFFFF

/-- The 256 bytes of a flit (Table 14-2): KIND, the flit, its SEQ, the acknowledgement, credits returned. -/
def flitBytes (kind : Nat) (f : QFlit) (seq ack : BitVec 16) (nak : Bool) (ctrlCr dataCr : Nat) : Bytes :=
  let h := kind * 2 ^ 60 + f.data.toNat * 2 ^ 58 + f.first.toNat * 2 ^ 57 + f.last.toNat * 2 ^ 56
    + ctrlCr % 256 * 2 ^ 48 + dataCr % 256 * 2 ^ 40 + seq.toNat
  let b := toLE 8 h ++ slice f.payload 0 240 ++ toLE 2 ack.toNat ++ [if nak then 3 else 1, 0]
  b ++ toLE 4 (crc32c b)

/-- A message cut into flits, the first and the last marked. -/
def msgFlits (m : SMsg) (data second : Bool) : List QFlit :=
  let l := chunks 240 (msgBytes m)
  (l.zip (List.range l.length)).map fun p => ⟨data, p.2 == 0, p.2 + 1 == l.length, p.1, second⟩

/-- On its way over a link a message is past the wrap of the link's dimension, as seen from where it started (R320): it takes buffers of
the second half. -/
def State.pastWrap (s : State) (m : SMsg) (l : Fin 4) : Bool :=
  let at_ := fun c : Nat => if s.topology ≠ 0 then c else if l.val < 2 then c % s.dimX else c / s.dimX
  let a := at_ m.src.toNat
  let b := at_ (s.neighbour l)
  if l.val % 2 = 0 then decide (b < a) else decide (a < b)

/-- The sender holds a credit for a flit's class and half (R317). -/
def Link.credit (k : Link) (f : QFlit) : Bool :=
  if f.data then decide (k.dataOut.count f.second < 256) else decide (k.ctrlOut.count f.second < 32)

/-- The credit of a flit is spent. -/
def Link.spend (k : Link) (f : QFlit) : Link :=
  if f.data then { k with dataOut := k.dataOut ++ [f.second] } else { k with ctrlOut := k.ctrlOut ++ [f.second] }

/-- Credits return; a header does not say of which half: those of the oldest flits (DESIGN CHOICE, log entry 15). -/
def Link.regain (k : Link) (ctrl data : Nat) : Link := { k with ctrlOut := k.ctrlOut.drop ctrl, dataOut := k.dataOut.drop data }

/-- Send the flits of a link that credits and the replay buffer let go, a CTRL flit before a DATA flit (R317, R318). -/
def pumpGo (l : Fin 4) : Nat → State → State
  | 0, s => s
  | n + 1, s =>
    let k := s.link l
    if k.retraining ∨ (k.state ≠ .up ∧ k.state ≠ .degraded) ∨ 512 ≤ k.replay.length then s
    else
      let seq := k.txSeq + 1
      let now := s.ticks.toNat
      let go := fun (f : QFlit) (k1 : Link) =>
        (s.emit (.flit l.val (flitBytes 1 f seq k.rxSeq false 0 0))).setLink l fun _ =>
          { k1.spend f with txSeq := seq, replay := k.replay ++ [(seq, f)],
                            ackFrom := if k.replay.isEmpty then now else k.ackFrom }
      match (k.ctrlQ.head?.filter k.credit), (k.dataQ.head?.filter k.credit) with
      | some f, _ => pumpGo l n (go f { k with ctrlQ := k.ctrlQ.drop 1 })
      | none, some g => pumpGo l n (go g { k with dataQ := k.dataQ.drop 1 })
      | none, none => s

def State.pump (s : State) (l : Fin 4) : State := pumpGo l 512 s

/-- A quire has a transfer to another chip outstanding (R328). -/
def State.hasXfer (s : State) (tag : BitVec 16) (dst : Nat) : Bool :=
  s.stitch.outX.any fun x => s.stitch.queues.toList[x.queue]?.bind (·.quire) == some tag
    && x.targets.any fun t => t.chip == dst && !t.done

/-- The class of a message by its TYPE: true for DATA (Table 14-3). -/
def isDataMsg (m : SMsg) : Bool := decide (1 ≤ m.typ.toNat ∧ m.typ.toNat ≤ 4)

/-- An earlier transfer to a chip, sent on another link than the route of now, has not ended: new DATA messages to the chip
wait for it (R320). -/
def State.rerouted (s : State) (m : SMsg) (l : Fin 4) : Bool :=
  (s.stitch.outX.takeWhile fun x => !(isDataMsg m && x.num == m.xfer.toNat)).any fun x => x.targets.any fun t =>
    t.chip == m.dst.toNat && !t.done && t.via.isSome && t.via != some l

/-- Put a message on a link in its class. -/
def State.putOn (s : State) (l : Fin 4) (data : Bool) (m : SMsg) : State :=
  let f := msgFlits m data (s.pastWrap m l)
  ((s.emit (.stitch m)).setLink l fun k =>
    if data then { k with dataQ := k.dataQ ++ f } else { k with ctrlQ := k.ctrlQ ++ f }).pump l

/-- Send a message in a class on its route, or hold it while no route is up or an earlier route's transfers have not ended
(R320). -/
def State.sendAs (s : State) (data : Bool) (m : SMsg) : State :=
  let hold := s.setStitch fun t => { t with held := t.held ++ [(data, m)] }
  match s.route m.dst.toNat with
  | some l => if data && s.rerouted m l then hold else s.putOn l data m
  | none => hold

/-- Send a message in the class of its TYPE. -/
def State.sendMsg (s : State) (m : SMsg) : State := s.sendAs (isDataMsg m) m

/-- Send what was held and has a route again. -/
def State.sendHeld (s : State) : State :=
  s.stitch.held.foldl (fun s p => s.sendAs p.1 p.2) (s.setStitch fun t => { t with held := [] })

/-- Send what was held for transfers that have ended; messages of a transfer that has stopped are dropped (R320, R334). -/
def State.sendFreed (s : State) : State :=
  if s.stitch.held.isEmpty then s
  else (s.setStitch fun t => { t with held := t.held.filter fun p =>
    !(isDataMsg p.2) || p.2.src.toNat != s.chip || t.outX.any fun x => x.num == p.2.xfer.toNat }).sendHeld

/-- A CTRL message of this chip (R322, Table 14-3). -/
def ctrlMsg (s : State) (typ dst : Nat) (k : Fin 4) (tag : BitVec 16) (xfer : Nat) (arg : Nat) : SMsg :=
  { typ := BitVec.ofNat 8 typ, src := BitVec.ofNat 6 s.chip, dst := BitVec.ofNat 6 dst, cluster := k, tag := tag,
    offset := 0, xfer := BitVec.ofNat 16 xfer, seq := 0, arg := BitVec.ofNat 128 arg, reservedSet := false, data := [] }

/-- Draw a transfer number, 1 to 65,535. -/
def State.newXfer (s : State) : Nat × State :=
  (s.stitch.nextXfer % 65535 + 1, s.setStitch fun t => { t with nextXfer := (t.nextXfer + 1) % 65535 })

/-! ### Link states (R315) -/

/-- Change a link's state: every change raises STITCH_LINK with the link, the state, the lanes and the rate. -/
def State.setLinkState (s : State) (l : Fin 4) (st : LinkState) : State :=
  let k := s.link l
  if k.state = st then s
  else (s.setLink l fun k => { k with state := st }).event 0x07 l.val
    (toLE 4 l.val ++ toLE 4 st.ctorIdx ++ toLE 4 k.lanes ++ toLE 4 k.rate)

/-- A link goes down: its buffered flits are dropped, and it starts afresh when it next comes up. -/
def State.linkDown (s : State) (l : Fin 4) : State :=
  (s.setLink l fun k =>
    { ({} : Link) with
      enable := k.enable, speedMask := k.speedMask, lanesMax := k.lanesMax, state := k.state
      helloAt := k.helloAt }).setLinkState l .down

/-- Power links up or down as their configuration says (R314, R315): a chip outside a pool has them down. -/
def State.relink (s : State) : State :=
  (List.finRange 4).foldl (fun s l =>
    if s.lanesOn && (s.link l).enable && s.wired l then
      if (s.link l).state = .down then s.setLinkState l .training else s
    else s.linkDown l) s

/-- A retrain (R318): the replay buffer is kept. -/
def State.retrain (s : State) (l : Fin 4) : State :=
  ((s.slCount .retrain l.val).setLink l fun k =>
    { k with retraining := true, lanes := 0, laneSet := 0, replays := 0, heldAt := s.ticks.toNat }).setLinkState l .training

/-- Send the replay buffer of a link again. -/
def State.resend (s : State) (l : Fin 4) : State :=
  let k := s.link l
  (k.replay.foldl (fun s p => s.emit (.flit l.val (flitBytes 1 p.2 p.1 k.rxSeq false 0 0))) s).setLink l fun k =>
    { k with ackFrom := s.ticks.toNat }

/-- A replay (R318): counted; after 8 without progress the link retrains. -/
def State.replayFrom (s : State) (l : Fin 4) : State :=
  if 8 ≤ (s.link l).replays then s.retrain l
  else ((s.slCount .replay l.val).resend l).setLink l fun k => { k with replays := k.replays + 1 }

end Sys2Proof.Machine
end

