-- ==== Sys2Proof/Machine/Accounts.lean ====
section
/-!
DEFINITION. The fields of the configuration records that the schedulers read (Tables 16-7 and 16-8), and the accounts of
engine time (R153, R233 to R235).
-/

namespace Sys2Proof.Machine
open Sys2Proof

/-- The latency-critical kinds (R221). -/
def QKind.lc : QKind → Bool
  | .slotReception => true | .downlink => true | .prach => true | .adaptation => false | .yardstick => false

/-! ### Configuration fields -/

/-- Fields of the SCHED_CONFIG record (Table 16-8). -/
def State.markSource (s : State) : Nat := fld s.cfg.sched 0 1
def State.evictWindow (s : State) : Nat := fld s.cfg.sched 2 2
def State.acctWindow (s : State) : Nat := fld s.cfg.sched 4 2
def State.ctxBase (s : State) : Nat := fld s.cfg.sched 8 8
def State.beWeight (s : State) (consumer : Nat) : Nat := fld s.cfg.sched (0x10 + consumer - 65) 1
def State.stageBase (s : State) : Nat := fld s.cfg.sched 0x60 8

/-- Fields of a cell record (Table 16-7). -/
def Cell.timingGroup (c : Cell) : Nat := fld c.rcd 0x07 1
def Cell.closeOffset (c : Cell) : Nat := fld c.rcd 0x08 2
def Cell.scs (c : Cell) : Nat := fld c.rcd 0x0A 1
def Cell.uplink (c : Cell) : Bool := bit (fld c.rcd 0x0B 1) 0
def Cell.downlink (c : Cell) : Bool := bit (fld c.rcd 0x0B 1) 1
def Cell.nPrb (c : Cell) : Nat := fld c.rcd 0x0C 2
def Cell.nRx (c : Cell) : Nat := fld c.rcd 0x0E 1
def Cell.nTx (c : Cell) : Nat := fld c.rcd 0x0F 1
def Cell.modelId (c : Cell) : Nat := fld c.rcd 0x10 8
def Cell.share (c : Cell) : Nat := fld c.rcd 0x2A 2
def Cell.colophon (c : Cell) : Bool := fld c.rcd 0x2C 1 == 1
def Cell.fhPort (c : Cell) : Nat := fld c.rcd 0x2D 1
def Cell.category (c : Cell) : Nat := fld c.rcd 0x2E 1
def Cell.ulWidth (c : Cell) : Nat := fld c.rcd 0x31 1
def Cell.dlWidth (c : Cell) : Nat := fld c.rcd 0x32 1
def Cell.jrAreaBytes (c : Cell) : Nat := fld c.rcd 0x5C 2 * 4096
def Cell.jrCutoff (c : Cell) : Nat := fld c.rcd 0x5E 2
def Cell.ringReleaseN (c : Cell) : Nat := fld c.rcd 0x68 2

/-- Neighbour cells of joint reception (R331). -/
def Cell.jrPeers (c : Cell) : List Nat := ((List.range 4).map fun i => fld c.rcd (0x60 + 2 * i) 2).filter (· != 0xFFFF)

/-- The chip that a pool cell is placed on. -/
def State.cellChip (s : State) (poolCell : Nat) : Nat :=
  match tget? s.cfg.poolCells poolCell with
  | some r => fld r 5 1
  | none => 0xFF

/-- Joint reception with a chip is allowed (R338): with itself always. -/
def State.jrOk (s : State) (chip : Nat) : Bool := chip == s.chip || (tget s.stitch.members chip {}).jrAllowed

/-- The cell record of a local index. -/
def State.cell? (s : State) (i : Nat) : Option Cell := tget? s.cfg.cells i

/-- The cells placed on a cluster of this chip. -/
def State.cellsOn (s : State) (k : Fin 4) : List (Nat × Cell) :=
  s.cfg.cells.filter fun p => p.2.placed && p.2.cluster == k

/-- A cluster carries a downlink cell (R228). -/
def State.hasDownlink (s : State) (k : Fin 4) : Bool := (s.cellsOn k).any (·.2.downlink)

/-- Ticks of 40 ns in a slot of a cell: 1,000 µs at 15 kHz, halved for each doubling. -/
def Cell.slotTicks (c : Cell) : Nat := 25000 / 2 ^ c.scs

/-! ### Engines and their counters -/

/-- Add to a counter of an engine, by its place in Table 19-9. -/
def State.engCount (s : State) (e : Nat) (i : Fin 16) (n : Nat) : State :=
  s.setEng e fun x => { x with ctrs := vmod x.ctrs i (· + BitVec.ofNat 64 n) }

/-- The two engines of a core. -/
def coreEngs (c : Fin 8) : List Nat := [2 * c.val, 2 * c.val + 1]

/-! ### Accounts (R233 to R235) -/

/-- The share of a consumer: CELL_SHARE of a cell, BE_WEIGHT of a best-effort consumer (Table 10-4). -/
def State.shareOf (s : State) (consumer : Nat) : Nat :=
  if consumer = 0 then 0
  else if consumer ≤ 64 then (match s.cell? (consumer - 1) with | some c => c.share | none => 0)
  else s.beWeight consumer

/-- A cell consumer's entitlement in the running window (R234). -/
def State.entitlement (s : State) (k : Fin 4) (consumer : Nat) : Nat :=
  if 1 ≤ consumer ∧ consumer ≤ 64 then
    s.shareOf consumer * (s.cl k).winEngines * (s.cl k).winCycles / 1024
  else 0

/-- Charge engine time to a consumer of a cluster; a cell may go over its share (R234). -/
def chargeTime (s : State) (k : Fin 4) (consumer : Nat) (n : Nat) : State :=
  let a := tget (s.cl k).accounts consumer {}
  let w := a.window + n
  let exceeds := decide (1 ≤ consumer ∧ consumer ≤ 64 ∧ s.entitlement k consumer < w)
  let a1 := { a with
    engineCycles := a.engineCycles + n, window := w, exceeds := a.exceeds || exceeds,
    overShare := a.overShare + if exceeds && !a.exceeds then 1 else 0 }
  s.setCl k fun c => { c with accounts := tset c.accounts consumer a1 }

/-- Change an account. -/
def State.account (s : State) (k : Fin 4) (consumer : Nat) (f : Account → Account) : State :=
  s.setCl k fun c => { c with accounts := tmod c.accounts consumer {} f }

/-- Throttle fraction of `n` array cycles at the step in force, with 16 fraction bits (Table 7-9). -/
def State.throttled (s : State) (n : Nat) : Nat :=
  match s.power.step.val with
  | 0 => 0
  | 1 => n * 65536 / 3
  | _ => n * 65536

/-- Charge array cycles that a leaf has run: engine time, ENG_LIVE, STALL_THROTTLE, cluster totals, deficit (R153, R231,
R233). -/
def chargeRun (s : State) (q : Quire) (c : Fin 8) (cycles : Nat) : State :=
  let es := (coreEngs c).filter fun e => !(s.eng e).retired
  let s1 := es.foldl (fun s e =>
    (((s.engCount e 9 cycles).engCount e 10 (4 * cycles)).engCount e 7 (s.throttled cycles)).engCount e 8
      (s.throttled (4 * cycles))) s
  let n := cycles * es.length
  let s2 := (chargeTime s1 q.cluster q.consumer n).account q.cluster q.consumer fun a =>
    { a with deficit := if q.kind.lc then a.deficit else a.deficit - cycles }
  s2.setCl q.cluster fun k =>
    if q.kind.lc then { k with lcCycles := k.lcCycles + BitVec.ofNat 64 n }
    else { k with beCycles := k.beCycles + BitVec.ofNat 64 n }

/-- The array cycles of a core's leaf that no account holds yet, up to a count (R234). -/
def Core.owed (x : Core) (cycles : Nat) : Nat := cycles - x.charged

/-- Charge a live leaf for what it has run up to a count of array cycles (R233, R234). -/
def chargeTo (s : State) (q : Quire) (c : Fin 8) (cycles : Nat) : State :=
  (chargeRun s q c ((s.core c).owed cycles)).setCore c fun x => { x with charged := max x.charged cycles }

/-- The array cycles that a core's leaf has run (R223). -/
def Core.ran (x : Core) : Nat := ceilDiv x.now 4

/-- Charge a leaf that ended after `cycles` array cycles: what no window has charged of it, and one leaf (R233). -/
def chargeLeaf (s : State) (q : Quire) (c : Fin 8) (cycles : Nat) : State :=
  (chargeTo s q c cycles).account q.cluster q.consumer fun a => { a with leaves := a.leaves + 1 }

/-! ### Per-cell fields (Table 9-4) -/

def Cell.ldpcTable (c : Cell) : Nat := fld c.rcd 0x1C 1
def Cell.maxIter (c : Cell) : Nat := fld c.rcd 0x1D 1
def Cell.dtxThr (c : Cell) : Nat := fld c.rcd 0x1E 1
def Cell.prachPfa (c : Cell) : Bool := fld c.rcd 0x1F 1 == 1
def Cell.prachDb (c : Cell) : Nat := fld c.rcd 0x20 1
def Cell.prachExp (c : Cell) : Nat := fld c.rcd 0x21 1
def Cell.prachOffset (c : Cell) : Int := sx 8 (fld c.rcd 0x22 1)

/-- An offset table: table 0 is built in with 2 in every entry (R201). -/
def State.offsetTable (s : State) (n : Nat) : Bytes :=
  if n = 0 then List.replicate 1408 2 ++ zeros 128
  else match tget? s.coding.ldpc n with
    | some t => t
    | none => zeros 1536

/-- The cell of a record kept at a trigger. -/
def cellOf (rcd : Bytes) : Cell := { rcd := rcd }

end Sys2Proof.Machine
end

