-- ==== Sys2Proof/Machine/Trigger.lean ====
section
/-!
DEFINITION. The trigger of a quire: its tag, and the best-effort quires that are held past the sixteenth of a cluster (R221,
R222, R229).
-/

namespace Sys2Proof.Machine
open Sys2Proof

/-! ### Tags and triggers -/

/-- A quire has not ended. -/
def QState.open_ : QState → Bool
  | .ended => false
  | .faulted => false
  | _ => true

/-- The next value of a tag counter: 0 and tags of quires that have not ended are skipped (R222). -/
def nextTagGo (s : State) (k : Nat) : Nat → Nat → Nat
  | 0, n => n
  | f + 1, n =>
    let m := (n + 1) % 16384
    let used : Bool := match tget? s.quires (k * 16384 + m) with | some q => q.state.open_ | none => false
    if m == 0 || used then nextTagGo s k f m else m

/-- Best-effort quires of a cluster that are triggered and have not ended (R229). -/
def State.beOpen (s : State) (k : Fin 4) : Nat :=
  (s.quires.filter fun p => p.2.cluster == k && !p.2.kind.lc && p.2.state.open_ && p.2.state != .queued).length

/-- Give a quire its tag. A best-effort quire past the sixteenth is held and not triggered (R222, R229, R244). -/
def newQuire (s : State) (k : Fin 4) (kind : QKind) (consumer owner sfnSlot : Nat) (deadline : Option Nat) :
    BitVec 16 × State :=
  let n := nextTagGo s k.val (s.quires.length + 2) (s.cl k).tagCounter.toNat
  let tag := BitVec.ofNat 16 (k.val * 16384 + n)
  let st := if !kind.lc && decide (16 ≤ s.beOpen k) then QState.queued else QState.ready
  let q : Quire :=
    { tag := tag, cluster := k, kind := kind, state := st, consumer := consumer, owner := owner, sfnSlot := sfnSlot,
      deadline := deadline }
  let s1 := s.setCl k fun c => { c with tagCounter := BitVec.ofNat 14 n }
  (tag, { s1 with quires := tset s1.quires tag.toNat q })

/-- Trigger the oldest held best-effort quire of a cluster, once there is room (R229). -/
def triggerQueued (s : State) (k : Fin 4) : State :=
  if 16 ≤ s.beOpen k then s
  else match s.quires.find? (fun p => p.2.cluster == k && p.2.state == .queued) with
    | some (t, _) => s.setQuire t fun q => { q with state := .ready }
    | none => s

end Sys2Proof.Machine
end

