-- ==== Sys2Proof/Machine/Sync.lean ====
section
/-!
DEFINITION. Sync objects (R250 to R264): SIG, TAKE and their outcomes, waiters and their retries, felling, and the
teardown of a quire that faults (R246, R260), which fells the objects of its run.
-/

namespace Sys2Proof.Machine
open Sys2Proof

/-! ### Objects -/

/-- A system object: indices 0x4000 to 0x40FF (R251). -/
def isSysObj (i : Nat) : Bool := decide (0x4000 ≤ i ∧ i < 0x4100)

def State.obj (s : State) (k : Fin 4) (i : Nat) : SyncObj := tget (s.cl k).objs i {}

/-- Write an object; the scheduler keeps a shadow count of every system object (R262). -/
def State.putObj (s : State) (k : Fin 4) (i : Nat) (o : SyncObj) : State :=
  s.setCl k fun c =>
    { c with
      objs := tset c.objs i o
      shadow := if isSysObj i then tset c.shadow i o.count else c.shadow }

/-- The sync word of an object (Table 11-1). -/
def SyncObj.word (o : SyncObj) : BitVec 64 :=
  BitVec.ofNat 64 (o.felled.toNat * 2 ^ 63 + o.reason.toNat * 2 ^ 48 + o.owner.toNat * 2 ^ 32 + o.count.toNat)

/-- The 16 bytes of an object: the word, then its complement (R250). -/
def SyncObj.bytes (o : SyncObj) : Bytes := toLE 8 o.word.toNat ++ toLE 8 (~~~o.word ^^^ o.diff).toNat

/-- The object that 16 bytes hold. -/
def objOf (b : Bytes) : SyncObj :=
  let w := fld b 0 8
  let o : SyncObj := { felled := bit w 63, reason := BitVec.ofNat 8 (bits w 48 8), owner := BitVec.ofNat 16 (bits w 32 16)
                       count := BitVec.ofNat 32 w }
  let d := ~~~o.word ^^^ BitVec.ofNat 64 (fld b 8 8)
  { o with bad := d != 0, diff := d }

/-- The cluster, index and byte of the object that stands at an address: objects fill the upper half of a system region (R251). -/
def objPlace (a : Nat) : Option (Fin 4 × Nat × Nat) :=
  (List.finRange 4).findSome? fun k =>
    if cmemAt k.val + 0x40000 ≤ a ∧ a < cmemAt k.val + 0x80000 then some (k, (a - cmemAt k.val) / 16, a % 16) else none

/-- Bytes that a core's load reads: a handler may read the words of objects (R118, R250). -/
def State.coreRd (s : State) (a n : Nat) : Bytes :=
  match objPlace a with
  | some (k, i, o) => slice (s.obj k i).bytes o n
  | none => s.rd a n

/-- Bytes that a core's store writes; one of a handler to an object changes its stored word or complement as it stands (DESIGN CHOICE,
log entry 10: R252 has no other unit write an object). -/
def State.coreWr (s : State) (a : Nat) (b : Bytes) : State :=
  match objPlace a with
  | some (k, i, o) =>
    let old := (s.obj k i).bytes
    s.setCl k fun c => { c with objs := tset c.objs i (objOf (old.take o ++ b ++ old.drop (o + b.length))) }
  | none => s.wr a b

/-- Status codes of the word written to RD (Table 11-4). -/
inductive TakeSt where
  | ok | empty | felled | stale | integrity | expired | busy
deriving DecidableEq, Repr

/-- The outcome of a TAKE: status, REASON, OWNER and COUNT as read (Table 11-4). -/
structure TakeOut where
  st : TakeSt
  reason : BitVec 8 := 0
  owner : BitVec 16 := 0
  count : BitVec 32 := 0
deriving DecidableEq, Repr

/-- The status word (Table 11-4); COUNT reads 0 for a FAR operation and OWNER 0 for EXPIRED. -/
def TakeOut.word (o : TakeOut) (far : Bool) : BitVec 64 :=
  BitVec.ofNat 8 o.st.ctorIdx ++ o.reason ++ o.owner ++ (if far then 0 else o.count)

/-- The COUNT that carries an outcome to a grant object (Table 11-7). -/
def TakeOut.grant (o : TakeOut) (seq : Nat) : BitVec 32 :=
  BitVec.ofNat 8 o.st.ctorIdx ++ o.reason ++ BitVec.ofNat 8 seq ++ (1 : BitVec 8)

/-- Pressed mode as configured (R267). -/
def State.pressed (s : State) : Bool := fld s.cfg.sched 1 1 == 1

/-! ### References (Table 11-2) -/

/-- An object reference by field. -/
structure ObjRef where
  far : Bool
  chip : Nat
  cluster : Fin 4
  tag : BitVec 16
  index : Nat
deriving DecidableEq, Repr

/-- The reserved bits of a reference: [62], [53:48] and [31:16]. -/
def refReserved (r : BitVec 64) : Bool :=
  r.extractLsb' 62 1 != 0#1 || r.extractLsb' 48 6 != 0#6 || r.extractLsb' 16 16 != 0#16

/-- Read a reference. -/
def ObjRef.of (r : BitVec 64) : ObjRef :=
  { far := r.getLsbD 63, chip := (r.extractLsb' 56 6).toNat, cluster := (r.extractLsb' 54 2).toFin,
    tag := r.extractLsb' 32 16, index := (r.extractLsb' 0 16).toNat }

/-- The word of a FAR reference. -/
def farRef (chip : Nat) (k : Nat) (tag : BitVec 16) (index : Nat) : BitVec 64 :=
  BitVec.ofNat 2 2 ++ BitVec.ofNat 6 chip ++ BitVec.ofNat 2 k ++ (0 : BitVec 6) ++ tag ++ (0 : BitVec 16)
    ++ BitVec.ofNat 16 index

/-! ### Delivering an outcome -/

/-- Write an s register of a core's live context. -/
def Core.setS (c : Core) (r : Nat) (v : BitVec 64) : Core := { c with cx := { c.cx with s := tset c.cx.s r v } }

/-- Read an s register. -/
def Core.getS (c : Core) (r : Nat) : BitVec 64 := tget c.cx.s r 0

/-- Write an s register of the leaf by a result that lands: while a handler runs, s56 to s63 of the leaf stand in the shadow
copies (R134). -/
def Core.landS (c : Core) (r : Nat) (v : BitVec 64) : Core :=
  if c.inHandler && decide (56 ≤ r) then { c with shadow := { c.shadow with s := tset c.shadow.s r v } } else c.setS r v

/-- The leaf goes on past one word, its program counter in the shadow copy while a handler runs (R134). -/
def Core.landPc (c : Core) : Core :=
  if c.inHandler then { c with shadow := { c.shadow with pc := c.shadow.pc + 8 } }
  else { c with cx := { c.cx with pc := c.cx.pc + 8 } }

/-- A WAIT ends: RD takes the status word and the core goes on past it (R256). -/
def coreOutcome (s : State) (c : Fin 8) (o : TakeOut) : State :=
  s.setCore c fun x =>
    match x.wait with
    | some w =>
      let y := (x.landS w.rd (o.word (w.ref.getLsbD 63))).landPc
      { y with wait := none, cycle := y.cycle + 1, now := y.now + 1 }
    | none => x

/-- Send an outcome to whoever waits: a core of this chip, or the grant object of a remote waiter by a SYNC_SIG
(R263 step 4). An OK grant is remembered, so that a refused delivery can be undone (R264). -/
def deliver (s : State) (k : Fin 4) (i : Nat) (w : Waiter) (o : TakeOut) : State :=
  match w.remote with
  | none => if h : w.engine / 2 < 8 then coreOutcome s ⟨w.engine / 2, h⟩ o else s
  | some (g, seq, wk, wtag) =>
    let (x, s1) := s.newXfer
    let ref := farRef w.chip wk (BitVec.ofNat 16 wtag) g
    let m := ctrlMsg s1 0x10 w.chip (if h : wk < 4 then ⟨wk, h⟩ else 0) (BitVec.ofNat 16 wtag) x
      (ref.toNat + (o.grant seq).toNat * 2 ^ 64)
    let s2 := s1.sendMsg m
    if o.st = .ok then s2.setStitch fun t => { t with grants := (x, k.val, i, w.n.toNat) :: t.grants } else s2

/-- Fell one object: every waiter is woken with FELLED, and its hold begins (R260, R261). -/
def fellObj (s : State) (k : Fin 4) (code : BitVec 8) (i : Nat) : State :=
  let o := s.obj k i
  let o1 := { o with felled := true, reason := code, bad := false, diff := 0 }
  let ws := tget (s.cl k).waiters i []
  let s1 := (s.putObj k i o1).setCl k fun c =>
    { c with waiters := tdel c.waiters i, held := tset c.held i s.ticks.toNat }
  ws.foldl (fun s w => deliver s k i w { st := .felled, reason := code, owner := o1.owner, count := o1.count }) s1

/-- Release one object at a normal end: its waiters return STALE (R260). -/
def releaseObj (s : State) (k : Fin 4) (i : Nat) : State :=
  let o := s.obj k i
  let ws := tget (s.cl k).waiters i []
  let s1 := (s.putObj k i { o with owner := 0, felled := false, reason := 0 }).setCl k fun c =>
    { c with waiters := tdel c.waiters i, held := tset c.held i s.ticks.toNat }
  ws.foldl (fun s w => deliver s k i w { st := .stale, owner := 0, count := o.count }) s1

/-- The objects of a quire's run. -/
def Quire.run (q : Quire) : List Nat := (List.range q.objCount).map (q.objBase + ·)

/-! ### Teardown -/

/-- Remove the monitors that a core has registered on objects of this chip. -/
def dropMonitors (s : State) (c : Fin 8) : State :=
  { s with clusters := s.clusters.map fun cl =>
      { cl with waiters := cl.waiters.map fun p =>
          (p.1, p.2.filter fun w => !(w.remote.isNone && w.engine / 2 == c.val)) } }

/-- The completion status of the leaf on a core, with a fault code or 0 (R50, R88, R110, R135). -/
def noteStatus (s : State) (q : Quire) (c : Fin 8) (code : Nat) : State :=
  s.setCore c fun x =>
    { x with status :=
      { tag := q.tag, leaf := if c.val % 2 = 0 then q.leaf0 else q.leaf1, code := code, eng0 := (s.eng (2 * c.val)).flags,
        eng1 := (s.eng (2 * c.val + 1)).flags, dsp := if x.inHandler then x.shadow.flags else x.cx.flags } }

/-- Stop the leaf of a core at once: its work is discarded and its held SIGs are never released (R246 steps 1 and 2). -/
def stopCore (s : State) (c : Fin 8) : State :=
  (dropMonitors s c).setCore c fun x =>
    { x with leaf := none, sigs := [], takes := [], wait := none, pend := [], loops := [], inHandler := false,
             preempt := false }

/-- Free the carder threads bound to a quire (R149). -/
def freeThreads (s : State) (k : Fin 4) (tag : BitVec 16) : State :=
  s.setCl k fun c =>
    { c with threads := c.threads.map fun t =>
        match t with
        | some b => if b.tag = tag then none else t
        | none => none }

/-- A best-effort quire's thread stops at the next line boundary: the descriptor it runs keeps its SEQ and its progress,
and its launch stays consumed (R149). Its lines are written, so the next line is the last one's successor. -/
def stopCarder (s : State) (q : Quire) : State :=
  let s1 := (s.cl q.cluster).threads.toList.foldl (fun s t =>
    match t with
    | some b =>
      if b.tag = q.tag ∧ b.finishing.isSome then
        s.setQuire q.tag.toNat fun q =>
          { q with lists := listMod q.lists b.list fun l => { l with next := l.next - 1, line := some b.lines.length } }
      else s
    | none => s) s
  freeThreads s1 q.cluster q.tag

/-- A thread that is freed mid-line leaves undefined bytes (R149): how far it has come is not known, so every byte of its
descriptor's lines is a free value. -/
def tearLines (s : State) (q : Quire) : State :=
  (s.cl q.cluster).threads.toList.foldl (fun s t =>
    match t with
    | some b =>
      if b.tag = q.tag ∧ b.finishing.isSome then
        b.lines.foldl (fun s r => let (i, s1) := s.draw; s1.wr r.base (toLE r.len (Config.fresh i))) s
      else s
    | none => s) s

/-- The engines a quire's windows lie on: those in service at its start. -/
def Quire.engs (q : Quire) (s : State) : List Nat := (s.inService q.cluster.val).take q.engines

/-- The cell of a ring-table entry still has its slot store there: one that a SLOT_CONFIG took away in the meantime goes with the
slot-reception that used it (R245). -/
def State.ringStays (s : State) (p : Nat × RingEntry) : Bool :=
  match s.cell? p.2.cell with
  | some c => (c.placed || c.waitFull) && c.uplink && p.1 / 16 == c.cluster.val
      && p.2.len == 14 * c.nRx * (c.nPrb * (1 + 3 * if fld c.rcd 0x2F 1 = 0 then 16 else c.ulWidth))
  | none => false

/-- Release windows, threads, stitch queues, launch objects, context slot and JR halves of a quire that ends or is torn
down (R244, R246 step 5, R332), the slot store of a slot-reception (R150), and the best-effort quires that an eviction
held for it (R236). Its extents await zeroing. -/
def releaseQuire (s : State) (q : Quire) : State :=
  let k := q.cluster
  let s1 := freeThreads s k q.tag
  let s2 := q.lists.foldl (fun s l => s.putObj k l.launchObj {}) s1
  let s3 := q.stitchQ.foldl (fun s n =>
      if h : n < 32 then
        (s.putObj k (s.stitch.queues[n]).launchObj {}).setStitch fun t =>
          { t with queues := t.queues.set n {}, outX := t.outX.filter (fun x => x.queue != n) }
      else s) s2
  let s3 := s3.sendFreed
  let s4 := match q.ctxSlot with
    | some i => if h : i < 64 then { s3 with ctxSlots := s3.ctxSlots.set i none } else s3
    | none => s3
  let s4 := q.remote.foldl (fun s r => s.setCl r.1 fun c =>
    { c with dirty := { consumer := q.consumer, engs := [], qd := r.2 } :: c.dirty }) s4
  let s5 := s4.setCl k fun c =>
    { c with dirty := { consumer := q.consumer, engs := q.engs s, spad := q.spad, acc := q.acc, qd := q.qd, code := q.code } :: c.dirty }
  if q.kind = .slotReception then
    let rings := s5.fe.rings.filter fun p => p.1 / 16 == k.val && p.2.cell == q.owner
    let s5 := rings.foldl (fun s p =>
      (s.putObj k p.2.releaseObj {}).setFe fun f =>
        { f with rings := if s.ringStays p then tset f.rings p.1 { p.2 with busy := false } else tdel f.rings p.1 }) s5
    let halves := s5.stitch.jr.filter fun p => p.1 / 8 == q.owner && p.2.armed == some q.sfnSlot
    let s6 := halves.foldl (fun s p =>
      (s.putObj p.2.cluster p.2.readyObj {}).setStitch fun t =>
        { t with jr := tset t.jr p.1 { p.2 with armed := none } }) s5
    { s6 with quires := tmap s6.quires fun _ x => if x.cluster = k ∧ x.kind ≠ .slotReception then
        { x with evictFor := x.evictFor.filter (· != q.owner) } else x }
  else s5

/-- The symbols of a section. -/
def sectSymbols (x : Section) : List Nat := (List.range x.nSym).map (x.sym + ·)

/-- The symbols that a downlink record schedules, ascending. -/
def dlSymbols (r : DlSlot) : List Nat :=
  let l := ((r.pdsch.filter (·.supported)).flatMap fun p => sectSymbols p.sect) ++ r.other.flatMap sectSymbols
  (List.range 14).filter l.contains

/-- A downlink slot that faults discards every symbol not yet sent, each counted as a late transmit (R247). -/
def faultDownlink (s : State) (q : Quire) : State :=
  match tget? s.coding.dl q.tag.toNat with
  | none => s
  | some d =>
    let lost := (dlSymbols d.rcd).filter fun k => !d.sent.contains k && !d.lateTx.contains k
    let d1 := { d with fault := true, lateTx := d.lateTx ++ lost, held := [] }
    (s.setCoding fun c => { c with dl := tset c.dl q.tag.toNat d1 }).feCount .lateTx q.owner lost.length

/-- A step batch that faulted is run again from its start, with the records that the job of its model still holds (R247), unless
nothing of it is taken up any more (R164, R184). -/
def rerun (s : State) (q : Quire) : State :=
  if q.used then s else (newQuire s q.cluster q.kind q.consumer q.owner q.sfnSlot none).2

/-- Fault a quire (R246): its leaves stop, its threads are freed, its objects are felled with the code, its grants are
released; a best-effort quire raises QUIRE_FAULTED (Table 16-11), a latency-critical one reports in its records. -/
def faultQuire (s : State) (tag : BitVec 16) (code : Nat) : State :=
  match tget? s.quires tag.toNat with
  | none => s
  | some q =>
    if q.state = .ended ∨ q.state = .faulted then s
    else
      let code8 := BitVec.ofNat 8 code
      let cs := (List.finRange 8).filter fun c => (s.core c).leaf == some tag
      let leaf := match cs with
        | c :: _ => if c.val % 2 = 0 then q.leaf0 else q.leaf1
        | [] => q.leaf0
      let s1 := cs.foldl (fun s c => stopCore (chargeLeaf (noteStatus s q c code) q c (s.core c).ran) c) (tearLines s q)
      let s2 := releaseQuire s1 q
      let s3 := q.run.foldl (fun s i => fellObj s q.cluster code8 i) s2
      let q1 := { q with
        state := .faulted, fault := code8, faultLeaf := leaf, flags := { q.flags with quireFault := true } }
      let s4 := { s3 with quires := tset s3.quires tag.toNat q1, qctx := tdel s3.qctx tag.toNat }
      match q.kind with
      | .downlink => faultDownlink s4 q
      | .adaptation => rerun (s4.event 0x13 q.cluster.val (toLE 4 tag.toNat ++ toLE 4 q.consumer ++ toLE 4 code)) q
      | .yardstick => s4.event 0x13 q.cluster.val (toLE 4 tag.toNat ++ toLE 4 q.consumer ++ toLE 4 code)
      | _ => s4

/-- Fault the quire whose leaf is live on a core (R135). -/
def faultCore (s : State) (c : Fin 8) (code : Nat) : State :=
  match (s.core c).leaf with
  | some tag => faultQuire s tag code
  | none => s

/-! ### Operations on objects -/

/-- An integrity error (R262): a quire object's owner faults, which rewrites the objects of its run whole; a system object is
rewritten from its shadow count; an object that no quire owns stays as it is. -/
def integrity (s : State) (k : Fin 4) (i : Nat) : State :=
  if isSysObj i then
    (s.putObj k i { count := tget (s.cl k).shadow i 0 }).event 0x11 k.val (toLE 4 k.val ++ toLE 4 i)
  else faultQuire s (s.obj k i).owner 0x71

/-- The words of an object of this chip read as an operand says: parity errors are counted, and what persists on the re-read
is an integrity error for the operation (R155, R252, R262). -/
def meetError (s : State) (k : Fin 4) (i : Nat) (e : SyncError) : State :=
  let count := fun (n : Nat) (s : State) =>
    s.setCl k fun c => { c with parityEvents := c.parityEvents + BitVec.ofNat 64 n }
  let spoil := fun (s : State) => s.putObj k i { s.obj k i with bad := true }
  match e with
  | .none => s
  | .mended => count 1 s
  | .parity => spoil (count 2 s)
  | .complement => spoil s

/-- One conditional decrement (R255), in the order of its outcomes. -/
def takeObj (s : State) (k : Fin 4) (i : Nat) (tag : BitVec 16) (n : BitVec 16) : TakeOut × State :=
  let o := s.obj k i
  if o.bad then ({ st := .integrity, owner := o.owner, count := o.count }, integrity s k i)
  else if o.owner ≠ tag then ({ st := .stale, owner := o.owner, count := o.count }, s)
  else if o.felled then ({ st := .felled, reason := o.reason, owner := o.owner, count := o.count }, s)
  else if n.toNat ≤ o.count.toNat then
    let c := o.count - n.setWidth 32
    ({ st := .ok, owner := o.owner, count := c }, s.putObj k i { o with count := c })
  else ({ st := .empty, owner := o.owner, count := o.count }, s)

/-- A slot-reception has taken pages of a ring of its cluster (R194). -/
def notePages (s : State) (tag : BitVec 16) (i : Nat) (n : BitVec 16) (o : TakeOut) : State :=
  if o.st ≠ .ok then s
  else if i = 0x4000 then s.setRx tag fun r => { r with ulPages := r.ulPages + n.toNat }
  else if i = 0x4001 then s.setRx tag fun r => { r with uciPages := r.uciPages + n.toNat }
  else s

/-- The same for the quire whose leaf waits on a core. -/
def noteWaiter (s : State) (w : Waiter) (i : Nat) (o : TakeOut) : State :=
  match w.remote, (s.cores.toList[w.engine / 2]?).bind (·.leaf) with
  | none, some tag => notePages s tag i w.n o
  | _, _ => s

/-- Waiters in the order in which their retries are served: as registered in loose mode, by chip and engine in pressed
mode (R259). -/
def retryOrder (s : State) (ws : List Waiter) : List Waiter :=
  if s.pressed then sortBy (fun a b => decide (a.chip < b.chip ∨ (a.chip = b.chip ∧ a.engine ≤ b.engine))) ws
  else ws

/-- Retry each waiter of an object after a change (R259): one that still finds EMPTY stays. An integrity error, which only
a new registration can meet here, is its own outcome (R262). -/
def retryAll (s : State) (k : Fin 4) (i : Nat) : State :=
  let ws := tget (s.cl k).waiters i []
  let order := retryOrder s ws
  if (s.obj k i).bad then
    match ws.getLast? with
    | none => s
    | some w =>
      let (o, s1) := takeObj (s.setCl k fun c => { c with waiters := tset c.waiters i ws.dropLast }) k i w.tag w.n
      deliver s1 k i w o
  else (order.foldl (fun s w =>
      if (tget (s.cl k).waiters i []).contains w then
        let (o, s1) := takeObj s k i w.tag w.n
        if o.st = .empty then s1
        else deliver (noteWaiter (s1.setCl k fun c =>
          { c with waiters := tmod c.waiters i [] (·.erase w) }) w i o) k i w o
      else s) s)

/-- Add to an object (R254), a changed object's waiters then retrying. An integrity error on a system object is mended
and the SIG applied once more (R262). -/
def sigApplyGo (s : State) (k : Fin 4) (i : Nat) (tag : BitVec 16) (n : BitVec 32) : State :=
  let o := s.obj k i
  if o.owner ≠ tag ∨ o.felled then s.setCl k fun c => { c with sigDiscarded := c.sigDiscarded + 1 }
  else if o.count.toNat + n.toNat ≥ 2 ^ 32 then
    if isSysObj i then s.event 0x10 k.val (toLE 4 k.val ++ toLE 4 i)
    else faultQuire s o.owner 0x73
  else retryAll (s.putObj k i { o with count := o.count + n }) k i

/-- A released SIG performed at its object (R254, R262). -/
def sigObj (s : State) (k : Fin 4) (i : Nat) (tag : BitVec 16) (n : BitVec 32) : State :=
  if (s.obj k i).bad then
    let s1 := integrity s k i
    if isSysObj i then sigApplyGo s1 k i tag n else s1
  else sigApplyGo s k i tag n

/-- A system object is granted to a quire: named, a launch object of its lists or stitch queues, and for a
slot-reception the space objects of its cluster's rings and the ready objects of its slot's JR half (R251). -/
def sysGranted (s : State) (q : Quire) (k : Fin 4) (i : Nat) : Bool :=
  let named := match q.prog with | some p => p.named.contains i | none => false
  let launch := q.lists.any (fun l => l.launchObj == i)
    || q.stitchQ.any (fun n => match s.stitch.queues.toList[n]? with | some x => x.launchObj == i | none => false)
  let slot := q.kind == .slotReception && (i == 0x4000 || i == 0x4001
    || s.stitch.jr.any (fun p => p.1 / 8 == q.owner && p.1 % 2 == q.sfnSlot % 2 && p.2.readyObj == i))
  k == q.cluster && (named || launch || slot)

/-- The checks of Table 11-3 at issue: false means SYNC_ADDRESS. -/
def refOk (s : State) (q : Quire) (r : BitVec 64) : Bool :=
  let x := ObjRef.of r
  let k := if x.far then x.cluster else q.cluster
  !refReserved r && decide (0x4000 ≤ x.index ∧ x.index ≤ 0x7FFF)
    && (!x.far || decide (x.chip < s.poolSize))
    && !(x.far && x.tag == 0)
    && !(x.tag == 0 && decide (0x4100 ≤ x.index))
    && (x.tag != 0 || sysGranted s q k x.index)

end Sys2Proof.Machine
end

