-- ==== Sys2Proof/Machine/Leaf.lean ====
section
/-!
DEFINITION. What every instruction of a leaf shares: issue under the leaf's checks (R112, R113, R129, R135), the landing
of DSP writes (R127), the leaf's windows (R67, R118), and loads and stores through the core address map (R118).
-/

namespace Sys2Proof.Machine
open Sys2Proof

/-! ### Windows -/

/-- The quire whose leaf is live on a core. -/
def State.live (s : State) (c : Fin 8) : Option Quire :=
  match (s.core c).leaf with
  | some t => tget? s.quires t.toNat
  | none => none

/-- The scratchpad window of a leaf (R67). -/
def Quire.spadWin (q : Quire) : Run := if q.kind.lc then ⟨0, 0x400000⟩ else q.spad

/-- The accumulator window of a leaf, in units (R72). -/
def Quire.accWin (q : Quire) : Run := if q.kind.lc then ⟨0, 3072⟩ else q.acc

/-- A span of addresses lies in a window. -/
def Run.holds (r : Run) (lo hi : Int) : Bool := decide ((r.base : Int) ≤ lo ∧ hi ≤ r.base + r.len)

/-- First byte and end of `n` pieces of `len` bytes at a stride. -/
def strideSpan (a : Nat) (stride : Int) (n len : Nat) : Int × Int :=
  let z : Int := a + stride * ((n : Int) - 1)
  (if z < a then z else a, (if z < a then (a : Int) else z) + len)

/-- The tile source of an engine: first byte and end (R68). -/
def Engine.tileSource (e : Engine) : Option (Int × Int) :=
  match e.mode with
  | some m => if e.tileValid then
      some (strideSpan e.wAddr (64 * e.wStride) (if m.wfmt = 9 ∨ m.wfmt = 10 then 128 else 256) 256)
    else none
  | none => none

/-- A write of these scratchpad bytes would reach the tile source (R68). -/
def Engine.tileHit (e : Engine) (lo hi : Int) : Bool :=
  match e.tileSource with
  | some (a, b) => decide (lo < b ∧ a < hi)
  | none => false

/-! ### The core address map (R118) -/

/-- Where a core-map address leads: a scratchpad of the core, the system region, or the rest of cluster memory. -/
inductive CoreMem where
  | spad (e off : Nat) | sys (off : Nat) | data (off : Nat)
deriving DecidableEq, Repr

/-- The memory behind a core-map address. -/
def coreMem (c : Fin 8) (a : Nat) : Option CoreMem :=
  if a < 0x400000 then some (.spad (2 * c.val) a)
  else if a < 0x800000 then some (.spad (2 * c.val + 1) (a - 0x400000))
  else if a < 0x1000000 then none
  else if a < 0x1080000 then some (.sys (a - 0x1000000))
  else if a < 0x1800000 then some (.data (a - 0x1000000))
  else none

/-- Check one access of a leaf or a handler: the place in the part's memory, or the fault code (R118, R126, R135). The
scratchpad of a retired engine is not read again (R86): it lies in no window (DEDUCED, log entry 28).
`ring` is a circular register's ring, in core-map addresses: the slot store of the quire's cell (R132). -/
def coreAccess (s : State) (c : Fin 8) (q : Quire) (a size : Nat) (store : Bool) (ring : Option Run) :
    Except Nat Nat :=
  let k := (clOfCore c).val
  if a % size ≠ 0 then .error 0x45
  else match coreMem c a with
    | none => .error 0x45
    | some (.spad e off) =>
      if (s.eng e).retired || !q.spadWin.holds off (off + size) then .error 0x45
      else if store && (s.eng e).tileHit off (off + size) then .error 0x25
      else .ok (spadAt e + off)
    | some (.sys off) => if (s.core c).inHandler then .ok (cmemAt k + off) else .error 0x42
    | some (.data off) =>
      if store && overlaps off size q.code.base q.code.len then .error 0x43
      else if q.qd.holds off (off + size) then .ok (cmemAt k + off)
      else match ring with
        | some r =>
          if !r.holds a (a + size) then .error 0x45
          else match s.fe.rings.find? (fun p => p.1 / 16 == k && p.2.cell == q.owner) with
            | some (i, _) => .ok (ringAt k (i % 16) + (a - r.base))
            | none => .ok (cmemAt k + off)
        | none => .error 0x45

/-! ### DSP writes in flight (R127) -/

/-- Land the writes that end with issue cycle `t`: each is computed from the registers before the cycle, and of two on
one register the later-issued is kept (R124, R125, R127). -/
def landCycle (x : Core) (t : Nat) : Core :=
  let old := x.d
  let x1 := (x.pend.filter (·.land == t)).foldl (fun (y : Core) p =>
    match p.w with
    | .put v => { y with d := tset y.d p.reg v }
    | .acc lo hi sat =>
      let v := (tget old p.reg 0).toNat
      let (a, f) := fitInt sat 32 (sx 32 v + lo)
      let (b, g) := fitInt sat 32 (sx 32 (v / 2 ^ 32) + hi)
      let w := lowBits 32 a + lowBits 32 b * 2 ^ 32
      let fl := y.cx.flags.or (f.or g)
      { y with d := tset y.d p.reg (BitVec.ofNat 64 w), cx := { y.cx with flags := fl } }) x
  { x1 with pend := x.pend.filter (·.land != t) }

/-- Land every write whose cycle ended before `t`, cycle by cycle. -/
def landBefore (t : Nat) (x : Core) : Core :=
  (sortBy (· ≤ ·) ((x.pend.map (·.land)).filter (· < t))).foldl landCycle x

/-! ### Registers -/

/-- A handler's writes reach only the registers the shadow switch gave it (R134). -/
def Core.mayWriteS (x : Core) (r : Nat) : Bool := !x.inHandler || decide (56 ≤ r)
def Core.mayWriteA (x : Core) (r : Nat) : Bool := !x.inHandler || decide (8 ≤ r ∧ r ≤ 11)

/-- Write an s register by an instruction of the core. -/
def State.putS (s : State) (c : Fin 8) (r : Nat) (v : BitVec 64) : State :=
  s.setCore c fun x => if x.mayWriteS r then x.setS r v else x

/-- Write an address register by an instruction of the core. -/
def State.putA (s : State) (c : Fin 8) (r : Nat) (v : BitVec 32) : State :=
  s.setCore c fun x => if x.mayWriteA r then { x with cx := { x.cx with a := tset x.cx.a r v } } else x

def State.getS (s : State) (c : Fin 8) (r : Nat) : BitVec 64 := (s.core c).getS r
def State.getA (s : State) (c : Fin 8) (r : Nat) : BitVec 32 := tget (s.core c).cx.a r 0

/-! ### Issue -/

/-- DSP cycles pass without issue (R113). -/
def Core.idle (n : Nat) (x : Core) : Core :=
  { x with now := x.now + n, issueWait := x.issueWait + BitVec.ofNat 64 n }

/-- The core idles until a DSP cycle of its leaf, if it lies ahead. -/
def Core.waitTo (t : Nat) (x : Core) : Core := x.idle (t - x.now)

/-- `n` instructions of the innermost loop's body are done. With the last the iteration ends: the ring advances, and the loop
goes on from its top, or ends and counts as its LEN instructions of the loop around it (R128, R129, R130). -/
def loopStep : Nat → Nat → Core → Core
  | 0, _, x => x
  | f + 1, n, x =>
    match x.loops with
    | [] => x
    | l :: rest =>
      if n < l.left then { x with loops := { l with left := l.left - n } :: rest }
      else
        let x1 := if l.ring = 0 then x else { x with roff := (x.roff + 1) % l.ring }
        if l.remaining ≤ 1 then loopStep f l.len { x1 with loops := rest }
        else
          let l1 := { l with remaining := l.remaining - 1, iter := l.iter + 1, left := l.len }
          Core.idle (if l.outer then 2 else 0) { x1 with cx := { x1.cx with pc := l.top }, loops := l1 :: rest }

/-- The program counter, which wraps at 64 bits, and the issue cycle after an instruction; a handler's instructions are no
issue cycles (R113). -/
def issued (words cycles : Nat) (x : Core) : Core :=
  let x1 := { x with cx := { x.cx with pc := (x.cx.pc + 8 * words) % 2 ^ 64 } }
  if x.inHandler then x1.idle 1
  else loopStep 3 1 { x1 with cycle := x1.cycle + cycles, now := x1.now + cycles }

/-- An s register of the list waits for a TAKE's outcome (R114, R119). -/
def Core.awaits (x : Core) (reads : List Nat) : Bool := reads.any fun r => x.takes.any (·.2 == r)

/-- The DSP cycle from which all of some s registers may be read (R114). -/
def Core.readyAt (x : Core) (reads : List Nat) : Nat := (reads.map (tget x.ready · 0)).foldl max 0

/-- An s register that is written now may be read `lat` DSP cycles on (Table 6-3). -/
def Core.readyIn (r lat : Nat) (x : Core) : Core := { x with ready := tset x.ready r (x.now + lat) }

/-- The interlock of s registers (R114): the core idles until those an instruction reads are ready. -/
def State.interlock (s : State) (c : Fin 8) (reads : List Nat) : State :=
  if (s.core c).readyAt reads ≤ (s.core c).now then s else s.setCore c (Core.waitTo ((s.core c).readyAt reads))

/-- A cycle in which the core retries for an outstanding TAKE, counted on both engines of the core (R113, R258, Table 7-9). -/
def State.takeRetry (s : State) (c : Fin 8) : State :=
  (coreEngs c).foldl (fun s e => s.engCount e 4 1) (s.setCore c (Core.idle 1))

/-- Issue one instruction of `words` words on a core: nothing where no leaf is live or the core waits; SEQ_FETCH outside
the code region; a wait where a TAKE's register read is not there yet; else the interlock, the DSP writes due land, the body runs, and
unless it faulted the quire or rolled the leaf back the program counter goes on. -/
def issue (c : Fin 8) (words cycles : Nat) (reads : List Nat) (body : Quire → State → State) (s : State) : State :=
  match s.live c with
  | none => s
  | some q =>
    let x := s.core c
    if x.wait.isSome && !x.inHandler then s
    else if !x.inHandler && decide (q.code.len < x.cx.pc + 8 * words) then faultCore s c 0x43
    else if x.awaits reads then s.takeRetry c
    else
      let s0 := s.interlock c reads
      let s1 := if x.inHandler then s0 else s0.setCore c (landBefore x.cycle)
      let s2 := body q s1
      if (s2.core c).leaf = some q.tag ∧ (s2.core c).replays ≤ x.replays then s2.setCore c (issued words cycles) else s2

/-- The engine that an engine word names (Table 6-4). -/
def engOf (c : Fin 8) (eng : Bool) : Nat := 2 * c.val + if eng then 1 else 0

/-- Issue one engine instruction with an operand block of `n` s registers (R115). A retired engine takes no further
instruction (R86). -/
def issueEng (c : Fin 8) (eng : Bool) (sa : Fin 64) (n words cycles : Nat) (body : Quire → State → State) (s : State) :
    State :=
  issue c words cycles ((List.range n).map (sa.val + ·)) (fun q s =>
    if 64 < sa.val + n then faultQuire s q.tag 0x41
    else if (s.eng (engOf c eng)).retired then s
    else body q s) s

end Sys2Proof.Machine
end

