-- ==== Sys2Proof/Machine/Context.lean ====
section
/-!
DEFINITION. Leaf boundaries and contexts: leaf start and end (R119, R120, R223), replay (R85), and the control part of a
context (R87, R242).
-/

namespace Sys2Proof.Machine
open Sys2Proof

/-! ### The boundary (R92, R120) -/

/-- The array state of an engine (R87). -/
def Engine.arrayState (e : Engine) : ArrayState :=
  { mode := e.mode, tileValid := e.tileValid, wAddr := e.wAddr, wStride := e.wStride, flags := e.flags,
    mismatches := e.mismatches }

/-- Bring an array state back to an engine: its tile, if valid, is due for a reload (R68). The mismatch count is the leaf's. -/
def Engine.setArray (e : Engine) (a : ArrayState) : Engine :=
  { e with mode := a.mode, tileValid := a.tileValid, tileReload := a.tileValid, wAddr := a.wAddr, wStride := a.wStride,
           flags := a.flags }

/-- Engine state at a leaf's start: registers, masks, tables and flags cleared (R50, R73, R92), the boundary's array state kept
for a replay. -/
def Engine.startLeaf (e : Engine) : Engine :=
  { e with v := [], m := [], acts := [], flags := {}, written := [], issued := 0, stream := none, tm := {},
           bound := e.arrayState }

/-- Core state at a leaf's start, with the boundary copy (R120). -/
def Core.startLeaf (x : Core) : Core :=
  let cx := { x.cx with flags := {} }
  { x with cx := cx, boundary := cx, d := [], pend := [], cycle := 0, now := 0, ready := [], roff := 0, rsize := 64,
           loops := [], sigs := [], charged := 0, retry := none, overrun := false, overrunHeld := false, inHandler := false, replays := 0 }

/-- A leaf of a quire starts on a core. A rolled-back leaf keeps its mismatch count (R87). -/
def startLeaf (s : State) (c : Fin 8) (tag : BitVec 16) (fresh : Bool) : State :=
  let s1 := (coreEngs c).foldl (fun s e => s.setEng e fun x =>
    let y := { x.startLeaf with owner := some tag }
    if fresh then { y with mismatches := 0 } else y) s
  s1.setCore c fun x => { x.startLeaf with leaf := some tag }

/-- Re-execute a leaf from its boundary (R85, R87, R119, R120): its held SIGs are dropped, the array state is that of the
boundary, and a valid tile is reloaded. -/
def replayLeaf (s : State) (c : Fin 8) (tag : BitVec 16) : State :=
  let s1 := (dropMonitors s c).setCore c fun x => { x with cx := x.boundary, wait := none, takes := [] }
  let s2 := (coreEngs c).foldl (fun s e => s.setEng e fun x => x.setArray x.bound) s1
  (startLeaf s2 c tag false).setCore c fun x => { x with replays := (s1.core c).replays + 1 }

/-! ### Contexts (R87, R120, R242) -/

/-- The engines of a core that a quire holds, each with its position: its place among the engines the quire's windows lie
on (R232, R242). -/
def Quire.enginesOf (q : Quire) (s : State) (c : Fin 8) : List (Nat × Nat) :=
  ((q.engs s).zipIdx.filter fun p => (coreEngs c).contains p.1).map fun p => (p.2, p.1)

/-- Keep a core's context and its engines' array states with the quire, the latter by position (R242). -/
def keepContext (s : State) (q : Quire) (c : Fin 8) : State :=
  let x := s.core c
  let t := tget s.qctx q.tag.toNat {}
  let t1 := (q.enginesOf s c).foldl (fun (t : QuireCtx) p =>
    { t with arr := tset t.arr p.1 (s.eng p.2).arrayState }) t
  let t2 := if c.val % 2 = 0 then { t1 with core0 := x.cx, wait0 := x.wait }
    else { t1 with core1 := x.cx, wait1 := x.wait }
  { s with qctx := tset s.qctx q.tag.toNat t2 }

/-- Bring a kept context back to a core; an engine that another quire has used reloads its tile (R68, R240). -/
def loadContext (s : State) (q : Quire) (c : Fin 8) : State :=
  let t := tget s.qctx q.tag.toNat {}
  let even := c.val % 2 = 0
  let s1 := s.setCore c fun x =>
    { x with cx := if even then t.core0 else t.core1, wait := if even then t.wait0 else t.wait1 }
  (q.enginesOf s c).foldl (fun s p =>
    if (s.eng p.2).owner = some q.tag then s
    else
      let a := tget t.arr p.1 {}
      s.setEng p.2 fun x => { x.setArray a with mismatches := a.mismatches, owner := some q.tag }) s1

/-- The sticky flags as 8 bytes (DESIGN CHOICE, log entry 26). -/
def Sticky.word (f : Sticky) : Nat :=
  (if f.sat then 1 else 0) + (if f.inval then 2 else 0) + (if f.wrap then 4 else 0) + if f.empty then 8 else 0

/-- The 624 bytes of a core context (R120). -/
def CoreCtx.bytes (x : CoreCtx) : Bytes :=
  (List.range 64).flatMap (fun i => toLE 8 (tget x.s i 0).toNat)
    ++ (List.range 16).flatMap (fun i => toLE 4 (tget x.a i 0).toNat)
    ++ (List.range 4).flatMap (fun i => toLE 4 (tget x.acb i 0))
    ++ (List.range 4).flatMap (fun i => toLE 4 (tget x.acl i 0))
    ++ toLE 8 x.pc ++ toLE 8 x.flags.word

/-- A mode as the operand word of ARRAY_MODE (Table 6-5). -/
def ArrayMode.word (m : ArrayMode) : Nat :=
  m.op * 2 ^ 17 + m.xfmt * 2 ^ 13 + m.wfmt * 2 ^ 9 + (if m.conj then 2 ^ 8 else 0) + m.cmp * 2 ^ 6 + m.tol * 2
    + if m.gateOff then 1 else 0

/-- The 64 bytes of an array state (R87; DESIGN CHOICE, log entry 26). -/
def arrayStateBytes (a : ArrayState) : Bytes :=
  let m := match a.mode with | some m => m.word + 2 ^ 63 | none => 0
  toLE 8 m ++ toLE 8 (if a.tileValid then 1 else 0) ++ toLE 8 a.wAddr ++ toLE 8 (lowBits 64 a.wStride)
    ++ toLE 8 a.mismatches ++ toLE 8 a.flags.word ++ zeros 16

/-- A wait record (Table 11-8). -/
def waitRecord (w : Option WaitCtx) (outcome : Nat) : Bytes :=
  match w with
  | none => zeros 32
  | some w =>
    toLE 8 w.ref.toNat ++ toLE 2 w.n.toNat ++ toLE 2 w.limit.toNat ++ toLE 1 w.rd
      ++ toLE 1 (if outcome = 0 then 1 else 2) ++ toLE 1 w.seq ++ toLE 1 0 ++ toLE 8 w.issued ++ toLE 8 outcome

/-- The 16-byte carder record of thread 6 or 7, of the quire's list that it ran last: SEQ, next line, launch count (R149, Table
10-6; DESIGN CHOICE, log entry 26). -/
def carderRecord (s : State) (q : Quire) (t : Nat) : Bytes :=
  match q.lists.find? (·.thread == some t) with
  | some l => toLE 4 l.next.toNat ++ toLE 4 (l.line.getD 0) ++ toLE 8 (s.obj q.cluster l.launchObj).count.toNat
  | none => zeros 16

/-- The extents of one position, 8 of 16 bytes (Table 10-6). -/
def extentBytes (l : List Extent) (p : Nat) : Bytes :=
  let e := ((l.filter fun x => x.pos == p).take 8).flatMap fun x =>
    toLE 4 x.start ++ toLE 4 x.len ++ toLE 1 (if x.acc then 2 else 1) ++ zeros 7
  e ++ zeros (128 - e.length)

/-- Positions that a program uses, as a mask. -/
def Quire.posMask (q : Quire) : Nat := match q.prog with | some p => 2 ^ p.positions - 1 | none => 0

/-- The header word of a context slot (Table 10-6). -/
def Quire.ctxHeader (q : Quire) : Nat :=
  2 ^ 56 + q.posMask % 16 * 2 ^ 52 + (if q.saved then q.posMask % 16 else 0) * 2 ^ 48 + q.tag.toNat * 2 ^ 32
    + q.saveCount % 2 ^ 32

/-- The grant object's count that a suspended wait has received. -/
def grantCount (s : State) (q : Quire) (r : Nat) : Nat := (s.obj q.cluster (q.objBase + r)).count.toNat

/-- The control part (Table 10-6, to offset 0x0880). -/
def controlPart (s : State) (q : Quire) : Bytes :=
  let t := tget s.qctx q.tag.toNat {}
  let h := toLE 8 q.ctxHeader
  h ++ cpl h ++ toLE 2 q.consumer ++ zeros 2 ++ toLE 4 q.leaf0 ++ toLE 4 q.leaf1 ++ zeros 36
    ++ t.core0.bytes ++ t.core1.bytes
    ++ (List.range 4).flatMap (fun p => arrayStateBytes (tget t.arr p {}))
    ++ carderRecord s q 6 ++ carderRecord s q 7
    ++ waitRecord t.wait0 (if t.wait0.isSome then grantCount s q 0 else 0)
    ++ waitRecord t.wait1 (if t.wait1.isSome then grantCount s q 1 else 0)
    ++ (List.range 4).flatMap (extentBytes q.live)

/-- Address of a context slot (R242). -/
def State.ctxAddr (s : State) (i : Nat) : Nat := ddrAt + s.ctxBase + i * 0x1610000

/-- Where the control part of a quire lies: its context slot, or the LC control area of its cluster (R242). -/
def controlAt (s : State) (q : Quire) : Option Nat :=
  match q.ctxSlot with
  | some i => some (s.ctxAddr i)
  | none => if q.kind = .slotReception then some (cmemAt q.cluster.val + 0x30000) else none

/-- Write the control part at a suspension (R242). -/
def writeControl (s : State) (tag : BitVec 16) : State :=
  match tget? s.quires tag.toNat with
  | none => s
  | some q0 =>
    let q := { q0 with saveCount := q0.saveCount + 1 }
    let s1 := { s with quires := tset s.quires tag.toNat q }
    match controlAt s1 q with
    | none => s1
    | some a =>
      let b := controlPart s1 q
      let s2 := s1.wr a b
      match q.ctxSlot with
      | some i =>
        if h : i < 64 then
          { s2 with ctxSlots := s2.ctxSlots.set i (some { tag := tag, valid := true, header := b.take 16 }) }
        else s2
      | none => s2

/-! ### Carder threads at a boundary (R142) -/

/-- The threads a quire may hold with leaves on a core: 0 to 3 held; 4 or 5 by core; 6 or 7. -/
def Quire.leafThreads (q : Quire) (c : Fin 8) : List (Fin 8) :=
  match q.kind with
  | .downlink => [if c.val % 2 = 0 then 4 else 5]
  | .adaptation => [6, 7]
  | .yardstick => [6, 7]
  | _ => []

/-- A launch of the list is outstanding: counted, in progress, stopped, or released and not yet applied. -/
def launchPending (s : State) (q : Quire) (l : CarderList) (t : Fin 8) : Bool :=
  (s.obj q.cluster l.launchObj).count != 0 || l.line.isSome
    || (match (s.cl q.cluster).threads[t] with | some b => b.finishing.isSome | none => false)
    || [coreOf' q.cluster 0, coreOf' q.cluster 1].any fun c =>
        (s.core c).released.any fun p => (ObjRef.of p.1).index == l.launchObj && !(ObjRef.of p.1).far
where
  /-- The core of a cluster in a relative position. -/
  coreOf' (k : Fin 4) (r : Fin 2) : Fin 8 := ⟨2 * k.val + r.val, by have := k.isLt; have := r.isLt; omega⟩

/-- Release a leaf-bound thread whose quire has no live leaf for it and no launch outstanding (R142). -/
def freeLeafThread (s : State) (q : Quire) (c : Fin 8) : State :=
  (q.leafThreads c).foldl (fun s t =>
    match (s.cl q.cluster).threads[t] with
    | some b =>
      let live := if q.kind = .downlink then (s.core c).leaf == some q.tag
        else (List.finRange 8).any fun c => (s.core c).leaf == some q.tag
      let pend := match q.lists[b.list]? with | some l => launchPending s q l t | none => false
      if b.tag = q.tag ∧ !live ∧ !pend then
        s.setCl q.cluster fun k => { k with threads := k.threads.set t none }
      else s
    | none => s) s

end Sys2Proof.Machine
end

