-- ==== Sys2Proof/Machine/SyncCmds.lean ====
section
/-!
DEFINITION. Sync operations that reach an object after their leaf or from another chip: released SIGs, expiries,
remote waits and their registrations (R253 to R265), and the end of an object's hold (R261).
-/

namespace Sys2Proof.Machine
open Sys2Proof

/-! ### Grant objects -/

/-- Send a SIG of a quire towards another chip (R253): a SYNC_SIG without a transfer number. It goes behind the messages of a
transfer that the quire has outstanding to that chip (R328). -/
def sendSig (s : State) (tag : BitVec 16) (ref : BitVec 64) (n : BitVec 32) : State :=
  let x := ObjRef.of ref
  s.sendAs (s.hasXfer tag x.chip) (ctrlMsg s 0x10 x.chip x.cluster x.tag 0 (ref.toNat + n.toNat * 2 ^ 64))

/-- A SIG goes to its object: on this chip, or by message (R253). `k` is the issuer's cluster, `tag` its quire. -/
def routeSig (s : State) (k : Fin 4) (tag : BitVec 16) (ref : BitVec 64) (n : BitVec 32) : State :=
  let x := ObjRef.of ref
  if !x.far then sigObj s k x.index x.tag n
  else if x.chip = s.chip then sigObj s x.cluster x.index x.tag n
  else sendSig s tag ref n

/-- The relative core whose grant object an index is (R251). -/
def grantCore (q : Quire) (i : Nat) : Option Nat :=
  if q.objCount ≥ 2 ∧ i = q.objBase then some 0
  else if q.objCount ≥ 2 ∧ i = q.objBase + 1 then some 1
  else none

/-- The core of a cluster in a relative position. -/
def coreOf (k : Fin 4) (r : Nat) : Fin 8 := ⟨2 * k.val + r % 2, by have := k.isLt; omega⟩

/-- A status by its code (Table 11-4). -/
def takeStOf (n : Nat) : TakeSt :=
  match n with
  | 0 => .ok | 1 => .empty | 2 => .felled | 3 => .stale | 4 => .integrity | 5 => .expired | _ => .busy

/-- The OWNER that a remote outcome shows: the expected tag where the object was still its owner's; the grant does not
carry it otherwise, so it is a free value. -/
def remoteOwner (s : State) (st : TakeSt) (tag : BitVec 16) : BitVec 16 × State :=
  if st = .ok ∨ st = .felled then (tag, s)
  else
    let (i, s1) := s.draw
    (BitVec.ofNat 16 (Config.fresh i), s1)

/-- A remote wait ends with an outcome decoded from its grant object (R263 step 5). -/
def endRemote (s : State) (c : Fin 8) (w : WaitCtx) (st : TakeSt) (reason : BitVec 8) : State :=
  let (o, s1) := remoteOwner s st (ObjRef.of w.ref).tag
  let s2 := match s1.core c |>.leaf with
    | some tag => if st = .felled ∧ reason = 0x74 then
        s1.setQuire tag.toNat fun q => { q with flags := { q.flags with jrOmitted := q.flags.jrOmitted || q.kind == .slotReception } }
      else s1
    | none => s1
  coreOutcome s2 c { st := st, reason := reason, owner := o }

/-- A grant whose core has moved on: an OK is returned to the owner by a FAR SIG (R264). -/
def returnGrant (s : State) (k : Fin 4) (c : Fin 8) (seq : Nat) (ok : Bool) : State :=
  match (s.core c).expired.find? (fun p => p.1 == seq) with
  | none => s
  | some (_, ref, n) =>
    let s1 := s.setCore c fun x => { x with expired := x.expired.filter fun p => p.1 != seq }
    if ok then routeSig s1 k ((s.core c).leaf.getD 0) ref (n.setWidth 32) else s1

/-- After a change of a grant object: its core, if it waits for that sequence number, sets COUNT to 0 and writes RD;
a grant for an older number is returned; one for a suspended wait stays (R263 to R265). -/
def grantCheck (s : State) (k : Fin 4) (i : Nat) : State :=
  let o := s.obj k i
  match s.quires.find? (fun p => p.2.cluster == k && (grantCore p.2 i).isSome && p.2.tag == o.owner) with
  | none => s
  | some (_, q) =>
    let r := (grantCore q i).getD 0
    let c := coreOf k r
    let x := s.core c
    let seq := (o.count.extractLsb' 8 8).toNat
    let st := takeStOf (o.count.extractLsb' 24 8).toNat
    let reason := o.count.extractLsb' 16 8
    let clr := s.putObj k i { o with count := 0 }
    let live := if x.leaf = some q.tag then x.wait else none
    if o.felled then
      match live with
      | some w => if w.remote then endRemote s c w .felled o.reason else s
      | none => s
    else if o.count = 0 then s
    else match live with
      | some w =>
        if w.remote && w.seq == seq then endRemote clr c w st reason else returnGrant clr k c seq (st == .ok)
      | none =>
        let kept := match tget? s.qctx q.tag.toNat with
          | some t => (if r = 0 then t.wait0 else t.wait1)
          | none => none
        match kept with
        | some w => if w.seq = seq then s else returnGrant clr k c seq (st == .ok)
        | none => returnGrant clr k c seq (st == .ok)

/-! ### Released SIGs and expiries -/

/-- The object that a transfer's descriptor counts in: DONE_OBJ of a carder and of a stitch descriptor (Tables 7-3 and 14-4). -/
def carderDoneObj (d : Bytes) : Nat := fld d 0x3C 2
def stitchDoneObj (d : Bytes) : Nat := fld d 0x38 2

/-- A launched descriptor of a list has not been taken yet and counts in an object. -/
def launchedTo (descs : List Bytes) (next count : Nat) (obj : Bytes → Nat) (i : Nat) : Bool :=
  !descs.isEmpty && (List.range (min count descs.length)).any fun j =>
    obj ((descs[(next + j) % descs.length]?).getD []) == i

/-- A transfer that a quire has launched and whose data is not all written counts in an object of its cluster (R257). -/
def State.transferDue (s : State) (q : Quire) (i : Nat) : Bool :=
  let launched := fun (o : Nat) => (s.obj q.cluster o).count.toNat
  (s.cl q.cluster).threads.toList.any (fun t => match t with
      | some b => b.tag == q.tag && (match b.finishing with | some d => carderDoneObj d == i | none => false)
      | none => false)
    || q.lists.any (fun l => launchedTo l.descs l.next.toNat (launched l.launchObj) carderDoneObj i)
    || q.stitchQ.any (fun n => match s.stitch.queues.toList[n]? with
        | some x => launchedTo x.descs x.next.toNat (launched x.launchObj) stitchDoneObj i
            || s.stitch.outX.any fun t => t.queue == n && stitchDoneObj t.desc == i
        | none => false)

/-- A released SIG still waits: it names the completion object of a transfer of its quire whose data is not written yet (R257). -/
def sigWaits (s : State) (tag : BitVec 16) (x : ObjRef) : Bool :=
  match tget? s.quires tag.toNat with
  | some q => !x.far && s.transferDue q x.index
  | none => false

/-- SIG_APPLY (R254, R257): the oldest SIG that a core's leaf has released is performed at its object, once the data that it comes
after has been written. -/
def sigApply (core : Fin 8) (err : SyncError) (s : State) : State :=
  match (s.core core).released with
  | [] => s
  | (ref, n, tag) :: rest =>
    let x := ObjRef.of ref
    if sigWaits s tag x then s else
    let s1 := s.setCore core fun x => { x with released := rest }
    let s1 := if x.far && x.chip != s.chip then s1
      else meetError s1 (if x.far then x.cluster else clOfCore core) x.index err
    let s2 := routeSig s1 (clOfCore core) tag ref n
    if !x.far then grantCheck s2 (clOfCore core) x.index
    else if x.chip = s.chip then grantCheck s2 x.cluster x.index
    else s2

def execSigApply (core : Fin 8) (err : SyncError) (s : State) : Host.Outcome State Fault Refusal :=
  .next (sigApply core err s)

/-- End a wait with EXPIRED (R256, R264): nothing is taken; a remote one is cancelled at the owner. -/
def expireWait (s : State) (c : Fin 8) (w : WaitCtx) : State :=
  let x := ObjRef.of w.ref
  let k := if x.far then x.cluster else clOfCore c
  if w.remote then
    let q := tget? s.quires ((s.core c).leaf.getD 0).toNat
    let g := match q with | some q => q.objBase + c.val % 2 | none => 0
    let arg := w.ref.toNat + w.n.toNat * 2 ^ 64 + g * 2 ^ 80 + w.seq % 256 * 2 ^ 96 + (clOfCore c).val * 2 ^ 104
      + 2 * c.val * 2 ^ 106 + ((s.core c).leaf.getD 0).toNat * 2 ^ 112
    let s1 := s.sendMsg (ctrlMsg s 0x14 x.chip x.cluster x.tag 0 arg)
    let s2 := s1.setCore c fun y => { y with expired := (w.seq, w.ref, w.n) :: y.expired }
    coreOutcome s2 c { st := .expired }
  else
    let o := s.obj k x.index
    coreOutcome (dropMonitors s c) c { st := .expired, count := o.count }

/-- The quire whose leaf is live on a core. -/
def liveQuire (s : State) (c : Fin 8) : Option Quire :=
  match (s.core c).leaf with
  | some tag => tget? s.quires tag.toNat
  | none => none

/-- WAIT_EXPIRED (R256): LIMIT µs after its issue a wait that has not ended returns EXPIRED; LIMIT 0 and pressed mode
know no expiry. The clock reaches that instant if it has not. -/
def waitExpired (core : Fin 8) (s : State) : State :=
  match (s.core core).wait, liveQuire s core with
  | some w, some q =>
    if w.limit = 0 ∨ q.pressed then s
    else
      let age := ((s.cl (clOfCore core)).counter - BitVec.ofNat 48 w.issued).toNat
      expireWait (s.advance (usTicks w.limit.toNat - age)) core w
  | _, _ => s

def execWaitExpired (core : Fin 8) (s : State) : Host.Outcome State Fault Refusal := .next (waitExpired core s)

/-- Send the registration of a core's remote wait (R263 step 1). -/
def sendReg (s : State) (c : Fin 8) (q : Quire) (w : WaitCtx) : State :=
  let x := ObjRef.of w.ref
  let arg := w.ref.toNat + w.n.toNat * 2 ^ 64 + (q.objBase + c.val % 2) * 2 ^ 80 + w.seq % 256 * 2 ^ 96
    + (clOfCore c).val * 2 ^ 104 + 2 * c.val * 2 ^ 106 + q.tag.toNat * 2 ^ 112
  s.sendMsg (ctrlMsg s 0x13 x.chip x.cluster x.tag 0 arg)

/-- REGISTRATION_RETRY (R263): 2 µs after a BUSY the core sends the same registration again. -/
def registrationRetry (core : Fin 8) (s : State) : State :=
  match (s.core core).wait, liveQuire s core with
  | some w, some q =>
    match w.busy with
    | some t =>
      let s1 := (s.advanceTo (t + usTicks 2)).setCore core fun x => { x with wait := some { w with busy := none } }
      sendReg s1 core q w
    | none => s
  | _, _ => s

def execRegistrationRetry (core : Fin 8) (s : State) : Host.Outcome State Fault Refusal :=
  .next (registrationRetry core s)

/-- OBJECT_HOLD_EXPIRY (R261): 1,000 µs after its release or felling, and with no monitor or registration left, an
object may be assigned again. -/
def objectHoldExpiry (k : Fin 4) (i : Nat) (s : State) : State :=
  match tget? (s.cl k).held i with
  | none => s
  | some t =>
    let s1 := s.advanceTo (t + usTicks 1000)
    if (tget (s1.cl k).waiters i []).isEmpty then s1.setCl k fun c => { c with held := tdel c.held i } else s1

def execObjectHoldExpiry (k : Fin 4) (idx : BitVec 15) (s : State) : Host.Outcome State Fault Refusal :=
  .next (objectHoldExpiry k idx.toNat s)

/-! ### Messages -/

/-- A received message passes the checks of R323 and is for this chip: it is handled. A bad one is discarded and counted;
one for another chip goes on (R320). -/
def onMsg (typ : Nat) (f : SMsg → State → State) (m : SMsg) (s : State) : State :=
  if m.dst.toNat ≠ s.chip then s.sendMsg m
  else if m.typ.toNat ≠ typ ∨ m.reservedSet ∨ (typ = 4 ∧ m.arg.extractLsb' 42 6 ≠ 0#6) ∨ 4096 < m.data.length then s.slCount .msgBad 0
  else f m s

/-- The reference that a SYNC message carries. -/
def msgRef (m : SMsg) : BitVec 64 := m.arg.extractLsb' 0 64

/-- The object that a message names is read with an error, or without (R155, R252). -/
def meetMsg (s : State) (m : SMsg) (err : SyncError) : State :=
  meetError s (ObjRef.of (msgRef m)).cluster (ObjRef.of (msgRef m)).index err

/-- A SYNC_SIG is applied at its object (R254, R263); a grant that finds its object stale or felled is refused, which
COMPLETE with REFUSED tells the owner (R264; DESIGN CHOICE, log entry 13). -/
def onSyncSig (m : SMsg) (s : State) : State :=
  let x := ObjRef.of (msgRef m)
  let s0 := s
  -- a grant that meets an integrity error is not applied, and finds the object felled by it
  let s := if m.xfer ≠ 0 ∧ (s0.obj x.cluster x.index).bad then integrity s0 x.cluster x.index else s0
  let o := s.obj x.cluster x.index
  if m.xfer ≠ 0 ∧ (o.owner ≠ x.tag ∨ o.felled) then
    s.sendMsg (ctrlMsg s 0x07 m.src.toNat 0 0 m.xfer.toNat 1)
  else grantCheck (sigObj s x.cluster x.index x.tag (m.arg.extractLsb' 64 32)) x.cluster x.index

/-- A remote TAKE is performed and answered (R255, Table 14-3). -/
def onSyncTake (m : SMsg) (s : State) : State :=
  let x := ObjRef.of (msgRef m)
  let (o, s1) := takeObj s x.cluster x.index x.tag (m.arg.extractLsb' 64 16)
  s1.sendMsg (ctrlMsg s1 0x12 m.src.toNat 0 0 0
    ((o.word true).toNat + (m.arg.extractLsb' 80 16).toNat * 2 ^ 64))

/-- A reply writes the RD of the TAKE it answers; with REG set it says BUSY to a registration, whose core sends it again when
the wait runs (R255, R263). -/
def onSyncReply (m : SMsg) (s : State) : State :=
  if m.arg.getLsbD 80 then
    let g := (m.arg.extractLsb' 96 16).toNat
    let seq := (m.arg.extractLsb' 88 8).toNat
    let k : Fin 4 := (m.arg.extractLsb' 112 2).toFin
    match s.quires.find? (fun p => p.2.cluster == k && (grantCore p.2 g).isSome && p.2.state != .ended && p.2.state != .faulted) with
    | none => s
    | some (_, q) =>
      let r := (grantCore q g).getD 0
      let c := coreOf k r
      let mark := fun (w : Option WaitCtx) => w.map fun w =>
        if w.remote && w.seq == seq then { w with busy := some s.ticks.toNat } else w
      if (s.core c).leaf = some q.tag then s.setCore c fun x => { x with wait := mark x.wait }
      else match tget? s.qctx q.tag.toNat with
        | some t =>
          let t1 := if r = 0 then { t with wait0 := mark t.wait0 } else { t with wait1 := mark t.wait1 }
          { s with qctx := tset s.qctx q.tag.toNat t1 }
        | none => s
  else
    let req := (m.arg.extractLsb' 64 16).toNat
    match s.stitch.takes.find? (fun t => t.1 == req) with
    | none => s
    | some (_, c, rd) =>
      let s1 := s.setStitch fun t => { t with takes := t.takes.filter fun x => x.1 != req }
      if h : c < 8 then
        s1.setCore ⟨c, h⟩ fun x =>
          if x.takes.any (fun t => t.1 == req) then
            { x.landS rd (m.arg.extractLsb' 0 64) with takes := x.takes.filter fun t => t.1 != req }
          else x
      else s1

/-- The waiter that a registration names. -/
def msgWaiter (m : SMsg) : Waiter :=
  { chip := m.src.toNat, engine := (m.arg.extractLsb' 106 4).toNat, tag := (ObjRef.of (msgRef m)).tag,
    n := m.arg.extractLsb' 64 16,
    remote := some ((m.arg.extractLsb' 80 16).toNat, (m.arg.extractLsb' 96 8).toNat, (m.arg.extractLsb' 104 2).toNat,
      (m.arg.extractLsb' 112 16).toNat) }

/-- Remote registrations held for a cluster (R263). -/
def Cluster.registrations (c : Cluster) : Nat :=
  (c.waiters.map fun p => (p.2.filter fun w => w.remote.isSome).length).sum

/-- A registration is kept in order and tried at once, or refused with BUSY where 64 are held (R263). -/
def onSyncReg (m : SMsg) (s : State) : State :=
  let x := ObjRef.of (msgRef m)
  if 64 ≤ (s.cl x.cluster).registrations then
    let arg := 6 * 2 ^ 56 + 2 ^ 80 + (m.arg.extractLsb' 96 8).toNat * 2 ^ 88
      + (m.arg.extractLsb' 80 16).toNat * 2 ^ 96 + (m.arg.extractLsb' 104 2).toNat * 2 ^ 112
    s.sendMsg (ctrlMsg s 0x12 m.src.toNat 0 0 0 arg)
  else
    let s1 := s.setCl x.cluster fun c => { c with waiters := tmod c.waiters x.index [] (· ++ [msgWaiter m]) }
    retryAll s1 x.cluster x.index

/-- A cancellation removes a registration that has not yet succeeded (R264). -/
def onSyncCancel (m : SMsg) (s : State) : State :=
  let x := ObjRef.of (msgRef m)
  s.setCl x.cluster fun c =>
    { c with waiters := tmod c.waiters x.index [] fun l =>
        l.filter fun w => !(w.chip == m.src.toNat && w.remote == (msgWaiter m).remote) }

def execSyncSig (r : SyncRequest) (s : State) : Host.Outcome State Fault Refusal :=
  .next (onMsg 0x10 (fun m s => onSyncSig m (meetMsg s m r.err)) r.msg s)
def execSyncTake (r : SyncRequest) (s : State) : Host.Outcome State Fault Refusal :=
  .next (onMsg 0x11 (fun m s => onSyncTake m (meetMsg s m r.err)) r.msg s)
def execSyncReply (m : SMsg) (s : State) : Host.Outcome State Fault Refusal := .next (onMsg 0x12 onSyncReply m s)
def execSyncReg (r : SyncRequest) (s : State) : Host.Outcome State Fault Refusal :=
  .next (onMsg 0x13 (fun m s => onSyncReg m (meetMsg s m r.err)) r.msg s)
def execSyncCancel (m : SMsg) (s : State) : Host.Outcome State Fault Refusal := .next (onMsg 0x14 onSyncCancel m s)

end Sys2Proof.Machine
end

