-- ==== Sys2Proof/Machine/Life.lean ====
section
/-!
DEFINITION. The life of a quire between its commands: suspension (R240, R242), the
closing of a leaf (R119, R223), and its normal end (R244, R260).
-/

namespace Sys2Proof.Machine
open Sys2Proof

/-! ### Suspension (R240, R242, R149) -/

/-- Suspend a quire in place: a best-effort quire's carder work stops and its thread is released, and the control part is
written. -/
def suspendQuire (s : State) (tag : BitVec 16) : State :=
  match tget? s.quires tag.toNat with
  | none => s
  | some q =>
    let s0 := if q.kind.lc then s else stopCarder s q
    let s1 := writeControl (s0.setQuire tag.toNat fun q => { q with state := .suspended }) tag
    s1.account q.cluster q.consumer fun a => { a with preemptions := a.preemptions + 1 }

/-! ### Closing a leaf -/

/-- Held SIGs are released in issue order (R119). -/
def releaseSigs (s : State) (c : Fin 8) : State :=
  s.setCore c fun x => { x with released := x.released ++ x.sigs.map fun p => (p.1, p.2, x.leaf.getD 0), sigs := [] }

/-- The mismatch count belongs to the leaf that ended (R86). -/
def clearMismatches (s : State) (c : Fin 8) : State :=
  (coreEngs c).foldl (fun s e => s.setEng e fun x => { x with mismatches := 0 }) s

/-- A leaf ends at a boundary: DSP writes in flight land no more, SIGs are released, its cycles are charged, and the
leaf index of its core advances (R119, R120, R223). -/
def closeLeaf (s : State) (q : Quire) (c : Fin 8) (cycles : Nat) : State :=
  let s1 := clearMismatches (chargeLeaf (releaseSigs (noteStatus s q c 0) c) q c cycles) c
  s1.setQuire q.tag.toNat fun q =>
    if c.val % 2 = 0 then { q with leaf0 := q.leaf0 + 1, par0 := {} } else { q with leaf1 := q.leaf1 + 1, par1 := {} }

/-- A coming slot-reception holds the quire out of its windows (R236). -/
def Quire.evict (q : Quire) : Bool := !q.evictFor.isEmpty

/-- A pre-emption, an eviction or a FULL save asks for a best-effort quire at its boundary (R133, R236, R239, R240). -/
def wantsSuspend (s : State) (q : Quire) (c : Fin 8) : Bool :=
  !q.kind.lc && ((s.core c).preempt || q.evict || q.fullSave)

/-- The other core of a cluster. -/
def otherCore (c : Fin 8) : Fin 8 :=
  ⟨if c.val % 2 = 0 then c.val + 1 else c.val - 1, by have := c.isLt; split <;> omega⟩

/-- The quire has a leaf live on a core. -/
def State.liveOn (s : State) (c : Fin 8) (tag : BitVec 16) : Bool := (s.core c).leaf == some tag

/-- The core leaves the quire at a boundary: the context is kept, and a suspension asked for is taken once no other leaf
of the quire is live, the request passing to the other core until then (R240, Table 10-8). -/
def leaveCore (s : State) (q : Quire) (c : Fin 8) : State :=
  let want := wantsSuspend s q c
  let s1 := (keepContext s q c).setCore c fun x => { x with leaf := none, wait := none, preempt := false }
  if s1.liveOn (otherCore c) q.tag then
    if want then s1.setCore (otherCore c) fun x => { x with preempt := true } else s1
  else if want then suspendQuire s1 q.tag
  else s1.setQuire q.tag.toNat fun q => { q with state := .boundary }

/-! ### The normal end -/

/-- The last leaf of every core has ended. -/
def Quire.finished (q : Quire) : Bool :=
  match q.prog with
  | some p => (!p.cores.getLsbD 0 || q.done0) && (!p.cores.getLsbD 1 || q.done1)
  | none => false

/-- A quire ends: its objects are released, its windows, threads and slot go back, and a best-effort quire that was held
may be triggered (R229, R236, R244, R260). -/
def endQuire (s : State) (tag : BitVec 16) : State :=
  match tget? s.quires tag.toNat with
  | none => s
  | some q =>
    let s1 := q.run.foldl (fun s i => releaseObj s q.cluster i) (releaseQuire s q)
    let s2 := s1.setQuire tag.toNat fun q => { q with state := .ended, ctxSlot := none }
    let s3 := { s2 with qctx := tdel s2.qctx tag.toNat }
    if q.kind.lc then s3
    else triggerQueued s3 q.cluster

end Sys2Proof.Machine
end

