-- ==== Sys2Proof/Machine/Timing.lean ====
section
/-!
DEFINITION. When the units of an engine take their instructions (R62 to R64, R75, R97, R99, R117, R118, R451): the queues of
pending instructions, the waits between array, drain, vector engine and core, and the stall counters (R153, R154). Times are DSP
cycles of the leaf, four to an array cycle. Times change no bits.
-/

namespace Sys2Proof.Machine
open Sys2Proof

/-! ### Spans in flight -/

/-- The array cycle that begins at a DSP cycle or next after it. -/
def arrUp (t : Nat) : Nat := 4 * ceilDiv t 4

/-- A flight shares a byte, or a unit, with a span. -/
def Flight.touches (p : Flight) (acc : Bool) (lo hi : Int) : Bool := p.acc == acc && decide (lo < p.hi ∧ p.lo < hi)

/-- The cycle from which no selected flight shares a byte with a span. -/
def clearAt (l : List Flight) (sel : Flight → Bool) (acc : Bool) (lo hi : Int) : Nat :=
  ((l.filter fun p => sel p && p.touches acc lo hi).map (·.done)).foldl max 0

/-- The cycle from which a queue has room for one more instruction: fewer than four of it are pending (R117). -/
def queueAt (starts : List Nat) (now : Nat) : Nat :=
  let l := sortBy (· ≤ ·) (starts.filter (now < ·))
  if l.length < 4 then now else l.getD (l.length - 4) now

/-- The core waits at issue for room in a queue of an engine; what has happened by then is forgotten. -/
def State.queued (s : State) (c : Fin 8) (e : Nat) (vec : Bool) : State :=
  let tm := (s.eng e).tm
  let s1 := s.setCore c (Core.waitTo (queueAt (if vec then tm.vecStarts else tm.arrStarts) (s.core c).now))
  let now := (s1.core c).now
  s1.setEng e fun x => { x with tm := { x.tm with
    arrStarts := x.tm.arrStarts.filter (now < ·), vecStarts := x.tm.vecStarts.filter (now < ·)
    flights := x.tm.flights.filter (now < ·.done) } }

/-! ### Stall counts (R153, R154) -/

/-- Array cycles of a cause. In a replay, the cycles before its first vector are replay cycles in place of any other. -/
def State.stallArr (s : State) (c : Fin 8) (e : Nat) (i : Fin 16) (n : Nat) : State :=
  if (s.core c).replays ≠ 0 ∧ (s.eng e).stream = none then s
  else (s.engCount e i n).setEng e fun x => { x with tm := { x.tm with stallArr := x.tm.stallArr + n } }

/-- Vector cycles of STALL_DATA_LATE. -/
def State.vecLate (s : State) (e n : Nat) : State :=
  (s.engCount e 1 n).setEng e fun x => { x with tm := { x.tm with stallVec := x.tm.stallVec + n } }

/-! ### The feeder path (R62, R63) -/

/-- The feeder path on its way through an instruction: its next free cycle, its waits in array cycles, the spans in flight. -/
structure Walk where
  t : Nat
  late : Nat := 0
  full : Nat := 0
  fl : List Flight

/-- One feeder cycle: it waits for the bytes it reads to be written, and, with a result row, until no earlier drain has still to
read that row; the row is written 392 array cycles on (R62, R63, R99). -/
def Walk.feed (w : Walk) (rd : Int × Int) (row : Option (Nat × Nat)) : Walk :=
  let t1 := max w.t (arrUp (clearAt w.fl (·.write) false rd.1 rd.2))
  let t2 := match row with
    | some (u, n) => max t1 (arrUp (clearAt w.fl (fun p => !p.write) true u (u + n)) - 1568)
    | none => t1
  let own := match row with
    | some (u, n) => [({ acc := true, write := true, unit_ := 0, lo := u, hi := u + n, done := t2 + 1572 } : Flight)]
    | none => []
  { t := t2 + 4, late := w.late + (t1 - w.t) / 4, full := w.full + (t2 - t1) / 4
    fl := ({ acc := false, write := false, unit_ := 0, lo := rd.1, hi := rd.2, done := t2 + 4 } : Flight) :: own ++ w.fl }

/-- The feeder path after its walk: its waits are counted, and its first cycle is the start of the instruction. -/
def State.fed (s : State) (c : Fin 8) (e start : Nat) (w : Walk) : State :=
  ((s.stallArr c e 0 w.late).stallArr c e 3 w.full).setEng e fun x =>
    { x with tm := { x.tm with feed := w.t, arrStarts := start :: x.tm.arrStarts, flights := w.fl } }

/-- The first cycle in which the feeder path can take an instruction issued now. -/
def State.feedFrom (s : State) (c : Fin 8) (e : Nat) : Nat := arrUp (max (s.core c).now (s.eng e).tm.feed)

/-- ARRAY_MODE takes one feeder cycle (R63, R152). -/
def timeMode (s : State) (c : Fin 8) (e : Nat) : State :=
  let s1 := s.queued c e false
  let t := s1.feedFrom c e
  s1.fed c e t { t := t + 4, fl := (s1.eng e).tm.flights }

/-- The start of an instruction on the feeder path: the cycle of its first read. -/
def feedStart (t : Nat) (fl : List Flight) : List (Int × Int) → Nat
  | [] => t
  | r :: _ => (({ t := t, fl := fl } : Walk).feed r none).t - 4

/-- A load takes 256 feeder cycles, over the rows it reads (R61, R63). -/
def timeLoad (s : State) (c : Fin 8) (e : Nat) (rows : List (Int × Int)) : State :=
  let s1 := s.queued c e false
  let t := s1.feedFrom c e
  let fl := (s1.eng e).tm.flights
  (s1.fed c e (feedStart t fl rows) (rows.foldl (fun w r => w.feed r none) { t := t, fl := fl })).stallArr c e 2 256

/-- The vectors of a stream from the `v`th on, with the two checksum cycles that close a group in MAC mode (R69). -/
def streamWalk (mac : Bool) : List ((Int × Int) × Nat × Nat) → Nat → Walk → Walk
  | [], _, w => w
  | x :: r, v, w =>
    let w1 := w.feed x.1 (some x.2)
    streamWalk mac r (v + 1)
      (if mac && (decide (v % 256 = 255) || r.isEmpty) then { w1 with t := w1.t + 8 } else w1)

/-- A stream takes the feeder path for its vectors; its check barrier clears 396 array cycles after its last feeder cycle (R62,
R64). In a replay the cycles up to its first vector are replay cycles (Table 7-9). -/
def timeStream (s : State) (c : Fin 8) (e : Nat) (mac : Bool) (vs : List ((Int × Int) × Nat × Nat)) : State :=
  let s1 := s.queued c e false
  let t := s1.feedFrom c e
  let fl := (s1.eng e).tm.flights
  let w := streamWalk mac vs 0 { t := t, fl := fl }
  let start := feedStart t fl (vs.map (·.1))
  let s2 := (s1.fed c e start w).setEng e fun x => { x with tm := { x.tm with barrier := max x.tm.barrier (w.t + 1584) } }
  if (s.core c).replays ≠ 0 ∧ (s.eng e).stream = none then s2.engCount e 5 (start / 4) else s2

/-! ### The drain (R63, R75) -/

/-- One row of a drain on the accumulator read port: it waits for the streams that write the row and for what has still to use
the bytes it writes; the row is in the scratchpad 11 array cycles after its read (R63, R75). -/
def drainRowAt (t cycles : Nat) (fl : List Flight) (row : Nat × Nat) (out : Int × Int) : Nat × List Flight :=
  let u := max t (arrUp (max (clearAt fl (·.write) true row.1 (row.1 + row.2)) (clearAt fl (fun _ => true) false out.1 out.2)))
  (u, { acc := true, write := false, unit_ := 1, lo := row.1, hi := row.1 + row.2, done := u + 4 * cycles }
    :: { acc := false, write := true, unit_ := 1, lo := out.1, hi := out.2, done := u + 4 * cycles + 44 } :: fl)

/-- The rows of a drain: the start of each, the next free cycle of the port, the spans in flight. -/
def drainWalk (cycles : Nat) : List ((Nat × Nat) × Int × Int) → Nat → List Flight → List Nat → Nat × List Flight × List Nat
  | [], t, fl, st => (t, fl, st)
  | x :: r, t, fl, st =>
    let (u, fl1) := drainRowAt t cycles fl x.1 x.2
    drainWalk cycles r (u + 4 * cycles) fl1 (st ++ [u])

/-- A drain takes the read port for so many array cycles a row. -/
def timeDrain (s : State) (c : Fin 8) (e cycles : Nat) (rows : List ((Nat × Nat) × Int × Int)) : State :=
  let s1 := s.queued c e false
  let tm := (s1.eng e).tm
  let t := arrUp (max (s1.core c).now tm.drain)
  let (t1, fl, st) := drainWalk cycles rows t tm.flights []
  s1.setEng e fun x => { x with tm := { x.tm with drain := t1, arrStarts := st.headD t :: x.tm.arrStarts, flights := fl } }

/-! ### The vector engine (R97, R99, R451) -/

/-- The first cycle in which the vector engine can take an instruction issued now, its registers being ready. -/
def State.vecFrom (s : State) (c : Fin 8) (e : Nat) (regs : List Nat) : Nat :=
  let tm := (s.eng e).tm
  (regs.map (tget tm.ready · 0)).foldl max (max (s.core c).now tm.vec)

/-- The vector engine after an instruction: its start, its next free cycle, the registers it writes with the cycle from which
each may be read; an s register 2 DSP cycles later (Table 6-3). -/
def State.vecDone (s : State) (c : Fin 8) (e start next : Nat) (writes : List Nat) (at_ : Nat) (fl : List Flight) : State :=
  let s1 := s.setEng e fun x => { x with tm := { x.tm with
    vec := next, vecStarts := start :: x.tm.vecStarts, flights := fl
    ready := writes.foldl (fun t r => tset t r at_) x.tm.ready } }
  s1.setCore c fun x => { x with
    ready := (writes.filter fun r => decide (0x20 ≤ r ∧ r < 0x60)).foldl (fun t r => tset t (r - 0x20) (at_ + 2)) x.ready }

/-- A register-mode instruction: 2 vector cycles for each stage unit (R93, R99). -/
def timeVec (s : State) (c : Fin 8) (e cost : Nat) (reads writes : List Nat) : State :=
  let s1 := s.queued c e true
  let t := s1.vecFrom c e (reads ++ writes)
  s1.vecDone c e t (t + 1) writes (t + 2 * cost) (s1.eng e).tm.flights

/-- The wait of a vector access for spans in flight: the cycle from which it may go, and the cycles that count as STALL_DATA_LATE,
those for a drain's write or an array's read (R99). -/
def accessAt (fl : List Flight) (t : Nat) (store : Bool) (spans : List (Int × Int)) : Nat × Nat :=
  let at_ := fun (sel : Flight → Bool) => (spans.map fun x => clearAt fl sel false x.1 x.2).foldl max t
  if store then (at_ fun _ => true, at_ (fun p => p.unit_ == 0) - t)
  else (at_ (·.write), at_ (fun p => p.write && p.unit_ == 1) - t)

/-- The spans of a vector access, in flight until a cycle. -/
def vecFlights (store : Bool) (spans : List (Int × Int)) (done : Nat) : List Flight :=
  spans.map fun x => { acc := false, write := store, unit_ := 2, lo := x.1, hi := x.2, done := done }

/-- A register-mode access with `extra` cycles for banks used again: its register is readable, or its bytes are written, 10
vector cycles after its last access is served (R451). -/
def timeAccess (s : State) (c : Fin 8) (e : Nat) (store : Bool) (reg extra : Nat) (spans : List (Int × Int)) : State :=
  let s1 := s.queued c e true
  let fl := (s1.eng e).tm.flights
  let (t, late) := accessAt fl (s1.vecFrom c e [reg]) store spans
  let last := t + extra
  (s1.vecDone c e t (last + 1) (if store then [] else [reg]) (last + 10)
    (vecFlights store spans (if store then last + 10 else last + 1) ++ fl)).vecLate e (late + extra)

/-- What one iteration of a chain does: its load spans, its store span, and the cycles that banks of its own streams add. -/
structure Iter where
  loads : List (Int × Int)
  store : List (Int × Int)
  extra : Nat

/-- The iterations of a chain: the start of the first and the last, the cycles late, the spans in flight (R97, R99). `lat` is
10 + 2 × S. -/
def chainWalk (lat : Nat) : List Iter → Nat → Nat × Nat × Nat × List Flight → Nat × Nat × Nat × List Flight
  | [], _, a => a
  | x :: r, t, (first, _, late, fl) =>
    let (t1, l1) := accessAt fl t false x.loads
    let (t2, l2) := accessAt fl (t1 + lat) true x.store
    let u := t2 - lat
    chainWalk lat r (u + 1 + x.extra) (first.min u, u + x.extra, late + l1 + l2 + x.extra,
      vecFlights false x.loads (u + 1) ++ vecFlights true x.store (u + lat + 1) ++ fl)

/-- A chain occupies the vector engine for its iterations; its reduction's register is written after the final tree (R97). -/
def timeChain (s : State) (c : Fin 8) (e lat : Nat) (reads writes : List Nat) (its : List Iter) : State :=
  let s1 := s.queued c e true
  let t := s1.vecFrom c e (reads ++ writes)
  let far := t + lat + its.length + ((s1.eng e).tm.flights.map (·.done)).foldl max 0
  let (first, last, late, fl) := chainWalk lat its t (far, t, 0, (s1.eng e).tm.flights)
  (s1.vecDone c e (first.min last) (last + 1) writes (last + lat + 6) fl).vecLate e late

/-! ### The core against its engines (R64, R118) -/

/-- A DSP or scalar access of a scratchpad waits for the engine instructions whose bytes it shares, a load also for the check
barrier; the cycles are counted as STALL_DATA_LATE of the engine (R64, R118). -/
def State.memWait (s : State) (c : Fin 8) (a size : Nat) (store : Bool) : State :=
  match coreMem c a with
  | some (.spad e off) =>
    let tm := (s.eng e).tm
    let t := if store then clearAt tm.flights (fun _ => true) false off (off + size)
      else max tm.barrier (clearAt tm.flights (·.write) false off (off + size))
    let n := t - (s.core c).now
    if n = 0 then s else (s.setCore c (Core.idle n)).vecLate e n
  | _ => s

/-- The check barriers of both engines of a core have cleared from here on (R64). -/
def State.barrierAt (s : State) (c : Fin 8) : Nat := ((coreEngs c).map fun e => (s.eng e).tm.barrier).foldl max 0

/-- Every instruction of both engines of a core has completed from here on (R119). -/
def State.enginesDone (s : State) (c : Fin 8) : Nat :=
  ((coreEngs c).map fun e =>
    let tm := (s.eng e).tm
    (tm.flights.map (·.done) ++ tm.ready.map (·.2)).foldl max (max (max tm.feed tm.drain) (max tm.vec tm.barrier))).foldl max 0

/-- The core idles until a cycle of its leaf. -/
def State.waitCore (s : State) (c : Fin 8) (t : Nat) : State := s.setCore c (Core.waitTo t)

end Sys2Proof.Machine
end

