-- ==== Sys2Proof/Machine/Parity.lean ====
section
/-!
DEFINITION. Parity errors that a leaf's instruction meets (R155 to R157) and the replay that they share with the checks of
the array (R85, R87).
-/

namespace Sys2Proof.Machine
open Sys2Proof

/-- Roll a leaf back to its boundary: it runs again, or its quire is suspended there where a pre-emption is held (R85,
R87). -/
def rollBack (s : State) (q : Quire) (c : Fin 8) : State :=
  let s1 := replayLeaf s c q.tag
  if (s1.core c).preempt && !q.kind.lc then
    let s2 := (keepContext s1 q c).setCore c fun x => { x with leaf := none, wait := none, preempt := false }
    if s2.liveOn (otherCore c) q.tag then s2 else suspendQuire s2 q.tag
  else s1

/-- The attempt that a replay discards is counted on both engines of the core, but for the cycles that another cause has counted
already (Table 7-9, R154). -/
def countDiscarded (s : State) (c : Fin 8) (arr : Nat) : State :=
  (coreEngs c).foldl (fun s e =>
    let tm := (s.eng e).tm
    (s.engCount e 5 (arr - tm.stallArr)).engCount e 6 (4 * arr - tm.stallVec)) s

/-- The array cycles that the attempt of a core has run when an instruction meets an error: to the issue of that instruction, or
to where the units of its engines stand (DESIGN CHOICE, log entry 65). -/
def State.reached (s : State) (c : Fin 8) : Nat :=
  ceilDiv (((coreEngs c).map fun e => max (s.eng e).tm.feed (max (s.eng e).tm.drain (s.eng e).tm.vec)).foldl max (s.core c).now) 4

/-- Stop an attempt that has run so many array cycles, and roll the leaf back: the attempt is charged and counted as discarded
(R85, R233, Table 7-9). -/
def discard (s : State) (q : Quire) (c : Fin 8) (arr : Nat) (roll : State → State) : State :=
  roll (chargeLeaf (countDiscarded s c arr) q c arr)

/-- The 32-bit word of the part's memory that holds byte `w` has bytes among the `len` bytes at `a`. -/
def wordIn (w a len : Nat) : Bool := decide (a < w - w % 4 + 4 ∧ w - w % 4 < a + len)

/-- The `n` words at the program counter, in the code region of the quire, hold the word. -/
def fetches (s : State) (q : Quire) (c : Fin 8) (n w : Nat) : Bool :=
  wordIn w (cmemAt q.cluster.val + q.code.base + (s.core c).cx.pc) (8 * n)

/-- The word that an operand names as failing is one that the instruction of `n` words fetches or reads in an active element. -/
def parityHit (s : State) (q : Quire) (c : Fin 8) (n : Nat) (par : Option Nat) (reads : Nat → Bool) : Bool :=
  match par with
  | some w => fetches s q c n w || reads w
  | none => false

/-- A parity error is one event of its memory (R155). -/
def countWord (s : State) (w : Nat) : State :=
  if w < accAt 0 then s.engCount (w / 0x400000) 14 1
  else if w < cmemAt 0 then s.engCount ((w - accAt 0) / 0x180000) 15 1
  else
    let k := if w < ringAt 0 0 then (w - cmemAt 0) / 0x800000 else (w - ringAt 0 0) / 0x8000000
    s.setCl (Fin.ofNat 4 k) fun k => { k with parityEvents := k.parityEvents + 1 }

/-- The parity replays of the leaf on a core of its quire. -/
def Quire.parity (q : Quire) (c : Fin 8) : ParityCtx := if c.val % 2 = 0 then q.par0 else q.par1

/-- A parity error stops the leaf, which runs again from its boundary; the fourth, a second one on the same word, or a second one
of an instruction fetch, whose code the first had copied again from the decrypted image, faults the quire (Table 7-10, R156). The
copy has the bytes that the region has: no byte of it has changed. -/
def memParity (s : State) (q : Quire) (c : Fin 8) (fetch : Bool) (w : Nat) : State :=
  let p := q.parity c
  let a := w - w % 4
  let s1 := countWord s w
  if 3 ≤ p.replays ∨ p.words.contains a ∨ (fetch && p.fetch) then faultQuire s1 q.tag 0x57
  else
    let p1 : ParityCtx := { replays := p.replays + 1, words := a :: p.words, fetch := p.fetch || fetch }
    let s2 := s1.setQuire q.tag.toNat fun q => if c.val % 2 = 0 then { q with par0 := p1 } else { q with par1 := p1 }
    discard s2 q c (s.reached c) (rollBack · q c)

/-- Run an instruction of `n` words whose checks have passed, or take the parity error that its fetch or its reads meet. -/
def reading (c : Fin 8) (n : Nat) (par : Option Nat) (reads : Nat → Bool) (q : Quire) (s s1 : State) : State :=
  if parityHit s q c n par reads then memParity s q c (fetches s q c n (par.getD 0)) (par.getD 0) else s1

end Sys2Proof.Machine
end

