-- ==== Sys2Proof/Machine/Array.lean ====
section
/-!
DEFINITION. The matrix array (R61 to R89): ARRAY_MODE, ARRAY_LOAD, ARRAY_STREAM and ARRAY_DRAIN.
-/

namespace Sys2Proof.Machine
open Sys2Proof

/-! ### ARRAY_MODE (R65) -/

/-- Operand class of a format (R47): 0 integer, 1 float, 2 complex integer, 3 complex float; none if the array does not
take the format. -/
def arrayClass (f : Nat) : Option Nat :=
  if f = 1 ∨ f = 2 then some 0
  else if f = 6 ∨ f = 7 then some 1
  else if f = 9 then some 2
  else if f = 10 then some 3
  else none

/-- The operands of ARRAY_MODE in its operand register (Table 6-5). -/
def arrayModeOf (w : Nat) : ArrayMode :=
  { op := bits w 17 3, xfmt := bits w 13 4, wfmt := bits w 9 4, conj := bit w 8, cmp := bits w 6 2,
    tol := bits w 1 5, gateOff := bit w 0 }

/-- The fault of an ARRAY_MODE, in the order of R65. -/
def arrayModeFault (m : ArrayMode) : Option Nat :=
  if 5 < m.op ∨ !(m.tol = 0 ∨ (8 ≤ m.tol ∧ m.tol ≤ 16)) then some 0x22
  else match arrayClass m.xfmt, arrayClass m.wfmt with
    | some a, some b =>
      if a ≠ b ∨ (2 ≤ a ∧ m.op ≠ 0) then some 0x21
      else if m.conj ∧ a < 2 then some 0x22
      else none
    | _, _ => some 0x21

/-- ARRAY_MODE (R65): the mode is set and the tile is invalidated. -/
def execArrayMode (core : Fin 8) (eng : Bool) (sa : Fin 64) (s : State) : Host.Outcome State Fault Refusal :=
  .next (issueEng core eng sa 1 1 1 (fun q s =>
    let m := arrayModeOf (s.getS core sa.val).toNat
    match arrayModeFault m with
    | some f => faultQuire s q.tag f
    | none => (timeMode s core (engOf core eng)).setEng (engOf core eng) fun e =>
        { e with mode := some m, tileValid := false, tileReload := false, tile := [], issued := e.issued + 1 }) s)

/-! ### ARRAY_LOAD (R66 to R68) -/

/-- The class of a mode is float, real or complex. -/
def ArrayMode.isFloat (m : ArrayMode) : Bool := m.wfmt == 6 || m.wfmt == 7 || m.wfmt == 10
/-- The class of a mode is complex. -/
def ArrayMode.isComplex (m : ArrayMode) : Bool := isCplx m.wfmt

/-- The 16-bit patterns of one row or vector. -/
def halves (b : Bytes) : List Nat := leList 2 b

/-- A signalling NaN among patterns of a format (R45). -/
def anySnan (f : Nat) (l : List Nat) : Bool := isFlt (partFmt f) && l.any (isSnan (fltFmt (partFmt f)))

/-- The cells of lanes 2k and 2k + 1 for one row of complex weights (Table 4-7). -/
def complexCells (conj : Bool) : List Nat → List (Nat × Bool) × List (Nat × Bool)
  | wr :: wi :: r =>
    let (a, b) := complexCells conj r
    ((wr, false) :: (wi, conj) :: a, (wi, !conj) :: (wr, false) :: b)
  | _ => ([], [])

/-- The tile by lane, from the weight rows (R66, R79). -/
def tileOf (m : ArrayMode) (rows : List (List Nat)) : List (List (Nat × Bool)) :=
  if m.isComplex then
    rows.flatMap fun r => let (a, b) := complexCells m.conj r
                          [a, b]
  else rows.map fun r => r.map fun w => (w, false)

/-- Read the weight rows of an engine from its scratchpad (R66). -/
def weightRows (s : State) (e : Nat) (m : ArrayMode) (addr : Nat) (stride : Int) : List (List Nat) :=
  (List.range (if m.isComplex then 128 else 256)).map fun r : Nat =>
    halves (s.rd (spadAt e + ((addr : Int) + (r : Int) * stride * 64).toNat) 256)

/-- The spans of the rows that the 256 cycles of a load read, a row of complex weights in two cycles (R61, R66). -/
def loadSpans (m : ArrayMode) (addr : Nat) (stride : Int) : List (Int × Int) :=
  (List.range 256).map fun i : Nat =>
    let a : Int := (addr : Int) + ((if m.isComplex then i / 2 else i : Nat) : Int) * stride * 64
    (a, a + 256)

/-- A load reads the word (R155). -/
def loadReads (e : Nat) (m : ArrayMode) (addr : Nat) (stride : Int) (w : Nat) : Bool :=
  (List.range (if m.isComplex then 128 else 256)).any fun r : Nat =>
    wordIn w (spadAt e + ((addr : Int) + (r : Int) * stride * 64).toNat) 256

/-- ARRAY_LOAD (R66 to R68); `par` names a word that fails its parity (R155). -/
def execArrayLoad (core : Fin 8) (eng : Bool) (sa : Fin 64) (par : Option Nat) (s : State) : Host.Outcome State Fault Refusal :=
  .next (issueEng core eng sa 1 1 1 (fun q s =>
    let e := engOf core eng
    let w := (s.getS core sa.val).toNat
    let addr := bits w 0 22
    let stride := sx 16 (bits w 22 16)
    match (s.eng e).mode with
    | none => faultQuire s q.tag 0x23
    | some m =>
      let (lo, hi) := strideSpan addr (64 * stride) (if m.isComplex then 128 else 256) 256
      if addr % 64 ≠ 0 ∨ stride.natAbs < 4 ∨ !q.spadWin.holds lo hi then faultQuire s q.tag 0x23
      else
        let rows := weightRows s e m addr stride
        let fl := stInval (rows.any (anySnan m.wfmt))
        reading core 1 par (loadReads e m addr stride) q s ((timeLoad s core e (loadSpans m addr stride)).setEng e fun x =>
          { x with tile := tileOf m rows, tileValid := true, tileReload := false, wAddr := addr, wStride := stride,
                   flags := x.flags.or fl, issued := x.issued + 1 })) s)

/-! ### Operation modes (R76 to R79) -/

/-- A comparison by its code (Table 4-2). -/
def cmpBy (code : Nat) (c : Int) : Bool :=
  match code with
  | 0 => decide (c ≥ 0) | 1 => decide (c > 0) | 2 => c == 0 | _ => c != 0

/-- One integer cell step (Table 4-6). -/
def cellInt (m : ArrayMode) (x : Int) (w : Int × Bool) : Int :=
  match m.op with
  | 0 => if w.2 then -(x * w.1) else x * w.1
  | 1 => ((x - w.1).natAbs : Int)
  | 2 => (x - w.1) * (x - w.1)
  | 5 => if cmpBy m.cmp (x - w.1) then 1 else 0
  | _ => x + w.1

/-- The identity of a mode in the integer classes (R71). -/
def identInt (op : Nat) : Int := if op = 3 then 2 ^ 47 - 1 else if op = 4 then -(2 ^ 47) else 0

/-- The reduction of a mode in the integer classes. -/
def redInt (op : Nat) (a b : Int) : Int :=
  if op = 3 then (if b < a then b else a) else if op = 4 then (if a < b then b else a) else a + b

/-- The column results of the active lanes of one vector, integer classes: every step exact (R77). -/
def colsInt (m : ArrayMode) : List Nat → List (List (Nat × Bool)) → List Int → List Int
  | x :: xs, l :: ls, acc =>
    let xv := intVal (partFmt m.xfmt) x
    colsInt m xs ls
      (List.zipWith (fun a w => redInt m.op a (cellInt m xv (intVal (partFmt m.wfmt) w.1, w.2))) acc l)
  | _, _, acc => acc

/-- A comparison of the float classes: false with a NaN, but for NE (R78). -/
def fcmpBy (code : Nat) (a b : FVal) : Bool :=
  if a.isNan || b.isNan then code == 3 else cmpBy code (fcmpIeee a b)

/-- One float cell step, its result an FP32 pattern (R78, Table 4-7). -/
def cellFlt (m : ArrayMode) (x : FVal) (w : FVal × Bool) : Nat :=
  match m.op with
  | 0 => to32 (let p := fmulV x w.1
               if w.2 then fneg p else p)
  | 1 => to32 (fabsV (faddV x (fneg w.1)))
  | 2 => let d := to32 (faddV x (fneg w.1))
         mul32 d d
  | 5 => if fcmpBy m.cmp x w.1 then 0x3F800000 else 0
  | _ => to32 (faddV x w.1)

/-- The identity of a mode in the float classes (R71). -/
def identFlt (op : Nat) : Nat := if op = 3 then fp32.infBits else if op = 4 then fp32.infBits + fp32.signBit else 0

/-- The reduction of a mode in the float classes: rounded addition, or the NaN-propagating minimum or maximum. -/
def redFlt (op : Nat) (a b : Nat) : Nat :=
  if op = 3 then to32 (fminmaxV false (f32 a) (f32 b))
  else if op = 4 then to32 (fminmaxV true (f32 a) (f32 b))
  else add32 a b

/-- One level of a tree over adjacent pairs. -/
def pairUp (f : α → α → α) : List α → List α
  | a :: b :: r => f a b :: pairUp f r
  | l => l

/-- `n` levels of a tree over adjacent pairs. -/
def treeRed (f : α → α → α) : Nat → List α → List α
  | 0, l => l
  | n + 1, l => treeRed f n (pairUp f l)

/-- The column results of one vector in the float classes: the fixed tree over 256 lanes, masked lanes entering as the
identity (R71, R78). -/
def colsFlt (m : ArrayMode) (cells : List (List Nat)) : List Nat :=
  let pad := List.replicate (256 - cells.length) (List.replicate 128 (identFlt m.op))
  (treeRed (List.zipWith (redFlt m.op)) 8 (cells ++ pad)).headD []

/-- The cells of the active lanes of one vector, given by value. -/
def cellsFlt (m : ArrayMode) (xs : List FVal) (tile : List (List (Nat × Bool))) : List (List Nat) :=
  List.zipWith (fun x l => l.map fun w => cellFlt m x (fdecode (fltFmt (partFmt m.wfmt)) w.1, w.2)) xs tile

/-! ### The accumulator store (R72, R73) -/

/-- The ACC48 row at a unit. -/
def accRow48 (s : State) (e u : Nat) : List Nat := leList 8 (s.rd (accAt e + 512 * u) 1024)
/-- The FP32 row at a unit. -/
def accRow32 (s : State) (e u : Nat) : List Nat := leList 4 (s.rd (accAt e + 512 * u) 512)

def putRow48 (s : State) (e u : Nat) (l : List Int) : State :=
  s.wr (accAt e + 512 * u) (l.flatMap fun x => toLE 8 (intPat 4 x))
def putRow32 (s : State) (e u : Nat) (l : List Nat) : State :=
  s.wr (accAt e + 512 * u) (l.flatMap (toLE 4))

/-- The operation ⊕ on one ACC48 element (R72). -/
def plusInt (op : Nat) (a p : Int) : Int × Sticky :=
  if op = 3 ∨ op = 4 then (redInt op a p, {}) else accAdd48 a p

/-- The units that a row takes, from its first. -/
def rowUnits (acc48 : Bool) (u : Nat) : List Nat := if acc48 then [u, u + 1] else [u]

/-! ### ARRAY_STREAM (R69 to R73) -/

/-- The operands of ARRAY_STREAM (Tables 4-4 and 6-5). -/
structure StreamOps where
  xAddr : Nat
  xStride : Int
  count : Nat
  active : Nat
  base : Nat
  stride : Nat
  op : Nat
deriving DecidableEq, Repr

def streamOpsOf (w0 w1 : Nat) : StreamOps :=
  { xAddr := bits w0 0 22, xStride := sx 16 (bits w0 22 16), count := bits w0 38 24,
    active := bits w1 0 9, base := bits w1 9 12, stride := bits w1 21 12, op := bits w1 33 2 }

/-- Every accumulator unit of a row run lies in the window, and is even for ACC48 (R70, R75). -/
def accOk (q : Quire) (acc48 : Bool) (base stride n : Nat) : Bool :=
  q.accWin.holds base (base + (n - 1) * stride + if acc48 then 2 else 1)
    && (!acc48 || (base % 2 == 0 && stride % 2 == 0))

/-- The fault of an ARRAY_STREAM (R70, R73), every condition checked before the first vector enters. Where several hold, the
lowest code is reported (DESIGN CHOICE, log entry 65). -/
def streamFault (q : Quire) (e : Engine) (m : ArrayMode) (o : StreamOps) : Option Nat :=
  let (lo, hi) := strideSpan o.xAddr (64 * o.xStride) o.count 512
  if o.count = 0 ∨ o.op = 3 ∨ 256 < o.active ∨ (m.isComplex ∧ o.active % 2 = 1) ∨ !e.tileValid then some 0x22
  else if o.xAddr % 64 ≠ 0 ∨ !q.spadWin.holds lo hi ∨ !accOk q (!m.isFloat) o.base o.stride o.count then some 0x23
  else if o.op = 1 ∧ !((List.range (if o.stride = 0 then 1 else o.count)).all fun v =>
      (rowUnits (!m.isFloat) (o.base + v * o.stride)).all e.written.contains) then some 0x24
  else none

/-- The active lanes of vector `v`. -/
def vectorAt (s : State) (e : Nat) (o : StreamOps) (v : Nat) : List Nat :=
  halves (s.rd (spadAt e + ((o.xAddr : Int) + v * o.xStride * 64).toNat) (2 * o.active))

/-- What the vectors of a stream leave beside their rows: the sticky flags and the gated lane-cycles. -/
structure StreamAcc where
  st : State
  flags : Sticky := {}
  gated : Nat := 0

/-- Write one integer result row under ACC_OP (R72). -/
def putInt (m : ArrayMode) (o : StreamOps) (e v : Nat) (p : List Int) (a : StreamAcc) : StreamAcc :=
  let u := o.base + v * o.stride
  if o.op = 0 ∨ (o.op = 2 ∧ (o.stride ≠ 0 ∨ v = 0)) then { a with st := putRow48 a.st e u p }
  else
    let r := List.zipWith (fun x y => plusInt m.op (sx 48 x) y) (accRow48 a.st e u) p
    { a with st := putRow48 a.st e u (r.map (·.1)), flags := r.foldl (fun f x => f.or x.2) a.flags }

/-- Write one float result row under ACC_OP (R72, R78). -/
def putFlt (m : ArrayMode) (o : StreamOps) (e v : Nat) (p : List Nat) (a : StreamAcc) : StreamAcc :=
  let u := o.base + v * o.stride
  if o.op = 0 ∨ (o.op = 2 ∧ (o.stride ≠ 0 ∨ v = 0)) then { a with st := putRow32 a.st e u p }
  else { a with st := putRow32 a.st e u (List.zipWith (redFlt m.op) (accRow32 a.st e u) p) }

/-- One vector through the tile: its column results, its row written, its flags and gated lanes (R71, R76, R80). A zero element
of a float class counts as gated whatever the weights of its row (DESIGN CHOICE, log entry 65). -/
def streamOne (m : ArrayMode) (tile : List (List (Nat × Bool))) (o : StreamOps) (e v : Nat) (a : StreamAcc) :
    StreamAcc :=
  let xs := vectorAt a.st e o v
  let g := if m.op = 0 ∧ !m.gateOff then
      (xs.filter fun x => if m.isFloat then (fdecode (fltFmt (partFmt m.xfmt)) x).isZero
        else intVal (partFmt m.xfmt) x == 0).length
    else 0
  let a1 := { a with flags := a.flags.or (stInval (anySnan m.xfmt xs)), gated := a.gated + g }
  if m.isFloat then
    putFlt m o e v (colsFlt m (cellsFlt m (xs.map (fdecode (fltFmt (partFmt m.xfmt)))) tile)) a1
  else putInt m o e v (colsInt m xs tile (List.replicate 128 (identInt m.op))) a1

/-- The vectors of a stream in order. -/
def streamGo (m : ArrayMode) (tile : List (List (Nat × Bool))) (o : StreamOps) (e : Nat) :
    Nat → Nat → StreamAcc → StreamAcc
  | 0, _, a => a
  | n + 1, v, a => streamGo m tile o e n (v + 1) (streamOne m tile o e v a)

/-! ### The checks of the linear scheme in the float classes (R81) -/

/-- An FP32 sum in ascending order (DESIGN CHOICE, log entry 23). -/
def fsum32 (l : List Nat) : Nat := l.foldl add32 0

/-- A side that is NaN or infinite: the check is skipped. -/
def oddSides (a b : Nat) : Nat := if (f32 a).isFin && (f32 b).isFin then 0 else 1

/-- FP32 row sums of the tile, negated cells counted with their sign. -/
def rowSums (m : ArrayMode) (tile : List (List (Nat × Bool))) : List Nat :=
  tile.map fun l => fsum32 (l.map fun w =>
    let v := fdecode (fltFmt (partFmt m.wfmt)) w.1
    to32 (if w.2 then fneg v else v))

/-- Column 128 of one vector: the row sums in the checksum cells (R81). -/
def col128 (m : ArrayMode) (sums : List Nat) (xs : List FVal) : Nat :=
  ((colsFlt m (List.zipWith (fun x r => List.replicate 128 (to32 (fmulV x (f32 r)))) xs sums)).headD 0)

/-- The 129 column values of one vector or half-vector. -/
def cols129 (m : ArrayMode) (tile : List (List (Nat × Bool))) (sums : List Nat) (xs : List FVal) : List Nat :=
  colsFlt m (cellsFlt m xs tile) ++ [col128 m sums xs]

/-- The row check of one vector is skipped. -/
def rowSkip (c : List Nat) : Nat := oddSides (fsum32 (c.take 128)) (c.getD 128 0)

/-- Checks skipped in one group of a float stream: row checks of its vectors and half-vectors, and column checks. -/
def groupSkips (m : ArrayMode) (tile : List (List (Nat × Bool))) (sums : List Nat) (vs : List (List FVal)) : Nat :=
  let cs := vs.map (cols129 m tile sums)
  let c := vs.foldl (fun a x => List.zipWith add32 a (x.map to32)) (List.replicate (vs.headD []).length 0)
  let h := c.map fun x => fencode bf16 (f32 x)
  let hv := h.map (fdecode bf16)
  let l := List.zipWith (fun x y => fencode bf16 (f32 (to32 (faddV (f32 x) (fneg y))))) c hv
  let ph := cols129 m tile sums hv
  let pl := cols129 m tile sums (l.map (fdecode bf16))
  let left := cs.foldl (List.zipWith add32) (List.replicate 129 0)
  let right := List.zipWith add32 ph pl
  (cs.map rowSkip).sum + rowSkip ph + rowSkip pl + (List.zipWith oddSides left right).sum

/-- Checks skipped in a whole stream: none but in float MAC. -/
def streamSkips (s : State) (e : Nat) (m : ArrayMode) (tile : List (List (Nat × Bool))) (o : StreamOps) : Nat :=
  if m.isFloat ∧ m.op = 0 then
    let vs := (List.range o.count).map fun v => (vectorAt s e o v).map (fdecode (fltFmt (partFmt m.xfmt)))
    ((chunks 256 vs).map (groupSkips m tile (rowSums m tile))).sum
  else 0

/-- Reload the tile before the first stream that uses it after a restore or a replay (R68). -/
def reloadTile (s : State) (c : Fin 8) (e : Nat) (m : ArrayMode) : State :=
  let x := s.eng e
  if x.tileReload then
    (timeLoad s c e (loadSpans m x.wAddr x.wStride)).setEng e fun y =>
      { y with tile := tileOf m (weightRows s e m x.wAddr x.wStride), tileReload := false }
  else s

/-- The units that a stream writes. -/
def streamUnits (m : ArrayMode) (o : StreamOps) : List Nat :=
  (List.range (if o.stride = 0 then 1 else o.count)).flatMap fun v => rowUnits (!m.isFloat) (o.base + v * o.stride)

/-- What each vector of a stream reads, and the row it writes, as first unit and count. -/
def streamSpans (m : ArrayMode) (o : StreamOps) : List ((Int × Int) × Nat × Nat) :=
  (List.range o.count).map fun v : Nat =>
    let a : Int := (o.xAddr : Int) + v * o.xStride * 64
    ((a, a + 2 * o.active), o.base + v * o.stride, if m.isFloat then 1 else 2)

/-- Run a stream whose checks passed. -/
def runStream (s : State) (c : Fin 8) (e : Nat) (m : ArrayMode) (o : StreamOps) : State :=
  let s1 := timeStream (reloadTile s c e m) c e (m.op == 0) (streamSpans m o)
  let tile := (s1.eng e).tile
  let skips := streamSkips s1 e m tile o
  let a := streamGo m tile o e o.count 0 { st := s1 }
  let fl := a.flags.or { empty := o.active == 0 }
  ((a.st.engCount e 11 a.gated).engCount e 13 skips).setEng e fun x =>
    { x with flags := x.flags.or fl, written := streamUnits m o ++ x.written, issued := x.issued + 1,
             stream := some (x.issued, m) }

/-- A stream reads the word: a tile that is due for reload, the active lanes of its vectors, the rows that it combines into
(R68, R71, R72, R155). -/
def streamReads (x : Engine) (e : Nat) (m : ArrayMode) (o : StreamOps) (w : Nat) : Bool :=
  (x.tileReload && loadReads e m x.wAddr x.wStride w)
    || ((List.range o.count).any fun v : Nat =>
      wordIn w (spadAt e + ((o.xAddr : Int) + v * o.xStride * 64).toNat) (2 * o.active)
        || ((o.op == 1 || (o.op == 2 && o.stride == 0 && v != 0))
          && wordIn w (accAt e + 512 * (o.base + v * o.stride)) (if m.isFloat then 512 else 1024)))

/-- ARRAY_STREAM (R69 to R73, R76 to R82). -/
def execArrayStream (core : Fin 8) (eng : Bool) (sa : Fin 64) (par : Option Nat) (s : State) : Host.Outcome State Fault Refusal :=
  .next (issueEng core eng sa 2 1 1 (fun q s =>
    let e := engOf core eng
    let o := streamOpsOf (s.getS core sa.val).toNat (s.getS core (sa.val + 1)).toNat
    match (s.eng e).mode with
    | none => faultQuire s q.tag 0x22
    | some m =>
      match streamFault q (s.eng e) m o with
      | some f => faultQuire s q.tag f
      | none => reading core 1 par (streamReads (s.eng e) e m o) q s (runStream s core e m o)) s)

/-! ### ARRAY_DRAIN (R74, R75) -/

/-- The operands of ARRAY_DRAIN (Tables 4-5 and 6-5). -/
structure DrainOps where
  base : Nat
  rows : Nat
  stride : Nat
  /-- ACC_KIND: 0 ACC48, 1 FP32. -/
  flt : Bool
  ofmt : Nat
  shift : Nat
  fsat : Bool
  clr : Nat
  dst : Nat
  dstStride : Int
deriving DecidableEq, Repr

def drainOpsOf (w0 w1 : Nat) : DrainOps :=
  { base := bits w1 0 12, rows := bits w1 12 12, stride := bits w1 24 12, flt := bit w1 36, ofmt := bits w1 37 4,
    shift := bits w1 41 6, fsat := bit w1 47, clr := bits w1 48 2, dst := bits w0 0 22,
    dstStride := sx 16 (bits w0 22 16) }

/-- Source format of a drain. -/
def DrainOps.src (o : DrainOps) : Nat := if o.flt then 8 else 4

/-- Bytes of one output row (R75). -/
def DrainOps.rowBytes (o : DrainOps) : Nat := fmtBytes o.ofmt * if isCplx o.ofmt then 64 else 128

/-- One element in the output format, for a complex format one part (R74). -/
def DrainOps.cvt (o : DrainOps) (x : Nat) : Nat × Sticky :=
  (cvtReal o.src (partFmt o.ofmt) o.shift o.fsat x).getD (0, {})

/-- The fault of an ARRAY_DRAIN (R75); ROWS above 3,072 counts as a reserved operand. Where several conditions hold, the operand
is reported before the format, the format before the address, and the tile last (DESIGN CHOICE, log entry 65). -/
def drainFault (q : Quire) (e : Engine) (o : DrainOps) : Option Nat :=
  let (lo, hi) := strideSpan o.dst (64 * o.dstStride) o.rows o.rowBytes
  if o.rows = 0 ∨ 3072 < o.rows ∨ 47 < o.shift then some 0x22
  else if 10 < o.ofmt ∨ (cvtReal o.src (partFmt o.ofmt) 0 false 0).isNone then some 0x21
  else if o.dst % 64 ≠ 0 ∨ !q.spadWin.holds lo hi ∨ !accOk q (!o.flt) o.base o.stride o.rows
      ∨ (1 < o.rows ∧ 64 * o.dstStride.natAbs < o.rowBytes) then some 0x23
  else if (List.range o.rows).any (fun r : Nat =>
      let a : Int := o.dst + (r : Int) * o.dstStride * 64
      e.tileHit a (a + o.rowBytes)) then some 0x25
  else none

/-- The output bytes of one row, with the flags of its conversions. -/
def drainRow (o : DrainOps) (row : List Nat) : Bytes × Sticky :=
  let c := row.map o.cvt
  (c.flatMap fun x => toLE (fmtBytes (partFmt o.ofmt)) x.1, c.foldl (fun f x => f.or x.2) {})

/-- Leave the value that CLR selects in a row that has been read (R74). -/
def clearRow (s : State) (e u : Nat) (o : DrainOps) : State :=
  let op := if o.clr = 2 then 3 else if o.clr = 3 then 4 else 0
  if o.clr = 0 then s
  else if o.flt then putRow32 s e u (List.replicate 128 (identFlt op))
  else putRow48 s e u (List.replicate 128 (identInt op))

/-- The rows of a drain in order. -/
def drainGo (o : DrainOps) (e : Nat) : Nat → Nat → State × Sticky → State × Sticky
  | 0, _, a => a
  | n + 1, r, (s, fl) =>
    let u := o.base + r * o.stride
    let row := if o.flt then accRow32 s e u else accRow48 s e u
    let (b, g) := drainRow o row
    let s1 := s.wr (spadAt e + ((o.dst : Int) + r * o.dstStride * 64).toNat) b
    drainGo o e n (r + 1) (clearRow s1 e u o, fl.or g)

/-- The row that each row of a drain reads, as first unit and count, and the bytes it writes. -/
def drainSpans (o : DrainOps) : List ((Nat × Nat) × Int × Int) :=
  (List.range o.rows).map fun r : Nat =>
    let a : Int := (o.dst : Int) + (r : Int) * o.dstStride * 64
    ((o.base + r * o.stride, if o.flt then 1 else 2), a, a + o.rowBytes)

/-- A drain reads the word (R155). -/
def drainReads (e : Nat) (o : DrainOps) (w : Nat) : Bool :=
  (List.range o.rows).any fun r : Nat =>
    wordIn w (accAt e + 512 * (o.base + r * o.stride)) (if o.flt then 512 else 1024)

/-- ARRAY_DRAIN (R74, R75); the rows that CLR writes count as written by the leaf (R73). -/
def execArrayDrain (core : Fin 8) (eng : Bool) (sa : Fin 64) (par : Option Nat) (s : State) : Host.Outcome State Fault Refusal :=
  .next (issueEng core eng sa 2 1 1 (fun q s =>
    let e := engOf core eng
    let o := drainOpsOf (s.getS core sa.val).toNat (s.getS core (sa.val + 1)).toNat
    match drainFault q (s.eng e) o with
    | some f => faultQuire s q.tag f
    | none =>
      let (s1, fl) := drainGo o e o.rows 0 (timeDrain s core e (ceilDiv o.rowBytes 256) (drainSpans o), {})
      let own := if o.clr = 0 then [] else
        (List.range o.rows).flatMap fun r => rowUnits (!o.flt) (o.base + r * o.stride)
      reading core 1 par (drainReads e o) q s (s1.setEng e fun x =>
        { x with flags := x.flags.or fl, written := own ++ x.written, issued := x.issued + 1 })) s)

end Sys2Proof.Machine
end

