-- ==== Sys2Proof/Machine/Correct.lean ====
section
/-!
DEFINITION. The correction of an uplink stream-symbol (R172): expansion, frequency shift, phase multiply, compression; and
the symbol boundaries of TS 38.211 for normal cyclic prefix (R172, R297).
-/

namespace Sys2Proof.Machine
open Sys2Proof

/-! ### Symbol boundaries -/

/-- Symbol `l` of slot `n` of the frame is the longer first symbol of a half-subframe. -/
def longSymbol (mu n l : Nat) : Bool := (n % 2 ^ mu * 14 + l) % (7 * 2 ^ mu) == 0

/-- Start of symbol `l` from the start of its slot, in Tc: 64 Tc a sample of 30.72 MHz; 2,192/2^μ samples a symbol and 16
more for the longer one (TS 38.211 clause 5.3.1). -/
def symStart (mu n l : Nat) : Nat :=
  64 * (l * 2192 / 2 ^ mu + 16 * ((List.range l).filter (longSymbol mu n)).length)

/-- Start of the useful part of symbol `l` from the start of its slot, in Tc: the D_l of R172. -/
def usefulStart (mu n l : Nat) : Nat :=
  symStart mu n l + 64 * (144 / 2 ^ mu + if longSymbol mu n l then 16 else 0)

/-! ### The phase table -/

/-- π in units of 2^−80. -/
def piFix : Nat := 3797952473636338580787993

/-- Σ of the Taylor terms of cos (from `n` = 0) or sin (from `n` = 1) in units of 2^−80: `t` is x^n/n!. -/
def taylor (x : Nat) : Nat → Nat → Nat → Int
  | 0, _, _ => 0
  | f + 1, n, t => (t : Int) - taylor x f (n + 2) (t * x / 2 ^ 80 / (n + 1) * x / 2 ^ 80 / (n + 2))

/-- A value in units of 2^−80 as the nearest in units of 2^−14. -/
def round14 (v : Int) : Int := (v + 2 ^ 65) / 2 ^ 66

/-- cos and sin of the first eighth of a turn, q from 0 to 8,192. -/
def octant (q : Nat) : Int × Int :=
  let x := q * piFix / 32768
  (round14 (taylor x 12 0 (2 ^ 80)), round14 (taylor x 12 1 x))

/-- cos and sin of the first quarter of a turn, q from 0 to 16,384. -/
def quarter (q : Nat) : Int × Int := if q ≤ 8192 then octant q else let p := octant (16384 - q); (p.2, p.1)

/-- C_Q and S_Q (R172 step 4). -/
def phaseAt (q : Nat) : Int × Int :=
  let p := quarter (q % 16384)
  match q / 16384 % 4 with
  | 0 => p
  | 1 => (-p.2, p.1)
  | 2 => (-p.1, -p.2)
  | _ => (p.2, -p.1)

/-! ### Rounding -/

/-- a / b to nearest, ties to even, b positive. -/
def roundDiv (a : Int) (b : Nat) : Int :=
  let q := a / b
  let r := a % b
  if (b : Int) < 2 * r ∨ (2 * r = b ∧ q % 2 = 1) then q + 1 else q

/-- Narrow to INT16: the value and whether it was clamped. -/
def clip16 (v : Int) : Int × Bool :=
  if v < -32768 then (-32768, true) else if 32767 < v then (32767, true) else (v, false)

/-! ### The steps -/

/-- Numerator and denominator of the Lagrange weight of tap t at f/4,096. -/
def lagrange (f t : Int) : Int × Int :=
  ([-3, -2, -1, 0, 1, 2, 3].filter (· != t)).foldl (fun a m => (a.1 * (f - 4096 * m), a.2 * (4096 * (t - m)))) (1, 1)

/-- The coefficient of tap t: round(2^14 × L_t(f)). -/
def tapCoef (f t : Int) : Int :=
  let l := lagrange f t
  if l.2 < 0 then roundDiv (-(l.1 * 2 ^ 14)) l.2.natAbs else roundDiv (l.1 * 2 ^ 14) l.2.natAbs

/-- A complex sample of integers. -/
abbrev Samp := Int × Int

/-- Shift right by 14 and clamp both parts, counting clamps. -/
def narrow14 (z : Samp) : Samp × Nat :=
  let a := clip16 (roundDiv z.1 16384)
  let b := clip16 (roundDiv z.2 16384)
  ((a.1, b.1), a.2.toNat + b.2.toNat)

/-- The frequency shift of step 2. -/
def freqShift (cfo : Int) (x : List Samp) : List (Samp × Nat) :=
  let n := roundDiv cfo 4096
  let f := cfo - 4096 * n
  let taps := [-3, -2, -1, 0, 1, 2, 3].map fun t => (t, tapCoef f t)
  (List.range x.length).map fun (k : Nat) =>
    narrow14 (taps.foldl (fun (a : Samp) c =>
      let j : Int := k + n + c.1
      let v : Samp := if j < 0 then (0, 0) else (x[j.toNat]?).getD (0, 0)
      (a.1 + c.2 * v.1, a.2 + c.2 * v.2)) (0, 0))

/-- Steps 3 and 4 for subcarrier k. -/
def phaseTurn (cfo time : Int) (mu dl k : Nat) (y : Samp) : Samp × Nat :=
  let pl := roundDiv (cfo * (dl * 2 ^ mu : Nat)) 8192
  let pk := roundDiv ((k : Int) * time * (2 ^ mu : Nat)) 2
  let p := phaseAt ((pk - pl) % 65536).toNat
  narrow14 (y.1 * p.1 - y.2 * p.2, y.1 * p.2 + y.2 * p.1)

/-- Pair the parts of a PRB. -/
def pairSamples : List Int → List Samp
  | a :: b :: r => (a, b) :: pairSamples r
  | _ => []

/-- Correct a whole stream-symbol of PRBs in slot-store form: the PRBs after it and the clamps counted, those of the expansion and
the compression by PRB (R53, R54). `prbs` holds the PRBs received, by number. -/
def correctSymbol (w nPrb mu slot sym : Nat) (cfo time : Int) (prbs : Table Bytes) : Table Bytes × Nat :=
  let x := (List.range nPrb).map fun i => match tget? prbs i with
    | some b => let (l, cl) := bfpExpand w b; (pairSamples l, cl)
    | none => (List.replicate 12 (0, 0), false)
  let y := freqShift cfo (x.flatMap (·.1))
  let z := (y.zip (List.range y.length)).map fun p => phaseTurn cfo time mu (usefulStart mu slot sym) p.2 p.1.1
  let out := (chunks 12 (z.map (·.1))).map fun p => bfpCompress w (p.flatMap fun v => [v.1, v.2])
  let n := (y.map (·.2)).sum + (z.map (·.2)).sum + (x.filter (·.2)).length + (out.filter (·.2)).length
  (((List.range nPrb).zip out).map fun p => (p.1, p.2.1), n)

end Sys2Proof.Machine
end

