-- ==== Sys2Proof/Machine/Mailbox.lean ====
section
/-!
DEFINITION. Mailbox commands of the device itself, the ring doorbells, and records that no command answers: NOP,
DEVICE_INFO, MBX_CONFIG, MBX_DOORBELL, PAD and unknown records, EVQ_OVERFLOW (R360 to R371, R425, R426).
-/

namespace Sys2Proof.Machine
open Sys2Proof

/-! ### Records of the slot path that several commands post -/

/-- The 16-byte slot head (R381) at a count of AON ticks. -/
def slotHead (cell sfn slot nEntry tag time : Nat) : Bytes :=
  toLE 2 cell ++ toLE 2 sfn ++ toLE 1 slot ++ toLE 1 0 ++ toLE 2 nEntry ++ toLE 2 tag ++ toLE 2 0 ++ toLE 4 time

/-- A SLOT_ERROR record (R381): CAUSE and PDU index; where no PDU is named, the index is a free value. -/
def slotErrorRec (s : State) (cell sfn slot cause : Nat) (pdu : Option Nat) : OutRec :=
  ⟨0x95, cell, slotHead cell sfn slot 1 0 s.ticks.toNat ++ toLE 1 cause
    ++ toLE 2 (pdu.getD Config.noPdu) ++ toLE 1 0⟩

/-- Post a SLOT_ERROR record. -/
def State.slotError (s : State) (cell sfn slot cause : Nat) (pdu : Option Nat := none) : State :=
  s.postSpc [slotErrorRec s cell sfn slot cause pdu]

/-! ### NOP and DEVICE_INFO -/

/-- NOP (R367). -/
def execNop (c : Cmd) (s : State) : Host.Outcome State Fault Refusal :=
  .next (shortCmd 0x01 true (exactLen 0) (fun _ s => { st := s }) c s)

/-- BOOT_STATUS.STATE as a code (Table 19-4). -/
def BootState.code : BootState → Nat
  | .reset => 0 | .bootRom => 1 | .firmwareInit => 2 | .ready => 3 | .failed => 4

/-- The power state as a code: POWER_STATUS.STATE for the first three (R429). -/
def PowerState.code : PowerState → Nat
  | .active => 0 | .quiet => 1 | .standby => 2 | .aon => 3

/-- The mask of engines in service. -/
def State.engineMask (s : State) : Nat :=
  (List.range 16).foldl (fun m e => if (s.eng e).retired then m else m + 2 ^ e) 0

/-- DEVICE_INFO (R367, R406, R416, R417): stepping, Busum release, engines in service, DDR5 capacity in bytes, start-up
state, power state. -/
def doDeviceInfo (_c : Cmd) (s : State) : CmdOut :=
  { st := s
    body := join8 [0, s.boot.fwRelease.toNat, s.engineMask, s.boot.ddrGiB * 2 ^ 30, s.boot.state.code,
      s.power.state.code] }

def execDeviceInfo (c : Cmd) (s : State) : Host.Outcome State Fault Refusal :=
  .next (shortCmd 0x02 true (exactLen 0) doDeviceInfo c s)

/-! ### MBX_CONFIG -/

/-- The fields of MBX_CONFIG, 8 bytes each in the order of Table 16-4: SPQ base and bytes, SPC base and bytes, SPC
vector, RSPQ vector, CFG_REPORT_BASE, report entries (R344, R361, R376; DESIGN CHOICE, log entry 8). -/
def mbxFields : List FSpec :=
  [⟨1, 0, 8, 1, multC 4096 0 (2 ^ 64 - 4096)⟩, ⟨2, 8, 8, 1, pow2C 16 24⟩,
   ⟨3, 16, 8, 1, multC 4096 0 (2 ^ 64 - 4096)⟩, ⟨4, 24, 8, 1, pow2C 16 24⟩,
   ⟨5, 32, 8, 1, enumC (fun v => decide (1 ≤ v ∧ v ≤ 63)) 2⟩,
   ⟨6, 40, 8, 1, enumC (fun v => decide (1 ≤ v ∧ v ≤ 63)) 1⟩,
   ⟨7, 48, 8, 1, anyC⟩, ⟨8, 56, 8, 1, pow2C 6 16⟩]

/-- MBX_CONFIG (R360, R361, R371): the slot-path rings start empty; records that wait go to the new SPC ring. -/
def doMbxConfig (c : Cmd) (s : State) : CmdOut :=
  if !cplAt c.params 0 64 then .fail s 0x0005
  else
    let (p, rep) := checkFields 0 mbxFields (slice c.params 0 64)
    let s1 := s.setMbx fun m =>
      { m with
        spq := { base := par8 p 0, size := par8 p 1 / 16 }
        spc := { base := par8 p 2, size := par8 p 3 / 16 }
        spcVec := par8 p 4
        rspVec := par8 p 5
        reportBase := par8 p 6
        reportSize := par8 p 7 }
    { st := s1.drainSpc, rep := rep }

def execMbxConfig (c : Cmd) (s : State) : Host.Outcome State Fault Refusal :=
  .next (shortCmd 0x10 false (exactLen 128) doMbxConfig c s)

/-! ### Doorbells -/

/-- BAR0 serves every group: from FIRMWARE_INIT on, and not in the AON state (R420). -/
def State.barServed (s : State) : Bool := s.busumUp && decide (s.power.state ≠ .aon)

/-- A host request to BAR0 or BAR2: an Unsupported Request where the groups are not served (R420), and where IDE is required
and it cannot have arrived in a stream in the Secure state, which sets IDE_VIOLATION (R345). -/
def barReq (read : Bool) (s : State) (f : State → State) : State :=
  if !s.barServed then s.emit (.unsupported read)
  else if s.host.ideRequired && !(s.host.secure0 || s.host.secure1) then (s.emit (.unsupported read)).hlError 7
  else f s

/-- The ring of a RING code (R362). -/
def Mailbox.ring (m : Mailbox) : Nat → Ring
  | 0 => m.cmdq | 1 => m.spq | 2 => m.rspq | 3 => m.evq | _ => m.spc

/-- Replace the ring of a RING code. -/
def Mailbox.setRing (m : Mailbox) (n : Nat) (r : Ring) : Mailbox :=
  match n with
  | 0 => { m with cmdq := r } | 1 => { m with spq := r } | 2 => { m with rspq := r }
  | 3 => { m with evq := r } | _ => { m with spc := r }

/-- The base register of a general ring. -/
def Mailbox.baseReg (m : Mailbox) : Nat → Nat
  | 0 => m.cmdBase.toNat | 2 => m.rspBase.toNat | 3 => m.evtBase.toNat | _ => 0

/-- CMDQ, RSPQ and EVQ are the general rings, set by BAR0 registers (Table 16-1). -/
def isGeneral (n : Nat) : Bool := n == 0 || n == 2 || n == 3

/-- Busum latches a general ring's base, its size and MBX_IDX_BASE (R425). -/
def State.latch (s : State) (n : Nat) : State :=
  if isGeneral n then
    s.setMbx fun m =>
      { m.setRing n { m.ring n with base := m.baseReg n, size := 2 ^ m.log2Size / 16 } with
        idxLatched := m.idxBase.toNat }
  else s

/-- Post the events of start-up that waited for the queue (R416). -/
def State.postHeld (s : State) : State :=
  let l := s.mbx.evtHeld
  l.foldl (fun s e => s.event e.1 e.2.1 e.2.2) (s.setMbx fun m => { m with evtHeld := [] })

/-- What follows when a device-to-host ring gains room. -/
def State.ringRoom (s : State) (n : Nat) : State :=
  match n with
  | 2 => s.drainRsp
  | 3 => if s.mbx.evq.base ≠ 0 then s.postHeld else s
  | 4 => s.drainSpc
  | _ => s

/-- MBX_DOORBELL without RESET (R362, R426). -/
def doorbell (n : Nat) (idx : BitVec 32) (s : State) : State :=
  let s1 := if isGeneral n && (s.mbx.ring n).base == 0 && s.mbx.baseReg n != 0 then s.latch n else s
  let r := s1.mbx.ring n
  let bad := s1.setMbx fun m => m.setRing n { r with badIndex := true }
  if r.base = 0 then bad
  else if n ≤ 1 then
    if r.size < (idx - r.cons).toNat then bad
    else s1.setMbx fun m => m.setRing n { r with prod := idx }
  else
    if (r.prod - r.cons).toNat < (idx - r.cons).toNat then bad
    else (s1.setMbx fun m => m.setRing n { r with cons := idx }).ringRoom n

/-- MBX_DOORBELL with RESET (R362, R425, R426): both counts 0, the halt ends, the ring is latched anew. -/
def doorbellReset (n : Nat) (s : State) : State :=
  let s1 := s.latch n
  (s1.setMbx fun m =>
    m.setRing n { m.ring n with prod := 0, cons := 0, seq := 0, halted := false }).ringRoom n

/-- A doorbell's RING value above 4 is ignored (R362); before FIRMWARE_INIT and in AON the write is an Unsupported
Request (R420). -/
def execMbxDoorbell (ring : BitVec 4) (index : BitVec 32) (s : State) : Host.Outcome State Fault Refusal :=
  .next (barReq false s fun s => if 4 < ring.toNat then s else doorbell ring.toNat index s)

def execMbxDoorbellReset (ring : BitVec 4) (_index : BitVec 32) (s : State) : Host.Outcome State Fault Refusal :=
  .next (barReq false s fun s => if 4 < ring.toNat then s else doorbellReset ring.toNat s)

/-! ### Records that no command answers -/

/-- PAD_RECORD (R361): a PAD read from CMDQ or SPQ consumes the ring up to its end. -/
def execPadRecord (spq : Bool) (len : BitVec 16) (s : State) : Host.Outcome State Fault Refusal :=
  .next (if spq then (if s.canRead s.mbx.spq len.toNat then s.takeSpq len else s)
    else (if s.canRead s.mbx.cmdq len.toNat then s.takeCmd len else s))

/-- The ring halts and MBX_RING_HALT is raised with the SEQ expected (R364 check 1, Table 16-11). -/
def haltRing (n : Nat) (s : State) : State :=
  let r := s.mbx.ring n
  (s.setMbx fun m => m.setRing n { r with halted := true }).event 0x14 n (toLE 4 n ++ toLE 4 r.seq.toNat)

/-- UNKNOWN_TYPE_RECORD (R364): a record whose header fails check 1 (`check1` false) halts the ring; one that passes it
and fails check 2 or 3 is answered with BAD_COMMAND, or with SLOT_ERROR of cause RECORD_INVALID, and skipped. -/
def unknownRecord (spq check1 : Bool) (typ : Byte) (tag len : BitVec 16) (s : State) : State :=
  if spq then
    if !s.canRead s.mbx.spq 1 then s
    else if !check1 || !s.canRead s.mbx.spq len.toNat then haltRing 1 s
    else (s.takeSpq len).slotError tag.toNat 0 0 5
  else
    if !s.canRead s.mbx.cmdq 1 then s
    else if !check1 || !s.canRead s.mbx.cmdq len.toNat then haltRing 0 s
    else
      let s1 := s.takeCmd len
      s1.respond typ.toNat tag.toNat 0x0002 0 s1.mbx.reportCount.toNat 0 0 []

def execUnknownTypeRecord (spq check1 : Bool) (typ : Byte) (tag len : BitVec 16) (s : State) :
    Host.Outcome State Fault Refusal :=
  .next (unknownRecord spq check1 typ tag len s)

/-- EVQ_OVERFLOW (R365): when space returns, one event carries the count of events dropped. -/
def evqOverflow (s : State) : State :=
  if s.mbx.evtOwed = 0 then s
  else match s.tryEvent 0x15 0 (toLE 8 s.mbx.evtOwed) with
    | some t => t.setMbx fun m => { m with evtOwed := 0 }
    | none => s

def execEvqOverflow (s : State) : Host.Outcome State Fault Refusal := .next (evqOverflow s)

end Sys2Proof.Machine
end

