-- ==== Sys2Proof/Machine/Model.lean ====
section
/-!
DEFINITION. Resident models (R159 to R166, R170), their versions (R180, R182, R183), and what a quire start reads of
them.
-/

namespace Sys2Proof.Machine
open Sys2Proof

/-! ### SFN and slot (R450) -/

/-- SFN and slot packed in 4 bytes (R450). -/
def packSfn (sfn slot : Nat) : Nat := sfn % 1024 * 65536 + slot % 256
def sfnOf (x : Nat) : Nat := x / 65536 % 1024
def slotOf (x : Nat) : Nat := x % 256

/-- Slots in a frame: 10 at 15 kHz, doubled with the spacing. -/
def Cell.slotsPerFrame (c : Cell) : Nat := 10 * 2 ^ c.scs

/-- Number of a slot batch within the SFN's period. -/
def Cell.batchOf (c : Cell) (sfnSlot : Nat) : Nat := sfnOf sfnSlot * c.slotsPerFrame + slotOf sfnSlot

/-! ### Models -/

def State.model? (s : State) (i : Nat) : Option Model := (s.models.toList[i]?).join

/-- Change a resident model. -/
def State.setModel (s : State) (i : Nat) (f : Model → Model) : State :=
  if h : i < 16 then { s with models := vmod s.models ⟨i, h⟩ (·.map f) } else s

/-- The slot of the resident model with an identifier. -/
def State.modelSlotOf (s : State) (id : Nat) : Option Nat :=
  (List.range 16).find? fun i => match s.model? i with | some m => m.id.toNat == id | none => false

/-- Header fields of the package image (Table 8-1). -/
def Model.maxPrb (m : Model) : Nat := fld m.image 0x20 2
def Model.maxStreams (m : Model) : Nat := fld m.image 0x22 1
def Model.maxLayers (m : Model) : Nat := fld m.image 0x23 1
def Model.scs (m : Model) : Nat := fld m.image 0x24 1
def Model.mods (m : Model) : Nat := fld m.image 0x25 1
def Model.llrScale (m : Model) : Nat := fld m.image 0x28 4

/-- The phase map of an image's variant (R162). -/
def variantOf (image : Bytes) (n : Nat) : Config.PhaseMap := Config.phaseMap image n

/-- Fields of the adaptation parameter block (Table 8-10). -/
def Model.adaptEn (m : Model) : Bool := fld m.params 0x00 1 == 1
def Model.batch (m : Model) : Nat := fld m.params 0x01 1
def Model.seedBytes (m : Model) : Bytes := slice m.params 0x20 8
def Model.marginK (m : Model) : Nat := fld m.params 0x02 1
def Model.rbK (m : Model) : Nat := fld m.params 0x03 1
def Model.sample (m : Model) : Nat := fld m.params 0x04 2
def Model.ringSize (m : Model) : Nat := fld m.params 0x06 2
def Model.stepsMax (m : Model) : Nat := fld m.params 0x08 2
def Model.evalMin (m : Model) : Nat := fld m.params 0x0A 2
def Model.lag (m : Model) : Nat := fld m.params 0x0C 2
def Model.lr (m : Model) : Nat := fld m.params 0x10 4
def Model.momentum (m : Model) : Nat := fld m.params 0x14 4
def Model.rbWindow (m : Model) : Nat := fld m.params 0x18 4
def Model.clip (m : Model) : Nat := fld m.params 0x28 4

/-- The modulation bit of MODS for a modulation order. -/
def modBit (qm : Nat) : Nat := match qm with | 1 => 0 | 2 => 1 | 4 => 2 | 6 => 3 | _ => 4

/-- An allocation of `n` PRBs from `a` on, the whole carrier where `n` is 0, reaches past the PRBs that the model allows
(R166). DEDUCED: MAX_PRB bounds the highest PRB of an allocation, since a model works on PRBs by their place in the carrier
(Table 8-5). -/
def Model.overPrb (m : Model) (c : Cell) (a n : Nat) : Bool :=
  decide (m.maxPrb < if n = 0 then c.nPrb else a + n)

/-- An allocation breaks a limit of the model (R166). -/
def Model.overLimit (m : Model) (c : Cell) (p : Pusch) : Bool :=
  m.overPrb c p.startPrb p.numPrb || decide (m.maxStreams < c.nRx) || decide (m.maxLayers < p.layers)
    || !bit m.mods (modBit p.qm) || !bit m.scs c.scs

/-- The limits of the model that every UE of a cell breaks or keeps, and a UCI part's modulation (R166). -/
def Model.overCell (m : Model) (c : Cell) (qm : Nat) : Bool :=
  decide (m.maxStreams < c.nRx) || !bit m.mods (modBit qm) || !bit m.scs c.scs

/-! ### Versions (R180) -/

def Model.version? (m : Model) (v : Nat) : Option Version := m.versions.find? (·.number == v)

def Model.setVersion (m : Model) (v : Nat) (f : Version → Version) : Model :=
  { m with versions := m.versions.map fun x => if x.number = v then f x else x }

/-- The version in TRAINING, EVALUATING or STAGED, if there is one (R180). -/
def Model.candidate? (m : Model) : Option Version :=
  m.versions.find? fun v => v.state == .training || v.state == .evaluating || v.state == .staged

/-- Keep at most 16 versions: version 0, the active one and its parent stay; the oldest other goes first (R185). -/
def Model.evictVersion (m : Model) : Model :=
  if m.versions.length ≤ 16 then m
  else
    let parent := match m.version? m.active with | some v => v.parent | none => 0
    match m.versions.find? (fun v => v.number != 0 && v.number != m.active && v.number != parent) with
    | some v => { m with versions := m.versions.filter (·.number != v.number) }
    | none => m

/-- The next version number. -/
def Model.nextVersion (m : Model) : Nat := (m.versions.map (·.number)).foldl Nat.max 0 + 1

/-- The candidate's version record after a change of state; what was gathered for it goes with a discard. -/
def Model.dropCandidate (m : Model) (st : VState) : Model :=
  match m.candidate? with
  | some v => { m.setVersion v.number (fun x => { x with state := st }) with
                  momenta := [], steps := 0, digests := [], job := [], promote := none }
  | none => m

/-- A version becomes ACTIVE and the one before it RETIRED; a promotion starts a watch (R182, R183). -/
def Model.activate (m : Model) (p : Promote) (sfnSlot : Nat) : Model :=
  let old := m.active
  let m1 := (m.setVersion old fun v => { v with state := .retired }).setVersion p.version fun v =>
    { v with state := .active, firstSlot := some (v.firstSlot.getD sfnSlot) }
  { m1 with
    active := p.version
    switched := p.atBatch.map fun n => (n, old)
    watch := if p.rollback then none
      else some { fOld := ((m.history.take m.rbWindow).foldl (· + ·) 0), parent := old } }

/-- The copies of a cluster are swapped, the standby copy being complete with a version (R182). -/
def ModelCopies.swap (c : ModelCopies) (v : Nat) : ModelCopies :=
  { active := v, standby := some c.active, second := !c.second }

/-- The change that waits comes into force on a cluster (R182): the first cluster makes the version ACTIVE, the last of those that
hold the model ends the change. -/
def Model.activateOn (m : Model) (holders : List (Fin 4)) (k : Fin 4) (p : Promote) (sfnSlot : Nat) : Model :=
  let m1 := if m.active = p.version then m else m.activate p sfnSlot
  let m2 := { m1 with copies := vmod m1.copies k (·.swap p.version) }
  if holders.all fun j => (m2.copies[j]).active == p.version then { m2 with promote := none } else m2

/-- The version that a slot batch uses on a cluster where no change falls due there (R182). -/
def Model.versionFor (m : Model) (k : Fin 4) (batch : Nat) : Nat :=
  match m.switched with
  | some (n, old) => if batch < n then old else (m.copies[k]).active
  | none => (m.copies[k]).active

/-- The standby copies of a cluster hold a version on every engine; a cluster without resident images needs none (R170, R182). -/
def Model.stagedOn (m : Model) (k : Fin 4) (v : Nat) : Bool :=
  (m.copies[k]).standby == some v || m.nonResident.contains k.val

/-- A change of version that waits, on a cluster at the start of a quire of a slot batch (R182): the model after it and the
version; none while the batch's version is not yet in the standby copies. -/
def Model.changeAt (m : Model) (holders : List (Fin 4)) (k : Fin 4) (batch sfnSlot : Nat) : Option (Model × Nat) :=
  match m.promote with
  | none => some (m, m.versionFor k batch)
  | some p =>
    if (m.copies[k]).active = p.version then some (m, m.versionFor k batch)
    else match p.atBatch with
      | none => if m.stagedOn k p.version then some (m.activateOn holders k p sfnSlot, p.version) else some (m, m.versionFor k batch)
      | some n =>
        if batch < n then some (m, m.versionFor k batch)
        else if m.stagedOn k p.version then some (m.activateOn holders k p sfnSlot, p.version)
        else none

/-- What a quire start of a slot batch reads: the model after a change that falls due here, and the version, whose first slot batch
is noted (R166, R182, R185). -/
def Model.atStart (m : Model) (holders : List (Fin 4)) (k : Fin 4) (batch sfnSlot : Nat) : Option (Model × Nat) :=
  (m.changeAt holders k batch sfnSlot).map fun p =>
    (p.1.setVersion p.2 fun v => { v with firstSlot := some (v.firstSlot.getD sfnSlot) }, p.2)

/-- STATE of a version record (R185). -/
def VState.code : VState → Nat
  | .training => 0 | .evaluating => 1 | .staged => 2 | .active => 3 | .retired => 4 | .rejected => 5 | .discarded => 6

/-- A model changes: ADAPT_VERSION is raised for every version that is new or has changed its state (Table 16-11). -/
def State.putModel (s : State) (i : Nat) (old new : Model) : State :=
  (new.versions.filter fun v => (old.version? v.number).map (·.state) != some v.state).foldl (fun s v =>
    s.event 0x12 i (toLE 8 new.id.toNat ++ toLE 4 v.number ++ toLE 4 v.state.code)) (s.setModel i fun _ => new)

/-- A slot-batch number counted on over the SFN's wrap: the one nearest to the newest (DEDUCED, log entry 29). -/
def absBatch (c : Cell) (clock sfnSlot : Nat) : Nat :=
  let period := 1024 * c.slotsPerFrame
  let n := c.batchOf sfnSlot % period
  let d := (n + period - clock % period) % period
  if 2 * d < period then clock + d
  else if clock + d < period then n
  else clock + d - period

/-- What adaptation quires of a slot still bring is dropped: its model is replaced, or its candidate discarded (R164, R174, R184). -/
def dropModelWork (s : State) (i : Nat) : State :=
  { s with quires := tmap s.quires fun _ q =>
      if q.kind = .adaptation ∧ q.owner = i then { q with used := true } else q }

/-! ### Residency (R165, R170, R249) -/

/-- The distinct resident models bound to a cluster's cells, by slot. -/
def State.boundModels (s : State) (k : Fin 4) : List Nat :=
  (List.range 16).filter fun i => match s.model? i with
    | some m => (s.cellsOn k).any (fun c => c.2.modelId == m.id.toNat)
    | none => false

/-- RESIDENT_BYTES and WORK_BYTES of a slot's model in the variant for `n` engines, at a position, and ACC_UNITS (R162). -/
def State.residentOf (s : State) (i n p : Nat) : Nat :=
  match s.model? i with | some m => (variantOf m.image n).resident p | none => 0
def State.workOf (s : State) (i n p : Nat) : Nat :=
  match s.model? i with | some m => (variantOf m.image n).work p | none => 0
def State.accOf (s : State) (i n p : Nat) : Nat :=
  match s.model? i with | some m => (variantOf m.image n).acc p | none => 0

/-- A list of models leaves room on every engine of a variant: their resident images fit the LC reserve, and with the downlink
area reserved no image and working set of one reach into it (R165, R228). -/
def residentFits (s : State) (n : Nat) (down : Bool) (l : List Nat) : Bool :=
  (List.range n).all fun p =>
    let sum : Nat := (l.map fun i => s.residentOf i n p).sum
    decide (sum ≤ 0x200000) && (!down || l.all fun i => decide (sum + s.workOf i n p ≤ 0x3C0000))

/-- The models of a list that fit a cluster in a variant, taken in slot order, and those that do not (R165, R170, R228). -/
def fitResident (s : State) (n : Nat) (down : Bool) (l : List Nat) : List Nat × List Nat :=
  l.foldl (fun (a : List Nat × List Nat) i =>
    if residentFits s n down (a.1 ++ [i]) then (a.1 ++ [i], a.2) else (a.1, a.2 ++ [i])) ([], [])

/-- The models whose images are resident on a cluster. -/
def State.residentModels (s : State) (k : Fin 4) : List Nat :=
  (s.boundModels k).filter fun i => match s.model? i with | some m => !m.nonResident.contains k.val | none => false

/-- The bytes that resident images take of the LC reserve of the engine at a position of a cluster; they lie from its start on, in
slot order (DESIGN CHOICE, log entry 11). -/
def State.residentAt (s : State) (k : Fin 4) (p : Nat) : Nat :=
  ((s.residentModels k).map fun i => s.residentOf i (s.inService k.val).length p).sum

/-- The most that resident images take of the LC reserve of an engine of a cluster. -/
def State.residentOn (s : State) (k : Fin 4) : Nat :=
  ((List.range (s.inService k.val).length).map (s.residentAt k)).foldl max 0

/-- What the slot-reception of a cell claims of an engine at each position (R162, R165, R236): the resident images with the
working set of its model, and its accumulator units. A model that is not resident claims its image besides (R170). -/
def State.claimOf (s : State) (k : Fin 4) (c : Cell) : List Extent :=
  match s.modelSlotOf c.modelId with
  | none => []
  | some i =>
    let n := (s.inService k.val).length
    (List.range n).flatMap fun p =>
      let own := if (s.residentModels k).contains i then 0 else s.residentOf i n p
      [⟨p, false, 0, s.residentAt k p + own + s.workOf i n p⟩, ⟨p, true, 0, s.accOf i n p⟩]

/-- Where a model's resident image lies in the scratchpad of the engine at a position of a cluster. -/
def State.imageAt (s : State) (k : Fin 4) (i p : Nat) : Nat :=
  (((s.residentModels k).filter (· < i)).map fun j => s.residentOf j (s.inService k.val).length p).sum

/-- The adaptable weights of a version, rounded to the format of each layer (R178, R185). -/
def roundWeights (image : Bytes) (weights : List (BitVec 32)) : Bytes :=
  ((Config.layers image).filter (·.adaptable)).flatMap fun l =>
    ((weights.drop (l.wOff / 4)).take (l.wLen / 4)).flatMap fun w =>
      toLE 2 (fencode (if l.wfmt = 7 then bf16 else fp16) (f32 w.toNat))

/-- One copy of a version's adaptable weights for an engine position (R162). -/
def Model.adaptCopy (m : Model) (n p v : Nat) : Bytes :=
  Config.residentAdapt m.image n p (roundWeights m.image (match m.version? v with | some x => x.weights | none => []))

/-- The resident image of an engine position: the fixed weights, then the two copies of the adaptable ones (R162). -/
def Model.residentImage (m : Model) (n p : Nat) (c : ModelCopies) : Bytes :=
  let a := m.adaptCopy n p c.active
  let b := match c.standby with | some v => m.adaptCopy n p v | none => zeros a.length
  Config.residentFixed m.image n p ++ (if c.second then b ++ a else a ++ b)

/-- Copy the resident images of a cluster's models from DDR5 into the LC reserve of each engine in service; the active copy is then
of the model's active version (R170). -/
def State.copyImages (s : State) (k : Fin 4) : State :=
  let ms := s.residentModels k
  let s1 := ms.foldl (fun s i => s.setModel i fun m =>
    { m with copies := vmod m.copies k fun _ => { active := m.active } }) s
  let es := s1.inService k.val
  ((List.range es.length).zip es).foldl (fun s pe => ms.foldl (fun s i => match s.model? i with
    | some m => s.wr (spadAt pe.2 + s.imageAt k i pe.1)
        ((m.residentImage es.length pe.1 m.copies[k]).take (s.residentOf i es.length pe.1))
    | none => s) s) s1

/-- Engine time of a copy of the resident images, at 1,024 bytes an array cycle and engine (DESIGN CHOICE, log entry 11): it is the
System's (Table 10-3). -/
def copyCycles (s : State) (k : Fin 4) : Nat :=
  ((List.range (s.inService k.val).length).map fun p => ceilDiv (s.residentAt k p) 1024).sum

/-- Switch the models of a cluster to the variant for its engines in service: those that no longer fit run non-resident
(R170). The slots that do so newly, as a mask. -/
def switchVariants (s : State) (k : Fin 4) : Nat × State :=
  let l := s.boundModels k
  let n := (s.inService k.val).length
  let out := (fitResident s n (s.hasDownlink k) l).2
  let mask := (out.map fun i => 2 ^ i).foldl (· + ·) 0
  let s1 := l.foldl (fun s i => s.setModel i fun m =>
    { m with nonResident := (m.nonResident.filter (· != k.val)) ++ if out.contains i then [k.val] else [] }) s
  (mask, s1.setCl k fun c => { c with imagesDue := true })

/-- Before a slot-reception starts, the images that are due are copied; the time is the System's (R170, R233). -/
def State.bringImages (s : State) (k : Fin 4) : State :=
  if (s.cl k).imagesDue then
    chargeTime ((s.copyImages k).setCl k fun c => { c with imagesDue := false }) k 0 (copyCycles s k)
  else s

/-- The clusters whose engines hold a model's resident image, or that run it non-resident (R165, R182). -/
def State.holders (s : State) (i : Nat) : List (Fin 4) := (List.finRange 4).filter fun k => (s.boundModels k).contains i

/-- The variants that run on each cluster after a change of the models or of their bindings (R165, R170). -/
def refit (s : State) : State := (List.finRange 4).foldl (fun s k => (switchVariants s k).2) s

end Sys2Proof.Machine
end

