-- ==== Sys2Proof/Machine/Quire.lean ====
section
/-!
DEFINITION. The cluster scheduler: quire start and its grants (R229, R230, R139, R251, R273), leaf dispatch (R227, R228,
R231), re-shards (R169), eviction, save and restore (R236 to R243), timeouts, accounting windows, and the host's view
of quires.
-/

namespace Sys2Proof.Machine
open Sys2Proof

/-! ### Who is live -/

/-- A quire has started and not ended. -/
def Quire.started (q : Quire) : Bool := q.prog.isSome && q.state.open_

/-- The started quires of a cluster. -/
def State.startedOn (s : State) (k : Fin 4) : List Quire :=
  (s.quires.filter fun p => p.2.cluster == k && p.2.started).map (·.2)

/-- A cluster carries a cell: one is placed there or waits for its placement to take effect (R229, R239). -/
def State.carries (s : State) (k : Fin 4) : Bool :=
  s.cfg.cells.any fun p => p.2.cluster == k && (p.2.placed || p.2.waitFull)

/-- The quire has a leaf live on either core of its cluster. -/
def State.anyLive (s : State) (q : Quire) : Bool :=
  s.liveOn (coreOf q.cluster 0) q.tag || s.liveOn (coreOf q.cluster 1) q.tag

/-! ### First fit (DESIGN CHOICE, log entry 11) -/

/-- A multiple of `m` at or above. -/
def alignUp (m a : Nat) : Nat := ceilDiv a m * m

/-- The lowest start in a range where a run fits clear of the busy ones. -/
def firstFit (align lo hi len : Nat) (busy : List Run) : Option Nat :=
  let starts := sortBy (· ≤ ·) (lo :: (busy.map fun r => alignUp align (r.base + r.len)).filter (lo ≤ ·))
  starts.find? fun a => decide (a + len ≤ hi) && busy.all fun r => !overlaps a len r.base r.len

/-- Runs of a cluster memory that are not free: windows and code regions, slot stores, JR areas (R139). -/
def State.memBusy (s : State) (k : Fin 4) : List Run :=
  (s.startedOn k).flatMap (fun q => [q.qd, q.code])
    ++ (s.quires.filter fun p => p.2.started).flatMap (fun p => (p.2.remote.filter (·.1 == k)).map (·.2))
    ++ (s.fe.rings.filter fun p => p.1 / 16 == k.val).map (fun p => ⟨p.2.base, p.2.len⟩)
    ++ (s.stitch.jr.filter fun p => p.2.cluster == k).map (fun p => ⟨p.2.base, p.2.bytes⟩)

/-- Sync objects of a cluster that are not free: live runs and objects still held (R251, R261). -/
def State.objBusy (s : State) (k : Fin 4) : List Run :=
  (s.startedOn k).map (fun q => ⟨q.objBase, q.objCount⟩) ++ (s.cl k).held.map (fun p => ⟨p.1, 1⟩)

/-- The scratchpad and accumulator ranges in which a best-effort quire's windows lie (R229); a downlink cell that waits for
its placement to take effect counts (R239). -/
def beRanges (s : State) (k : Fin 4) (full : Bool) : (Nat × Nat) × (Nat × Nat) :=
  if full then ((0, 0x400000), (0, 3072))
  else if s.cfg.cells.any (fun p => p.2.cluster == k && (p.2.placed || p.2.waitFull) && p.2.downlink) then ((0x200000, 0x3C0000), (2048, 2944))
  else ((0x200000, 0x400000), (2048, 3072))

/-- The engine windows of a quire: granted ones of a best-effort quire, fixed ones of the others (R228, R229). -/
def engineWindows (s : State) (q : Quire) (p : Prog) : Option (Run × Run) :=
  match q.kind with
  | .slotReception => some (⟨0, p.spadBytes⟩, ⟨0, p.accUnits⟩)
  | .downlink => some (⟨0x3C0000, 0x40000⟩, ⟨2944, 128⟩)
  | .prach => some ({}, {})
  | _ =>
    let (sr, ar) := beRanges s q.cluster p.full
    let be := (s.startedOn q.cluster).filter fun x => !x.kind.lc
    match firstFit 64 sr.1 sr.2 p.spadBytes (be.map (·.spad)), firstFit 1 ar.1 ar.2 p.accUnits (be.map (·.acc)) with
    | some a, some b => some (⟨a, p.spadBytes⟩, ⟨b, p.accUnits⟩)
    | _, _ => none

/-- The context slot of a best-effort quire (R242). -/
def freeSlot (s : State) (k : Fin 4) : Option Nat :=
  ((List.range 16).map (16 * k.val + ·)).find? fun i => match s.ctxSlots.toList[i]? with
    | some none => true
    | _ => false

/-- Stitch queues for a quire: queues 0 and 1 of a cluster are kept for its slot-reception (R230, R324). -/
def freeQueues (s : State) (k : Fin 4) (kind : QKind) (n : Nat) : Option (List Nat) :=
  let from_ := if kind = .slotReception then 0 else 2
  let free := ((List.range 8).filter fun i => decide (from_ ≤ i) && (match s.stitch.queues.toList[8 * k.val + i]? with
    | some x => x.quire.isNone | none => false)).map (8 * k.val + ·)
  if n ≤ free.length then some (free.take n) else none

/-- Launch objects for a quire's lists, from the system objects 0x4020 to 0x407F (DESIGN CHOICE, log entry 10). -/
def freeLaunch (s : State) (k : Fin 4) (n : Nat) : Option (List Nat) :=
  let used := (s.startedOn k).flatMap fun q => q.lists.map (·.launchObj)
  let free := ((List.range 96).map (0x4020 + ·)).filter fun i => !used.contains i
  if n ≤ free.length then some (free.take n) else none

/-! ### Staging of sum groups (R273) -/

/-- The group needs staging: FP32 in pressed mode (R272). -/
def needStaging (d : SumDecl) (pressed : Bool) : Bool := pressed && d.fmt == 0

/-- The program declares a staging area of the group's size inside the quire-data window. -/
def stagingInWindow (d : SumDecl) (p : Prog) : Bool :=
  match d.staging with
  | some o => decide (o + d.k * d.bytes ≤ p.qdBytes)
  | none => false

/-- Runs of a cluster's staging region that live groups use. -/
def State.stagingBusy (s : State) (k : Fin 4) : List Run :=
  (s.startedOn k).flatMap fun q => q.sums.filterMap fun g =>
    g.staging.map fun a => ⟨a, g.decl.k * g.decl.bytes⟩

/-- Place the staging of each group: in the quire-data window, else in the staging region; none where one does not fit. -/
def placeStaging (s : State) (k : Fin 4) (pressed : Bool) (p : Prog) (qd : Nat) :
    List SumDecl → List Run → Option (List SumGroup)
  | [], _ => some []
  | d :: rest, busy =>
    if !needStaging d pressed then (placeStaging s k pressed p qd rest busy).map (⟨d, [], [], none, []⟩ :: ·)
    else if stagingInWindow d p then
      (placeStaging s k pressed p qd rest busy).map (⟨d, [], [], some (cmemAt k.val + qd + d.staging.getD 0), []⟩ :: ·)
    else
      let base := ddrAt + s.stageBase + k.val * 0x4000000
      match firstFit 64 base (base + 0x4000000) (d.k * d.bytes) busy with
      | some a =>
        (placeStaging s k pressed p qd rest (⟨a, d.k * d.bytes⟩ :: busy)).map (⟨d, [], [], some a, []⟩ :: ·)
      | none => none

/-! ### Zeroing (R244) -/

/-- Zero a run, apart from bytes inside the runs to keep. -/
def State.zeroRun (s : State) (base : Nat) (r : Run) (keep : List Run) : State :=
  { s with mem := s.mem.filter fun c =>
      !(decide (base + r.base ≤ c.1 ∧ c.1 < base + r.base + r.len)
        && !keep.any fun x => decide (base + x.base ≤ c.1 ∧ c.1 < base + x.base + x.len)) }

/-- A run of accumulator units in bytes. -/
def Run.unitBytes (r : Run) : Run := ⟨512 * r.base, 512 * r.len⟩

/-- Zero the extents of a released quire, apart from what live quires hold, of either class, and from the resident images of the
models bound there; its time is the System's. -/
def zeroDirty (s : State) (k : Fin 4) (d : Dirty) : State :=
  let live := s.startedOn k
  let s1 := d.engs.foldl (fun s e =>
    (s.zeroRun (spadAt e) d.spad (⟨0, s.residentOn k⟩ :: live.map (·.spad))).zeroRun (accAt e) d.acc.unitBytes
      (live.map (·.acc.unitBytes))) s
  let cm := live.flatMap (fun x => [x.qd, x.code])
    ++ (s.quires.filter fun p => p.2.started).flatMap fun p => (p.2.remote.filter (·.1 == k)).map (·.2)
  let s2 := (s1.zeroRun (cmemAt k.val) d.qd cm).zeroRun (cmemAt k.val) d.code cm
  chargeTime s2 k 0 (ceilDiv (ceilDiv d.spad.len 1024) 4 * d.engs.length)

/-- Zero what is about to be granted on a cluster and was another consumer's (R244). -/
def cleanGrants (s : State) (k : Fin 4) (consumer : Nat) (qd code spad acc : Run) : State :=
  let hit := fun (a b : Run) => overlaps a.base a.len b.base b.len
  let (out, stay) := (s.cl k).dirty.partition fun d =>
    d.consumer != consumer
      && (hit d.qd qd || hit d.qd code || hit d.code qd || hit d.code code || hit d.spad spad || hit d.acc acc)
  out.foldl (fun s d => zeroDirty s k d) (s.setCl k fun c => { c with dirty := stay })

/-! ### Quire start (R230) -/

/-- What a quire obtains at its start. -/
structure Grants where
  qd : Run
  remote : List (Fin 4 × Run)
  code : Run
  spad : Run
  acc : Run
  obj : Nat
  ctx : Option Nat
  queues : List Nat
  launch : List Nat
  sums : List SumGroup

/-- The windows that a program declares on the clusters other than its own, one on each. -/
def remoteDecl (p : Prog) (k : Fin 4) : List (Fin 4 × Nat) :=
  (List.finRange 4).filterMap fun j => if j = k then none else p.remote.find? (·.1 == j)

/-- The quire-data windows on other clusters, each granted by its own cluster's scheduler (R139, Table 7-5). -/
def findRemote (s : State) : List (Fin 4 × Nat) → Option (List (Fin 4 × Run))
  | [] => some []
  | (k, n) :: rest => do
    let a ← firstFit 64 0x80000 0x800000 n (s.memBusy k)
    let l ← findRemote s rest
    return (k, ⟨a, n⟩) :: l

/-- Everything a quire and its program declare, whole or not at all (R230). -/
def findGrants (s : State) (q : Quire) (p : Prog) : Option Grants := do
  let k := q.cluster
  let busy := s.memBusy k
  let qd ← firstFit 64 0x80000 0x800000 p.qdBytes busy
  let code ← firstFit 64 0x80000 0x800000 p.codeBytes (⟨qd, p.qdBytes⟩ :: busy)
  let (spad, acc) ← engineWindows s q p
  let obj ← firstFit 1 0x4100 0x8000 p.objInit.length (s.objBusy k)
  let ctx ← if q.kind.lc then some none else (freeSlot s k).map some
  let queues ← freeQueues s k q.kind p.stitchQueues.length
  let launch ← freeLaunch s k p.lists.length
  let sums ← placeStaging s k s.pressed p qd p.sums (s.stagingBusy k)
  let remote ← findRemote s (remoteDecl p k)
  return { qd := ⟨qd, p.qdBytes⟩, remote := remote, code := ⟨code, p.codeBytes⟩, spad := spad, acc := acc, obj := obj, ctx := ctx,
           queues := queues, launch := launch, sums := sums }

/-- Write consecutive objects of a run with their initial counts (R251). -/
def assignRun (s : State) (k : Fin 4) (tag : BitVec 16) : Nat → List (BitVec 32) → State
  | _, [] => s
  | i, n :: rest => assignRun (s.putObj k i { owner := tag, count := n }) k tag (i + 1) rest

/-- The launch objects of a quire's lists with the descriptors launched at its start (R145). -/
def assignLists (s : State) (k : Fin 4) : List Nat → List (List Bytes × Nat) → State
  | i :: is, l :: ls => assignLists (s.putObj k i { count := BitVec.ofNat 32 l.2 }) k is ls
  | _, _ => s

/-- Grant stitch queues with their descriptor rings; queue i of a cluster launches by system object 0x4080 + i (R324;
DESIGN CHOICE, log entry 10). -/
def assignQueues (s : State) (k : Fin 4) (tag : BitVec 16) : List Nat → List (List Bytes) → State
  | n :: ns, d :: ds =>
    let i := 0x4080 + n % 8
    let s1 := (s.putObj k i {}).setStitch fun t =>
      if h : n < 32 then { t with queues := t.queues.set n { quire := some tag, descs := d, launchObj := i } } else t
    assignQueues s1 k tag ns ds
  | _, _ => s

/-- The first contexts of a quire: its entry points, and for a slot-reception the circular registers bound to the cell's
slot store (R132). -/
def firstContext (s : State) (q : Quire) (p : Prog) : QuireCtx :=
  let ring := if q.kind = .slotReception then
      s.fe.rings.find? (fun r => r.1 / 16 == q.cluster.val && r.2.cell == q.owner) else none
  let base : CoreCtx := match ring with
    | some (_, r) =>
      let a := 0x1000000 + r.base
      { acb := (List.range 4).map (·, a), acl := (List.range 4).map (·, r.len),
        a := (List.range 4).map fun i => (12 + i, BitVec.ofNat 32 a) }
    | none => {}
  { core0 := { base with pc := p.entry0 }, core1 := { base with pc := p.entry1 } }

/-- Bind the held threads of a slot-reception, all four to its list (R142). -/
def bindHeld (s : State) (q : Quire) : State :=
  if q.kind = .slotReception then
    s.setCl q.cluster fun c =>
      let held := Vector.ofFn fun t : Fin 8 => if t.val < 4 then some { tag := q.tag, list := 0 } else c.threads[t]
      { c with threads := held }
  else s

/-- Best-effort quires whose live extents an eviction window found in the way and that are not saved yet (R237). -/
def State.evicting (s : State) (k : Fin 4) : Bool :=
  (s.startedOn k).any fun x => !x.kind.lc && x.evict && !x.saved

/-- A slot-reception that starts before an eviction has completed waits with its first leaf (R237). -/
def countLate (s : State) (q : Quire) : State :=
  if q.kind = .slotReception && s.evicting q.cluster then
    s.setCl q.cluster fun c => { c with evictWait := true, evictLate := c.evictLate + 1 }
  else s

/-- Mark the PDUs of a slot-reception that break a limit of its model (R166). -/
def markLimits (s : State) (q : Quire) (model : Option Nat) : State :=
  match model.bind s.model?, s.cell? q.owner, tget? s.coding.rx q.tag.toNat with
  | some m, some c, some r =>
    let exceeds := r.pusch.map fun p => m.overLimit c p.pdu
    let r1 := { r with
      pusch := r.pusch.map fun p => { p with modelLimit := m.overLimit c p.pdu }
      uci := r.uci.map fun u => { u with modelLimit := (exceeds[u.part.pdu]?).getD (m.overCell c u.part.qm
        || match r.pucch[u.part.pdu - r.pusch.length]? with
          | some x => m.overPrb c x.prb x.nPrb
          | none => false) } }
    let s1 := s.setCoding fun x => { x with rx := tset x.rx q.tag.toNat r1 }
    if exceeds.any (·) || r1.uci.any (·.modelLimit) then s1.setQuire q.tag.toNat fun q => { q with flags := { q.flags with modelLimit := true } } else s1
  | _, _, _ => s

/-- The model of a quire: that of its cell for a slot-reception and a yardstick measurement, its own slot for an
adaptation batch. -/
def quireModel (s : State) (q : Quire) : Option Nat :=
  match q.kind with
  | .slotReception => (s.cell? q.owner).bind fun c => s.modelSlotOf c.modelId
  | .yardstick => (s.cell? q.owner).bind fun c => s.modelSlotOf c.modelId
  | .adaptation => some q.owner
  | _ => none

/-- Read the model's active version at a slot-reception's start (R166, R182); none where the start waits for staging. -/
def readVersion (s : State) (q : Quire) : Option (Option Nat × Nat × State) :=
  match quireModel s q with
  | none => some (none, 0, s)
  | some i =>
    match s.model? i with
    | none => some (none, 0, s)
    | some m =>
      match q.kind, s.cell? q.owner with
      | .slotReception, some c =>
        let s1 := s.bringImages q.cluster
        match (s1.model? i).bind fun m => m.atStart (s.holders i) q.cluster (absBatch c m.clock q.sfnSlot) q.sfnSlot with
        | none => none
        | some (m1, v) => some (some i, v, s1.putModel i m m1)
      | _, _ => some (some i, m.active, s)

/-- A quire reads the coding fields of its cell, with the offset table that they name, at its start (R197, R201). -/
def readCell (s : State) (q : Quire) : State :=
  match s.cell? q.owner with
  | none => s
  | some c =>
    if !q.kind.lc then s
    else
      let i := q.tag.toNat
      let b := s.offsetTable c.ldpcTable
      let s1 := s.setRx q.tag fun r => { r with cellRcd := c.rcd, beta := b, maxIter := c.maxIter, dtxThr := c.dtxThr }
      s1.setCoding fun x => { x with
        prach := (match tget? x.prach i with | some p => tset x.prach i { p with cellRcd := c.rcd } | none => x.prach)
        dl := match tget? x.dl i with | some d => tset x.dl i { d with cellRcd := c.rcd, beta := b } | none => x.dl }

/-- Give a quire its grants. -/
def applyGrants (s : State) (q : Quire) (p : Prog) (g : Grants) (model : Option Nat) (version : Nat) : State :=
  let k := q.cluster
  let q1 := { q with
    prog := some p, pressed := s.pressed, qd := g.qd, remote := g.remote, code := g.code, spad := g.spad, acc := g.acc, objBase := g.obj,
    objCount := p.objInit.length, ctxSlot := g.ctx, stitchQ := g.queues, sums := g.sums,
    lists := (p.lists.zip g.launch).map fun x => { descs := x.1.1, launchObj := x.2 },
    modelSlot := model, version := version, engines := (s.inService k.val).length, spine := s.stitch.spine,
    imageDigest := (match model.bind s.model? with | some m => slice m.image 0x40 32 | none => []),
    weightsDigest := (match (model.bind s.model?).bind fun m => m.version? version with | some v => v.digest | none => []),
    image := (match model.bind s.model? with | some m => m.image | none => []),
    modelId := (match model.bind s.model? with | some m => m.id.toNat | none => 0),
    seed := (match model.bind s.model? with | some m => m.seedBytes | none => [])
    jrOff := (List.range s.poolSize).filter fun c => !s.jrOk c
    flags := { q.flags with jrBlocked := q.kind == .slotReception && (match s.cell? q.owner with
      | some c => c.jrPeers.any fun p => !s.jrOk (s.cellChip p)
      | none => false) } }
  let s1 := g.remote.foldl (fun s r => cleanGrants s r.1 q.consumer r.2 {} {} {})
    (cleanGrants s k q.consumer g.qd g.code g.spad g.acc)
  let s2 := { s1 with
    quires := tset s1.quires q.tag.toNat q1
    qctx := tset s1.qctx q.tag.toNat (firstContext s1 q p) }
  let s3 := assignQueues (assignLists (assignRun s2 k q.tag g.obj p.objInit) k g.launch p.lists) k q.tag g.queues
    p.stitchQueues
  let s4 := match g.ctx with
    | some i => if h : i < 64 then { s3 with ctxSlots := s3.ctxSlots.set i (some { tag := q.tag }) } else s3
    | none => s3
  readCell (markLimits (countLate (bindHeld s4 q1) q1) q1 model) q1

/-- The fault with which a quire cannot start at all: fewer engines than positions, or no staging region (R248, R273). -/
def startFault (s : State) (q : Quire) (p : Prog) : Option Nat :=
  if (s.inService q.cluster.val).length < p.positions then some 0x64
  else if s.stageBase = 0 ∧ p.sums.any (fun d => needStaging d s.pressed && !stagingInWindow d p) then some 0x67
  else none

/-- The quire waits in READY for something that is not a grant: another slot-reception, or a cluster without cells
(R228, R229). -/
def startWaits (s : State) (q : Quire) (p : Prog) : Bool :=
  (q.kind == .slotReception && (s.startedOn q.cluster).any fun x => x.kind == .slotReception)
    || (!q.kind.lc && p.full && s.carries q.cluster)

/-- QUIRE_START (R230): a READY quire obtains everything its program declares, or waits, each wait counted once. -/
def quireStart (tag : BitVec 16) (p : Prog) (s0 : State) : State :=
  let s := match tget? s0.quires tag.toNat with
    | some q => if q.state = .queued then triggerQueued s0 q.cluster else s0
    | none => s0
  match tget? s.quires tag.toNat with
  | none => s
  | some q =>
    if q.state ≠ .ready ∨ q.prog.isSome then s
    else match startFault s q p with
      | some code => faultQuire s tag code
      | none =>
        if startWaits s q p then s
        else match findGrants s q p with
          | none =>
            if q.waited then s
            else (s.setQuire tag.toNat fun q => { q with waited := true }).setCl q.cluster fun c =>
              { c with grantWait := c.grantWait + 1 }
          | some g =>
            match readVersion s q with
            | none => s
            | some (model, v, s1) => applyGrants s1 q p g model v

def execQuireStart (tag : BitVec 16) (p : Prog) (s : State) : Host.Outcome State Fault Refusal :=
  .next (quireStart tag p s)

/-! ### Leaf dispatch (R227, R228, R231) -/

/-- A quire's part on relative core `r` has leaves left and none is live there. -/
def Quire.readyOn (q : Quire) (s : State) (r : Nat) : Bool :=
  let part := match q.prog with | some p => p.cores.getLsbD r | none => false
  q.started && part && !(if r = 0 then q.done0 else q.done1) && !s.liveOn (coreOf q.cluster r) q.tag && !q.saved

/-- The leaf-bound thread of a downlink leaf, or a thread that a best-effort quire holds or may take (R142). -/
def leafThread (s : State) (q : Quire) (r : Nat) : Option (Fin 8) :=
  let l : List (Fin 8) := match q.kind with
    | .downlink => [if r = 0 then 4 else 5]
    | _ => [6, 7]
  let own := l.find? fun t => match (s.cl q.cluster).threads[t] with | some b => b.tag == q.tag | none => false
  match own with
  | some t => some t
  | none => l.find? fun t => (s.cl q.cluster).threads[t].isNone

/-- The kinds that bind a thread with a leaf. -/
def QKind.leafBound : QKind → Bool
  | .downlink => true | .adaptation => true | .yardstick => true | _ => false

/-- A latency-critical leaf may be dispatched: its thread is there, and a first leaf waits for an eviction (R142, R237). -/
def lcReady (s : State) (q : Quire) (r : Nat) : Bool :=
  q.kind.lc && q.readyOn s r && (!q.kind.leafBound || (leafThread s q r).isSome)
    && !(q.kind == .slotReception && (s.cl q.cluster).evictWait && q.leaf0 == 0 && q.leaf1 == 0)

/-- A best-effort leaf may be dispatched: its cores and a thread are free, and no eviction or save holds it (R229, R236,
R239). -/
def beReady (s : State) (q : Quire) (r : Nat) : Bool :=
  let free := fun r' : Nat =>
    let c := coreOf q.cluster r'
    match q.prog with
    | some p => !p.cores.getLsbD r' || (s.core c).leaf.isNone || s.liveOn c q.tag
    | none => false
  !q.kind.lc && q.readyOn s r && free 0 && free 1 && (leafThread s q r).isSome && !q.evict && !q.fullSave
    && !((match q.prog with | some p => p.full | none => false) && s.carries q.cluster)

/-- The kind order of a tie (R227). -/
def QKind.rank : QKind → Nat
  | .downlink => 0 | .slotReception => 1 | .prach => 2 | .adaptation => 3 | .yardstick => 4

/-- The deadline of a quire's next leaf: for a downlink slot the close of the transmission window of the symbol it serves
(Table 10-1). -/
def dueNow (s : State) (q : Quire) : Option Nat :=
  match q.kind, tget? s.coding.dl q.tag.toNat with
  | .downlink, some d => match d.closes[q.leaf0 + q.leaf1]? with
    | some t => some t
    | none => d.closes.getLast?
  | _, _ => q.deadline

/-- Engine time of a consumer's live leaves that no account holds yet. -/
def State.liveTime (s : State) (k : Fin 4) (consumer : Nat) : Nat :=
  ((List.range 2).map fun r =>
    let c := coreOf k r
    match s.live c with
    | some q => if q.consumer = consumer then (s.core c).owed (s.core c).ran * ((coreEngs c).filter fun e => !(s.eng e).retired).length else 0
    | none => 0).sum

/-- A consumer is over its share: its engine time in the window, its live leaves' included, has exceeded its entitlement (R234). -/
def State.overShare (s : State) (k : Fin 4) (consumer : Nat) : Bool :=
  let a := tget (s.cl k).accounts consumer {}
  a.exceeds || decide (1 ≤ consumer ∧ consumer ≤ 64 ∧ s.entitlement k consumer < a.window + s.liveTime k consumer)

/-- Order of latency-critical leaves: within its share first, then earliest deadline, cell index, kind (R227). -/
def lcBefore (s : State) (a b : Quire) : Bool :=
  let exceeds := fun q : Quire => s.overShare q.cluster q.consumer
  let key := fun q : Quire => [if exceeds q then 1 else 0, (dueNow s q).getD (2 ^ 64), q.owner, q.kind.rank, q.tag.toNat]
  decide (key a ≤ key b)

/-- How long ago a quire of a cluster was triggered, by its tag (R222). -/
def tagAge (s : State) (q : Quire) : Nat :=
  ((s.cl q.cluster).tagCounter.toNat + 16384 - q.tag.toNat % 16384) % 16384

/-- Visits that a consumer needs until its deficit is positive (R231). -/
def visitsFor (s : State) (k : Fin 4) (c : Nat) : Nat :=
  let d := (tget (s.cl k).accounts c {}).deficit
  let w : Int := s.beWeight c * 2500
  if 0 < d + w then 1 else ((-d) / w).toNat + 1

/-- Consumers by the visit on which each is served, in visiting order: the first is served next (R231). -/
def drrOrder (s : State) (k : Fin 4) (cands : List Nat) : List Nat :=
  let last := (s.cl k).rrLast
  cands.filter (last < ·) ++ cands.filter (· ≤ last)

/-- The deficit round-robin (R231; DEDUCED, log entry 31): a consumer is visited until its deficit is spent; the deficits of
consumers without a ready leaf on either core are reset. `cands` are the consumers with a leaf that may go on this core, ascending;
`ready` those with a ready leaf. -/
def drrPick (s : State) (k : Fin 4) (cands ready : List Nat) : Option Nat × State :=
  let reset := s.setCl k fun c =>
    { c with accounts := tmap c.accounts fun n a => if ready.contains n then a else { a with deficit := 0 } }
  let last := (s.cl k).rrLast
  if cands.contains last && decide (0 < (tget (s.cl k).accounts last {}).deficit) then (some last, reset)
  else
    let order := drrOrder s k cands
    let r := (order.map (visitsFor s k)).foldl Nat.min (2 ^ 64)
    match order.findIdx? fun c => visitsFor s k c == r with
    | none => (none, reset)
    | some i =>
      let s1 := (order.zip (List.range order.length)).foldl (fun s (p : Nat × Nat) =>
        let n := if p.2 ≤ i then r else r - 1
        s.account k p.1 fun a => { a with deficit := a.deficit + (s.beWeight p.1 * 2500 * n : Nat) }) reset
      let pick := (order[i]?).getD 0
      (some pick, s1.setCl k fun c => { c with rrLast := pick })

/-- The best-effort quire whose leaf goes next on a core (R231). -/
def bePick (s : State) (k : Fin 4) (r : Nat) : Option Quire × State :=
  let l := (s.startedOn k).filter fun q => beReady s q r
  let cands := sortBy (· ≤ ·) (l.map (·.consumer)).eraseDups
  let ready := ((s.startedOn k).filter fun q => !q.kind.lc && (q.readyOn s 0 || q.readyOn s 1)).map (·.consumer)
  match drrPick s k cands ready with
  | (some c, s1) =>
    ((sortBy (fun a b => decide (tagAge s b ≤ tagAge s a)) (l.filter fun q => q.consumer == c)).head?, s1)
  | (none, s1) => (none, s1)

/-- Bind the leaf-bound thread of a leaf (R142). -/
def bindLeaf (s : State) (q : Quire) (r : Nat) : State :=
  if q.kind.leafBound then
    match leafThread s q r with
    | some t =>
      let n := if q.kind = .downlink then r else 0
      (s.setQuire q.tag.toNat fun q => { q with lists := listMod q.lists n fun l => { l with thread := some t.val } }).setCl
          q.cluster fun c =>
        match c.threads[t] with
        | some _ => c
        | none => { c with threads := c.threads.set t (some { tag := q.tag, list := n }) }
    | none => s
  else s

/-- Start a quire's next leaf on a core: its thread, its context, its engines; a wait that was suspended re-arms (R87,
R120, R240, R265). -/
def startNext (s : State) (q : Quire) (c : Fin 8) : State :=
  let r := c.val % 2
  let s1 := (bindLeaf s q r).setQuire q.tag.toNat fun q => { q with state := .running, hold := false }
  let s2 := startLeaf (loadContext s1 q c) c q.tag false
  let t := tget s2.qctx q.tag.toNat {}
  let t1 := if r = 0 then { t with wait0 := none } else { t with wait1 := none }
  let s3 := ({ s2 with qctx := tset s2.qctx q.tag.toNat t1 }).setCore c fun x => { x with preempt := false }
  if (s3.core c).wait.isSome then grantCheck s3 q.cluster (q.objBase + r) else s3

/-- The quire whose leaf an idle core takes next, in the order of its cluster scheduler (R227). While a re-shard holds the cores,
only its quire's leaves go (R169). -/
def chooseLeaf (s : State) (c : Fin 8) : Option Quire × State :=
  let k := clOfCore c
  let r := c.val % 2
  let held := (s.startedOn k).find? (·.hold)
  let lc := (s.startedOn k).filter fun q => lcReady s q r && (match held with | some h => h.tag == q.tag | none => true)
  match (sortBy (lcBefore s) lc).head? with
  | some q => (some q, s)
  | none => if held.isSome then (none, s) else bePick s k r

/-- An LC leaf takes a core that a best-effort quire holds between its leaves: that quire is suspended in place, or asked for at the
boundary of its other core (R240). -/
def preemptBe (s : State) (k : Fin 4) (c : Fin 8) : State :=
  (s.startedOn k).foldl (fun s x =>
    let part := match x.prog with | some p => p.cores.getLsbD (c.val % 2) | none => false
    if x.kind.lc || !part then s
    else if x.state == .boundary then suspendQuire s x.tag
    else if x.state == .running && s.liveOn (otherCore c) x.tag then s.setCore (otherCore c) fun y => { y with preempt := true }
    else s) s

/-- LEAF_DISPATCH (R227, R240): an idle core takes the next leaf. -/
def leafDispatch (c : Fin 8) (s : State) : State :=
  if (s.core c).leaf.isSome then s
  else match chooseLeaf s c with
    | (some q, s1) => startNext (if q.kind.lc then preemptBe s1 q.cluster c else s1) q c
    | (none, s1) => s1

def execLeafDispatch (core : Fin 8) (s : State) : Host.Outcome State Fault Refusal := .next (leafDispatch core s)

/-! ### Re-shard (R168, R169) -/

/-- A re-shard entry moves bytes: its source and destination are not the same place (R168). -/
def moves (m : Config.ReshardMove) : Bool := !(m.srcPos == m.dstPos && m.srcOff == m.dstOff)

/-- Where the lines of a re-shard entry start in a scratchpad. -/
def moveLines (off : Nat) (stride : Int) (lines : Nat) : List Nat :=
  (List.range lines).map fun (i : Nat) => ((off : Int) + stride * ((i : Nat) : Int)).toNat

/-- Move one block of a re-shard; one on its own place is not moved. -/
def moveBlock (q : Quire) (s0 s : State) (m : Config.ReshardMove) : State :=
  match (q.engs s0)[m.srcPos]?, (q.engs s0)[m.dstPos]? with
  | some a, some b =>
    if !moves m then s
    else ((moveLines m.srcOff m.srcStride m.lines).zip (moveLines m.dstOff m.dstStride m.lines)).foldl (fun s p =>
      s.wr (spadAt b + p.2) (s0.rd (spadAt a + p.1) m.lineBytes)) s
  | _, _ => s

/-- The bytes of a re-shard that move: V of R169. -/
def movedBytes (l : List Config.ReshardMove) : Nat := ((l.filter moves).map fun m => m.lineBytes * m.lines).sum

/-- Array cycles of a re-shard of V bytes: V at 0.5 MiB/µs, with 250 array cycles a microsecond (R169). -/
def reshardCycles (v : Nat) : Nat := ceilDiv (250 * v) 524288

/-- The boundary that a slot-reception stands at: every core that its program runs on has ended the leaves of the phases before it
(R162, R169). -/
def Quire.phaseEnd (q : Quire) (m : Config.PhaseMap) : Option Nat :=
  let at_ := fun (r n b : Nat) => !(match q.prog with | some p => p.cores.getLsbD r | none => false) || n == m.leavesTo b
  [0, 1].find? fun b => at_ 0 q.leaf0 b && at_ 1 q.leaf1 b

/-- The word that a re-shard read meets an error in is one that its entries read. -/
def movesRead (q : Quire) (s : State) (l : List Config.ReshardMove) (w : Nat) : Bool :=
  (l.filter moves).any fun m => match (q.engs s)[m.srcPos]? with
    | some e => (moveLines m.srcOff m.srcStride m.lines).any fun a =>
        decide (spadAt e + a < w - w % 4 + 4 ∧ w - w % 4 < spadAt e + a + m.lineBytes)
    | none => false

/-- RESHARD (R168, R169): at the end of a phase its outputs move as the RESHARD section of the variant says, bit for bit; the time
is charged to the quire, and the cores stay held. With `hit` the read of `word`, where it is one of those moved, meets a parity
error, and with `again` its re-read meets it too, which faults the quire. -/
def reshard (tag : BitVec 16) (hit : Bool) (word : Nat) (again : Bool) (s : State) : State :=
  match tget? s.quires tag.toNat with
  | none => s
  | some q =>
    match q.phaseEnd (variantOf q.image q.engines) with
    | none => s
    | some b =>
      let l := Config.reshardMoves q.image q.engines b
      if q.kind ≠ .slotReception ∨ !q.started ∨ s.anyLive q ∨ q.hold ∨ q.engines ≤ 1 then s
      else
        let met := hit && movesRead q s l word
        let s0 := if met then countWord s word else s
        if met && again then faultQuire (countWord s0 word) tag 0x57
        else
          let n := reshardCycles (movedBytes l)
          let es := s0.inService q.cluster.val
          let s1 := l.foldl (moveBlock q s0) s0
          let s2 := es.foldl (fun s e => (s.engCount e 9 n).engCount e 10 (4 * n)) s1
          ((chargeTime s2 q.cluster q.consumer (n * es.length)).setCl q.cluster fun k =>
            { k with lcCycles := k.lcCycles + BitVec.ofNat 64 (n * es.length) }).setQuire tag.toNat fun q => { q with hold := true }

def execReshard (tag : BitVec 16) (hit : Bool) (word : Nat) (again : Bool) (s : State) :
    Host.Outcome State Fault Refusal := .next (reshard tag hit word again s)

/-! ### Eviction, save and restore (R236 to R243) -/

/-- Live extents that overlap a claim on an engine position (R236). -/
def extentHits (a b : Extent) : Bool := a.pos == b.pos && a.acc == b.acc && overlaps a.start a.len b.start b.len

/-- Mark one best-effort quire for eviction on behalf of a cell, suspending it where no leaf of it is live (R236). -/
def markEvict (cell : Nat) (claim : List Extent) (s : State) (q : Quire) : State :=
  if q.kind.lc || !q.live.any (fun e => claim.any (extentHits e)) then s
  else
    let s1 := s.setQuire q.tag.toNat fun q => { q with evictFor := cell :: q.evictFor.filter (· != cell) }
    if s.anyLive q || q.state == .suspended || q.state == .ready then s1 else suspendQuire s1 q.tag

/-- The best-effort quires in the way of a cell's coming slot-reception are marked (R236). -/
def startEviction (s : State) (k : Fin 4) (cell : Nat) : State :=
  match s.cell? cell with
  | some c => (s.startedOn k).foldl (markEvict cell (s.claimOf k c)) s
  | none => s

/-- EVICTION_WINDOW_OPEN (R236, R237): the window of the expected close at the cluster-counter instant `close` opens, EVICT_WINDOW
before it or at once; the best-effort quires in the claim's way are marked. Without that expected close no window opens (R226). -/
def evictionWindowOpen (k : Fin 4) (cell : Fin 64) (close : Nat) (s : State) : State :=
  match (s.cl k).expects.find? (fun e => e.cell == cell.val && e.close == close && !e.opened) with
  | none => s
  | some e =>
    let due := e.close - usTicks s.evictWindow
    let s1 := (s.advance (due - (s.cl k).counter.toNat)).setCl k fun c =>
      { c with expects := c.expects.map fun x => if x = e then { x with opened := true } else x }
    startEviction s1 k cell.val

def execEvictionWindowOpen (k : Fin 4) (cell : Fin 64) (close : Nat) (s : State) :
    Host.Outcome State Fault Refusal := .next (evictionWindowOpen k cell close s)

/-- The bytes that a live extent holds on an engine. -/
def extentPlace (x : Extent) (e : Nat) : Nat × Nat :=
  if x.acc then (accAt e + 512 * x.start, 512 * x.len) else (spadAt e + x.start, x.len)

/-- The engine data of a position, packed in live-extent order (Table 10-6). -/
def engineData (s : State) (q : Quire) (p e : Nat) : Bytes :=
  ((q.live.filter fun x => x.pos == p).take 8).flatMap fun x => let (a, n) := extentPlace x e; s.rd a n

/-- Address of a position's engine data in a context slot (Table 10-6). -/
def State.dataAddr (s : State) (i p : Nat) : Nat := s.ctxAddr i + 0x10000 + p * 0x580000

/-- The positions of a quire with their engines. -/
def Quire.places (q : Quire) (s : State) : List (Nat × Nat) :=
  let n := match q.prog with | some p => p.positions | none => 0
  (List.range n).zip (q.engs s)

/-- CONTEXT_SAVE (R236, R238, R242): the control part and the live extents of a suspended quire that must leave go to its
context slot. A word that fails its parity twice faults the quire (Table 10-9). -/
def contextSave (tag : BitVec 16) (parityBad : Bool) (s : State) : State :=
  match tget? s.quires tag.toNat with
  | none => s
  | some q =>
    match q.ctxSlot with
    | none => s
    | some i =>
      if q.state ≠ .suspended ∨ q.saved ∨ !(q.evict || q.fullSave) then s
      else if parityBad then faultQuire s tag 0x57
      else
        let s1 := writeControl (s.setQuire tag.toNat fun q => { q with saved := true, fullSave := false }) tag
        let data := (q.places s).map fun p => (p.1, engineData s q p.1 p.2)
        let s2 := data.foldl (fun s p => s.wr (s.dataAddr i p.1) p.2) s1
        let n := 2176 + (data.map (·.2.length)).sum
        s2.account q.cluster q.consumer fun a =>
          { a with evictions := a.evictions + 1, bytesSaved := a.bytesSaved + n }

def execContextSave (tag : BitVec 16) (parityBad : Bool) (s : State) : Host.Outcome State Fault Refusal :=
  .next (contextSave tag parityBad s)

/-- The AON tick of a cell's next slot close by its slot clock; at once where no mark has set it (R297; DESIGN CHOICE, log entry
66). -/
def Cell.nextClose (c : Cell) (now : Nat) : Nat :=
  match c.clock with
  | some t => if now < t then t else t + ((now - t) / c.slotTicks + 1) * c.slotTicks
  | none => now

/-- CONTEXT_SAVE_DONE (R237, R239): once no eviction save is outstanding a waiting first leaf may start, and once no FULL
quire is in place a waiting placement takes effect, at the cell's first slot close, which the clock reaches. -/
def contextSaveDone (k : Fin 4) (s : State) : State :=
  let s1 := if s.evicting k then s else s.setCl k fun c => { c with evictWait := false }
  let full := (s.startedOn k).any fun q => !q.saved && (match q.prog with | some p => p.full | none => false)
  if full then s1
  else (sortBy (fun a b => decide (a.2.nextClose s.ticks.toNat ≤ b.2.nextClose s.ticks.toNat))
      (s1.cfg.cells.filter fun p => p.2.waitFull && p.2.cluster == k)).foldl (fun s2 p =>
    (s2.advanceTo (p.2.nextClose s.ticks.toNat)).setCfg fun g => { g with
      cells := tset g.cells p.1 { p.2 with waitFull := false, placed := true } }) s1

def execContextSaveDone (k : Fin 4) (s : State) : Host.Outcome State Fault Refusal := .next (contextSaveDone k s)

/-- FULL_QUIRE_SAVE (R239): a FULL quire on a cluster that gains a cell is dispatched no more and is suspended for its
save, at its next boundary or at once. -/
def fullQuireSave (tag : BitVec 16) (s : State) : State :=
  match tget? s.quires tag.toNat with
  | none => s
  | some q =>
    let full : Bool := match q.prog with | some p => p.full | none => false
    if !q.started || q.kind.lc || !full || q.saved || !s.carries q.cluster then s
    else
      let s1 := s.setQuire tag.toNat fun q => { q with fullSave := true }
      if s.anyLive q || q.state == .suspended then s1 else suspendQuire s1 tag

def execFullQuireSave (tag : BitVec 16) (s : State) : Host.Outcome State Fault Refusal := .next (fullQuireSave tag s)

/-- Write the saved extents of a position back, in the order they were packed. -/
def restoreData (s : State) (e : Nat) : List Extent → Bytes → State
  | [], _ => s
  | x :: rest, b =>
    let (a, n) := extentPlace x e
    restoreData (s.wr a (b.take n)) e rest (b.drop n)

/-- CONTEXT_RESTORE (R243): the slot's header is checked; the saved extents go back and the rest of the windows is
zeroed. A header that is not the quire's, or data that the ECC cannot mend, faults the quire. -/
def contextRestore (tag : BitVec 16) (eccBad : Bool) (s : State) : State :=
  match tget? s.quires tag.toNat with
  | none => s
  | some q =>
    match q.ctxSlot with
    | none => s
    | some i =>
      let full : Bool := match q.prog with | some p => p.full | none => false
      let h := s.rd (s.ctxAddr i) 8
      if q.state != .suspended || !q.saved || q.evict || full && s.carries q.cluster then s
      else if (q.places s).length < (match q.prog with | some p => p.positions | none => 0) then faultQuire s tag 0x64
      else if eccBad then faultQuire s tag 0x63
      else if cpl h ≠ s.rd (s.ctxAddr i + 8) 8 ∨ bits (leNat h) 32 16 ≠ tag.toNat then faultQuire s tag 0x62
      else
        let s1 := (q.places s).foldl (fun s p =>
          let z := (s.zeroRun (spadAt p.2) q.spad []).zeroRun (accAt p.2) q.acc.unitBytes []
          let l := (q.live.filter fun x => x.pos == p.1).take 8
          restoreData z p.2 l (s.rd (s.dataAddr i p.1) ((l.map fun x => (extentPlace x 0).2).sum))) s
        let s2 := (q.places s).foldl (fun s p => s.setEng p.2 fun e =>
          if e.owner = some tag then { e with owner := none } else e) s1
        s2.setQuire tag.toNat fun q => { q with saved := false }

def execContextRestore (tag : BitVec 16) (eccBad : Bool) (s : State) : Host.Outcome State Fault Refusal :=
  .next (contextRestore tag eccBad s)

/-! ### Timeouts and accounting -/

/-- The local WAIT that a core of a quire has been in longest, by its issue: the earliest. -/
def localWait (s : State) (q : Quire) : Option Nat :=
  ([coreOf q.cluster 0, coreOf q.cluster 1].filterMap fun c =>
    if s.liveOn c q.tag then (match (s.core c).wait with
      | some w => if w.remote then none else some w.issued
      | none => none) else none).min?

/-- QUIRE_TIMEOUT (R248): a latency-critical quire is still live 500 µs after its deadline, or a best-effort quire has
been in one local WAIT for 100 ms. The clock reaches that instant if it has not. -/
def quireTimeout (tag : BitVec 16) (s : State) : State :=
  match tget? s.quires tag.toNat with
  | none => s
  | some q =>
    let due := if q.kind.lc then (dueNow s q).map (· + usTicks 500) else (localWait s q).map (· + usTicks 100000)
    match due with
    | none => s
    | some t =>
      if !q.state.open_ then s
      else faultQuire (s.advance (t - (s.cl q.cluster).counter.toNat)) tag 0x66

def execQuireTimeout (tag : BitVec 16) (s : State) : Host.Outcome State Fault Refusal := .next (quireTimeout tag s)

/-- The live leaves of a cluster are charged for what they have run (R234). -/
def chargeLive (s : State) (k : Fin 4) : State :=
  [coreOf k 0, coreOf k 1].foldl (fun s c => match s.live c with
    | some q => chargeTo s q c (s.core c).ran
    | none => s) s

/-- ACCOUNT_WINDOW_END (R234, R249): the window counts pass to the read-back and restart, with the engines then in
service. -/
def accountWindowEnd (k : Fin 4) (s0 : State) : State :=
  let s := chargeLive (s0.advanceTo ((s0.cl k).winStart + s0.acctWindow * 25000)) k
  let base := (s.cellsOn k).foldl (fun (t : Table Account) c =>
    match tget? t (c.1 + 1) with | some _ => t | none => tset t (c.1 + 1) {}) (s.cl k).accounts
  s.setCl k fun c =>
    { c with
      accounts := tmap base fun n a =>
        { a with lastWindow := a.window, lastEntitled := s.entitlement k n, window := 0, exceeds := false }
      winCycles := 0
      winEngines := (s.inService k.val).length
      winStart := s.ticks.toNat }

def execAccountWindowEnd (k : Fin 4) (s : State) : Host.Outcome State Fault Refusal := .next (accountWindowEnd k s)

/-! ### Slot marks (R224, R226, R427, R444) -/

/-- Expect a close of a cell: a mark less than 20 µs from an earlier one's close replaces it (R427). -/
def expectClose (s : State) (cell : Nat) (k : Fin 4) (lead : Nat) : State :=
  s.setCl k fun c =>
    let close := c.counter.toNat + usTicks lead
    let keep := c.expects.filter fun e => !(e.cell == cell && decide (e.close < close + 500 ∧ close < e.close + 500))
    { c with expects := keep ++ [{ cell := cell, close := close, marked := c.counter.toNat }] }

/-- Change a cell. -/
def State.setCell (s : State) (i : Nat) (f : Cell → Cell) : State :=
  match s.cell? i with
  | some c => s.setCfg fun g => { g with cells := tset g.cells i (f c) }
  | none => s

/-- AON ticks in a number of nanoseconds. -/
def nsTicks (ns : Nat) : Nat := ns / 40

/-- AON ticks in a number of Tc: 1/(480,000 × 4,096) s. -/
def tcTicks (t : Nat) : Nat := t * 25000000 / 1966080000

/-- A window field of a cell record, in ticks (Table 13-5): 0x3C on in the order of the fields. -/
def Cell.win (c : Cell) (i : Nat) : Nat := nsTicks (fld c.rcd (0x3C + 4 * i) 4)

/-- Fields of the windows by place: TA4, T1A_UP, T1A_CP_DL, T1A_CP_UL, MIN then MAX. -/
def Cell.ta4Min (c : Cell) : Nat := c.win 0
def Cell.ta4Max (c : Cell) : Nat := c.win 1
def Cell.upMin (c : Cell) : Nat := c.win 2
def Cell.upMax (c : Cell) : Nat := c.win 3
def Cell.cpDlMax (c : Cell) : Nat := c.win 5
def Cell.cpUlMax (c : Cell) : Nat := c.win 7

/-- The tick of the clock that holds for a slot's index (R297). -/
def Cell.clockFor (c : Cell) (i : Nat) : Nat :=
  match c.clocks.find? (fun x => decide (i < x.1)) with
  | some x => x.2
  | none => c.clock.getD 0

/-- The index of the clock's first slot that has not begun and of which no window has opened (R297). -/
def Cell.unbegun (c : Cell) (now : Nat) : Nat :=
  let lead := c.ta4Max + tcTicks (symStart c.scs 0 13 - symStart c.scs 0 0)
  max (max c.cpUl c.cpDl) (ceilDiv (now + 1 + lead - c.clock.getD 0) c.slotTicks)

/-- A mark sets the front end's slot clock of a cell, or re-aligns it from the first slot that has not begun, by more than 1 µs
being counted (R297). -/
def alignClock (s : State) (i : Nat) (lead : Nat) : State :=
  match s.cell? i with
  | none => s
  | some c =>
    let e := s.ticks.toNat + usTicks lead
    match c.clock with
    | none => s.setCell i fun c => { c with clock := some e, clocks := [], number := none, cpUl := 0, cpDl := 0, resume := 0 }
    | some t =>
      let n := c.slotTicks
      let j := (e + n / 2 - t) / n
      let far := decide (e + usTicks 1 < t + j * n ∨ t + j * n + usTicks 1 < e)
      let s1 := s.setCell i fun c =>
        { c with clock := some (e - j * n), clocks := if e = t + j * n then c.clocks else (c.clocks ++ [(c.unbegun s.ticks.toNat, t)]).drop (c.clocks.length - 3) }
      if far then s1.feCount .realign i else s1

/-- A mark of a group arrives: each of its placed cells closes its next slot after its lead. -/
def markGroup (s : State) (sel : Cell → Bool) (lead : Cell → Nat) : State :=
  (s.cfg.cells.filter fun p => (p.2.placed || p.2.waitFull) && sel p.2).foldl (fun s p =>
    alignClock (if p.2.placed then expectClose s p.1 p.2.cluster (lead p.2) else s) p.1 (lead p.2)) s

/-- Ignore a mark (R224, R427). -/
def ignoreMark (s : State) : State := s.setCfg fun c => { c with markIgnored := c.markIgnored + 1 }

/-- Note the arrival of marks (R226). -/
def noteMark (s : State) (groups : List Nat) : State :=
  s.setCfg fun c => { c with
    lastMark := groups.foldl (fun t g => tset t g s.ticks.toNat) c.lastMark
    lostGroups := c.lostGroups.filter fun g => !groups.contains g }

/-- SLOT_MARK (R224, R427). -/
def slotMark (v : BitVec 32) (s : State) : State :=
  let lead := bits v.toNat 0 16
  let g := bits v.toNat 24 4
  barReq false s fun s =>
    if s.markSource ≠ 0 ∨ 9999 < lead then ignoreMark s
    else markGroup (noteMark s [g]) (fun c => c.timingGroup == g) (fun _ => lead)

def execSlotMark (v : BitVec 32) (s : State) : Host.Outcome State Fault Refusal := .next (slotMark v s)

/-- SLOT_MARK_IN (R224, R444): an edge on the ball, taken; each cell closes its next slot CLOSE_OFFSET after it. -/
def slotMarkIn (s : State) : State :=
  if s.markSource ≠ 1 then ignoreMark s
  else
    let s1 := (noteMark s (List.range 16)).setCfg fun c => { c with lastEdge := some s.ticks.toNat }
    markGroup s1 (fun _ => true) Cell.closeOffset

def execSlotMarkIn (s : State) : Host.Outcome State Fault Refusal := .next (slotMarkIn s)

/-- MARK_LOST (R226): no mark for 10 ms for a timing group with cells placed; raised once until a mark comes. -/
def markLost (g : Fin 16) (s : State) : State :=
  if !s.cfg.cells.any (fun p => p.2.placed && p.2.timingGroup == g.val) || s.cfg.lostGroups.contains g.val then s
  else
    let s1 := s.advanceTo ((tget s.cfg.lastMark g.val s.ticks.toNat) + usTicks 10000)
    (s1.setCfg fun c => { c with lostGroups := g.val :: c.lostGroups }).event 0x02 g.val (toLE 4 g.val)

def execMarkLost (group : Fin 16) (s : State) : Host.Outcome State Fault Refusal := .next (markLost group s)

/-! ### The host's view -/

/-- The state that QUIRE_STATUS reports (R244): QUEUED, READY, RUNNING, ENDED, FAULTED as 0, 1, 2, 5, 6, the place of each
in Table 10-8. -/
def QState.code : QState → Nat
  | .queued => 0 | .ready => 1 | .running => 2 | .boundary => 2 | .suspended => 2 | .ended => 5 | .faulted => 6

/-- QUIRE_STATUS (R244): state, consumer, the two leaf indices, fault code. -/
def doQuireStatus (c : Cmd) (s : State) : CmdOut :=
  match tget? s.quires (par8 c.params 0 % 65536) with
  | none => .fail s 0x0007
  | some q => { st := s, body := join8 [q.state.code, q.consumer, q.leaf0, q.leaf1, q.fault.toNat] }

def execQuireStatus (c : Cmd) (s : State) : Host.Outcome State Fault Refusal :=
  .next (shortCmd 0x30 false (exactLen 8) doQuireStatus c s)

/-- QUIRE_CANCEL (R244, R245, R371): a held quire ends, a triggered one faults, both with QUIRE_CANCELLED. -/
def doQuireCancel (c : Cmd) (s : State) : CmdOut :=
  let tag := par8 c.params 0 % 65536
  match tget? s.quires tag with
  | none => .fail s 0x0007
  | some q =>
    if !q.state.open_ then .fail s 0x0007
    else if q.state = .queued then
      { st := s.setQuire tag fun q => { q with state := .ended, fault := 0x65 } }
    else { st := faultQuire s q.tag 0x65 }

def execQuireCancel (c : Cmd) (s : State) : Host.Outcome State Fault Refusal :=
  .next (shortCmd 0x31 false (exactLen 8) doQuireCancel c s)

/-- KIND of a consumer (Table 10-4). -/
def consumerKind (n : Nat) : Nat := if n = 0 then 0 else if n ≤ 64 then 1 else if n ≤ 80 then 2 else 3

/-- A consumer account record (Table 10-4). -/
def accountRecord (s : State) (k : Fin 4) (n : Nat) (a : Account) : Bytes :=
  toLE 2 n ++ toLE 1 k.val ++ toLE 1 (consumerKind n) ++ toLE 2 (s.shareOf n) ++ toLE 2 0 ++ toLE 8 a.engineCycles
    ++ toLE 8 a.lastWindow ++ toLE 8 a.lastEntitled ++ toLE 8 a.leaves ++ toLE 4 a.overruns ++ toLE 4 a.overShare
    ++ toLE 4 a.preemptions ++ toLE 4 a.evictions ++ toLE 8 a.bytesSaved

/-- SHARE_READ (R235): one record for each of the 145 consumers of each cluster named. -/
def doShareRead (c : Cmd) (s : State) : CmdOut :=
  let mask := par8 c.params 0
  { st := s
    outb := ((List.finRange 4).filter fun k => bit mask k.val).flatMap fun k =>
      (List.range 145).flatMap fun n => accountRecord s k n (tget (s.cl k).accounts n {}) }

def execShareRead (c : Cmd) (s : State) : Host.Outcome State Fault Refusal :=
  .next (shortCmd 0x32 false (exactLen 8) doShareRead c s)

/-! ### A check that fails (R85 to R89, R249) -/

/-- CLASS of a mode: 0 integer, 1 float, 2 complex integer, 3 complex float. -/
def ArrayMode.cls (m : ArrayMode) : Nat := (if isFlt m.xfmt then 1 else 0) + if isCplx m.xfmt then 2 else 0

/-- What a check that fails is reported with. -/
structure Mismatch where
  kind : Nat
  column : Nat
  vector : Nat
  expected : BitVec 64
  observed : BitVec 64
  bound : Nat
  cycle : Nat

/-- The array error record (Table 4-9). -/
def arrayErrorRecord (s : State) (e : Nat) (m : Mismatch) (tag leaf attempt : Nat) : Bytes :=
  let st := (s.eng e).stream
  let mode := st.map (·.2)
  toLE 2 e ++ toLE 2 tag ++ toLE 4 leaf ++ toLE 4 (match st with | some x => x.1 | none => 0) ++ toLE 1 m.kind ++ toLE 1 attempt
    ++ toLE 1 (match mode with | some x => x.cls | none => 0) ++ toLE 1 (match mode with | some x => x.op | none => 0)
    ++ toLE 2 m.column ++ zeros 2 ++ toLE 4 m.vector ++ toLE 8 m.expected.toNat ++ toLE 8 m.observed.toNat
    ++ toLE 4 m.bound ++ toLE 4 m.cycle ++ zeros 16

/-- The checksum mismatches of a core's leaf: both its engines run it (R86, R221). -/
def leafMismatches (s : State) (c : Fin 8) : Nat := ((coreEngs c).map fun e => (s.eng e).mismatches).sum

/-- The first mismatch of a leaf: its status tells ARRAY_CHK_MISMATCH, and it is re-executed from its boundary, or suspended there
where a pre-emption is held (R85, R87, R88). -/
def firstMismatch (s : State) (q : Quire) (c : Fin 8) (e : Nat) (cycle : Nat) : State :=
  let s1 := (s.setEng e fun x => { x with mismatches := 1 }).engCount e 12 1
  discard (noteStatus s1 q c 0x26) q c cycle (rollBack · q c)

/-- A quire other than the one that caused a retirement has a leaf or state in place on the engine (R249): a saved
best-effort quire is spared while enough engines remain. -/
def lostWith (s : State) (e : Nat) (q : Quire) : Bool :=
  let pos := match q.prog with | some p => p.positions | none => 0
  q.started && decide (0 < pos) && (decide (0 < q.leaf0 + q.leaf1) || s.anyLive q) && (q.places s).any (fun p => p.2 == e)
    && !(!q.kind.lc && q.saved && decide (pos < (s.inService q.cluster.val).length))

/-- Retire an engine (R86, R249). -/
def retireEngine (s : State) (q : Quire) (e : Fin 16) : State :=
  let k := clOfEng e
  let lost := ((s.startedOn k).filter fun x => x.tag != q.tag && lostWith s e.val x).map (·.tag)
  let s1 := faultQuire s q.tag 0x27
  let s2 := lost.foldl (fun s t => faultQuire s t 0x64) s1
  let s3 := s2.setEng e.val fun x => { x with retired := true }
  let (mask, s4) := switchVariants s3 k
  let s5 := s4.event 0x03 e.val (toLE 1 e.val ++ toLE 1 k.val ++ toLE 2 s4.engineMask ++ toLE 2 (1 + lost.length)
    ++ toLE 2 mask)
  if (s5.inService k.val).isEmpty then
    (s5.cellsOn k).foldl (fun s c => s.event 0x05 c.1 (toLE 4 c.1 ++ toLE 4 0)) s5
  else s5

/-- CHECK_MISMATCH (R85, R86, R89): the leaf stops and a record is written; the first mismatch of a leaf is replayed, a
second one retires the engine. -/
def checkMismatch (e : Fin 16) (m : Mismatch) (s : State) : State :=
  let c : Fin 8 := ⟨e.val / 2, by omega⟩
  match liveQuire s c with
  | none => s
  | some q =>
    if (s.eng e.val).retired then s
    else
      let leaf := if c.val % 2 = 0 then q.leaf0 else q.leaf1
      let attempt := if leafMismatches s c = 0 then 1 else 2
      let s1 := s.event 0x04 e.val (arrayErrorRecord s e.val m q.tag.toNat leaf attempt)
      if attempt = 1 then firstMismatch s1 q c e.val m.cycle else retireEngine s1 q e

def execCheckMismatch (e : Fin 16) (kind : Fin 5) (column : BitVec 16) (vector : BitVec 32)
    (expected observed : BitVec 64) (bound cycle : BitVec 32) (s : State) : Host.Outcome State Fault Refusal :=
  .next (checkMismatch e ⟨kind.val, column.toNat, vector.toNat, expected, observed, bound.toNat, cycle.toNat⟩ s)

end Sys2Proof.Machine
end

