-- ==== Sys2Proof/Machine/Shake.lean ====
section
/-!
DEFINITION. SHAKE256 (PRESUMED, log entry 4: FIPS 202), the digest function of the manual, as SHAKE256-256 and with longer output.
-/

namespace Sys2Proof.Machine
open Sys2Proof

/-- A lane of the state: lane (x, y) stands at x + 5y. -/
def lane (a : List (BitVec 64)) (i : Nat) : BitVec 64 := (a[i]?).getD 0

/-- The walk of rho over the lanes but (0, 0): from (x, y) to (y, 2x + 3y); step t rotates by t(t + 1)/2. -/
def rhoWalk : Nat → Nat → Nat → Nat → List (Nat × Nat)
  | 0, _, _, _ => []
  | n + 1, t, x, y => (x + 5 * y, t * (t + 1) / 2 % 64) :: rhoWalk n (t + 1) y ((2 * x + 3 * y) % 5)

/-- How far rho rotates each lane. -/
def rhoOf : List Nat := (List.range 25).map fun i => (((rhoWalk 24 1 1 0).find? (·.1 == i)).map (·.2)).getD 0

/-- The bits that the register of iota puts out, from its contents `r`: x^8 + x^6 + x^5 + x^4 + 1. -/
def iotaBits : Nat → Nat → List Bool
  | 0, _ => []
  | n + 1, r => (r % 2 == 1) :: iotaBits n (if r < 128 then 2 * r else (2 * r) ^^^ 0x171)

/-- What iota adds to lane (0, 0) in each of the 24 rounds: seven bits, bit j at place 2^j - 1. -/
def iotaOf : List (BitVec 64) :=
  (chunks 7 (iotaBits 168 1)).map fun b =>
    BitVec.ofNat 64 ((b.zip (List.range 7)).map fun p => if p.1 then 2 ^ (2 ^ p.2 - 1) else 0).sum

/-- Theta: each lane takes in the parities of the columns on its two sides. -/
def theta (a : List (BitVec 64)) : List (BitVec 64) :=
  let par := fun x : Nat => (List.range 5).foldl (fun p y => p ^^^ lane a (x % 5 + 5 * y)) (0 : BitVec 64)
  let mix := (List.range 5).map fun x => par (x + 4) ^^^ (par (x + 1)).rotateLeft 1
  (List.range 25).map fun i => lane a i ^^^ lane mix (i % 5)

/-- Rho and pi: lane (x, y) comes from lane (x + 3y, x), rotated. -/
def rhoPi (a : List (BitVec 64)) : List (BitVec 64) :=
  let r := List.zipWith BitVec.rotateLeft a rhoOf
  (List.range 25).map fun i => lane r ((i % 5 + 3 * (i / 5)) % 5 + 5 * (i % 5))

/-- Chi: each lane takes in the next two of its row. -/
def chi (a : List (BitVec 64)) : List (BitVec 64) :=
  let row := fun (i k : Nat) => lane a (i - i % 5 + (i % 5 + k) % 5)
  (List.range 25).map fun i => lane a i ^^^ (~~~(row i 1) &&& row i 2)

/-- The permutation of 24 rounds. -/
def keccakF (a : List (BitVec 64)) : List (BitVec 64) :=
  iotaOf.foldl (fun a r => (chi (rhoPi (theta a))).modify 0 (· ^^^ r)) a

/-- The rate of SHAKE256 in bytes. -/
def shakeRate : Nat := 136

/-- Message padding of SHAKE: 1111, then pad10*1. -/
def shakePad (m : Bytes) : Bytes :=
  let n := shakeRate - m.length % shakeRate
  if n = 1 then m ++ [0x9F] else m ++ [0x1F] ++ zeros (n - 2) ++ [0x80]

/-- Absorb one block. -/
def shakeAbsorb (a : List (BitVec 64)) (b : Bytes) : List (BitVec 64) :=
  let w := (chunks 8 b).map fun x => BitVec.ofNat 64 (leNat x)
  keccakF ((List.range 25).map fun i => lane a i ^^^ (w[i]?).getD 0)

/-- Squeeze `n` blocks. -/
def shakeSqueeze : Nat → List (BitVec 64) → Bytes
  | 0, _ => []
  | n + 1, a => ((a.take 17).flatMap fun x => toLE 8 x.toNat) ++ shakeSqueeze n (keccakF a)

/-- SHAKE256 with `len` bytes of output. -/
def shake256 (m : Bytes) (len : Nat) : Bytes :=
  let a := (chunks shakeRate (shakePad m)).foldl shakeAbsorb (List.replicate 25 0)
  (shakeSqueeze (ceilDiv len shakeRate) a).take len

/-- SHAKE256-256. -/
def digest256 (m : Bytes) : Bytes := shake256 m 32

end Sys2Proof.Machine
end

