-- ==== Sys2Proof/Machine/ConfigCmds.lean ====
section
/-!
DEFINITION. The chip's configuration records (R373 to R379): SCHED_CONFIG, POOL_CONFIG, HARQ_CONFIG, SLOT_CONFIG with its
checks between fields and its placement (R375, R336), and the canonical image (R335, R379).
-/

namespace Sys2Proof.Machine
open Sys2Proof

/-! ### The protected region (R400) -/

/-- DDR5 capacity in bytes. -/
def State.ddrBytes (s : State) : Nat := s.boot.ddrGiB * 2 ^ 30

/-- The DDR5 ranges that host windows cover. -/
def State.hostRuns (s : State) : List Run :=
  s.windows.toList.filterMap fun w => match w with
    | some x => if x.mem = .ddr5 ∧ x.host then some ⟨x.base, x.len⟩ else none
    | none => none

/-- A range of DDR5 keeps clear of every host window. -/
def State.isProtected (s : State) (r : Run) : Bool :=
  s.hostRuns.all fun x => !overlaps r.base r.len x.base x.len

/-- The context area and the staging regions that a SCHED record names. -/
def schedRuns (rcd : Bytes) : List Run :=
  [⟨fld rcd 8 8, 64 * 0x1610000⟩] ++ if fld rcd 0x60 8 = 0 then [] else [⟨fld rcd 0x60 8, 4 * 0x4000000⟩]

/-- The HARQ region and the spill areas. -/
def HarqCfg.runs (h : HarqCfg) : List Run := [⟨h.base, h.stride * h.count⟩, ⟨h.spill, 4 * 0x400000⟩]

/-! ### The canonical image (R335, R379) -/

/-- Zero bytes of a record. -/
def blank (b : Bytes) (off n : Nat) : Bytes := b.take off ++ zeros n ++ b.drop (off + n)

/-- The cell part of the canonical image for one record. -/
def imageCell (s : State) (rcd : Bytes) : Bytes :=
  let r := blank (blank rcd 0x36 6) 0x70 0x90
  let r1 := if 1 < s.poolSize then blank r 0 2 else r
  r1 ++ match (s.modelSlotOf (fld rcd 0x10 8)).bind s.model? with
    | some m => slice m.image 0x40 32
    | none => zeros 32

/-- The canonical configuration image. -/
def State.canonImage (s : State) : Bytes :=
  blank s.cfg.pool 0x24 1 ++ blank (blank s.cfg.sched 8 8) 0x60 8
    ++ ((List.range 7).flatMap fun i => match tget? s.coding.ldpc (i + 1) with
        | some t => digest256 t
        | none => zeros 32)
    ++ s.cfg.poolCells.flatMap fun p => imageCell s p.2

/-- A change of the image waits for the digest's recomputation (R337). -/
def State.spineChanged (s : State) : State := s.setStitch fun t => { t with spineStale := true }

/-- Recompute the spine digest (R337). -/
def State.spineNow (s : State) : State :=
  s.setStitch fun t => { t with spine := digest256 s.canonImage, spineStale := false }

/-! ### SCHED_CONFIG (Table 16-8) -/

/-- The fields of the SCHED record. -/
def schedFields (ddr : Nat) : List FSpec :=
  [⟨1, 0x00, 1, 1, enumC (· ≤ 1) 0⟩, ⟨2, 0x01, 1, 1, enumC (· ≤ 1) 0⟩, ⟨3, 0x02, 2, 1, numC 0 400⟩,
   ⟨4, 0x04, 2, 1, numC 1 1000⟩, ⟨5, 0x06, 2, 1, rsvC⟩, ⟨6, 0x08, 8, 1, multC 4096 0 (ddr - 64 * 0x1610000)⟩,
   ⟨7, 0x10, 1, 80, numC 1 255⟩, ⟨8, 0x60, 8, 1, multC 4096 0 (ddr - 4 * 0x4000000)⟩, ⟨9, 0x68, 24, 1, rsvC⟩]

/-- SCHED_CONFIG (R378, R400). -/
def doSchedConfig (c : Cmd) (s : State) : CmdOut :=
  if !cplAt c.params 0 128 then .fail s 0x0005
  else
    let (r, rep) := checkFields 0 (schedFields s.ddrBytes) (slice c.params 0 128)
    if !(schedRuns r).all s.isProtected then .fail s 0x0009
    else { st := (s.setCfg fun g => { g with sched := r }).spineChanged, rep := rep }

def execSchedConfig (c : Cmd) (s : State) : Host.Outcome State Fault Refusal :=
  .next (shortCmd 0x11 false (exactLen 256) doSchedConfig c s)

/-! ### POOL_CONFIG (Table 16-8) -/

/-- The fields of the POOL record before CHIP. -/
def poolFields : List FSpec :=
  [⟨1, 0x00, 8, 1, anyC⟩, ⟨2, 0x08, 8, 1, anyC⟩,
   ⟨3, 0x10, 8, 1, fun v => if v = 0 then (0, []) else multC 64 0x80000 0x7FFFC0 v⟩, ⟨4, 0x18, 8, 1, multC 64 0 0x780000⟩,
   ⟨5, 0x20, 1, 1, enumC (· ≤ 2) 0⟩, ⟨6, 0x21, 1, 1, numC 2 8⟩, ⟨7, 0x22, 1, 1, numC 2 8⟩,
   ⟨8, 0x23, 1, 1, enumC (fun v => v == 1 || decide (4 ≤ v ∧ v ≤ 64)) 1⟩]

/-- CHIP, below the POOL_SIZE as checked, and the fields after it. -/
def poolTail (size : Nat) : List FSpec :=
  [⟨9, 0x24, 1, 1, numC 0 (size - 1)⟩, ⟨10, 0x25, 1, 1, numC 1 16⟩, ⟨11, 0x26, 2, 1, numC 10 10000⟩, ⟨12, 0x28, 24, 1, rsvC⟩]

/-- The single-field checks of a POOL record, in field order. -/
def poolChecked (b : Bytes) : Bytes × List Rep :=
  let (r0, rep0) := checkFields 0 poolFields b
  let (r1, rep1) := checkFields 0 (poolTail (fld r0 0x23 1)) r0
  (r1, rep0 ++ rep1)

/-- Set a field by a check between fields (KIND 3). -/
def crossSet (rcd no off len v : Nat) (b : Bytes) : Bytes × List Rep :=
  let w := fld b off len
  if w = v then (b, []) else (setFld b off len v, [⟨3, rcd, no, 0, low8 w, low8 v⟩])

/-- POOL_CONFIG's checks between fields: a TORUS has DIM_X × DIM_Y chips (R378; a chip outside a pool stays so, DEDUCED, log
entry 34), CHIP lies in the pool so corrected, the pool window ends in the quire-data space. -/
def poolCross (b0 : Bytes) : Bytes × List Rep :=
  let size := fld b0 0x23 1
  let want := if fld b0 0x20 1 = 0 ∧ size ≠ 1 then fld b0 0x21 1 * fld b0 0x22 1 else size
  let (b1, r1) := crossSet 0 8 0x23 1 want b0
  let (b2, r2) := crossSet 0 9 0x24 1 (min (fld b1 0x24 1) (want - 1)) b1
  let base := fld b2 0x10 8
  let (b3, r3) := crossSet 0 4 0x18 8 (if base = 0 then 0 else min (fld b2 0x18 8) (0x800000 - base)) b2
  (b3, r1 ++ r2 ++ r3)

/-- POOL_CONFIG (R319, R378): answers the spine digest of the image so changed. -/
def doPoolConfig (c : Cmd) (s : State) : CmdOut :=
  if !cplAt c.params 0 64 then .fail s 0x0005
  else
    let (r1, rep1) := poolChecked (slice c.params 0 64)
    let (r, rep2) := poolCross r1
    let same := slice r 0 8 == slice s.cfg.pool 0 8 && slice r 0x20 5 == slice s.cfg.pool 0x20 5
    let s0 := if same then s else (List.finRange 4).foldl State.linkDown s
    let s1 := (s0.setCfg fun g => { g with pool := r }).spineNow.relink
    { st := s1, body := s1.stitch.spine, rep := rep1 ++ rep2 }

def execPoolConfig (c : Cmd) (s : State) : Host.Outcome State Fault Refusal :=
  .next (shortCmd 0x15 false (exactLen 128) doPoolConfig c s)

/-! ### HARQ_CONFIG (R205) -/

/-- HARQ_BASE, BUF_STRIDE, BUF_COUNT, SPILL_BASE, 8 bytes each (DESIGN CHOICE, log entry 8). -/
def harqFields (ddr : Nat) : List FSpec :=
  [⟨1, 0, 8, 1, multC 4096 0 (ddr - 4096)⟩, ⟨2, 8, 8, 1, multC 64 64 (max 64 ddr)⟩, ⟨3, 16, 8, 1, numC 1 65536⟩,
   ⟨4, 24, 8, 1, numC 0 (ddr - 4 * 0x400000)⟩]

/-- HARQ_CONFIG (R205, R400). The buffers counted lie in DDR5 (DEDUCED, log entry 39). -/
def doHarqConfig (c : Cmd) (s : State) : CmdOut :=
  if !cplAt c.params 0 32 then .fail s 0x0005
  else
    let (r0, rep0) := checkFields 0 (harqFields s.ddrBytes) (slice c.params 0 32)
    let most := max 1 ((s.ddrBytes - par8 r0 0) / par8 r0 1)
    let (r, rep1) := crossSet 0 3 16 8 (min (par8 r0 2) most) r0
    let h : HarqCfg := ⟨par8 r 0, par8 r 1, par8 r 2, par8 r 3⟩
    if !h.runs.all s.isProtected then .fail s 0x0009
    else { st := s.setCoding fun x => { x with harq := some h }, rep := rep0 ++ rep1 }

def execHarqConfig (c : Cmd) (s : State) : Host.Outcome State Fault Refusal :=
  .next (shortCmd 0x16 false (exactLen 64) doHarqConfig c s)

/-! ### Cell records (Table 16-7) -/

/-- Windows of R298: first field number and offset of each MIN, MAX pair. -/
def winPairs : List (Nat × Nat) := [(38, 0x3C), (40, 0x44), (42, 0x4C), (44, 0x54)]

/-- The legal value nearest to the one written, the lower of two equally near (KIND 0; DEDUCED, log entry 9). -/
def nearC (legal : List Nat) : Chk := fun v =>
  let d := fun a : Nat => (a - v) + (v - a)
  match legal with
  | [] => (v, [])
  | x :: r =>
    let w := r.foldl (fun b a => if d a < d b then a else b) x
    (w, if w = v then [] else [(0, v, w)])

/-- The fields of a cell record; `lanes` are the first lanes of the ports (FH_PORT; any lane in a pool, whose members' ports may
differ: DEDUCED, log entry 53), and `mu` is the numerology that bounds TIME_CORR. -/
def cellFields (mu : Nat) (lanes : List Nat) : List FSpec :=
  [⟨3, 0x04, 1, 1, enumC (· ≤ 1) 0⟩, ⟨4, 0x05, 1, 1, enumC (fun v => decide (v ≤ 63) || v == 255) 255⟩,
   ⟨5, 0x06, 1, 1, numC 0 3⟩, ⟨6, 0x07, 1, 1, numC 0 15⟩, ⟨7, 0x08, 2, 1, numC 0 9999⟩, ⟨8, 0x0A, 1, 1, enumC (· ≤ 2) 1⟩,
   ⟨9, 0x0B, 1, 1, maskC 3 anyC⟩, ⟨10, 0x0C, 2, 1, numC 1 273⟩, ⟨11, 0x0E, 1, 1, numC 1 32⟩, ⟨12, 0x0F, 1, 1, numC 1 32⟩,
   ⟨13, 0x10, 8, 1, anyC⟩, ⟨14, 0x18, 2, 1, intC 16 (-2048) 2048⟩,
   ⟨15, 0x1A, 2, 1, intC 16 (-((4608 / 2 ^ mu : Nat) : Int)) (4608 / 2 ^ mu : Nat)⟩]
  ++ [⟨16, 0x1C, 1, 1, numC 0 7⟩, ⟨17, 0x1D, 1, 1, numC 1 16⟩, ⟨18, 0x1E, 1, 1, anyC⟩, ⟨19, 0x1F, 1, 1, enumC (· ≤ 1) 1⟩,
   ⟨20, 0x20, 1, 1, numC 0 160⟩, ⟨21, 0x21, 1, 1, numC 2 6⟩, ⟨22, 0x22, 1, 1, intC 8 (-32) 32⟩,
   ⟨23, 0x23, 1, 1, enumC (· ≤ 2) 0⟩, ⟨24, 0x24, 2, 1, numC 16 4096⟩, ⟨25, 0x26, 2, 1, numC 0 4095⟩,
   ⟨26, 0x28, 2, 1, numC 10 1000⟩, ⟨27, 0x2A, 2, 1, numC 0 1024⟩, ⟨28, 0x2C, 1, 1, enumC (· ≤ 1) 0⟩,
   ⟨29, 0x2D, 1, 1, nearC lanes⟩, ⟨30, 0x2E, 1, 1, enumC (· ≤ 1) 0⟩, ⟨31, 0x2F, 1, 1, enumC (· ≤ 1) 1⟩,
   ⟨32, 0x30, 1, 1, enumC (· ≤ 1) 1⟩, ⟨33, 0x31, 1, 1, numC 1 16⟩, ⟨34, 0x32, 1, 1, numC 1 16⟩]
  ++ [⟨35, 0x33, 1, 1, numC 0 7⟩, ⟨36, 0x34, 2, 1, numC 0 4094⟩, ⟨37, 0x36, 6, 1, anyC⟩]
  ++ (List.range 8).map (fun i => ⟨38 + i, 0x3C + 4 * i, 4, 1, numC 0 999999⟩)
  ++ [⟨46, 0x5C, 2, 1, numC 1 256⟩, ⟨47, 0x5E, 2, 1, numC 20 300⟩,
   ⟨48, 0x60, 2, 4, enumC (fun v => decide (v ≤ 1023) || v == 0xFFFF) 0xFFFF⟩, ⟨49, 0x68, 2, 1, numC 1 4096⟩,
   ⟨50, 0x6A, 6, 1, rsvC⟩, ⟨51, 0x70, 2, 32, anyC⟩, ⟨52, 0xB0, 2, 32, anyC⟩, ⟨53, 0xF0, 2, 8, anyC⟩]

/-- Window pairs: a MIN above its MAX raises the MAX (R298). -/
def fixWindows (i : Nat) : List (Nat × Nat) → Bytes → Bytes × List Rep
  | [], b => (b, [])
  | (no, off) :: rest, b =>
    let lo := fld b off 4
    let (b1, r1) := crossSet i (no + 1) (off + 4) 4 (max lo (fld b (off + 4) 4)) b
    let (b2, r2) := fixWindows i rest b1
    (b2, r1 ++ r2)

/-- A record's bytes seen as a cell. -/
def asCell (b : Bytes) : Cell := { rcd := b }

def Cell.active (c : Cell) : Bool := fld c.rcd 4 1 == 1
def Cell.chip (c : Cell) : Nat := fld c.rcd 5 1
def Cell.where_ (c : Cell) : Nat := fld c.rcd 6 1

/-- Mantissa widths as they count: 16 where nothing is compressed (R296). -/
def Cell.upW (c : Cell) : Nat := if fld c.rcd 0x2F 1 = 0 then 16 else c.ulWidth
def Cell.downW (c : Cell) : Nat := if fld c.rcd 0x2F 1 = 0 then 16 else c.dlWidth

/-- Bytes of a stream-symbol and of the slot store (R140). -/
def Cell.streamBytes (c : Cell) : Nat := c.nPrb * (1 + 3 * c.upW)
def Cell.storeBytes (c : Cell) : Nat := 14 * c.nRx * c.streamBytes

/-- PRACH eAxC IDs in use. -/
def Cell.prachIds (c : Cell) : List Nat := ((List.range 8).map fun i => fld c.rcd (0xF0 + 2 * i) 2).filter (· != 0xFFFF)

/-! ### Checks between fields (R375) -/

/-- Lanes of a port by its quad's layout (Table 13-1); 0 where the lane begins no port. -/
def portLanes (s : State) (p : Nat) : Nat :=
  let mode := (s.fe.quadMode.toList[p / 4]?).getD 0
  match mode.val with
  | 0 => 1
  | 1 => if p % 2 = 0 then 2 else 0
  | 2 => if p % 4 = 0 then 4 else 0
  | _ => 0

/-- The highest rate of a port in Gb/s (Table 13-2). -/
def portGbps (s : State) (p : Nat) : Nat :=
  let l := portLanes s p
  let m := match s.fe.ports.toList[p]? with | some x => x.speedMask.toNat | none => 0
  if bit m 2 then 100 * l else if bit m 1 then 50 * l else if bit m 0 && l == 1 then 25 else 0

/-- The uplink line rate that a cell needs on its port, in bit/s (R291). -/
def Cell.lineRate (c : Cell) (mtu : Nat) : Nat :=
  14 * c.nRx * (1000 * 2 ^ c.scs) * 8 * (c.streamBytes + 94 * ceilDiv c.streamBytes (mtu - 74))

/-- Egress bytes of one symbol (R30). -/
def Cell.egressBytes (c : Cell) : Nat := c.nTx * c.nPrb * (1 + 3 * c.downW)

/-- eAxC table entries (R294). -/
def Cell.eaxcCount (c : Cell) : Nat :=
  (if c.uplink then c.nRx else 0) + (if c.downlink then c.nTx else 0) + c.prachIds.length

/-- Cluster memory that the slot stores and JR areas of a cluster's cells need, in quarter bytes: the stores by size at
1, 3/4, 1/2, then 1/4 of a slot each (R16, R331; DEDUCED, log entry 33). -/
def memNeed4 (l : List Cell) : Nat :=
  let st := sortBy (fun a b => decide (b ≤ a)) ((l.filter (·.uplink)).map (·.storeBytes))
  ((st.zip (List.range st.length)).map fun p => p.1 * max 1 (4 - p.2)).sum
    + 4 * (l.map fun c => c.jrPeers.length * 2 * c.jrAreaBytes).sum

/-- The cells' stores and areas fit the quire-data space, the ring table and the ready objects. -/
def memFits (l : List Cell) : Bool :=
  decide (memNeed4 l ≤ 4 * 0x780000) && decide ((l.filter (·.uplink)).length ≤ 16)
    && decide ((l.map fun c => 2 * c.jrPeers.length).sum ≤ 120)

/-- The distinct models of a list of cells, by slot; none where one is not resident. -/
def modelsOf (s : State) (l : List Cell) : Option (List Nat) :=
  ((l.map (·.modelId)).filter (· != 0)).eraseDups.mapM s.modelSlotOf

/-- The models bound on a cluster leave the LC reserve and the downlink area their space (R165, R228). -/
def modelsFit (s : State) (n : Nat) (l : List Cell) : Bool :=
  match modelsOf s l with
  | none => false
  | some ms => residentFits s n (l.any (·.downlink)) ms

/-- What is left of a cluster's engine time for a cell's share (R234). -/
def shareLeft (l : List Cell) : Nat := 1024 - (l.map (·.share)).sum

/-- Take fields of the previous record in place of the ones written; each that differs is reported (KIND 3). A field stands by its
number, offset, element size and number of elements. -/
def keepFields (i : Nat) (p : Bytes) : List (Nat × Nat × Nat × Nat) → Bytes → Bytes × List Rep
  | [], r => (r, [])
  | (no, off, len, n) :: rest, r =>
    let reps := (List.range n).filterMap fun j =>
      let o := off + j * len
      if slice r o len = slice p o len then none else some ⟨3, i, no, j, low8 (fld r o len), low8 (fld p o len)⟩
    let x := keepFields i p rest (r.take off ++ slice p off (len * n) ++ r.drop (off + len * n))
    (x.1, reps ++ x.2)

/-- The fields of a cell's placement; those that its eAxC entries follow from; every field but the keys. -/
def placeFields : List (Nat × Nat × Nat × Nat) := [(4, 5, 1, 1), (5, 6, 1, 1)]
def eaxcFields : List (Nat × Nat × Nat × Nat) :=
  placeFields ++ [(9, 0x0B, 1, 1), (11, 0x0E, 1, 1), (12, 0x0F, 1, 1), (29, 0x2D, 1, 1), (36, 0x34, 2, 1), (51, 0x70, 2, 32),
    (52, 0xB0, 2, 32), (53, 0xF0, 2, 8)]
def allFields : List (Nat × Nat × Nat × Nat) := (cellFields 0 []).map fun f => (f.no, f.off, f.size, f.cnt)

/-- A cell that a check does not let be placed as written, nor with what the check's rule keeps: it keeps its whole previous record,
or stays unplaced (KIND 3; DESIGN CHOICE, log entry 53). -/
def keepOld (i : Nat) (prev : Option Bytes) (r : Bytes) : Bytes × List Rep :=
  match prev with
  | some p => keepFields i p allFields r
  | none => (setFld r 4 1 0, [⟨3, i, 3, 0, 1, 0⟩])

/-- A check with a test: the record as written, else with the fields kept that its rule names, else as `keepOld`. -/
def keepIf (ok : Bytes → Bool) (fs : List (Nat × Nat × Nat × Nat)) (i : Nat) (prev : Option Bytes) (r : Bytes) : Bytes × List Rep :=
  if ok r then (r, [])
  else match prev with
    | some p =>
      let x := keepFields i p fs r
      if ok x.1 then x else keepOld i prev r
    | none => keepOld i none r

/-- The checks after the slot store: CELL_SHARE (R234). -/
def fitShare (i : Nat) (here : List Cell) (r : Bytes) : Bytes × List Rep :=
  crossSet i 27 0x2A 2 (min (asCell r).share (shareLeft here)) r

/-- The cells of a list on the chip and cluster that a record names. -/
def beside (others : List Cell) (r : Bytes) : List Cell :=
  others.filter fun x => x.where_ == (asCell r).where_ && x.chip == (asCell r).chip

/-- Engines in service of the cluster that a record names. -/
def enginesFor (s : State) (r : Bytes) : Nat := if (asCell r).where_ < 4 then (s.inService (asCell r).where_).length else 0

/-- The checks on a record's space (R375): the models bound on its cluster (R165, R228), the slot stores and JR areas there (R16,
R31, R331). -/
def modelOk (s : State) (others : List Cell) (r : Bytes) : Bool := modelsFit s (enginesFor s r) (asCell r :: beside others r)
def storeOk (others : List Cell) (r : Bytes) : Bool := memFits (asCell r :: beside others r)

/-- Run checks in order on a record that stays active: each with its test and the fields that its rule keeps. -/
def runChecks (i : Nat) (prev : Option Bytes) : List ((Bytes → Bool) × List (Nat × Nat × Nat × Nat)) → Bytes → Bytes × List Rep
  | [], r => (r, [])
  | (ok, fs) :: rest, r =>
    let x := keepIf ok fs i prev r
    if !(asCell x.1).active then x
    else
      let y := runChecks i prev rest x.1
      (y.1, x.2 ++ y.2)

/-- The uplink load on a record's port stays within its rate (R291). -/
def portOk (s : State) (others : List Cell) (r : Bytes) : Bool :=
  let c := asCell r
  let mtu := match s.fe.ports.toList[c.fhPort]? with | some x => x.mtu | none => 9216
  let l := c :: others.filter fun x => x.uplink && x.fhPort == c.fhPort
  !c.uplink || decide ((l.map fun x => x.lineRate mtu).sum ≤ portGbps s c.fhPort * 1000000000)

/-- The egress of one symbol of the downlink cells fits the egress bank (R30). -/
def egressOk (others : List Cell) (r : Bytes) : Bool :=
  !(asCell r).downlink || decide (((asCell r :: others.filter (·.downlink)).map (·.egressBytes)).sum ≤ 0x400000)

/-- The eAxC entries of the chip's cells fit the table (R294). -/
def eaxcOk (others : List Cell) (r : Bytes) : Bool := decide (((asCell r :: others).map (·.eaxcCount)).sum ≤ 2048)

/-- The checks between fields of a record that places a cell on this chip (R375 steps 2 to 5). -/
def fitCell (s : State) (i : Nat) (prev : Option Bytes) (others : List Cell) (r : Bytes) : Bytes × List Rep :=
  let x := runChecks i prev
    [(portOk s others, [(29, 0x2D, 1, 1)]), (egressOk others, placeFields), (eaxcOk others, eaxcFields),
     (modelOk s others, [(13, 0x10, 8, 1)]), (storeOk others, placeFields)] r
  if !(asCell x.1).active then x
  else
    let y := fitShare i (beside others x.1) x.1
    (y.1, x.2 ++ y.2)

/-! ### Placement for PLACE_CHIP 0xFF (R336) -/

/-- A cluster has room for a cell beside those it holds (R16, R165, R234). -/
def hasRoom (s : State) (here : List Cell) (c : Cell) : Bool :=
  memFits (c :: here) && modelsFit s 4 (c :: here) && decide (c.share ≤ shareLeft here)

/-- The chip and cluster with the fewest cells of the timing group, then the fewest cells, the lowest chip, the lowest
cluster, among those with room. -/
def autoPlace (s : State) (placed : List Cell) (c : Cell) : Option (Nat × Nat) :=
  let all := (List.range s.poolSize).flatMap fun ch => (List.range 4).map fun k => (ch, k)
  let at_ := fun (p : Nat × Nat) => placed.filter fun x => x.chip == p.1 && x.where_ == p.2
  let key := fun (p : Nat × Nat) =>
    [((at_ p).filter (·.timingGroup == c.timingGroup)).length, (at_ p).length, p.1, p.2]
  (sortBy (fun a b => decide (key a ≤ key b)) (all.filter fun p => hasRoom s (at_ p) c)).head?

/-! ### SLOT_CONFIG (R377) -/

/-- The records taken so far: the image by key, the report, cells applied, keys asked to be placed here. -/
structure SlotAcc where
  img : Table Bytes
  rep : List Rep
  applied : Nat
  asked : List Nat

/-- Take one record (R374, R375): single fields, window pairs, then the checks of a placement. -/
def takeCell (s : State) (a : SlotAcc) (i : Nat) (b : Bytes) : SlotAcc :=
  let pool := decide (1 < s.poolSize)
  let key := if pool then fld b 2 2 else fld b 0 2
  if (if pool then 1023 else 63) < key then
    { a with rep := a.rep ++ [⟨4, i, if pool then 2 else 1, 0, key, 0⟩] }
  else
    let mu := if fld b 0x0A 1 ≤ 2 then fld b 0x0A 1 else 1
    let (r1, rep1) := checkFields i (cellFields mu ((List.range 8).filter fun p => pool || portLanes s p != 0)) b
    let (r2, rep2) := fixWindows i winPairs r1
    let r3 := if pool then r2 else setFld r2 5 1 s.chip
    let prev := match tget? a.img key with
      | some p => if (asCell p).active then some p else none
      | none => none
    let placed := ((a.img.filter fun p => p.1 != key).map fun p => asCell p.2).filter (·.active)
    let (r4, rep4) :=
      if !(asCell r3).active then (r3, [])
      else if pool && (asCell r3).chip == 255 then
        match autoPlace s placed (asCell r3) with
        | some (ch, k) => (setFld (setFld r3 5 1 ch) 6 1 k, [])
        | none => keepOld i none r3
      else (r3, [])
    let here := (asCell r4).chip == s.chip
    let (r5, rep5) := if (asCell r4).active && here
      then fitCell s i prev (placed.filter (·.chip == s.chip)) r4 else (r4, [])
    { img := tset a.img key r5, rep := a.rep ++ rep1 ++ rep2 ++ rep4 ++ rep5, applied := a.applied + 1,
      asked := if (asCell r3).active && here then a.asked ++ [key] else a.asked }

/-- The cells of this chip by local index: the key outside a pool, the rank in the pool cell numbers inside (R336). -/
def localCells (s : State) (img : Table Bytes) : List (Nat × Nat × Bytes) :=
  if 1 < s.poolSize then
    let l := img.filter fun p => (asCell p.2).active && (asCell p.2).chip == s.chip
    ((List.range l.length).zip l).take 64
  else img.map fun p => (p.1, p.1, p.2)

/-- A FULL quire that is not saved is on the cluster (R239). -/
def State.fullOn (s : State) (k : Fin 4) : Bool :=
  (s.startedOn k).any fun q => !q.saved && (match q.prog with | some p => p.full | none => false)

/-- The cell of a record, keeping what a cell that stays placed has (R297). A clock of another slot length does not go on
(DEDUCED, log entry 58). -/
def newCell (s : State) (key : Nat) (b : Bytes) : Cell :=
  let c := asCell b
  let k : Fin 4 := if h : c.where_ < 4 then ⟨c.where_, h⟩ else 0
  let old := s.cfg.cells.find? fun p => p.2.poolCell == key
  let stays := c.active && match old with | some (_, o) => o.placed | none => false
  let timed := stays && match old with | some (_, o) => o.scs == c.scs | none => false
  let wait := c.active && !(stays && match old with | some (_, o) => o.cluster == k | none => false) && s.fullOn k
  { rcd := b, placed := c.active && !wait, waitFull := wait, cluster := k, poolCell := key,
    markMissing := match old with | some (_, o) => o.markMissing | none => 0
    clock := if timed then (match old with | some (_, o) => o.clock | none => none) else none
    clocks := if timed then (match old with | some (_, o) => o.clocks | none => []) else []
    number := if timed then (match old with | some (_, o) => o.number | none => none) else none
    cpUl := if timed then (match old with | some (_, o) => o.cpUl | none => 0) else 0
    cpDl := if timed then (match old with | some (_, o) => o.cpDl | none => 0) else 0
    resume := if timed then (match old with | some (_, o) => o.resume | none => 0) else 0 }

/-- The eAxC entries of a cell (R294): port, VLAN, ID, cell, direction, stream. -/
def eaxcOf (i : Nat) (c : Cell) : List (Nat × Nat × Nat × Nat × Nat × Nat) :=
  let e := fun (dir off n : Nat) => (List.range n).map fun j => (c.fhPort, fld c.rcd 0x34 2, fld c.rcd (off + 2 * j) 2, i, dir, j)
  (if c.uplink then e 0 0x70 c.nRx else []) ++ (if c.downlink then e 1 0xB0 c.nTx else [])
    ++ (e 2 0xF0 8).filter fun x => x.2.2.1 != 0xFFFF

/-- Sequence numbers of the eAxC entries that stay, at their new positions (R293). -/
def keepSeq (s : State) (eaxc : List (Nat × Nat × Nat × Nat × Nat × Nat)) (t : Table Nat) : Table Nat :=
  ((List.range eaxc.length).zip eaxc).filterMap fun p =>
    (s.fe.eaxc.findIdx? (· == p.2)).bind fun i => (tget? t i).map fun q => (p.1, q)

/-- Give a placed uplink cell its slot store: a ring-table entry of its cluster, with its release object (R140, R150). A
store keeps its entry while its size and cluster stay. -/
def placeRing (s : State) (i : Nat) (c : Cell) : State :=
  let mine := s.fe.rings.find? fun p => p.2.cell == i && p.1 / 16 == c.cluster.val && p.2.len == c.storeBytes
  match mine with
  | some (n, r) => s.setFe fun f => { f with rings := tset f.rings n { r with need := c.ringReleaseN } }
  | none =>
    let k := c.cluster
    match ((List.range 16).map (16 * k.val + ·)).find? (fun n => (tget? s.fe.rings n).isNone) with
    | none => s
    | some n =>
      let win := (s.startedOn k).flatMap (fun q => [q.qd, q.code])
        ++ (s.stitch.jr.filter fun p => p.2.cluster == k).map (fun p => ⟨p.2.base, p.2.bytes⟩)
      let base := match firstFit 64 0x80000 0x800000 c.storeBytes (s.memBusy k) with
        | some a => a
        | none => (firstFit 64 0x80000 0x800000 c.storeBytes win).getD 0x80000
      let obj := 0x4010 + n % 16
      (s.putObj k obj {}).setFe fun f =>
        { f with rings := tset f.rings n
                   { base := base, len := c.storeBytes, releaseObj := obj, need := c.ringReleaseN, cell := i } }

/-- Give a cell its JR areas: two halves for each peer, each with a ready object (R331). -/
def placeJr (s : State) (i : Nat) (c : Cell) : State :=
  (List.range c.jrPeers.length).foldl (fun s p =>
    (List.range 2).foldl (fun s h =>
      let key := i * 8 + p * 2 + h
      match tget? s.stitch.jr key with
      | some x => if x.cluster = c.cluster ∧ x.bytes = c.jrAreaBytes then s else s
      | none =>
        let k := c.cluster
        let used := (s.stitch.jr.filter fun x => x.2.cluster == k).map (·.2.readyObj)
        let obj := ((List.range 120).map (0x4088 + ·)).find? fun o => !used.contains o
        match obj, firstFit 64 0x80000 0x800000 c.jrAreaBytes (s.memBusy k) with
        | some o, some a =>
          (s.putObj k o {}).setStitch fun t =>
            { t with jr := tset t.jr key { readyObj := o, base := a, bytes := c.jrAreaBytes, cluster := k } }
        | _, _ => s) s) s

/-- ACTIVE while a cell is placed, else QUIET: entered and left automatically (Table 18-2). While a cell is placed the PLLs
run (R405). -/
def State.autoPower (s : State) : State :=
  if s.lanesOn then
    if s.cfg.cells.any fun p => p.2.placed || p.2.waitFull then
      s.setPower fun p => { p with state := .active, pllStandby := [] }
    else s.setPower fun p => { p with state := .quiet }
  else s

/-- The front end gives up the open slots and the waiting records of cells that are removed from service (DEDUCED, log entry
58): a slot whose quire is released ends with its quire. -/
def forgetCells (stays : Nat → Bool) (f : FrontEnd) : FrontEnd :=
  let gone := fun (u : UlCtx) => !u.released && !stays u.cell
  let held := ((f.ul.filter fun p => gone p.2).map fun p => (p.2.syms.map (·.gran)).sum).sum
  { f with
    ul := f.ul.filter fun p => !gone p.2
    granules := f.granules - held
    ulRecs := f.ulRecs.filter fun p => stays (p.1 / 2 ^ 32)
    dlRecs := f.dlRecs.filter fun p => stays (p.1 / 2 ^ 32)
    dciRecs := f.dciRecs.filter fun p => stays (p.1 / 2 ^ 32)
    txRecs := f.txRecs.filter fun p => stays (p.1 / 2 ^ 32)
    recOrder := f.recOrder.filter fun p => stays p.1 }

/-- The state with the cells of an image in force: tables of the front end, slot stores, JR areas, power state. -/
def applyCells (s : State) (img : Table Bytes) : State :=
  let cells : Table Cell := (localCells s img).map fun p => (p.1, newCell s p.2.1 p.2.2)
  let s1 := s.setCfg fun g => { g with cells := cells, poolCells := img }
  let on := cells.filter fun p => p.2.placed || p.2.waitFull
  let stays := fun (i : Nat) => on.any (fun p => p.1 == i) && match s.cell? i, s1.cell? i with
    | some a, some b => a.poolCell == b.poolCell
    | _, _ => true
  let eaxc := on.flatMap fun p => eaxcOf p.1 p.2
  let s2 := s1.setFe fun f =>
    { forgetCells stays f with
      eaxc := eaxc
      seqSeen := keepSeq s eaxc s.fe.seqSeen
      seqSent := keepSeq s eaxc s.fe.seqSent
      seqCtl := keepSeq s eaxc s.fe.seqCtl
      rings := f.rings.filter fun r =>
        on.any (fun p => p.1 == r.2.cell && p.2.uplink && p.2.cluster.val == r.1 / 16 && p.2.storeBytes == r.2.len)
          || s.quires.any fun q => q.2.kind == .slotReception && q.2.started && q.2.owner == r.2.cell && q.2.cluster.val == r.1 / 16 }
  let s3 := s2.setStitch fun t =>
    { t with jr := t.jr.filter fun h => on.any fun p =>
        p.1 == h.1 / 8 && p.2.cluster == h.2.cluster && p.2.jrAreaBytes == h.2.bytes
          && decide (h.1 % 8 / 2 < p.2.jrPeers.length) }
  let s4 := on.foldl (fun s p => placeJr s p.1 p.2) s3
  let s5 := (on.filter (·.2.uplink)).foldl (fun s p => placeRing s p.1 p.2) s4
  let comes := fun (q : Quire) (i : Nat) => stays i && on.any (fun p => p.1 == i && p.2.cluster == q.cluster)
    || s.quires.any (fun x => x.2.kind == .slotReception && x.2.cluster == q.cluster && x.2.owner == i && x.2.state.open_)
  (refit { s5 with quires := tmap s5.quires fun _ q => { q with evictFor := q.evictFor.filter (comes q) } }).autoPower

/-- SLOT_CONFIG (R375, R377, R407): every record is taken in order and applied at the commit point; a cell that no check
lets be placed is reported, and one placed on a cluster without engines (R36). -/
def doSlotConfig (c : Cmd) (_snap : Bytes) (s : State) : CmdOut :=
  let pairs := chunks 512 c.params
  if !pairs.all (fun b => cplAt b 0 256) then .fail s 0x0005
  else if s.power.state = .standby ∧ pairs.any (fun b => fld b 4 1 == 1) then .fail s 0x0009
  else
    let a := (pairs.zip (List.range pairs.length)).foldl (fun a p => takeCell s a p.2 (p.1.take 256))
      ({ img := s.cfg.poolCells, rep := [], applied := 0, asked := [] } : SlotAcc)
    let lost := a.asked.filter fun k => match tget? a.img k with | some b => !(asCell b).active | none => true
    let s1 := (applyCells s a.img).spineChanged
    let bare := a.asked.filter fun k => match tget? a.img k with
      | some b => (asCell b).active && enginesFor s b == 0
      | none => false
    let s2 := bare.foldl (fun s k => s.event 0x05 k (toLE 4 k ++ toLE 4 0))
      (lost.foldl (fun s k => s.event 0x05 k (toLE 4 k ++ toLE 4 1)) s1)
    { st := s2, body := join8 [a.applied, lost.length], rep := a.rep }

/-- One to 1,024 records, each with its complement. -/
def slotLen (l : Nat) : Bool := decide (0 < l ∧ l % 512 = 0 ∧ l ≤ 1024 * 512)

def execSlotConfig (c : Cmd) (s : State) : Host.Outcome State Fault Refusal :=
  .next (longCmd 0x12 false slotLen (fun _ => []) doSlotConfig c s)

end Sys2Proof.Machine
end

