-- ==== Sys2Proof/Machine/VectorOps.lean ====
section
/-!
DEFINITION. The vector engine's shared operations (R90 to R110, R449): stage words, the arithmetic of every class on one
lane, permutes, reductions, and the memory forms of lanes.
-/

namespace Sys2Proof.Machine
open Sys2Proof

/-! ### Stage words (Table 6-5, R116) -/

/-- A stage word by field. -/
structure Stg where
  opc : Nat
  /-- Register format: 0 INT32, 1 FP32, 2 CI16, 3 CF16. -/
  rf : Nat
  sat : Bool
  k : Nat
  a : Nat
  b : Nat
  c : Nat
  imm : Int
  sub : Nat
deriving DecidableEq, Repr

def stgOf (w : BitVec 64) : Stg :=
  let n := w.toNat
  { opc := bits n 56 8, rf := bits n 54 2, sat := bit n 53, k := bits n 47 6, a := bits n 39 8, b := bits n 31 8,
    c := bits n 23 8, imm := sx 16 (bits n 7 16), sub := bits n 0 7 }

/-- Class and position of an operation code (R116). -/
def Stg.cls (t : Stg) : Nat := t.opc / 16
def Stg.pos (t : Stg) : Nat := t.opc % 16

/-- How many instructions each class of Table 5-2 has, from integer arithmetic to lane move. -/
def classSize : List Nat := [12, 5, 9, 3, 6, 1, 1, 1, 1, 4, 1, 8, 2]

/-- The code is not reserved. -/
def Stg.known (t : Stg) : Bool := decide (t.pos < classSize.getD t.cls 0)

/-- The memory format whose pattern a register format holds. -/
def rfFmt : Nat → Nat
  | 0 => 3 | 1 => 8 | 2 => 9 | _ => 10

/-- The register format of one part of a complex one: INT32 or FP32. -/
def rfPart : Nat → Nat
  | 2 => 0 | 3 => 1 | f => f

/-- The register format a memory format loads to (R91); none where a vector access does not take it. -/
def memRf (f : Nat) : Option Nat :=
  if f = 0 ∨ f = 1 ∨ f = 2 ∨ f = 3 ∨ f = 5 then some 0
  else if f = 6 ∨ f = 7 ∨ f = 8 then some 1
  else if f = 9 then some 2
  else if f = 10 then some 3
  else none

/-- Stage-unit cost (Table 5-2). -/
def Stg.cost (t : Stg) : Nat := if t.cls = 3 ∨ t.cls = 8 then 4 else 1

def Stg.isRed (t : Stg) : Bool := t.cls == 10
def Stg.isUnpack (t : Stg) : Bool := t.opc == 0x93
/-- ARGMAX or ARGMIN. -/
def Stg.isArg (t : Stg) : Bool := t.isRed && (t.sub == 4 || t.sub == 5)

/-- The register format permitted to the instruction (Tables 5-2 and 5-4, R91). -/
def Stg.formatOk (t : Stg) : Bool :=
  match t.cls with
  | 0 => t.rf == 0
  | 1 => t.rf == 0
  | 2 => t.rf == 1
  | 3 => t.rf == 1
  | 4 => decide (2 ≤ t.rf)
  | 5 => decide (t.rf ≤ 1)
  | 7 => cvtListed (rfFmt (t.sub % 4)) (rfFmt t.rf)
  | 8 => t.rf == 1
  | 9 => decide (t.pos < 2 ∨ 2 ≤ t.rf)
  | 10 => t.sub == 0 || (if 7 ≤ t.sub then t.rf == 0 else decide (t.rf ≤ 1))
  | _ => true

/-- Which of the three sources an instruction reads. -/
def Stg.uses (t : Stg) : List Bool :=
  match t.cls with
  | 0 => if t.pos = 4 then [true, true, true] else if t.pos = 5 ∨ t.pos = 6 then [true] else [true, true]
  | 1 => if t.pos = 4 then [true] else [true, true]
  | 2 => if t.pos = 3 then [true, true, true] else if t.pos = 6 ∨ t.pos = 7 then [true] else [true, true]
  | 3 => if t.pos = 0 then [true, true] else [true]
  | 4 => if t.pos = 4 then [true] else [true, true]
  | 5 => [true, true]
  | 6 => [true, true, true]
  | 9 => if t.pos = 0 then [true, true, true]
         else if t.pos = 1 then (if 2 ≤ t.sub ∧ t.sub ≤ 6 then [true, true] else [true])
         else if t.pos = 2 then [true, true] else [true]
  | 11 => if t.pos < 4 then [true, true] else [true]
  | _ => [true]

/-- The source codes an instruction reads. -/
def Stg.srcs (t : Stg) : List Nat := ((t.uses.zip [t.a, t.b, t.c]).filter (·.1)).map (·.2)

/-- The register format a source is read in (R106, R449). -/
def Stg.srcRf (t : Stg) (j : Nat) : Nat :=
  if t.opc = 0x45 ∧ j = 1 then rfPart t.rf
  else if t.opc = 0x92 then rfPart t.rf
  else if t.cls = 7 then t.sub % 4
  else t.rf

/-- The register format of the temporary a stage produces. -/
def Stg.outRf (t : Stg) : Nat :=
  if t.opc = 0x44 ∨ t.isUnpack then rfPart t.rf else if t.cls = 5 then 0 else t.rf

/-- The range of n of a SHUF pattern (Table 5-5). -/
def shufOk (p : Nat) (n : Int) : Bool :=
  match p with
  | 0 => true
  | 1 => decide (0 ≤ n ∧ n < 64)
  | 2 => decide (0 ≤ n ∧ n < 64)
  | 7 => [1, 2, 4, 8, 16, 32].contains n
  | 8 => decide (0 ≤ n ∧ n < 64)
  | _ => decide (p < 9)

/-- The variant is one that R116 lists. -/
def Stg.subOk (t : Stg) (acts : Table (List Nat)) : Bool :=
  match t.cls with
  | 5 => decide (t.sub < 6)
  | 7 => decide (t.sub < 4)
  | 8 => (tget? acts t.sub).isSome
  | 9 => t.pos != 1 || shufOk t.sub t.imm
  | 10 => decide (t.sub < 10)
  | 12 => decide (0 ≤ t.imm ∧ t.imm < 64)
  | _ => true

/-- An operand code that is not reserved. -/
def opndOk (x : Nat) : Bool := decide (x ≤ 0x6A ∨ (0x70 ≤ x ∧ x ≤ 0x77) ∨ x = 0xFF)

def isV (x : Nat) : Bool := decide (x < 0x20)
def isS (x : Nat) : Bool := decide (0x20 ≤ x ∧ x < 0x60)
def isT (x : Nat) : Bool := decide (0x60 ≤ x ∧ x < 0x68)
def isL (x : Nat) : Bool := x == 0x68 || x == 0x69
def isM (x : Nat) : Bool := decide (0x70 ≤ x ∧ x < 0x78)

/-- The s registers that a list of operand codes reads. -/
def sRegs (l : List Nat) : List Nat := (l.filter isS).map (· - 0x20)

/-! ### Registers of an engine -/

/-- Sixty-four zero lanes. -/
def lanes0 : List Nat := List.replicate 64 0

def Engine.getV (e : Engine) (n : Nat) : List Nat := tget e.v n lanes0

/-- A mask register; m0 reads as all ones (R101). -/
def Engine.getM (e : Engine) (n : Nat) : Nat := if n = 0 then 2 ^ 64 - 1 else tget e.m n 0

/-- Write a vector register under the governing mask (R101). -/
def Engine.setV (e : Engine) (n gm : Nat) (mz : Bool) (l : List Nat) : Engine :=
  let old := e.getV n
  let w := (List.range 64).map fun i => if bit gm i then l.getD i 0 else if mz then 0 else old.getD i 0
  { e with v := tset e.v n w }

/-- Write a mask register; writes to m0 are ignored (R101). -/
def Engine.setM (e : Engine) (n v : Nat) : Engine := if n = 0 then e else { e with m := tset e.m n v }

def Engine.addFlags (e : Engine) (f : Sticky) : Engine := { e with flags := e.flags.or f }

/-- The pattern of an immediate in a register format (R94). -/
def immPat (rf : Nat) (i : Int) : Nat :=
  match rf with
  | 0 => lowBits 32 i
  | 1 => to32 (fofInt i)
  | 2 => lowBits 16 i
  | _ => fencode fp16 (fofInt i)

/-- What a stage's sources may be: the engine, the core's scalars, and in a chain the temporaries and streams. -/
structure VEnv where
  eng : Engine
  core : Core
  temps : List (List Nat) := []
  l0 : List Nat := []
  l1 : List Nat := []

/-- The 64 lanes of a source; a mask as a source gives its bits (R94, R96). -/
def VEnv.lanes (v : VEnv) (x rf : Nat) (imm : Int) : List Nat :=
  if isV x then v.eng.getV x
  else if isS x then List.replicate 64 ((v.core.getS (x - 0x20)).toNat % 2 ^ 32)
  else if isT x then v.temps.getD (x - 0x60) lanes0
  else if x = 0x68 then v.l0
  else if x = 0x69 then v.l1
  else if x = 0x6A then List.replicate 64 (immPat rf imm)
  else if isM x then (List.range 64).map fun i => if bit (v.eng.getM (x - 0x70)) i then 1 else 0
  else lanes0

/-! ### One lane (R93, R106, R109, R449) -/

/-- The two results of a lane, the second only for UNPACKC, and the flags. -/
abbrev LaneOut := Nat × Nat × Sticky

def out1 (p : Nat × Sticky) : LaneOut := (p.1, 0, p.2)

/-- Signed value of an INT32 lane. -/
def s32 (x : Nat) : Int := sx 32 x

/-- Fit an exact integer to INT32 under the saturation bit. -/
def fit32 (sat : Bool) (x : Int) : Nat × Sticky :=
  let (y, f) := fitInt sat 32 x
  (lowBits 32 y, f)

/-- Integer arithmetic (class 0). -/
def laneInt (pos : Nat) (sat : Bool) (a b c : Nat) : Nat × Sticky :=
  let x := s32 a
  let y := s32 b
  let n := b % 32
  match pos with
  | 0 => fit32 sat (x + y)
  | 1 => fit32 sat (x - y)
  | 2 => fit32 sat (x * y)
  | 3 => (lowBits 32 ((x * y) / (2 ^ 32 : Nat)), {})
  | 4 => fit32 sat (x * y + s32 c)
  | 5 => fit32 sat (x.natAbs : Int)
  | 6 => fit32 sat (-x)
  | 7 => (if y < x then b else a, {})
  | 8 => (if x < y then b else a, {})
  | 9 => fit32 sat (x * (2 ^ n : Nat))
  | 10 => (lowBits 32 (shiftRound x n), {})
  | _ => (a / 2 ^ n, {})

/-- Bitwise logic (class 1) on 32 bits. -/
def laneLogic (pos a b : Nat) : Nat :=
  match pos with
  | 0 => a &&& b
  | 1 => a ||| b
  | 2 => a ^^^ b
  | 3 => a &&& (b ^^^ 0xFFFFFFFF)
  | _ => a ^^^ 0xFFFFFFFF

/-- Give a value the sign of a pattern. -/
def withSign (b : Nat) (v : FVal) : FVal :=
  match fabsV v with
  | .nan => .nan
  | .inf _ => .inf (bit b 31)
  | .fin _ m e => .fin (bit b 31) m e

/-- The result of a float operation (classes 2 and 3), not yet rounded. -/
def floatVal (cls pos : Nat) (b : Nat) (x y z : FVal) : FVal :=
  match cls, pos with
  | 2, 0 => faddV x y
  | 2, 1 => faddV x (fneg y)
  | 2, 2 => fmulV x y
  | 2, 3 => faddV (fmulV x y) z
  | 2, 4 => fminmaxV false x y
  | 2, 5 => fminmaxV true x y
  | 2, 6 => fabsV x
  | 2, 7 => fneg x
  | 2, _ => withSign b x
  | _, 0 => fdivV x y
  | _, 1 => fsqrtV x
  | _, _ => frsqrtV x

/-- A NaN from operands that are none is an invalid operation (PRESUMED, log entry 24). -/
def invalidOp (r : FVal) (ops : List FVal) : Sticky := stInval (r.isNan && !ops.any FVal.isNan)

/-- Float arithmetic, division and roots: one rounding (R449). -/
def laneFloat (t : Stg) (a b c : Nat) : Nat × Sticky :=
  let used := t.uses
  let ops := ((used.zip [a, b, c]).filter (·.1)).map (·.2)
  let r := floatVal t.cls t.pos b (f32 a) (f32 b) (f32 c)
  let (p, f) := fitFloat t.sat fp32 r
  (p, f.or ((stInval (ops.any (isSnan fp32))).or (invalidOp r (ops.map f32))))

/-- The parts of a complex operation on exact parts (class 4): real and imaginary. -/
def cplxInt (pos : Nat) (a b : Int × Int) : Int × Int :=
  match pos with
  | 0 => (a.1 + b.1, a.2 + b.2)
  | 1 => (a.1 - b.1, a.2 - b.2)
  | 2 => (a.1 * b.1 - a.2 * b.2, a.1 * b.2 + a.2 * b.1)
  | 3 => (a.1 * b.1 + a.2 * b.2, a.2 * b.1 - a.1 * b.2)
  | 4 => (a.1 * a.1 + a.2 * a.2, 0)
  | _ => (a.1 * b.1, a.2 * b.1)

def cplxFlt (pos : Nat) (a b : FVal × FVal) : FVal × FVal :=
  match pos with
  | 0 => (faddV a.1 b.1, faddV a.2 b.2)
  | 1 => (faddV a.1 (fneg b.1), faddV a.2 (fneg b.2))
  | 2 => (faddV (fmulV a.1 b.1) (fneg (fmulV a.2 b.2)), faddV (fmulV a.1 b.2) (fmulV a.2 b.1))
  | 3 => (faddV (fmulV a.1 b.1) (fmulV a.2 b.2), faddV (fmulV a.2 b.1) (fneg (fmulV a.1 b.2)))
  | 4 => (faddV (fmulV a.1 a.1) (fmulV a.2 a.2), .fin false 0 0)
  | _ => (fmulV a.1 b.1, fmulV a.2 b.1)

def ci16Val (x : Nat) : Int × Int := (sx 16 x, sx 16 (x / 65536))
def cf16Val (x : Nat) : FVal × FVal := (fdecode fp16 (x % 65536), fdecode fp16 (x / 65536 % 65536))
def cf16Snan (x : Nat) : Bool := isSnan fp16 (x % 65536) || isSnan fp16 (x / 65536 % 65536)

/-- Shift, round, then wrap or clamp to `n` bits (R449). -/
def fitShift (sat : Bool) (n k : Nat) (x : Int) : Nat × Sticky :=
  let (y, f) := fitInt sat n (shiftRound x k)
  (lowBits n y, f)

/-- Complex arithmetic (class 4, R449): CSCALE's real lane is INT32 or FP32. -/
def laneCplx (t : Stg) (a b : Nat) : Nat × Sticky :=
  if t.rf = 2 then
    let y := if t.pos = 5 then (s32 b, 0) else ci16Val b
    let (re, im) := cplxInt t.pos (ci16Val a) y
    if t.pos = 4 then fitShift t.sat 32 t.k re
    else
      let (p, f) := fitShift t.sat 16 t.k re
      let (q, g) := fitShift t.sat 16 t.k im
      (cplxOf p q, f.or g)
  else
    let x := cf16Val a
    let y := if t.pos = 5 then (f32 b, f32 b) else cf16Val b
    let (re, im) := cplxFlt t.pos x y
    let sn := stInval (cf16Snan a || (if t.pos = 4 then false else if t.pos = 5 then isSnan fp32 b else cf16Snan b))
    let ops := if t.pos = 4 then [x.1, x.2] else [x.1, x.2, y.1, y.2]
    if t.pos = 4 then
      let (p, f) := fitFloat t.sat fp32 re
      (p, f.or (sn.or (invalidOp re ops)))
    else
      let (p, f) := fitFloat t.sat fp16 re
      let (q, g) := fitFloat t.sat fp16 im
      (cplxOf p q, (f.or g).or (sn.or ((invalidOp re ops).or (invalidOp im ops))))

/-- A condition of CMP (R116) on an order. -/
def condBy (code : Nat) (c : Int) : Bool :=
  match code with
  | 0 => decide (c ≥ 0) | 1 => decide (c > 0) | 2 => c == 0 | 3 => c != 0 | 4 => decide (c < 0) | _ => decide (c ≤ 0)

/-- Compare (class 5). -/
def laneCmp (t : Stg) (a b : Nat) : Bool × Sticky :=
  if t.rf = 0 then (condBy t.sub (s32 a - s32 b), {})
  else
    let x := f32 a
    let y := f32 b
    (if x.isNan || y.isNan then t.sub == 3 else condBy t.sub (fcmpIeee x y),
      stInval (isSnan fp32 a || isSnan fp32 b))

/-- The segment of a table for an input that is not NaN: the largest whose breakpoint it reaches (R109). -/
def actSegment (tab : List Nat) (x : FVal) : Nat :=
  ((tab.take 15).filter fun b => fcmpIeee (f32 b) x ≤ 0).length

/-- One ACT (R109). -/
def laneAct (t : Stg) (tab : List Nat) (a : Nat) : Nat × Sticky :=
  let x := f32 a
  if x.isNan then (fp32.qnan, stInval (isSnan fp32 a))
  else
    let s := actSegment tab x
    let c := fun j => tab.getD (16 + 4 * s + j) 0
    let fma := fun (p q : Nat) => faddV (fmulV (f32 p) x) (f32 q)
    let inv := fun (p q : Nat) => invalidOp (fma p q) [f32 p, x, f32 q]
    let p2 := to32 (fma (c 3) (c 2))
    let p1 := to32 (fma p2 (c 1))
    let (p0, g) := fitFloat t.sat fp32 (fma p1 (c 0))
    let sn := stInval ([c 0, c 1, c 2, c 3].any (isSnan fp32))
    (p0, g.or (sn.or ((inv (c 3) (c 2)).or ((inv p2 (c 1)).or (inv p1 (c 0))))))

/-- PACKC (R106): a narrowing, so the integer parts clamp (R51). -/
def lanePack (t : Stg) (a b : Nat) : Nat × Sticky :=
  if t.rf = 2 then
    let (p, f) := narrowInt (s32 a) t.k 16
    let (q, g) := narrowInt (s32 b) t.k 16
    (cplxOf (lowBits 16 p) (lowBits 16 q), stSat (f || g))
  else
    let (p, f) := fitFloat t.sat fp16 (f32 a)
    let (q, g) := fitFloat t.sat fp16 (f32 b)
    (cplxOf p q, (f.or g).or (stInval (isSnan fp32 a || isSnan fp32 b)))

/-- UNPACKC (R106): each part widened exactly. -/
def laneUnpack (t : Stg) (a : Nat) : LaneOut :=
  if t.rf = 2 then (lowBits 32 (ci16Val a).1, lowBits 32 (ci16Val a).2, {})
  else (to32 (cf16Val a).1, to32 (cf16Val a).2, stInval (cf16Snan a))

/-! ### Permutes (R104, R105) -/

/-- One lane of PERM. -/
def permLane (va vb : List Nat) (ix : Nat) : Nat :=
  let n := ix % 128
  if bit ix 7 then 0 else if n < 64 then va.getD n 0 else vb.getD (n - 64) 0

/-- One lane of SHUF (Table 5-5). -/
def shufLane (p n : Nat) (va vb : List Nat) (i : Nat) : Nat :=
  let a := fun j => va.getD j 0
  let b := fun j => vb.getD j 0
  match p with
  | 0 => a (63 - i)
  | 1 => a ((i + n) % 64)
  | 2 => if i + n < 64 then a (i + n) else b (i + n - 64)
  | 3 => if i % 2 = 0 then a (i / 2) else b ((i - 1) / 2)
  | 4 => if i % 2 = 0 then a (32 + i / 2) else b (32 + (i - 1) / 2)
  | 5 => if i < 32 then a (2 * i) else b (2 * i - 64)
  | 6 => if i < 32 then a (2 * i + 1) else b (2 * i - 63)
  | 7 => a (i ^^^ n)
  | _ => a n

/-! ### A stage over the active lanes -/

/-- One lane of a stage; `va`, `vb` are the whole sources, for permutes. SEL's selector lane is zero by its bit pattern, so a −0 is
not (DESIGN CHOICE, log entry 65). -/
def stageLane (t : Stg) (acts : Table (List Nat)) (va vb vc : List Nat) (i : Nat) : LaneOut :=
  let a := va.getD i 0
  let b := vb.getD i 0
  let c := vc.getD i 0
  match t.cls with
  | 0 => out1 (laneInt t.pos t.sat a b c)
  | 1 => out1 (laneLogic t.pos a b, {})
  | 2 => out1 (laneFloat t a b c)
  | 3 => out1 (laneFloat t a b c)
  | 4 => out1 (laneCplx t a b)
  | 5 => let (r, f) := laneCmp t a b
         (if r then 0xFFFFFFFF else 0, 0, f)
  | 6 => (if c != 0 then a else b, 0, {})
  | 7 => out1 ((cvtElem (rfFmt (t.sub % 4)) (rfFmt t.rf) t.k t.sat a).getD (0, {}))
  | 8 => out1 (laneAct t (tget acts t.sub []) a)
  | 9 => if t.pos = 0 then (permLane va vb c, 0, {})
         else if t.pos = 1 then (shufLane t.sub t.imm.toNat va vb i, 0, {})
         else if t.pos = 2 then out1 (lanePack t a b)
         else laneUnpack t a
  | _ => (a, 0, {})

/-- A stage over the active lanes: masked lanes compute nothing and set no flag (R101); a later permute that reads such a lane
of the temporary finds 0 (DESIGN CHOICE, log entry 65). -/
def stageRun (t : Stg) (v : VEnv) (act : Nat) : List Nat × List Nat × Sticky :=
  let va := v.lanes t.a (t.srcRf 0) t.imm
  let vb := v.lanes t.b (t.srcRf 1) t.imm
  let vc := v.lanes t.c (t.srcRf 2) t.imm
  let r : List LaneOut := (List.range 64).map fun i =>
    if bit act i then stageLane t v.eng.acts va vb vc i else (0, 0, {})
  (r.map (·.1), r.map (·.2.1), r.foldl (fun f x => f.or x.2.2) {})

/-! ### Reductions (R102, R103) -/

/-- The value of an element under reduction. -/
inductive RVal where
  | int (x : Int) | flt (x : Nat) | cint (a b : Int) | cflt (a b : Nat)
  | arg (v : FVal) (i : Nat)
deriving DecidableEq, Repr

/-- An element entering a reduction. -/
def rvalOf (t : Stg) (x i : Nat) : RVal × Sticky :=
  if t.isArg then
    if t.rf = 0 then (.arg (fofInt (s32 x)) i, {}) else (.arg (f32 x) i, stInval (isSnan fp32 x))
  else if 7 ≤ t.sub then (.int x, {})
  else match t.rf with
    | 0 => (.int (s32 x), {})
    | 1 => (.flt x, stInval (isSnan fp32 x))
    | 2 => (.cint (ci16Val x).1 (ci16Val x).2, {})
    | _ => (.cflt (to32 (cf16Val x).1) (to32 (cf16Val x).2), stInval (cf16Snan x))

/-- The better of two candidates: a NaN wins, then the larger or smaller, then the lower index (R103). -/
def argBetter (isMax : Bool) (v w : FVal) (i j : Nat) : Bool :=
  if v.isNan || w.isNan then v.isNan && (!w.isNan || decide (i < j))
  else
    let c := fcmpIeee v w
    if c = 0 then decide (i < j) else if isMax then decide (c > 0) else decide (c < 0)

/-- One step of a reduction, and its flag: a rounded FP32 step that overflows is infinite, or under the saturation bit the
largest finite value with SAT (R51, R102). -/
def redComb (t : Stg) (p q : RVal) : RVal × Sticky :=
  let step := fun v => fitFloat t.sat fp32 v
  match p, q with
  | .int a, .int b =>
    (match t.sub with
    | 1 => .int (wrapInt 32 (a * b))
    | 2 => .int (if a < b then b else a)
    | 3 => .int (if b < a then b else a)
    | 7 => .int ((a.toNat &&& b.toNat : Nat) : Int)
    | 8 => .int ((a.toNat ||| b.toNat : Nat) : Int)
    | 9 => .int ((a.toNat ^^^ b.toNat : Nat) : Int)
    | _ => .int (a + b), {})
  | .flt a, .flt b =>
    let r := match t.sub with
      | 1 => step (fmulV (f32 a) (f32 b))
      | 2 => (to32 (fminmaxV true (f32 a) (f32 b)), {})
      | 3 => (to32 (fminmaxV false (f32 a) (f32 b)), {})
      | _ => step (faddV (f32 a) (f32 b))
    (.flt r.1, r.2)
  | .cint a b, .cint c d => (.cint (a + c) (b + d), {})
  | .cflt a b, .cflt c d =>
    let x := step (faddV (f32 a) (f32 c))
    let y := step (faddV (f32 b) (f32 d))
    (.cflt x.1 y.1, x.2.or y.2)
  | .arg v i, .arg w j => (if argBetter (t.sub == 4) v w i j then p else q, {})
  | _, _ => (p, {})

/-- The identity of a reduction; ARGMAX and ARGMIN have none (Table 5-4). -/
def redIdent (t : Stg) : Option RVal :=
  if t.isArg then none
  else match t.sub with
    | 1 => some (if t.rf = 0 then .int 1 else .flt 0x3F800000)
    | 2 => some (if t.rf = 0 then .int (-(2 ^ 31)) else .flt (fp32.infBits + fp32.signBit))
    | 3 => some (if t.rf = 0 then .int (2 ^ 31 - 1) else .flt fp32.infBits)
    | 7 => some (.int 0xFFFFFFFF)
    | 8 => some (.int 0)
    | 9 => some (.int 0)
    | _ => some (match t.rf with
        | 0 => .int 0 | 1 => .flt 0 | 2 => .cint 0 0 | _ => .cflt 0 0)

/-- A running value of a reduction with the flags of the steps that made it. -/
abbrev RedVal := Option (RVal × Sticky)

/-- Combine where both sides have a value. -/
def redOpt (t : Stg) : RedVal → RedVal → RedVal
  | none, q => q
  | p, none => p
  | some (a, f), some (b, g) => let r := redComb t a b
                                some (r.1, (f.or g).or r.2)

/-- A reduction in progress: running values by lane, elements counted, flags. -/
structure RedRun where
  run : List RedVal := List.replicate 64 none
  n : Nat := 0
  flags : Sticky := {}

/-- Feed the active lanes of one iteration, whose first index is `base`. -/
def RedRun.feed (t : Stg) (x : List Nat) (act base : Nat) (r : RedRun) : RedRun :=
  (List.range 64).foldl (fun (r : RedRun) i =>
    if bit act i then
      let (v, f) := rvalOf t (x.getD i 0) (base + i)
      { run := listMod r.run i (fun p => redOpt t p (some (v, {}))), n := r.n + 1, flags := r.flags.or f }
    else r) r

/-- The result of a reduction: its 32-bit pattern, and its flags (R102, R103). -/
def RedRun.done (t : Stg) (r : RedRun) : Nat × Sticky :=
  let vals := r.run.map fun p => match p with | some v => some v | none => (redIdent t).map fun v => (v, ({} : Sticky))
  let top : RedVal := (treeR 6 vals).headD none
  let em : Sticky := (r.flags.or { empty := r.n == 0 }).or (match top with | some x => x.2 | none => {})
  match (Option.map Prod.fst top : Option RVal) with
  | none => (0xFFFF, em)
  | some (.arg _ i) => (i, em)
  | some (.int x) =>
    if t.sub = 6 then
      if r.n = 0 then (0, em)
      else
        let q := x / (r.n : Int)
        let m := x % (r.n : Int)
        let y := if 2 * m > r.n ∨ (2 * m = r.n ∧ q % 2 = 1) then q + 1 else q
        let (p, f) := fit32 t.sat y
        (p, em.or f)
    else if t.sub = 0 then
      let (p, f) := fit32 t.sat x
      (p, em.or f)
    else (lowBits 32 x, em)
  | some (.flt x) =>
    if t.sub = 6 then
      if r.n = 0 then (fp32.qnan, em)
      else
        let (p, f) := fitFloat t.sat fp32 (fdivV (f32 x) (fofInt r.n))
        (p, em.or f)
    else (x, em)
  | some (.cint a b) =>
    let (p, f) := fitShift t.sat 16 t.k a
    let (q, g) := fitShift t.sat 16 t.k b
    (cplxOf p q, em.or (f.or g))
  | some (.cflt a b) =>
    let (p, f) := fitFloat t.sat fp16 (f32 a)
    let (q, g) := fitFloat t.sat fp16 (f32 b)
    (cplxOf p q, em.or (f.or g))
where
  /-- The fixed pairwise tree over the lanes. -/
  treeR : Nat → List RedVal → List RedVal
    | 0, l => l
    | n + 1, l => treeR n (pairs l)
  /-- One level of the tree. -/
  pairs : List RedVal → List RedVal
    | a :: b :: l => redOpt t a b :: pairs l
    | l => l

/-! ### Memory forms (R91, R107) -/

/-- A stream word by field (Table 6-5). -/
structure StreamW where
  fmt : Nat
  addr : Nat
  stride : Int
deriving DecidableEq, Repr

def streamWOf (w : Nat) : StreamW := ⟨bits w 0 4, bits w 4 22, sx 24 (bits w 26 24)⟩

/-- Widen a stored element to its register format (R91); a signalling NaN that is read sets INVALID (R45, R50). -/
def widen (f x : Nat) : Nat × Sticky :=
  if f = 6 ∨ f = 7 ∨ f = 8 then (cvtReal f 8 0 false x).getD (0, {})
  else if f = 9 then (x, {})
  else if f = 10 then (x, stInval (cf16Snan x))
  else (lowBits 32 (intVal f x), {})

/-- Narrow a lane to a stored element, with shift `k` and the saturation bit (R91). -/
def narrowTo (f k : Nat) (sat : Bool) (x : Nat) : Nat × Sticky :=
  match memRf f with
  | some 0 => if f = 3 then (cvtReal 3 3 k sat x).getD (0, {}) else (cvtReal 3 f k sat x).getD (0, {})
  | some 1 => (cvtReal 8 f 0 sat x).getD (0, {})
  | _ => (x, stInval (f == 10 && cf16Snan x))

/-- Load the active lanes from elements at a byte stride. -/
def loadLanes (s : State) (e : Nat) (f : Nat) (addr : Int) (stride : Int) (act : Nat) : List Nat × Sticky :=
  let r := (List.range 64).map fun i : Nat =>
    if bit act i then
      widen f (leNat (s.rd (spadAt e + (addr + (i : Int) * stride).toNat) (fmtBytes f)))
    else (0, ({} : Sticky))
  (r.map (·.1), r.foldl (fun f x => f.or x.2) {})

/-- Store the active lanes to elements at a byte stride, in lane order. -/
def storeLanes (s : State) (e : Nat) (f k : Nat) (sat : Bool) (addr stride : Int) (act : Nat) (l : List Nat) :
    State × Sticky :=
  (List.range 64).foldl (fun (a : State × Sticky) (i : Nat) =>
    if bit act i then
      let (x, g) := narrowTo f k sat (l.getD i 0)
      (a.1.wr (spadAt e + (addr + (i : Int) * stride).toNat) (toLE (fmtBytes f) x), a.2.or g)
    else a) (s, {})

/-- Active lanes of a mask in ascending order. -/
def lanesOf (m : Nat) : List Nat := (List.range 64).filter (bit m)

/-- Byte extent of the active lanes of one access; none where no lane is active. -/
def laneExtent (addr stride : Int) (size : Nat) (act : Nat) : Option (Int × Int) :=
  match lanesOf act with
  | [] => none
  | i :: r =>
    let a := addr + (i : Int) * stride
    let z := addr + ((r.getLast?.getD i : Nat) : Int) * stride
    some (if z < a then z else a, (if z < a then a else z) + size)

/-- Expand the PRBs of one BFP iteration into lanes 0 to 47 (R107): a lane that is masked off reads nothing and sets no flag
(R101). -/
def loadBfp (s : State) (e w : Nat) (addr : Int) (act : Nat) : List Nat × Sticky :=
  let prb := prbBytes w
  let one := fun i : Nat =>
    if bit act i && decide (i < 48) then
      let b := s.rd (spadAt e + addr.toNat + i / 12 * prb) prb
      let x := ((prbMants w b).drop (2 * (i % 12))).take 2 |>.map fun m =>
        clampInt (-32768) 32767 (m * (2 ^ ((b.headD 0).toNat % 16) : Nat))
      ((ci16Of (x.map (·.1))).headD 0, stSat (x.any (·.2)))
    else (0, ({} : Sticky))
  let r := (List.range 64).map one
  (r.map (·.1), r.foldl (fun f x => f.or x.2) {})

/-- The bytes of a PRB that hold the two mantissas of element `i`: first and count, behind the exponent byte (R43). -/
def mantBytes (w i : Nat) : Nat × Nat := (1 + 2 * i * w / 8, (2 * (i + 1) * w + 7) / 8 - 2 * i * w / 8)

/-- Vector cycles that bank conflicts add to a register-mode access (R451): each further 64-byte block in a bank
already used. -/
def bankExtra (addr stride : Int) (act : Nat) : Nat :=
  let blocks := ((lanesOf act).map fun i : Nat => (addr + (i : Int) * stride).toNat / 64).eraseDups
  let banks := (blocks.map fun b => (b / 32768, b % 16)).eraseDups
  blocks.length - banks.length

end Sys2Proof.Machine
end

