-- ==== Sys2Proof/Machine/Vector.lean ====
section
/-!
DEFINITION. The vector engine's commands (R90 to R110): register-mode instructions by class, loads and stores,
activation tables, and fused chains.
-/

namespace Sys2Proof.Machine
open Sys2Proof

/-! ### Register mode -/

/-- Issue a register-mode vector instruction: an engine word and its stage word, 2 issue cycles (Table 6-2). A retired
engine takes no further instruction (R86). -/
def issueVec (c : Fin 8) (eng : Bool) (reads : List Nat) (body : Quire → Nat → State → State) (s : State) : State :=
  issue c 2 2 reads (fun q s =>
    if (s.eng (engOf c eng)).retired then s else body q (engOf c eng) s) s

/-- The destination code fits the instruction. -/
def Stg.destOk (t : Stg) (reg : Nat) : Bool :=
  match t.cls with
  | 5 => isM reg
  | 10 => isV reg || isS reg
  | 11 => if t.pos < 5 then isM reg
          else if t.pos < 7 then isS reg
          else (isM reg && isS t.a) || (isS reg && isM t.a)
  | 12 => if t.pos = 0 then isV reg else isS reg
  | _ => isV reg

/-- A source code fits its place in register mode: no chain operand, a mask only as SEL's selector and in the mask class,
a scalar or immediate into INS, a vector register out of EXT. -/
def Stg.srcOk (t : Stg) : Bool :=
  match t.cls with
  | 6 => [t.a, t.b].all (fun x => isV x || isS x || x == 0x6A) && isM t.c
  | 11 => if t.pos < 7 then t.srcs.all isM else true
  | 12 => if t.pos = 0 then isS t.a || t.a == 0x6A else isV t.a
  | _ => t.srcs.all (fun x => isV x || isS x || x == 0x6A) && (!t.isUnpack || isV t.b)

/-- VEC_ILLEGAL of a register-mode instruction (R98, R110, R116); a k above 47 is illegal (DESIGN CHOICE, log entry 65). -/
def Stg.illegal (t : Stg) (acts : Table (List Nat)) (reg : Nat) : Bool :=
  !t.known || !t.subOk acts || ! [t.a, t.b, t.c].all opndOk || decide (47 < t.k) || !t.destOk reg || !t.srcOk

/-- Write the 32-bit result of an instruction to an s register, zero-extended (R95). -/
def putScalar (s : State) (c : Fin 8) (code x : Nat) : State := s.putS c (code - 0x20) (BitVec.ofNat 64 x)

/-- The mask class and its results (R93, R94, R95, R101). -/
def maskRun (t : Stg) (e : Nat) (c : Fin 8) (reg gm : Nat) (mz : Bool) (s : State) : State :=
  let en := s.eng e
  let a := en.getM (t.a - 0x70)
  let b := en.getM (t.b - 0x70)
  let all := 2 ^ 64 - 1
  let put := fun (r : Nat) =>
    s.setEng e fun x =>
      let old := x.getM (reg - 0x70)
      x.setM (reg - 0x70) ((r &&& gm) ||| if mz then 0 else old &&& (gm ^^^ all))
  match t.pos with
  | 0 => put (a &&& b)
  | 1 => put (a ||| b)
  | 2 => put (a ^^^ b)
  | 3 => put (a &&& (b ^^^ all))
  | 4 => put (a ^^^ all)
  | 5 => putScalar s c reg (lanesOf (a &&& gm)).length
  | 6 => putScalar s c reg ((lanesOf (a &&& gm)).headD 0xFFFF)
  | _ => if isS reg then putScalar s c reg a else put (s.getS c (t.a - 0x20)).toNat

/-- A lane move (class 12): INS under the governing mask, its other lanes kept, or zeroed where masked off with MZ set (R101); EXT
to a scalar. -/
def laneMove (t : Stg) (e : Nat) (c : Fin 8) (reg gm : Nat) (mz : Bool) (s : State) : State :=
  let v : VEnv := { eng := s.eng e, core := s.core c }
  let n := t.imm.toNat
  let x := (v.lanes t.a t.rf t.imm).getD n 0
  if t.pos = 1 then putScalar s c reg x
  else
    -- the immediate of INS names the lane, so an immediate source is that same number
    s.setEng e fun en => en.setV reg gm mz (listMod (en.getV reg) n fun _ => x)

/-- A register-mode reduction (R102, R103). -/
def regRed (t : Stg) (e : Nat) (c : Fin 8) (reg gm : Nat) (s : State) : State :=
  let v : VEnv := { eng := s.eng e, core := s.core c }
  let (r, f) := (RedRun.feed t (v.lanes t.a t.rf t.imm) gm 0 {}).done t
  let s1 := s.setEng e (Engine.addFlags · f)
  if isS reg then putScalar s1 c reg r
  else s1.setEng e fun x => { x with v := tset x.v reg (r :: List.replicate 63 0) }

/-- Any other instruction: its lanes, then its destination (R93, R101). -/
def regLanes (t : Stg) (e : Nat) (c : Fin 8) (reg gm : Nat) (mz : Bool) (s : State) : State :=
  let (r1, r2, f) := stageRun t { eng := s.eng e, core := s.core c } gm
  s.setEng e fun x =>
    let y := x.addFlags f
    if t.cls = 5 then y.setM (reg - 0x70) (leNatBits r1)
    else
      let z := y.setV reg gm mz r1
      if t.isUnpack then z.setV t.b gm mz r2 else z
where
  /-- The mask whose bits are the lanes that are not zero. -/
  leNatBits : List Nat → Nat
    | [] => 0
    | a :: r => (if a = 0 then 0 else 1) + 2 * leNatBits r

/-- The registers that a register-mode instruction writes, by operand code. -/
def Stg.writes (t : Stg) (reg : Nat) : List Nat := if t.isUnpack then [reg, t.b] else [reg]

/-- A register-mode instruction of the rows that `row` admits (R98, R99, R110, R115, R116). -/
def regVec (row : Stg → Bool) (c : Fin 8) (eng : Bool) (reg : Byte) (mask : Fin 8) (mz : Bool) (w : BitVec 64)
    (s : State) : State :=
  let t := stgOf w
  let rg := reg.toNat
  issueVec c eng (sRegs t.srcs) (fun q e s =>
    let en := s.eng e
    if !row t || t.illegal en.acts rg then faultQuire s q.tag 0x32
    else if !t.formatOk then faultQuire s q.tag 0x31
    else
      let gm := en.getM mask.val
      let s := timeVec s c e t.cost ((0x70 + mask.val) :: t.srcs) (t.writes rg)
      match t.cls with
      | 10 => regRed t e c rg gm s
      | 11 => maskRun t e c rg gm mz s
      | 12 => laneMove t e c rg gm mz s
      | _ => regLanes t e c rg gm mz s) s

/-- Integer arithmetic (R449, Table 5-2). -/
def execVecIntArith (core : Fin 8) (eng : Bool) (reg : Byte) (mask : Fin 8) (mz : Bool) (w : BitVec 64) (s : State) :
    Host.Outcome State Fault Refusal := .next (regVec (fun t => t.cls == 0) core eng reg mask mz w s)

/-- Bitwise logic (R93). -/
def execVecLogic (core : Fin 8) (eng : Bool) (reg : Byte) (mask : Fin 8) (mz : Bool) (w : BitVec 64) (s : State) :
    Host.Outcome State Fault Refusal := .next (regVec (fun t => t.cls == 1) core eng reg mask mz w s)

/-- Float arithmetic (R449). -/
def execVecFloatArith (core : Fin 8) (eng : Bool) (reg : Byte) (mask : Fin 8) (mz : Bool) (w : BitVec 64) (s : State) :
    Host.Outcome State Fault Refusal := .next (regVec (fun t => t.cls == 2) core eng reg mask mz w s)

/-- FDIV, FSQRT, FRSQRT (R93). -/
def execVecFdivRoot (core : Fin 8) (eng : Bool) (reg : Byte) (mask : Fin 8) (mz : Bool) (w : BitVec 64) (s : State) :
    Host.Outcome State Fault Refusal := .next (regVec (fun t => t.cls == 3) core eng reg mask mz w s)

/-- Complex arithmetic (R449). -/
def execVecComplexArith (core : Fin 8) (eng : Bool) (reg : Byte) (mask : Fin 8) (mz : Bool) (w : BitVec 64)
    (s : State) : Host.Outcome State Fault Refusal := .next (regVec (fun t => t.cls == 4) core eng reg mask mz w s)

/-- CMP (R93, R101). -/
def execCmp (core : Fin 8) (eng : Bool) (reg : Byte) (mask : Fin 8) (mz : Bool) (w : BitVec 64) (s : State) :
    Host.Outcome State Fault Refusal := .next (regVec (fun t => t.cls == 5) core eng reg mask mz w s)

/-- SEL (R93). -/
def execSel (core : Fin 8) (eng : Bool) (reg : Byte) (mask : Fin 8) (mz : Bool) (w : BitVec 64) (s : State) :
    Host.Outcome State Fault Refusal := .next (regVec (fun t => t.cls == 6) core eng reg mask mz w s)

/-- CVT (R60); the format converted from stands in SUB[1:0] (DESIGN CHOICE, log entry 25). -/
def execCvt (core : Fin 8) (eng : Bool) (reg : Byte) (mask : Fin 8) (mz : Bool) (w : BitVec 64) (s : State) :
    Host.Outcome State Fault Refusal := .next (regVec (fun t => t.cls == 7) core eng reg mask mz w s)

/-- ACT (R109). -/
def execAct (core : Fin 8) (eng : Bool) (reg : Byte) (mask : Fin 8) (mz : Bool) (w : BitVec 64) (s : State) :
    Host.Outcome State Fault Refusal := .next (regVec (fun t => t.cls == 8) core eng reg mask mz w s)

/-- PERM (R104). -/
def execPerm (core : Fin 8) (eng : Bool) (reg : Byte) (mask : Fin 8) (mz : Bool) (w : BitVec 64) (s : State) :
    Host.Outcome State Fault Refusal := .next (regVec (fun t => t.opc == 0x90) core eng reg mask mz w s)

/-- SHUF (R105). -/
def execShuf (core : Fin 8) (eng : Bool) (reg : Byte) (mask : Fin 8) (mz : Bool) (w : BitVec 64) (s : State) :
    Host.Outcome State Fault Refusal := .next (regVec (fun t => t.opc == 0x91) core eng reg mask mz w s)

/-- PACKC (R106). -/
def execPackc (core : Fin 8) (eng : Bool) (reg : Byte) (mask : Fin 8) (mz : Bool) (w : BitVec 64) (s : State) :
    Host.Outcome State Fault Refusal := .next (regVec (fun t => t.opc == 0x92) core eng reg mask mz w s)

/-- UNPACKC (R106); its second destination stands in SRCB (DESIGN CHOICE, log entry 25). -/
def execUnpackc (core : Fin 8) (eng : Bool) (reg : Byte) (mask : Fin 8) (mz : Bool) (w : BitVec 64) (s : State) :
    Host.Outcome State Fault Refusal := .next (regVec (fun t => t.opc == 0x93) core eng reg mask mz w s)

/-- RED (R102, R103). -/
def execRed (core : Fin 8) (eng : Bool) (reg : Byte) (mask : Fin 8) (mz : Bool) (w : BitVec 64) (s : State) :
    Host.Outcome State Fault Refusal := .next (regVec (fun t => t.cls == 10) core eng reg mask mz w s)

/-- The mask class (R93 to R95, R101). -/
def execMaskOp (core : Fin 8) (eng : Bool) (reg : Byte) (mask : Fin 8) (mz : Bool) (w : BitVec 64) (s : State) :
    Host.Outcome State Fault Refusal := .next (regVec (fun t => t.cls == 11) core eng reg mask mz w s)

/-- INS (R93); the lane stands in IMM16 (DESIGN CHOICE, log entry 25). -/
def execIns (core : Fin 8) (eng : Bool) (reg : Byte) (mask : Fin 8) (mz : Bool) (w : BitVec 64) (s : State) :
    Host.Outcome State Fault Refusal := .next (regVec (fun t => t.opc == 0xC0) core eng reg mask mz w s)

/-- EXT (R95); the lane stands in IMM16 (DESIGN CHOICE, log entry 25). -/
def execExt (core : Fin 8) (eng : Bool) (reg : Byte) (mask : Fin 8) (mz : Bool) (w : BitVec 64) (s : State) :
    Host.Outcome State Fault Refusal := .next (regVec (fun t => t.opc == 0xC1) core eng reg mask mz w s)

/-! ### VLD and VST (R91, R451) -/

/-- The fault of a register-mode access, in the order of R98. -/
def accessFault (q : Quire) (en : Engine) (x : StreamW) (reg act : Nat) (store : Bool) : Option Nat :=
  let size := fmtBytes x.fmt
  if !isV reg then some 0x32
  else if (memRf x.fmt).isNone then some 0x31
  else if x.addr % size ≠ 0 ∨ x.stride % (size : Int) ≠ 0 then some 0x33
  else match laneExtent x.addr x.stride size act with
    | none => none
    | some (lo, hi) =>
      if !q.spadWin.holds lo hi then some 0x33
      else if store && en.tileHit lo hi then some 0x25
      else none

/-- An access of active lanes reads the word; a store reads only where its elements are narrower than a word (R155, R157). -/
def lanesRead (e : Nat) (x : StreamW) (addr stride : Int) (act : Nat) (store : Bool) (w : Nat) : Bool :=
  (!store || decide (fmtBytes x.fmt < 4)) && (lanesOf act).any fun i : Nat =>
    wordIn w (spadAt e + (addr + (i : Int) * stride).toNat) (fmtBytes x.fmt)

/-- The spans of the active lanes of an access (R451). -/
def laneSpans (x : StreamW) (act : Nat) : List (Int × Int) :=
  (lanesOf act).map fun i : Nat =>
    let a : Int := (x.addr : Int) + (i : Int) * x.stride
    (a, a + fmtBytes x.fmt)

/-- VLD: 64 elements at a byte stride (R91, R101, R451). -/
def execVld (core : Fin 8) (eng : Bool) (sa : Fin 64) (reg : Byte) (mask : Fin 8) (_w : BitVec 64) (par : Option Nat)
    (s : State) : Host.Outcome State Fault Refusal :=
  .next (issueVec core eng [sa.val] (fun q e s =>
    let en := s.eng e
    let x := streamWOf (s.getS core sa.val).toNat
    let gm := en.getM mask.val
    match accessFault q en x reg.toNat gm false with
    | some f => faultQuire s q.tag f
    | none =>
      let (l, f) := loadLanes s e x.fmt x.addr x.stride gm
      reading core 2 par (lanesRead e x x.addr x.stride gm false) q s
        ((timeAccess s core e false reg.toNat (bankExtra x.addr x.stride gm) (laneSpans x gm)).setEng e fun y =>
          (y.addFlags f).setV reg.toNat gm false l)) s)

/-- VST: likewise, narrowed with the shift and the saturation bit of its second word (R91, R451; DESIGN CHOICE, log entry 25). -/
def execVst (core : Fin 8) (eng : Bool) (sa : Fin 64) (reg : Byte) (mask : Fin 8) (w : BitVec 64) (par : Option Nat)
    (s : State) : Host.Outcome State Fault Refusal :=
  .next (issueVec core eng [sa.val] (fun q e s =>
    let en := s.eng e
    let x := streamWOf (s.getS core sa.val).toNat
    let t := stgOf w
    let gm := en.getM mask.val
    if 47 < t.k then faultQuire s q.tag 0x32
    else match accessFault q en x reg.toNat gm true with
      | some f => faultQuire s q.tag f
      | none =>
        let s0 := timeAccess s core e true reg.toNat (bankExtra x.addr x.stride gm) (laneSpans x gm)
        let (s1, f) := storeLanes s0 e x.fmt t.k t.sat x.addr x.stride gm (en.getV reg.toNat)
        reading core 2 par (lanesRead e x x.addr x.stride gm true) q s (s1.setEng e (Engine.addFlags · f))) s)

/-! ### ACTLD (R108) -/

/-- The 80 words of a table are one R108 admits. -/
def tableOk (l : List Nat) : Bool :=
  let b := l.take 15
  l.getD 15 1 == 0 && b.all (fun x => (f32 x).isFin)
    && (b.zip (b.drop 1)).all fun p => decide (fcmpIeee (f32 p.1) (f32 p.2) < 0)

/-- ACTLD takes 2 vector cycles (R93) from the bytes of its table on. -/
def timeActld (s : State) (c : Fin 8) (e a : Nat) : State :=
  let s1 := s.queued c e true
  let fl := (s1.eng e).tm.flights
  let (t, late) := accessAt fl (s1.vecFrom c e []) false [((a : Int), (a : Int) + 320)]
  (s1.vecDone c e t (t + 2) [] (t + 2) (vecFlights false [((a : Int), (a : Int) + 320)] (t + 2) ++ fl)).vecLate e late

/-- ACTLD (R108): a table that fails its check is not loaded and the instruction writes nothing (R110). -/
def execActld (core : Fin 8) (eng : Bool) (sa : Fin 64) (table : Fin 4) (par : Option Nat) (s : State) :
    Host.Outcome State Fault Refusal :=
  .next (issueEng core eng sa 1 1 1 (fun q s =>
    let e := engOf core eng
    let a := bits (s.getS core sa.val).toNat 0 22
    if a % 64 ≠ 0 ∨ !q.spadWin.holds a (a + 320) then faultQuire s q.tag 0x33
    else
      let l := leList 4 (s.rd (spadAt e + a) 320)
      reading core 1 par (wordIn · (spadAt e + a) 320) q s
        (if tableOk l then (timeActld s core e a).setEng e fun x => { x with acts := tset x.acts table.val l }
        else faultQuire s q.tag 0x35)) s)

/-! ### CHAIN (R96 to R98, R102, R107) -/

/-- The operands of a CHAIN (Tables 5-3 and 6-5). -/
structure ChainOps where
  l0 : StreamW
  l1 : StreamW
  st : StreamW
  count : Nat
  last : Nat
  /-- Mantissa width when L0 is BFP. -/
  w : Nat
  stSrc : Nat
  compact : Bool
  /-- RED_KIND and RED_DST as an operand code. -/
  redDst : Nat
  stages : List Stg
deriving DecidableEq, Repr

def chainOpsOf (w0 w1 w2 w3 : Nat) (stages : List (BitVec 64)) : ChainOps :=
  { l0 := streamWOf w0, l1 := streamWOf w1, st := streamWOf w2, count := bits w3 0 20, last := bits w3 20 7,
    w := if bits w3 27 4 = 0 then 16 else bits w3 27 4, stSrc := bits w3 31 3, compact := bit w3 34,
    redDst := if bit w3 41 then 0x20 + bits w3 35 6 else if bits w3 35 6 < 0x20 then bits w3 35 6 else 0xFF,
    stages := stages.map stgOf }

def StreamW.on (x : StreamW) : Bool := x.fmt != 15

/-- The final reduction, if there is one. -/
def ChainOps.red (o : ChainOps) : Option Stg :=
  match o.stages.getLast? with
  | some t => if t.isRed then some t else none
  | none => none

/-- Register formats of the temporaries that stages produce, in order (R96, R106). -/
def tempRfs (l : List Stg) : List Nat :=
  l.flatMap fun t => if t.isUnpack then [t.outRf, t.outRf] else [t.outRf]

/-- The register format a load stream delivers. -/
def ChainOps.loadRf (x : StreamW) : Option Nat :=
  if x.fmt = 11 then some 2 else memRf x.fmt

/-- The format of a source in a chain, where it has one of its own: streams and earlier temporaries. -/
def ChainOps.srcFmt (o : ChainOps) (temps : List Nat) (x : Nat) : Option Nat :=
  if isT x then temps[x - 0x60]?
  else if x = 0x68 then ChainOps.loadRf o.l0
  else if x = 0x69 then ChainOps.loadRf o.l1
  else none

/-- A source code fits its place in a chain stage: an enabled stream, an earlier temporary, a register, a scalar or an
immediate; a mask or a temporary as SEL's selector (R93, R96, R98). -/
def ChainOps.srcOk (o : ChainOps) (temps : List Nat) (t : Stg) : Bool :=
  let one := fun x : Nat => isV x || isS x || x == 0x6A || (isT x && decide (x - 0x60 < temps.length))
    || (x == 0x68 && o.l0.on) || (x == 0x69 && o.l1.on)
  if t.cls = 6 then one t.a && one t.b && (isM t.c || (isT t.c && decide (t.c - 0x60 < temps.length)))
  else t.srcs.all one

/-- VEC_ILLEGAL of one stage, given the temporaries before it. -/
def ChainOps.stageIllegal (o : ChainOps) (acts : Table (List Nat)) (temps : List Nat) (t : Stg) : Bool :=
  !t.known || t.cls == 11 || t.cls == 12 || !t.subOk acts || ! [t.a, t.b, t.c].all opndOk || decide (47 < t.k)
    || !o.srcOk temps t

/-- The sources of a stage have the register formats it reads (R110); SEL's selector and PERM's index may have any. -/
def ChainOps.stageFormat (o : ChainOps) (temps : List Nat) (t : Stg) : Bool :=
  let want := fun (j x : Nat) => match o.srcFmt temps x with
    | some f => f == t.srcRf j || (j == 2 && (t.cls == 6 || t.opc == 0x90))
    | none => true
  let l := (t.uses.zip [(0, t.a), (1, t.b), (2, t.c)]).filter (·.1)
  t.formatOk && l.all fun p => want p.2.1 p.2.2

/-- Check every stage in order with the temporaries before it. -/
def ChainOps.allStages (f : List Nat → Stg → Bool) : List Stg → List Nat → Bool
  | [], _ => true
  | t :: r, temps => f temps t && ChainOps.allStages f r (temps ++ tempRfs [t])

/-- Every VEC_ILLEGAL of a chain (R96, R97, R98, R103). A k above 47 is illegal, and a final RED counts among the 8 temporaries while
ST_SRC may not name it (DESIGN CHOICE, log entry 65). -/
def ChainOps.illegal (o : ChainOps) (acts : Table (List Nat)) : Bool :=
  let outs := tempRfs (o.stages.filter fun t => !t.isRed)
  o.stages.isEmpty || decide (8 < o.stages.length) || o.count == 0 || o.last == 0 || decide (64 < o.last)
    || !ChainOps.allStages (fun temps t => !o.stageIllegal acts temps t) o.stages []
    || decide (8 < (o.stages.map Stg.cost).sum) || decide (8 < (tempRfs o.stages).length)
    || o.stages.dropLast.any Stg.isRed
    || (!o.st.on && o.red.isNone)
    || (o.st.on && decide (outs.length ≤ o.stSrc))
    || (match o.red with
        | some t => o.redDst == 0xFF || (t.isArg && decide (65534 < (o.count - 1) * 64 + 63))
        | none => false)
    || decide (4 < ((o.stages.flatMap fun t => sRegs t.srcs).eraseDups).length)

/-- Every VEC_FORMAT of a chain (R91, R107, R110). -/
def ChainOps.badFormat (o : ChainOps) : Bool :=
  let outs := tempRfs (o.stages.filter fun t => !t.isRed)
  (o.l0.on && (ChainOps.loadRf o.l0).isNone) || (o.l1.on && (memRf o.l1.fmt).isNone)
    || (o.st.on && memRf o.st.fmt != outs[o.stSrc]?)
    || (o.l0.fmt == 11 && ! [12, 24, 36, 48].contains o.last)
    || !ChainOps.allStages (fun temps t => o.stageFormat temps t) o.stages []

/-- The lanes active in an iteration (R96, R101, R107). -/
def ChainOps.active (o : ChainOps) (gm v : Nat) : Nat :=
  let a := if o.l0.fmt = 11 then gm &&& (2 ^ 48 - 1) else gm
  if v + 1 = o.count then a &&& (2 ^ o.last - 1) else a

/-- Bytes touched by a load or store stream in iteration `v`: first and end; none with no active lane. -/
def ChainOps.iterExtent (o : ChainOps) (x : StreamW) (gm v : Nat) : Option (Int × Int) :=
  let act := o.active gm v
  if x.fmt = 11 then
    let prb : Int := prbBytes o.w
    match lanesOf act with
    | [] => none
    | i :: r =>
      let b : Int := x.addr + 4 * (v : Int) * prb
      some (b + ((i / 12 : Nat) : Int) * prb, b + (((r.getLast?.getD i) / 12 + 1 : Nat) : Int) * prb)
  else laneExtent (x.addr + (v : Int) * x.stride) (fmtBytes x.fmt) (fmtBytes x.fmt) act

/-- The hull of two extents. -/
def hull : Option (Int × Int) → Option (Int × Int) → Option (Int × Int)
  | none, b => b
  | a, none => a
  | some (a, b), some (c, d) => some (if c < a then c else a, if b < d then d else b)

/-- The byte extent of a stream, bounded by its first and last iterations, the last full one included (R98). -/
def ChainOps.extent (o : ChainOps) (x : StreamW) (gm : Nat) (store : Bool) : Option (Int × Int) :=
  if !x.on then none
  else if store && o.compact then some (x.addr, x.addr + o.count * 64 * fmtBytes x.fmt)
  else hull (hull (o.iterExtent x gm 0) (o.iterExtent x gm (o.count - 1)))
    (if o.count < 2 then none else o.iterExtent x gm (o.count - 2))

/-- Every address that a stream of a chain uses is a multiple of its element size (R96, R98): the stride enters none where COUNT
is 1, nor in a COMPACT store. -/
def ChainOps.aligned (o : ChainOps) (x : StreamW) (store : Bool) : Bool :=
  !x.on || x.fmt == 11 || (x.addr % fmtBytes x.fmt == 0
    && (decide (o.count < 2) || (store && o.compact) || x.stride % (fmtBytes x.fmt : Int) == 0))

/-- The store overlaps a load and the chain is not in place towards it (R98). -/
def ChainOps.overlap (o : ChainOps) (x : StreamW) (gm : Nat) : Bool :=
  match o.extent o.st gm true, o.extent x gm false with
  | some (a, b), some (c, d) =>
    let inPlace := x.fmt != 11 && x.addr == o.st.addr && fmtBytes x.fmt == fmtBytes o.st.fmt
      && (if o.compact then x.stride == 64 * (fmtBytes x.fmt : Int) else x.stride == o.st.stride)
    decide (a < d ∧ c < b) && !inPlace
  | _, _ => false

/-- The fault of a chain, in the order of R98. -/
def ChainOps.fault (o : ChainOps) (q : Quire) (en : Engine) (gm : Nat) : Option Nat :=
  let ok := fun (x : StreamW) (st : Bool) => match o.extent x gm st with
    | some (lo, hi) => q.spadWin.holds lo hi
    | none => true
  if o.illegal en.acts then some 0x32
  else if o.badFormat then some 0x31
  else if !o.aligned o.l0 false || !o.aligned o.l1 false || !o.aligned o.st true
      || !ok o.l0 false || !ok o.l1 false || !ok o.st true then some 0x33
  else if o.overlap o.l0 gm || o.overlap o.l1 gm then some 0x34
  else match o.extent o.st gm true with
    | some (lo, hi) => if en.tileHit lo hi then some 0x25 else none
    | none => none

/-- What a chain carries from one iteration to the next. -/
structure ChainAcc where
  st : State
  flags : Sticky := {}
  red : RedRun := {}
  /-- Where a COMPACT store goes on. -/
  cur : Nat

/-- Run the stages of one iteration: the temporaries, the flags, and the reduction's input. -/
def runStages : List Stg → VEnv → Nat → Sticky → VEnv × Sticky
  | [], v, _, f => (v, f)
  | t :: r, v, act, f =>
    if t.isRed then runStages r v act f
    else
      let (a, b, g) := stageRun t v act
      runStages r { v with temps := v.temps ++ (if t.isUnpack then [a, b] else [a]) } act (f.or g)

/-- The stage that produced a temporary: its shift and saturation bit narrow the store (R91; DESIGN CHOICE, log entry 25). -/
def producer : List Stg → Nat → Option Stg
  | [], _ => none
  | t :: r, n =>
    let w := if t.isUnpack then 2 else 1
    if n < w then some t else producer r (n - w)

/-- Load one stream's lanes for an iteration. -/
def chainLoad (s : State) (e : Nat) (o : ChainOps) (x : StreamW) (v act : Nat) : List Nat × Sticky :=
  if !x.on then (lanes0, {})
  else if x.fmt = 11 then loadBfp s e o.w (x.addr + 4 * (v : Int) * (prbBytes o.w : Int)) act
  else loadLanes s e x.fmt (x.addr + (v : Int) * x.stride) (fmtBytes x.fmt) act

/-- Write the active lanes contiguously from an address (COMPACT). -/
def storeCompact (s : State) (e f k : Nat) (sat : Bool) (cur act : Nat) (l : List Nat) : State × Sticky × Nat :=
  (lanesOf act).foldl (fun a i =>
    let (x, g) := narrowTo f k sat (l.getD i 0)
    (a.1.wr (spadAt e + a.2.2) (toLE (fmtBytes f) x), a.2.1.or g, a.2.2 + fmtBytes f)) (s, {}, cur)

/-- One iteration of a chain (R96, R101, R102). -/
def chainIter (o : ChainOps) (e : Nat) (en : Engine) (x : Core) (gm v : Nat) (a : ChainAcc) : ChainAcc :=
  let act := o.active gm v
  let (l0, f0) := chainLoad a.st e o o.l0 v act
  let (l1, f1) := chainLoad a.st e o o.l1 v act
  let (env, f2) := runStages o.stages { eng := en, core := x, l0 := l0, l1 := l1 } act {}
  let red := match o.red with
    | some t => RedRun.feed t (env.lanes t.a t.rf t.imm) act (64 * v) a.red
    | none => a.red
  let fl := a.flags.or (f0.or (f1.or f2))
  let src := env.temps.getD o.stSrc lanes0
  let (k, sat) := match producer o.stages o.stSrc with
    | some t => (t.k, t.sat)
    | none => (0, false)
  if !o.st.on then { a with flags := fl, red := red }
  else if o.compact then
    let (s1, g, cur) := storeCompact a.st e o.st.fmt k sat a.cur act src
    { st := s1, flags := fl.or g, red := red, cur := cur }
  else
    let (s1, g) := storeLanes a.st e o.st.fmt k sat (o.st.addr + (v : Int) * o.st.stride) (fmtBytes o.st.fmt) act src
    { st := s1, flags := fl.or g, red := red, cur := a.cur }

/-- The iterations of a chain in order; registers and masks are those of its start (R96). -/
def chainGo (o : ChainOps) (e : Nat) (en : Engine) (x : Core) (gm : Nat) : Nat → Nat → ChainAcc → ChainAcc
  | 0, _, a => a
  | n + 1, v, a => chainGo o e en x gm n (v + 1) (chainIter o e en x gm v a)

/-- Where a COMPACT store stands before iteration `v`: behind the active lanes of those before it. -/
def ChainOps.compactAt (o : ChainOps) (gm v : Nat) : Nat :=
  o.st.addr + ((List.range v).map fun u => (lanesOf (o.active gm u)).length).sum * fmtBytes o.st.fmt

/-- The bytes that the store of an iteration writes. -/
def ChainOps.storeSpan (o : ChainOps) (gm v : Nat) : Option (Int × Int) :=
  if !o.st.on then none
  else if o.compact then some (o.compactAt gm v, o.compactAt gm (v + 1))
  else o.iterExtent o.st gm v

/-- The bytes that a load stream of an iteration reads. -/
def ChainOps.loadSpan (o : ChainOps) (x : StreamW) (gm v : Nat) : Option (Int × Int) :=
  if !x.on then none else o.iterExtent x gm v

/-- The 64-byte blocks of a span. -/
def spanBlocks : Option (Int × Int) → List Nat
  | none => []
  | some (lo, hi) => (List.range ((hi - 1).toNat / 64 + 1 - lo.toNat / 64)).map (lo.toNat / 64 + ·)

/-- Cycles that one vector cycle's accesses take beyond the first: a bank serves one 64-byte access of them in each (R137, R141). -/
def bankMore (blocks : List Nat) : Nat :=
  let banks := blocks.map fun b => (b / 32768, b % 16)
  (banks.eraseDups.map fun x => (banks.filter (· == x)).length).foldl max 1 - 1

/-- What each iteration of a chain reads and writes, with the cycles that bank conflicts among its own streams add: its loads meet
the store of the iteration 10 + 2 × S before it (R97, R141; DESIGN CHOICE, log entry 65). -/
def ChainOps.iters (o : ChainOps) (gm lat : Nat) : List Iter :=
  (List.range o.count).map fun v =>
    let l0 := o.loadSpan o.l0 gm v
    let l1 := o.loadSpan o.l1 gm v
    let st := if lat ≤ v then o.storeSpan gm (v - lat) else none
    { loads := l0.toList ++ l1.toList, store := (o.storeSpan gm v).toList
      extra := bankMore (spanBlocks l0 ++ spanBlocks l1 ++ spanBlocks st) }

/-- When a chain runs (R97): its stage units give its latency, its sources and its reduction's register its interlocks. -/
def ChainOps.time (o : ChainOps) (e : Nat) (c : Fin 8) (gm mask : Nat) (s : State) : State :=
  let lat := 10 + 2 * (o.stages.map Stg.cost).sum
  timeChain s c e lat ((0x70 + mask) :: o.stages.flatMap Stg.srcs) (if o.red.isSome then [o.redDst] else []) (o.iters gm lat)

/-- Run a chain that passed its checks: its iterations, then its reduction's result (R102). -/
def chainRun (o : ChainOps) (e : Nat) (c : Fin 8) (gm : Nat) (s : State) : State :=
  let a := chainGo o e (s.eng e) (s.core c) gm o.count 0 { st := s, cur := o.st.addr }
  match o.red with
  | none => a.st.setEng e (Engine.addFlags · a.flags)
  | some t =>
    let (r, f) := a.red.done t
    let s1 := a.st.setEng e (Engine.addFlags · (a.flags.or f))
    if isS o.redDst then putScalar s1 c o.redDst r
    else s1.setEng e fun x => { x with v := tset x.v o.redDst (r :: List.replicate 63 0) }

/-- A load stream of an iteration reads the word. -/
def ChainOps.streamReads (o : ChainOps) (e : Nat) (x : StreamW) (gm v w : Nat) : Bool :=
  if !x.on then false
  else if x.fmt = 11 then
    (List.range 48).any fun i : Nat =>
      let a := spadAt e + (x.addr + 4 * v * prbBytes o.w) + i / 12 * prbBytes o.w
      let m := mantBytes o.w (i % 12)
      bit (o.active gm v) i && (wordIn w a 1 || wordIn w (a + m.1) m.2)
  else lanesRead e x (x.addr + (v : Int) * x.stride) (fmtBytes x.fmt) (o.active gm v) false w

/-- A narrow store of an iteration reads the word it merges into (R157); a COMPACT store goes on where the active lanes of the
earlier iterations ended. -/
def ChainOps.storeReads (o : ChainOps) (e gm v w : Nat) : Bool :=
  if !o.st.on then false
  else if o.compact then
    decide (fmtBytes o.st.fmt < 4) && wordIn w (spadAt e + o.compactAt gm v) (o.compactAt gm (v + 1) - o.compactAt gm v)
  else lanesRead e o.st (o.st.addr + (v : Int) * o.st.stride) (fmtBytes o.st.fmt) (o.active gm v) true w

/-- A chain reads the word in an active element (R101, R155, R157). -/
def ChainOps.reads (o : ChainOps) (e gm w : Nat) : Bool :=
  (List.range o.count).any fun v =>
    o.streamReads e o.l0 gm v w || o.streamReads e o.l1 gm v w || o.storeReads e gm v w

/-- CHAIN (R96 to R98, R107): one word, its stage words, 1 + D issue cycles. -/
def execChain (core : Fin 8) (eng : Bool) (sa : Fin 64) (mask : Fin 8) (_mz : Bool) (stages : List (BitVec 64))
    (par : Option Nat) (s : State) : Host.Outcome State Fault Refusal :=
  let reads := (List.range 4).map (sa.val + ·) ++ sRegs (stages.flatMap fun w => (stgOf w).srcs)
  .next (issue core (1 + stages.length) (1 + stages.length) reads (fun q s =>
    if 60 < sa.val then faultQuire s q.tag 0x41
    else if (s.eng (engOf core eng)).retired then s
    else
      let e := engOf core eng
      let r := fun n => (s.getS core (sa.val + n)).toNat
      let o := chainOpsOf (r 0) (r 1) (r 2) (r 3) stages
      let gm := (s.eng e).getM mask.val
      match o.fault q (s.eng e) gm with
      | some f => faultQuire s q.tag f
      | none => reading core (1 + stages.length) par (o.reads e gm) q s (chainRun o e core gm (o.time e core gm mask.val s))) s)

end Sys2Proof.Machine
end

