-- ==== Sys2Proof/Machine/Package.lean ====
section
/-!
DEFINITION. Ropel packages: the container and its checks (R397), the package image and its load checks (R159 to R163),
MODEL_LOAD and MODEL_UNLOAD (R164, R371).
-/

namespace Sys2Proof.Machine
open Sys2Proof

/-- A number as the bytes of an ASCII context string, first character first. -/
def ascii (l : List Char) : Bytes := l.map fun c => BitVec.ofNat 8 c.toNat

/-! ### The device's identity (R391) -/

/-- The seed of the identity key pair, and the 64-byte seed of the encapsulation key pair. -/
def identitySeed : Bytes := digest256 (Config.uds ++ ascii "UZY1632 identity".toList)
def kemSeed : Bytes := shake256 (Config.uds ++ ascii "UZY1632 kem".toList) 64

/-- The public halves of the two pairs, derived again at every start-up. -/
def identityKey : Bytes := Config.mldsaPk identitySeed
def encapKey : Bytes := Config.mlkemEk kemSeed

/-- DEVICE_KEY and the KEM key identifier. -/
def deviceKey : Bytes := digest256 identityKey
def kemKeyId : Bytes := digest256 encapKey

/-- A signature of the identity key under a context string. -/
def identitySign (ctx : List Char) (msg : Bytes) : Bytes := Config.mldsaSign identitySeed (ascii ctx) msg

/-- The device certificate, the first of the certificate area, carries the derived keys (R392). -/
def certsMatch (certs : List Bytes) : Bool :=
  match certs with
  | c :: _ => Config.certKeys c == some (identityKey, encapKey)
  | [] => false

/-! ### The container (Table 17-6) -/

/-- Where the encrypted image of a container starts. -/
def imageAt (p : Bytes) : Nat := 0x7D0 + 1184 * fld p 6 2

/-- IMAGE_LEN. -/
def imageLen (p : Bytes) : Nat := fld p 0x10 8

/-- Step 1 of R397: magic, format, recipient count, image length and the length of the whole. -/
def containerOk (p : Bytes) : Bool :=
  fld p 0 4 == 0x43505052 && fld p 4 2 == 1 && decide (1 ≤ fld p 6 2 ∧ fld p 6 2 ≤ 64)
    && decide (128 ≤ imageLen p ∧ imageLen p ≤ 2 ^ 28) && p.length == imageAt p + imageLen p + 16 + 3309

/-- The digest that a package's signing key must have: OWNER_ROOT, or the manifest's SNIETH_PKG_KEY while it is blank. -/
def pkgRoot (s : State) : Bytes :=
  match s.sec.fuses.ownerRoot with
  | some r => r
  | none => slice s.sec.manifest 0x20 32

/-- The number of bits set in a thermometer counter (Table 17-1). -/
def svnCount (v : BitVec 64) : Nat := ((List.range 64).filter fun i => v.getLsbD i).length

/-- Unwrap a key (R397 step 6): ciphertext of the KEM, nonce, wrapped key, tag, additional data. -/
def unwrapKey (ct nonce wrapped tag aad : Bytes) : Option Bytes :=
  let kek := digest256 (Config.kemDecaps kemSeed ct ++ ct ++ ascii "UZY1632 wrap".toList)
  Config.aesOpen kek nonce aad wrapped tag

/-- The recipient block of the device, if the container has one: its offset. -/
def recipient (p : Bytes) : Option Nat :=
  ((List.range (fld p 6 2)).map (0x7D0 + 1184 * ·)).find? fun o => slice p o 32 == kemKeyId

/-- Steps 5 to 8 of R397: the decrypted image, or status and DETAIL. -/
def openImage (p : Bytes) : Except (Nat × Nat) Bytes :=
  match recipient p with
  | none => .error (0x22, 1)
  | some o =>
    let aad := slice p 0 0x30
    match unwrapKey (slice p (o + 32) 1088) (slice p (o + 1120) 12) (slice p (o + 1136) 32) (slice p (o + 1168) 16) aad with
    | none => .error (0x22, 2)
    | some key =>
      let a := imageAt p
      let n := imageLen p
      match Config.aesOpen key (slice p 0x20 12) aad (slice p a n) (slice p (a + n) 16) with
      | none => .error (0x22, 3)
      | some image =>
        if fld image 0x14 4 ≠ fld p 8 4 ∨ fld image 8 8 ≠ fld p 0x18 8 then .error (0x20, 4) else .ok image

/-- R397: the image that a container yields, or the status and DETAIL of the first step that fails. -/
def openContainer (s : State) (p : Bytes) : Except (Nat × Nat) Bytes :=
  if !containerOk p then .error (0x20, 1)
  else if digest256 (slice p 0x30 1952) ≠ pkgRoot s then .error (0x20, 2)
  else
    let m := imageAt p + imageLen p + 16
    if !Config.mldsaVerify (slice p 0x30 1952) (ascii "UZY1632 package".toList) (p.take m) (slice p m 3309) then
      .error (0x20, 3)
    else if fld p 8 4 < svnCount s.sec.fuses.pkgSvn then .error (0x21, 0)
    else openImage p

/-! ### The image (Tables 8-1 and 8-2) -/

/-- An entry of the section table. -/
structure Sect where
  typ : Nat
  variant : Nat
  core : Nat
  off : Nat
  len : Nat
  rsv : Nat
deriving DecidableEq, Repr

/-- The used entries of the section table (R160). -/
def sections (b : Bytes) : List Sect :=
  ((List.range 64).map fun i =>
    let o := 0x80 + 16 * i
    (⟨fld b o 2, fld b (o + 2) 1, fld b (o + 3) 1, fld b (o + 4) 4, fld b (o + 8) 4, fld b (o + 12) 4⟩ : Sect)).filter
      fun x => x.typ != 0

/-- N_ADAPT. -/
def nAdapt (b : Bytes) : Nat := fld b 0x1A 2

/-- The bytes of the first section of a type. -/
def sectionOf (b : Bytes) (typ : Nat) : Bytes :=
  match (sections b).find? (·.typ == typ) with
  | some x => slice b x.off x.len
  | none => []

/-- Check 0x03: every header field inside its range (Table 8-1). -/
def headerOk (b : Bytes) : Bool :=
  decide (1 ≤ fld b 0x18 2 ∧ fld b 0x18 2 ≤ 1024) && decide (nAdapt b ≤ 32)
    && decide (1 ≤ fld b 0x1C 1 ∧ fld b 0x1C 1 ≤ 64) && fld b 0x1D 1 == 0xF && fld b 0x1E 2 == 0
    && decide (1 ≤ fld b 0x20 2 ∧ fld b 0x20 2 ≤ 273) && decide (1 ≤ fld b 0x22 1 ∧ fld b 0x22 1 ≤ 32)
    && decide (1 ≤ fld b 0x23 1 ∧ fld b 0x23 1 ≤ 8) && decide (fld b 0x24 1 < 8) && decide (fld b 0x25 1 < 32)
    && fld b 0x26 2 == 0 && decide (0x3F800000 ≤ fld b 0x28 4 ∧ fld b 0x28 4 ≤ 0x42800000)
    && (nAdapt b != 0 || fld b 0x30 4 == 0) && fld b 0x34 4 == 0 && fld b 0x60 32 == 0

/-- One section lies inside the image, is aligned, and has fields that its type allows (R159, R160). -/
def sectOk (n : Nat) (x : Sect) : Bool :=
  let byVariant := x.typ == 1 || x.typ == 5 || x.typ == 6
  decide (x.typ ≤ 8) && x.off % 64 == 0 && decide (0x480 ≤ x.off ∧ 1 ≤ x.len ∧ x.off + x.len ≤ n) && x.rsv == 0
    && (if byVariant then decide (1 ≤ x.variant ∧ x.variant ≤ 4) else x.variant == 0)
    && (if x.typ = 1 then decide (x.core ≤ 1) else x.core == 0)

/-- No two sections of a list overlap. -/
def sectsApart : List Sect → Bool
  | [] => true
  | x :: r => r.all (fun y => !overlaps x.off x.len y.off y.len) && sectsApart r

/-- How many sections of a type, variant and core there are. -/
def sectCount (l : List Sect) (typ variant core : Nat) : Nat :=
  (l.filter fun x => x.typ == typ && x.variant == variant && x.core == core).length

/-- Check 0x04: the sections are in place and in the count that Table 8-2 requires. -/
def sectionsOk (b : Bytes) : Bool :=
  let l := sections b
  let one := if nAdapt b = 0 then 0 else 1
  l.all (sectOk b.length) && sectsApart l
    && [1, 2, 3, 4].all (fun v => sectCount l 1 v 0 == 1 && sectCount l 1 v 1 == 1 && sectCount l 5 v 0 == 1
      && sectCount l 6 v 0 == 1)
    && sectCount l 2 0 0 == 1 && sectCount l 3 0 0 == 1 && sectCount l 4 0 0 == one
    && decide (sectCount l 7 0 0 ≤ 1) && sectCount l 8 0 0 == one

/-- Check 0x06: the working sets of every variant and engine fit (R162). -/
def sizesOk (b : Bytes) : Bool :=
  [1, 2, 3, 4].all fun n => (List.range n).all fun p =>
    let v := variantOf b n
    decide (v.resident p ≤ 0x200000) && decide (v.resident p + v.work p ≤ 0x400000) && decide (v.acc p ≤ 3072)

/-- A layer's formats are ones that the array takes together in its OPMODE (R46, R47, R65). -/
def layerFmts (l : Config.Layer) : Bool :=
  (arrayModeFault { op := l.op, xfmt := l.xfmt, wfmt := l.wfmt, conj := l.conj, cmp := 0, tol := 0, gateOff := false }).isNone

/-- A layer may be adaptable (R161): MAC, a float or complex float class, a DRIFT_LIMIT finite and above 0. -/
def mayAdapt (l : Config.Layer) : Bool :=
  l.op == 0 && (l.wfmt == 6 || l.wfmt == 7 || l.wfmt == 10) && (f32 l.driftLimit).isFin && decide (0 < fcmpIeee (f32 l.driftLimit) (f32 0))

/-- The weights of a layer lie in the section of its kind: WEIGHTS_ADAPT holds FP32 master weights (Table 8-2). -/
def weightsInside (b : Bytes) (l : Config.Layer) : Bool :=
  decide (l.wOff + l.wLen ≤ (sectionOf b (if l.adaptable then 4 else 3)).length) && (!l.adaptable || (l.wOff % 4 == 0 && l.wLen % 4 == 0))

/-- Check 0x05: the layer entries (R161, Table 8-3). -/
def layersOk (b : Bytes) : Bool :=
  let l := Config.layers b
  l.length == fld b 0x18 2 && l.all (fun x => decide (x.phase ≤ 2) && layerFmts x && weightsInside b x && (!x.adaptable || mayAdapt x))
    && (l.filter (·.adaptable)).length == nAdapt b

/-- The bytes that an entry's lines take at a place, by their starts, meet those of another. -/
def linesMeet (a : List Nat) (la : Nat) (b : List Nat) (lb : Nat) : Bool := a.any fun x => b.any fun y => overlaps x la y lb

/-- The source and destination lines of a re-shard entry. -/
def srcLines (m : Config.ReshardMove) : List Nat := moveLines m.srcOff m.srcStride m.lines
def dstLines (m : Config.ReshardMove) : List Nat := moveLines m.dstOff m.dstStride m.lines

/-- Lines lie in the LC reserve, or in WORK_BYTES where that extends into the shared region (R168). -/
def linesHeld (v : Config.PhaseMap) (p off len : Nat) (stride : Int) (lines : Nat) : Bool :=
  (List.range lines).all fun (i : Nat) =>
    let a := (off : Int) + stride * ((i : Nat) : Int)
    decide (0 ≤ a ∧ a + len ≤ (max 0x200000 (v.resident p + v.work p) : Nat))

/-- The entries of one boundary (R168): at most 256, inside their space, no two destinations meeting, and no destination meeting a
source of the boundary. An entry on its own place is not moved, and so does not meet its own source. -/
def boundaryOk (v : Config.PhaseMap) (n : Nat) (l : List Config.ReshardMove) : Bool :=
  let at_ := (List.range l.length).zip l
  decide (l.length ≤ 256)
    && l.all (fun m => decide (m.srcPos < n ∧ m.dstPos < n) && linesHeld v m.srcPos m.srcOff m.lineBytes m.srcStride m.lines
        && linesHeld v m.dstPos m.dstOff m.lineBytes m.dstStride m.lines)
    && at_.all fun a => at_.all fun b =>
        (a.1 == b.1 || a.2.dstPos != b.2.dstPos || !linesMeet (dstLines a.2) a.2.lineBytes (dstLines b.2) b.2.lineBytes)
          && ((a.1 == b.1 && !moves a.2) || a.2.dstPos != b.2.srcPos
            || !linesMeet (dstLines a.2) a.2.lineBytes (srcLines b.2) b.2.lineBytes)

/-- Check 0x07: the re-shard entries of every variant and boundary. -/
def reshardOk (b : Bytes) : Bool :=
  [1, 2, 3, 4].all fun n => [0, 1].all fun i => boundaryOk (variantOf b n) n (Config.reshardMoves b n i)

/-- The sum of the layer MAC counts (check 0x09). -/
def layerMacs (b : Bytes) : Nat := ((Config.layers b).map (·.macs)).sum

/-- Check 0x08: the activation tables are as R108 requires. -/
def actsOk (b : Bytes) : Bool :=
  let a := sectionOf b 7
  a.length % 320 == 0 && (chunks 320 a).all fun t => tableOk (leList 4 t)

/-- The checks of Table 8-3 in their order: the reason of the first that fails. -/
def loadReason (s : State) (b : Bytes) : Option Nat :=
  if fld b 0 4 ≠ 0x314C5052 ∨ fld b 4 2 ≠ 1 ∨ fld b 6 2 ≠ 0 then some 1
  else if digest256 (b.drop 0x80) ≠ slice b 0x40 32 then some 2
  else if !headerOk b then some 3
  else if !sectionsOk b then some 4
  else if !layersOk b then some 5
  else if !sizesOk b then some 6
  else if !reshardOk b then some 7
  else if !actsOk b then some 8
  else if fld b 0x2C 4 * 1000000 < layerMacs b then some 9
  else if (s.modelSlotOf (fld b 8 8)).isNone && s.models.toList.all (·.isSome) then some 10
  else none

/-! ### A model as it is loaded -/

/-- The adaptation parameter block that a package gives (R174, Table 8-10): its ADAPT section, with the header's SEED. -/
def defaultParams (b : Bytes) : Bytes :=
  let f := Config.adaptField b
  toLE 1 (f 1) ++ toLE 1 (f 2) ++ toLE 1 (f 3) ++ toLE 1 (f 4) ++ toLE 2 (f 5) ++ toLE 2 (f 6) ++ toLE 2 (f 7)
    ++ toLE 2 (f 8) ++ toLE 2 (f 9) ++ zeros 2 ++ toLE 4 (f 11) ++ toLE 4 (f 12) ++ toLE 4 (f 13) ++ zeros 4
    ++ slice b 0x38 8 ++ toLE 4 (f 16) ++ zeros 20

/-- A model just loaded: version 0 is active, with the weights of the WEIGHTS_ADAPT section and their digest (R164, R180,
R185). -/
def newModel (b : Bytes) : Model :=
  let w := sectionOf b 4
  { id := BitVec.ofNat 64 (fld b 8 8), image := b, params := defaultParams b
    versions := [{ number := 0, parent := 0, state := .active, digest := digest256 w
                   weights := (leList 4 w).map (BitVec.ofNat 32) }] }

/-- Make an image resident in a slot (R164). -/
def putImage (s : State) (i : Nat) (b : Bytes) : State :=
  if h : i < 16 then
    let m := newModel b
    let s1 := dropModelWork s i
    let s2 := { s1 with models := s1.models.set i (some m) }
    refit (s2.putModel i { m with versions := [] } m).spineChanged
  else s

/-- MODEL_LOAD (R163, R164, R397): model slot, MODEL_ID, IMAGE_DIGEST. -/
def doModelLoad (c : Cmd) (_snap : Bytes) (s : State) : CmdOut :=
  match openContainer s c.params with
  | .error (st, d) => .fail s st d
  | .ok b =>
    match loadReason s b with
    | some r => .fail s 0x31 r
    | none =>
      let slot := match s.modelSlotOf (fld b 8 8) with
        | some i => i
        | none => ((List.range 16).find? fun i => (s.model? i).isNone).getD 0
      { st := putImage s slot b, body := join8 [slot, fld b 8 8] ++ slice b 0x40 32 }

def execModelLoad (c : Cmd) (s : State) : Host.Outcome State Fault Refusal :=
  .next (longCmd 0x20 false (fun _ => true) (fun _ => []) doModelLoad c s)

/-- A cell record binds the model. -/
def State.isBound (s : State) (id : Nat) : Bool := s.cfg.cells.any fun p => p.2.active && p.2.modelId == id

/-- MODEL_UNLOAD (R371). -/
def doModelUnload (c : Cmd) (s : State) : CmdOut :=
  let id := par8 c.params 0
  match s.modelSlotOf id with
  | none => .fail s 0x0007
  | some i =>
    if s.isBound id then .fail s 0x0009
    else if h : i < 16 then
      let s1 := dropModelWork s i
      { st := ({ s1 with models := s1.models.set i none }).spineChanged }
    else .fail s 0x0007

def execModelUnload (c : Cmd) (s : State) : Host.Outcome State Fault Refusal :=
  .next (shortCmd 0x21 false (exactLen 8) doModelUnload c s)

end Sys2Proof.Machine
end

