-- ==== Sys2Proof/Machine/Ldpc.lean ====
section
/-!
DEFINITION. The LDPC chain of the coding subsystem: CRCs (R195, R210), the scrambling sequence (R196), segmentation, rate
matching and interleaving, combining (R198), layered offset min-sum decoding (R200 to R202), encoding (R214). What the
manual takes from TS 38.212 and TS 38.211 by clause is written from those clauses (PRESUMED, log entry 35).
-/

namespace Sys2Proof.Machine
open Sys2Proof

/-! ### Bits and CRCs -/

/-- A CRC of TS 38.212 clause 5.1: its length and polynomial without the leading term. -/
structure Crc where
  len : Nat
  poly : Nat

def crc24A : Crc := ⟨24, 0x864CFB⟩
def crc24B : Crc := ⟨24, 0x800063⟩
def crc24C : Crc := ⟨24, 0xB2B117⟩
def crc16 : Crc := ⟨16, 0x1021⟩
def crc11 : Crc := ⟨11, 0x621⟩
def crc6 : Crc := ⟨6, 0x21⟩

/-- The remainder of a bit string. -/
def Crc.rem (c : Crc) (b : List Bool) : Nat :=
  b.foldl (fun r x =>
    let s := r * 2 % 2 ^ c.len
    if r.testBit (c.len - 1) != x then s ^^^ c.poly else s) 0

/-- The `w` bits of a number, most significant first. -/
def msbBits (w n : Nat) : List Bool := (List.range w).map fun i => n.testBit (w - 1 - i)

/-- Attach a CRC. -/
def Crc.attach (c : Crc) (b : List Bool) : List Bool := b ++ msbBits c.len (c.rem b)

/-- A string with its CRC is intact. -/
def Crc.good (c : Crc) (b : List Bool) : Bool := c.rem b == 0

/-- The transport-block CRC of a size (R210). -/
def tbCrc (tbs : Nat) : Crc := if 3824 < tbs then crc24A else crc16

/-- Bits as bytes, the first bit the most significant of its byte (DEDUCED, log entry 36). -/
def packBits (b : List Bool) : Bytes :=
  (chunks 8 b).map fun l => BitVec.ofNat 8 ((l ++ List.replicate (8 - l.length) false).foldl (fun n x => 2 * n + x.toNat) 0)

/-- The first `n` bits of bytes, most significant first. -/
def unpackBits (n : Nat) (b : Bytes) : List Bool := (b.flatMap fun x => msbBits 8 x.toNat).take n

/-- Bits as bytes, LSB first in each byte (R206). -/
def packLsb (b : List Bool) : Bytes :=
  (chunks 8 b).map fun l => BitVec.ofNat 8 (l.foldr (fun x n => x.toNat + 2 * n) 0)

/-- The first `n` bits of bytes, LSB first. -/
def unpackLsb (n : Nat) (b : Bytes) : List Bool :=
  (b.flatMap fun x => (List.range 8).map fun i => x.getLsbD i).take n

/-! ### The scrambling sequence (TS 38.211 clause 5.2.1) -/

/-- One step of the two shift registers. -/
def goldStep (x : Nat × Nat) : Nat × Nat :=
  let a := x.1
  let b := x.2
  (a / 2 + (if (bit a 3) != bit a 0 then 2 ^ 30 else 0),
   b / 2 + (if (bit b 3 != bit b 2) != (bit b 1 != bit b 0) then 2 ^ 30 else 0))

/-- `n` bits from a pair of registers on. -/
def goldBits : Nat → Nat × Nat → List Bool
  | 0, _ => []
  | n + 1, x => (bit x.1 0 != bit x.2 0) :: goldBits n (goldStep x)

/-- Step `n` times. -/
def goldSkip : Nat → Nat × Nat → Nat × Nat
  | 0, x => x
  | n + 1, x => goldSkip n (goldStep x)

/-- The first `n` bits of the sequence of a c_init. -/
def goldSeq (cInit n : Nat) : List Bool := goldBits n (goldSkip 1600 (1, cInit % 2 ^ 31))

/-- The sequence's bits at given places; none: 0, 1, 2 and so on. -/
def scrAt (cInit : Nat) (places : Option (List Nat)) (n : Nat) : List Bool :=
  match places with
  | none => goldSeq cInit n
  | some l =>
    let c := goldSeq cInit (l.foldl Nat.max 0 + 1)
    (l.take n).map fun i => c.getD i false

/-! ### LLRs (R52, R198) -/

/-- An LLR as the coding subsystem reads it: −128 as −127 (R52). -/
def llrOf (b : Byte) : Int := if b.toInt = -128 then -127 else b.toInt

/-- The clamp of combined LLRs. -/
def clampLlr (v : Int) : Int := if v < -127 then -127 else if 127 < v then 127 else v

/-- Negate the LLRs whose scrambling bit is 1 (R198 step 1). -/
def descramble (l : List Int) (c : List Bool) : List Int :=
  (l.zip c).map fun p => if p.2 then -p.1 else p.1

/-! ### Segmentation (clause 5.2.2) -/

/-- The 51 lifting sizes with their set indices. -/
def liftings : List (Nat × Nat) :=
  ([2, 3, 5, 7, 9, 11, 13, 15].zip (List.range 8)).flatMap fun p =>
    ((List.range 8).map fun j => (p.1 * 2 ^ j, p.2)).filter fun q => q.1 ≤ 384

/-- What segmentation fixes for a transport block. -/
structure Seg where
  bg : Nat
  /-- Code blocks, K′, lifting size, its set index, K, N_cb. -/
  c : Nat
  kp : Nat
  zc : Nat
  set : Nat
  k : Nat
  ncb : Nat

/-- Segment a transport block. TBS_LBRM limits the circular buffer to N_ref at the rate 2/3 (clause 5.4.2.1). -/
def segment (tbs bg : Nat) (tbsLbrm : Option Nat) : Seg :=
  let b := tbs + (tbCrc tbs).len
  let kcb := if bg = 1 then 8448 else 3840
  let c := if b ≤ kcb then 1 else ceilDiv b (kcb - 24)
  let bp := if c = 1 then b else b + 24 * c
  let kp := bp / c
  let kb := if bg = 1 then 22 else if 640 < b then 10 else if 560 < b then 9 else if 192 < b then 8 else 6
  let fit := liftings.filter fun z => decide (kp ≤ kb * z.1)
  let z := fit.foldl (fun (m : Nat × Nat) x => if x.1 < m.1 then x else m) (384, 1)
  let n := if bg = 1 then 66 * z.1 else 50 * z.1
  { bg := bg, c := c, kp := kp, zc := z.1, set := z.2, k := (if bg = 1 then 22 else 10) * z.1,
    ncb := match tbsLbrm with | some t => min n (3 * t / (2 * c)) | none => n }

/-- Bytes of the LLR part and the bit part of a code block's area, and of a whole buffer (R206). -/
def Seg.llrPart (g : Seg) : Nat := ceilDiv g.ncb 64 * 64
def Seg.bitPart (g : Seg) : Nat := ceilDiv (ceilDiv g.kp 8) 64 * 64
def Seg.bufBytes (g : Seg) : Nat := 128 + g.c * (g.llrPart + g.bitPart)

/-! ### Rate matching (clause 5.4.2) -/

/-- E_r of the `j`-th of `c` code blocks that are sent. -/
def rateE (g layers qm c j : Nat) : Nat :=
  let u := g / (layers * qm)
  if j + 1 + u % c ≤ c then layers * qm * (u / c) else layers * qm * ceilDiv u c

/-- The start of a redundancy version in the circular buffer. Factors 17 and 27 of base graph 1 stand in R209; the others
are the clause's (DEDUCED, log entry 37). -/
def rvStart (s : Seg) (rv : Nat) : Nat :=
  let f : Nat := if s.bg = 1 then (match rv with | 0 => 0 | 1 => 17 | 2 => 27 | _ => 56)
    else (match rv with | 0 => 0 | 1 => 13 | 2 => 25 | _ => 43)
  f * s.ncb / ((if s.bg = 1 then 66 else 50) * s.zc) * s.zc

/-- A position of the circular buffer is no filler. -/
def Seg.live (s : Seg) (p : Nat) : Bool := !(decide (s.kp ≤ p + 2 * s.zc) && decide (p + 2 * s.zc < s.k))

/-- The positions of the circular buffer from a start on, once round, that are no filler. -/
def Seg.order (s : Seg) (k0 : Nat) : List Nat :=
  ((List.range s.ncb).map fun j => (k0 + j) % s.ncb).filter s.live

/-- Undo the bit interleaving of E LLRs (clause 5.4.2.2): input place i + j·Qm holds output place i·E/Qm + j. -/
def deinterleave (qm : Nat) (l : List Int) : List Int :=
  let cols := chunks qm l
  (List.range qm).flatMap fun i => cols.map fun c => c.getD i 0

/-- The bit interleaving. -/
def interleave (qm : Nat) (l : List Bool) : List Bool :=
  let rows := chunks (l.length / qm) l
  (List.range (l.length / qm)).flatMap fun j => rows.map fun r => (r[j]?).getD false

/-- Sums of the LLRs that fall on each of `n` places in turn. -/
def foldSums (n : Nat) (l : List Int) : List Int :=
  (chunks n l).foldl (fun (a c : List Int) => (a.zip (c ++ List.replicate (n - c.length) 0)).map fun (p : Int × Int) => p.1 + p.2)
    (List.replicate n 0)

/-- Put values on the live places of a buffer walked from its start, zero on filler. -/
def spread : List Bool → List Int → List Int
  | [], _ => []
  | true :: f, v :: r => v :: spread f r
  | true :: f, [] => 0 :: spread f []
  | false :: f, r => 0 :: spread f r

/-- The exact sum of what a transmission maps to each position of the circular buffer (R198 steps 3 and 4). -/
def bufferSums (s : Seg) (k0 : Nat) (e : List Int) : List Int :=
  let walk := (List.range s.ncb).map fun j => s.live ((k0 + j) % s.ncb)
  let n := (walk.filter (·)).length
  let v := spread walk (foldSums n e)
  v.drop (s.ncb - k0) ++ v.take (s.ncb - k0)

/-- Combine with stored LLRs: the exact sum, clamped once. -/
def combine (stored sums : List Int) : List Int :=
  ((stored ++ List.replicate (sums.length - stored.length) (0 : Int)).zip sums).map fun (p : Int × Int) => clampLlr (p.1 + p.2)

/-- Bit selection of an encoder (clause 5.4.2.1). -/
def selectBits (s : Seg) (k0 e : Nat) (d : List Bool) : List Bool :=
  let o := s.order k0
  (List.range e).map fun i => (d[(o[i % o.length]?).getD 0]?).getD false

/-! ### Layered offset min-sum (R200 to R202) -/

/-- Clamp to ±b. -/
def clampTo (b v : Int) : Int := if v < -b then -b else if b < v then b else v

/-- A decoder's memory: a-posteriori values by variable, messages by row, check and place in the check. -/
structure LdpcMem where
  p : Table Int
  r : Table (List Int)

/-- The variables of a check. -/
def checkVars (s : Seg) (row z : Nat) : List Nat :=
  (Config.ldpcRow s.bg s.set row).map fun e => e.1 * s.zc + (z + e.2) % s.zc

/-- A variable is filler. -/
def Seg.filler (s : Seg) (j : Nat) : Bool := decide (s.kp ≤ j ∧ j < s.k)

/-- The smallest of a list of magnitudes; none of an empty list. -/
def least : List Nat → Option Nat
  | [] => none
  | a :: r => some (r.foldl Nat.min a)

/-- New messages of one check from its Q values (R200 step 2): each leaves its own variable out. -/
def newMessages (beta : Int) (q : List Int) : List Int :=
  (List.range q.length).map fun i =>
    let o := q.eraseIdx i
    let m : Int := match least (o.map Int.natAbs) with | some v => v | none => 0
    let neg := o.foldl (fun b v => b != decide (v < 0)) false
    let v := if m - beta < 0 then 0 else m - beta
    if neg then -v else v

/-- Process one check. -/
def doCheck (s : Seg) (beta : Int) (row z : Nat) (m : LdpcMem) : LdpcMem :=
  let vars := checkVars s row z
  let key := row * 384 + z
  let old := (tget? m.r key).getD (List.replicate vars.length 0)
  let q := (vars.zip old).map fun x => clampTo 1023 (tget m.p x.1 0 - x.2)
  let new := newMessages beta q
  { p := (vars.zip (q.zip new)).foldl (fun t x =>
      if s.filler x.1 then t else tset t x.1 (clampTo 2047 (x.2.1 + x.2.2))) m.p
    r := tset m.r key new }

/-- Rows of the base graph. -/
def Seg.rows (s : Seg) : Nat := if s.bg = 1 then 46 else 42

/-- Byte of the offset table for an iteration entry and a row (R201). -/
def betaAt (s : Seg) (i row : Nat) : Nat := if s.bg = 1 then 46 * i + row else 736 + 42 * i + row

/-- One iteration: every row in order, every check of it. -/
def iterate (s : Seg) (table : Bytes) (i : Nat) (m : LdpcMem) : LdpcMem :=
  (List.range s.rows).foldl (fun m row =>
    let beta : Int := fld table (betaAt s (min (i - 1) 15) row) 1
    (List.range s.zc).foldl (fun m z => doCheck s beta row z m) m) m

/-- A check of the hard decisions holds. -/
def checkHolds (s : Seg) (m : LdpcMem) (row z : Nat) : Bool :=
  (checkVars s row z).foldl (fun b j => b != decide (tget m.p j 0 < 0)) false == false

/-- The syndrome of the hard decisions is zero. -/
def syndromeZero (s : Seg) (m : LdpcMem) : Bool :=
  (List.range s.rows).all fun row => (List.range s.zc).all fun z => checkHolds s m row z

/-- Iterations from the `i`-th on, `n` more at most: the memory and the iterations run. -/
def iterations (s : Seg) (table : Bytes) : Nat → Nat → LdpcMem → LdpcMem × Nat
  | 0, i, m => (m, i - 1)
  | n + 1, i, m =>
    let m1 := iterate s table i m
    if syndromeZero s m1 then (m1, i) else iterations s table n (i + 1) m1

/-- Decode one code block from its combined LLRs: the K′ bits and the iterations run. -/
def ldpcDecode (s : Seg) (table : Bytes) (maxIter : Nat) (llr : List Int) : List Bool × Nat :=
  let total := (if s.bg = 1 then 68 else 52) * s.zc
  let p0 := (List.range total).map fun j =>
    (j, if s.filler j then (2047 : Int) else if j < 2 * s.zc then 0 else 4 * (llr[j - 2 * s.zc]?).getD 0)
  let (m, n) := iterations s table maxIter 1 ⟨p0, []⟩
  ((List.range s.kp).map fun j => decide (tget m.p j 0 < 0), n)

/-! ### Encoding a transport block (R214) -/

/-- The code blocks of a transport block with its CRC: K′ bits each. -/
def codeBlocks (s : Seg) (tb : List Bool) : List (List Bool) :=
  let b := (tbCrc tb.length).attach tb
  if s.c ≤ 1 then [b] else (chunks (s.kp - 24) b).map crc24B.attach

/-- What a row of the base graph sums over the columns known so far, check by check. -/
def rowSum (s : Seg) (known : List (List Bool)) (row : Nat) : List Bool :=
  let l := (Config.ldpcRow s.bg s.set row).filter fun e => decide (e.1 < known.length)
  (List.range s.zc).map fun z =>
    l.foldl (fun b e => b != (((known[e.1]?).getD [])[(z + e.2) % s.zc]?).getD false) false

/-- The column whose bits, shifted, are a sum. -/
def unshift (zc shift : Nat) (l : List Bool) : List Bool :=
  (List.range zc).map fun j => (l[(j + zc - shift % zc) % zc]?).getD false

/-- The shift of a column in a row. -/
def shiftIn (s : Seg) (row col : Nat) : Nat :=
  match (Config.ldpcRow s.bg s.set row).find? (·.1 == col) with | some e => e.2 | none => 0

/-- The shift with which the first parity column is left in the sum of the first four rows: it stands in three of them, twice with
one shift. -/
def coreShift (s : Seg) (col : Nat) : Nat :=
  let l := (List.range 4).flatMap fun r => ((Config.ldpcRow s.bg s.set r).filter (·.1 == col)).map fun e => e.2 % s.zc
  match l.filter fun x => l.count x % 2 == 1 with | x :: _ => x | [] => 0

/-- The parity columns one after another (clause 5.3.2): the word meets every check of the base graph. Rows 0 to 2 give the second
to the fourth, each later row the next. -/
def parityCols (s : Seg) : Nat → List (List Bool) → List (List Bool)
  | 0, known => known
  | n + 1, known =>
    let kb := s.k / s.zc
    let i := known.length - kb
    let row := if i < 4 then i - 1 else i
    parityCols s n (known ++ [unshift s.zc (shiftIn s row known.length) (rowSum s known row)])

/-- LDPC coding of K bits (clause 5.3.2). -/
def ldpcWord (s : Seg) (info : List Bool) : List Bool :=
  let known := chunks s.zc info
  let core := (List.range 4).foldl (fun a r => (a.zip (rowSum s known r)).map fun p => p.1 != p.2) (List.replicate s.zc false)
  (parityCols s (s.rows - 1) (known ++ [unshift s.zc (coreShift s known.length) core])).flatten

/-- The circular buffer's content of a code block: the codeword without its first 2·Zc bits. -/
def ldpcEncode (s : Seg) (b : List Bool) : List Bool :=
  ((ldpcWord s (b ++ List.replicate (s.k - s.kp) false)).drop (2 * s.zc)).take s.ncb

/-- DL-SCH processing of clause 7.2, which the labels of R215 share: the transmitted bits, in order. -/
def encodeTb (tb : List Bool) (bg qm layers rv g : Nat) (tbsLbrm : Option Nat) (sent : Option (List Nat)) : List Bool :=
  let s := segment tb.length bg tbsLbrm
  let blocks := codeBlocks s tb
  let idx := match sent with | some l => l | none => List.range blocks.length
  (idx.zip (List.range idx.length)).flatMap fun p =>
    let e := rateE g layers qm idx.length p.2
    interleave qm (selectBits s (rvStart s rv) e (ldpcEncode s ((blocks[p.1]?).getD [])))

end Sys2Proof.Machine
end

