-- ==== Sys2Proof/Machine/Polar.lean ====
section
/-!
DEFINITION. The polar unit: list decoding of UCI (R211), small-block decoding (R212), encoding of DCI and BCH (R214). What
the manual takes from TS 38.212 by clause is written from those clauses (PRESUMED, log entry 35).
-/

namespace Sys2Proof.Machine
open Sys2Proof

/-! ### Code construction (clauses 5.3.1 and 5.4.1) -/

/-- The least `n` with a power of two at or above a number. -/
def ceilLog2 (x : Nat) : Nat := if x ≤ 1 then 0 else Nat.log2 (x - 1) + 1

/-- The logarithm of the code length for K bits with CRC, E coded bits and the largest logarithm. -/
def polarN (k e nMax : Nat) : Nat :=
  let c := ceilLog2 e
  let n1 := if 8 * e ≤ 9 * 2 ^ (c - 1) ∧ 16 * k < 9 * e then c - 1 else c
  max 5 (min (min n1 (ceilLog2 (8 * k))) nMax)

/-- The sub-block interleaver pattern (Table 5.4.1.1-1). -/
def subBlock : List Nat :=
  [0, 1, 2, 4, 3, 5, 6, 7, 8, 16, 9, 17, 10, 18, 11, 19, 12, 20, 13, 21, 14, 22, 15, 23, 24, 25, 26, 28, 27, 29, 30, 31]

/-- J(n) for a code length. -/
def polarJ (len n : Nat) : Nat := ((subBlock[32 * n / len]?).getD 0) * (len / 32) + n % (len / 32)

/-- The positions that rate matching freezes. -/
def polarTmp (len k e : Nat) : List Nat :=
  if len ≤ e then []
  else if 16 * k ≤ 7 * e then
    (List.range (len - e)).map (polarJ len) ++
      List.range (if 3 * len ≤ 4 * e then ceilDiv (3 * len - 2 * e) 4 else ceilDiv (9 * len - 4 * e) 16)
  else (List.range (len - e)).map fun i => polarJ len (e + i)

/-- A polar code: length, bits with CRC, coded bits, information positions, parity-check positions. -/
structure PolarCode where
  len : Nat
  k : Nat
  e : Nat
  info : List Nat
  pc : List Nat

/-- Weight of a row of the generator matrix. -/
def rowWeight (i : Nat) : Nat := 2 ^ ((List.range 10).filter (bit i ·)).length

/-- The parity-check positions among the information positions, given by rising reliability. -/
def pcPositions (q : List Nat) (nPc nWm : Nat) : List Nat :=
  let low := q.take (nPc - nWm)
  let rest := q.drop nPc
  let w := (rest.map rowWeight).foldl Nat.min (2 ^ 10)
  low ++ ((rest.reverse.filter fun i => rowWeight i == w).take nWm)

/-- The code for K bits with CRC and E coded bits. -/
def polarCode (k e nMax : Nat) : PolarCode :=
  let len := 2 ^ polarN k e nMax
  let (nPc, nWm) := if nMax = 10 ∧ 18 ≤ k ∧ k ≤ 25 then (3, if k + 192 < e + 3 then 1 else 0) else (0, 0)
  let tmp := polarTmp len k e
  let q := (Config.polarOrder.filter fun i => decide (i < len)).filter fun i => !tmp.contains i
  let info := q.drop (q.length - (k + nPc))
  { len := len, k := k, e := e, info := info, pc := pcPositions info nPc nWm }

/-! ### Rate recovery and rate matching (clause 5.4.1) -/

/-- Rows of the triangular interleaver for E bits. -/
def triGo (e : Nat) : Nat → Nat → Nat
  | 0, t => t
  | f + 1, t => if e ≤ t * (t + 1) / 2 then t else triGo e f (t + 1)

/-- Where the coded bits of the channel interleaver come from: output place by place (clause 5.4.1.3). -/
def triOrder (e : Nat) : List Nat :=
  let t := triGo e e 0
  let start := fun i : Nat => i * t - i * (i - 1) / 2
  ((List.range t).flatMap fun j => (List.range (t - j)).map fun i => start i + j).filter (· < e)

/-- Undo the channel interleaving. -/
def triUndo (l : List Int) : List Int :=
  let t : Table Int := ((triOrder l.length).zip l).foldl (fun t p => tset t p.1 p.2) []
  t.map (·.2)

/-- The LLRs of the code's positions before sub-block interleaving (R211 step 1). -/
def polarRecover (c : PolarCode) (l : List Int) : List Int :=
  let y : List Int :=
    if c.len ≤ c.e then (foldSums c.len l).map clampLlr
    else if 16 * c.k ≤ 7 * c.e then List.replicate (c.len - c.e) 0 ++ l
    else l ++ List.replicate (c.len - c.e) 127
  let t : Table Int := ((List.range c.len).zip y).foldl (fun t p => tset t (polarJ c.len p.1) p.2) []
  t.map (·.2)

/-- Bit selection of the encoder. -/
def polarSelect (c : PolarCode) (d : List Bool) : List Bool :=
  let y := (List.range c.len).map fun n => (d[polarJ c.len n]?).getD false
  let at_ := fun i : Nat => (y[i]?).getD false
  (List.range c.e).map fun i =>
    if c.len ≤ c.e then at_ (i % c.len) else if 16 * c.k ≤ 7 * c.e then at_ (i + c.len - c.e) else at_ i

/-! ### The transform and successive cancellation -/

/-- The polar transform of a list of 2^n bits. -/
def polarEnc : Nat → List Bool → List Bool
  | 0, u => u
  | n + 1, u =>
    let a := polarEnc n (u.take (2 ^ n))
    let b := polarEnc n (u.drop (2 ^ n))
    (a.zip b).map (fun p => p.1 != p.2) ++ b

/-- The min-sum combination of two LLRs. -/
def minSum (a b : Int) : Int :=
  let m : Int := min a.natAbs b.natAbs
  if decide (a < 0) != decide (b < 0) then -m else m

/-- The LLR of bit `u.length` of a code of length 2^n, the bits before it given. -/
def scLlr : Nat → List Int → List Bool → Int
  | 0, l, _ => l.headD 0
  | n + 1, l, u =>
    let h := 2 ^ n
    let a := l.take h
    let b := l.drop h
    if u.length < h then scLlr n ((a.zip b).map fun p => minSum p.1 p.2) u
    else
      let x := polarEnc n (u.take h)
      scLlr n (((a.zip b).zip x).map fun p => if p.2 then p.1.2 - p.1.1 else p.1.2 + p.1.1) (u.drop h)

/-- A path of the list: bits so far, metric, the five registers of the parity-check bits. -/
structure Path where
  u : List Bool := []
  metric : Int := 0
  y : List Bool := [false, false, false, false, false]

/-- Extend a path by a bit whose LLR is given: a bit against the sign pays the magnitude. -/
def Path.extend (p : Path) (l : Int) (b : Bool) (y : List Bool) : Path :=
  { u := p.u ++ [b], metric := p.metric + if b != decide (l < 0) then (l.natAbs : Int) else 0, y := y }

/-- Rotate the five registers. -/
def rotateY (y : List Bool) : List Bool := y.drop 1 ++ y.take 1

/-- The extensions of a path at its next position, each with its newest bit. -/
def Path.next (c : PolarCode) (n : Nat) (llr : List Int) (p : Path) : List Path :=
  let i := p.u.length
  let l := scLlr n llr p.u
  let y := rotateY p.y
  let y0 := y.headD false
  if c.pc.contains i then [p.extend l y0 y]
  else if c.info.contains i then
    [p.extend l false y, p.extend l true ((y0 != true) :: y.drop 1)]
  else [p.extend l false y]

/-- Order of the paths: lower metric, then newest bit 0, then lower list index (R211 step 2). -/
def pathBefore (a b : Path × Nat) : Bool :=
  decide (a.1.metric < b.1.metric) || (decide (a.1.metric = b.1.metric) &&
    (let x := (a.1.u.getLast?).getD false
     let z := (b.1.u.getLast?).getD false
     (!x && z) || (x == z && decide (a.2 ≤ b.2))))

/-- One position for the whole list, cut to eight paths. -/
def listStep (c : PolarCode) (n : Nat) (llr : List Int) (ps : List Path) : List Path :=
  let all := (ps.zip (List.range ps.length)).flatMap fun p => (p.1.next c n llr).map fun x => (x, p.2)
  ((sortBy pathBefore all).take 8).map (·.1)

/-- The surviving paths, best first. -/
def polarList (c : PolarCode) (llr : List Int) : List Path :=
  let n := Nat.log2 c.len
  (List.range c.len).foldl (fun ps _ => listStep c n llr ps) [{}]

/-- The bits that a path carries at the information positions, in their order. -/
def carried (c : PolarCode) (p : Path) : List Bool :=
  ((List.range c.len).zip p.u).filterMap fun x => if c.info.contains x.1 && !c.pc.contains x.1 then some x.2 else none

/-- Decode one segment of A bits from E LLRs: the payload, if it passes (R211 steps 3 and 4). -/
def polarSegment (a : Nat) (llr : List Int) (small : Bool) : Option (List Bool) :=
  let crc := if small then crc6 else crc11
  let c := polarCode (a + crc.len) llr.length 10
  let words := (polarList c (polarRecover c (triUndo llr))).map (carried c)
  let ok := if small then (words.take 1).find? crc.good else words.find? crc.good
  ok.map (·.take a)

/-- Decode a UCI part of 12 bits and more: the bits, if it passes (R211). -/
def polarDecodeUci (k : Nat) (llr : List Int) : Option (List Bool) :=
  if k < 20 then polarSegment k llr true
  else if 360 ≤ k ∧ 1088 ≤ llr.length then
    let a := ceilDiv k 2
    let h := llr.length / 2
    match polarSegment a (llr.take h) false, polarSegment a ((llr.drop h).take h) false with
    | some x, some y => some (x.drop (k % 2) ++ y)
    | _, _ => none
  else polarSegment k llr false

/-! ### Small blocks (clauses 5.3.3 and 5.4.3, R212) -/

/-- Rows of the basis of the (32, 11) code, bit k of a number the element k (Table 5.3.3.3-1). -/
def rmRows : List Nat :=
  [0x403, 0x607, 0x749, 0x50D, 0x48F, 0x5D3, 0x755, 0x599, 0x69B, 0x65D, 0x6E5, 0x567, 0x7A9, 0x6AB, 0x4B1, 0x6F3,
   0x277, 0x139, 0x0FB, 0x061, 0x445, 0x60B, 0x591, 0x717, 0x3DF, 0x4E3, 0x32D, 0x3AF, 0x175, 0x1FD, 0x7FF, 0x001]

/-- A place of a small block's code: an information combination, or a placeholder of value 1. -/
inductive SmallBit where
  | par (mask : Nat)
  | one
deriving DecidableEq

/-- The code of K bits, place by place. The placeholder y repeats the bit before it (TS 38.211 clause 6.3.1.1). -/
def smallCode (k qm : Nat) : List SmallBit :=
  if k = 1 then .par 1 :: (if qm < 2 then [] else .par 1 :: List.replicate (qm - 2) .one)
  else if k = 2 then
    if qm < 2 then [.par 1, .par 2, .par 3]
    else
      let x : List SmallBit := List.replicate (qm - 2) .one
      [.par 1, .par 2] ++ x ++ [.par 3, .par 1] ++ x ++ [.par 2, .par 3] ++ x
  else rmRows.map fun r => .par (r % 2 ^ k)

/-- Parity of the bits of a number. -/
def parity (n : Nat) : Bool := (List.range 11).foldl (fun b i => b != bit n i) false

/-- The correlation of the recovered LLRs with the codeword of an information word. -/
def smallMetric (code : List SmallBit) (l : List Int) (w : Nat) : Int :=
  ((code.zip l).map fun p => match p.1 with
    | .par m => if parity (m &&& w) then -p.2 else p.2
    | .one => 0).foldl (· + ·) 0

/-- The best information word and its metric, the lower word winning a tie. -/
def smallBest (k : Nat) (code : List SmallBit) (l : List Int) : Nat × Int :=
  (List.range (2 ^ k)).foldl (fun (b : Nat × Int) w =>
    let m := smallMetric code l w
    if w = 0 ∨ b.2 < m then (w, m) else b) (0, 0)

/-- Sum of the magnitudes that the metric is divided by. -/
def smallTotal (code : List SmallBit) (l : List Int) : Nat :=
  ((code.zip l).map fun p => match p.1 with | .par _ => p.2.natAbs | .one => 0).foldl (· + ·) 0

/-- Decode a small block: the bits, the best metric and the sum of magnitudes. -/
def smallDecode (k qm : Nat) (llr : List Int) : List Bool × Int × Nat :=
  let code := smallCode k qm
  let l := foldSums code.length llr
  let (w, m) := smallBest k code l
  ((List.range k).map (bit w), m, smallTotal code l)

/-! ### Encoding (clauses 7.1 and 7.3, R214) -/

/-- Interleave information bits with their CRC (clause 5.3.1.1). -/
def polarInterleave (b : List Bool) : List Bool :=
  let k := b.length
  (Config.polarIl.filter fun i => decide (164 ≤ i + k)).map fun i => (b[i - (164 - k)]?).getD false

/-- Encode K bits with CRC into E coded bits, with N up to 512 and no channel interleaving. -/
def polarEncode (b : List Bool) (e : Nat) : List Bool :=
  let c := polarCode b.length e 9
  let pos := (List.range c.len).filter c.info.contains
  let t : Table Bool := (pos.zip (polarInterleave b)).foldl (fun t p => tset t p.1 p.2) []
  polarSelect c (polarEnc (Nat.log2 c.len) ((List.range c.len).map fun i => tget t i false))

/-- The coded bits of a DCI: CRC24C over 24 ones and the payload, masked by the RNTI (clause 7.3.2). -/
def encodeDci (d : DciPdu) : List Bool :=
  let r := crc24C.rem (List.replicate 24 true ++ d.bits) ^^^ d.rnti.toNat
  polarEncode (d.bits ++ msbBits 24 r) d.e

/-- The interleaver of the PBCH payload (Table 7.1.1-1). -/
def pbchG : List Nat :=
  [16, 23, 18, 17, 8, 30, 10, 6, 24, 7, 0, 5, 3, 2, 1, 4, 9, 11, 12, 13, 14, 15, 19, 20, 21, 22, 25, 26, 27, 28, 29, 31]

/-- Which counter of the payload interleaver a bit takes: 0 SFN, 10 half frame, 11 SSB index, 14 other (clause 7.1.1). -/
def pbchClass (i : Nat) : Nat :=
  if (1 ≤ i ∧ i ≤ 6) ∨ (24 ≤ i ∧ i ≤ 27) then 0 else if i = 28 then 10 else if 29 ≤ i then 11 else 14

/-- The interleaved payload: bit places by the order in which each class comes. -/
def pbchPlaces : List Nat :=
  (List.range 32).map fun i =>
    let n := ((List.range i).filter fun j => pbchClass j == pbchClass i).length
    (pbchG[pbchClass i + n]?).getD 0

/-- The coded bits of a BCH (clause 7.1): payload generation, scrambling, CRC24C, polar code, 864 bits. -/
def encodeBch (d : BchPdu) : List Bool :=
  let raw := d.mib.take 24 ++ d.extra.take 8
  let t : Table Bool := (pbchPlaces.zip raw).foldl (fun t p => tset t p.1 p.2) []
  let a := (List.range 32).map fun i => tget t i false
  -- The 3rd and 2nd least significant SFN bits, the half-frame bit and SSB index bits stay unscrambled.
  let open_ := ([25, 26, 28] ++ if d.l64 then [29, 30, 31] else []).map fun i => (pbchPlaces[i]?).getD 0
  let v := 2 * ((raw[25]?).getD false).toNat + ((raw[26]?).getD false).toNat
  let m := 32 - open_.length
  let c := (goldSeq d.cellId ((v + 1) * m)).drop (v * m)
  let s := (List.range 32).map fun i =>
    if open_.contains i then false
    else c.getD ((List.range i).filter fun j => !open_.contains j).length false
  let x := (a.zip s).map fun p => p.1 != p.2
  polarEncode (crc24C.attach x) 864

end Sys2Proof.Machine
end

