-- ==== Sys2Proof/Machine/Coding.lean ====
section
/-!
DEFINITION. The coding subsystem at work (R193 to R220): combining against HARQ buffers, spilling, decoding, write-back,
transport-block CRCs, UCI, encoding, and the PRACH correlator.
-/

namespace Sys2Proof.Machine
open Sys2Proof

/-! ### Contexts -/

/-- Change one PUSCH of a slot-reception. -/
def State.setPusch (s : State) (tag : BitVec 16) (i : Nat) (f : PuschCtx → PuschCtx) : State :=
  s.setRx tag fun r => { r with pusch := listMod r.pusch i f }

/-- Change one code block of a PUSCH. -/
def State.setCb (s : State) (tag : BitVec 16) (i n : Nat) (f : CbCtx → CbCtx) : State :=
  s.setPusch tag i fun p => { p with cbs := listMod p.cbs n f }

/-- The home cluster of a quire. -/
def homeOf (s : State) (tag : BitVec 16) : Fin 4 :=
  match tget? s.quires tag.toNat with | some q => q.cluster | none => 0

/-- The segmentation of a PUSCH. -/
def segOf (p : Pusch) : Seg := segment p.tbs p.bg p.tbsLbrm

/-- The code blocks that a PUSCH transmits. -/
def sentCbs (p : Pusch) : List Nat :=
  let c := (segOf p).c
  match p.cbgTx with | some l => l.filter (· < c) | none => List.range c

/-! ### HARQ buffers (R205 to R209) -/

/-- The address of the buffer that a PUSCH names and fits in (R206). -/
def harqAddr (s : State) (p : Pusch) : Option Nat :=
  match s.coding.harq with
  | none => none
  | some h =>
    if p.harqBuf.toNat < h.count ∧ (segOf p).bufBytes ≤ h.stride then
      some (ddrAt + h.base + p.harqBuf.toNat * h.stride)
    else none

/-- Where a code block's LLR part and bit part lie from the start of its buffer (R206). -/
def Seg.llrAt (g : Seg) (n : Nat) : Nat := 128 + n * (g.llrPart + g.bitPart)
def Seg.bitAt (g : Seg) (n : Nat) : Nat := g.llrAt n + g.llrPart

/-- The fields that a stored header and a PDU must share (R207): Table 9-5 without STATE, TX_COUNT and what follows. -/
def headerKey (cell : Nat) (p : Pusch) : List Nat :=
  let g := segOf p
  [cell, p.rnti.toNat, p.harqId.toNat, p.tbs, g.bg, g.zc, g.c, g.ncb, g.kp]

/-- The same fields of a stored header. -/
def storedKey (h : Bytes) : List Nat :=
  [fld h 0 2, fld h 2 2, fld h 4 1, fld h 8 4, fld h 6 1, fld h 0xC 2, fld h 0xE 2, fld h 0x10 4, fld h 0x14 4]

/-- A buffer header (Table 9-5). -/
def headerBytes (cell : Nat) (p : Pusch) (state tx sfnSlot ok valid : Nat) : Bytes :=
  let g := segOf p
  toLE 2 cell ++ toLE 2 p.rnti.toNat ++ toLE 1 p.harqId.toNat ++ toLE 1 state ++ toLE 1 g.bg ++ toLE 1 tx
    ++ toLE 4 p.tbs ++ toLE 2 g.zc ++ toLE 2 g.c ++ toLE 4 g.ncb ++ toLE 4 g.kp ++ toLE 8 sfnSlot ++ toLE 24 ok
    ++ toLE 24 valid ++ zeros 48

/-- Slot-reception `a` closed before `b`, ties by cell index (R204). -/
def closedBefore (a b : RxCtx) : Bool := decide (a.close < b.close ∨ (a.close = b.close ∧ a.cell < b.cell))

/-- A PUSCH names a buffer: its HARQ_BUF lies below BUF_COUNT (R206). -/
def namesBuffer (s : State) (p : Pusch) : Bool :=
  match s.coding.harq with | some h => decide (p.harqBuf.toNat < h.count) | none => false

/-- A PUSCH names the buffer that an earlier PDU of its slot record names (R209). -/
def bufferConflict (s : State) (r : RxCtx) (i : Nat) (p : Pusch) : Bool :=
  namesBuffer s p && (r.pusch.take i).any fun o => o.pdu.harqBuf == p.harqBuf

/-- A PUSCH of a slot-reception still owes the header write of a buffer: not one whose quire faulted, or that was late, before its
LLRs came (R22, R209, R247). -/
def owesHeader (s : State) (r : RxCtx) (addr : Nat) : Bool :=
  let faulted : Bool := match tget? s.quires r.tag.toNat with | some q => q.state == .faulted | none => true
  ((List.range r.pusch.length).zip r.pusch).any fun x =>
    let p := x.2
    harqAddr s p.pdu == some addr && !p.headerWritten && !p.modelLimit && !bufferConflict s r x.1 p.pdu
      && (p.handed.isSome || !(faulted || r.late || r.posted))

/-- Earlier slot-receptions that named the buffer have written its header (R209). -/
def bufferFree (s : State) (r : RxCtx) (addr : Nat) : Bool :=
  !s.coding.rx.any fun o => o.2.tag != r.tag && closedBefore o.2 r && owesHeader s o.2 addr

/-! ### The LLR rings (R194, R199) -/

/-- Pages of `n` bytes. -/
def pages (n : Nat) : Nat := ceilDiv n 4096

/-- Bytes of a run of coding working memory that is used as a ring, from an offset on. -/
def ringRead (s : State) (r : Run) (at_ n : Nat) : Bytes :=
  (List.range n).map fun i => s.mem.byte (codAt + r.base + (at_ + i) % r.len)

/-- Return pages of a slot-reception to a space object of its cluster: 0x4000 for the UL-SCH ring, 0x4001 for the UCI ring. -/
def returnPages (s : State) (tag : BitVec 16) (obj d : Nat) : State :=
  if d = 0 then s
  else sigObj (s.setRx tag fun r =>
    if obj = 0x4000 then { r with ulPages := r.ulPages - d } else { r with uciPages := r.uciPages - d })
    (homeOf s tag) obj 0 (BitVec.ofNat 32 d)

/-- Pages that a slot-reception holds and no reader will read return (DESIGN CHOICE, log entry 39): all but those of LLRs that
still wait to be combined. -/
def returnRest (s : State) (tag : BitVec 16) : State :=
  match s.rx? tag with
  | none => s
  | some r =>
    let wait := ((r.pusch.filter fun x => x.handed.isSome && !x.combined).map fun x => pages x.pdu.g).sum
    returnPages (returnPages s tag 0x4000 (r.ulPages - wait)) tag 0x4001 r.uciPages

/-- Bytes of a PUSCH's ring area have been read: whole pages, and at the end the last one, return to the space object. -/
def freeBytes (s : State) (tag : BitVec 16) (i n : Nat) : State :=
  match s.rx? tag with
  | none => s
  | some r =>
    match r.pusch[i]? with
    | none => s
    | some p =>
      let upTo := fun b : Nat => if p.pdu.g ≤ b then pages p.pdu.g else b / 4096
      let d := upTo (p.readBytes + n) - upTo p.readBytes
      let s1 := s.setPusch tag i fun p => { p with readBytes := p.readBytes + n }
      returnPages s1 tag 0x4000 d

/-- A code block leaves its ring. -/
def leaveRing (s : State) (tag : BitVec 16) (i n : Nat) : State :=
  match s.coding.ring.find? (fun x => x.2.1 == tag.toNat && x.2.2.1 == i && x.2.2.2.1 == n) with
  | none => s
  | some x => freeBytes (s.setCoding fun c => { c with ring := c.ring.erase x }) tag i x.2.2.2.2

/-- Bytes waiting in a cluster's ring. -/
def ringBytes (s : State) (k : Fin 4) : Nat :=
  ((s.coding.ring.filter fun x => x.1 == k.val).map fun x => x.2.2.2.2).sum

/-- A cluster's UL-SCH LLR ring: 1.125 MiB (R194). -/
def ringSize : Nat := 0x120000

/-- Where the LLRs of each transmitted code block lie in those of its PUSCH (clauses 5.4.2.1 and 5.5). -/
def cbCuts (p : Pusch) : List (Nat × Run) :=
  let sent := sentCbs p
  ((List.range sent.length).foldl (fun (a : List (Nat × Run) × Nat) j =>
    let e := rateE p.g p.layers p.qm sent.length j
    (a.1 ++ [((sent[j]?).getD 0, ⟨a.2, e⟩)], a.2 + e)) ([], 0)).1

/-- The same of one code block; none where it is not transmitted. -/
def cbCut (p : Pusch) (n : Nat) : Option Run := ((cbCuts p).find? fun x => x.1 == n).map (·.2)

/-- What lies in the spill area of a cluster. -/
def spillBusy (s : State) (k : Fin 4) : List Run :=
  (s.coding.rx.filter fun r => homeOf s r.2.tag == k).flatMap fun r => r.2.pusch.flatMap fun x =>
    ((List.range x.cbs.length).zip x.cbs).filterMap fun c => match c.2.spill, cbCut x.pdu c.1 with
      | some a, some u => some ⟨a, u.len⟩
      | _, _ => none

/-- The lowest place for so many bytes in the 4 MiB spill area of a cluster (DESIGN CHOICE, log entry 39). -/
def spillPlace (s : State) (k : Fin 4) (n : Nat) : Option Nat :=
  s.coding.harq.bind fun h =>
    let lo := ddrAt + h.spill + k.val * 0x400000
    firstFit 64 lo (lo + 0x400000) n (spillBusy s k)

/-- Move the code blocks that have waited longest out of the ring, whole, until it is at most half full (R199). -/
def spillGo (s : State) (k : Fin 4) : Nat → State
  | 0 => s
  | f + 1 =>
    if ringBytes s k ≤ ringSize / 2 then s
    else match s.coding.ring.find? (fun x => x.1 == k.val) with
      | none => s
      | some (_, t, i, n, len) =>
        let tag := BitVec.ofNat 16 t
        match ((s.rx? tag).bind fun r => r.pusch[i]?).bind fun x => (x.handed.map (·.1)).bind fun a =>
            (cbCut x.pdu n).map fun u => a + u.base, spillPlace s k len with
        | some a, some d =>
          let s1 := (leaveRing s tag i n).wr d (ringRead s (ulRing k.val) a len)
          spillGo (s1.setCb tag i n fun c => { c with state := .spilled, llr := [], spill := some d }) k f
        | _, _ => s

/-- LLR_SPILL (R199). Without HARQ_CONFIG there is no spill area (R205). -/
def llrSpill (k : Fin 4) (s : State) : State :=
  if s.coding.harq.isNone || decide (4 * ringBytes s k ≤ 3 * ringSize) then s
  else spillGo s k s.coding.ring.length

def execLlrSpill (k : Fin 4) (s : State) : Host.Outcome State Fault Refusal := .next (llrSpill k s)

/-! ### Combining (R198, R206, R207, R209) -/

/-- The combined LLRs of a code block in circular-buffer order: what was received of it, `raw`, from its place in the PUSCH on, with
the stored part where `valid` marks one (R198). -/
def combined (s : State) (p : Pusch) (addr valid n : Nat) (at_ : Nat) (raw : Bytes) : List Int :=
  let g := segOf p
  let stored := if bit valid n then (s.rd (addr + g.llrAt n) g.ncb).map llrOf else List.replicate g.ncb 0
  let e := descramble (raw.map llrOf) (((scrAt p.cInit.toNat p.ulAt p.g).drop at_).take raw.length)
  combine stored (bufferSums g (rvStart g p.rv.val) (deinterleave p.qm e))

/-- One code block as the combiner leaves it: stored bits, combined LLRs, or nothing to decode. -/
def combineCb (s : State) (p : Pusch) (addr : Nat) (ok valid : Nat) (raw : Bytes) (n : Nat) : CbCtx :=
  let g := segOf p
  if bit ok n then
    { state := .stored, bits := unpackLsb g.kp (s.rd (addr + g.bitAt n) (ceilDiv g.kp 8)), written := true }
  else match cbCut p n with
    | none => { state := .failed, skip := true, written := true }
    | some u => { llr := combined s p addr valid n u.base ((raw.drop u.base).take u.len) }

/-- Clear the bits of a list of places. -/
def clearBits (n : Nat) (l : List Nat) : Nat := l.foldl (fun n i => if bit n i then n - 2 ^ i else n) n

/-- Combine a PUSCH whose LLRs start at an offset of its cluster's ring. -/
def combinePusch (s : State) (r : RxCtx) (i : Nat) (x : PuschCtx) (at_ : Nat) (ecc : HarqEcc) : State :=
  let p := x.pdu
  let g := segOf p
  let named := harqAddr s p
  let conflict := bufferConflict s r i p
  let addr := named.getD 0
  let use_ := named.isSome && !conflict
  let h := s.rd addr 128
  let reads := use_ && !p.newData
  let hit := reads && !ecc.header && fld h 5 1 == 1 && storedKey h == headerKey r.cell p
  let ok0 := if hit then fld h 0x20 24 else 0
  let valid0 := if hit then fld h 0x38 24 else 0
  let lost := hit && ecc.cbs.any fun n => bit ok0 n || bit valid0 n
  let ok := clearBits ok0 ecc.cbs
  let valid := clearBits valid0 ecc.cbs
  let k := homeOf s r.tag
  let raw := ringRead s (ulRing k.val) at_ p.g
  let memLost := (reads && ecc.header) || lost
  let x1 := { x with
    handed := some (at_, ecc), combined := true, raw := raw.map llrOf
    cbs := (List.range g.c).map (combineCb s p addr ok valid raw), noBuffer := named.isNone,
    conflict := conflict, mismatch := reads && !ecc.header && !hit, memFill := memLost, missing := memLost,
    hdrOk := hit, okIn := ok, validIn := valid, txIn := if hit then fld h 7 1 else 0 }
  let (done, wait) := (cbCuts p).partition fun c => bit ok c.1
  let s1 := (s.setPusch r.tag i fun _ => x1).setCoding fun c =>
    { c with ring := c.ring ++ wait.map fun c => (k.val, r.tag.toNat, i, c.1, c.2.len) }
  freeBytes s1 r.tag i (done.map (·.2.len)).sum

/-- The combined LLRs of a code block, read back from the spill area where it was spilled (R199). -/
def backLlrs (s : State) (x : PuschCtx) (n : Nat) (c : CbCtx) : List Int :=
  match c.spill, cbCut x.pdu n with
  | some d, some u => combined s x.pdu ((harqAddr s x.pdu).getD 0) x.validIn n u.base (s.rd d u.len)
  | _, _ => c.llr

/-! ### Decoding (R200 to R204) -/

/-- A code block's own check: CRC24B where there are several, the transport block's where there is one (R202). -/
def cbGood (p : Pusch) (bits : List Bool) : Bool :=
  if (segOf p).c ≤ 1 then (tbCrc p.tbs).good bits else crc24B.good bits

/-- The LLRs of a code block whose read-back is lost: free values. -/
def lostLlrs (n draw : Nat) : List Int :=
  (List.range n).map fun i => clampLlr (sx 8 (Config.fresh draw / 256 ^ i))

/-- The lowest place for so many bytes in the decoder output (DESIGN CHOICE, log entry 39). -/
def outPlace (s : State) (n : Nat) : Option Nat := firstFit 64 0 decOut.len n (s.coding.decOut.map (·.2.2))

/-- A transport block has, or takes, its place in the decoder output; none where the bank is full (R35). -/
def takePlace (s : State) (tag : BitVec 16) (i : Nat) (p : Pusch) : Option (Nat × State) :=
  match s.coding.decOut.find? (fun x => x.1 == tag.toNat && x.2.1 == i) with
  | some x => some (x.2.2.base, s)
  | none => (outPlace s (ceilDiv p.tbs 8)).map fun a =>
      (a, s.setCoding fun c => { c with decOut := c.decOut ++ [(tag.toNat, i, ⟨a, ceilDiv p.tbs 8⟩)] })

/-- The places of a slot-reception in the decoder output are free again. -/
def freePlaces (s : State) (tag : BitVec 16) : State :=
  s.setCoding fun c => { c with decOut := c.decOut.filter fun x => x.1 != tag.toNat }

/-- CODE_BLOCK_DECODE (R200, R202). A spilled block whose read-back meets an uncorrectable error fails (R199). The decoders stop while
the decoder output has no room for the transport block (R35). -/
def codeBlockDecode (tag : BitVec 16) (pdu cb : Nat) (eccBad : Bool) (s : State) : State :=
  match s.rx? tag with
  | none => s
  | some r =>
    match r.pusch[pdu]? with
    | none => s
    | some x =>
      match x.cbs[cb]? with
      | none => s
      | some c =>
        if r.late || r.posted || !(c.state == .waiting || c.state == .spilled) then s
        else match takePlace s tag pdu x.pdu with
          | none => s
          | some (_, s0) =>
            if c.state = .spilled && eccBad then
              let (d, s1) := s0.draw
              (s1.setPusch tag pdu fun p => { p with missing := true, memFill := true }).setCb tag pdu cb fun c =>
                { c with state := .failed, llr := lostLlrs (segOf x.pdu).ncb d, spill := none }
            else
              let llr := backLlrs s x cb c
              let (bits, n) := ldpcDecode (segOf x.pdu) r.beta r.maxIter llr
              let st : CbState := if cbGood x.pdu bits then .passed else .failed
              (leaveRing s0 tag pdu cb).setCb tag pdu cb fun c =>
                { c with state := st, llr := llr, spill := none, bits := bits, iters := n }

def execCodeBlockDecode (tag : BitVec 16) (pdu cb : Nat) (eccBad : Bool) (s : State) :
    Host.Outcome State Fault Refusal := .next (codeBlockDecode tag pdu cb eccBad s)

/-! ### Write-back (R208) -/

/-- The buffer that a PUSCH writes to, if it writes to one. -/
def writeAddr (s : State) (x : PuschCtx) : Option Nat :=
  if x.noBuffer || x.conflict then none else harqAddr s x.pdu

/-- Write one code block's part: its bits where it passed, else its combined LLRs. -/
def writePart (s : State) (x : PuschCtx) (n : Nat) (c : CbCtx) : State :=
  match writeAddr s x with
  | none => s
  | some a =>
    let g := segOf x.pdu
    if c.state = .passed then s.wr (a + g.bitAt n) (padTo 64 (packLsb c.bits))
    else s.wr (a + g.llrAt n) (padTo 64 (c.llr.map fun v => BitVec.ofInt 8 v))

/-- CODE_BLOCK_WRITEBACK (R208): as soon as the outcome of a code block is known. -/
def codeBlockWriteback (tag : BitVec 16) (pdu cb : Nat) (s : State) : State :=
  match s.rx? tag with
  | none => s
  | some r =>
    match r.pusch[pdu]? with
    | none => s
    | some x =>
      match x.cbs[cb]? with
      | none => s
      | some c =>
        if c.written || r.posted || !(c.state == .passed || c.state == .failed) then s
        else (writePart s x cb c).setCb tag pdu cb fun c => { c with written := true }

def execCodeBlockWriteback (tag : BitVec 16) (pdu cb : Nat) (s : State) : Host.Outcome State Fault Refusal :=
  .next (codeBlockWriteback tag pdu cb s)

/-- CB_OK and CB_VALID after a transmission (R208): a passed block sets the one and clears the other, a failed one sets
CB_VALID, a block not decoded keeps both; CB_OK is cleared everywhere where all passed and the transport-block CRC failed. -/
def cbMasks (x : PuschCtx) : Nat × Nat :=
  let one := fun (n : Nat) (c : CbCtx) => if c.skip then (false, bit x.validIn n)
    else match c.state with
      | .passed => (true, false)
      | .stored => (true, bit x.validIn n)
      | _ => (false, true)
  let l := (x.cbs.zip (List.range x.cbs.length)).map fun p => (p.2, one p.2 p.1)
  let drop := x.tbPass == some false && l.all (fun p => p.2.1)
  (((l.filter fun p => p.2.1 && !drop).map fun p => 2 ^ p.1).sum, ((l.filter (·.2.2)).map fun p => 2 ^ p.1).sum)

/-- Write a PUSCH's header. -/
def writeHeader (s : State) (r : RxCtx) (i : Nat) (x : PuschCtx) (tbOk : Bool) : State :=
  let s1 := match writeAddr s x with
    | none => s
    | some a =>
      let m := cbMasks x
      s.wr a (headerBytes r.cell x.pdu (if tbOk then 2 else 1) (min 255 (x.txIn + 1)) r.sfnSlot m.1 m.2)
  s1.setPusch r.tag i fun p => { p with headerWritten := true }

/-- HARQ_HEADER_WRITE (R208): last, once the transport block's outcome is known and every part is accepted. -/
def harqHeaderWrite (tag : BitVec 16) (pdu : Nat) (s : State) : State :=
  match s.rx? tag with
  | none => s
  | some r =>
    match r.pusch[pdu]? with
    | none => s
    | some x =>
      match x.tbPass with
      | none => s
      | some ok =>
        if x.headerWritten || r.posted || !x.cbs.all (·.written) then s else writeHeader s r pdu x ok

def execHarqHeaderWrite (tag : BitVec 16) (pdu : Nat) (s : State) : Host.Outcome State Fault Refusal :=
  .next (harqHeaderWrite tag pdu s)

/-! ### LLR_COMBINE and what is stored of a late slot-reception (R22, R209) -/

/-- Every code block that has LLRs and is not written has its part written; those not decoded count as failed (R22 step 3). -/
def lateStore (s : State) (tag : BitVec 16) (i : Nat) : State :=
  match (s.rx? tag).bind fun r => r.pusch[i]? with
  | none => s
  | some x =>
    if !x.combined || x.headerWritten then s
    else
      let cut := fun (n : Nat) (c : CbCtx) => if c.state == .waiting || c.state == .spilled
        then { c with state := .failed, llr := backLlrs s x n c, spill := none } else c
      let cbs := ((List.range x.cbs.length).zip x.cbs).map fun c => cut c.1 c.2
      let s1 := ((List.range cbs.length).zip cbs).foldl (fun s p => if p.2.written then s else writePart s x p.1 p.2) s
      let s2 := s1.setPusch tag i fun y => { y with cbs := cbs.map fun c => { c with written := true } }
      let s3 := (s2.coding.ring.filter fun c => c.2.1 == tag.toNat && c.2.2.1 == i).foldl
        (fun s c => leaveRing s tag i c.2.2.2.1) s2
      match s3.rx? tag with
      | some r => match r.pusch[i]? with
        | some y => writeHeader s3 r i y false
        | none => s3
      | none => s3

/-- Combine a PUSCH whose LLRs have been handed over, once no earlier slot-reception owes its buffer's header (R209); one whose
slot-reception is late by then is stored at once (R22 step 3). -/
def combineHanded (s : State) (tag : BitVec 16) (i : Nat) : State :=
  match s.rx? tag with
  | none => s
  | some r =>
    match r.pusch[i]? with
    | none => s
    | some x =>
      let free : Bool := match harqAddr s x.pdu with | some a => bufferFree s r a | none => true
      match x.handed with
      | none => s
      | some (at_, ecc) =>
        if x.combined || !free then s
        else
          let s1 := combinePusch s r i x at_ ecc
          if r.late then lateStore s1 tag i else s1

/-- LLR_COMBINE (R198, R209): the demapping phase has written the LLRs of a PUSCH to its cluster's ring from an offset on; not for an
allocation past the model's limits (R166). LLRs already handed over may find their buffer free now. -/
def llrCombine (tag : BitVec 16) (pdu at_ : Nat) (ecc : HarqEcc) (s : State) : State :=
  match s.rx? tag with
  | none => s
  | some r =>
    match r.pusch[pdu]? with
    | none => s
    | some x =>
      let live : Bool := match tget? s.quires tag.toNat with | some q => q.state != .faulted | none => false
      if x.handed.isSome then combineHanded s tag pdu
      else if r.late || r.posted || x.modelLimit || !live then s
      else combineHanded (s.setPusch tag pdu fun x => { x with handed := some (at_, ecc) }) tag pdu

def execLlrCombine (tag : BitVec 16) (pdu at_ : Nat) (ecc : HarqEcc) (s : State) :
    Host.Outcome State Fault Refusal := .next (llrCombine tag pdu at_ ecc s)

/-! ### The transport block (R210) -/

/-- The transport block with its CRC, from the bits of its code blocks. -/
def tbBits (p : Pusch) (cbs : List CbCtx) : List Bool :=
  if (segOf p).c ≤ 1 then cbs.flatMap (·.bits) else cbs.flatMap fun c => c.bits.take (c.bits.length - 24)

/-- TB_CRC_CHECK (R210): once every code block has its outcome; the transport block stands in the decoder output. -/
def tbCrcCheck (tag : BitVec 16) (pdu : Nat) (s : State) : State :=
  match s.rx? tag with
  | none => s
  | some r =>
    match r.pusch[pdu]? with
    | none => s
    | some x =>
      let known := x.cbs.all fun c => c.state == .passed || c.state == .failed || c.state == .stored
      if r.late || r.posted || !x.combined || x.tbPass.isSome || !known then s
      else match takePlace s tag pdu x.pdu with
        | none => s
        | some (a, s1) =>
          let whole := x.cbs.all fun c => c.bits.length == (segOf x.pdu).kp
          let b := tbBits x.pdu x.cbs
          let out := packBits (b.take x.pdu.tbs)
          (s1.wr (codAt + decOut.base + a) out).setPusch tag pdu fun p =>
            { p with tbPass := some (whole && (tbCrc x.pdu.tbs).good b), payload := out }

def execTbCrcCheck (tag : BitVec 16) (pdu : Nat) (s : State) : Host.Outcome State Fault Refusal :=
  .next (tbCrcCheck tag pdu s)

/-! ### UCI (R211, R212) -/

/-- Descramble the LLRs of a UCI part on a PUSCH; the placeholder y takes the scrambling bit of the place before it (R196). -/
def uciLlrs (u : UciPart) (llrs : Bytes) : List Int :=
  let l := llrs.map llrOf
  match u.scr with
  | none => l
  | some (c, at_) =>
    let b := scrAt c.toNat (some at_) u.e
    if u.k = 1 ∧ 2 ≤ u.qm then
      descramble l ((List.range u.e).map fun i => (b[if i % u.qm = 1 then i - 1 else i]?).getD false)
    else descramble l b

/-- Finish a UCI part: its ring pages return (R194). -/
def uciDone (s : State) (tag : BitVec 16) (i : Nat) (u : UciPart) (f : UciCtx → UciCtx) : State :=
  returnPages (s.setRx tag fun r => { r with uci := listMod r.uci i f }) tag 0x4001 (pages u.e)

/-- The UCI part that a decode may take: not posted, not late, not past the model's limits, not decoded yet. -/
def uciOpen (s : State) (tag : BitVec 16) (i : Nat) : Option (RxCtx × UciCtx) :=
  match s.rx? tag with
  | none => none
  | some r =>
    match r.uci[i]? with
    | none => none
    | some u =>
      let live : Bool := match tget? s.quires tag.toNat with | some q => q.state != .faulted | none => false
      if r.late || r.posted || u.modelLimit || u.outcome != 0 || !live then none else some (r, u)

/-- The LLRs of a UCI part, from an offset of its cluster's UCI ring on (R194). -/
def uciRead (s : State) (tag : BitVec 16) (u : UciPart) (at_ : Nat) : List Int :=
  uciLlrs u (ringRead s (uciRing (homeOf s tag).val) at_ u.e)

/-- POLAR_DECODE (R211). -/
def polarDecode (tag : BitVec 16) (part at_ : Nat) (s : State) : State :=
  match uciOpen s tag part with
  | none => s
  | some (_, u) =>
    if u.part.k < 12 then s
    else match polarDecodeUci u.part.k (uciRead s tag u.part at_) with
      | some b => uciDone s tag part u.part fun x => { x with outcome := 1, bits := b }
      | none => uciDone s tag part u.part fun x => { x with outcome := 2 }

def execPolarDecode (tag : BitVec 16) (part at_ : Nat) (s : State) : Host.Outcome State Fault Refusal :=
  .next (polarDecode tag part at_ s)

/-- SMALL_BLOCK_DECODE (R212): DTX where m × 256 is below UCI_DTX_THR. -/
def smallBlockDecode (tag : BitVec 16) (part at_ : Nat) (s : State) : State :=
  match uciOpen s tag part with
  | none => s
  | some (r, u) =>
    if u.part.k = 0 ∨ 12 ≤ u.part.k then s
    else
      let (b, m, t) := smallDecode u.part.k u.part.qm (uciRead s tag u.part at_)
      let dtx : Bool := if t = 0 then decide (0 < r.dtxThr) else decide (m * 256 < (r.dtxThr * t : Nat))
      uciDone s tag part u.part fun x =>
        { x with outcome := if dtx then 3 else 1, bits := if dtx then [] else b,
                 metric := if t = 0 then 0 else m * 256 / (t : Int) }

def execSmallBlockDecode (tag : BitVec 16) (part at_ : Nat) (s : State) :
    Host.Outcome State Fault Refusal := .next (smallBlockDecode tag part at_ s)

/-! ### LDPC_TABLE_LOAD (R201) -/

/-- Table number and 1,536 bytes; a quire keeps the table that was current at its start. -/
def doLdpcTableLoad (c : Cmd) (s : State) : CmdOut :=
  let n := par8 c.params 0
  if n = 0 ∨ 7 < n then .fail s 0x0007
  else
    let t := slice c.params 8 1408 ++ zeros 128
    { st := (s.setCoding fun x => { x with ldpc := tset x.ldpc n t }).spineChanged, body := digest256 t }

def execLdpcTableLoad (c : Cmd) (s : State) : Host.Outcome State Fault Refusal :=
  .next (shortCmd 0x22 false (exactLen 1544) doLdpcTableLoad c s)

end Sys2Proof.Machine
end

