-- ==== Sys2Proof/Machine/Prach.lean ====
section
/-!
DEFINITION. Random access (R196, R216 to R220): sequences and cyclic shifts of TS 38.211 clause 6.3.3 (PRESUMED, log entry 35), the
correlator, the threshold, and detection.
-/

namespace Sys2Proof.Machine
open Sys2Proof

/-! ### Formats (TS 38.211 Tables 6.3.3.1-1 and 6.3.3.1-2) -/

/-- L_RA of a format. -/
def prachLen (p : PrachPdu) : Nat := if p.format < 4 then 839 else 139

/-- Repetitions of a format. -/
def prachReps (p : PrachPdu) : Nat := (([1, 2, 4, 4, 2, 4, 6, 2, 12, 1, 4] : List Nat)[p.format]?).getD 1

/-- Subcarrier spacing in Hz. -/
def prachHz (p : PrachPdu) : Nat :=
  if p.format < 3 then 1250 else if p.format = 3 then 5000 else if p.scs = 0 then 15000 else 30000

/-- A PRACH PDU that R196 names: its formats, 15 and 30 kHz for the short ones, restricted sets for L_RA of 839 only. -/
def prachAllowed (p : PrachPdu) : Bool :=
  p.supported && decide (p.format ≤ 10 ∧ p.scs ≤ 1 ∧ p.restricted ≤ 2) && (p.restricted == 0 || prachLen p == 839)

/-! ### Sequences and cyclic shifts (clause 6.3.3.1) -/

/-- The sequence number u of a logical root index. -/
def prachRoot (len logical : Nat) : Nat :=
  if len = 839 then Config.prachRoot839 (logical % 838)
  else
    let i := logical % 138
    if i % 2 = 0 then i / 2 + 1 else 138 - i / 2

/-- d_u: the least q with q·u = 1 modulo L_RA, or its distance from L_RA. -/
def rootShift (len u : Nat) : Nat :=
  let q := ((List.range len).find? fun q => q * u % len == 1).getD 0
  if 2 * q < len then q else len - q

/-- The shifts v = 0, 1, and so on of groups of `nShift`, each group `start` after the one before. -/
def shiftGroups (start nShift total n : Nat) : List Nat :=
  (List.range total).map fun v => start * (v / nShift) + v % nShift * n

/-- Cyclic shifts of restricted set A for N_CS `n` and d_u `d`. -/
def shiftsA (len d n : Nat) : List Nat :=
  if n ≤ d ∧ 3 * d < len then
    let m := d / n
    let st := 2 * d + m * n
    let g := len / st
    shiftGroups st m (m * g + (len - 2 * d - g * st) / n) n
  else if len ≤ 3 * d ∧ 2 * d + n ≤ len then
    let m := (len - 2 * d) / n
    let st := len - 2 * d + m * n
    let g := d / st
    shiftGroups st m (m * g + min ((d - g * st) / n) m) n
  else []

/-- Cyclic shifts of restricted set B. -/
def shiftsB (len d n : Nat) : List Nat :=
  let run := fun (from_ k : Nat) => (List.range k).map fun i => from_ + i * n
  if n ≤ d ∧ 5 * d < len then
    let m := d / n
    let st := 4 * d + m * n
    let g := len / st
    shiftGroups st m (m * g + (len - 4 * d - g * st) / n) n
  else if len ≤ 5 * d ∧ 4 * d + n ≤ len then
    let m := (len - 4 * d) / n
    let st := len - 4 * d + m * n
    let g := d / st
    shiftGroups st m (m * g + min ((d - g * st) / n) m) n
  else if len + n ≤ 4 * d ∧ 7 * d < 2 * len then
    let m := (4 * d - len) / n
    let st := 4 * d - len + m * n
    let g := d / st
    let b := (len - 3 * d - g * st) / n
    let left := 4 * d - len - b * n
    let two := min (d - g * st) left / n
    let three := (if b = 0 then d - g * st else left) / n - two
    shiftGroups st m (m * g + b) n ++ run (len - 3 * d + g * st + b * n) two ++ run (len - 2 * d + two * n) three
  else if 2 * len ≤ 7 * d ∧ 3 * d + n ≤ len then
    let m := (len - 3 * d) / n
    let st := len - 3 * d + m * n
    let g := d / st
    let b := (4 * d - len - g * st) / n
    let two := min (d - g * st) (len - 3 * d - b * n) / n
    shiftGroups st m (m * g + b) n ++ run (d + g * st + b * n) two
  else if len + n ≤ 3 * d ∧ 5 * d < 2 * len then
    let m := (3 * d - len) / n
    let st := 3 * d - len + m * n
    let g := d / st
    shiftGroups st m (m * g + (len - 2 * d - g * st) / n) n
  else if 2 * len ≤ 5 * d ∧ 2 * d + n ≤ len then
    let m := (len - 2 * d) / n
    let st := 2 * (len - 2 * d) + m * n
    let g := (len - d) / st
    shiftGroups st m (m * g + (3 * d - len - g * st) / n) n
  else []

/-- The cyclic shifts C_v of a root of an occasion. -/
def prachShifts (p : PrachPdu) (u : Nat) : List Nat :=
  let len := prachLen p
  match p.restricted with
  | 0 => if p.ncs = 0 then [0] else (List.range (len / p.ncs)).map (· * p.ncs)
  | 1 => if p.ncs = 0 then [] else shiftsA len (rootShift len u) p.ncs
  | _ => if p.ncs = 0 then [] else shiftsB len (rootShift len u) p.ncs

/-- Roots from a logical index on, each with the shifts taken from it, until so many preambles are found. -/
def prachRootsGo (p : PrachPdu) : Nat → Nat → Nat → List (Nat × List Nat)
  | 0, _, _ => []
  | f + 1, logical, need =>
    if need = 0 then []
    else
      let u := prachRoot (prachLen p) logical
      let c := (prachShifts p u).take need
      if c = [] then prachRootsGo p f (logical + 1) need else (u, c) :: prachRootsGo p f (logical + 1) (need - c.length)

/-- The roots of an occasion with the cyclic shifts of its preambles, in the order of the preamble indices: at most 64 (R219). -/
def prachRoots (p : PrachPdu) : List (Nat × List Nat) := prachRootsGo p (prachLen p - 1) p.rootIndex (min 64 p.count)

/-- The preambles of an occasion in their order: the place of the root, and the cyclic shift. -/
def prachPreambles (p : PrachPdu) : List (Nat × Nat) :=
  ((prachRoots p).zip (List.range (prachRoots p).length)).flatMap fun x => x.1.2.map fun c => (x.2, c)

/-- Samples of a window: N_CS, or all of them where N_CS is 0 (DEDUCED, log entry 63). -/
def prachNcs (p : PrachPdu) : Nat := if p.ncs = 0 then prachLen p else p.ncs

/-- Where the windows of a preamble start: a delay of d samples stands d after the point that its cyclic shift moves to 0; for the
restricted sets also where a frequency offset of one subcarrier, and for set B of two, moves it (R217). -/
def windowStarts (p : PrachPdu) (u c : Nat) : List Nat :=
  let len := prachLen p
  let d := rootShift len u
  let at_ := len - c % len
  (match p.restricted with
    | 0 => [at_]
    | 1 => [at_, at_ + d, at_ + len - d]
    | _ => [at_, at_ + d, at_ + len - d, at_ + 2 * d, at_ + 2 * len - 2 * d]).map (· % len)

/-! ### The correlator (R216) -/

/-- cos and sin of π·t/L in units of 2^−80. -/
def unitFix (len t : Nat) : Int × Int :=
  let x := t % (2 * len) * piFix / len
  (taylor x 40 0 (2 ^ 80), taylor x 40 1 x)

/-- A multiple of 2^−80 as FP32. -/
def fix32 (v : Int) : BitVec 32 := BitVec.ofNat 32 (to32 (.fin (decide (v < 0)) v.natAbs (-80)))

/-- X_u(k): the DFT of root u's Zadoff-Chu sequence, its parts in FP32. -/
def zcDft (len u k : Nat) : BitVec 32 × BitVec 32 :=
  let l := (List.range len).map fun n => unitFix len (u * n * (n + 1) + 2 * k * n)
  (fix32 (l.map (·.1)).sum, fix32 (-(l.map (·.2)).sum))

/-- What one correlation adds to the power-delay profile, sample by sample. The squares are rounded, then their sum (DESIGN CHOICE,
log entry 63). -/
def prachProfile (len u : Nat) (y : List (BitVec 32)) : List (BitVec 32) :=
  let x := (List.range len).map (zcDft len u)
  (List.range len).map fun n =>
    let z := Config.prachIdft y x n
    BitVec.ofNat 32 (add32 (mul32 z.1.toNat z.1.toNat) (mul32 z.2.toNat z.2.toNat))

/-- Mean of FP32 values, summed in ascending order. -/
def mean32 (l : List Nat) : Nat := div32 (l.foldl add32 0) (to32 (fofInt l.length))

/-- The noise estimate of a root (R217 step 1). -/
def noise32 (l : List Nat) : Nat :=
  let lim := mul32 (mean32 l) (to32 (fofInt 4))
  mean32 (l.filter fun v => decide (fcmpIeee (f32 v) (f32 lim) ≤ 0))

/-- The power-delay profile of a root: over streams, then repetitions, both ascending. -/
def pdpSum (t : Table (List (BitVec 32))) (lRa root streams reps : Nat) : List Nat :=
  ((List.range streams).flatMap fun a => (List.range reps).map fun r => (root * 64 + a) * 64 + r).foldl
    (fun acc k => (acc.zip ((tget t k []).map (·.toNat))).map fun p => add32 p.1 p.2) (List.replicate lRa 0)

/-! ### The threshold (R218) -/

/-- M ≥ base · 10^(q/40) for FP32 patterns M and base, exactly. -/
def geTen (m base : Nat) (q : Int) : Bool :=
  match f32 m, f32 base with
  | .fin false a e, .fin false b f =>
    let lo := min e f
    let x := (a * 2 ^ (e - lo).toNat) ^ 40 * 10 ^ (-q).toNat
    let y := (b * 2 ^ (f - lo).toNat) ^ 40 * 10 ^ q.toNat
    decide (y ≤ x)
  | .inf false, .fin _ _ _ => true
  | _, _ => false

/-- Terms x^i / i! for i from 0 to `n` - 1. -/
def expTerms (x : Rat) (n : Nat) : List Rat :=
  ((List.range n).foldl (fun (a : List Rat × Rat) i => (a.1 ++ [a.2], a.2 * x / ((i + 1 : Nat) : Rat))) ([], 1)).1

/-- The largest of N_CS noise samples exceeds an FP32 value with probability at most 10^−exp. A sample of 2n degrees of freedom and
mean 1 stays below T with the probability that the terms of e^(nT) from the n-th on make of all of them; the terms are enough for
thresholds (R218). -/
def pfaMet (n ncs exp pat : Nat) : Bool :=
  match f32 pat with
  | .fin _ m e =>
    let t : Rat := (m : Rat) * (if 0 ≤ e then ((2 ^ e.toNat : Nat) : Rat) else 1 / ((2 ^ (-e).toNat : Nat) : Rat))
    let l := expTerms ((n : Rat) * t) (8 * n + 400)
    let all := l.sum
    let tail := (l.drop n).sum
    decide (((10 ^ exp - 1 : Nat) : Rat) * all ^ ncs ≤ ((10 ^ exp : Nat) : Rat) * tail ^ ncs)
  | _ => true

/-- The largest pattern at which a threshold is not met yet, by bits. -/
def pfaGo (n ncs exp : Nat) : Nat → Nat → Nat
  | 0, r => r
  | b + 1, r => pfaGo n ncs exp b (if pfaMet n ncs exp (r + 2 ^ b) then r else r + 2 ^ b)

/-- An entry of the built-in threshold table: one of the two FP32 values around the threshold; which, the manual does not say. -/
def pfaThreshold (n ncs exp : Nat) : Nat := pfaGo n ncs exp 31 0 + (if Config.pfaUp (2 * n) ncs exp then 1 else 0)

/-- A metric reaches the threshold (R218). -/
def prachDetects (c : Cell) (p : PrachPdu) (streams m : Nat) : Bool :=
  if c.prachPfa then geTen m (pfaThreshold (streams * prachReps p) (prachNcs p) c.prachExp) c.prachOffset
  else geTen m (to32 (fofInt 1)) c.prachDb

/-! ### Detection (R217, R219) -/

/-- ln((1 + x)/(1 - x)) for x = a/b in units of 2^−100. -/
def lnQuot (a b : Nat) : Nat := ((List.range 70).map fun i => 2 * 2 ^ 100 * a ^ (2 * i + 1) / (b ^ (2 * i + 1) * (2 * i + 1))).sum

/-- ln 2 and ln 10 in units of 2^−100. -/
def ln2Fix : Nat := lnQuot 1 3
def ln10Fix : Nat := 3 * ln2Fix + lnQuot 1 9

/-- An FP32 ratio in dB as FP32: 10 · log10, rounded under R49. -/
def decibel (v : Nat) : BitVec 32 :=
  BitVec.ofNat 32 (to32 (match f32 v with
    | .fin false m e =>
      if m = 0 then .inf true
      else
        let k := Nat.log2 m
        let l : Int := (lnQuot (m - 2 ^ k) (m + 2 ^ k) : Int) + ((k : Int) + e) * (ln2Fix : Int)
        fdivV (fofInt (10 * l)) (fofInt ln10Fix)
    | .fin true 0 _ => .inf true
    | .inf false => .inf false
    | _ => .nan))

/-- The timing advance of a delay in samples of the IDFT, in units of 16·64·Tc/2^μ, rounded under R49 and clamped (R219): a sample is
1/(L_RA · spacing), Tc is 1/(480,000 · 4,096) s. -/
def timingAdvance (p : PrachPdu) (mu delay : Nat) : Nat :=
  min 3846 (roundDiv ((delay * 1920000 * 2 ^ mu : Nat) : Int) (prachLen p * prachHz p)).toNat

/-- The first maximum of a window and its index. -/
def firstMax (l : List Nat) : Nat × Nat :=
  (l.zip (List.range l.length)).foldl (fun (b : Nat × Nat) x =>
    if x.2 = 0 ∨ 0 < fcmpIeee (f32 x.1) (f32 b.1) then x else b) (0, 0)

/-- The windows of a preamble, N_CS samples from each start, with the delay of each sample. -/
def windowOf (p : PrachPdu) (pdp : List Nat) (starts : List Nat) : List (Nat × Nat) :=
  starts.flatMap fun a => (List.range (prachNcs p)).map fun d => ((pdp[(a + d) % prachLen p]?).getD 0, d)

/-- The detection of one preamble: its index, the place of its root and its cyclic shift. -/
def prachHit (c : Cell) (p : PrachPdu) (streams : Nat) (roots : List (Nat × List Nat × Nat)) (i : Nat) (x : Nat × Nat) :
    Option (Nat × Nat × BitVec 32 × BitVec 32) :=
  match roots[x.1]? with
  | none => none
  | some (u, pdp, sigma) =>
    let w := windowOf p pdp (windowStarts p u x.2)
    let (v, n) := firstMax (w.map (·.1))
    let m := div32 v sigma
    if (f32 sigma).isZero || !prachDetects c p streams m then none
    else some (i, timingAdvance p c.scs ((w[n]?).getD (0, 0)).2, decibel v, decibel m)

/-- Receive streams of an occasion: the PRACH eAxC IDs in use. -/
def PrachCtx.streams (x : PrachCtx) : Nat := (cellOf x.cellRcd).prachIds.length

/-- Detection of an occasion: preambles 0 to 63, ascending (R219). -/
def prachDetect (x : PrachCtx) : List (Nat × Nat × BitVec 32 × BitVec 32) :=
  let p := x.pdu
  let roots := ((prachRoots p).zip (List.range (prachRoots p).length)).map fun u =>
    let l := pdpSum x.pdp (prachLen p) u.2 x.streams (prachReps p)
    (u.1.1, l, noise32 l)
  ((prachPreambles p).zip (List.range (prachPreambles p).length)).filterMap fun y =>
    prachHit (cellOf x.cellRcd) p x.streams roots y.2 y.1

/-- PRACH_CORRELATION (R216, R220): one root, stream and repetition; after the last of an occasion its detection runs. -/
def prachCorrelation (tag : BitVec 16) (root stream rep : Nat) (s : State) : State :=
  match tget? s.coding.prach tag.toNat with
  | none => s
  | some x =>
    let open_ : Bool := match tget? s.quires tag.toNat with | some q => q.state.open_ | none => false
    match (prachRoots x.pdu)[root]? with
    | none => s
    | some u =>
      if !open_ || x.detected || x.streams ≤ stream || prachReps x.pdu ≤ rep then s
      else
        let y := (tget x.y (stream * 64 + rep) []).take (prachLen x.pdu)
        let y0 := y ++ List.replicate (prachLen x.pdu - y.length) 0
        let x1 := { x with pdp := tset x.pdp ((root * 64 + stream) * 64 + rep) (prachProfile (prachLen x.pdu) u.1 y0) }
        let x2 := if x1.pdp.length = (prachRoots x.pdu).length * x.streams * prachReps x.pdu
          then { x1 with detected := true, found := prachDetect x1 } else x1
        s.setCoding fun c => { c with prach := tset c.prach tag.toNat x2 }

def execPrachCorrelation (tag : BitVec 16) (root stream rep : Nat) (s : State) : Host.Outcome State Fault Refusal :=
  .next (prachCorrelation tag root stream rep s)

end Sys2Proof.Machine
end

