-- ==== Sys2Proof/Machine/Records.lean ====
section
/-!
DEFINITION. Slot records as Busum reads them from SPQ (R364, R380, R381), the cell's slot clock (R297), and the trigger of
the downlink quire (R24).
-/

namespace Sys2Proof.Machine
open Sys2Proof

/-! ### The slot clock (R297, R298) -/

/-- Key of a cell's slot. -/
def slotKey (cell sfnSlot : Nat) : Nat := cell * 2 ^ 32 + sfnSlot

/-- Slots in the SFN's period. -/
def Cell.period (c : Cell) : Nat := 1024 * c.slotsPerFrame

/-- A slot number of the period, packed. -/
def Cell.unbatch (c : Cell) (n : Nat) : Nat :=
  let m := n % c.period
  packSfn (m / c.slotsPerFrame) (m % c.slotsPerFrame)

/-- SFN and slot of an index of the clock, once it is numbered. -/
def Cell.slotAt (c : Cell) (i : Nat) : Option Nat :=
  match c.number with
  | some (i0, n0) => if i < i0 then none else some (c.unbatch (c.batchOf n0 + (i - i0)))
  | none => none

/-- The clock's index of an SFN and slot: the one nearest to the next slot. -/
def Cell.indexOf (c : Cell) (sfnSlot : Nat) : Option Int :=
  match c.number with
  | none => none
  | some (i0, n0) =>
    let p := c.period
    let now := c.batchOf n0 + (max c.cpUl c.cpDl - i0)
    let d := (c.batchOf sfnSlot + p - now % p) % p
    let d1 : Int := if 2 * d < p then d else (d : Int) - p
    some ((max c.cpUl c.cpDl : Nat) + d1)

/-- The AON tick at which symbol `l` of slot `i` starts at the air interface; `slot` is its slot number (R297). -/
def Cell.symTick (c : Cell) (i slot l : Nat) : Nat :=
  let back := tcTicks (symStart c.scs slot 13 - symStart c.scs slot l)
  c.clockFor i + i * c.slotTicks - c.ta4Max - back

/-- Symbol `l` of the slot with an SFN and slot number; none before the clock is set and numbered. -/
def Cell.symAt (c : Cell) (sfnSlot l : Nat) : Option Nat :=
  match c.clock, c.indexOf sfnSlot with
  | some _, some i => if 0 ≤ i then some (c.symTick i.toNat (slotOf sfnSlot) l) else none
  | _, _ => none

/-! ### Checks that every slot record passes (R36, R299, R381) -/

/-- Why a record is turned away. `dl` is its direction, `dup` says that one of its type is there. -/
def recordCause (s : State) (cell sfn slot len : Nat) (dl dup : Bool) : Option Nat :=
  if len < 2 then some 5
  else match s.cell? cell with
    | none => some 3
    | some c =>
      if !c.placed || !(if dl then c.downlink else c.uplink) || (s.inService c.cluster.val).isEmpty then some 3
      else if 1024 ≤ sfn ∨ c.slotsPerFrame ≤ slot then some 5
      else if dup then some 2
      else match c.indexOf (packSfn sfn slot) with
        | some i => if i < ((if dl then c.cpDl else c.cpUl : Nat) : Int) then some 1 else none
        | none => none

/-- Read a record from SPQ: a refused one is answered with SLOT_ERROR, an accepted one is kept. -/
def takeRecord (s : State) (len : BitVec 16) (cell sfn : BitVec 16) (slot : Byte) (dl dup : Bool)
    (keep : State → State) : State :=
  if s.canRead s.mbx.spq len.toNat then
    let s1 := s.takeSpq len
    match recordCause s1 cell.toNat sfn.toNat slot.toNat len.toNat dl dup with
    | some c => s1.slotError cell.toNat sfn.toNat slot.toNat c
    | none =>
      keep (s1.setFe fun f => { f with recOrder := f.recOrder ++ [(cell.toNat, packSfn sfn.toNat slot.toNat)] })
  else s

/-- SLOT_ERROR for each PDU of a list. -/
def pduErrors (s : State) (cell sfn slot cause : Nat) (l : List Nat) : State :=
  l.foldl (fun s i => s.slotError cell sfn slot cause (some i)) s

/-- Places of a list that satisfy a test, from an offset on. -/
def placesOf (off : Nat) (p : α → Bool) (l : List α) : List Nat :=
  ((l.zip (List.range l.length)).filter fun x => p x.1).map fun x => off + x.2

/-! ### UL_SLOT -/

/-- A base graph that a PDU may carry (R195). -/
def bgOk (bg : Nat) : Bool := bg == 1 || bg == 2

/-- A transport block of at most 192 code blocks (Table 9-3); none are counted on a base graph that does not exist. -/
def cbsOk (tbs bg : Nat) : Bool := !bgOk bg || decide ((segment tbs bg none).c ≤ 192)

/-- A PUSCH or PDSCH PDU asks for nothing that Table 9-3, R196 or Table 13-4 excludes (R381). -/
def puschAllowed (p : Pusch) : Bool := p.supported && cbsOk p.tbs p.bg
def pdschAllowed (p : Pdsch) : Bool := p.supported && cbsOk p.tbs p.bg

/-- A PUSCH PDU is served: nothing excluded, base graph 1 or 2 (R195, R381). -/
def puschServed (p : Pusch) : Bool := puschAllowed p && bgOk p.bg

/-- UL_SLOT (R36, R380, R381, R195, R219): on a cluster without engines the record is turned away and its PRACH occasions still run;
excluded PDUs and bad base graphs are skipped with a SLOT_ERROR each; PDU indices count
the PUSCH PDUs, then the PUCCH PDUs, then the PRACH PDUs. -/
def ulSlot (r : UlSlot) (s : State) : State :=
  let key := slotKey r.cell.toNat (packSfn r.sfn.toNat r.slot.toNat)
  let dup := (tget? s.fe.ulRecs key).isSome || (tget? s.fe.ul key).isSome
  let bare : Bool := match s.cell? r.cell.toNat with | some c => (s.inService c.cluster.val).isEmpty | none => false
  let keepPrach := fun (s : State) =>
    if bare && !r.prach.isEmpty && recordCause { s with engines := Vector.replicate 16 {} } r.cell.toNat r.sfn.toNat r.slot.toNat r.len.toNat false dup == none then
      let n := r.pusch.length + r.pucch.length
      let s1 := pduErrors s r.cell.toNat r.sfn.toNat r.slot.toNat 4 (placesOf n (fun p => !prachAllowed p) r.prach)
      let s2 := pduErrors s1 r.cell.toNat r.sfn.toNat r.slot.toNat 5 (placesOf n (fun p => prachAllowed p && decide (64 < p.count)) r.prach)
      s2.setFe fun f => { f with
        ulRecs := tset f.ulRecs key { r with pusch := [], uci := [], pucch := [], excluded := [] }
        recOrder := f.recOrder ++ [(r.cell.toNat, packSfn r.sfn.toNat r.slot.toNat)] }
    else s
  (if s.canRead s.mbx.spq r.len.toNat then keepPrach else id) <| takeRecord s r.len r.cell r.sfn r.slot false dup fun s =>
    let err := fun (c : Nat) (l : List Nat) (s : State) => pduErrors s r.cell.toNat r.sfn.toNat r.slot.toNat c l
    let n := r.pusch.length + r.pucch.length
    let s1 := err 4 (placesOf 0 (fun p => !puschAllowed p) r.pusch) s
    let s2 := err 5 (placesOf 0 (fun p => puschAllowed p && !puschServed p) r.pusch) s1
    let s3 := err 4 (placesOf n (fun p => !prachAllowed p) r.prach) s2
    let s4 := err 5 (placesOf n (fun p => prachAllowed p && decide (64 < p.count)) r.prach) s3
    let s5 := err 4 r.excluded s4
    s5.setFe fun f => { f with ulRecs := tset f.ulRecs key r }

def execUlSlot (r : UlSlot) (s : State) : Host.Outcome State Fault Refusal := .next (ulSlot r s)

/-! ### The downlink slot -/

/-- A precoding index of a PDSCH names an unloaded matrix, or one with too few layers or streams (R191). Category B does not precode
(R192). -/
def precoderMissing (s : State) (c : Cell) (cell : Nat) (p : Pdsch) : Bool :=
  c.category == 0 && p.pmis.any fun i => match tget? (tget s.precoders cell []) i with
    | some m => decide (m.layers < p.layers) || decide (m.streams < c.nTx)
    | none => true

/-- The downlink slot is complete in the mailbox: its record, and the payloads if it has transport blocks. -/
def dlComplete (s : State) (key : Nat) : Bool :=
  match tget? s.fe.dlRecs key with
  | some r => r.pdsch.isEmpty || (tget? s.fe.txRecs key).isSome
  | none => (tget? s.fe.dciRecs key).isSome

/-- A record without content. -/
def emptyDl (r : DlSlot) : DlSlot := { r with pdsch := [], other := [], dci := [], bch := [], excluded := [], raw := [] }

/-- Join a DL_SLOT and an UL_DCI of a slot. -/
def joinDl (a b : DlSlot) : DlSlot :=
  { a with other := a.other ++ b.other, dci := a.dci ++ b.dci, bch := a.bch ++ b.bch, raw := a.raw ++ b.raw }

/-- The records of a downlink slot as one. -/
def dlRecord (s : State) (key : Nat) : Option DlSlot :=
  match tget? s.fe.dlRecs key, tget? s.fe.dciRecs key with
  | some a, some b => some (joinDl a b)
  | some a, none => some a
  | none, some b => some b
  | none, none => none

/-- The close of the transmission window of each scheduled symbol, on the cluster counter (Table 10-1). -/
def dlCloses (s : State) (c : Cell) (sfnSlot : Nat) (r : DlSlot) : List Nat :=
  (dlSymbols r).filterMap fun k => (c.symAt sfnSlot k).map fun t =>
    (s.cl c.cluster).counter.toNat + (t - c.upMin - s.ticks.toNat)

/-- Drop the waiting records of a downlink slot. -/
def dropDl (s : State) (cell sfnSlot : Nat) : State :=
  let key := slotKey cell sfnSlot
  s.setFe fun f =>
    { f with dlRecs := tdel f.dlRecs key, dciRecs := tdel f.dciRecs key, txRecs := tdel f.txRecs key,
             recOrder := if (tget? f.ulRecs key).isSome then f.recOrder else f.recOrder.filter (· != (cell, sfnSlot)) }

/-- Trigger the downlink quire of a slot whose C-plane window has opened and whose records are complete (R24, R299). -/
def startDl (s : State) (cell sfnSlot : Nat) : State :=
  let key := slotKey cell sfnSlot
  match s.cell? cell, dlRecord s key with
  | some c, some r =>
    if !dlComplete s key then s
    else
      let tx := tget? s.fe.txRecs key
      let (tag, s1) := newQuire s c.cluster .downlink (cell + 1) cell sfnSlot (dlCloses s c sfnSlot r).getLast?
      let d : DlCtx := { tag := tag, cell := cell, sfnSlot := sfnSlot, rcd := r, tx := tx, closes := dlCloses s c sfnSlot r, cellRcd := c.rcd,
                         precoderMissing := r.pdsch.any fun p => p.supported && precoderMissing s c cell p }
      dropDl (s1.setCoding fun x => { x with dl := tset x.dl tag.toNat d }) cell sfnSlot
  | _, _ => s

/-- A downlink slot's C-plane window has opened while its payloads were still missing. -/
def dlOpened (s : State) (cell sfnSlot : Nat) : Bool :=
  match s.cell? cell with
  | some c => match c.indexOf sfnSlot with
    | some i => decide (i < (c.cpDl : Int))
    | none => false
  | none => false

/-- A quire of this downlink slot has been triggered. -/
def dlServed (s : State) (cell sfnSlot : Nat) : Bool :=
  s.coding.dl.any fun p => p.2.cell == cell && p.2.sfnSlot == sfnSlot && !p.2.posted

/-- Checks of a DL_SLOT or UL_DCI record's PDUs (R195, R381). -/
def dlErrors (r : DlSlot) (s : State) : State :=
  let err := fun (c : Nat) (l : List Nat) (s : State) => pduErrors s r.cell.toNat r.sfn.toNat r.slot.toNat c l
  err 4 r.excluded (err 5 (placesOf 0 (fun p => pdschAllowed p && !bgOk p.bg) r.pdsch)
    (err 4 (placesOf 0 (fun p => !pdschAllowed p) r.pdsch) s))

/-- PDSCH PDUs that are skipped are not served. -/
def dlServable (r : DlSlot) : DlSlot :=
  { r with pdsch := r.pdsch.map fun p => { p with supported := pdschAllowed p && bgOk p.bg } }

/-- DL_SLOT (R380, R381). -/
def dlSlot (r : DlSlot) (s : State) : State :=
  let n := packSfn r.sfn.toNat r.slot.toNat
  let key := slotKey r.cell.toNat n
  let dup := (tget? s.fe.dlRecs key).isSome || dlServed s r.cell.toNat n
  takeRecord s r.len r.cell r.sfn r.slot true dup fun s =>
    (dlErrors r s).setFe fun f => { f with dlRecs := tset f.dlRecs key (dlServable r) }

def execDlSlot (r : DlSlot) (s : State) : Host.Outcome State Fault Refusal := .next (dlSlot r s)

/-- UL_DCI (R380). -/
def ulDci (r : DlSlot) (s : State) : State :=
  let n := packSfn r.sfn.toNat r.slot.toNat
  let key := slotKey r.cell.toNat n
  let dup := (tget? s.fe.dciRecs key).isSome || dlServed s r.cell.toNat n
  takeRecord s r.len r.cell r.sfn r.slot true dup fun s =>
    (dlErrors r s).setFe fun f => { f with dciRecs := tset f.dciRecs key (dlServable r) }

def execUlDci (r : DlSlot) (s : State) : Host.Outcome State Fault Refusal := .next (ulDci r s)

/-- TX_DATA (R380): the payloads of a slot. It has no window of its own; it is late where its slot's window has opened and
no record of the slot waits for it. -/
def txData (r : TxData) (s : State) : State :=
  let n := packSfn r.sfn.toNat r.slot.toNat
  let key := slotKey r.cell.toNat n
  let waits := dlOpened s r.cell.toNat n && (tget? s.fe.dlRecs key).isSome
  let dup := (tget? s.fe.txRecs key).isSome || dlServed s r.cell.toNat n
  let keep := fun (s : State) => s.setFe fun f => { f with txRecs := tset f.txRecs key r }
  if waits && !dup && decide (2 ≤ r.len.toNat) && s.canRead s.mbx.spq r.len.toNat then
    startDl (keep (s.takeSpq r.len)) r.cell.toNat n
  else takeRecord s r.len r.cell r.sfn r.slot true dup keep

def execTxData (r : TxData) (s : State) : Host.Outcome State Fault Refusal := .next (txData r s)

/-! ### PRECODER_LOAD (R191) -/

/-- PRECODER_LOAD's parameters, 8 bytes each: cell, first index, count, layers, streams; then the matrices, a row for each
stream, CI16 (DESIGN CHOICE, log entry 8). -/
def doPrecoderLoad (c : Cmd) (_snap : Bytes) (s : State) : CmdOut :=
  let cell := par8 c.params 0
  let first := par8 c.params 1
  let n := par8 c.params 2
  let lay := par8 c.params 3
  let str := par8 c.params 4
  let size := lay * str * 4
  if (s.cell? cell).isNone then .fail s 0x0007
  else if lay = 0 ∨ 16 < lay ∨ str = 0 ∨ 32 < str ∨ 256 < first + n then .fail s 0x0007
  else if c.params.length < 40 + n * size then .fail s 0x0003
  else
    let matrix : Nat → Precoder := fun i =>
      ⟨lay, str, (leList 4 (slice c.params (40 + i * size) size)).map (BitVec.ofNat 32)⟩
    let t := (List.range n).foldl (fun (t : Table Precoder) i => tset t (first + i) (matrix i)) (tget s.precoders cell [])
    { st := { s with precoders := tset s.precoders cell t } }

def execPrecoderLoad (c : Cmd) (s : State) : Host.Outcome State Fault Refusal :=
  .next (longCmd 0x23 false (fun l => decide (40 ≤ l)) (fun _ => []) doPrecoderLoad c s)

/-- The entries of a downlink slot that are encoded: PDSCH PDUs served, DCIs, BCHs. -/
def dlEntries (d : DlCtx) : List Nat :=
  placesOf 0 (·.supported) d.rcd.pdsch
    ++ (List.range (d.rcd.dci.length + d.rcd.bch.length)).map (d.rcd.pdsch.length + ·)

end Sys2Proof.Machine
end

