-- ==== Sys2Proof/Machine/Adapt.lean ====
section
/-!
DEFINITION. Adaptation (R174 to R185): parameters, training steps, shadow evaluation, staging, rollback, the version table.
-/

namespace Sys2Proof.Machine
open Sys2Proof

/-! ### FP32 comparisons -/

/-- Neither value is a NaN and the first is not above the second. -/
def leV (a b : FVal) : Bool := !a.isNan && !b.isNan && decide (fcmpIeee a b ≤ 0)

/-- The exact sum of the squares of FP32 values. -/
def sumSq (l : List FVal) : FVal := l.foldl (fun a x => faddV a (fmulV x x)) (.fin false 0 0)

/-! ### ADAPT_CONFIG (R174, R175) -/

/-- A numeric FP32 field: clamped; a value that is not finite takes the default (KIND 1). -/
def floatC (lo hi dflt : Nat) : Chk := fun v =>
  let x := f32 v
  if !x.isFin then (dflt, [(1, v, dflt)])
  else if fcmpIeee x (f32 lo) < 0 then (lo, [(0, v, lo)])
  else if fcmpIeee (f32 hi) x < 0 then (hi, [(0, v, hi)])
  else (v, [])

/-- GRAD_CLIP: a value written is reported as a reserved field's; the package's is applied (R175). -/
def clipC (pkg : Nat) : Chk := fun v => (pkg, if v = 0 then [] else [(2, v, pkg)])

/-- The fields of the adaptation parameter block (Table 8-10); `d` is the package's block. -/
def adaptFields (d : Bytes) : List FSpec :=
  [⟨1, 0x00, 1, 1, enumC (· ≤ 1) (fld d 0 1)⟩, ⟨2, 0x01, 1, 1, numC 1 64⟩, ⟨3, 0x02, 1, 1, numC 4 12⟩,
   ⟨4, 0x03, 1, 1, numC 2 8⟩, ⟨5, 0x04, 2, 1, numC 1 4096⟩, ⟨6, 0x06, 2, 1, numC 16 1024⟩,
   ⟨7, 0x08, 2, 1, numC 1 65535⟩, ⟨8, 0x0A, 2, 1, numC 8 1024⟩, ⟨9, 0x0C, 2, 1, numC 16 65535⟩,
   ⟨10, 0x0E, 2, 1, rsvC⟩, ⟨11, 0x10, 4, 1, floatC 0x33800000 0x3D800000 (fld d 0x10 4)⟩,
   ⟨12, 0x14, 4, 1, floatC 0 0x3F7FBE77 (fld d 0x14 4)⟩, ⟨13, 0x18, 4, 1, numC 1000 1000000⟩,
   ⟨14, 0x1C, 4, 1, rsvC⟩, ⟨15, 0x20, 8, 1, anyC⟩, ⟨16, 0x28, 4, 1, clipC (fld d 0x28 4)⟩, ⟨17, 0x2C, 20, 1, rsvC⟩]

/-- The parameters of a block wait for the next candidate; ADAPT_EN 0 discards the candidate in progress (R174). -/
def Model.withParams (m : Model) (b : Bytes) : Model :=
  { (if fld b 0 1 = 0 then m.dropCandidate .discarded else m) with nextParams := some b }

/-- ADAPT_CONFIG (R174, R175): MODEL_ID, block, complement. -/
def doAdaptConfig (c : Cmd) (s : State) : CmdOut :=
  if !cplAt c.params 8 64 then .fail s 0x0005
  else match s.modelSlotOf (par8 c.params 0) with
    | none => .fail s 0x0007
    | some i => match s.model? i with
      | none => .fail s 0x0007
      | some m =>
        let (b, rep) := checkFields 0 (adaptFields (defaultParams m.image)) (slice c.params 8 64)
        { st := (if fld b 0 1 = 0 then dropModelWork s i else s).putModel i m (m.withParams b), rep := rep }

def execAdaptConfig (c : Cmd) (s : State) : Host.Outcome State Fault Refusal :=
  .next (shortCmd 0x24 false (exactLen 136) doAdaptConfig c s)

/-! ### Adaptation quires -/

/-- Trigger a best-effort quire of a consumer on its cluster (R222). -/
def triggerBe (s : State) (kind : QKind) (consumer owner sfnSlot : Nat) : State :=
  let (d, s1) := s.draw
  let k : Fin 4 := ⟨Config.beCluster consumer d % 4, Nat.mod_lt _ (by decide)⟩
  (newQuire s1 k kind consumer owner sfnSlot none).2

/-- A quire of a consumer is still open, or has ended and its outcome is not taken up yet. -/
def State.bePending (s : State) (consumer : Nat) : Bool :=
  s.quires.any fun p => p.2.consumer == consumer && (p.2.state.open_ || (p.2.state == .ended && !p.2.used))

/-- A record may be used: its slot was kept, and the labels of every block that passed are built (R176, R177). -/
def SampleRec.ready (r : SampleRec) : Bool := r.kept && r.tbs.all fun t => !t.passed || t.labels.isSome

/-- The training records of a model's ring. -/
def Model.trainRecs (m : Model) : List SampleRec := m.ring.filter fun r => r.ready && r.count % 2 == 0

/-- The evaluation records of a candidate: newer than its newest training record, in record order (R181). -/
def Model.evalRecs (m : Model) : List SampleRec :=
  (m.ring.filter fun r => r.ready && r.count % 2 == 1 && decide (m.newest < r.count)).take m.evalMin

/-- The records that the running job holds, in the order of use. -/
def Model.jobRecs (m : Model) : List SampleRec := m.job.filterMap fun n => m.ring.find? (·.count == n)

/-- BATCH training records in the order drawn from SEED, the version number and the step number (R178). -/
def Model.drawBatch (m : Model) (v : Version) : List Nat :=
  let key := fun (r : SampleRec) => Config.orderKey m.seedBytes v.number m.steps r.count
  ((sortBy (fun a b => decide (key a ≤ key b)) m.trainRecs).take m.batch).map (·.count)

/-- A candidate starts from the active version, with the parameters that waited for it; the ring gives up what a smaller RING does
not hold (R174, R176, R180). -/
def Model.startCandidate (m : Model) : Model :=
  let w := match m.version? m.active with | some v => v.weights | none => []
  let v : Version := { number := m.nextVersion, parent := m.active, state := .training, weights := w }
  let m1 := ({ m with
      params := m.nextParams.getD m.params, nextParams := none, versions := m.versions ++ [v]
      momenta := List.replicate w.length 0, steps := 0, digests := [], newest := 0, evalBatch := 0 }).evictVersion
  { m1 with ring := m1.ring.drop (m1.ring.length - m1.ringSize) }

/-- A new candidate may start: adaptation is on in the parameters that it would take, none is in progress, no watch runs, no change
waits (R174, R180). -/
def Model.mayStart (m : Model) : Bool :=
  m.candidate?.isNone && m.watch.isNone && m.promote.isNone && fld (m.nextParams.getD m.params) 0 1 == 1

/-- The next job of a candidate: a batch for a training step, or the block of evaluation records (R178, R181). -/
def Model.nextJob (m : Model) : Option Model :=
  match m.candidate? with
  | none => none
  | some v => match v.state with
    | .training => if m.batch ≤ m.trainRecs.length then some { m with job := m.drawBatch v } else none
    | .evaluating => if m.evalMin ≤ m.evalRecs.length then some { m with job := m.evalRecs.map (·.count) } else none
    | _ => none

/-- The model with a job to run, where it has work for one: the job that it holds, or the next one of its candidate, or of a new
candidate. -/
def Model.withJob (m : Model) : Option Model :=
  if m.job ≠ [] then some m
  else if m.mayStart then m.startCandidate.nextJob
  else m.nextJob

/-- Trigger the next adaptation quire of a model slot where it has work for one. -/
def triggerAdapt (s : State) (i : Nat) : State :=
  match s.model? i with
  | some m =>
    if s.bePending (65 + i) then s
    else match m.withJob with
      | some m1 => triggerBe (s.putModel i m m1) .adaptation (65 + i) i 0
      | none => s
  | none => s

/-- An adaptation quire of a slot that has ended and whose outcome is not taken up. -/
def adaptDone (s : State) (i : Nat) : Option Nat :=
  (s.quires.find? fun p => p.2.kind == .adaptation && p.2.owner == i && p.2.state == .ended && !p.2.used).map (·.1)

/-! ### Training (R178, R180, R185) -/

/-- D_v (R185). -/
def versionDigest (m : Model) (parent : Bytes) (digests : List Bytes) (weights : List (BitVec 32)) : Bytes :=
  digest256 (parent ++ digest256 digests.flatten ++ m.params ++ m.seedBytes ++ toLE 2 m.stepsMax
    ++ digest256 (roundWeights m.image weights))

/-- LR_SCALE of each adaptable weight. -/
def lrScales (image : Bytes) : List Nat :=
  ((Config.layers image).filter (·.adaptable)).flatMap fun l => List.replicate (l.wLen / 4) l.lrScale

/-- The gradients after the clip of their global norm (R178 step 1). -/
def clipped (m : Model) (g : List (BitVec 32)) : List (BitVec 32) :=
  let clip := f32 m.clip
  if leV (sumSq (g.map fun x => f32 x.toNat)) (fmulV clip clip) then g
  else
    let f := Config.clipFactor (BitVec.ofNat 32 m.clip) g
    g.map fun x => BitVec.ofNat 32 (mul32 x.toNat f.toNat)

/-- One weight's update (R178 steps 2 and 3): momentum and weight after it. -/
def updateWeight (lr mom scale : Nat) (w m g : BitVec 32) : BitVec 32 × BitVec 32 :=
  let m1 := add32 (mul32 mom m.toNat) g.toNat
  (BitVec.ofNat 32 m1, BitVec.ofNat 32 (sub32 w.toNat (mul32 (mul32 lr scale) m1)))

/-- The weights and momenta after a step. -/
def updateAll (m : Model) (w g : List (BitVec 32)) : List (BitVec 32 × BitVec 32) :=
  (List.range w.length).map fun i =>
    updateWeight m.lr m.momentum (((lrScales m.image)[i]?).getD 0) ((w[i]?).getD 0) ((m.momenta[i]?).getD 0)
      ((g[i]?).getD 0)

/-- The batch's gradients summed in an order of its records, in FP32 (R178, R179). -/
def sumGrads (n : Nat) (grads : List (List (BitVec 32))) (order : List Nat) : List (BitVec 32) :=
  (List.range n).map fun w => order.foldl (fun (a : BitVec 32) i =>
    BitVec.ofNat 32 (add32 a.toNat ((((grads[i]?).getD [])[w]?).getD 0).toNat)) 0

/-- The order of a batch's sums (R179): that of the records in pressed mode, that of arrival in loose mode. -/
def sumOrder (pressed : Bool) (n : Nat) (arrival : List Nat) : List Nat :=
  if !pressed && sortBy (· ≤ ·) arrival == List.range n then arrival else List.range n

/-- A training step on a candidate: weights, momenta, the digests used; after STEPS steps it is EVALUATING. -/
def Model.trainStep (m : Model) (v : Version) (pressed : Bool) (r : StepResult) : Model :=
  let g := sumGrads v.weights.length r.grads (sumOrder pressed m.job.length r.arrival)
  let u := updateAll m v.weights (clipped m g)
  let ds := m.digests ++ m.jobRecs.map (·.digest)
  let parent := match m.version? v.parent with | some p => p.digest | none => []
  let w := u.map (·.2)
  let done := decide (m.stepsMax ≤ m.steps + 1)
  let m1 := m.setVersion v.number fun x =>
    { x with weights := w, digest := versionDigest m parent ds w, state := if done then .evaluating else .training }
  { m1 with momenta := u.map (·.1), steps := m.steps + 1, digests := ds, newest := m.job.foldl Nat.max m.newest, job := [] }

/-- The result has a gradient for every adaptable weight from every record of the job. -/
def stepFits (m : Model) (v : Version) (r : StepResult) : Bool :=
  r.grads.length == m.job.length && m.job != [] && r.grads.all (·.length == v.weights.length)

/-- Change a model and look for its next quire. -/
def settleModel (s : State) (i : Nat) (old new : Model) : State := triggerAdapt (s.putModel i old new) i

/-- TRAINING_STEP (R178): an adaptation quire that has ended hands over its step's gradients. -/
def trainingStep (i : Fin 16) (r : StepResult) (s : State) : State :=
  match s.model? i.val, adaptDone s i.val with
  | some m, some tag =>
    match m.candidate?, tget? s.quires tag with
    | some v, some q =>
      if v.state = .training ∧ stepFits m v r then
        settleModel (s.setQuire tag fun q => { q with used := true }) i.val m (m.trainStep v q.pressed r)
      else s
    | _, _ => s
  | _, _ => s

def execTrainingStep (slot : Fin 16) (r : StepResult) (s : State) : Host.Outcome State Fault Refusal :=
  .next (trainingStep slot r s)

/-! ### Shadow evaluation, staging, promotion (R181, R182) -/

/-- A layer's weights stay within its DRIFT_LIMIT of version 0 (R181). -/
def driftOk (w w0 : List (BitVec 32)) (l : Config.Layer) : Bool :=
  let part := fun (x : List (BitVec 32)) => ((x.drop (l.wOff / 4)).take (l.wLen / 4)).map fun y => f32 y.toNat
  let a := part w
  let b := part w0
  let d := f32 l.driftLimit
  leV (sumSq ((a.zip b).map fun (p : FVal × FVal) => faddV p.1 (fneg p.2))) (fmulV (fmulV d d) (sumSq b))

/-- The bits of a record in the order of its LLRs: those of weight 1, and none for the others (R177). -/
def SampleRec.bits (r : SampleRec) : List (Option Bool) :=
  r.tbs.flatMap fun t => match t.labels with
    | some l => l.map some
    | none => List.replicate t.pdu.g none

/-- The bits of weight 1 of a list of records, each with its LLR. -/
def weighed (recs : List SampleRec) (llrs : List (List (BitVec 32))) : List (Bool × BitVec 32) :=
  (recs.zip llrs).flatMap fun p => (p.1.bits.zip p.2).filterMap fun x => x.1.map fun b => (b, x.2)

/-- The cross-entropy of a bit: log2(1 + exp(-s × L ÷ LLR_SCALE)), s being +1 for bit 0 and -1 for bit 1 (R178). -/
def bitLoss (scale : Nat) (b : Bool) (l : BitVec 32) : Nat :=
  (Config.softplus2 (BitVec.ofNat 32 (div32 (if b then l.toNat else to32 (fneg (f32 l.toNat))) scale))).toNat

/-- The mean loss over bits of weight 1 (R178), summed in their order in FP32. -/
def meanLoss (scale : Nat) (l : List (Bool × BitVec 32)) : Nat :=
  div32 (l.foldl (fun a x => add32 a (bitLoss scale x.1 x.2)) 0) (to32 (fofInt l.length))

/-- Hard-decision bit errors: sign(L) against the label, L = 0 having neither sign (R181; DEDUCED, log entry 67). -/
def bitErrors (l : List (Bool × BitVec 32)) : Nat :=
  (l.filter fun x => !(if x.1 then decide (fcmpIeee (f32 x.2.toNat) (f32 0) < 0) else decide (0 < fcmpIeee (f32 x.2.toNat) (f32 0)))
    || (f32 x.2.toNat).isNan).length

/-- The four tests of R181. -/
def evalPasses (m : Model) (v : Version) (r : EvalResult) : Bool :=
  let w0 := match m.version? 0 with | some x => x.weights | none => []
  let k := m.marginK
  let cand := weighed m.jobRecs r.cand
  let act := weighed m.jobRecs r.active
  leV (f32 (meanLoss m.llrScale cand)) (fmulV (f32 (meanLoss m.llrScale act)) (.fin false (2 ^ k - 1) (-(k : Int))))
    && decide (bitErrors cand ≤ bitErrors act) && v.weights.all (fun x => (f32 x.toNat).isFin)
    && ((Config.layers m.image).filter (·.adaptable)).all (driftOk v.weights w0)

/-- The result has an LLR for every bit of every record of the job, from both receivers. -/
def evalFits (m : Model) (r : EvalResult) : Bool :=
  let ls := m.jobRecs.map fun x => x.bits.length
  m.job != [] && r.cand.map (·.length) == ls && r.active.map (·.length) == ls

/-- The point from which a change of version holds (R182): in pressed mode a slot batch, LAG after the given one. -/
def Model.point (m : Model) (pressed : Bool) (batch : Nat) : Option Nat := if pressed then some (batch + m.lag) else none

/-- SHADOW_EVALUATION (R181): the candidate is staged or rejected. -/
def shadowEvaluation (i : Fin 16) (r : EvalResult) (s : State) : State :=
  match s.model? i.val, adaptDone s i.val with
  | some m, some tag =>
    match m.candidate? with
    | some v =>
      if v.state ≠ .evaluating ∨ !evalFits m r then s
      else
        let last := match m.jobRecs.getLast? with | some x => x.batch | none => 0
        let s1 := s.setQuire tag fun q => { q with used := true }
        let m1 := { m.setVersion v.number (fun x =>
          { x with meanLoss := BitVec.ofNat 32 (meanLoss m.llrScale (weighed m.jobRecs r.cand)) }) with job := [] }
        if evalPasses m v r then
          let m2 := m1.setVersion v.number fun x => { x with state := .staged }
          settleModel s1 i.val m { m2 with
            evalBatch := last
            promote := some ⟨v.number, m.point s.pressed last, false⟩ }
        else settleModel s1 i.val m (m1.dropCandidate .rejected)
    | none => s
  | _, _ => s

def execShadowEvaluation (slot : Fin 16) (r : EvalResult) (s : State) : Host.Outcome State Fault Refusal :=
  .next (shadowEvaluation slot r s)

/-- The standby copy of a model on the engine at a position of a cluster is written with a version's rounded weights (R182). -/
def writeStandby (s : State) (k : Fin 4) (i p e : Nat) (m : Model) (v : Nat) : State :=
  let n := (s.inService k.val).length
  let b := m.adaptCopy n p v
  let at_ := s.imageAt k i p + (Config.residentFixed m.image n p).length + if (m.copies[k]).second then 0 else b.length
  s.wr (spadAt e + at_) b

/-- CANDIDATE_STAGING (R182): the image of the version to come is written into the standby copy of an engine that holds the model;
with the last engine of a cluster its standby copies are complete. The time is the System's (Table 10-3). -/
def candidateStaging (i : Fin 16) (e : Fin 16) (s : State) : State :=
  let k := clOfEng e
  match s.model? i.val with
  | some m => match m.promote, (s.inService k.val).findIdx? (· == e.val) with
    | some p, some pos =>
      if !(s.residentModels k).contains i.val || (m.copies[k]).standby == some p.version || (m.copies[k]).active == p.version then s
      else
        let s1 := writeStandby s k i.val pos e.val m p.version
        let old := if (m.copies[k]).writing = some p.version then (m.copies[k]).written else []
        let w := e.val :: old.filter (· != e.val)
        let full := (s.inService k.val).all w.contains
        let s2 := s1.setModel i.val fun m => { m with copies := vmod m.copies k fun c =>
          { c with standby := if full then some p.version else none, writing := some p.version, written := w } }
        chargeTime s2 k 0 (ceilDiv (m.adaptCopy (s.inService k.val).length pos p.version).length 1024)
    | _, _ => s
  | none => s

def execCandidateStaging (copy : StandbyCopy) (s : State) : Host.Outcome State Fault Refusal :=
  .next (candidateStaging copy.slot copy.eng s)

/-! ### Rollback (R183, R184) -/

/-- F_new > F_old × (1 + 2^−RB_K) + 16, in integers. -/
def worse (fNew fOld rbK : Nat) : Bool := decide (fOld * (2 ^ rbK + 1) + 16 * 2 ^ rbK < fNew * 2 ^ rbK)

/-- AUTO_ROLLBACK (R183): after RB_WINDOW slot-receptions the watch ends, with a rollback to the parent where the promoted
version failed more. -/
def autoRollback (i : Fin 16) (s : State) : State :=
  match s.model? i.val with
  | some m => match m.watch with
    | some w =>
      if w.seen < m.rbWindow then s
      else if worse w.fNew w.fOld m.rbK then
        settleModel s i.val m { m with
          watch := none
          promote := some ⟨w.parent, m.point s.pressed m.clock, true⟩ }
      else settleModel s i.val m { m with watch := none }
    | none => s
  | none => s

def execAutoRollback (slot : Fin 16) (s : State) : Host.Outcome State Fault Refusal := .next (autoRollback slot s)

/-- A version that ADAPT_ROLLBACK may name: version 0, the active one, or one that was active before. -/
def canReturn (v : Version) : Bool := v.number == 0 || v.state == .active || v.state == .retired

/-- ADAPT_ROLLBACK (R184): any candidate is discarded, any watch ends, the named version takes effect as a promotion does. -/
def doAdaptRollback (c : Cmd) (_snap : Bytes) (s : State) : CmdOut :=
  match s.modelSlotOf (par8 c.params 0) with
  | none => .fail s 0x0007
  | some i => match s.model? i with
    | none => .fail s 0x0007
    | some m => match m.version? (par8 c.params 1) with
      | none => .fail s 0x0007
      | some v =>
        if !canReturn v then .fail s 0x0009
        else
          let m1 := { m.dropCandidate .discarded with watch := none, promote := none }
          let m2 := if v.number = m.active then m1
            else { m1 with promote := some ⟨v.number, m.point s.pressed m.clock, true⟩ }
          { st := settleModel (dropModelWork s i) i m m2 }

def execAdaptRollback (c : Cmd) (s : State) : Host.Outcome State Fault Refusal :=
  .next (longCmd 0x25 false (exactLen 16) (fun _ => []) doAdaptRollback c s)

/-! ### ADAPT_STATUS (R185) -/

/-- The 64-byte record of a version. -/
def versionRecord (v : Version) : Bytes :=
  toLE 4 v.number ++ toLE 4 v.parent ++ toLE 1 v.state.code ++ zeros 3 ++ toLE 4 v.meanLoss.toNat
    ++ (match v.firstSlot with | some x => toLE 4 x ++ toLE 4 0 | none => List.replicate 8 0xFF) ++ zeros 8
    ++ slice v.digest 0 32

def doAdaptStatus (c : Cmd) (s : State) : CmdOut :=
  match (s.modelSlotOf (par8 c.params 0)).bind s.model? with
  | none => .fail s 0x0007
  | some m => .answer s (m.versions.flatMap versionRecord)

def execAdaptStatus (c : Cmd) (s : State) : Host.Outcome State Fault Refusal :=
  .next (shortCmd 0x26 false (exactLen 8) doAdaptStatus c s)

end Sys2Proof.Machine
end

