-- ==== Sys2Proof/Machine/Carder.lean ====
section
/-!
DEFINITION. The carder unit (R142 to R150, R155, R156): descriptors, their checks and what they move, and their
completion.
-/

namespace Sys2Proof.Machine
open Sys2Proof

/-! ### The descriptor (Tables 7-3 and 7-4) -/

/-- A carder descriptor by field. -/
structure CDesc where
  kind : Nat
  ifmt : Nat
  ispace : Nat
  src : Nat
  dst : Nat
  fill : Bool
  ringEn : Bool
  ring : Nat
  tag : Nat
  seq : Nat
  srcBase : Nat
  dstBase : Nat
  srcStride : Int
  dstStride : Int
  lineBytes : Nat
  count : Nat
  indexAddr : Nat
  doneObj : Nat
  doneN : Nat
  /-- A reserved field is not zero. -/
  reserved : Bool
  /-- HEADER_CPL is the complement of HEADER. -/
  intact : Bool

/-- Read a descriptor. -/
def CDesc.of (b : Bytes) : CDesc :=
  let h := fld b 0 8
  { kind := bits h 60 4, ifmt := bits h 56 4, ispace := bits h 52 4, src := bits h 48 4, dst := bits h 44 4,
    fill := bit h 43, ringEn := bit h 42, ring := bits h 38 4, tag := bits h 16 16, seq := bits h 0 16,
    srcBase := fld b 0x10 8, dstBase := fld b 0x18 8, srcStride := sx 32 (fld b 0x20 4),
    dstStride := sx 32 (fld b 0x24 4), lineBytes := bits (fld b 0x28 4) 0 24, count := bits (fld b 0x2C 4) 0 24,
    indexAddr := fld b 0x30 4, doneObj := fld b 0x3C 2, doneN := fld b 0x3E 2,
    reserved := bits h 32 6 != 0 || bits (fld b 0x28 4) 24 8 != 0 || bits (fld b 0x2C 4) 24 8 != 0
      || fld b 0x34 8 != 0
    intact := slice b 8 8 == cpl (slice b 0 8) }

/-! ### Spaces (Table 7-5) -/

/-- A space: where its address 0 lies in the part's memory, and its windows in its own addresses. -/
structure Space where
  at_ : Nat
  wins : List Run

/-- The window of quire-data that the scheduler of another cluster grants to a quire (Table 7-5). -/
def Quire.window (q : Quire) (k : Nat) : Run :=
  if k = q.cluster.val then q.qd else ((q.remote.find? fun r => r.1.val == k).map (·.2)).getD {}

/-- The space of a code for a quire. The LLR and UCI areas that a slot-reception is granted are the rings of its cluster (R194; DESIGN
CHOICE, log entry 39). -/
def spaceOf (s : State) (q : Quire) (code : Nat) : Option Space :=
  let k := q.cluster.val
  if code ≤ 3 then some ⟨spadAt (4 * k + code), [q.spadWin]⟩
  else if code = 4 then some ⟨cmemAt k, [q.qd]⟩
  else if code = 5 then some ⟨codAt, if q.kind = .slotReception then [ulRing k, uciRing k] else []⟩
  else if code = 6 then
    some ⟨ddrAt, match q.prog with
      | some p => if s.boot.ddrGiB = 0 then [] else [⟨p.ddrBase, p.ddrLen⟩]
      | none => []⟩
  else if 8 ≤ code ∧ code ≤ 0xB then some ⟨cmemAt (code - 8), [q.window (code - 8)]⟩
  else none

/-- First byte and end of the lines at a base, for line places from `lo` to `hi` (R146 check 6). -/
def linesSpan (base : Nat) (stride : Int) (lo hi len : Nat) : Int × Int :=
  let a := (base : Int) + stride * (lo : Int)
  let b := (base : Int) + stride * (hi : Int)
  (min a b, max a b + len)

/-- The extents of a descriptor: source, destination, index stream, as intervals of the part's memory. -/
structure CExtents where
  src : Option (Int × Int)
  dst : Option (Int × Int)
  idx : Option (Int × Int)

/-- Two intervals of bytes meet. -/
def meets (a b : Option (Int × Int)) : Bool :=
  match a, b with
  | some (x, y), some (u, v) => decide (x < v ∧ u < y)
  | _, _ => false

/-- The indices of a gather or scatter (R146 check 5). -/
def CDesc.indices (d : CDesc) (s : State) (q : Quire) : List Nat :=
  if d.kind = 0 then []
  else match spaceOf s q d.ispace with
    | some sp => leList 2 (s.rd (sp.at_ + d.indexAddr) (2 * d.count))
    | none => []

/-- Lowest and highest index other than 0xFFFF. -/
def indexRange (l : List Nat) : Option (Nat × Nat) :=
  match l.filter (· != 0xFFFF) with
  | [] => none
  | i :: r => some (r.foldl Nat.min i, r.foldl Nat.max i)

/-- The extents in the addresses of their own spaces. -/
def CDesc.spans (d : CDesc) (idx : List Nat) : CExtents :=
  let lin := fun (b : Nat) (st : Int) => some (linesSpan b st 0 (d.count - 1) d.lineBytes)
  let byIdx := fun (b : Nat) (st : Int) => (indexRange idx).map fun r => linesSpan b st r.1 r.2 d.lineBytes
  { src := if d.kind = 1 then byIdx d.srcBase d.srcStride else lin d.srcBase d.srcStride
    dst := if d.kind = 2 then byIdx d.dstBase d.dstStride else lin d.dstBase d.dstStride
    idx := if d.kind = 0 then none else some ((d.indexAddr : Int), (d.indexAddr : Int) + 2 * d.count) }

/-- Move an interval to the part's memory. -/
def shiftSpan (at_ : Nat) (x : Option (Int × Int)) : Option (Int × Int) :=
  x.map fun p => (p.1 + at_, p.2 + at_)

/-- An interval lies in one of the windows. -/
def spanIn (w : List Run) (x : Option (Int × Int)) : Bool :=
  match x with
  | some (a, b) => w.any (·.holds a b)
  | none => true

/-- Places of the lines on a side of a descriptor, as far as their alignment depends on them: those that its indices name, or the
first two in line order. -/
def CDesc.sidePlaces (d : CDesc) (indexed : Bool) (idx : List Nat) : List Nat :=
  if indexed then idx.filter (· != 0xFFFF) else List.range (min 2 d.count)

/-- DDR5 lines are multiples of 64 bytes and start at multiples of 64 (Table 7-5). -/
def CDesc.ddrAligned (d : CDesc) (code base : Nat) (stride : Int) (places : List Nat) : Bool :=
  code != 6 || (d.lineBytes % 64 == 0 && places.all fun (p : Nat) => ((base : Int) + stride * (p : Int)) % 64 == 0)

/-- The ring-table entry of a descriptor (R144, R150). -/
def CDesc.ringEntry (d : CDesc) (s : State) (k : Fin 4) : Option RingEntry :=
  if d.ringEn then tget? s.fe.rings (k.val * 16 + d.ring) else none

/-- Where the bytes of a descriptor's ring lie. -/
def CDesc.ringPlace (d : CDesc) (k : Fin 4) : Nat := ringAt k.val d.ring

/-- The extents of a checked descriptor in the part's memory. A ring source takes the whole ring. -/
def CDesc.extents (d : CDesc) (s : State) (q : Quire) (idx : List Nat) : CExtents :=
  let x := d.spans idx
  let at_ := fun code => match spaceOf s q code with | some sp => sp.at_ | none => 0
  { src := match d.ringEntry s q.cluster with
      | some r => some ((d.ringPlace q.cluster : Nat), (d.ringPlace q.cluster + r.len : Nat))
      | none => shiftSpan (at_ d.src) x.src
    dst := shiftSpan (at_ d.dst) x.dst
    idx := shiftSpan (at_ d.ispace) x.idx }

/-- The spaces a descriptor may name. -/
def spaceReserved (c : Nat) : Bool := c == 7 || decide (0xC ≤ c)

/-- Descriptors of the quire's other threads that are running. -/
def otherRunning (s : State) (q : Quire) (t : Fin 8) : List CDesc :=
  ((List.finRange 8).filter (· != t)).filterMap fun u =>
    match (s.cl q.cluster).threads[u] with
    | some b => if b.tag = q.tag then b.finishing.map CDesc.of else none
    | none => none

/-- Checks 1 to 4 of Table 7-6, in table order: the first fault code, if any. -/
def CDesc.form (d : CDesc) (q : Quire) (l : CarderList) : Option Nat :=
  if !d.intact then some 0x51
  else if d.seq ≠ l.next.toNat ∨ d.tag ≠ q.tag.toNat then some 0x51
  else if 3 ≤ d.kind ∨ 5 ≤ d.ispace ∨ spaceReserved d.src ∨ spaceReserved d.dst ∨ d.reserved
      ∨ d.lineBytes = 0 ∨ d.count = 0 then some 0x52
  else if d.ifmt ≠ (if d.kind = 0 then 0xF else 5) then some 0x53
  else none

/-- Checks 6 to 8 of Table 7-6, in table order, from the indices of the prescan. -/
def CDesc.place (d : CDesc) (s : State) (q : Quire) (t : Fin 8) (idx : List Nat) : Option Nat :=
  let x := d.spans idx
  let win := fun code => match spaceOf s q code with | some sp => sp.wins | none => []
  let srcOk := if d.ringEn then (d.ringEntry s q.cluster).isSome
    else spanIn (win d.src) x.src && d.ddrAligned d.src d.srcBase d.srcStride (d.sidePlaces (d.kind == 1) idx)
  if !srcOk || !spanIn (win d.dst) x.dst || !d.ddrAligned d.dst d.dstBase d.dstStride (d.sidePlaces (d.kind == 2) idx)
      || !spanIn (win d.ispace) x.idx || (d.kind != 0 && d.indexAddr % 2 != 0) then some 0x54
  else
    let e := d.extents s q idx
    let others := (otherRunning s q t).map fun o => o.extents s q (o.indices s q)
    if meets e.dst e.src || meets e.dst e.idx
        || others.any (fun o => meets e.dst o.src || meets e.dst o.dst || meets e.dst o.idx) then some 0x55
    else
      let tile := decide (d.dst ≤ 3) && (match x.dst with
        | some (a, b) => (s.eng (4 * q.cluster.val + d.dst)).tileHit a b
        | none => false)
      if tile then some 0x25 else none

/-- The checks of Table 7-6 in table order, the prescan between them: the first fault code, if any. -/
def CDesc.check (d : CDesc) (s : State) (q : Quire) (l : CarderList) (t : Fin 8) (idx : List Nat) : Option Nat :=
  match d.form q l with
  | some c => some c
  | none => d.place s q t idx

/-! ### Moving lines -/

/-- One source line: from a ring it wraps (R144). -/
def CDesc.srcLine (d : CDesc) (s : State) (q : Quire) (place : Nat) : Bytes :=
  match d.ringEntry s q.cluster with
  | some r =>
    let o := ((d.srcBase : Int) + d.srcStride * (place : Int)) % (r.len : Int)
    (List.range d.lineBytes).map fun b => s.mem.byte (d.ringPlace q.cluster + (o.toNat + b) % r.len)
  | none =>
    match spaceOf s q d.src with
    | some sp => s.rd (((sp.at_ + d.srcBase : Nat) : Int) + d.srcStride * (place : Int)).toNat d.lineBytes
    | none => []

/-- The place of a line's destination in the part's memory. -/
def CDesc.linePlace (d : CDesc) (s : State) (q : Quire) (idx : List Nat) (n : Nat) : Option Nat :=
  (spaceOf s q d.dst).map fun sp =>
    (((sp.at_ + d.dstBase : Nat) : Int)
      + d.dstStride * ((if d.kind = 2 then (idx[n]?).getD 0xFFFF else n : Nat) : Int)).toNat

/-- The runs that a descriptor's lines write, one for each line. -/
def CDesc.runs (d : CDesc) (s : State) (q : Quire) (idx : List Nat) : List Run :=
  (List.range d.count).map fun n =>
    if d.kind = 2 ∧ (idx[n]?).getD 0xFFFF = 0xFFFF then {}
    else match d.linePlace s q idx n with
      | some a => ⟨a, d.lineBytes⟩
      | none => {}

/-- Write one line (R144, R148): an index of 0xFFFF zeroes the line of a gather and skips the line of a scatter; a line
that stays unreadable is written as zeros (R156). -/
def CDesc.moveLine (d : CDesc) (s0 : State) (q : Quire) (idx bad : List Nat) (s : State) (n : Nat) : State :=
  let i := (idx[n]?).getD 0xFFFF
  let none_ := d.kind != 0 && i == 0xFFFF
  if d.kind = 2 ∧ none_ then s
  else
    let line := if none_ || bad.contains n then zeros d.lineBytes else d.srcLine s0 q (if d.kind = 1 then i else n)
    match d.linePlace s0 q idx n with
    | some a => s.wr a line
    | none => s

/-! ### Memory errors that a thread meets (R155 to R157) -/

/-- The memory that a read of a thread goes to, by its space code: a ring lies in the cluster memory. -/
def CDesc.readSpace (d : CDesc) : CarderRead → Nat
  | .source => if d.ringEn then 4 else d.src
  | .index => d.ispace
  | .dest => d.dst

/-- A line reads its source, its index, or, where its ends do not fall between words of a memory on the chip, the words that it
shares with other bytes (R157). DDR5 lines have no such ends. -/
def CDesc.lineReads (d : CDesc) (s : State) (q : Quire) (idx : List Nat) (r : CarderRead) (n : Nat) : Bool :=
  let skipped := d.kind != 0 && (idx[n]?).getD 0xFFFF == 0xFFFF
  match r with
  | .source => !skipped
  | .index => d.kind != 0
  | .dest =>
    !(d.kind == 2 && skipped) && d.dst != 6 && (match d.linePlace s q idx n with
      | some a => a % 4 != 0 || (a + d.lineBytes) % 4 != 0
      | none => false)

/-- An error of these reads that stays cannot be covered by zeros: without FILL; for the index of a scatter, since the line has
no place then; and for the words of the destination, since what they held is lost (DESIGN CHOICE for the last two, log entry 65). -/
def CDesc.unfilled (d : CDesc) (r : CarderRead) : Bool :=
  !d.fill || r == .dest || (r == .index && d.kind == 2)

/-- Parity events of the memory of a space (R155): each error met is one. Coding working memory and DDR5 hold no parity. -/
def countParity (s : State) (q : Quire) (code n : Nat) : State :=
  let inCluster := fun (k : Fin 4) => s.setCl k fun c => { c with parityEvents := c.parityEvents + BitVec.ofNat 64 n }
  if code ≤ 3 then s.engCount (4 * q.cluster.val + code) 14 n
  else if code = 4 then inCluster q.cluster
  else if 8 ≤ code ∧ code ≤ 0xB then inCluster (Fin.ofNat 4 (code - 8))
  else s

/-- The errors that strike a descriptor from line `from_` on: the read, the events, and the lines whose read stays wrong. A
re-read counts again where it fails. -/
def CDesc.errors (d : CDesc) (s : State) (q : Quire) (idx : List Nat) (from_ : Nat) (err : SrcError) :
    CarderRead × Nat × List Nat :=
  let at_ := fun (r : CarderRead) (n : Nat) => decide (from_ ≤ n ∧ n < d.count) && d.lineReads s q idx r n
  match err with
  | .none => (.source, 0, [])
  | .mended r => (r, if (List.range d.count).any (at_ r) then 1 else 0, [])
  | .lines r l => (r, 2 * (l.filter (at_ r)).length, l.filter (at_ r))

/-- The quire reports its result with missing data, from a memory error (R156): so does the slot-reception that it serves. -/
def noteFill (s : State) (tag : BitVec 16) : State :=
  let s1 := s.setQuire tag.toNat fun q => { q with flags := { q.flags with missing := true, memFill := true } }
  s1.setRx tag fun r => { r with missing := true }

/-- Take the next descriptor of a bound thread's list (R145): check it, move its lines, and keep it until its completion.
One that was stopped has its launch consumed already and goes on at its saved line (R149). A line whose index stays unreadable is
zeroed like one whose source does. -/
def carderTake (s : State) (q : Quire) (l : CarderList) (b : Thread) (t : Fin 8) (err : SrcError) : State :=
  let raw := (l.descs[l.next.toNat % l.descs.length]?).getD []
  let d := CDesc.of raw
  let o := s.obj q.cluster l.launchObj
  let s1 := if l.line.isSome then s else s.putObj q.cluster l.launchObj { o with count := o.count - 1 }
  let idx := d.indices s1 q
  match d.check s1 q l t idx with
  | some code => faultQuire s1 q.tag code
  | none =>
    let from_ := l.line.getD 0
    let (r, n, bad) := d.errors s1 q idx from_ err
    let s2 := countParity s1 q (d.readSpace r) n
    if !bad.isEmpty && d.unfilled r then faultQuire s2 q.tag 0x56
    else
      let s3 := ((List.range d.count).drop from_).foldl (d.moveLine s2 q idx bad) s2
      let s3 := s3.setQuire q.tag.toNat fun q =>
        { q with lists := listMod q.lists b.list fun l => { l with next := l.next + 1, line := none } }
      let s4 := if bad.isEmpty then s3 else noteFill s3 q.tag
      s4.setCl q.cluster fun c =>
        { c with threads := c.threads.set t (some { b with finishing := some raw, lines := d.runs s2 q idx }) }

/-- CARDER_DESCRIPTOR (R142 to R146, R155): a bound thread with a launch counted takes its next descriptor, once the one
before has completed. -/
def carderDescriptor (k : Fin 4) (t : Fin 8) (err : SrcError) (s : State) : State :=
  match (s.cl k).threads[t] with
  | none => s
  | some b =>
    match tget? s.quires b.tag.toNat with
    | none => s
    | some q =>
      match q.lists[b.list]? with
      | none => s
      | some l =>
        if b.finishing.isSome ∨ l.descs = [] ∨ (s.obj k l.launchObj).count = 0 ∧ l.line.isNone ∨ q.state = .suspended ∧ !q.kind.lc then s
        else carderTake s q l b t err

def execCarderDescriptor (k : Fin 4) (t : Fin 8) (err : SrcError) (s : State) : Host.Outcome State Fault Refusal :=
  .next (carderDescriptor k t err s)

/-- Add a completion to a quire's object or to a system object (R145). -/
def addDone (s : State) (k : Fin 4) (tag : BitVec 16) (i n : Nat) : State :=
  if i < 0x4000 ∨ 0x8000 ≤ i then s
  else sigObj s k i (if isSysObj i then 0 else tag) (BitVec.ofNat 32 n)

/-- CARDER_DONE (R145, R150): the last byte of a descriptor is written: DONE_OBJ counts, a ring's release object counts,
and the thread goes on to the next descriptor or, leaf-bound and with nothing left, is released. -/
def carderDone (k : Fin 4) (t : Fin 8) (s : State) : State :=
  match (s.cl k).threads[t] with
  | none => s
  | some b =>
    match b.finishing, tget? s.quires b.tag.toNat with
    | some raw, some q =>
      let d := CDesc.of raw
      let s1 := s.setCl k fun c => { c with threads := c.threads.set t (some { b with finishing := none, lines := [] }) }
      let s3 := addDone s1 k b.tag d.doneObj d.doneN
      let s4 := match d.ringEntry s3 k with
        | some r => sigObj s3 k r.releaseObj 0 1
        | none => s3
      match tget? s4.quires b.tag.toNat with
      | some q1 => freeLeafThread s4 q1 (coreOf q.cluster (if t.val = 5 then 1 else 0))
      | none => s4
    | _, _ => s

def execCarderDone (k : Fin 4) (t : Fin 8) (s : State) : Host.Outcome State Fault Refusal := .next (carderDone k t s)

end Sys2Proof.Machine
end

