-- ==== Sys2Proof/Machine/Downlink.lean ====
section
/-!
DEFINITION. The downlink slot after its trigger: encoding (R214), precoding and port mapping (R191, R192), BFP compression (R43, R54),
and the U-plane messages that the egress buffer holds until their windows open (R25).
-/

namespace Sys2Proof.Machine
open Sys2Proof

def State.port (s : State) (p : Nat) : Port := (s.fe.ports.toList[p]?).getD {}

/-- udCompHdr of a cell in a direction (R296). -/
def Cell.compHdr (c : Cell) (w : Nat) : Nat := if fld c.rcd 0x2F 1 = 0 then 0 else w % 16 * 16 + 1

/-- COMP_HDR: the format is carried. -/
def Cell.dynamic (c : Cell) : Bool := fld c.rcd 0x30 1 == 1

/-- PRBs of a section within the carrier; 0 PRBs mean all of it (Table 13-4). -/
def sectPrbs (c : Cell) (x : Section) : List Nat :=
  if x.nPrb = 0 then List.range c.nPrb else ((List.range x.nPrb).map (x.prb + ·)).filter (· < c.nPrb)

/-- Sections of a downlink record. -/
def dlSections (r : DlSlot) : List Section := (r.pdsch.filter (·.supported)).map (·.sect) ++ r.other

/-! ### Precoding (R191, R192) -/

/-- The matrix element, with 15 fractional bits, that takes layer `l` of a PDSCH to stream `a` on a PRB: from the matrix of its PRG;
the identity map where that is not there or is too small. PRGs are counted from the allocation's first PRB (DESIGN CHOICE, log entry
40). -/
def weightOf (s : State) (cell nTx : Nat) (p : Pdsch) (prb a l : Nat) : Int × Int :=
  let prg := (prb - if p.sect.nPrb = 0 then 0 else p.sect.prb) / max 1 p.prgSize
  let one : Int × Int := (if a = l then 32768 else 0, 0)
  match (p.pmis[prg]?).bind (tget? (tget s.precoders cell [])) with
  | some m =>
    if m.layers < p.layers ∨ m.streams < nTx then one
    else
      let v := ((m.elems[a * m.layers + l]?).getD 0).toNat
      (sx 16 v, sx 16 (v / 65536))
  | none => one

/-- What a PDSCH puts on a transmit stream at a subcarrier, exactly, with 15 fractional bits: the precoded layers, or for category B
the layers whose port is the stream. -/
def pdschSum (s : State) (c : Cell) (d : DlCtx) (i : Nat) (p : Pdsch) (a symbol sub : Nat) : Int × Int :=
  (List.range p.layers).foldl (fun (z : Int × Int) l =>
    let x := (Config.layerSymbol d.rcd.raw i (tget d.coded i []) symbol sub l).toNat
    let re := sx 16 x
    let im := sx 16 (x / 65536)
    let w : Int × Int := if c.category = 0 then weightOf s d.cell c.nTx p (sub / 12) a l
      else (if p.ports[l]? = some a then 32768 else 0, 0)
    (z.1 + w.1 * re - w.2 * im, z.2 + w.1 * im + w.2 * re)) (0, 0)

/-- The CI16 parts of a transmit stream at a subcarrier: every PDSCH there and the channels without precoding, summed exactly, then
drained with SHIFT 15 (R191; DESIGN CHOICE, log entry 40). -/
def txParts (s : State) (c : Cell) (d : DlCtx) (a symbol sub : Nat) : List Int :=
  let on := ((List.range d.rcd.pdsch.length).zip d.rcd.pdsch).filter fun p =>
    p.2.supported && (sectSymbols p.2.sect).contains symbol && (sectPrbs c p.2.sect).contains (sub / 12)
  let port := (Config.portSymbol d.rcd.raw d.coded a symbol sub).toNat
  let z := on.foldl (fun (z : Int × Int) p =>
    let y := pdschSum s c d p.1 p.2 a symbol sub
    (z.1 + y.1, z.2 + y.2)) (32768 * sx 16 port, 32768 * sx 16 (port / 65536))
  [(narrowInt z.1 15 16).1, (narrowInt z.2 15 16).1]

/-! ### U-plane messages (Table 13-4; log entry 42) -/

/-- A PRB of a stream as it is sent, and whether it was clamped: BFP with udCompParam [7:4] zero, or the 16-bit parts alone (R43, R54,
R296). -/
def txPrb (s : State) (c : Cell) (d : DlCtx) (a symbol prb : Nat) : Bytes × Bool :=
  let (b, cl) := bfpCompress c.downW ((List.range 12).flatMap fun i => txParts s c d a symbol (12 * prb + i))
  if fld c.rcd 0x2F 1 = 0 then (b.drop 1, false) else (b, cl)

/-- The PRBs of a symbol's sections, ascending. -/
def txPrbs (c : Cell) (d : DlCtx) (symbol : Nat) : List Nat :=
  let l := ((dlSections d.rcd).filter fun x => (sectSymbols x).contains symbol).flatMap (sectPrbs c)
  (List.range c.nPrb).filter l.contains

/-- PRBs in runs of neighbours, each of a limited length. -/
def prbRuns (lim : Nat) (l : List Nat) : List (List Nat) :=
  l.foldl (fun a p => match a.getLast? with
    | some r => if r.getLast?.map (· + 1) = some p ∧ r.length < lim then a.dropLast ++ [r ++ [p]] else a ++ [[p]]
    | none => [[p]]) []

/-- The O-RAN headers of a message: direction, version and filter index, frame, subframe, slot and symbol; then one section. -/
def uplaneHead (c : Cell) (sfnSlot symbol n : Nat) (run : List Nat) : Bytes :=
  let slot := slotOf sfnSlot
  let sub := slot / 2 ^ c.scs
  let at_ := slot % 2 ^ c.scs
  let first := run.headD 0
  ([0x90, sfnOf sfnSlot % 256, sub * 16 + at_ / 4, at_ % 4 * 64 + symbol, n / 16, n % 16 * 16 + first / 256, first % 256,
    if run.length = c.nPrb then 0 else run.length] ++ if c.dynamic then [c.compHdr c.downW, 0] else []).map (BitVec.ofNat 8)

/-- The messages of a symbol by stream, each with its body, and the PRBs clamped: as many PRBs a message as its port's MTU leaves room
for (R291). -/
def uplane (s : State) (c : Cell) (d : DlCtx) (symbol : Nat) : List (Nat × Bytes) × Nat :=
  let size := if fld c.rcd 0x2F 1 = 0 then 48 else 1 + 3 * c.downW
  let room := ((s.port c.fhPort).mtu - 74) / size
  let l := txPrbs c d symbol
  let runs := if l.length = c.nPrb ∧ c.nPrb ≤ room then [l] else prbRuns (min 255 (max 1 room)) l
  let all := (List.range c.nTx).map fun a =>
    ((List.range runs.length).zip runs).map fun r =>
      let b := r.2.map (txPrb s c d a symbol)
      ((a, uplaneHead c d.sfnSlot symbol r.1 r.2 ++ b.flatMap (·.1)), (b.filter (·.2)).length)
  ((all.flatten).map (·.1), ((all.flatten).map (·.2)).sum)

/-! ### Readiness (R24, R25) -/

/-- A symbol's message is ready: its entries are encoded and the quire, which works symbol by symbol, has ended its leaf for
that symbol, one leaf a symbol (DESIGN CHOICE, log entry 40). -/
def dlReady (s : State) (d : DlCtx) (symbol : Nat) : Bool :=
  match (dlSymbols d.rcd).findIdx? (· == symbol), tget? s.quires d.tag.toNat with
  | some i, some q => !d.fault && (dlEntries d).all (fun e => (tget? d.coded e).isSome)
      && (q.state == .ended || decide (i < q.leaf0 + q.leaf1))
  | _, _ => false

/-- A symbol's message is owed: scheduled, neither sent nor discarded. -/
def dlOwed (d : DlCtx) (symbol : Nat) : Bool :=
  (dlSymbols d.rcd).contains symbol && !d.sent.contains symbol && !d.lateTx.contains symbol

/-- Form the messages of a symbol that has become ready; the egress buffer holds them from here on. -/
def holdSymbol (s : State) (tag : BitVec 16) (symbol : Nat) : State :=
  match tget? s.coding.dl tag.toNat with
  | none => s
  | some d =>
    if !dlOwed d symbol || (tget? d.held symbol).isSome || !dlReady s d symbol then s
    else
      let (m, clamps) := uplane s (cellOf d.cellRcd) d symbol
      let s1 := s.setCoding fun x => { x with dl := tset x.dl tag.toNat { d with held := tset d.held symbol m } }
      if clamps = 0 then s1 else s1.feCount .bfpClamp d.cell clamps

/-- Form the messages of every symbol that has become ready. -/
def holdReady (s : State) (tag : BitVec 16) : State := (List.range 14).foldl (fun s k => holdSymbol s tag k) s

/-- A number in network order. -/
def netOrder (n v : Nat) : Bytes := (toLE n v).reverse

/-- The Ethernet header of a cell's frames: RU_MAC, PORT_MAC, the cell's tag with its PCP unless it is untagged, EtherType (R292). -/
def ethHead (s : State) (c : Cell) (port : Nat) : Bytes :=
  let vlan := fld c.rcd 0x34 2
  netOrder 6 (fld c.rcd 0x36 6) ++ netOrder 6 (s.port port).mac.toNat
    ++ (if vlan = 0 then [] else netOrder 2 0x8100 ++ netOrder 2 (fld c.rcd 0x33 1 % 8 * 8192 + vlan % 4096)) ++ netOrder 2 0xAEFE

/-- The next association key of a port: transmit and receive sides move to the next association number, each receive channel keeping
its old association beside it (R305; DESIGN CHOICE, log entry 58: one number for both sides, as MKA has it). -/
def Port.rekey (p : Port) : Port :=
  { p with rxOld := p.rxSas, rxSas := p.rxSas.map fun a => { sci := a.sci, an := a.an + 1 }, txAn := p.txAn + 1, txPn := 1 }

/-- The packet number at which a suite without extended numbers gets its next key (R305). -/
def Port.exhausted (p : Port) : Bool :=
  p.macsecMode != 0 && !p.cak.isEmpty && decide (p.cipher < 2) && decide (0xC0000000 ≤ p.txPn)

/-- A frame goes out on a port, under its transmit association: its packet number counts on (R305). -/
def sendFrame (s : State) (c : Cell) (port cell plane sfnSlot symbol : Nat) (b : Bytes) : State :=
  (s.emit (.fhFrame port cell plane sfnSlot symbol (ethHead s c port ++ b))).setFe fun f =>
    if h : port < 8 then
      { f with ports := vmod f.ports ⟨port, h⟩ fun p =>
          let q := { p with txPn := p.txPn + 1 }
          if q.exhausted then q.rekey else q }
    else f

/-- The eCPRI header of a message: revision 1, type, length, eAxC ID, sequence number with E bit 1 and subsequence 0 (Table 13-3). -/
def ecpriHead (typ eaxc seq len : Nat) : Bytes :=
  [0x10, BitVec.ofNat 8 typ] ++ [BitVec.ofNat 8 ((len + 4) / 256), BitVec.ofNat 8 (len + 4), BitVec.ofNat 8 (eaxc / 256), BitVec.ofNat 8 eaxc,
    BitVec.ofNat 8 seq, 0x80]

/-- Send one held message on its stream's eAxC, with the next sequence number of its table entry (R293, R294). -/
def sendOne (c : Cell) (d : DlCtx) (port symbol : Nat) (s : State) (m : Nat × Bytes) : State :=
  match s.fe.eaxc.findIdx? fun e => e.2.2.2.1 == d.cell && e.2.2.2.2.1 == 1 && e.2.2.2.2.2 == m.1 with
  | none => s
  | some i =>
    let id := ((s.fe.eaxc[i]?).getD (0, 0, 0, 0, 0, 0)).2.2.1
    let seq := tget s.fe.seqSent i 0
    (sendFrame s c port d.cell 1 d.sfnSlot symbol (ecpriHead 0 id seq m.2.length ++ m.2)).setFe fun f =>
      { f with seqSent := tset f.seqSent i ((seq + 1) % 256) }

/-- Send a symbol's messages out of the egress buffer. -/
def sendSymbol (s : State) (d : DlCtx) (port symbol : Nat) (l : List (Nat × Bytes)) : State :=
  (l.foldl (sendOne (cellOf d.cellRcd) d port symbol) s).setCoding fun x =>
    { x with dl := tset x.dl d.tag.toNat { d with
        sent := d.sent ++ [symbol], held := tdel d.held symbol, sentBytes := tset d.sentBytes symbol (l.flatMap (·.2)) } }

/-! ### Encoding (R214) -/

/-- The coded bits of an entry of a downlink slot: PDSCH PDUs first, then DCIs, then BCHs. -/
def dlCoded (d : DlCtx) (i : Nat) : Option (List Bool) :=
  let a := d.rcd.pdsch.length
  let b := a + d.rcd.dci.length
  if i < a then
    match d.rcd.pdsch[i]?, d.tx.bind fun t => t.tbs[i]? with
    | some p, some t => if p.supported then
        some (encodeTb (unpackBits p.tbs t.2.2) p.bg p.qm p.layers p.rv.val p.g p.tbsLbrm none) else none
    | _, _ => none
  else if i < b then (d.rcd.dci[i - a]?).map encodeDci
  else (d.rcd.bch[i - b]?).map encodeBch

/-- DL_ENCODE (R214): the coded bits of an entry, packed into its place in the quire's window of the home cluster's memory. -/
def dlEncode (tag : BitVec 16) (pdu : Nat) (s : State) : State :=
  match tget? s.coding.dl tag.toNat, tget? s.quires tag.toNat with
  | some d, some q =>
    match q.prog, dlCoded d pdu with
    | some p, some b =>
      if d.fault || d.posted then s
      else
        let bytes := packBits b
        let s1 := match p.codedAt[pdu]? with
          | some a => if a + bytes.length ≤ q.qd.len then s.wr (cmemAt q.cluster.val + q.qd.base + a) bytes else s
          | none => s
        holdReady (s1.setCoding fun c => { c with dl := tset c.dl tag.toNat { d with coded := tset d.coded pdu b } }) tag
    | _, _ => s
  | _, _ => s

def execDlEncode (tag : BitVec 16) (pdu : Nat) (s : State) : Host.Outcome State Fault Refusal :=
  .next (dlEncode tag pdu s)

end Sys2Proof.Machine
end

