-- ==== Sys2Proof/Machine/Frontend.lean ====
section
/-!
DEFINITION. The front end's symbol windows (R297 to R303): C-plane, frames and their sections, slot stores, slot close, the
downlink's transmission windows (R25), and PRACH occasions (R216).
-/

namespace Sys2Proof.Machine
open Sys2Proof

/-- A port sends frames: it is up and has a PORT_MAC that is neither zero nor a group address (R290, R292). -/
def State.portSends (s : State) (p : Nat) : Bool :=
  let x := s.port p
  x.up && x.mac != 0 && !x.mac.getLsbD 0

/-- The slot's first C-plane window opened after the port came up (R290). -/
def Cell.resumed (c : Cell) (sfnSlot : Nat) : Bool :=
  match c.indexOf sfnSlot with
  | some i => decide ((c.resume : Int) ≤ i)
  | none => true

/-! ### What a record asks for (Table 13-4, R300) -/

/-- The uplink sections of a record: its PUSCH PDUs that are served, and its PUCCH sections. -/
def ulSections (r : UlSlot) : List Section :=
  (r.pusch.filter puschServed).map (fun p => ⟨p.startSym, p.numSym, p.startPrb, p.numPrb, p.beam⟩) ++ r.pucch

/-- PRBs asked for in a symbol. -/
def ulWant (c : Cell) (r : UlSlot) (k : Nat) : List Nat :=
  let l := ((ulSections r).filter fun x => (sectSymbols x).contains k).flatMap (sectPrbs c)
  (List.range c.nPrb).filter l.contains

/-- The stream-symbols of a slot, by symbol and then by stream. -/
def ulSyms (cell sfnSlot : Nat) (c : Cell) (r : UlSlot) : List StreamSym :=
  (List.range 14).flatMap fun k =>
    let w := ulWant c r k
    if w.isEmpty then [] else (List.range c.nRx).map fun a =>
      { cell := cell, sfnSlot := sfnSlot, symbol := k, stream := a, want := w }

/-- What a C-plane message says beside its section: section type, filterIndex, what follows its common header and its section. -/
structure CplaneKind where
  typ : Nat
  filter : Nat := 0
  head : Bytes := []
  more : Bytes := []

/-- The body of a C-plane message with one section (Table 13-4): direction, version and filterIndex, frame, subframe, slot and first
symbol; one section of its type; udCompHdr; section identifier, PRBs, every RE, symbols, beamId (layout PRESUMED, log entry 42). -/
def cplaneBytes (c : Cell) (dl : Bool) (sfnSlot w id : Nat) (x : Section) (k : CplaneKind) : Bytes :=
  let slot := slotOf sfnSlot
  let at_ := slot % 2 ^ c.scs
  let comp := if c.dynamic then c.compHdr w else 0
  let beam := if c.category = 0 then 0 else x.beam % 32768
  let n := if x.nPrb = 0 ∨ 255 < x.nPrb then 0 else x.nPrb
  ([dl.toNat * 128 + 16 + k.filter, sfnOf sfnSlot % 256, slot / 2 ^ c.scs * 16 + at_ / 4, at_ % 4 * 64 + x.sym, 1, k.typ].map
      (BitVec.ofNat 8)) ++ k.head ++ toLE 1 comp ++ (if k.typ = 1 then [0] else [])
    ++ ([id / 16, id % 16 * 16 + x.prb / 256, x.prb % 256, n, 0xFF, 0xF0 + x.nSym % 16].map (BitVec.ofNat 8)) ++ netOrder 2 beam ++ k.more

/-- Send the C-plane messages of a slot, each in the window of its first symbol, in that order, on the eAxC of the direction's first
stream (DESIGN CHOICE, log entry 42). -/
def sendCplane (s : State) (cell : Nat) (c : Cell) (dl : Bool) (sfnSlot w : Nat) (l : List (Section × CplaneKind)) : State :=
  let order := sortBy (fun a b => decide (a.1.sym ≤ b.1.sym)) l
  ((List.range order.length).zip order).foldl (fun s x =>
    match s.fe.eaxc.findIdx? fun e => e.2.2.2.1 == cell && e.2.2.2.2.1 == (if dl then 1 else 0) with
    | none => s
    | some i =>
      let id := ((s.fe.eaxc[i]?).getD (0, 0, 0, 0, 0, 0)).2.2.1
      let b := cplaneBytes c dl sfnSlot w x.1 x.2.1 x.2.2
      let seq := tget s.fe.seqCtl i 0
      (sendFrame s c c.fhPort cell 0 sfnSlot x.2.1.sym (ecpriHead 2 id seq b.length ++ b)).setFe fun f =>
        { f with seqCtl := tset f.seqCtl i ((seq + 1) % 256) }) s

/-- Sections of type 1. -/
def plainSections (l : List Section) : List (Section × CplaneKind) := l.map fun x => (x, { typ := 1 })

/-- filterIndex of a PRACH format (Table 13-4; O-RAN's values, PRESUMED, log entry 42). -/
def prachFilter (p : PrachPdu) : Nat := if p.format < 3 then 1 else if p.format = 3 then 2 else 3

/-- O-RAN's code of a PRACH subcarrier spacing (PRESUMED, log entry 42). -/
def prachScsCode (p : PrachPdu) : Nat :=
  match prachHz p with | 1250 => 12 | 5000 => 14 | 30000 => 1 | _ => 0

/-- The section of a PRACH occasion, of type 3 with its FFT size, SCS and frequencyOffset (Table 13-4). -/
def prachSection (p : PrachPdu) : Section × CplaneKind :=
  (⟨p.startSym, prachReps p, 0, ceilDiv (prachLen p) 12, p.beam⟩,
    { typ := 3, filter := prachFilter p, head := [0, 0] ++ toLE 1 (p.fft % 16 * 16 + prachScsCode p) ++ [0, 0]
      more := netOrder 3 p.freqOffset ++ [0] })

/-- The sections of the PRACH occasions of a record. -/
def prachSections (r : UlSlot) : List (Section × CplaneKind) := (r.prach.filter prachAllowed).map prachSection

/-! ### CPLANE_WINDOW_OPEN (R297, R299) -/

/-- Number the clock at a slot's first C-plane window, by the earliest record of the cell (R297). -/
def numberSlot (s : State) (cell i : Nat) (other : Nat) : State :=
  match s.cell? cell with
  | none => s
  | some c =>
    if c.number.isSome || decide (i < other) then s
    else match s.fe.recOrder.find? (fun x => x.1 == cell) with
      | some (_, n) => s.setCell cell fun c => { c with number := some (i, n) }
      | none => s

/-- Serve the uplink of a slot: its C-plane goes out and its stream-symbols are awaited. -/
def serveUl (s : State) (cell i : Nat) (c : Cell) (sfnSlot : Nat) (r : UlSlot) : State :=
  let key := slotKey cell sfnSlot
  let dl := (dlRecord s key).isSome || (tget? s.fe.txRecs key).isSome
  let syms := ulSyms cell sfnSlot c r
  let s1 := s.setFe fun f =>
    let ctx : UlCtx := { cell := cell, sfnSlot := sfnSlot, rcd := r, syms := syms }
    { f with
      ulRecs := tdel f.ulRecs key
      recOrder := if dl then f.recOrder else f.recOrder.filter (· != (cell, sfnSlot))
      ul := if syms.isEmpty && (prachSections r).isEmpty then f.ul else tset f.ul key ctx }
  if s.portSends c.fhPort && decide (c.resume ≤ i) then
    sendCplane s1 cell c false sfnSlot c.upW (plainSections (ulSections r) ++ prachSections r)
  else s1

/-- CPLANE_WINDOW_OPEN: the C-plane window of a direction for symbol 0 of the clock's next slot opens; the slot's record is
looked for once. -/
def cplaneWindowOpen (cell : Nat) (dl : Bool) (s : State) : State :=
  match s.cell? cell with
  | none => s
  | some c =>
    if !c.placed || c.clock.isNone || !(if dl then c.downlink else c.uplink) then s
    else
      let i := if dl then c.cpDl else c.cpUl
      let other := if dl then (if c.uplink then c.cpUl else 0) else (if c.downlink then c.cpDl else 0)
      let slot := match c.slotAt i with | some n => slotOf n | none => 0
      let s1 := s.advanceTo (c.symTick i slot 0 - (if dl then c.cpDlMax else c.cpUlMax))
      let s2 := (numberSlot s1 cell i other).setCell cell fun c =>
        if dl then { c with cpDl := i + 1 } else { c with cpUl := i + 1 }
      match s2.cell? cell with
      | none => s2
      | some c2 =>
        match c2.slotAt i with
        | none => s2.feCount .slotRecordLate cell
        | some n =>
          if dl then
            match dlRecord s2 (slotKey cell n) with
            | none => s2.feCount .slotRecordLate cell
            | some r =>
              let s3 := if s2.portSends c.fhPort && decide (c2.resume ≤ i)
                then sendCplane s2 cell c true n c.downW (plainSections (dlSections r)) else s2
              startDl s3 cell n
          else
            match tget? s2.fe.ulRecs (slotKey cell n) with
            | none => s2.feCount .slotRecordLate cell
            | some r => serveUl s2 cell i c n r

def execCplaneWindowOpen (cell : Fin 64) (downlink : Bool) (s : State) : Host.Outcome State Fault Refusal :=
  .next (cplaneWindowOpen cell.val downlink s)

/-! ### Stream-symbols and slot close (R17, R18, R279, R301) -/

/-- The digest of what was received (R279). -/
def streamDigest (got : Table Bytes) : Bytes := digest256 (toLE 2 got.length ++ got.flatMap (·.2))

/-- A stream-symbol ends: its digest ends with it where the cell has COLOPHON set (R306). -/
def endSym (colo : Bool) (x : StreamSym) : StreamSym :=
  if x.closed then x else { x with closed := true, digest := if colo then streamDigest x.got else [] }

def setUl (s : State) (key : Nat) (f : UlCtx → UlCtx) : State :=
  match tget? s.fe.ul key with
  | some u => s.setFe fun e => { e with ul := tset e.ul key (f u) }
  | none => s

/-- The last uplink symbol of a slot. -/
def UlCtx.lastSym (u : UlCtx) : Nat := (u.syms.map (·.symbol)).foldl Nat.max 0

/-- Slot close: the last symbol's stream-symbols have all ended (R17). -/
def closeCheck (s : State) (key : Nat) : State :=
  setUl s key fun u =>
    if u.closeTick.isNone && !u.syms.isEmpty && (u.syms.filter fun x => x.symbol == u.lastSym).all (·.closed)
    then { u with closeTick := some s.ticks.toNat } else u

/-- RECEPTION_WINDOW_END (R18, R301): stream-symbols of the symbol that are not complete end with PRBs missing; at the last
symbol the slot is forced closed, every symbol with it. -/
def receptionWindowEnd (cell sfnSlot symbol : Nat) (s : State) : State :=
  let key := slotKey cell sfnSlot
  match s.cell? cell, tget? s.fe.ul key with
  | some c, some u =>
    let s1 := match c.symAt sfnSlot symbol with | some t => s.advanceTo (t + c.ta4Max) | none => s
    let last := symbol == u.lastSym
    let hit := fun (x : StreamSym) => !x.closed && (x.symbol == symbol || last)
    let open_ := u.syms.any hit
    let force := last && u.syms.any fun x => !x.closed && x.symbol == symbol
    let s2 := setUl s1 key fun u =>
      { u with syms := u.syms.map (fun x => if hit x then endSym c.colophon x else x), missing := u.missing || open_,
               forced := u.forced || force }
    closeCheck s2 key
  | _, _ => s

def execReceptionWindowEnd (cell : Fin 64) (sfnSlot symbol : Nat) (s : State) : Host.Outcome State Fault Refusal :=
  .next (receptionWindowEnd cell.val sfnSlot symbol s)

/-! ### Frames (R292 to R296, R300, R304) -/

/-- Granules of the ingress banks: 8 MiB in 256-byte granules. -/
def ingressGranules : Nat := 32768

/-- The bytes of a received PRB in slot-store form (R140, R296). -/
def Cell.storeForm (c : Cell) (b : Bytes) : Bytes :=
  if fld c.rcd 0x2F 1 = 0 then 0 :: slice b 0 48 else slice b 0 (1 + 3 * c.ulWidth)

/-- Take one PRB of a stream-symbol. -/
def takePrb (cell key symbol stream prb : Nat) (b : Bytes) (colo : Bool) (s : State) : State :=
  match tget? s.fe.ul key with
  | none => s.feCount .unrequested cell
  | some u =>
    match u.syms.find? (fun x => x.symbol == symbol && x.stream == stream) with
    | none => s.feCount .unrequested cell
    | some x =>
      if !x.want.contains prb then s.feCount .unrequested cell
      else if (tget? x.got prb).isSome then s.feCount .duplicate cell
      else
        let x1 := { x with got := tset x.got prb b }
        let x2 := if x1.got.length = x1.want.length then endSym colo x1 else x1
        setUl s key fun u => { u with syms := u.syms.map fun y => if y = x then x2 else y }

/-- The PRACH PDU of a slot whose occasion covers a symbol. -/
def prachAt (r : UlSlot) (symbol : Nat) : Option Nat :=
  ((List.range r.prach.length).zip r.prach).findSome? fun p =>
    if prachAllowed p.2 && decide (p.2.startSym ≤ symbol ∧ symbol < p.2.startSym + prachReps p.2) then some p.1 else none

/-- Take one PRB of a PRACH section (R216). -/
def takePrach (cell key symbol stream prb : Nat) (b : Bytes) (s : State) : State :=
  match tget? s.fe.ul key with
  | none => s.feCount .unrequested cell
  | some u =>
    match prachAt u.rcd symbol with
    | none => s.feCount .unrequested cell
    | some i =>
      let k := (i * 64 + stream) * 64 + symbol
      let n := match u.rcd.prach[i]? with | some p => ceilDiv (prachLen p) 12 | none => 0
      if n ≤ prb then s.feCount .unrequested cell
      else if (tget? (tget u.prach k []) prb).isSome then s.feCount .duplicate cell
      else setUl s key fun u => { u with prach := tmod u.prach k [] fun t => tset t prb b }

/-- Hold ingress space for a stream-symbol until it is stored. -/
def holdGranules (s : State) (key symbol stream n : Nat) : State :=
  (setUl s key fun u =>
    { u with syms := u.syms.map fun x =>
        if x.symbol = symbol ∧ x.stream = stream ∧ !x.stored then { x with gran := x.gran + n } else x }).setFe
    fun f => { f with granules := f.granules + n }

/-- Number the PRBs of a section from its first on. -/
def numberPrbs (first : Nat) : List Bytes → List (Nat × Bytes)
  | [] => []
  | b :: r => (first, b) :: numberPrbs (first + 1) r

/-- Bytes of a section's PRBs that its stream-symbol asked for and does not hold yet (R300). -/
def keptBytes (s : State) (key symbol stream : Nat) (prbs : List (Nat × Bytes)) : Nat :=
  match (tget? s.fe.ul key).bind fun u => u.syms.find? (fun x => x.symbol == symbol && x.stream == stream) with
  | some x => ((prbs.filter fun p => x.want.contains p.1 && (tget? x.got p.1).isNone).map (·.2.length)).sum
  | none => 0

/-- Where a section's last byte falls, to one AON tick: before the reception window of its symbol, in it, or after it, its last tick
included (R298, R300, R303). -/
inductive Timing where
  | early | onTime | late
deriving DecidableEq, Repr

def Cell.timing (c : Cell) (now sfnSlot symbol : Nat) : Timing :=
  match c.symAt sfnSlot symbol with
  | some t => if now < t + c.ta4Min then .early else if t + c.ta4Max < now then .late else .onTime
  | none => .onTime

/-- One accepted section of a cell (R296, R300). Of a slot whose C-plane window opened while the port was down nothing was
requested (R290). -/
def takeSection (cell : Nat) (c : Cell) (prach : Bool) (stream : Nat) (m : EcpriMsg) (s : State) (x : USection) : State :=
  let key := slotKey cell m.sfnSlot
  let resumed := c.resumed m.sfnSlot
  let timing := c.timing s.ticks.toNat m.sfnSlot m.symbol
  let first := if x.nPrb = 0 then 0 else x.prb
  let hdr := if c.dynamic then some (BitVec.ofNat 8 (c.compHdr c.upW)) else none
  let n := ceilDiv (x.prbs.map (·.length)).sum 256
  let exceeds := match tget? s.fe.ul key with
    | some u => u.syms.any fun y => y.symbol == m.symbol && y.stream == stream && y.closed
        && decide (y.got.length < y.want.length)
    | none => false
  if x.comp ≠ hdr then s.feCount .compMismatch cell
  else if timing = .late || (!prach && exceeds) then s.feCount .lateArrival cell
  else if ingressGranules < s.fe.granules + n then s.feCount .ingressOverflow 0
  else
    let s1 := if timing = .early then s.feCount .early cell else s
    let prbs := (numberPrbs first x.prbs).map fun p => (p.1, c.storeForm p.2)
    if !resumed then s1.feCount .unrequested cell prbs.length
    else if prach then prbs.foldl (fun s p => takePrach cell key m.symbol stream p.1 p.2 s) s1
    else
      let kept := keptBytes s1 key m.symbol stream (numberPrbs first x.prbs)
      let s2 := prbs.foldl (fun s p => takePrb cell key m.symbol stream p.1 p.2 c.colophon s) s1
      closeCheck (if kept = 0 then s2 else holdGranules s2 key m.symbol stream (ceilDiv kept 256)) key

/-- A message breaks Table 13-3 or 13-4 by itself. -/
def ecpriBad (m : EcpriMsg) : Bool :=
  m.typ != 0 || !m.eBit || m.subSeq != 0 || m.sections.isEmpty || decide (16 < m.sections.length) || m.sections.any (·.symInc != 0)

/-- It breaks Table 13-4 as a message of its cell: the filterIndex, or PRBs that its sections do not carry. -/
def ecpriBadFor (m : EcpriMsg) (s : State) (cell : Nat) (c : Cell) (prach : Bool) : Bool :=
  let occasion := ((tget? s.fe.ul (slotKey cell m.sfnSlot)).bind fun u => (prachAt u.rcd m.symbol).bind fun i => u.rcd.prach[i]?)
  (if prach then (match occasion with | some p => m.filterIndex != prachFilter p | none => false) else m.filterIndex != 0)
    || m.sections.any fun x =>
      if x.nPrb = 0 then !prach && x.prbs.length != c.nPrb else x.prbs.length != x.nPrb

/-- One eCPRI message of a frame (R293 to R295). -/
def takeMessage (port vlan : Nat) (s : State) (m : EcpriMsg) : State :=
  if ecpriBad m then s.feCount .ecpriBad port
  else
    match s.fe.eaxc.findIdx? (fun e => e.1 == port && e.2.1 == vlan && e.2.2.1 == m.eaxc.toNat && e.2.2.2.2.1 != 1) with
    | none => s.feCount .eaxcUnknown port
    | some i =>
      let e := (s.fe.eaxc[i]?).getD (0, 0, 0, 0, 0, 0)
      let s1 := match tget? s.fe.seqSeen i with
        | some q => if m.seq.toNat = (q + 1) % 256 then s else s.feCount .seqGap i
        | none => s
      let s2 := s1.setFe fun f => { f with seqSeen := tset f.seqSeen i m.seq.toNat }
      match s2.cell? e.2.2.2.1 with
      | none => s2
      | some c =>
        let prach := e.2.2.2.2.1 == 2
        if ecpriBadFor m s2 e.2.2.2.1 c prach then s2.feCount .ecpriBad port
        else m.sections.foldl (takeSection e.2.2.2.1 c prach e.2.2.2.2.2 m) s2

/-- A frame breaks R292. -/
def frameBad (s : State) (f : Frame) : Bool :=
  let p := s.port f.port.val
  let ru := s.cfg.cells.any fun c => c.2.placed && c.2.fhPort == f.port.val && fld c.2.rcd 0x36 6 == f.src.toNat
    && (match f.tags with
        | [] => true
        | [t] => t.1 == 0x8100 && t.2 == fld c.2.rcd 0x34 2
        | _ => false)
  !f.fcsGood || f.dst != p.mac || p.mac == 0 || p.mac.getLsbD 0 || !ru || f.etherType != 0xAEFE
    || decide (f.len < 64) || decide (p.mtu < f.len)

/-- The MACsec outcome of a frame (R304): none if it is discarded. A valid frame advances its association. -/
def macsecIn (s : State) (f : Frame) : Option State :=
  let i := f.port.val
  let p := s.port i
  if p.macsecMode = 0 then some s
  else match f.macsec with
    | .untagged => none
    | .notValid => none
    | .late => none
    | .noSa => none
    | .valid sci an pn =>
      match (p.rxSas ++ p.rxOld).find? (fun a => a.sci == sci && a.an == an) with
      | none => none
      | some a =>
        if pn + p.replayWindow < a.nextPn then none
        else
          let up := fun (l : List RxSa) => l.map fun (x : RxSa) =>
            if x = a then { x with nextPn := max x.nextPn (pn + 1) } else x
          -- the first valid frame under a newer association starts the last second of the older one of its channel
          let old := if p.rxSas.contains a then p.rxOld.map fun x =>
              if x.sci = sci ∧ x.since.isNone then { x with since := some s.ticks.toNat } else x
            else up p.rxOld
          some (s.setFe fun e => { e with ports := vmod e.ports f.port fun _ => { p with rxSas := up p.rxSas, rxOld := old } })

/-- The counter of a frame that MACsec discards. -/
def macsecCause (s : State) (f : Frame) : FeCtr :=
  let p := s.port f.port.val
  match f.macsec with
  | .untagged => .macUntagged
  | .notValid => .macNotValid
  | .late => .macLate
  | .noSa => .macNoSa
  | .valid sci an _ =>
    if (p.rxSas ++ p.rxOld).any (fun a => a.sci == sci && a.an == an) then .macLate else .macNoSa

/-- FRAME_RECEIVE: the checks in their order, then each message. -/
def frameReceive (f : Frame) (s : State) : State :=
  let i := f.port.val
  if !(s.port i).up then s
  else
    let s0 := if f.fecBad then s.feCount .fecUncorr i else s
    if f.pause then s0.feCount .pauseRx i
    else if frameBad s0 f then s0.feCount .frameBad i
    else match macsecIn s0 f with
      | none => s0.feCount (macsecCause s0 f) i
      | some s1 =>
        let vlan := match f.tags with | t :: _ => t.2 | [] => 0
        if f.revision ≠ 1 then f.msgs.foldl (fun s _ => s.feCount .ecpriBad i) s1
        else f.msgs.foldl (takeMessage i vlan) s1

def execFrameReceive (f : Frame) (s : State) : Host.Outcome State Fault Refusal := .next (frameReceive f s)

/-! ### Slot stores (R140, R150, R172, R301) -/

/-- CFO_CORR and TIME_CORR. -/
def Cell.cfo (c : Cell) : Int := sx 16 (fld c.rcd 0x18 2)
def Cell.timeCorr (c : Cell) : Int := sx 16 (fld c.rcd 0x1A 2)

/-- The PRBs of a stream-symbol as they go to the slot store, with the clamps of the correction. -/
def storePrbs (c : Cell) (x : StreamSym) : Table Bytes × Nat :=
  if c.cfo = 0 ∧ c.timeCorr = 0 then
    (x.want.map fun p => (p, (tget? x.got p).getD (zeros (1 + 3 * c.upW))), 0)
  else correctSymbol c.upW c.nPrb c.scs (slotOf x.sfnSlot) x.symbol c.cfo c.timeCorr x.got

/-- Where a stream-symbol starts in a slot store. -/
def streamAt (c : Cell) (x : StreamSym) : Nat := (x.symbol * c.nRx + x.stream) * c.streamBytes

/-- Write the PRBs of a stream-symbol into a slot store. -/
def writeStore (s : State) (at_ : Nat) (c : Cell) (x : StreamSym) (prbs : Table Bytes) : State :=
  prbs.foldl (fun s p => s.wr (at_ + streamAt c x + p.1 * (1 + 3 * c.upW)) p.2) s

/-- A word at an end of a stream-symbol, of which it writes a part: its old bytes are read first (R157). -/
def edgeWord (a n w : Nat) : Bool :=
  (a % 4 != 0 && w - w % 4 == a - a % 4) || ((a + n) % 4 != 0 && w - w % 4 == a + n - (a + n) % 4)

/-- The old words at the ends of a stream-symbol that the front end writes (R155, R157; DESIGN CHOICE, log entry 65: Table 7-10 has no
row for the front end): an error that the re-read mends is an event, one that stays is two; the merged word is then not written
and the slot has data missing. -/
def storeParity (s0 s : State) (k : Fin 4) (key a n : Nat) (par : Option (Nat × Bool)) : State :=
  match par with
  | none => s
  | some (w, again) =>
    if !edgeWord a n w then s
    else
      let s1 := s.setCl k fun c => { c with parityEvents := c.parityEvents + if again then 2 else 1 }
      if again then
        setUl (s1.wr (w - w % 4) (s0.rd (w - w % 4) 4)) key fun u => { u with missing := true }
      else s1

/-- SLOT_STORE_FORWARD (R150, R301): a completed stream-symbol goes to its place once its ring is this slot's, or free of the
slot before: released by its descriptors or by the end of its quire. -/
def slotStoreForward (cell sfnSlot symbol stream : Nat) (par : Option (Nat × Bool)) (s : State) : State :=
  let key := slotKey cell sfnSlot
  match s.cell? cell, tget? s.fe.ul key with
  | some c, some u =>
    match u.syms.find? (fun x => x.symbol == symbol && x.stream == stream), s.fe.rings.find? (fun p => p.2.cell == cell) with
    | some x, some (n, r) =>
      let k : Fin 4 := if h : n / 16 < 4 then ⟨n / 16, h⟩ else 0
      let mine := r.slot == some sfnSlot
      let free := !r.busy || decide (r.need ≤ (s.obj k r.releaseObj).count.toNat)
      if !x.closed || x.stored || !(mine || free) then s
      else
        let s1 := if mine then s else
          (s.putObj k r.releaseObj {}).setFe fun f =>
            { f with rings := tset f.rings n { r with busy := true, slot := some sfnSlot } }
        let (prbs, clamps) := storePrbs c x
        let at_ := ringAt (n / 16) (n % 16)
        let s2 := storeParity s1 (writeStore s1 at_ c x prbs) k key (at_ + streamAt c x) c.streamBytes par
        let s3 := if clamps = 0 then s2 else s2.feCount .bfpClamp cell clamps
        (setUl s3 key fun u =>
          { u with syms := u.syms.map fun y => if y = x then { x with stored := true, gran := 0 } else y }).setFe
          fun f => { f with granules := f.granules - x.gran }
    | _, _ => s
  | _, _ => s

def execSlotStoreForward (cell : Fin 64) (sfnSlot symbol : Nat) (x : StoredStream) (s : State) :
    Host.Outcome State Fault Refusal := .next (slotStoreForward cell.val sfnSlot symbol x.stream x.par s)

/-! ### Downlink windows (R25) -/

/-- The downlink slot of a cell that is not posted yet. -/
def dlCtx? (s : State) (cell sfnSlot : Nat) : Option DlCtx :=
  (s.coding.dl.find? fun p => p.2.cell == cell && p.2.sfnSlot == sfnSlot && !p.2.posted).map (·.2)

/-- The cell's port is up and sends, and the slot is one that it resumed for (R290). -/
def dlSends (s : State) (c : Cell) (sfnSlot : Nat) : Bool := s.portSends c.fhPort && c.resumed sfnSlot

/-- DL_TX_WINDOW_OPEN: the window opens, and the message goes out if it is held. -/
def dlTxWindowOpen (cell sfnSlot symbol : Nat) (s : State) : State :=
  match s.cell? cell, dlCtx? s cell sfnSlot with
  | some c, some d =>
    let s1 := match c.symAt sfnSlot symbol with | some t => s.advanceTo (t - c.upMax) | none => s
    match tget? d.held symbol with
    | some l => if dlOwed d symbol && dlSends s1 c sfnSlot then sendSymbol s1 d c.fhPort symbol l else s1
    | none => s1
  | _, _ => s

def execDlTxWindowOpen (cell : Fin 64) (sfnSlot symbol : Nat) (s : State) : Host.Outcome State Fault Refusal :=
  .next (dlTxWindowOpen cell.val sfnSlot symbol s)

/-- DL_TX_WINDOW_CLOSE: a message that became ready while its window was open has gone out; one that is not ready is
discarded and counted. -/
def dlTxWindowClose (cell sfnSlot symbol : Nat) (s : State) : State :=
  match s.cell? cell, dlCtx? s cell sfnSlot with
  | some c, some d =>
    let s1 := match c.symAt sfnSlot symbol with | some t => s.advanceTo (t - c.upMin) | none => s
    let drop := (s1.setCoding fun x =>
      { x with dl := tset x.dl d.tag.toNat { d with lateTx := d.lateTx ++ [symbol], held := tdel d.held symbol } }).feCount .lateTx cell
    if !dlOwed d symbol then s1
    else match tget? d.held symbol with
      | some l => if dlSends s1 c sfnSlot then sendSymbol s1 d c.fhPort symbol l else drop
      | none => drop
  | _, _ => s

def execDlTxWindowClose (cell : Fin 64) (sfnSlot symbol : Nat) (s : State) : Host.Outcome State Fault Refusal :=
  .next (dlTxWindowClose cell.val sfnSlot symbol s)

/-! ### PRACH occasions (R216) -/

/-- The samples of a stream and repetition, PRB after PRB, zeros where none arrived, and the clamps. -/
def prachSamples (c : Cell) (lRa : Nat) (got : Table Bytes) : List (BitVec 32) × Nat :=
  let l := (List.range (ceilDiv lRa 12)).map fun i => match tget? got i with
    | some b => let (v, cl) := bfpExpand c.upW b; ((ci16Of v).map (BitVec.ofNat 32), cl.toNat)
    | none => (List.replicate 12 (0 : BitVec 32), 0)
  (l.flatMap (·.1), (l.map (·.2)).sum)

/-- The contexts of an occasion by stream and repetition. -/
def prachInputs (u : UlCtx) (i : Nat) (p : PrachPdu) (streams : Nat) : List (Nat × Nat × Table Bytes) :=
  (List.range (prachReps p)).flatMap fun t => (List.range streams).map fun a =>
    (a, t, tget u.prach ((i * 64 + a) * 64 + p.startSym + t) [])

/-- An uplink slot whose slot-reception is posted, or that has none, and whose occasions have all ended is forgotten. -/
def dropUl (s : State) (key : Nat) : State :=
  match tget? s.fe.ul key with
  | some u =>
    if u.syms.isEmpty && (placesOf 0 prachAllowed u.rcd.prach).all u.prachDone.contains
    then s.setFe fun f => { f with ul := tdel f.ul key } else s
  | none => s

/-- The AON tick at which a symbol of a slot ends at the air interface. -/
def Cell.symEnd (c : Cell) (sfnSlot l : Nat) : Option Nat :=
  if l < 13 then c.symAt sfnSlot (l + 1)
  else match c.clock, c.indexOf sfnSlot with
    | some _, some i =>
      if 0 ≤ i then some (c.symTick (i.toNat + 1 + (l - 13) / 14) ((slotOf sfnSlot + 1 + (l - 13) / 14) % c.slotsPerFrame) ((l - 13) % 14))
      else none
    | _, _ => none

/-- PRACH_WINDOW_END: missing sections are zeroed and the occasion's quire is triggered, on a cluster without engines too (R36,
R249); its deadline is 500 µs after the end of the occasion's last symbol (R220, Table 10-1; DEDUCED, log entry 41). -/
def prachWindowEnd (cell sfnSlot pdu : Nat) (s : State) : State :=
  let key := slotKey cell sfnSlot
  match s.cell? cell, tget? s.fe.ul key with
  | some c, some u =>
    match u.rcd.prach[pdu]? with
    | none => s
    | some p =>
      if !prachAllowed p || u.prachDone.contains pdu then s
      else
        let s1 := match c.symAt sfnSlot (p.startSym + prachReps p - 1) with | some t => s.advanceTo (t + c.ta4Max) | none => s
        let s2 := dropUl (setUl s1 key fun u => { u with prachDone := u.prachDone ++ [pdu] }) key
        let past := match c.symEnd sfnSlot (p.startSym + prachReps p - 1) with | some t => s2.ticks.toNat - t | none => 0
        let n := c.prachIds.length
        let ins := prachInputs u pdu p n
        let full := ceilDiv (prachLen p) 12
        let (tag, s3) := newQuire s2 c.cluster .prach (cell + 1) cell sfnSlot
          (some ((s2.cl c.cluster).counter.toNat + usTicks 500 - past))
        let y := ins.foldl (fun (t : Table (List (BitVec 32))) x =>
          tset t (x.1 * 64 + x.2.1) (prachSamples c (prachLen p) x.2.2).1) []
        let ctx : PrachCtx :=
          { tag := tag, cell := cell, sfnSlot := sfnSlot, pdu := p, y := y, cellRcd := c.rcd,
            missing := ins.any fun x => decide (x.2.2.length < full)
            digests := if c.colophon then ins.map fun x => streamDigest x.2.2 else [] }
        let clamps := (ins.map fun x => (prachSamples c (prachLen p) x.2.2).2).sum
        let s4 := s3.setCoding fun g => { g with prach := tset g.prach tag.toNat ctx }
        if clamps = 0 then s4 else s4.feCount .bfpClamp cell clamps
  | _, _ => s

def execPrachWindowEnd (cell : Fin 64) (sfnSlot pdu : Nat) (s : State) : Host.Outcome State Fault Refusal :=
  .next (prachWindowEnd cell.val sfnSlot pdu s)

end Sys2Proof.Machine
end

