-- ==== Sys2Proof/Machine/Receivers.lean ====
section
/-!
DEFINITION. The two built-in receivers of the yardstick (R187, R188). The manual gives their steps and no number format: every
value of a step is exact, then kept as `Config.receiverRound` keeps it (DESIGN CHOICE, log entry 67).
-/

namespace Sys2Proof.Machine
open Sys2Proof

/-! ### Complex values and linear systems -/

/-- A quotient; by 0 it is the value that the manual does not give. -/
def quot (a b : Rat) : Rat := if b = 0 then Config.overZero a else a / b

/-- A complex value. -/
structure Cx where
  re : Rat := 0
  im : Rat := 0
deriving DecidableEq, Repr

def Cx.add (a b : Cx) : Cx := ⟨a.re + b.re, a.im + b.im⟩
def Cx.sub (a b : Cx) : Cx := ⟨a.re - b.re, a.im - b.im⟩
def Cx.mul (a b : Cx) : Cx := ⟨a.re * b.re - a.im * b.im, a.re * b.im + a.im * b.re⟩
def Cx.conj (a : Cx) : Cx := ⟨a.re, -a.im⟩
def Cx.norm2 (a : Cx) : Rat := a.re * a.re + a.im * a.im
def Cx.scale (a : Cx) (x : Rat) : Cx := ⟨a.re * x, a.im * x⟩
def Cx.div (a b : Cx) : Cx := let n := b.norm2
  let p := a.mul b.conj
  ⟨quot p.re n, quot p.im n⟩
def Cx.sum (l : List Cx) : Cx := l.foldl Cx.add {}
def Cx.kept (a : Cx) : Cx := ⟨Config.receiverRound a.re, Config.receiverRound a.im⟩

/-- A matrix by rows. -/
abbrev CxMat := List (List Cx)

def CxMat.at_ (m : CxMat) (i j : Nat) : Cx := (((m[i]?).getD [])[j]?).getD {}

/-- Solve A X = B for `n` unknowns, by elimination: each row holds a row of A, then the row of B. -/
def solveCx : Nat → CxMat → CxMat
  | n + 1, (a :: r) :: rest =>
    let r1 := r.map (·.div a)
    let next := rest.map fun q => match q with
      | b :: t => (t.zip r1).map fun p => p.1.sub (b.mul p.2)
      | [] => []
    let x := solveCx n next
    let row := ((r1.drop n).zip (List.range (r1.length - n))).map fun p =>
      p.1.sub (Cx.sum ((List.range n).map fun i => ((r1[i]?).getD {}).mul (x.at_ i p.2)))
    row :: x
  | _, _ => []

/-! ### Resource elements -/

/-- A resource element whose transmitted symbols are known: the value of each layer, and what each receive stream received. -/
structure KnownRe where
  sent : List Cx
  got : List Cx

/-- The least-squares channel of known resource elements: a row for each layer, a column for each receive stream. -/
def lsChannel (layers streams : Nat) (l : List KnownRe) : CxMat :=
  let x := fun (r : KnownRe) (i : Nat) => ((r.sent[i]?).getD {} : Cx)
  let y := fun (r : KnownRe) (j : Nat) => ((r.got[j]?).getD {} : Cx)
  let rows := (List.range layers).map fun i =>
    (List.range layers).map (fun j => Cx.sum (l.map fun r => (x r i).conj.mul (x r j)))
      ++ (List.range streams).map fun j => Cx.sum (l.map fun r => (x r i).conj.mul (y r j))
  (solveCx layers rows).map fun r => r.map Cx.kept

/-- What a channel leaves of a known resource element, by receive stream. -/
def residual (layers streams : Nat) (h : CxMat) (r : KnownRe) : List Cx :=
  (List.range streams).map fun j =>
    ((r.got[j]?).getD {}).sub (Cx.sum ((List.range layers).map fun i => ((r.sent[i]?).getD {}).mul (h.at_ i j)))

/-- The interference-plus-noise covariance from residuals: their mean outer product. -/
def covariance (streams : Nat) (l : List (List Cx)) : CxMat :=
  (List.range streams).map fun i => (List.range streams).map fun j =>
    ((Cx.sum (l.map fun r => ((r[i]?).getD {}).mul (((r[j]?).getD {}).conj))).scale (quot 1 (l.length : Rat))).kept

/-- The LMMSE equaliser of a layer on one subcarrier: the unbiased symbol and the variance of its error. -/
def lmmse (layers streams : Nat) (h r : CxMat) (y : List Cx) (layer : Nat) : Cx × Rat :=
  let rows := (List.range streams).map fun i =>
    (List.range streams).map (fun j =>
        (Cx.sum ((List.range layers).map fun l => (h.at_ l i).mul (h.at_ l j).conj)).add (r.at_ i j))
      ++ [h.at_ layer i]
  let w := solveCx streams rows
  let dot := fun (v : Nat → Cx) => Cx.sum ((List.range streams).map fun j => (w.at_ j 0).conj.mul (v j))
  let b := (dot fun j => h.at_ layer j).re
  (((dot fun j => (y[j]?).getD {}).scale (quot 1 b)).kept, Config.receiverRound (quot (1 - b) b))

/-! ### Constellations (TS 38.211 clause 5.1) -/

/-- One part of a symbol from its bits, most significant first: (1 - 2b0)(2^n - (1 - 2b1)(2^(n-1) - ...)). -/
def pamPart : List Bool → Int
  | [] => 1
  | [b] => if b then -1 else 1
  | b :: r => (if b then -1 else 1) * (2 ^ r.length - pamPart r)

/-- The bits of one part: those at even or at odd places. -/
def partBits (odd : Bool) : List Bool → List Bool
  | a :: b :: r => (if odd then b else a) :: partBits odd r
  | l => if odd then [] else l

/-- The mean square of an unscaled symbol: 2, 10, 42, 170. -/
def qamSquare (qm : Nat) : Nat := 2 * (2 ^ qm - 1) / 3

/-- The symbol of a modulation order for its bits. -/
def qamSymbol (qm : Nat) (b : List Bool) : Cx :=
  (⟨(pamPart (partBits false b) : Rat), (pamPart (partBits true b) : Rat)⟩ : Cx).scale (Config.invSqrt (qamSquare qm))

/-- Every bit string of a length. -/
def bitStrings : Nat → List (List Bool)
  | 0 => [[]]
  | n + 1 => (bitStrings n).flatMap fun l => [false :: l, true :: l]

/-- The distances of a symbol to the points whose bit `i` has a value, over the variance. -/
def distances (qm : Nat) (z : Cx) (v : Rat) (i : Nat) (b : Bool) : List Rat :=
  ((bitStrings qm).filter fun l => l[i]? == some b).map fun l => quot (z.sub (qamSymbol qm l)).norm2 v

/-- The least of a list. -/
def leastOf : List Rat → Rat
  | [] => 0
  | a :: r => r.foldl (fun x y => if y < x then y else x) a

/-- The LLR of a bit in nats, positive for bit 0 (R52): max-log, or exact log-sum. -/
def demap (exact : Bool) (qm : Nat) (z : Cx) (v : Rat) (i : Nat) : Rat :=
  let d0 := distances qm z v i false
  let d1 := distances qm z v i true
  Config.receiverRound
    (if exact then Config.logOf (d0.map Config.expNeg).sum - Config.logOf (d1.map Config.expNeg).sum else leastOf d1 - leastOf d0)

/-- A rational to the nearest integer, ties to even (R49). -/
def roundRat (x : Rat) : Int :=
  let f := x.floor
  let d := x - (f : Rat)
  if d < 1 / 2 then f else if 1 / 2 < d then f + 1 else if f % 2 = 0 then f else f + 1

/-- An LLR scaled by LLR_SCALE and narrowed to INT8 (R49, R52, R187). -/
def narrowLlr (scale x : Rat) : Int := max (-127) (min 127 (roundRat (scale * x)))

/-! ### A received slot -/

/-- What the receivers work on: the streams, the layers of every PUSCH on a PRB numbered in order, and the received symbols. -/
structure SlotGrid where
  streams : Nat
  /-- The received value of a stream at a symbol and subcarrier. -/
  at_ : Nat → Nat → Nat → Cx

/-- The received values of the streams at a resource element. -/
def SlotGrid.got (g : SlotGrid) (sym sub : Nat) : List Cx := (List.range g.streams).map fun a => g.at_ a sym sub

/-- The PUSCHs that take a PRB, with the number of the first layer of each, and the layers in all. -/
def onPrb (l : List Pusch) (prb : Nat) : List (Pusch × Nat) × Nat :=
  l.foldl (fun (a : List (Pusch × Nat) × Nat) p =>
    if p.startPrb ≤ prb ∧ prb < p.startPrb + p.numPrb then (a.1 ++ [(p, a.2)], a.2 + p.layers) else a) ([], 0)

/-- The known resource elements of a PRB, by symbol: those of each PUSCH given, joined where they meet. -/
def joinKnown (g : SlotGrid) (layers : Nat) (l : List (Nat × Nat × Nat × List Cx)) (syms : List Nat) : List KnownRe :=
  let here := l.filter fun x => syms.contains x.1
  ((here.map fun x => (x.1, x.2.1)).eraseDups).map fun re =>
    { got := g.got re.1 re.2
      sent := (List.range layers).map fun i => Cx.sum ((here.filter fun x => (x.1, x.2.1) == re).filterMap fun x =>
        if x.2.2.1 ≤ i then x.2.2.2[i - x.2.2.1]? else none) }

/-- The pilots of the PUSCHs of a PRB: symbol, subcarrier, first layer, values. -/
def pilotsOf (ps : List (Pusch × Nat)) (prb : Nat) : List (Nat × Nat × Nat × List Cx) :=
  ps.flatMap fun p => (p.1.pilots.filter fun x => x.sub / 12 == prb).map fun x =>
    (x.sym, x.sub, p.2, x.vals.map fun v => ⟨(v.1 : Rat), (v.2 : Rat)⟩)

/-- The bits of each layer's symbol at the data resource element of a number, by their places in the codeword (TS 38.211 clauses
6.3.1.2 and 6.3.1.3); none where one of them is not known. -/
def layerBits (p : Pusch) (bit : Nat → Option Bool) (re : Nat) : Option (List (List Bool)) :=
  (List.range p.layers).mapM fun l => (List.range p.qm).mapM fun i => bit ((re * p.layers + l) * p.qm + i)

/-- The symbols that a PUSCH sends on its data resource elements of a PRB, where all of its bits there are known. -/
def remodulate (p : Pusch) (bit : Nat → Option Bool) (prb : Nat) (first : Nat) : List (Nat × Nat × Nat × List Cx) :=
  ((p.dataRe.zip (List.range p.dataRe.length)).filter fun x => x.1.2 / 12 == prb).filterMap fun x =>
    (layerBits p bit x.2).map fun l => (x.1.1, x.1.2, first, l.map (qamSymbol p.qm))

/-- Estimates by symbol, interpolated linearly in time between those of the DMRS symbols and held beyond the first and the last. -/
def interpolate (l : List (Nat × CxMat)) (sym : Nat) : CxMat :=
  let before := l.filter (·.1 ≤ sym)
  let after := l.filter (sym ≤ ·.1)
  match before.getLast?, after.head? with
  | some (a, x), some (b, y) =>
    if a = b then x
    else
      let t : Rat := ((sym - a : Nat) : Rat) / ((b - a : Nat) : Rat)
      (x.zip y).map fun r => (r.1.zip r.2).map fun c => ((c.1.scale (1 - t)).add (c.2.scale t)).kept
  | some (_, x), none => x
  | none, some (_, y) => y
  | none, none => []

/-- What a receiver knows of one PRB: the layers, the channel and the covariance at a symbol. -/
structure PrbState where
  layers : Nat
  chan : Nat → CxMat
  cov : Nat → CxMat

/-- Steps 1 to 3 of the classical receiver on one PRB (R187). -/
def classicalPrb (g : SlotGrid) (l : List Pusch) (prb : Nat) : PrbState :=
  let (ps, n) := onPrb l prb
  let known := pilotsOf ps prb
  let syms := (List.range 14).filter fun s => known.any (·.1 == s)
  let est := syms.map fun s => (s, lsChannel n g.streams (joinKnown g n known [s]))
  let res := est.flatMap fun e => (joinKnown g n known [e.1]).map (residual n g.streams e.2)
  { layers := n, chan := interpolate est, cov := fun _ => covariance g.streams res }

/-- Steps 1 and 2 of the bound receiver on one PRB (R188): every resource element known, in windows of two symbols. -/
def boundPrb (g : SlotGrid) (l : List Pusch) (bit : Pusch → Nat → Option Bool) (prb : Nat) : PrbState :=
  let (ps, n) := onPrb l prb
  let known := pilotsOf ps prb ++ ps.flatMap fun p => remodulate p.1 (bit p.1) prb p.2
  let window := fun (s : Nat) => joinKnown g n known [s / 2 * 2, s / 2 * 2 + 1]
  let chan := fun s => lsChannel n g.streams (window s)
  { layers := n, chan := chan, cov := fun s => covariance g.streams ((window s).map (residual n g.streams (chan s))) }

/-- The LLRs of a PUSCH by a receiver, in the order of its coded bits: equalised on each subcarrier, demapped, scaled and narrowed
(R187 steps 4 to 6, R188 step 3). -/
def receive (exact : Bool) (scale : Rat) (g : SlotGrid) (l : List Pusch) (prb : Nat → PrbState) (p : Pusch) : List Int :=
  (List.range p.g).map fun b =>
    let at_ := match p.ulAt with | some a => (a[b]?).getD b | none => b
    let sym := at_ / p.qm
    match p.dataRe[sym / p.layers]? with
    | none => 0
    | some (t, k) =>
      let st := prb (k / 12)
      let first := match (onPrb l (k / 12)).1.find? (·.1 == p) with | some x => x.2 | none => 0
      let (z, v) := lmmse st.layers g.streams (st.chan t) (st.cov t) (g.got t k) (first + sym % p.layers)
      narrowLlr scale (demap exact p.qm z v (at_ % p.qm))

end Sys2Proof.Machine
end

