-- ==== Sys2Proof/Machine/Yardstick.lean ====
section
/-!
DEFINITION. Labels (R177, R215) and the yardstick (R186 to R190): samples, their measurement by a built-in receiver, and the
reading of what is accumulated.
-/

namespace Sys2Proof.Machine
open Sys2Proof

/-! ### The yardstick's fields (R186) -/

/-- The yardstick fields of a cell record (R186). -/
def Cell.yardMode (c : Cell) : Nat := fld c.rcd 0x23 1
def Cell.yardSample (c : Cell) : Nat := fld c.rcd 0x24 2
def Cell.yardPhase (c : Cell) : Nat := fld c.rcd 0x26 2
def Cell.yardExpiry (c : Cell) : Nat := fld c.rcd 0x28 2

/-- A slot-reception is sampled by its cell's yardstick (R186). -/
def Cell.yardTakes (c : Cell) (sfnSlot : Nat) : Bool :=
  c.yardMode != 0 && (c.batchOf sfnSlot + c.yardPhase) % c.yardSample == 0

/-- A sample may be measured: its slot has posted, and the labels of every block that passed are built. -/
def YardSample.ready (x : YardSample) : Bool := x.posted && x.tbs.all fun t => !t.passed || t.labels.isSome

/-- Trigger the measurement of a cell's oldest sample, once it may be measured. -/
def triggerYard (s : State) (cell : Nat) : State :=
  match (tget s.yard cell {}).samples with
  | x :: _ => if !x.ready || s.bePending (81 + cell) then s else triggerBe s .yardstick (81 + cell) cell x.sfnSlot
  | [] => s

/-! ### Labels (R177, R215) -/

/-- Change the transport block of a slot in the records of every model and in the yardstick samples that hold it. -/
def State.mapLabels (s : State) (cell sfnSlot : Nat) (f : List LabelTb → List LabelTb) : State :=
  { s with
    models := s.models.map fun m => m.map fun m => { m with
      ring := m.ring.map fun r => if r.cell == cell && r.sfnSlot == sfnSlot then { r with tbs := f r.tbs } else r }
    yard := tmap s.yard fun c y => if c = cell then
      { y with samples := y.samples.map fun x => if x.sfnSlot == sfnSlot then { x with tbs := f x.tbs } else x } else y }

/-- A downlink block waits for the encoders, which serve it before any label (R215). -/
def downlinkWaits (s : State) : Bool :=
  s.coding.dl.any fun p => !p.2.fault && !p.2.posted && (dlEntries p.2).any fun i => (tget? p.2.coded i).isNone

/-- LABEL_ENCODE (R177, R215): a passed transport block encoded again and scrambled as its PUSCH was, as best-effort work; the labels
join the records and samples of its slot. -/
def labelEncode (tag : BitVec 16) (pdu : Nat) (s : State) : State :=
  match s.rx? tag with
  | none => s
  | some r => match r.pusch[pdu]? with
    | none => s
    | some x =>
      if x.tbPass ≠ some true ∨ downlinkWaits s then s
      else
        let p := x.pdu
        let b := encodeTb (unpackBits p.tbs x.payload) p.bg p.qm p.layers p.rv.val p.g p.tbsLbrm p.cbgTx
        let l := (b.zip (scrAt p.cInit.toNat p.ulAt p.g)).map fun y => y.1 != y.2
        let s1 := (s.setPusch tag pdu fun x => { x with labels := some l }).mapLabels r.cell r.sfnSlot fun t =>
          listMod t pdu fun y => { y with labels := some l }
        let s2 := (List.range 16).foldl triggerAdapt s1
        triggerYard s2 r.cell

def execLabelEncode (tag : BitVec 16) (pdu : Nat) (s : State) : Host.Outcome State Fault Refusal :=
  .next (labelEncode tag pdu s)

/-! ### Measurement (R187 to R189) -/

/-- The received symbols of a sample: the CI16 copy by symbol, stream and subcarrier. -/
def YardSample.grid (x : YardSample) : SlotGrid :=
  let c : Cell := { rcd := x.cellRcd }
  { streams := c.nRx
    at_ := fun a t k =>
      let o := 4 * ((t * c.nRx + a) * 12 * c.nPrb + k)
      ⟨(sx 16 (fld x.data o 2) : Rat), (sx 16 (fld x.data (o + 2) 2) : Rat)⟩ }

/-- The label of a place in the codeword of a PUSCH of a sample. -/
def YardSample.bitAt (x : YardSample) (p : Pusch) (place : Nat) : Option Bool :=
  (x.tbs.find? (·.pdu == p)).bind fun t => t.labels.bind fun l => match p.ulAt with
    | none => l[place]?
    | some a => (a.findIdx? (· == place)).bind fun i => l[i]?

/-- A PRB carries a layer of a block that failed: it is excluded in BOUND mode (R188). -/
def YardSample.excluded (x : YardSample) (prb : Nat) : Bool :=
  (onPrb (x.tbs.map (·.pdu)) prb).1.any fun p => x.tbs.any fun t => t.pdu == p.1 && t.labels.isNone

/-- LLR_SCALE as a rational: an FP32 value. -/
def scaleRat (b : Nat) : Rat := match f32 b with
  | .fin _ m e => if 0 ≤ e then (m : Rat) * (2 ^ e.toNat : Nat) else (m : Rat) / (2 ^ (-e).toNat : Nat)
  | _ => 0

/-- The LLRs of the other receiver for a block of a sample, by the mode: 1 BOUND, 2 REFERENCE. -/
def YardSample.otherLlrs (x : YardSample) (mode scale : Nat) (t : LabelTb) : List Int :=
  let l := x.tbs.map (·.pdu)
  if mode = 1 then receive true (scaleRat scale) x.grid l (boundPrb x.grid l x.bitAt) t.pdu
  else receive false (scaleRat scale) x.grid l (classicalPrb x.grid l) t.pdu

/-- The PRB that carries a coded bit of a PUSCH. -/
def prbOf (p : Pusch) (b : Nat) : Nat :=
  let at_ := match p.ulAt with | some a => (a[b]?).getD b | none => b
  match p.dataRe[at_ / p.qm / p.layers]? with | some re => re.2 / 12 | none => 0

/-- The measured bits of a block: its labels with both receivers' LLRs, without those on excluded PRBs in BOUND mode. -/
def YardSample.measured (x : YardSample) (mode scale : Nat) (t : LabelTb) : List (Bool × Int × Int) :=
  match t.labels with
  | none => []
  | some l =>
    let other := x.otherLlrs mode scale t
    (List.range l.length).filterMap fun i =>
      if mode = 1 && x.excluded (prbOf t.pdu i) then none
      else some ((l[i]?).getD false, (t.llrs[i]?).getD 0, (other[i]?).getD 0)

/-- I clamped to the range from 0 to 1. -/
def clampI (i : BitVec 32) : BitVec 32 :=
  if fcmpIeee (f32 i.toNat) (f32 0) < 0 then 0
  else if fcmpIeee (f32 0x3F800000) (f32 i.toNat) < 0 then 0x3F800000
  else i

/-- The row of a modulation order (R190). -/
def rowOf (qm : Nat) : Option (Fin 4) :=
  match qm with
  | 2 => some 0 | 4 => some 1 | 6 => some 2 | 8 => some 3 | _ => none

/-- I = 1 - (1 ÷ N) × Σ log2(1 + exp(-s × L ÷ LLR_SCALE)) over N bits with their INT8 LLRs, in FP32 in their order (R189). -/
def mutualInfo (scale : Nat) (l : List (Bool × Int)) : BitVec 32 :=
  let b := l.map fun x => (x.1, BitVec.ofNat 32 (to32 (fofInt x.2)))
  BitVec.ofNat 32 (sub32 0x3F800000 (meanLoss scale b))

/-- Accumulate one transport block by its measured bits (R189); one without any is not measured. -/
def addTb (scale : Nat) (y : Yard) (qm : Nat) (l : List (Bool × Int × Int)) : Yard :=
  match rowOf qm with
  | none => y
  | some i =>
    if l.isEmpty then y
    else
      let f := fun (sum : BitVec 32) (b : List (Bool × Int)) => BitVec.ofNat 32 (add32 sum.toNat (clampI (mutualInfo scale b)).toNat)
      { y with
        tb := y.tb + 1
        rows := vmod y.rows i fun r =>
          { count := r.count + 1, learned := f r.learned (l.map fun x => (x.1, x.2.1)), other := f r.other (l.map fun x => (x.1, x.2.2)) } }

/-- A quire is a cell's yardstick quire that has ended and is not taken up. -/
def yardDone (s : State) (cell : Nat) (tag : BitVec 16) : Bool :=
  match tget? s.quires tag.toNat with
  | some q => q.kind == .yardstick && q.owner == cell && q.state == .ended && !q.used
  | none => false

/-- YARDSTICK_MEASURE (R187 to R189): the quire that measured a cell's oldest sample has ended; every block that passed is
accumulated, in block order. -/
def yardstickMeasure (cell : Fin 64) (tag : BitVec 16) (s : State) : State :=
  match yardDone s cell.val tag, s.cell? cell.val with
  | true, some c =>
    let y := tget s.yard cell.val {}
    match y.samples with
    | [] => s
    | x :: rest =>
      let scale := match (s.modelSlotOf c.modelId).bind s.model? with | some m => m.llrScale | none => 0
      let y1 := { x.tbs.foldl (fun y t => addTb scale y t.pdu.qm (x.measured c.yardMode scale t)) y with samples := rest }
      let s1 := s.setQuire tag.toNat fun q => { q with used := true }
      triggerYard { s1 with yard := tset s1.yard cell.val y1 } cell.val
  | _, _ => s

def execYardstickMeasure (cell : Fin 64) (tag : BitVec 16) (s : State) : Host.Outcome State Fault Refusal :=
  .next (yardstickMeasure cell tag s)

/-- YARDSTICK_EXPIRY (R186): at its age the oldest sample is dropped and counted; what its quire still brings is not taken
up. -/
def yardstickExpiry (cell : Fin 64) (s : State) : State :=
  match s.cell? cell.val, (tget s.yard cell.val {}).samples with
  | some c, x :: rest =>
    let s1 := s.advanceTo (x.at_ + usTicks (1000 * c.yardExpiry))
    let s2 := { s1 with
      yard := tmod s1.yard cell.val {} fun y => { y with samples := rest, dropped := y.dropped + 1 }
      quires := tmap s1.quires fun _ q =>
        if q.kind = .yardstick ∧ q.owner = cell.val then { q with used := true } else q }
    triggerYard s2 cell.val
  | _, _ => s

def execYardstickExpiry (cell : Fin 64) (s : State) : Host.Outcome State Fault Refusal :=
  .next (yardstickExpiry cell s)

/-- The FP32 NaN of an empty row. -/
def nan32 : Nat := fp32.qnan

/-- The gap or gain of a row (R189); where the mode is OFF neither is defined and the field is a free value. -/
def yardGap (mode free : Nat) (learned other : BitVec 32) : Nat :=
  match mode with
  | 1 => sub32 other.toNat learned.toNat
  | 2 => sub32 learned.toNat other.toNat
  | _ => free % 2 ^ 32

/-- The 32-byte row of a modulation order (R190). -/
def yardRow (mode free qm : Nat) (r : YardRow) : Bytes :=
  if r.count = 0 then toLE 4 0 ++ (List.replicate 5 nan32).flatMap (toLE 4) ++ zeros 8
  else
    let n := to32 (fofInt r.count)
    let a := BitVec.ofNat 32 (div32 r.learned.toNat n)
    let b := BitVec.ofNat 32 (div32 r.other.toNat n)
    let x := Config.sinrDb qm a
    let z := Config.sinrDb qm b
    toLE 4 r.count ++ toLE 4 a.toNat ++ toLE 4 b.toNat ++ toLE 4 x.toNat ++ toLE 4 z.toNat
      ++ toLE 4 (yardGap mode free x z) ++ zeros 8

/-- Head and rows of a cell (R190). -/
def yardBytes (mode free : Nat) (y : Yard) : Bytes :=
  toLE 1 mode ++ zeros 3 ++ toLE 4 y.taken.toNat ++ toLE 4 y.dropped.toNat ++ toLE 4 y.tb.toNat
    ++ (y.rows.toList.zip [2, 4, 6, 8]).flatMap fun p => yardRow mode free p.2 p.1

/-- YARDSTICK_READ (R190): cell mask and CLEAR. -/
def doYardstickRead (c : Cmd) (s : State) : CmdOut :=
  let mask := par8 c.params 0
  let cells := (List.range 64).filter (bit mask)
  if !cells.all (fun i => (s.cell? i).isSome) then .fail s 0x0007
  else
    let (d, s1) := s.draw
    let out := cells.flatMap fun i =>
      yardBytes (match s.cell? i with | some x => x.yardMode | none => 0) (Config.fresh d) (tget s.yard i {})
    let s2 := if par8 c.params 1 = 1 then
        { s1 with yard := cells.foldl (fun t i => tmod t i {} fun y =>
            { y with taken := 0, dropped := 0, tb := 0, rows := Vector.replicate 4 {} }) s1.yard }
      else s1
    .answer s2 out

def execYardstickRead (c : Cmd) (s : State) : Host.Outcome State Fault Refusal :=
  .next (shortCmd 0x27 false (exactLen 16) doYardstickRead c s)

end Sys2Proof.Machine
end

