-- ==== Sys2Proof/Machine/Release.lean ====
section
/-!
DEFINITION. The release of a slot-reception (R17, R18, R225, R302): its quire, its context in the coding subsystem, and the
records that adaptation and the yardstick take of it (R176, R186).
-/

namespace Sys2Proof.Machine
open Sys2Proof

/-! ### The context of a slot-reception -/

/-- The PUSCH PDUs that are served keep their order; a UCI part names its PUSCH by its place among them, or a PUCCH PDU by the
places after them. Parts of a PUSCH that is skipped are skipped with it (R381). -/
def uciPlace (r : UlSlot) (u : UciPart) : Option UciPart :=
  let served := placesOf 0 puschServed r.pusch
  if u.pdu < r.pusch.length then (served.findIdx? (· == u.pdu)).map fun i => { u with pdu := i }
  else some { u with pdu := served.length + (u.pdu - r.pusch.length) }

/-- The 8-byte head of an input image (Table 12-5). -/
def inputHead (cell kind sfnSlot : Nat) : Bytes := toLE 2 cell ++ toLE 1 kind ++ [0] ++ toLE 4 sfnSlot

/-- The part of a slot-reception's input image that is known at its close (Table 12-5). -/
def ulImage (u : UlCtx) : Bytes :=
  inputHead u.cell 0 u.sfnSlot ++ digest256 u.rcd.raw ++ u.syms.flatMap (·.digest)

/-- The context that a released slot-reception has. -/
def rxOf (s : State) (c : Cell) (u : UlCtx) (tag : BitVec 16) (close draw : Nat) : RxCtx :=
  { tag := tag, cell := u.cell, sfnSlot := u.sfnSlot
    pusch := (u.rcd.pusch.filter puschServed).map fun p => { pdu := p }
    uci := (u.rcd.uci.filterMap (uciPlace u.rcd)).map fun p => { part := p }
    pucch := u.rcd.pucch
    beta := s.offsetTable c.ldpcTable, maxIter := c.maxIter, dtxThr := c.dtxThr, close := close
    inputImage := ulImage u, cellRcd := c.rcd, forced := u.forced, missing := u.missing, draw := draw }

/-! ### Records of adaptation and the yardstick -/

/-- The bytes of the cell's BFP symbols, by symbol, stream and PRB. -/
def symbolBytes (u : UlCtx) : Bytes := u.syms.flatMap fun x => x.got.flatMap (·.2)

/-- The cell's CI16 symbols as the expansion unit writes them (R53, R186). -/
def symbolCi16 (c : Cell) (u : UlCtx) : Bytes :=
  (List.range 14).flatMap fun t => (List.range c.nRx).flatMap fun a => (List.range c.nPrb).flatMap fun p =>
    match (u.syms.find? fun x => x.symbol == t && x.stream == a).bind fun x => tget? x.got p with
    | some b => (ci16Of (bfpExpand c.upW b).1).flatMap (toLE 4)
    | none => zeros 48

/-- Add a record to a model's ring: a full ring gives up its oldest, unless the running job holds it, and then the new one is
not kept (R176). -/
def Model.addRecord (m : Model) (r : SampleRec) : Model :=
  let m1 := { m with samples := m.samples + 1 }
  if m.ring.length < m.ringSize then { m1 with ring := m.ring ++ [r] }
  else if (match m.ring.head? with | some x => m.job.contains x.count | none => false) then m1
  else { m1 with ring := m.ring.drop 1 ++ [r] }

/-- The slot batch is the newest of the model; where the slot is sampled, its record is made, to be kept or discarded when its
results are posted (R176). -/
def sampleModel (s : State) (i : Nat) (c : Cell) (u : UlCtx) : State :=
  match s.model? i with
  | none => s
  | some m =>
    let n := absBatch c m.clock u.sfnSlot
    let m1 := { m with clock := max m.clock n }
    let take := (c.batchOf u.sfnSlot + u.cell) % m.sample == 0
    if !take then s.setModel i fun _ => m1
    else
      let r : SampleRec := { count := m.samples, cell := u.cell, sfnSlot := u.sfnSlot, batch := n, raw := u.rcd.raw
                             data := symbolBytes u }
      s.setModel i fun _ => m1.addRecord r

/-- A yardstick sample (R186). -/
def sampleYard (s : State) (c : Cell) (u : UlCtx) : State :=
  if c.yardTakes u.sfnSlot then
    { s with yard := tmod s.yard u.cell {} fun y =>
        { y with
          taken := y.taken + 1
          samples := y.samples ++ [{ sfnSlot := u.sfnSlot, at_ := s.ticks.toNat, data := symbolCi16 c u, cellRcd := c.rcd
                                     tbs := (u.rcd.pusch.filter puschServed).map fun p => { pdu := p } }] } }
  else s

/-! ### QUIRE_RELEASE -/

/-- The mark that predicted a close: one of the 2 ms before it, for a close of the cell within half a slot of this one (R226; DEDUCED,
log entry 52). -/
def predicts (c : Cell) (cell close : Nat) (e : Expect) : Bool :=
  e.cell == cell && decide (close ≤ e.marked + usTicks 2000) && decide (2 * close ≤ 2 * e.close + c.slotTicks)
    && decide (2 * e.close ≤ 2 * close + c.slotTicks)

/-- A close that no mark predicted is counted; the expected closes of the cell up to this one are past (R226). Where no eviction
window has opened for it, the eviction starts now (R237, Table 2-5). `close` is on the cluster counter. -/
def matchClose (s : State) (cell close : Nat) (c : Cell) : State :=
  let l := (s.cl c.cluster).expects
  let s1 := if l.any (predicts c cell close) then s else s.setCell cell fun c => { c with markMissing := c.markMissing + 1 }
  let s2 := s1.setCl c.cluster fun k =>
    { k with expects := k.expects.filter fun e => !(e.cell == cell && decide (2 * e.close ≤ 2 * close + c.slotTicks)) }
  if l.any fun e => predicts c cell close e && e.opened then s2 else startEviction s2 c.cluster cell

/-- QUIRE_RELEASE (R17, R36, R225, R302): once the slot has closed and every stream-symbol is in the slot store. A cluster
without engines takes no slot-reception. -/
def quireRelease (cell sfnSlot age : Nat) (s : State) : State :=
  let key := slotKey cell sfnSlot
  match s.cell? cell, tget? s.fe.ul key with
  | some c, some u =>
    match u.closeTick with
    | none => s
    | some t =>
      if u.released || !u.syms.all (·.stored) then s
      else
        let s0 := s.advanceTo (t + age)
        let s1 := matchClose s0 cell ((s0.cl c.cluster).counter.toNat - (s0.ticks.toNat - t)) c
        if (s1.inService c.cluster.val).isEmpty then
          let s2 := if u.rcd.pusch.isEmpty && u.rcd.uci.isEmpty then s1
            else s1.slotError cell (sfnOf sfnSlot) (slotOf sfnSlot) 3
          dropUl (setUl s2 key fun u => { u with released := true, syms := [] }) key
        else
          let counter := (s1.cl c.cluster).counter.toNat
          let due := counter - (s1.ticks.toNat - t) + 8750
          let (tag, s2) := newQuire s1 c.cluster .slotReception (cell + 1) cell sfnSlot (some due)
          let (d, s3) := s2.draw
          let r := rxOf s3 c u tag t d
          let s4 := setUl (s3.setCoding fun x => { x with rx := tset x.rx tag.toNat r }) key fun u =>
            { u with released := true }
          let s5 := s4.setQuire tag.toNat fun q => { q with flags := { q.flags with missing := u.missing } }
          let s6 := match s5.modelSlotOf c.modelId with
            | some i => sampleModel s5 i c u
            | none => s5
          sampleYard s6 c u
  | _, _ => s

def execQuireRelease (cell : Fin 64) (sfnSlot : Nat) (age : Fin 101) (s : State) : Host.Outcome State Fault Refusal :=
  .next (quireRelease cell.val sfnSlot age.val s)

end Sys2Proof.Machine
end

