-- ==== Sys2Proof/Machine/Colophons.lean ====
section
/-!
DEFINITION. Colophons (R278 to R285): the setup block, the record and its digest, batches, seals and the batch store, with
the commands COLOPHON_STORE, COLOPHON_SEAL, COLOPHON_COLLECT and SETUP_READ.
-/

namespace Sys2Proof.Machine
open Sys2Proof

/-! ### Setup block and record (R280, R282, R283) -/

/-- The firmware measurement (R387): SHAKE256-256 over bytes 0x000 to 0xADF of the running manifest. -/
def State.fwMeasure (s : State) : Bytes := digest256 (slice s.sec.manifest 0 0xAE0)

/-- The setup block (Table 12-6). `coding` is false for a PRACH occasion. -/
def setupBlock (s : State) (q : Quire) (c : Cell) (beta : Bytes) (coding : Bool) : Bytes :=
  slice q.imageDigest 0 32 ++ slice q.weightsDigest 0 32 ++ s.fwMeasure ++ slice q.spine 0 32
    ++ (if coding then digest256 beta else zeros 32) ++ slice c.rcd 0x18 4 ++ toLE 1 c.ldpcTable ++ toLE 1 c.maxIter
    ++ zeros 10

/-- What a colophon is formed from, beside its quire: kind, cell and slot, flags, input image, setup block, result bytes. -/
structure ColoIn where
  kind : Nat
  cell : Nat
  sfnSlot : Nat
  flags : Nat
  image : Bytes
  setup : Bytes
  result : Bytes

/-- The 96 bound bytes of a record: 0x30 to 0x8F (Table 12-7). -/
def boundBytes (s : State) (q : Quire) (x : ColoIn) : Bytes :=
  digest256 x.image ++ digest256 x.setup ++ toLE 1 x.kind ++ toLE 1 (if q.pressed then 1 else 0) ++ toLE 2 x.flags
    ++ toLE 2 x.cell ++ toLE 1 s.chip ++ toLE 1 s.poolSize ++ toLE 4 x.sfnSlot
    ++ toLE 1 (if x.kind = 2 then 0 else q.engines) ++ zeros 3 ++ slice q.seed 0 8 ++ toLE 8 q.modelId

/-- C (R283): over the bound bytes and the result digest. -/
def coloDigest (s : State) (q : Quire) (x : ColoIn) : Bytes := digest256 (boundBytes s q x ++ digest256 x.result)

/-- The record (Table 12-7) in a place of a batch, or unbatched. -/
def coloRecord (s : State) (q : Quire) (x : ColoIn) (place : Option (Nat × Nat)) : Bytes :=
  let h := toLE 8 (2 ^ 56 + (match place with | some p => p.2 | none => 0xFFFF) * 2 ^ 32)
  h ++ cpl h ++ coloDigest s q x ++ boundBytes s q x
    ++ (match place with | some p => toLE 8 p.1 | none => List.replicate 8 0xFF) ++ toLE 4 q.version ++ zeros 4

/-- The bits of the record's FLAGS (Table 12-7). -/
def coloFlags (late missing fault limit fill : Bool) (f : QFlags) : Nat :=
  (if late then 1 else 0) + (if missing then 2 else 0) + (if f.jrOmitted then 4 else 0) + (if f.jrBlocked then 8 else 0)
    + (if fault then 16 else 0) + (if limit then 32 else 0) + (if f.arrivalOrder then 64 else 0) + if fill then 128 else 0

/-! ### Batches (R284, R285) -/

/-- The store has no room for another batch: none is configured, or those it holds and those being signed fill it. -/
def Colophon.full (c : Colophon) : Bool :=
  match c.store with
  | none => true
  | some (_, cap) => decide (cap ≤ c.stored.length + c.sealing.length)

/-- Seal the open batch: it goes to be signed, and the next number opens. -/
def Colophon.seal (c : Colophon) : Colophon :=
  { c with openNumber := c.openNumber + 1, openRecs := [], sealing := c.sealing ++ [⟨c.openNumber, c.openRecs⟩] }

/-- Where the next record of the open batch stands; none where it is posted unbatched. -/
def Colophon.place (c : Colophon) : Option (Nat × Nat) :=
  if c.full then none else some (c.openNumber, c.openRecs.length)

/-- Append a record to the open batch and seal it at 1,024; an unbatched one is counted. -/
def Colophon.append (c : Colophon) (r : Bytes) : Colophon :=
  if c.full then { c with unsealed := c.unsealed + 1 }
  else
    let d := { c with openRecs := c.openRecs ++ [r] }
    if d.openRecs.length = 1024 then d.seal else d

/-- Note a setup block used (R280). -/
def Colophon.note (c : Colophon) (b : Bytes) : Colophon :=
  if c.setups.contains b then c else { c with setups := c.setups ++ [b] }

/-- Finalise a colophon (R283): its record, and the state with the record in its batch. -/
def finalise (s : State) (q : Quire) (x : ColoIn) : Bytes × State :=
  let r := coloRecord s q x s.colo.place
  (r, s.setColo fun c => (c.note x.setup).append r)

/-! ### Seals (R284) -/

/-- One level of the Merkle tree. -/
def merkleUp : List Bytes → List Bytes
  | a :: b :: r => digest256 ([1] ++ a ++ b) :: merkleUp r
  | l => l

/-- The leaves of a batch: 1,024 of them, those past its records 32 zero bytes. -/
def batchLeaves (l : List Bytes) : List Bytes :=
  l.map (fun r => digest256 ([0] ++ r)) ++ List.replicate (1024 - l.length) (zeros 32)

/-- Ten levels up. -/
def merkleRoot (l : List Bytes) : Bytes := ((Nat.repeat merkleUp 10 l).head?).getD []

/-- The 128-byte seal block (Table 12-8). -/
def sealBlock (b : Batch) : Bytes :=
  let h := toLE 8 (2 ^ 56 + b.records.length * 2 ^ 32)
  h ++ cpl h ++ toLE 8 b.number ++ zeros 8 ++ slice deviceKey 0 32 ++ merkleRoot (batchLeaves b.records)
    ++ zeros 32

/-- A sealed batch, 36,224 bytes (Table 12-8). -/
def sealedBatch (b : Batch) : Bytes :=
  let h := sealBlock b
  h ++ slice (identitySign "UZY1632 colophon".toList h) 0 3309 ++ zeros 19 ++ (batchLeaves b.records).flatten

/-- SEAL_COMPLETE (R284): the oldest batch being signed enters the store, at its number's place of the stride; the host is
told. -/
def sealComplete (s : State) : State :=
  match s.colo.sealing, s.colo.store with
  | b :: rest, some (base, cap) =>
    let x := sealedBatch b
    let s1 := (s.wr (ddrAt + base + b.number % cap * 36864) x).setColo fun c =>
      { c with sealing := rest, stored := c.stored ++ [(b.number, x)] }
    s1.event 0x16 0 (toLE 8 b.number ++ toLE 4 (if s1.colo.full then 1 else 0))
  | _, _ => s

def execSealComplete (s : State) : Host.Outcome State Fault Refusal := .next (sealComplete s)

/-! ### Verification (R286) -/

/-- What verify_colophon answers. -/
inductive ColoCheck where
  | ok | badHeader | badDigest | badPath | badKey | badSeal
deriving DecidableEq, Repr

/-- From a leaf up its Merkle path, on the side that each bit of its index names. -/
def merkleClimb (idx : Nat) : Nat → List Bytes → Bytes → Bytes
  | _, [], node => node
  | level, p :: r, node => merkleClimb idx (level + 1) r (digest256 ([1] ++ if bit idx level then p ++ node else node ++ p))

/-- verify_colophon: a record, its results as posted in canonical form, its path of ten nodes, its sealed batch, and the device
key that the certificate chain vouches for. -/
def verifyColophon (rcd results : Bytes) (path : List Bytes) (batch key : Bytes) : ColoCheck :=
  if slice rcd 8 8 ≠ cpl (slice rcd 0 8) then .badHeader
  else if digest256 (slice rcd 0x30 0x60 ++ digest256 results) ≠ slice rcd 0x10 32 then .badDigest
  else if merkleClimb (fld rcd 4 2) 0 (path.take 10) (digest256 ([0] ++ rcd)) ≠ slice batch 0x40 32
      ∨ slice rcd 0x90 8 ≠ slice batch 0x10 8 then .badPath
  else if digest256 key ≠ slice batch 0x20 32 then .badKey
  else if !Config.mldsaVerify key (ascii "UZY1632 colophon".toList) (slice batch 0 0x80) (slice batch 0x80 3309) then .badSeal
  else .ok

/-! ### Commands -/

/-- The fields of COLOPHON_STORE: base and capacity, 8 bytes each (DESIGN CHOICE, log entry 8). -/
def storeFields (ddr : Nat) : List FSpec := [⟨1, 0, 8, 1, multC 4096 0 ddr⟩, ⟨2, 8, 8, 1, numC 1 4096⟩]

/-- COLOPHON_STORE (R285, R400). -/
def doColophonStore (c : Cmd) (s : State) : CmdOut :=
  if !cplAt c.params 0 16 then .fail s 0x0005
  else if !s.colo.stored.isEmpty then .fail s 0x0009
  else
    let (r, rep) := checkFields 0 (storeFields s.ddrBytes) (slice c.params 0 16)
    if !s.isProtected ⟨par8 r 0, par8 r 1 * 36864⟩ then .fail s 0x0009
    else { st := s.setColo fun x => { x with store := some (par8 r 0, par8 r 1) }, rep := rep }

def execColophonStore (c : Cmd) (s : State) : Host.Outcome State Fault Refusal :=
  .next (shortCmd 0x38 false (exactLen 32) doColophonStore c s)

/-- COLOPHON_SEAL (R284). -/
def doColophonSeal (_c : Cmd) (s : State) : CmdOut :=
  if s.colo.openRecs.isEmpty then .fail s 0x0009
  else if s.colo.full then .fail s 0x0008
  else { st := s.setColo Colophon.seal, body := join8 [s.colo.openNumber] }

def execColophonSeal (c : Cmd) (s : State) : Host.Outcome State Fault Refusal :=
  .next (shortCmd 0x39 false (exactLen 0) doColophonSeal c s)

/-- COLOPHON_COLLECT (R284, R285): the oldest sealed batches of the store, which leave it. -/
def doColophonCollect (c : Cmd) (_snap : Bytes) (s : State) : CmdOut :=
  let n := par8 c.params 0
  { st := s.setColo fun x => { x with stored := x.stored.drop n }
    outb := (s.colo.stored.take n).flatMap (·.2) }

def execColophonCollect (c : Cmd) (s : State) : Host.Outcome State Fault Refusal :=
  .next (longCmd 0x3A false (exactLen 8) (fun _ => []) doColophonCollect c s)

/-- SETUP_READ (R280): the block of a setup digest, or all for zero. -/
def doSetupRead (c : Cmd) (s : State) : CmdOut :=
  let d := slice c.params 0 32
  if d = zeros 32 then .answer s s.colo.setups.flatten
  else match s.colo.setups.find? fun b => digest256 b == d with
    | some b => .answer s b
    | none => .fail s 0x0007

def execSetupRead (c : Cmd) (s : State) : Host.Outcome State Fault Refusal :=
  .next (shortCmd 0x3B false (exactLen 32) doSetupRead c s)

end Sys2Proof.Machine
end

