-- ==== Sys2Proof/Machine/Dma.lean ====
section
/-!
DEFINITION. The DMA channels (R347 to R358, R428): DMA_CONFIG, device windows, doorbells, descriptors and their checks, what
they move, translation and page faults, completion, and the errors that end them.
-/

namespace Sys2Proof.Machine
open Sys2Proof

/-! ### DMA_CONFIG (R344, R348, R356) -/

/-- The fields of DMA_CONFIG, 8 bytes each after the channel number: ring base, entries, completion ring base, vector, class (1
LC), PASID, PASID enable, ATS enable, PRI enable, PAGE_TIMEOUT in ms (DESIGN CHOICE, log entry 8). -/
def dmaFields (ch : Nat) : List FSpec :=
  [⟨2, 8, 8, 1, multC 64 0 (2 ^ 64 - 64)⟩, ⟨3, 16, 8, 1, pow2C 4 12⟩, ⟨4, 24, 8, 1, multC 16 0 (2 ^ 64 - 16)⟩,
   ⟨5, 32, 8, 1, enumC (fun v => decide (1 ≤ v ∧ v ≤ 63)) (ch - 5)⟩, ⟨6, 40, 8, 1, enumC (· ≤ 1) 0⟩,
   ⟨7, 48, 8, 1, maskC (2 ^ 20 - 1) anyC⟩, ⟨8, 56, 8, 1, enumC (· ≤ 1) 0⟩, ⟨9, 64, 8, 1, enumC (· ≤ 1) 0⟩,
   ⟨10, 72, 8, 1, enumC (· ≤ 1) 0⟩, ⟨11, 80, 8, 1, numC 1 1000⟩]

def State.chan (s : State) (ch : Fin 16) : DmaChan := s.dma[ch]
def State.setChan (s : State) (ch : Fin 16) (f : DmaChan → DmaChan) : State := { s with dma := vmod s.dma ch f }

/-- DMA_CONFIG: the record of one host channel; a record of another channel is dropped. A channel with a descriptor in
progress is not configured anew. -/
def doDmaConfig (c : Cmd) (s : State) : CmdOut :=
  if !cplAt c.params 0 88 then .fail s 0x0005
  else
    let n := par8 c.params 0
    if h : 8 ≤ n ∧ n < 16 then
      let ch : Fin 16 := ⟨n, h.2⟩
      if (s.chan ch).run.isSome then .fail s 0x0009
      else
        let (r, rep) := checkFields 0 (dmaFields n) (slice c.params 0 88)
        let x : DmaChan :=
          { configured := true, ringBase := par8 r 1, size := par8 r 2, cplBase := par8 r 3, vector := some (par8 r 4)
            lc := par8 r 5 == 1, pasid := BitVec.ofNat 20 (par8 r 6), pasidEn := par8 r 7 == 1, atsEn := par8 r 8 == 1
            priEn := par8 r 9 == 1, pageTimeout := par8 r 10 }
        { st := s.setChan ch fun _ => x, rep := rep }
    else { st := s, rep := [{ kind := 4, field := 1, written := low8 n, applied := 0 }] }

def execDmaConfig (c : Cmd) (s : State) : Host.Outcome State Fault Refusal :=
  .next (shortCmd 0x17 false (exactLen 176) doDmaConfig c s)

/-! ### Device windows (R353, R400) -/

/-- The memory of a code: DDR5, the quire-data space of K0 to K3, the decoder-output bank, Binder memory (DESIGN CHOICE, log entry 8). -/
def winMem : Nat → WinMem
  | 1 => .quireData 0 | 2 => .quireData 1 | 3 => .quireData 2 | 4 => .quireData 3 | 5 => .decoderOut | 6 => .binder
  | _ => .ddr5

/-- Bytes of a window's memory. -/
def State.winSize (s : State) : WinMem → Nat
  | .ddr5 => s.ddrBytes | .quireData _ => 0x780000 | .decoderOut => 0x300000 | .binder => 0x200000

/-- Where a window's memory begins. -/
def winAt : WinMem → Nat
  | .ddr5 => ddrAt | .quireData k => qdAt k.val | .decoderOut => codAt + 0x900000 | .binder => binderAt

/-- The DDR5 extents that a bundle's images load to (Table 17-2), by its manifest: firmware's own. -/
def fwRuns (m : Bytes) : List Run :=
  if m.isEmpty then []
  else ((List.range (fld m 0x14 4)).filter fun i => fld m (0x40 + 48 * i) 1 == 1).map fun i =>
    ⟨fld m (0x4C + 48 * i) 4, fld m (0x48 + 48 * i) 4⟩

/-- The DDR5 extents that a host window must keep clear of (R353, R400): the HARQ region and spill areas, the context area, the staging
regions, the batch store, the firmware's images. -/
def State.protectedRuns (s : State) : List Run :=
  (match s.coding.harq with | some h => h.runs | none => []) ++ schedRuns s.cfg.sched ++ fwRuns s.sec.manifest
    ++ match s.colo.store with | some (b, n) => [⟨b, n * 36864⟩] | none => []

/-- A host window may lie there: in DDR5 outside the protected extents, never in Binder memory, which holds keys and the
firmware's own data. -/
def State.windowFree (s : State) (m : WinMem) (r : Run) : Bool :=
  match m with
  | .ddr5 => s.protectedRuns.all fun x => !overlaps r.base r.len x.base x.len
  | .binder => false
  | _ => true

/-- The fields of WINDOW_CREATE: memory, base, length, access (1 read, 2 write), 8 bytes each (DESIGN CHOICE, log entry 8). -/
def winFields (size : Nat) : List FSpec :=
  [⟨1, 0, 8, 1, enumC (· ≤ 6) 0⟩, ⟨2, 8, 8, 1, numC 0 (size - 1)⟩, ⟨3, 16, 8, 1, anyC⟩, ⟨4, 24, 8, 1, enumC (fun v => decide (1 ≤ v ∧ v ≤ 3)) 1⟩]

/-- WINDOW_CREATE: a host window in the first free entry; its length is cut at the end of the memory. -/
def doWindowCreate (c : Cmd) (s : State) : CmdOut :=
  if !cplAt c.params 0 32 then .fail s 0x0005
  else
    let m0 := par8 c.params 0
    let m := winMem (if m0 ≤ 6 then m0 else 0)
    let size := s.winSize m
    if size = 0 then .fail s 0x0009
    else
      let (r, rep) := checkFields 0 (winFields size) (slice c.params 0 32)
      let len := clampNat 1 (size - par8 r 1) (par8 r 2)
      let rep2 := if len = par8 r 2 then [] else [({ kind := 0, field := 3, written := par8 r 2, applied := len } : Rep)]
      if !s.windowFree m ⟨par8 r 1, len⟩ then .fail s 0x0009
      else match (List.finRange 64).find? fun (n : Fin 64) => (s.windows[n]).isNone with
        | none => .fail s 0x0008
        | some n =>
          let w : DevWindow :=
            { mem := m, base := par8 r 1, len := len, rd := bit (par8 r 3) 0, wr := bit (par8 r 3) 1, host := true }
          { st := { s with windows := s.windows.set n (some w) }, body := join8 [n.val], rep := rep ++ rep2 }

def execWindowCreate (c : Cmd) (s : State) : Host.Outcome State Fault Refusal :=
  .next (shortCmd 0x18 false (exactLen 64) doWindowCreate c s)

/-- A descriptor in progress uses a window. -/
def State.windowUsed (s : State) (n : Nat) : Bool :=
  s.dma.toList.any fun c => match c.run with | some r => bits (fld r.desc 0 8) 40 8 == n | none => false

/-- WINDOW_REMOVE: at once, or after the descriptors that use it (R371). -/
def doWindowRemove (c : Cmd) (s : State) : CmdOut :=
  let n := par8 c.params 0
  if h : n < 64 then
    match s.windows[n] with
    | some w =>
      if !w.host || w.removing then .fail s 0x0007
      else
        let x := if s.windowUsed n then some { w with removing := true } else none
        { st := { s with windows := s.windows.set n x } }
    | none => .fail s 0x0007
  else .fail s 0x0007

def execWindowRemove (c : Cmd) (s : State) : Host.Outcome State Fault Refusal :=
  .next (shortCmd 0x19 false (exactLen 8) doWindowRemove c s)

/-- Windows whose removal waited for their last descriptor go. -/
def State.dropWindows (s : State) : State :=
  { s with windows := Vector.ofFn fun n : Fin 64 =>
      match s.windows[n] with
      | some w => if w.removing && !s.windowUsed n.val then none else some w
      | none => none }

/-! ### The descriptor (Tables 15-5 and 15-6) -/

/-- A DMA descriptor by field. -/
structure DDesc where
  dir : Nat
  fmt : Nat
  swap : Nat
  irq : Bool
  window : Nat
  cookie : Nat
  seq : Nat
  hostAddr : Nat
  devOff : Nat
  srcLine : Nat
  srcStride : Int
  srcCount : Nat
  dstLine : Nat
  dstStride : Int
  dstCount : Nat
  reserved : Bool
  intact : Bool

/-- Read a descriptor. -/
def DDesc.of (b : Bytes) : DDesc :=
  let h := fld b 0 8
  { dir := bits h 60 4, fmt := bits h 56 4, swap := bits h 54 2, irq := bit h 53, window := bits h 40 8,
    cookie := bits h 16 16, seq := bits h 0 16, hostAddr := fld b 0x10 8, devOff := fld b 0x18 8,
    srcLine := bits (fld b 0x20 4) 0 24, srcStride := sx 32 (fld b 0x24 4), srcCount := fld b 0x28 2,
    dstLine := bits (fld b 0x2C 4) 0 24, dstStride := sx 32 (fld b 0x30 4), dstCount := fld b 0x34 2
    reserved := bits h 48 5 != 0 || bits h 32 8 != 0 || bits (fld b 0x20 4) 24 8 != 0 || fld b 0x2A 2 != 0
      || bits (fld b 0x2C 4) 24 8 != 0 || fld b 0x36 2 != 0 || fld b 0x38 8 != 0
    intact := slice b 8 8 == cpl (slice b 0 8) }

/-- Device to host. -/
def DDesc.d2h (d : DDesc) : Bool := d.dir == 1

/-- Bytes of an element: 1 for BFP (R351). -/
def DDesc.elem (d : DDesc) : Nat := if d.fmt = 11 then 1 else fmtBytes d.fmt

/-- Bytes of a swap unit (Table 15-7). -/
def DDesc.unit (d : DDesc) : Nat := match d.swap with | 0 => 1 | 1 => 2 | _ => 4

/-- Geometry of the host side: line length, stride, count. -/
def DDesc.host (d : DDesc) : Nat × Int × Nat :=
  if d.d2h then (d.dstLine, d.dstStride, d.dstCount) else (d.srcLine, d.srcStride, d.srcCount)

/-- Geometry of the device side. -/
def DDesc.dev (d : DDesc) : Nat × Int × Nat :=
  if d.d2h then (d.srcLine, d.srcStride, d.srcCount) else (d.dstLine, d.dstStride, d.dstCount)

/-- The extent of a side, from the lower start of the first and last line to that line's end. -/
def sideSpan (base : Nat) (g : Nat × Int × Nat) : Int × Int :=
  let a := (base : Int)
  let b := (base : Int) + g.2.1 * ((g.2.2 - 1 : Nat) : Int)
  (min a b, max a b + g.1)

/-- The window of a descriptor, where it is granted to the channel's owner with the access that DIR needs. -/
def DDesc.win? (d : DDesc) (s : State) (ch : Fin 16) : Option DevWindow :=
  if h : d.window < 64 then
    (s.windows[d.window]).bind fun w =>
      if w.host = decide (8 ≤ ch.val) ∧ !w.removing ∧ (if d.d2h then w.rd else w.wr) then some w else none
  else none

/-- The checks of Table 15-8, in table order: the status, if one fails. -/
def DDesc.check (d : DDesc) (s : State) (ch : Fin 16) : Option Nat :=
  if !d.intact ∨ d.seq ≠ (s.chan ch).next.toNat then some 0x91
  else if 1 < d.dir ∨ d.reserved then some 0x92
  else if 11 < d.fmt ∨ (d.swap ≠ 0 ∧ d.elem % d.unit ≠ 0) then some 0x93
  else if d.srcLine = 0 ∨ d.dstLine = 0 ∨ d.srcCount = 0 ∨ d.dstCount = 0 ∨ d.srcLine * d.srcCount ≠ d.dstLine * d.dstCount
      ∨ d.srcLine % d.elem ≠ 0 ∨ d.dstLine % d.elem ≠ 0 ∨ d.srcLine % d.unit ≠ 0 ∨ d.dstLine % d.unit ≠ 0 then some 0x94
  else match d.win? s ch with
    | none => some 0x95
    | some w =>
      let x := sideSpan d.devOff d.dev
      let y := sideSpan d.hostAddr d.host
      if x.1 < 0 ∨ (w.len : Int) < x.2 ∨ y.1 < 0 ∨ (2 ^ 64 : Int) < y.2 then some 0x95 else none

/-! ### Moving (R350, R351) -/

/-- One swap unit (Table 15-7). -/
def swapUnit (mode : Nat) (u : Bytes) : Bytes :=
  match mode, u with
  | 1, [a, b] => [b, a]
  | 2, [a, b, c, d] => [d, c, b, a]
  | 3, [a, b, c, d] => [c, d, a, b]
  | _, u => u

/-- The stream after its swap. -/
def DDesc.swapped (d : DDesc) (b : Bytes) : Bytes :=
  if d.swap = 0 then b else (chunks d.unit b).flatMap (swapUnit d.swap)

/-- Start of line `n` of a side. -/
def lineAt (base : Nat) (stride : Int) (n : Nat) : Nat := ((base : Int) + stride * (n : Int)).toNat

/-- Write the stretch from stream byte `lo` to `hi` into the lines of a side. -/
def writeStretch (at_ base : Nat) (g : Nat × Int × Nat) (b : Bytes) (lo hi : Nat) (s : State) : State :=
  if hi ≤ lo then s
  else ((List.range (ceilDiv hi g.1 - lo / g.1)).map (lo / g.1 + ·)).foldl (fun s n =>
    let a := max lo (n * g.1)
    let e := min hi ((n + 1) * g.1)
    s.wr (at_ + lineAt base g.2.1 n + (a - n * g.1)) ((b.drop a).take (e - a))) s

/-- The source stream of a descriptor: device bytes, or the host's. -/
def DDesc.source (d : DDesc) (w : DevWindow) (host : Bytes) (s : State) : Bytes :=
  if d.d2h then
    (List.range d.srcCount).flatMap fun (n : Nat) =>
      s.rd (winAt w.mem + w.base + lineAt d.devOff d.srcStride n) d.srcLine
  else slice host 0 (d.srcLine * d.srcCount)

/-- Move the host-side lines from `lo` to `hi`. -/
def DDesc.move (d : DDesc) (w : DevWindow) (host : Bytes) (lo hi : Nat) (s : State) : State :=
  let b := d.swapped (d.source w host s)
  let n := d.host.1
  if d.d2h then writeStretch hostAt d.hostAddr d.host b (lo * n) (hi * n) s
  else writeStretch (winAt w.mem + w.base) d.devOff d.dev b (lo * n) (hi * n) s

/-- Destination lines delivered when `h` host-side lines are moved. -/
def DDesc.delivered (d : DDesc) (h : Nat) : Nat :=
  if d.d2h then h else min d.dstCount (h * d.srcLine / max 1 d.dstLine)

/-! ### Completion (R354, R355) -/

/-- The 16 bytes of a completion entry; PHASE is 1 on the first pass of the ring. -/
def cplEntry (c : DmaChan) (d : DDesc) (status : Nat) (parked : Bool) (lines : Nat) : Bytes :=
  let pass := c.completed.toNat / max 1 c.size
  toLE 2 d.seq ++ toLE 2 d.cookie ++ toLE 1 status ++ toLE 1 (parked.toNat + (1 - pass % 2) * 128) ++ toLE 2 0
    ++ toLE 4 lines ++ toLE 4 0

/-- A descriptor ends: the entry of a host channel is written, then, if IRQ is set, DMA_DONE and the channel's message; the
channel goes on to the next descriptor. -/
def dmaEnd (s : State) (ch : Fin 16) (desc : Bytes) (status : Nat) (parked : Bool) (lines : Nat) : State :=
  let c := s.chan ch
  let d := DDesc.of desc
  let next := c.next + 1
  let s1 := s.setChan ch fun c =>
    { c with completed := c.completed + 1, next := next, run := none,
             cancelTo := if c.cancelTo = some next then none else c.cancelTo }
  let s2 := if 8 ≤ ch.val then
      let s2 := s1.hostWr (c.cplBase + 16 * (c.completed.toNat % max 1 c.size)) (cplEntry c d status parked lines)
      if d.irq then (s2.setInt ch.val).msix (c.vector.getD (ch.val - 5)) else s2
    else s1
  s2.dropWindows

/-- End the descriptor in progress. -/
def endRun (s : State) (ch : Fin 16) (r : DmaRun) (status lines : Nat) : State :=
  dmaEnd s ch r.desc status r.parkedOnce lines

/-- The PASID that a channel's requests carry (R348). -/
def DmaChan.tagged (c : DmaChan) : Option (BitVec 20) := if c.pasidEn then some c.pasid else none

/-- The host page numbers of host-side line `n` that a reply leaves without a translation. -/
def DDesc.lacking (d : DDesc) (n : Nat) (lacks : List Nat) : List Nat :=
  let a := lineAt d.hostAddr d.host.2.1 n
  lacks.eraseDups.filter fun p => decide (a / 4096 ≤ p ∧ p ≤ (a + d.host.1 - 1) / 4096)

/-- Page requests outstanding (R341: up to 256). -/
def State.pagesOut (s : State) : Nat :=
  (s.dma.toList.map fun c => match c.run with | some r => (r.parked.getD []).length | none => 0).sum

/-- Count parity events of the memory of a window (R155, R357). -/
def winParity (w : DevWindow) (n : Nat) (s : State) : State :=
  match w.mem with
  | .quireData k => s.setCl k fun c => { c with parityEvents := c.parityEvents + BitVec.ofNat 64 n }
  | _ => s

/-- Go on with a descriptor from its next host-side line, until the link's answer stops it (R356, R357). -/
def dmaGo (s : State) (ch : Fin 16) (r : DmaRun) (host : Bytes) (ev : DmaEvent) : State :=
  let d := DDesc.of r.desc
  let n := d.host.2.2
  match (if h : d.window < 64 then s.windows[d.window] else none) with
  | none => s
  | some w =>
    let all := (d.move w host r.hostLine n s).setChan ch fun c =>
      { c with run := some { r with hostLine := n, missed := false, parked := none, readBack := true } }
    match ev with
    | .all => all
    | .miss l =>
      let m := max r.hostLine l
      if !(s.chan ch).atsEn ∨ n ≤ m then all
      else
        ((d.move w host r.hostLine m s).setChan ch fun c =>
          { c with run := some { r with hostLine := m, missed := true, parked := none } }).emit
          (.translationRequest ch.val (s.chan ch).tagged (lineAt d.hostAddr d.host.2.1 m))
    | .hostError l =>
      let m := max r.hostLine l
      if d.d2h ∨ n ≤ m then all else endRun (d.move w host r.hostLine m s) ch r 0x98 (d.delivered m)
    | .devError l =>
      let m := max r.hostLine l
      if !d.d2h ∨ n ≤ m then all
      else endRun (d.move w host r.hostLine m (winParity w 2 s)) ch r 0x99 (d.delivered m)
    | .reread _ => if d.d2h then winParity w 1 all else all

/-- A channel may take its next descriptor: the link carries its requests, the descriptor before it has ended, and a host
channel has been told of it by a doorbell (R345, R348). -/
def State.chanReady (s : State) (ch : Fin 16) : Bool :=
  let c := s.chan ch
  s.busumUp && s.linkOk && c.run.isNone && (decide (ch.val < 8) || (c.configured && c.next != c.prod))

/-- DMA_DESCRIPTOR (R348, R352, R428): checks, then lines; a descriptor that CANCEL reached before it was read ends
DMA_CANCELLED. -/
def dmaDescriptor (ch : Fin 16) (desc host : Bytes) (ev : DmaEvent) (s : State) : State :=
  if !s.chanReady ch then s
  else if (s.chan ch).cancelTo.isSome then dmaEnd s ch desc 0x9A false 0
  else match (DDesc.of desc).check s ch with
    | some code => dmaEnd s ch desc code false 0
    | none => dmaGo s ch { desc := desc } host ev

def execDmaDescriptor (ch : Fin 16) (desc : Bytes) (host : Bytes) (ev : DmaEvent) (s : State) :
    Host.Outcome State Fault Refusal := .next (dmaDescriptor ch desc host ev s)

/-- DMA_READ_BACK (R354): the read-back has returned, or it failed and the last line does not count. -/
def dmaReadBack (ch : Fin 16) (ok : Bool) (s : State) : State :=
  match (s.chan ch).run with
  | none => s
  | some r =>
    let n := (DDesc.of r.desc).dstCount
    if !r.readBack || !s.linkOk then s
    else if ok then endRun s ch r 0 n else endRun s ch r 0x98 (n - 1)

def execDmaReadBack (ch : Fin 16) (ok : Bool) (s : State) : Host.Outcome State Fault Refusal :=
  .next (dmaReadBack ch ok s)

/-! ### Translation (R356) -/

/-- TRANSLATION_COMPLETION: every page of the line has a translation and the line is issued; or access is denied to some of its pages
(`lacks`: page numbers), and the channel parks with one page request group that covers them, or ends DMA_PAGE where PRI is disabled.
A group keeps the page requests outstanding at 256 (DESIGN CHOICE, log entry 19). -/
def translationCompletion (ch : Fin 16) (lacks : List Nat) (host : Bytes) (ev : DmaEvent) (s : State) : State :=
  match (s.chan ch).run with
  | none => s
  | some r =>
    let d := DDesc.of r.desc
    if !r.missed || !s.linkOk then s
    else if d.lacking r.hostLine lacks = [] then dmaGo s ch { r with missed := false } host ev
    else if (s.chan ch).priEn then
      let pages := (d.lacking r.hostLine lacks).take (256 - s.pagesOut)
      (s.setChan ch fun c =>
        { c with run := some { r with missed := false, parkedOnce := true, parked := some pages, parkedAt := s.ticks.toNat } }).emit
        (.pageRequest ch.val (s.chan ch).tagged pages)
    else endRun s ch r 0x96 (d.delivered r.hostLine)

def execTranslationCompletion (ch : Fin 16) (lacks : List Nat) (host : Bytes) (ev : DmaEvent) (s : State) :
    Host.Outcome State Fault Refusal := .next (translationCompletion ch lacks host ev s)

/-- PAGE_RESPONSE: Success restarts the parked line from its first byte; any other response ends the descriptor. -/
def pageResponse (ch : Fin 16) (success : Bool) (host : Bytes) (ev : DmaEvent) (s : State) : State :=
  match (s.chan ch).run with
  | none => s
  | some r =>
    if r.parked.isNone || !s.linkOk then s
    else if success then dmaGo s ch { r with parked := none } host ev
    else endRun s ch r 0x96 ((DDesc.of r.desc).delivered r.hostLine)

def execPageResponse (ch : Fin 16) (success : Bool) (host : Bytes) (ev : DmaEvent) (s : State) :
    Host.Outcome State Fault Refusal := .next (pageResponse ch success host ev s)

/-- PAGE_TIMEOUT: no response within the channel's PAGE_TIMEOUT. -/
def pageTimeout (ch : Fin 16) (s : State) : State :=
  match (s.chan ch).run with
  | none => s
  | some r =>
    if r.parked.isNone then s
    else endRun (s.advanceTo (r.parkedAt + usTicks (1000 * (s.chan ch).pageTimeout))) ch r 0x97
      ((DDesc.of r.desc).delivered r.hostLine)

def execPageTimeout (ch : Fin 16) (s : State) : Host.Outcome State Fault Refusal := .next (pageTimeout ch s)

/-- A request of a channel has failed on the link: DMA_HOST_ABORT. A failed read-back leaves the last line uncounted; a parked
channel has no request outstanding. -/
def hostAbort (ch : Fin 16) (s : State) : State :=
  match (s.chan ch).run with
  | none => s
  | some r =>
    if r.parked.isSome then s
    else
      let d := DDesc.of r.desc
      endRun s ch r 0x98 (if r.readBack then d.dstCount - 1 else d.delivered r.hostLine)

/-- CPL_TIMEOUT (R346, R357): the bit is set, and the channel's descriptor, if it was a channel's request, ends. -/
def execCplTimeout (ch : Option (Fin 16)) (s : State) : Host.Outcome State Fault Refusal :=
  .next (match ch with
    | some c => hostAbort c (s.hlError 6)
    | none => s.hlError 6)

/-- POISONED_RX (R346, R357): the bit is set; a poisoned completion is requested once more, and the second failure ends the
descriptor. -/
def execPoisonedRx (ch : Option (Fin 16)) (again : Bool) (s : State) : Host.Outcome State Fault Refusal :=
  .next (match ch with
    | some c => if again then hostAbort c (s.hlError 5) else s.hlError 5
    | none => s.hlError 5)

/-- ATS_INVALIDATION (R346, R358): a malformed one, or one beyond the queue's depth, sets the bit; any other completes after the
requests already issued, and what follows is translated again. -/
def execAtsInvalidation (malformed : Bool) (s : State) : Host.Outcome State Fault Refusal :=
  .next (if malformed then s.hlError 2 else s.emit .invalCompletion)

/-! ### Doorbells (R348, R428) -/

/-- The host channel of a doorbell. -/
def dbChan (n : Fin 8) : Fin 16 := ⟨8 + n.val, by omega⟩

/-- DMA_DB_COUNT: a count beyond the ring, or for a channel not configured, is ignored and sets RING_OVERRUN. -/
def dmaDbCount (n : Fin 8) (count : BitVec 16) (s : State) : State :=
  let c := s.chan (dbChan n)
  if !c.configured || decide (c.size < (count - c.completed).toNat) then s.hlError 8
  else s.setChan (dbChan n) fun c => { c with prod := count }

def execDmaDbCount (n : Fin 8) (count : BitVec 16) (s : State) : Host.Outcome State Fault Refusal :=
  .next (barReq false s (dmaDbCount n count))

/-- DMA_DB_CANCEL (R358, R428): the descriptor in progress ends DMA_CANCELLED with the lines delivered; those announced and not
yet read end so as they are read. -/
def dmaDbCancel (n : Fin 8) (s : State) : State :=
  let ch := dbChan n
  let c := s.chan ch
  if !c.configured then s.hlError 8
  else
    let s1 := match c.run with
      | some r =>
        let d := DDesc.of r.desc
        endRun s ch r 0x9A (if r.readBack then d.dstCount else d.delivered r.hostLine)
      | none => s
    s1.setChan ch fun c => { c with cancelTo := if c.next = c.prod then none else some c.prod }

def execDmaDbCancel (n : Fin 8) (s : State) : Host.Outcome State Fault Refusal := .next (barReq false s (dmaDbCancel n))

/-! ### The link goes down (R345, R358) -/

/-- Every channel stops at once: host rings are cleared, firmware channels hold their descriptors. -/
def State.stopDma (s : State) : State :=
  { s with dma := Vector.ofFn fun i : Fin 16 => if 8 ≤ i.val then {} else s.dma[i] }.dropWindows

/-- What the link going down does (Table 15-9, R371): the channels stop, a command in progress stops and its response is lost,
LINK_DOWN_EVENT is set. -/
def State.dropLink (s : State) : State :=
  ((s.stopDma.setMbx fun m => { m with longQ := [], waitQ := [] })).hlError 1

/-- LINK_DOWN: the link left L0 other than through Recovery. -/
def execLinkDown (s : State) : Host.Outcome State Fault Refusal :=
  .next (if s.host.l0 then (s.setHost fun h => { h with l0 := false }).dropLink else s)

/-- IDE_STREAM_INSECURE (R345): stream 0 leaves the Secure state; where IDE is required the channels stop. -/
def execIdeStreamInsecure (s : State) : Host.Outcome State Fault Refusal :=
  .next (if s.host.secure0 then
      let s1 := s.setHost fun h => { h with secure0 := false, keyed0 := false }
      if s.host.ideRequired then s1.dropLink else s1
    else s)

/-- PCIE_LINK_TRAINED (R346, R424): the link reaches L0; below 32.0 GT/s or x16 it is degraded; what waits for the host is
posted. -/
def pcieLinkTrained (speed : BitVec 3) (width : BitVec 5) (s : State) : State :=
  let s1 := s.setHost fun h => { h with speed := speed, width := width, l0 := true }
  let s2 := if speed.toNat < 5 ∨ width.toNat < 16 then s1.hlError 0 else s1
  s2.drainRsp.drainSpc

def execPcieLinkTrained (speed : BitVec 3) (width : BitVec 5) (s : State) : Host.Outcome State Fault Refusal :=
  .next (pcieLinkTrained speed width s)

/-! ### Requests of the host that name no register behaviour (R4, R343, R344) -/

/-- BAR_ACCESS_SIZE: the write is discarded, or the read returns all ones; the error is recorded. -/
def execBarAccessSize (read : Bool) (len : Nat) (s : State) : Host.Outcome State Fault Refusal :=
  .next (barReq read s fun s =>
    let s1 := s.hlError 3
    if read then s1.emit (.readOnes len) else s1)

/-- UNSUPPORTED_REQ: a request to an offset with no register. -/
def execUnsupportedReq (read : Bool) (s : State) : Host.Outcome State Fault Refusal :=
  .next (barReq read s fun s => (s.emit (.unsupported read)).hlError 4)

/-- MSIX_VECTOR_UNMASK (R344): a pending message is sent once. -/
def execMsixVectorUnmask (v : Fin 64) (s : State) : Host.Outcome State Fault Refusal :=
  .next (barReq false s fun s =>
    let x := s.host.msix[v]
    let s1 := s.setHost fun h => { h with msix := h.msix.set v { masked := false, pending := false } }
    if x.pending then s1.emit (.msix v.val) else s1)

end Sys2Proof.Machine
end

