-- ==== Sys2Proof/Machine/Dsp.lean ====
section
/-!
DEFINITION. The core DSP (R121 to R128, R131, R135): bundles of one operation and three moves.
-/

namespace Sys2Proof.Machine
open Sys2Proof

/-! ### The bundle (Table 6-6) -/

/-- One move of a bundle. -/
structure Move where
  en : Bool
  d : Nat
  a : Nat
  mod : Nat
  /-- Size code: 0 two bytes, 1 four, 2 eight, 3 illegal. -/
  size : Nat
deriving DecidableEq, Repr

def moveOf (h size : Nat) : Move :=
  { en := bit h 15, d := bits h 8 7, a := bits h 4 4, mod := bits h 0 4, size := size }

/-- Bytes of a move: 2, 4 or 8. Table 3-4 names INT8 for the core DSP, yet no size is one byte (R126, Table 6-6): the moves follow
Table 6-6 (DESIGN CHOICE, log entry 28). -/
def Move.bytes (m : Move) : Nat := 2 ^ (m.size + 1)

/-- A bundle by field. -/
structure Bundle where
  cls : Nat
  op : Nat
  sat : Bool
  dst : Nat
  a : Nat
  b : Nat
  k : Nat
  imm : Int
  xb : Move
  yb : Move
  zb : Move
deriving DecidableEq, Repr

def bundleOf (w0 w1 : BitVec 64) : Bundle :=
  let n := w0.toNat
  let m := w1.toNat
  { cls := bits n 58 6, op := bits n 52 6, sat := bit n 51, dst := bits n 44 7, a := bits n 37 7, b := bits n 30 7,
    k := bits n 24 6, imm := sx 16 (bits n 8 16), xb := moveOf (bits m 48 16) (bits m 14 2),
    yb := moveOf (bits m 32 16) (bits m 12 2), zb := moveOf (bits m 16 16) (bits m 10 2) }

/-! ### Registers (R121, R128) -/

/-- The physical register of a name: the first RSIZE of d64 to d127 rotate. -/
def Core.phys (x : Core) (n : Nat) : Nat :=
  if 64 ≤ n ∧ n - 64 < x.rsize then 64 + (n - 64 + x.roff) % x.rsize else n

/-- Read a d register by name. -/
def Core.getD (x : Core) (n : Nat) : Nat := (tget x.d (x.phys n) 0).toNat

/-- The two halves of a register. -/
def halfLo (v : Nat) : Int := sx 32 v
def halfHi (v : Nat) : Int := sx 32 (v / 2 ^ 32)

/-- A register of two halves. -/
def halvesOf (lo hi : Int) : BitVec 64 := BitVec.ofNat 64 (lowBits 32 lo + lowBits 32 hi * 2 ^ 32)

/-! ### Operations (R123 to R125) -/

/-- What an operation does: a write to its d register with its latency and flags, or nothing. -/
structure DspOut where
  w : Option DspWrite := none
  lat : Nat := 1
  flags : Sticky := {}

/-- The two exact parts of a multiplier operation on the two 32-bit operands (R124). -/
def mulParts (op a b : Nat) : Int × Int :=
  let ar := sx 16 a
  let ai := sx 16 (a / 65536)
  let br := sx 16 b
  let bi := sx 16 (b / 65536)
  match op with
  | 0x01 => (ar * br - ai * bi, ar * bi + ai * br)
  | 0x03 => (ar * br - ai * bi, ar * bi + ai * br)
  | 0x02 => (ar * br + ai * bi, ai * br - ar * bi)
  | 0x04 => (ar * br + ai * bi, ai * br - ar * bi)
  | 0x05 => (ar * br + ai * bi, ar * bi + ai * br)
  | 0x06 => (ar * br + ai * bi, ar * bi + ai * br)
  | _ => (ar * ar + ai * ai, 0)

/-- Write two halves, each fitted under the saturation bit. -/
def put2 (sat : Bool) (lo hi : Int) (lat : Nat) : DspOut :=
  let (a, f) := fitInt sat 32 lo
  let (b, g) := fitInt sat 32 hi
  { w := some (.put (halvesOf a b)), lat := lat, flags := f.or g }

/-- Write 64 bits. -/
def put64 (v : Nat) (lat : Nat) : DspOut := { w := some (.put (BitVec.ofNat 64 v)), lat := lat }

/-- Fit 64-bit arithmetic. -/
def putFit64 (sat : Bool) (x : Int) : DspOut :=
  let (a, f) := fitInt sat 64 x
  { w := some (.put (BitVec.ofNat 64 (lowBits 64 a))), flags := f }

/-- One operation of Table 6-7 on its register values; `sv` is the s register that MOVSD reads. DCLR and MOVDS act
elsewhere. -/
def dspOp (x : Bundle) (a b : Nat) (sv : BitVec 64) : DspOut :=
  let al := halfLo a
  let ah := halfHi a
  let bl := halfLo b
  let bh := halfHi b
  let p := mulParts x.op (a % 2 ^ 32) (b % 2 ^ 32)
  let lo := shiftRound p.1 x.k
  let hi := shiftRound p.2 x.k
  match x.op with
  | 0x01 => { w := some (.acc lo hi x.sat), lat := 3 }
  | 0x02 => { w := some (.acc lo hi x.sat), lat := 3 }
  | 0x03 => put2 x.sat lo hi 3
  | 0x04 => put2 x.sat lo hi 3
  | 0x05 => { w := some (.acc lo hi x.sat), lat := 3 }
  | 0x06 => put2 x.sat lo hi 3
  | 0x07 => put2 x.sat lo 0 3
  | 0x08 => put2 x.sat (al + bl) (ah + bh) 1
  | 0x09 => put2 x.sat (al - bl) (ah - bh) 1
  | 0x0A => putFit64 x.sat (sx 64 a + sx 64 b)
  | 0x0B => putFit64 x.sat (sx 64 a - sx 64 b)
  | 0x0C => put2 x.sat (if bl < al then bl else al) (if bh < ah then bh else ah) 1
  | 0x0D => put2 x.sat (if al < bl then bl else al) (if ah < bh then bh else ah) 1
  | 0x0E => put2 x.sat al.natAbs ah.natAbs 1
  | 0x0F => put2 x.sat (-al) (-ah) 1
  | 0x10 => put2 x.sat (shiftRound al x.k) (shiftRound ah x.k) 1
  | 0x11 => put2 x.sat (al * (2 ^ x.k : Nat)) (ah * (2 ^ x.k : Nat)) 1
  | 0x12 => put64 (a &&& b) 1
  | 0x13 => put64 (a ||| b) 1
  | 0x14 => put64 (a ^^^ b) 1
  | 0x15 =>
    let (p, f) := fitInt x.sat 16 (shiftRound al x.k)
    let (q, g) := fitInt x.sat 16 (shiftRound ah x.k)
    { w := some (.put (BitVec.ofNat 64 (lowBits 16 p + lowBits 16 q * 65536))), flags := f.or g }
  | 0x16 => put2 false (sx 16 a) (sx 16 (a / 65536)) 1
  | 0x17 => put64 a 1
  | 0x18 => put64 (lowBits 64 x.imm) 1
  | 0x19 => put64 sv.toNat 2
  | _ => {}

/-! ### Moves (R126, R131, R132) -/

/-- The step that MOD selects; an s register for MOD 8 to 15. -/
def Move.step (m : Move) (x : Core) : Int :=
  let z : Int := m.bytes
  match m.mod with
  | 0 => 0 | 1 => z | 2 => -z | 3 => 2 * z | 4 => -2 * z | 5 => 4 * z | 6 => -4 * z | 7 => 8 * z
  | _ => sx 32 (x.getS (40 + m.mod)).toNat

/-- The ring of a circular register, in core-map addresses; none while it is unbound. -/
def Core.dspRing (x : Core) (n : Nat) : Option Run :=
  match tget? x.cx.acb n, tget? x.cx.acl n with
  | some b, some l => some ⟨b, l⟩
  | _, _ => none

/-- An address register after its post-modify: wrapping, or circular (R131, R132); the step is read in the issue cycle. -/
def postModify (x0 x : Core) (m : Move) : BitVec 32 :=
  let a := tget x.cx.a m.a 0
  let st := m.step x0
  if m.a < 12 then BitVec.ofInt 32 ((a.toNat : Int) + st)
  else match x.dspRing (m.a - 12) with
    | some r => if r.len = 0 then a else
        BitVec.ofInt 32 ((r.base : Int) + ((a.toNat : Int) - r.base + st) % (r.len : Int))
    | none => a

/-- Check one move: the place it reaches, or its fault. A move that is off or suppressed reaches none. -/
def moveCheck (s : State) (c : Fin 8) (q : Quire) (m : Move) (on store : Bool) : Except Nat (Option Nat) :=
  if !on then .ok none
  else
    let x := s.core c
    let a := (tget x.cx.a m.a 0).toNat
    let ring := x.dspRing (m.a - 12)
    if 12 ≤ m.a ∧ ring.isNone then .error 0x45
    else match coreAccess s c q a m.bytes store (if m.a < 12 then none else ring) with
      | .ok p => .ok (some p)
      | .error f => .error f

/-- The bank that a core-map address falls in, with its memory and half (R137, R139). -/
def bankOf (a : Nat) : Nat × Nat :=
  if a < 0x800000 then (a / 0x200000, a / 64 % 16) else (1000 + (a - 0x1000000) / 0x400000, a / 64 % 16)

/-- A loaded value, sign-extended to 64 bits (R121). -/
def loadVal (m : Move) (n : Nat) : BitVec 64 := BitVec.ofNat 64 (lowBits 64 (sx (8 * m.bytes) n))

/-! ### A bundle -/

/-- Loads are suppressed in the last DRN iterations of the innermost loop, stores in the first PRO (R129); a handler is no part of
the loop. -/
def Core.noLoads (x : Core) : Bool :=
  !x.inHandler && match x.loops with | l :: _ => decide (l.remaining ≤ l.drn) | [] => false
def Core.noStores (x : Core) : Bool :=
  !x.inHandler && match x.loops with | l :: _ => decide (l.iter < l.pro) | [] => false

/-- DSP_ILLEGAL, or a class that is no bundle's (R112, R122, R123). -/
def Bundle.illegal (x : Bundle) (ops : List Nat) : Option Nat :=
  if x.cls ≠ 2 then some 0x41
  else if !ops.contains x.op || decide (31 < x.k) || [x.xb, x.yb, x.zb].any (fun m => m.en && m.size == 3) then some 0x44
  else none

/-- The s registers that a bundle reads. -/
def Bundle.reads (x : Bundle) : List Nat :=
  (if x.op = 0x19 then [x.a % 64] else [])
    ++ ([x.xb, x.yb, x.zb].filter fun m => m.en && decide (8 ≤ m.mod)).map fun m => 40 + m.mod

/-- Put a write in flight: it lands at the end of issue cycle t + L − 1 (R127). -/
def fly (t lat reg : Nat) (w : DspWrite) (x : Core) : Core :=
  if x.inHandler then x else { x with pend := x.pend ++ [⟨t + lat - 1, reg, w⟩] }

/-- Post-modify the address register of a move that took place. -/
def bump (x0 : Core) (m : Move) (on : Bool) (x : Core) : Core :=
  if on && x.mayWriteA m.a then { x with cx := { x.cx with a := tset x.cx.a m.a (postModify x0 x m) } } else x

/-- The operation of a bundle, put in flight or written (R123, R127). -/
def bundleOp (c : Fin 8) (b : Bundle) (x0 : Core) (s : State) : State :=
  let t := x0.cycle
  let o := dspOp b (x0.getD b.a) (x0.getD b.b) (x0.getS (b.a % 64))
  if b.op = 0x1A then
    (s.setCore c (Core.readyIn (b.dst % 64) 2)).putS c (b.dst % 64) (BitVec.ofNat 64 (x0.getD b.a))
  else if b.op = 0x1B then
    s.setCore c fun x => (List.range 64).foldl (fun x i => fly t 1 (64 + i) (.put 0) x) x
  else match o.w with
    | some w => s.setCore c fun x =>
        let y := fly t o.lat (x0.phys b.dst) w x
        { y with cx := { y.cx with flags := y.cx.flags.or o.flags } }
    | none => s

/-- The moves of a bundle read the word; a store only where it is narrower than a word (R155, R157). -/
def Bundle.readsWord (b : Bundle) (px py pz : Option Nat) (w : Nat) : Bool :=
  let hit := fun (m : Move) (p : Option Nat) => match p with
    | some a => wordIn w a m.bytes
    | none => false
  hit b.xb px || hit b.yb py || (b.zb.bytes == 2 && hit b.zb pz)

/-- Two loads of a bundle fall in one bank: a cycle without issue, counted as STALL_DATA_LATE of the engine whose scratchpad it is
(R126, R141). -/
def bankClash (s : State) (c : Fin 8) (a : Nat) : State :=
  let s1 := s.setCore c (Core.idle 1)
  match coreMem c a with
  | some (.spad e _) => s1.vecLate e 1
  | _ => s1

/-- The moves of a bundle that take place: loads from `px` and `py`, a store to `pz` (R126). A move first waits for the engines that
use its bytes (R118). -/
def bundleMoves (c : Fin 8) (b : Bundle) (x0 : Core) (px py pz : Option Nat) (s : State) : State :=
  let wait := fun (m : Move) (p : Option Nat) (store : Bool) (s : State) =>
    if p.isSome then s.memWait c (tget x0.cx.a m.a 0).toNat m.bytes store else s
  let ld := fun (m : Move) (p : Option Nat) (s1 : State) => match p with
    | some a => s1.setCore c (fly x0.cycle 4 (x0.phys m.d) (.put (loadVal m (leNat (s.coreRd a m.bytes)))))
    | none => s1
  let s1 := ld b.xb px (ld b.yb py (wait b.zb pz true (wait b.yb py false (wait b.xb px false s))))
  match pz with
  | some a => s1.coreWr a (toLE b.zb.bytes (x0.getD b.zb.d))
  | none => s1

/-- What a bundle does once its checks have passed: its moves, its operation, the steps of the address registers of the moves that took
place, and a cycle for two loads in one bank (R122 to R132). -/
def bundleEffect (c : Fin 8) (b : Bundle) (x0 : Core) (px py pz : Option Nat) (s : State) : State :=
  let s1 := bundleOp c b x0 (bundleMoves c b x0 px py pz s)
  let s2 := s1.setCore c fun x => bump x0 b.zb pz.isSome (bump x0 b.yb py.isSome (bump x0 b.xb px.isSome x))
  let ax := (tget x0.cx.a b.xb.a 0).toNat
  if px.isSome && py.isSome && bankOf ax == bankOf (tget x0.cx.a b.yb.a 0).toNat then bankClash s2 c ax else s2

/-- Run a bundle whose operation is one of a row's (R122 to R132): its checks first, then its effect, every source read in the issue
cycle. -/
def runBundle (ops : List Nat) (c : Fin 8) (w0 w1 : BitVec 64) (par : Option Nat) (s : State) : State :=
  let b := bundleOf w0 w1
  issue c 2 1 b.reads (fun q s =>
    match b.illegal ops with
    | some f => faultQuire s q.tag f
    | none =>
      let x0 := s.core c
      match moveCheck s c q b.xb (b.xb.en && !x0.noLoads) false, moveCheck s c q b.yb (b.yb.en && !x0.noLoads) false,
          moveCheck s c q b.zb (b.zb.en && !x0.noStores) true with
      | .error f, _, _ => faultQuire s q.tag f
      | _, .error f, _ => faultQuire s q.tag f
      | _, _, .error f => faultQuire s q.tag f
      | .ok px, .ok py, .ok pz => reading c 2 par (b.readsWord px py pz) q s (bundleEffect c b x0 px py pz s)) s

/-- CMAC. -/
def execCmac (core : Fin 8) (w0 w1 : BitVec 64) (par : Option Nat) (s : State) :
    Host.Outcome State Fault Refusal :=
  .next (runBundle [0x01] core w0 w1 par s)
/-- CMACC. -/
def execCmacc (core : Fin 8) (w0 w1 : BitVec 64) (par : Option Nat) (s : State) :
    Host.Outcome State Fault Refusal :=
  .next (runBundle [0x02] core w0 w1 par s)
/-- CMUL and CMULC. -/
def execCmul (core : Fin 8) (w0 w1 : BitVec 64) (par : Option Nat) (s : State) :
    Host.Outcome State Fault Refusal :=
  .next (runBundle [0x03, 0x04] core w0 w1 par s)
/-- DMAC. -/
def execDmac (core : Fin 8) (w0 w1 : BitVec 64) (par : Option Nat) (s : State) :
    Host.Outcome State Fault Refusal :=
  .next (runBundle [0x05] core w0 w1 par s)
/-- DMUL. -/
def execDmul (core : Fin 8) (w0 w1 : BitVec 64) (par : Option Nat) (s : State) :
    Host.Outcome State Fault Refusal :=
  .next (runBundle [0x06] core w0 w1 par s)
/-- CMAG2. -/
def execCmag2 (core : Fin 8) (w0 w1 : BitVec 64) (par : Option Nat) (s : State) :
    Host.Outcome State Fault Refusal :=
  .next (runBundle [0x07] core w0 w1 par s)
/-- ADD2 to SHL2. -/
def execDspHalfArith (core : Fin 8) (w0 w1 : BitVec 64) (par : Option Nat) (s : State) :
    Host.Outcome State Fault Refusal :=
  .next (runBundle [0x08, 0x09, 0x0A, 0x0B, 0x0C, 0x0D, 0x0E, 0x0F, 0x10, 0x11] core w0 w1 par s)
/-- AND, OR, XOR. -/
def execDspLogic (core : Fin 8) (w0 w1 : BitVec 64) (par : Option Nat) (s : State) :
    Host.Outcome State Fault Refusal :=
  .next (runBundle [0x12, 0x13, 0x14] core w0 w1 par s)
/-- PACK. -/
def execPack (core : Fin 8) (w0 w1 : BitVec 64) (par : Option Nat) (s : State) :
    Host.Outcome State Fault Refusal :=
  .next (runBundle [0x15] core w0 w1 par s)
/-- UNPACK. -/
def execUnpack (core : Fin 8) (w0 w1 : BitVec 64) (par : Option Nat) (s : State) :
    Host.Outcome State Fault Refusal :=
  .next (runBundle [0x16] core w0 w1 par s)
/-- MOV and MOVI, and the bundle whose operation is NOP (DESIGN CHOICE, log entry 28). -/
def execMov (core : Fin 8) (w0 w1 : BitVec 64) (par : Option Nat) (s : State) :
    Host.Outcome State Fault Refusal :=
  .next (runBundle [0x17, 0x18, 0x00] core w0 w1 par s)
/-- MOVSD. -/
def execMovsd (core : Fin 8) (w0 w1 : BitVec 64) (par : Option Nat) (s : State) :
    Host.Outcome State Fault Refusal :=
  .next (runBundle [0x19] core w0 w1 par s)
/-- MOVDS. -/
def execMovds (core : Fin 8) (w0 w1 : BitVec 64) (par : Option Nat) (s : State) :
    Host.Outcome State Fault Refusal :=
  .next (runBundle [0x1A] core w0 w1 par s)
/-- DCLR. -/
def execDclr (core : Fin 8) (w0 w1 : BitVec 64) (par : Option Nat) (s : State) :
    Host.Outcome State Fault Refusal :=
  .next (runBundle [0x1B] core w0 w1 par s)

end Sys2Proof.Machine
end

