-- ==== Sys2Proof/Machine/Links.lean ====
section
/-!
DEFINITION. The stitch links (R314 to R318, R321, R339): SL_CONFIG, SL_STATS, training and HELLO, flits received, replays
and retrains, chips lost and found.
-/

namespace Sys2Proof.Machine
open Sys2Proof

/-! ### SL_CONFIG (R315) -/

/-- The fields of a link record, 8 bytes each: ENABLE, SPEED_MASK, LANES_MAX (DESIGN CHOICE, log entry 8). -/
def slFields : List FSpec :=
  [⟨1, 0, 8, 1, enumC (· ≤ 1) 0⟩, ⟨2, 8, 8, 1, maskC 3 anyC⟩,
   ⟨3, 16, 8, 1, enumC (fun v => v == 1 || v == 2 || v == 4) 4⟩]

/-- Apply one link record. -/
def applyLink (s : State) (l : Fin 4) (r : Bytes) : State :=
  s.setLink l fun k => { k with enable := par8 r 0 == 1, speedMask := BitVec.ofNat 8 (par8 r 1), lanesMax := par8 r 2 }

/-- SL_CONFIG: four link records, each followed by its complement. -/
def doSlConfig (c : Cmd) (s : State) : CmdOut :=
  if !(List.range 4).all (fun l => cplAt c.params (48 * l) 24) then .fail s 0x0005
  else
    let rs := (List.finRange 4).map fun (l : Fin 4) => (l, checkFields l.val slFields (slice c.params (48 * l.val) 24))
    { st := (rs.foldl (fun s p => applyLink s p.1 p.2.1) s).relink, rep := rs.flatMap fun p => p.2.2 }

def execSlConfig (c : Cmd) (s : State) : Host.Outcome State Fault Refusal :=
  .next (shortCmd 0x14 false (exactLen 192) doSlConfig c s)

/-! ### SL_STATS (R339) -/

/-- The counters of Table 14-7 in its order, with the number of places each has; SUM_DISCARDED of the four clusters
follows them. -/
def slOrder : List (SlCtr × Nat) :=
  [(.fecCorr, 4), (.fecUncorr, 4), (.crcErr, 4), (.replay, 4), (.retrain, 4), (.msgBad, 1), (.refused, 1), (.underflow, 1),
   (.fmtErr, 1), (.nonfinite, 1), (.mcastCut, 1), (.jrLate, 64), (.jrDiscard, 64), (.jrBlockedDrop, 64)]

/-- SL_STATS: CLEAR; the counters are read and cleared in one operation. -/
def doSlStats (c : Cmd) (s : State) : CmdOut :=
  let body := join8 ((slOrder.flatMap fun p => (List.range p.2).map fun i => (tget s.stitch.ctrs (p.1.key i) 0).toNat)
    ++ (List.finRange 4).map fun k => (s.cl k).sumDiscarded.toNat)
  let clear := fun (s : State) =>
    { s.setStitch fun t => { t with ctrs := [] } with
      clusters := s.clusters.map fun k => { k with sumDiscarded := 0 } }
  { st := if bit (par8 c.params 0) 0 then clear s else s, body := body }

def execSlStats (c : Cmd) (s : State) : Host.Outcome State Fault Refusal :=
  .next (shortCmd 0x48 false (exactLen 8) doSlStats c s)

/-! ### Training and HELLO (R315) -/

/-- Send HELLO on a link: POOL_ID, TOPOLOGY and the link's number; one hop only. -/
def State.sendHello (s : State) (l : Fin 4) : State :=
  let m := ctrlMsg s 0x31 (s.neighbour l) 0 0 0 (s.poolId + s.topology % 4 * 2 ^ 64 + l.val * 2 ^ 72)
  (s.emit (.hello l.val m)).setLink l fun k => { k with helloAt := s.ticks.toNat }

/-- The lane sets in the order in which they are tried, with their widths (R315). -/
def laneSets : List (BitVec 4 × Nat) := [(0xF, 4), (3, 2), (0xC, 2), (1, 1), (2, 1), (4, 1), (8, 1)]

/-- What a link comes up with, of the lanes that train at 53.125 and at 106.25 Gb/s: the highest rate of SPEED_MASK at which a lane
set trains, and the first set in order that does, from the widest that LANES_MAX allows (R315). -/
def Link.trains (k : Link) (slow fast : BitVec 4) : Option (Nat × BitVec 4 × Nat) :=
  let at_ := fun (rate : Nat) (ok : BitVec 4) =>
    if k.speedMask.getLsbD rate then
      (laneSets.find? fun x => decide (x.2 ≤ k.lanesMax) && x.1 &&& ok == x.1).map fun x => (rate, x.1, x.2)
    else none
  (at_ 1 fast).orElse fun _ => at_ 0 slow

/-- LINK_TRAINED (R315): the PCS has held alignment for 1 ms and HELLO is sent. -/
def linkTrained (l : Fin 4) (slow fast : BitVec 4) (s : State) : State :=
  let k := s.link l
  if s.lanesOn && k.enable && s.wired l && (k.state == .training || k.state == .down) then
    match k.trains slow fast with
    | some (rate, set, lanes) =>
      ((s.setLinkState l .training).setLink l fun k => { k with lanes := lanes, laneSet := set, rate := rate }).sendHello l
    | none => s
  else s

def execLinkTrained (l : Fin 4) (slow fast : BitVec 4) (s : State) : Host.Outcome State Fault Refusal :=
  .next (linkTrained l slow fast s)

/-- The link runs with fewer lanes or a lower rate than its configuration allows. -/
def Link.isDegraded (k : Link) : Bool :=
  decide (k.lanes < k.lanesMax) || (k.rate == 0 && k.speedMask.getLsbD 1)

/-- The 200 µs of transfers whose route is a link that has retrained were held meanwhile (R325). -/
def holdXfers (s : State) (l : Fin 4) : State :=
  let pause := s.ticks.toNat - (s.link l).heldAt
  let held := fun (x : OutXfer) => x.targets.any fun y => y.via == some l && !y.done
  s.setStitch fun t => { t with outX := t.outX.map fun x => if held x then { x with at_ := x.at_ + pause } else x }

/-- A link comes up: a replay buffer kept over a retrain is sent again, then what waits. -/
def linkUp (s0 : State) (l : Fin 4) : State :=
  let k := s0.link l
  let s := if k.retraining then holdXfers s0 l else s0
  let s1 := s.setLinkState l (if k.isDegraded then .degraded else .up)
  let s2 := (if k.retraining then s1.resend l else s1).setLink l fun k => { k with retraining := false }
  (s2.pump l).sendHeld

/-- A link that turns out miswired carries nothing (R315): its buffered flits are dropped. -/
def State.miswire (s : State) (l : Fin 4) : State :=
  (s.setLink l fun k =>
    { ({} : Link) with
      enable := k.enable, speedMask := k.speedMask, lanesMax := k.lanesMax, state := k.state
      helloAt := k.helloAt, lanes := k.lanes, laneSet := k.laneSet, rate := k.rate }).setLinkState l .miswired

/-- HELLO (R315): the peer's POOL_ID and TOPOLOGY equal this chip's, its CHIP is the neighbour and its link the one that R319
expects; any difference puts the link in MISWIRED. -/
def onHello (l : Fin 4) (chip : BitVec 6) (poolId : BitVec 64) (topology link : BitVec 2) (s : State) : State :=
  let k := s.link l
  let good : Bool := decide (poolId.toNat = s.poolId ∧ topology.toNat = s.topology ∧ chip.toNat = s.neighbour l ∧
    link.toNat = peerLink l)
  if (k.state = .training ∧ k.lanes ≠ 0) ∨ k.state = .miswired then if good then linkUp s l else s.miswire l
  else if (k.state = .up ∨ k.state = .degraded) ∧ !good then s.miswire l
  else s

def execHello (l : Fin 4) (chip : BitVec 6) (poolId : BitVec 64) (topology link : BitVec 2) (s : State) :
    Host.Outcome State Fault Refusal := .next (onHello l chip poolId topology link s)

/-- HELLO_RETRY (R315): a link in MISWIRED retries HELLO every 100 ms. -/
def helloRetry (l : Fin 4) (s : State) : State :=
  if (s.link l).state = .miswired then (s.advanceTo ((s.link l).helloAt + usTicks 100000)).sendHello l else s

def execHelloRetry (l : Fin 4) (s : State) : Host.Outcome State Fault Refusal := .next (helloRetry l s)

/-! ### Flits received (R316 to R318) -/

/-- The flits of a replay buffer that an ACK_SEQ leaves unacknowledged; none where it names none of them. -/
def ackRest (seq : BitVec 16) : List (BitVec 16 × QFlit) → Option (List (BitVec 16 × QFlit))
  | [] => none
  | (n, _) :: r => if n = seq then some r else ackRest seq r

/-- An acknowledgement: what it covers leaves the replay buffer, which is progress. -/
def takeAck (s : State) (l : Fin 4) (seq : BitVec 16) : State :=
  match ackRest seq (s.link l).replay with
  | some r => s.setLink l fun k => { k with replay := r, replays := 0, ackFrom := s.ticks.toNat }
  | none => s

/-- Send a NULL flit with acknowledgement and credits. -/
def sendNull (s : State) (l : Fin 4) (nak : Bool) (cc dc : Nat) : State :=
  let k := s.link l
  s.emit (.flit l.val (flitBytes 0 ⟨false, false, false, [], false⟩ k.txSeq k.rxSeq nak cc dc))

/-- A good flit: its acknowledgement and credits are taken; a MSG flit's own buffer is freed and its credit returned. A reserved CLASS
counts as DATA (DESIGN CHOICE, log entry 15). -/
def goodFlit (s : State) (l : Fin 4) (h : Nat) (ack : Nat) (flags : Nat) : State :=
  let isMsg := bits h 60 4 == 1
  let s1 := if isMsg then s.setLink l fun k => { k with rxSeq := BitVec.ofNat 16 (bits h 0 16) } else s
  let s2 := if bit flags 0 then takeAck s1 l (BitVec.ofNat 16 ack) else s1
  let s3 := s2.setLink l fun k => k.regain (bits h 48 8) (bits h 40 8)
  let s4 := if bit flags 1 then s3.replayFrom l else s3
  let s5 := if isMsg then
      (if bits h 58 2 = 0 then sendNull s4 l false 1 0 else sendNull s4 l false 0 1)
    else s4
  s5.pump l

/-- FLIT_RECEIVE (R316, R318, R339), with the outcome of FEC: clean, corrected, uncorrectable. A flit with an uncorrectable codeword, a
CRC error or an unexpected SEQ is discarded and answered with NAK. A reserved KIND, for which the manual gives no outcome, is treated so
too, and counted nowhere (DESIGN CHOICE, log entry 15). The messages that flits carry are commands of their own. -/
def flitReceive (l : Fin 4) (flit : Bytes) (fec : Fin 3) (s0 : State) : State :=
  let k := s0.link l
  let s := if fec.val = 1 then s0.slCount .fecCorr l.val else s0
  if k.state ≠ .up ∧ k.state ≠ .degraded then s
  else if fec.val = 2 then sendNull (s.slCount .fecUncorr l.val) l true 0 0
  else if flit.length ≠ 256 ∨ crc32c (flit.take 252) ≠ fld flit 252 4 then sendNull (s.slCount .crcErr l.val) l true 0 0
  else
    let h := fld flit 0 8
    let want := if bits h 60 4 = 1 then k.rxSeq + 1 else k.rxSeq
    if 1 < bits h 60 4 ∨ want.toNat ≠ bits h 0 16 then sendNull s l true 0 0
    else goodFlit s l h (fld flit 0xF8 2) (fld flit 0xFA 1)

def execFlitReceive (l : Fin 4) (flit : Bytes) (fec : Fin 3) (s : State) : Host.Outcome State Fault Refusal :=
  .next (flitReceive l flit fec s)

/-- REPLAY_TIMEOUT (R318): 4 µs have passed with unacknowledged flits and no acknowledgement. -/
def replayTimeout (l : Fin 4) (s : State) : State :=
  let k := s.link l
  if (k.state = .up ∨ k.state = .degraded) ∧ k.replay ≠ [] then (s.advanceTo (k.ackFrom + usTicks 4)).replayFrom l
  else s

def execReplayTimeout (l : Fin 4) (s : State) : Host.Outcome State Fault Refusal := .next (replayTimeout l s)

/-- LINK_HOLD_EXPIRY (R318): a retrain has not ended within 1 ms: DOWN, and the buffered flits are dropped. -/
def linkHoldExpiry (l : Fin 4) (s : State) : State :=
  let k := s.link l
  if k.retraining then ((s.advanceTo (k.heldAt + usTicks 1000)).linkDown l).sendHeld else s

def execLinkHoldExpiry (l : Fin 4) (s : State) : Host.Outcome State Fault Refusal := .next (linkHoldExpiry l s)

end Sys2Proof.Machine
end

