-- ==== Sys2Proof/Machine/Ports.lean ====
section
/-!
DEFINITION. Fronthaul ports (R287 to R291), MACsec associations (R304, R305), optical modules (R307 to R312) and the
front-end counters (R313).
-/

namespace Sys2Proof.Machine
open Sys2Proof

/-! ### Ports -/

/-- Change a port. -/
def State.setPort (s : State) (p : Fin 8) (f : Port → Port) : State :=
  s.setFe fun e => { e with ports := vmod e.ports p f }

/-- Gb/s of a RATE code of FH_PORT_STATE. -/
def rateGbps (r : Nat) : Nat := match r with | 1 => 25 | 2 => 50 | 3 => 100 | 4 => 200 | 5 => 400 | _ => 0

/-- The cells on a port. -/
def cellsOnPort (s : State) (p : Nat) : List (Nat × Cell) := s.cfg.cells.filter fun c => c.2.placed && c.2.fhPort == p

/-- FH_LINK (Table 16-11): port, state, rate, and UNDERSPEED where the port came up below its highest SPEED_MASK rate (R289,
R291; DEDUCED, log entry 58). -/
def fhLink (s : State) (p rate : Nat) (up : Bool) : State :=
  let under := up && decide (rateGbps rate < portGbps s p)
  s.event 0x06 p (toLE 4 p ++ toLE 4 up.toNat ++ toLE 4 rate ++ toLE 4 under.toNat)

/-- A port goes down (R289, R290). -/
def downPort (p : Fin 8) (s : State) : State :=
  if (s.port p.val).up then fhLink (s.setPort p fun x => { x with up := false, rate := 0 }) p.val 0 false else s

/-- The module of a port lets it come up: no module is under decision, and none is quarantined (R308, R309). A port without a
module in its cage is copper or backplane. -/
def moduleAllows (s : State) (p : Fin 8) : Bool :=
  let c := s.fe.cages[p]
  !c.present || (c.decided && !c.quarantined)

/-- The rate is one that the port's layout and SPEED_MASK offer (Table 13-2). -/
def rateOffered (s : State) (p rate : Nat) : Bool :=
  let l := portLanes s p
  let m := (s.port p).speedMask.toNat
  decide (0 < l) && (bit m 2 && rateGbps rate == 100 * l || bit m 1 && rateGbps rate == 50 * l
    || bit m 0 && l == 1 && rateGbps rate == 25)

/-- The RATE code of a number of Gb/s. -/
def rateCode (g : Nat) : Nat := match g with | 25 => 1 | 50 => 2 | 100 => 3 | 200 => 4 | 400 => 5 | _ => 0

/-- The highest rate common to SPEED_MASK and to what the other end, or the module among its CMIS applications, advertises, at the
port's lane count; 0 where there is none (R289). -/
def commonRate (s : State) (p : Nat) (peer : BitVec 3) : Nat :=
  let l := portLanes s p
  let m := (s.port p).speedMask.toNat &&& peer.toNat
  rateCode (if bit m 2 then 100 * l else if bit m 1 then 50 * l else if bit m 0 && l == 1 then 25 else 0)

/-- PORT_UP (R289, R290): the port is up at the highest common rate; its cells resume at the first slot whose C-plane windows are
still to open. `peer` is the lane rates that the other end or the module advertises, as SPEED_MASK numbers them. -/
def portUp (p : Fin 8) (peer : BitVec 3) (s : State) : State :=
  let rate := commonRate s p.val peer
  if (s.port p.val).up || rate == 0 || !moduleAllows s p || !s.busumUp || !s.lanesOn then s
  else
    let s1 := s.setPort p fun x => { x with up := true, rate := rate }
    let s2 := (cellsOnPort s1 p.val).foldl (fun s c =>
      s.setCell c.1 fun c => { c with resume := max c.cpUl c.cpDl }) s1
    fhLink s2 p.val rate true

def execPortUp (p : Fin 8) (peer : BitVec 3) (s : State) : Host.Outcome State Fault Refusal := .next (portUp p peer s)

def execPortDown (p : Fin 8) (s : State) : Host.Outcome State Fault Refusal := .next (downPort p s)

/-! ### FH_CONFIG -/

/-- Four EAXC_WIDTHS, a byte each, sum to 16; else all take their defaults (R294). -/
def eaxcC : Chk := fun v =>
  if bits v 0 8 + bits v 8 8 + bits v 16 8 + bits v 24 8 = 16 ∧ v < 2 ^ 32 then (v, []) else (0x04040602, [(1, v, 0x04040602)])

/-- The fields of one quad record, 8 bytes each (DESIGN CHOICE, log entry 8): QUAD_MODE, then SPEED_MASK, AN, FEC25, MTU, PORT_MAC,
EAXC_WIDTHS, MACSEC_MODE, cipher suite and REPLAY_WINDOW of each of its four lanes. -/
def quadFields : List FSpec :=
  ⟨1, 0, 8, 1, enumC (· ≤ 3) 0⟩ :: (List.range 4).flatMap fun p =>
    let no := 2 + 9 * p
    let at_ := 8 + 72 * p
    [⟨no, at_, 8, 1, maskC 7 anyC⟩, ⟨no + 1, at_ + 8, 8, 1, enumC (· ≤ 1) 0⟩, ⟨no + 2, at_ + 16, 8, 1, enumC (· ≤ 2) 0⟩,
     ⟨no + 3, at_ + 24, 8, 1, numC 1518 9216⟩, ⟨no + 4, at_ + 32, 8, 1, maskC (2 ^ 48 - 1) anyC⟩,
     ⟨no + 5, at_ + 40, 8, 1, eaxcC⟩, ⟨no + 6, at_ + 48, 8, 1, enumC (· ≤ 2) 2⟩, ⟨no + 7, at_ + 56, 8, 1, enumC (· ≤ 3) 3⟩,
     ⟨no + 8, at_ + 64, 8, 1, numC 0 65535⟩]

/-- A port with the fields of its lane. -/
def portOf (x : Port) (r : Bytes) (lane : Nat) : Port :=
  let g := fun i => fld r (8 + 72 * lane + 8 * i) 8
  { x with
    speedMask := BitVec.ofNat 8 (g 0), an := g 1 == 1, fec25 := g 2, mtu := g 3, mac := BitVec.ofNat 48 (g 4),
    eaxcWidths := [bits (g 5) 0 8, bits (g 5) 8 8, bits (g 5) 16 8, bits (g 5) 24 8], macsecMode := g 6, cipher := g 7,
    replayWindow := g 8 }

/-- Apply one quad record: the ports of a quad whose layout changes go down, as do ports whose rate is no longer offered. -/
def applyQuad (s : State) (q : Fin 2) (r : Bytes) : State :=
  let mode : Fin 4 := ⟨fld r 0 8 % 4, by omega⟩
  let lanes := (List.finRange 8).filter fun p => p.val / 4 == q.val
  let s1 := if s.fe.quadMode[q] = mode then s else lanes.foldl (fun s p => downPort p s) s
  let s2 := lanes.foldl (fun s p => s.setPort p fun x => portOf x r (p.val % 4))
    (s1.setFe fun e => { e with quadMode := vmod e.quadMode q fun _ => mode })
  lanes.foldl (fun s p => if (s.port p.val).up && !rateOffered s p.val (s.port p.val).rate then downPort p s else s) s2

/-- FH_CONFIG (R287 to R294): answers the port states, up and rate of each lane. -/
def doFhConfig (c : Cmd) (s : State) : CmdOut :=
  if !cplAt c.params 0 296 || !cplAt c.params 592 296 then .fail s 0x0005
  else
    let (a, ra) := checkFields 0 quadFields (slice c.params 0 296)
    let (b, rb) := checkFields 1 quadFields (slice c.params 592 296)
    let s1 := applyQuad (applyQuad s 0 a) 1 b
    { st := s1, body := join8 ((List.range 8).flatMap fun p => [(s1.port p).up.toNat, (s1.port p).rate]), rep := ra ++ rb }

def execFhConfig (c : Cmd) (s : State) : Host.Outcome State Fault Refusal :=
  .next (shortCmd 0x13 false (exactLen 1184) doFhConfig c s)

/-! ### MACsec associations (R305) -/

/-- MKA_KEY_DISTRIBUTE: the transmit side moves to the new association; the receive side keeps the old one beside it. It
needs a connectivity association key. -/
def mkaKeyDistribute (p : Fin 8) (sci : Nat) (an : Fin 4) (s : State) : State :=
  let x := s.port p.val
  if x.cak.isEmpty || x.macsecMode == 0 then s
  else s.setPort p fun x =>
    { x with
      rxOld := x.rxSas.filter (·.sci == sci) ++ x.rxOld.filter (·.sci != sci)
      rxSas := (x.rxSas.filter (·.sci != sci) ++ [({ sci := sci, an := an } : RxSa)]).drop
        (if 8 ≤ (x.rxSas.filter (·.sci != sci)).length then 1 else 0)
      txAn := an, txPn := 1 }

def execMkaKeyDistribute (p : Fin 8) (sci : Nat) (an : Fin 4) (s : State) : Host.Outcome State Fault Refusal :=
  .next (mkaKeyDistribute p sci an s)

/-- The tick at which the next old association of a port is no longer accepted: 1 s after the first valid frame under the newer one
of its channel. -/
def Port.retireAt (p : Port) : Option Nat := ((p.rxOld.filterMap (·.since)).min?).map (· + usTicks 1000000)

/-- SA_RETIRE: the old associations whose second has passed are no longer accepted (R305). -/
def saRetire (p : Fin 8) (s : State) : State :=
  match (s.port p.val).retireAt with
  | none => s
  | some t => (s.advanceTo t).setPort p fun x =>
      { x with rxOld := x.rxOld.filter fun a => match a.since with | some u => decide (t < u + usTicks 1000000) | none => true }

def execSaRetire (p : Fin 8) (s : State) : Host.Outcome State Fault Refusal := .next (saRetire p s)

/-! ### Modules (R307 to R312) -/

def State.setCage (s : State) (i : Fin 8) (f : Cage → Cage) : State :=
  s.setFe fun e => { e with cages := vmod e.cages i f }

/-- OUI, part number and serial number of an identified module (R308). -/
def Cage.oui (c : Cage) : Bytes := slice c.page0 145 3
def Cage.part (c : Cage) : Bytes := slice c.page0 148 16
def Cage.serial (c : Cage) : Bytes := slice c.page0 166 16

/-- The identity that an event reports: vendor name to date code. -/
def Cage.identity (c : Cage) : Bytes := slice c.page0 129 61

/-- The allow-list has the module (R309): a serial of all spaces matches any. -/
def State.listed (s : State) (c : Cage) : Bool :=
  c.identified && s.fe.allow.any fun e => e.1 == c.oui && e.2.1 == c.part
    && (e.2.2 == c.serial || e.2.2 == List.replicate 16 0x20)

/-- Decide one module (R309). -/
def evaluateCage (i : Fin 8) (s : State) : State :=
  let c := s.fe.cages[i]
  let mode := s.fe.quarantineMode.val
  if !c.present || !(c.ready || c.decided) then s
  else if mode = 0 ∨ s.listed c then
    let s1 := if c.quarantined then s.emit (.moduleCtl i.val false) else s
    s1.setCage i fun c => { c with decided := true, quarantined := false, unlisted := false }
  else if mode = 1 then
    let s1 := if c.quarantined then s.emit (.moduleCtl i.val false) else s
    let s2 := s1.setCage i fun c => { c with decided := true, quarantined := false, unlisted := true }
    if c.unlisted then s2 else s2.event 0x0C i.val (toLE 2 i.val ++ c.identity)
  else if c.quarantined then s
  else
    let s1 := (downPort i (s.emit (.moduleCtl i.val true))).setCage i fun c =>
      { c with decided := true, quarantined := true, unlisted := false }
    s1.event 0x0D i.val (toLE 2 i.val ++ c.identity)

/-- MODULE_EVALUATE (R309): every present module. -/
def execModuleEvaluate (s : State) : Host.Outcome State Fault Refusal :=
  .next ((List.finRange 8).foldl (fun s i => evaluateCage i s) s)

/-- MODULE_INSERT (R308): a module becomes present; its port waits for the check. -/
def execModuleInsert (cage : Fin 8) (s : State) : Host.Outcome State Fault Refusal :=
  .next (if (s.fe.cages[cage]).present then s else (downPort cage s).setCage cage fun _ => { present := true })

/-- The checksum of bytes 128 to 221 in byte 222 (R308). -/
def pageGood (upper : Bytes) : Bool :=
  ((upper.take 94).map (·.toNat)).sum % 256 == ((upper[94]?).getD 0).toNat

/-- The table entry of a serial. -/
def State.moduleOf (s : State) (serial : Bytes) : Option ModuleEntry := s.fe.modules.find? (·.serial == serial)

def State.setModule (s : State) (serial : Bytes) (f : ModuleEntry → ModuleEntry) : State :=
  s.setFe fun e => { e with modules := e.modules.map fun m => if m.serial = serial then f m else m }

/-- The entry absent longest. -/
def longestAbsent (l : List ModuleEntry) : Option ModuleEntry :=
  (sortBy (fun a b => decide (a.absentAt ≤ b.absentAt)) (l.filter fun m => m.absentAt != 0)).head?

/-- Enter a serial: present from now on; a new one replaces the entry absent longest where the table is full (R310). -/
def enterModule (s : State) (serial : Bytes) : State :=
  match s.moduleOf serial with
  | some _ => s.setModule serial fun m => { m with absentAt := 0 }
  | none =>
    s.setFe fun e =>
      let l := if e.modules.length < 32 then e.modules else match longestAbsent e.modules with
        | some m => e.modules.erase m
        | none => e.modules
      if l.length < 32 then { e with modules := l ++ [{ serial := serial }] } else e

/-- MODULE_IDENTIFY (R308): Lower and Upper Page 00h are read; a bad checksum leaves the module unidentified. -/
def moduleIdentify (i : Fin 8) (lower upper : Bytes) (s : State) : State :=
  if !(s.fe.cages[i]).present then s
  else
    let ok := pageGood upper
    let s1 := s.setCage i fun c => { c with ready := true, identified := ok, page0 := slice lower 0 128 ++ slice upper 0 128 }
    evaluateCage i (if ok then enterModule s1 (s1.fe.cages[i]).serial else s1)

def execModuleIdentify (cage : Fin 8) (lower upper : Bytes) (s : State) : Host.Outcome State Fault Refusal :=
  .next (moduleIdentify cage lower upper s)

/-- MODULE_READY_TIMEOUT (R308): no answer within 2 s leaves the module unidentified. -/
def execModuleReadyTimeout (cage : Fin 8) (s : State) : Host.Outcome State Fault Refusal :=
  let c := s.fe.cages[cage]
  .next (if !c.present || c.ready || c.decided then s
    else evaluateCage cage (s.setCage cage fun c => { c with decided := true }))

/-- MODULE_REMOVE (R308, R310): the cage is empty; the module's entry counts as absent from now on. -/
def moduleRemove (i : Fin 8) (s : State) : State :=
  let c := s.fe.cages[i]
  if !c.present then s
  else
    let s1 := (downPort i s).setCage i fun _ => {}
    if c.identified then
      (s1.setFe fun e => { e with absentSeq := e.absentSeq + 1 }).setModule c.serial fun m =>
        { m with absentAt := s.fe.absentSeq + 1 }
    else s1

def execModuleRemove (cage : Fin 8) (s : State) : Host.Outcome State Fault Refusal := .next (moduleRemove cage s)

/-- A module counts its hours: it is present, in ModuleReady and identified (R310). -/
def Cage.counts (c : Cage) : Bool := c.present && c.ready && c.identified

/-- POWER_ON_MINUTE (R310). -/
def execPowerOnMinute (cage : Fin 8) (s : State) : Host.Outcome State Fault Refusal :=
  let c := s.fe.cages[cage]
  .next (if c.counts then s.setModule c.serial fun m => { m with minutes := m.minutes + 1 } else s)

/-- BIAS_SAMPLE (R311): the bias of each lane in use as Page 11h has it, in units of 2 µA times the multiplier that Page 01h
advertises. -/
def biasSample (i : Fin 8) (mult : Nat) (bias : List (BitVec 16)) (s : State) : State :=
  let c := s.fe.cages[i]
  if c.counts then s.setModule c.serial fun m =>
    { m with readings := ((List.range bias.length).zip bias).foldl (fun t p => tmod t p.1 [] (mult * p.2.toNat :: ·)) m.readings }
  else s

def execBiasSample (cage : Fin 8) (bias : BiasReading) (s : State) : Host.Outcome State Fault Refusal :=
  .next (biasSample cage bias.mult bias.lanes s)

/-- A mean of (sum, count). -/
def ratOf (x : Nat × Nat) : Rat := if x.2 = 0 then 0 else (x.1 : Rat) / (x.2 : Rat)

def meanRat (l : List Rat) : Rat := if l.isEmpty then 0 else l.foldl (· + ·) 0 / (l.length : Rat)

/-- The baseline of a lane, once its 24 hourly means are there (R311). -/
def laneBase (m : ModuleEntry) (lane : Nat) : Option Rat :=
  let b := (tget m.baseline lane []).map ratOf
  if b.length < 24 then none else some (meanRat b)

/-- Drift of a lane in per cent at one of its hourly means. -/
def laneDrift (base mean : Rat) : Rat := if base = 0 then 0 else (mean - base) / base * 100

/-- The module's drift by hour, newest first: that of its worst lane (R311). Before the baseline is complete there is none
(DEDUCED, log entry 43). -/
def hourlyDrift (m : ModuleEntry) : List Rat :=
  let lanes := m.means.filterMap fun p => (laneBase m p.1).map fun b => p.2.map fun x => laneDrift b (ratOf x)
  let n := (lanes.map (·.length)).foldl Nat.max 0
  (List.range n).map fun h =>
    let l := lanes.filterMap fun d => d[h]?
    match l with
    | [] => 0
    | a :: r => r.foldl max a

/-- Least-squares slope per hour of a drift history, newest first. -/
def slopeOf (l : List Rat) : Rat :=
  let y := l.reverse
  let n : Rat := (y.length : Rat)
  let xs := (List.range y.length).map fun i : Nat => (i : Rat)
  let mx := meanRat xs
  let my := meanRat y
  let num := ((xs.zip y).map fun p => (p.1 - mx) * (p.2 - my)).foldl (· + ·) 0
  let den := (xs.map fun x => (x - mx) * (x - mx)).foldl (· + ·) 0
  if n < 2 ∨ den = 0 then 0 else num / den

/-- Remaining life in hours, rounded down (R312). -/
def remainingLife (s : State) (m : ModuleEntry) : Nat :=
  let byHours : Rat := (s.fe.ratedHours : Rat) - (m.minutes : Rat) / 60
  let d := hourlyDrift m
  let k := slopeOf d
  let v := if k ≤ 0 then byHours else min byHours (((s.fe.driftEol : Rat) - d.headD 0) / k)
  if v < 0 then 0 else v.floor.toNat

/-- Close the hour of each lane: its mean joins the history and, while it is short, the baseline. -/
def closeHour (m : ModuleEntry) : ModuleEntry :=
  m.readings.foldl (fun (m : ModuleEntry) p =>
    if p.2.isEmpty then m
    else
      let x := (p.2.sum, p.2.length)
      let b := tget m.baseline p.1 []
      { m with
        means := tset m.means p.1 ((x :: tget m.means p.1 []).take 720)
        baseline := if b.length < 24 then tset m.baseline p.1 (b ++ [x]) else m.baseline }) { m with readings := [] }

/-- LIFE_UPDATE (R311, R312): hourly; MODULE_LIFE is raised once. -/
def lifeUpdate (i : Fin 8) (s : State) : State :=
  let c := s.fe.cages[i]
  if !c.counts then s
  else match s.moduleOf c.serial with
    | none => s
    | some m =>
      let m1 := closeHour m
      let life := remainingLife s m1
      let low := decide (life ≤ s.fe.lifeWarn)
      let s1 := s.setModule c.serial fun _ => { m1 with lifeRaised := m1.lifeRaised || low }
      if low && !m.lifeRaised then s1.event 0x0E i.val (toLE 4 i.val ++ toLE 4 life) else s1

def execLifeUpdate (cage : Fin 8) (s : State) : Host.Outcome State Fault Refusal := .next (lifeUpdate cage s)

/-- MODULE_FLAG (R312): a CMIS alarm or warning flag passes to the host. -/
def execModuleFlag (cage : Fin 8) (flags : Byte) (s : State) : Host.Outcome State Fault Refusal :=
  .next (if (s.fe.cages[cage]).present then s.event 0x0F cage.val (toLE 4 cage.val ++ toLE 4 flags.toNat) else s)

/-! ### Module commands -/

/-- MODULE_READ (R307): cage, page, offset and length, 8 bytes each. Pages other than 00h are read from the module: their
bytes are free values. -/
def doModuleRead (c : Cmd) (s : State) : CmdOut :=
  let cage := par8 c.params 0
  let page := par8 c.params 1
  let off := par8 c.params 2
  let len := par8 c.params 3
  match s.fe.cages.toList[cage]? with
  | none => .fail s 0x0007
  | some x =>
    if !x.present || !([0, 1, 2, 0x11].contains page) || decide (256 < off + len) then .fail s 0x0007
    else if page = 0 && x.ready then { st := s, body := slice x.page0 off len }
    else
      let (d, s1) := s.draw
      { st := s1, body := toLE len (Config.fresh d) }

def execModuleRead (c : Cmd) (s : State) : Host.Outcome State Fault Refusal :=
  .next (shortCmd 0x41 false (exactLen 32) doModuleRead c s)

/-- The head of MODULE_POLICY: QUARANTINE_MODE, RATED_HOURS, DRIFT_EOL, LIFE_WARN_HOURS, number of entries (DESIGN CHOICE, log entry 8). -/
def policyFields : List FSpec :=
  [⟨1, 0, 8, 1, enumC (· ≤ 2) 2⟩, ⟨2, 8, 8, 1, numC 1000 1000000⟩, ⟨3, 16, 8, 1, numC 10 100⟩,
   ⟨4, 24, 8, 1, numC 0 100000⟩, ⟨5, 32, 8, 1, numC 0 64⟩]

/-- MODULE_POLICY (R309, R312): the head and 40-byte entries (OUI 3, part number 16, serial number 16, 5 zero), each followed
by its complement as one record. -/
def doModulePolicy (c : Cmd) (s : State) : CmdOut :=
  let size := c.params.length / 2
  if !cplAt c.params 0 size then .fail s 0x0005
  else
    let (h, rep) := checkFields 0 policyFields (slice c.params 0 40)
    let n := min (par8 h 4) ((size - 40) / 40)
    let allow := (List.range n).map fun i =>
      let b := slice c.params (40 + 40 * i) 40
      (b.take 3, slice b 3 16, slice b 19 16)
    let mode : Fin 3 := ⟨par8 h 0 % 3, by omega⟩
    let s1 := s.setFe fun e =>
      { e with quarantineMode := mode, allow := allow, ratedHours := par8 h 1, driftEol := par8 h 2, lifeWarn := par8 h 3 }
    { st := s1, rep := rep }

def execModulePolicy (c : Cmd) (s : State) : Host.Outcome State Fault Refusal :=
  .next (shortCmd 0x42 false (fun l => decide (80 ≤ l ∧ l ≤ 5216)) doModulePolicy c s)

/-- An entry of the module table as saved: serial 16, minutes 8, UNSEEDED 8 (DESIGN CHOICE, log entry 8). -/
def moduleRecord (m : ModuleEntry) : Bytes := slice m.serial 0 16 ++ toLE 8 m.minutes ++ toLE 8 m.unseeded.toNat

/-- Take one saved entry: the host supplies its hours (R310). -/
def restoreModule (s : State) (b : Bytes) : State :=
  let serial := slice b 0 16
  let s1 := match s.moduleOf serial with
    | some _ => s
    | none =>
      let s1 := enterModule s serial
      (s1.setFe fun e => { e with absentSeq := e.absentSeq + 1 }).setModule serial fun m =>
        { m with absentAt := s.fe.absentSeq + 1 }
  s1.setModule serial fun m => { m with minutes := fld b 16 8, unseeded := false }

/-- MODULE_TABLE (R310): direction 0 saves the table to the output buffer, 1 restores the entries that follow. -/
def doModuleTable (c : Cmd) (s : State) : CmdOut :=
  if par8 c.params 0 = 0 then { st := s, outb := s.fe.modules.flatMap moduleRecord }
  else
    let n := min 32 ((c.params.length - 8) / 32)
    { st := (List.range n).foldl (fun s i => restoreModule s (slice c.params (8 + 32 * i) 32)) s }

def execModuleTable (c : Cmd) (s : State) : Host.Outcome State Fault Refusal :=
  .next (shortCmd 0x43 false (fun l => decide (8 ≤ l ∧ l ≤ 1040)) doModuleTable c s)

/-! ### FH_STATS (R313) -/

/-- The counters of a scope: 0 chip, 1 port, 2 cell, 3 eAxC entry, in the order of Table 13-8 (DESIGN CHOICE, log entry 8). -/
def scopeCtrs (scope : Nat) : List FeCtr :=
  match scope with
  | 0 => [.ingressOverflow]
  | 1 => [.frameBad, .fecUncorr, .pauseRx, .macNotValid, .macLate, .macNoSa, .macUntagged, .ecpriBad, .eaxcUnknown]
  | 2 => [.unrequested, .duplicate, .early, .lateArrival, .compMismatch, .bfpClamp, .lateTx, .realign, .slotRecordLate]
  | _ => [.seqGap]

/-- Places of a scope. -/
def scopeSize (scope : Nat) : Nat := match scope with | 0 => 1 | 1 => 8 | 2 => 64 | _ => 2048

/-- FH_STATS: scope, index and CLEAR, 8 bytes each. -/
def doFhStats (c : Cmd) (s : State) : CmdOut :=
  let scope := par8 c.params 0
  let i := par8 c.params 1
  if 3 < scope ∨ scopeSize scope ≤ i then .fail s 0x0007
  else
    let keys := (scopeCtrs scope).map fun x => x.key i
    let body := join8 (keys.map fun k => (tget s.fe.ctrs k 0).toNat)
    let s1 := if bit (par8 c.params 2) 0 then s.setFe fun e => { e with ctrs := e.ctrs.filter fun p => !keys.contains p.1 } else s
    { st := s1, body := body }

def execFhStats (c : Cmd) (s : State) : Host.Outcome State Fault Refusal :=
  .next (shortCmd 0x40 false (exactLen 24) doFhStats c s)

end Sys2Proof.Machine
end

