-- ==== Sys2Proof/Machine/Power.lean ====
section
/-!
DEFINITION. Clocks, power states and throttling (R404 to R412, R429, R445).
-/

namespace Sys2Proof.Machine
open Sys2Proof

/-! ### Throttle causes (R410, Table 18-4) -/

/-- A sensor's reading in °C. -/
def celsius (t : BitVec 8) : Int := t.toInt

/-- The hottest sensor (R429). -/
def Power.hottest (p : Power) : Int := p.sensors.toList.foldl (fun m t => max m (celsius t)) (-128)

/-- One step slower than the step in force. -/
def Power.slower (p : Power) : Fin 3 := if p.step.val = 0 then 1 else 2

/-- What a cause asks for: 0 THERMAL, 1 POWER, 2 CURRENT. -/
def Power.ask (p : Power) (c : Fin 3) : Fin 3 :=
  match c.val with
  | 0 => p.askThermal
  | 1 => p.askPower
  | _ => p.askCurrent

/-- Change what a cause asks for. -/
def Power.setAsk (p : Power) (c : Fin 3) (v : Fin 3) : Power :=
  match c.val with
  | 0 => { p with askThermal := v }
  | 1 => { p with askPower := v }
  | _ => { p with askCurrent := v }

/-- Judge a cause: its condition to step down makes it ask for one step slower; the time from which its condition to step up
has held is kept, and ends when the condition does. -/
def Power.judge (p : Power) (now : Nat) (c : Fin 3) (down up : Bool) : Power :=
  let p1 := if down then p.setAsk c (if (p.ask c).val ≤ p.slower.val then p.slower else p.ask c) else p
  let since := if up && !down then (match p.upSince[c] with | some t => some t | none => some now) else none
  { p1 with upSince := p1.upSince.set c since }

/-- The step that the causes and the host's floor ask for: the slowest (R410). -/
def Power.target (p : Power) : Nat := max (max p.askThermal.val p.askPower.val) (max p.askCurrent.val p.floor.val)

/-- THROTTLE_STATE.ASKING: THERMAL, POWER, CURRENT, HOST. -/
def Power.asking (p : Power) : Nat :=
  (decide (p.askThermal ≠ 0)).toNat + 2 * (decide (p.askPower ≠ 0)).toNat + 4 * (decide (p.askCurrent ≠ 0)).toNat
    + 8 * (decide (p.floor ≠ 0)).toNat

/-- ALERT_N is low while THERMAL, POWER or CURRENT asks (R445). -/
def Power.alertN (p : Power) : Bool := p.asking % 8 == 0

/-- THERMTRIP_N is low while the trip holds the device in reset (R445). -/
def State.thermtripN (s : State) : Bool := !s.boot.tripHold

/-- The causes are judged by an AON tick; the manager is out of reset. -/
def State.managed (s : State) : Bool := s.boot.pwrGood && !s.boot.perst && !s.boot.tripHold && !s.boot.extestHold

/-- Readings of the sensors for the THERMAL cause: above 105 °C it asks; at 100 °C or less on every sensor its hold runs. -/
def thermalReadings (t : Vector (BitVec 8) 8) (s : State) : State :=
  let s1 := s.setPower fun p => { p with sensors := t }
  if s1.managed then
    s1.setPower fun p => p.judge s.ticks.toNat 0 (decide (105 < p.hottest)) (decide (p.hottest ≤ 100))
  else s1

/-- POWER_WINDOW_END (R38, R410, R429): the mean over 1 ms in 1/256 W; above 60 W POWER asks, and at 57 W or less the holds of
POWER and CURRENT run. -/
def powerWindowEnd (mean : BitVec 16) (s : State) : State :=
  if s.managed then
    s.setPower fun p =>
      let low := decide (mean.toNat ≤ 57 * 256)
      (({ p with meanPower := mean }).judge s.ticks.toNat 1 (decide (60 * 256 < mean.toNat)) low).judge s.ticks.toNat 2 false low
  else s

def execPowerWindowEnd (mean : BitVec 16) (s : State) : Host.Outcome State Fault Refusal := .next (powerWindowEnd mean s)

/-- IMON_SAMPLE (R445): two consecutive samples above 66 A make CURRENT ask. -/
def imonSample (milliamp : Nat) (s : State) : State :=
  if s.managed then
    s.setPower fun p =>
      let exceeds := decide (66000 < milliamp)
      let p1 := if exceeds && p.imonOver then
          { p.setAsk 2 (if (p.ask 2).val ≤ p.slower.val then p.slower else p.ask 2) with upSince := p.upSince.set 2 none }
        else p
      { p1 with imonOver := exceeds }
  else s

def execImonSample (milliamp : Nat) (s : State) : Host.Outcome State Fault Refusal := .next (imonSample milliamp s)

/-- THROTTLE_HOLD_EXPIRY (R410): the condition to step up has held for 10 ms, and the cause stops asking. -/
def throttleHoldExpiry (c : Fin 3) (s : State) : State :=
  match s.power.upSince[c] with
  | some t =>
    if s.power.ask c = 0 then s
    else (s.advanceTo (t + usTicks 10000)).setPower fun p => { p.setAsk c 0 with stopped := c.val + 1 }
  | none => s

def execThrottleHoldExpiry (cause : Fin 3) (s : State) : Host.Outcome State Fault Refusal :=
  .next (throttleHoldExpiry cause s)

/-! ### Step changes (R409, R410) -/

/-- The cause whose request makes a change to a slower step: the first of Table 18-4 that asks for more than the step in force. -/
def Power.mover (p : Power) : Nat :=
  if p.step < p.askThermal then 1 else if p.step < p.askPower then 2 else if p.step < p.askCurrent then 3 else 4

/-- Put a step in force: counted, with the code of the cause, and THROTTLE raised (Table 16-11). -/
def setStep (v : Fin 3) (cause : Nat) (s : State) : State :=
  (s.setPower fun p => { p with step := v, causeLast := cause, changes := p.changes + 1 }).event 0x17 0
    (toLE 4 v.val ++ toLE 4 cause)

/-- THROTTLE_STEP_CHANGE: one step towards the slowest step asked for; towards step 0 at most one step in any 10 ms. -/
def throttleStepChange (s : State) : State :=
  let p := s.power
  if !s.managed then s
  else if p.step.val < p.target then setStep p.slower p.mover s
  else if p.target < p.step.val then
    let s1 := match p.lastUp with | some t => s.advanceTo (t + usTicks 10000) | none => s
    let v : Fin 3 := if p.step.val = 2 then 1 else 0
    setStep v p.stopped (s1.setPower fun x => { x with lastUp := some s1.ticks.toNat })
  else s

def execThrottleStepChange (s : State) : Host.Outcome State Fault Refusal := .next (throttleStepChange s)

/-! ### Clock domains and PLLs (R37, R404, R405, Tables 2-6 and 18-1) -/

/-- The PLL that feeds a clock domain, by the domain's number in the order of Table 2-6: 0 ARRAY, 1 CORE, 2 CTRL, 3 DDR; none for
the AON domain and for the SerDes clocks. -/
def pllOf (d : Nat) : Option Nat :=
  if d = 0 then none
  else if d < 97 then some (if (d - 1) % 6 < 3 then 0 else 1)
  else if d < 129 then some 1
  else if d < 148 then some 2
  else if d < 172 then none
  else if d < 185 then some 2
  else if d < 197 then some (if (d - 185) % 3 = 0 then 3 else 2)
  else if d < 221 then some 1
  else if d < 235 then none
  else some 2

/-- A leaf is live on a core that a clock domain serves: it has work. -/
def domainBusy (s : State) (d : Nat) : Bool :=
  let live := fun (c : Nat) => match s.cores.toList[c]? with | some x => x.leaf.isSome | none => false
  if d = 0 then true
  else if d < 97 then live ((d - 1) / 12)
  else if d < 113 then live ((d - 97) / 2)
  else if d < 129 then live (2 * ((d - 113) / 4)) || live (2 * ((d - 113) / 4) + 1)
  else false

/-- DOMAIN_GATE (R405): a domain without work is gated; the AON domain never is (R404). -/
def domainGate (d : Fin 244) (s : State) : State :=
  if domainBusy s d.val || s.power.gated.contains d.val then s
  else s.setPower fun p => { p with gated := d.val :: p.gated }

def execDomainGate (d : Fin 244) (s : State) : Host.Outcome State Fault Refusal := .next (domainGate d s)

/-- PLL_STANDBY (R405, Table 18-2): in QUIET, for PLL_ARRAY and PLL_CORE with all their domains gated. -/
def pllStandby (p : Fin 4) (s : State) : State :=
  let all := (List.range 244).filter fun d => pllOf d == some p.val
  if s.power.state = .quiet ∧ p.val < 2 ∧ all.all s.power.gated.contains ∧ !s.power.pllStandby.contains p.val then
    s.setPower fun x => { x with pllStandby := p.val :: x.pllStandby }
  else s

def execPllStandby (p : Fin 4) (s : State) : Host.Outcome State Fault Refusal := .next (pllStandby p s)

/-- DOMAIN_WAKE (R37, R405): the domain is clocked again, and its PLL runs where the power state lets it. -/
def domainWake (d : Fin 244) (s : State) : State :=
  if s.lanesOn then
    s.setPower fun x =>
      { x with gated := x.gated.filter (· != d.val), pllStandby := x.pllStandby.filter fun p => some p != pllOf d.val }
  else if (match pllOf d.val with | some p => s.power.pllStandby.contains p | none => false) then s
  else s.setPower fun x => { x with gated := x.gated.filter (· != d.val) }

def execDomainWake (d : Fin 244) (s : State) : Host.Outcome State Fault Refusal := .next (domainWake d s)

/-! ### Power states (R406 to R408) -/

/-- TELEMETRY_READ (R367, R406): mean power, hottest sensor, throttle step, power state. -/
def doTelemetryRead (_c : Cmd) (s : State) : CmdOut :=
  { st := s, body := join8 [s.power.meanPower.toNat, lowBits 8 s.power.hottest, s.power.step.val, s.power.state.code] }

def execTelemetryRead (c : Cmd) (s : State) : Host.Outcome State Fault Refusal :=
  .next (shortCmd 0x50 false (exactLen 0) doTelemetryRead c s)

/-- Fronthaul and stitch lanes lose power. -/
def State.lanesDown (s : State) : State :=
  (List.finRange 4).foldl State.linkDown ((List.finRange 8).foldl (fun s p => downPort p s) s)

/-- STATE and FLOOR_STEP, 8 bytes each (DESIGN CHOICE, log entry 8). -/
def powerFields : List FSpec := [⟨1, 0, 8, 1, enumC (· ≤ 1) 0⟩, ⟨2, 8, 8, 1, numC 0 2⟩]

/-- A quire is live: it has started or waits, and has not ended. -/
def State.quireLive (s : State) : Bool := s.quires.any fun p => p.2.state != .ended && p.2.state != .faulted

/-- A floor lowered stops HOST's asking. -/
def setFloor (v : Nat) (p : Power) : Power :=
  let f : Fin 3 := if v = 0 then 0 else if v = 1 then 1 else 2
  { p with floor := f, stopped := if f < p.floor then 4 else p.stopped }

/-- POWER_STATE (R407, R418): STANDBY is refused while a cell is placed or a quire is live; ACTIVE lets the lanes train. -/
def doPowerState (c : Cmd) (_snap : Bytes) (s : State) : CmdOut :=
  if !cplAt c.params 0 16 then .fail s 0x0005
  else
    let (r, rep) := checkFields 0 powerFields (slice c.params 0 16)
    if par8 r 0 = 1 then
      if s.quireLive || s.cfg.cells.any fun p => p.2.placed || p.2.waitFull then .fail s 0x0009
      else
        let coding := (List.range 19).map (129 + ·)
        let s1 := (s.lanesDown).setPower fun p =>
          { setFloor (par8 r 1) p with
            state := .standby, pllStandby := [0, 1], gated := coding ++ p.gated.filter (!coding.contains ·) }
        { st := s1, rep := rep }
    else
      let s1 := s.setPower (setFloor (par8 r 1))
      if s.power.state = .standby then
        { st := ((s1.setPower fun p => { p with state := .quiet, pllStandby := [] }).autoPower).relink, rep := rep }
      else { st := s1, rep := rep }

def execPowerState (c : Cmd) (s : State) : Host.Outcome State Fault Refusal :=
  .next (longCmd 0x51 false (exactLen 32) (fun _ => []) doPowerState c s)

/-- Cells as they are when every record has ACTIVE 0. -/
def unplaceAll (s : State) : State := applyCells s (s.cfg.poolCells.map fun p =>
  (p.1, if (asCell p.2).chip == s.chip then setFld p.2 4 1 0 else p.2))

/-- D3HOT_ENTRY (R408): cells are unplaced, quires end with QUIRE_CANCELLED, the host channels stop, and AON is entered. -/
def d3hotEntry (s : State) : State :=
  if s.power.state = .aon ∨ s.boot.state = .reset then s
  else
    let s1 := (unplaceAll s).spineChanged
    let s2 := s1.quires.foldl (fun s p => faultQuire s p.2.tag 0x65) s1
    let s3 := (s2.lanesDown).stopDma
    (s3.setPower fun p => { p with state := .aon, pllStandby := [0, 1, 2, 3] }).setHost fun h => { h with d3hot := true }

def execD3hotEntry (s : State) : Host.Outcome State Fault Refusal := .next (d3hotEntry s)

/-- D0_RETURN (R406, R408): the PLLs run again, the lanes train, and what waits for the host is posted. -/
def d0Return (s : State) : State :=
  if s.power.state = .aon then
    let s1 := (s.setPower fun p => { p with state := .quiet, pllStandby := [] }).setHost fun h => { h with d3hot := false }
    (s1.autoPower.relink).drainRsp.drainSpc
  else s

def execD0Return (s : State) : Host.Outcome State Fault Refusal := .next (d0Return s)

end Sys2Proof.Machine
end

