-- ==== Sys2Proof/Machine/Security.lean ====
section
/-!
DEFINITION. The root of trust (R385 to R402): bundle manifests and their tests, FW_STAGE, certificates, attestation, key
blobs, and the SPDM responder.
-/

namespace Sys2Proof.Machine
open Sys2Proof

/-! ### Bundle manifests (R387, R388, Tables 17-2 and 17-3) -/

/-- What a slot of the flash reads at an offset: erased bytes read as all ones. -/
def flashRead (img : Bytes) (off n : Nat) : Bytes :=
  let r := (img.drop off).take n
  r ++ List.replicate (n - r.length) 0xFF

/-- Entry `i` of IMAGES: DEST, FLASH_OFFSET, LENGTH, LOAD_OFFSET and DIGEST. -/
def imageEntry (m : Bytes) (i : Nat) : Nat × Nat × Nat × Nat × Bytes :=
  let o := 0x40 + 48 * i
  (fld m o 1, fld m (o + 4) 4, fld m (o + 8) 4, fld m (o + 12) 4, slice m (o + 16) 32)

/-- An image lies in its slot and loads inside its destination: Binder memory or DDR5. -/
def imageFits (ddr : Nat) (m : Bytes) (i : Nat) : Bool :=
  let (dest, at_, len, load, _) := imageEntry m i
  decide (dest ≤ 1) && fld m (0x41 + 48 * i) 3 == 0 && decide (at_ + len ≤ 0x1000000)
    && decide (load + len ≤ if dest = 0 then 0x200000 else ddr)

/-- Magic, format and every range of Table 17-2. -/
def manifestOk (ddr : Nat) (m : Bytes) : Bool :=
  let n := fld m 0x14 4
  let flags := fld m 7 1
  fld m 0 4 == 0x4D555342 && fld m 4 2 == 1 && decide (fld m 6 1 ≤ 1)
    && (flags == 0 || (flags == 1 && fld m 6 1 == 1))
    && decide (fld m 8 4 ≤ 64) && decide (fld m 0xC 4 ≤ 64) && decide (1 ≤ n ∧ n ≤ 16) && fld m 0x18 8 == 0
    && (List.range n).all (imageFits ddr m)
    && (slice m (0x40 + 48 * n) (48 * (16 - n))).all (· == 0)

/-- The signing key is the one that KEY_SLOT's fuse hash names, and key 0 is not revoked. -/
def signerOk (f : Fuses) (m : Bytes) : Bool :=
  let h := digest256 (slice m 0x340 1952)
  if fld m 6 1 = 0 then h == Config.fwHash0 && !f.key0Revoked else h == Config.fwHash1

/-- The bytes of the manifest that the signature covers, whose digest is the firmware measurement (R387). -/
def signedPart (m : Bytes) : Bytes := slice m 0 0xAE0

/-- The tests of R388 step 3 on a slot image: the code of the first that fails (Table 17-3). -/
def bundleFault (f : Fuses) (ddr : Nat) (img : Bytes) : Option Nat :=
  let m := flashRead img 0 6093
  if !manifestOk ddr m then some 0x11
  else if !signerOk f m then some 0x12
  else if !Config.mldsaVerify (slice m 0x340 1952) (ascii "UZY1632 firmware".toList) (signedPart m) (slice m 0xAE0 3309) then
    some 0x13
  else if fld m 8 4 < svnCount f.fwSvn then some 0x14
  else if (List.range (fld m 0x14 4)).all fun i =>
      let (_, at_, len, _, d) := imageEntry m i
      digest256 (flashRead img at_ len) == d then none
  else some 0x15

/-- A slot as the boot ROM finds it: erased, or tested. -/
def slotFault (f : Fuses) (ddr : Nat) (img : Bytes) : Option Nat :=
  if (flashRead img 0 6093).all (· == 0xFF) then some 0x10 else bundleFault f ddr img

/-! ### FW_STAGE (R389) -/

/-- The PREFER word that selects a slot. -/
def preferWord (slotB : Bool) : BitVec 32 := if slotB then 0xA5A50001 else 0xA5A50000

/-- FW_STAGE: the image goes to the slot that the running firmware did not boot from, then PREFER selects that slot. -/
def doFwStage (c : Cmd) (_snap : Bytes) (s : State) : CmdOut :=
  if s.host.lock then .fail s 0x000A
  else match bundleFault s.sec.fuses s.ddrBytes c.params with
    | some code => .fail s (if code = 0x14 then 0x0021 else 0x0020) code
    | none =>
      let toB := !s.boot.bootSlotB
      let f := s.sec.flash
      let f1 : Flash := if toB then { f with slotB := c.params } else { f with slotA := c.params }
      { st := s.setSec fun x => { x with flash := { f1 with prefer := preferWord toB } }
        body := join8 [fld c.params 8 4, fld c.params 0x10 4] ++ digest256 (signedPart c.params) }

def execFwStage (c : Cmd) (s : State) : Host.Outcome State Fault Refusal :=
  .next (longCmd 0x06 false (fun l => decide (0 < l ∧ l ≤ 0x1000000)) (fun _ => []) doFwStage c s)

/-! ### CERT_GET and ATTEST (R392, R394) -/

/-- CERT_GET: the chain in the output buffer, with status UNIDENTIFIED where the keys differ. -/
def doCertGet (_c : Cmd) (s : State) : CmdOut :=
  { st := s, status := if s.boot.identityMismatch then 0x0023 else 0, outb := s.sec.flash.certs.flatten }

def execCertGet (c : Cmd) (s : State) : Host.Outcome State Fault Refusal :=
  .next (shortCmd 0x03 true (exactLen 0) doCertGet c s)

/-- Bytes 0x0D0 to 0x0DF of the report: the fuse block. -/
def fuseBlock (s : State) : Bytes :=
  let f := s.sec.fuses
  toLE 4 (svnCount f.fwSvn) ++ toLE 4 (svnCount f.pkgSvn) ++ toLE 1 f.lifecycle.toNat ++ toLE 1 s.boot.bootSlotB.toNat
    ++ toLE 1 (f.jtagLock.toNat + 2 * f.key0Revoked.toNat) ++ toLE 1 (s.host.ideRequired.toNat + 2 * s.host.secure0.toNat)
    ++ toLE 4 s.host.lock.toNat

/-- One entry of MODELS: zero for an empty slot. -/
def modelEntry (m : Option Model) : Bytes :=
  match m with
  | none => zeros 96
  | some m =>
    let d := match m.versions.find? (·.number == m.active) with
      | some v => v.digest
      | none => zeros 32
    toLE 8 m.id.toNat ++ slice m.image 0x14 4 ++ toLE 4 m.active ++ slice m.image 0x40 32 ++ slice d 0 32 ++ zeros 16

/-- Bytes 0x000 to 0x7FF of the attestation report (Table 17-4), from the state as it stands. -/
def reportBytes (nonce : Bytes) (s : State) : Bytes :=
  let h := toLE 8 (2 ^ 56 + 5376 * 2 ^ 32)
  h ++ cpl h ++ slice nonce 0 32 ++ slice deviceKey 0 32 ++ slice Config.romDigest 0 32
    ++ digest256 (signedPart s.sec.manifest) ++ slice s.stitch.spine 0 32
    ++ (match s.sec.fuses.ownerRoot with | some r => slice r 0 32 | none => zeros 32)
    ++ fuseBlock s ++ zeros 32 ++ s.models.toList.flatMap modelEntry ++ zeros 256

/-- ATTEST: the report of the snapshot with its signature, padded to 3,328 bytes. -/
def doAttest (_c : Cmd) (snap : Bytes) (s : State) : CmdOut :=
  { st := s, outb := snap ++ slice (identitySign "UZY1632 attest".toList snap) 0 3309 ++ zeros 19 }

def execAttest (c : Cmd) (s : State) : Host.Outcome State Fault Refusal :=
  .next (longCmd 0x04 true (exactLen 32) (reportBytes c.params) doAttest c s)

/-! ### KEY_IMPORT (R395, R396, Table 17-5) -/

/-- USE known, reserved fields 0, and the fields of the USE inside their ranges. -/
def blobOk (b : Bytes) : Bool :=
  let use := fld b 0 1
  fld b 4 4 == 0 && fld b 0x494 4 == 0
    && (if use = 0 then (slice b 1 3).all (· == 0) && (slice b 8 0x4C0).all (· == 0)
        else use == 1 && decide (fld b 1 1 ≤ 7) && (fld b 2 1 == 16 || fld b 2 1 == 32)
          && decide (1 ≤ fld b 3 1 ∧ fld b 3 1 ≤ 32))

/-- The blob's own signature verifies under its SIGNER_PK. -/
def blobSigned (b : Bytes) : Bool :=
  Config.mldsaVerify (slice b 0x4C8 1952) (ascii "UZY1632 key".toList) (slice b 0 0xC68) (slice b 0xC68 3309)

/-- USE 0: the owner root is fused, and LIFECYCLE becomes OWNED (R395). -/
def importOwner (b : Bytes) (s : State) : CmdOut :=
  if s.sec.fuses.ownerRoot.isSome || s.host.lock then .fail s 0x000A
  else if !blobSigned b then .fail s 0x0020
  else
    let root := digest256 (slice b 0x4C8 1952)
    { st := s.setSec fun x => { x with fuses := { x.fuses with ownerRoot := some root, lifecycle := 3 } } }

/-- USE 1: a MACsec CAK and its name for a port (R396). -/
def importCak (b : Bytes) (s : State) : CmdOut :=
  match s.sec.fuses.ownerRoot with
  | none => .fail s 0x0009
  | some root =>
    if digest256 (slice b 0x4C8 1952) ≠ root then .fail s 0x0020
    else if !blobSigned b then .fail s 0x0020
    else if slice b 0x28 32 ≠ kemKeyId then .fail s 0x0022 1
    else match unwrapKey (slice b 0x48 1088) (slice b 0x488 12) (slice b 0x498 32) (slice b 0x4B8 16) (slice b 0 0x30) with
      | none => .fail s 0x0022 2
      | some key =>
        let p := fld b 1 1
        if h : p < 8 then
          { st := s.setFe fun f =>
              { f with ports := vmod f.ports ⟨p, h⟩ fun x =>
                { x with cak := slice key 0 (fld b 2 1), cakName := slice b 8 (fld b 3 1) } } }
        else .fail s 0x0002

/-- KEY_IMPORT. -/
def doKeyImport (c : Cmd) (s : State) : CmdOut :=
  if !blobOk c.params then .fail s 0x0002
  else if fld c.params 0 1 = 0 then importOwner c.params s
  else importCak c.params s

def execKeyImport (c : Cmd) (s : State) : Host.Outcome State Fault Refusal :=
  .next (shortCmd 0x05 false (· == 6485) doKeyImport c s)

/-! ### SPDM over DOE (R345, R393; codes and order under DSP0274) -/

def State.setSpdm (s : State) (f : Spdm → Spdm) : State := s.setSec fun x => { x with spdm := f x.spdm }

/-- An SPDM ERROR response with its code: 0x01 InvalidRequest, 0x04 UnexpectedRequest, 0x07 UnsupportedRequest,
0x06 DecryptError, 0x0A SessionLimitExceeded. -/
def spdmError (s : State) (code : Nat) : State := s.emit (.spdm 0x7F (toLE 1 code))

/-- A response of a code: the bytes that the manual names, then what the protocol adds. -/
def spdmReply (s : State) (code : Nat) (named request : Bytes) : State :=
  let (i, s1) := s.draw
  s1.emit (.spdm code (named ++ Config.spdmBody code request i))

/-- The responder serves a request once Busum runs; one that comes before its turn is answered with ERROR. -/
def spdmServe (s : State) (ready : Bool) (f : State → State) : State :=
  if !s.barServed then s else if ready then f s else spdmError s 4

/-- Version, capabilities and algorithms are agreed. -/
def Spdm.agreed (p : Spdm) : Bool := p.version && p.caps && p.algs

/-- GET_VERSION begins the exchange anew. -/
def execGetVersion (s : State) : Host.Outcome State Fault Refusal :=
  .next (spdmServe s true fun s => spdmReply (s.setSpdm fun _ => { version := true }) 0x04 [] [])

def execGetCapabilities (s : State) : Host.Outcome State Fault Refusal :=
  .next (spdmServe s s.sec.spdm.version fun s => spdmReply (s.setSpdm fun p => { p with caps := true }) 0x61 [] [])

/-- NEGOTIATE_ALGORITHMS: a requester that offers neither algorithm is answered with UnsupportedRequest. -/
def execNegotiateAlgorithms (mldsa mlkem : Bool) (s : State) : Host.Outcome State Fault Refusal :=
  .next (spdmServe s (s.sec.spdm.version && s.sec.spdm.caps) fun s =>
    if !mldsa && !mlkem then spdmError s 7
    else spdmReply (s.setSpdm fun p => { p with algs := true }) 0x63 [] (toLE 1 mldsa.toNat ++ toLE 1 mlkem.toNat))

/-- The chain of R392, certificate slot 0. -/
def State.chain (s : State) : Bytes := s.sec.flash.certs.flatten

def execGetDigests (s : State) : Host.Outcome State Fault Refusal :=
  .next (spdmServe s s.sec.spdm.agreed fun s => spdmReply s 0x01 [] s.chain)

/-- GET_CERTIFICATE: a portion of slot 0's chain. -/
def execGetCertificate (slot off len : Nat) (s : State) : Host.Outcome State Fault Refusal :=
  .next (spdmServe s s.sec.spdm.agreed fun s =>
    if slot ≠ 0 ∨ s.chain.length < off then spdmError s 1
    else s.emit (.spdm 0x02 ((s.chain.drop off).take len)))

def execChallenge (slot : Nat) (nonce : Bytes) (s : State) : Host.Outcome State Fault Refusal :=
  .next (spdmServe s s.sec.spdm.agreed fun s => if slot ≠ 0 then spdmError s 1 else spdmReply s 0x03 [] nonce)

/-- The measurement blocks: the ROM digest, the firmware measurement, the fuse block. -/
def measurement (s : State) (i : Nat) : Bytes :=
  toLE 1 i ++ match i with
    | 1 => slice Config.romDigest 0 32
    | 2 => digest256 (signedPart s.sec.manifest)
    | _ => fuseBlock s

/-- GET_MEASUREMENTS: index 0 asks for the number of blocks, 255 for all of them. -/
def execGetMeasurements (index : Nat) (nonce : Bytes) (s : State) : Host.Outcome State Fault Refusal :=
  .next (spdmServe s s.sec.spdm.agreed fun s =>
    if index = 0 then spdmReply s 0x60 (toLE 1 3) nonce
    else if index = 255 then spdmReply s 0x60 ([1, 2, 3].flatMap (measurement s)) nonce
    else if index ≤ 3 then spdmReply s 0x60 (measurement s index) nonce
    else spdmError s 1)

/-- KEY_EXCHANGE opens the one session. -/
def execKeyExchange (reqSession : BitVec 16) (kem : Bytes) (s : State) : Host.Outcome State Fault Refusal :=
  .next (spdmServe s s.sec.spdm.agreed fun s =>
    if s.sec.spdm.session.isSome then spdmError s 0x0A
    else spdmReply (s.setSpdm fun p => { p with session := some reqSession, finished := false }) 0x64 [] kem)

/-- FINISH completes the handshake; verification data that is wrong ends it. -/
def execFinish (hmac : Bytes) (s : State) : Host.Outcome State Fault Refusal :=
  .next (spdmServe s (s.sec.spdm.session.isSome && !s.sec.spdm.finished) fun s =>
    match s.sec.spdm.session with
    | some i =>
      if Config.finishOk i hmac then spdmReply (s.setSpdm fun p => { p with finished := true }) 0x65 [] hmac
      else spdmError (s.setSpdm fun p => { p with session := none }) 6
    | none => spdmError s 4)

/-- END_SESSION. -/
def execEndSession (s : State) : Host.Outcome State Fault Refusal :=
  .next (spdmServe s (s.sec.spdm.session.isSome && s.sec.spdm.finished) fun s =>
    spdmReply (s.setSpdm fun p => { p with session := none, finished := false }) 0x6C [] [])

/-- IDE_KM inside a session (R345): keys of a stream are programmed, and with `go` the stream enters the Secure state. -/
def ideKm (stream : Fin 2) (go : Bool) (s : State) : State :=
  if stream.val = 0 then
    if go then (if s.host.keyed0 then s.setHost fun h => { h with secure0 := true } else spdmError s 4)
    else s.setHost fun h => { h with keyed0 := true }
  else
    if go then (if s.host.keyed1 then s.setHost fun h => { h with secure1 := true } else spdmError s 4)
    else s.setHost fun h => { h with keyed1 := true }

def execIdeKm (stream : Fin 2) (go : Bool) (s : State) : Host.Outcome State Fault Refusal :=
  .next (spdmServe s (s.sec.spdm.session.isSome && s.sec.spdm.finished) fun s =>
    let t := ideKm stream go s
    -- a stream that becomes Secure lets what waits for it go out
    t.drainRsp.drainSpc)

end Sys2Proof.Machine
end

