-- ==== Sys2Proof/Machine/LongCmd.lean ====
section
/-!
DEFINITION. LONG_COMMAND_LEAF: the leaves of the running long command, and the short commands that waited for its target (R369,
R370).
-/

namespace Sys2Proof.Machine
open Sys2Proof

/-- What a long command does at its commit point, by its code. -/
def runLong (code : Nat) (c : Cmd) (snap : Bytes) (s : State) : CmdOut :=
  if code = 0x04 then doAttest c snap s
  else if code = 0x06 then doFwStage c snap s
  else if code = 0x12 then doSlotConfig c snap s
  else if code = 0x20 then doModelLoad c snap s
  else if code = 0x23 then doPrecoderLoad c snap s
  else if code = 0x25 then doAdaptRollback c snap s
  else if code = 0x3A then doColophonCollect c snap s
  else doPowerState c snap s

/-- The short commands that can have a long command's target (R369), by code. -/
def runShort (code : Nat) (c : Cmd) (s : State) : CmdOut :=
  if code = 0x13 then doFhConfig c s
  else if code = 0x15 then doPoolConfig c s
  else if code = 0x21 then doModelUnload c s
  else if code = 0x24 then doAdaptConfig c s
  else if code = 0x26 then doAdaptStatus c s
  else if code = 0x38 then doColophonStore c s
  else doColophonSeal c s

/-- Run the short commands that waited, in CMDQ order. -/
def serveWaiting (s : State) : State :=
  let l := s.mbx.waitQ
  l.foldl (fun s j => finish s j.code j.cmd (runShort j.code j.cmd s)) (s.setMbx fun m => { m with waitQ := [] })

/-- A job as its next leaf finds it: its first leaf takes the snapshot of ATTEST (R394). -/
def Job.begun (j : Job) (s : State) : Job :=
  if j.leaves = j.cmd.leaves ∧ j.code = 0x04 then { j with snap := reportBytes j.cmd.params s } else j

/-- LONG_COMMAND_LEAF: the next leaf of the running long command; its last leaf commits it. -/
def longCommandLeaf (s : State) : State :=
  if !s.busumUp || s.power.state == .aon then s
  else match s.mbx.longQ with
    | [] => s
    | j0 :: rest =>
      let j := j0.begun s
      if j.leaves ≤ 1 then
        let s1 := s.setMbx fun m => { m with longQ := rest }
        serveWaiting (finish s1 j.code j.cmd (runLong j.code j.cmd j.snap s1))
      else s.setMbx fun m => { m with longQ := { j with leaves := j.leaves - 1 } :: rest }

def execLongCommandLeaf (s : State) : Host.Outcome State Fault Refusal := .next (longCommandLeaf s)

end Sys2Proof.Machine
end

