-- ==== Sys2Proof/Machine/Posting.lean ====
section
/-!
DEFINITION. What a quire reports (R20 to R22, R247, R380 to R383): the records of slot-receptions, PRACH occasions and
downlink slots, the finalising of their colophons, their posting, and what a deadline does.
-/

namespace Sys2Proof.Machine
open Sys2Proof

/-! ### Flags and measurements -/

/-- Per-entry FLAGS (R382), bits 0 to 11 in order. -/
def flagBits (l : List Bool) : Nat := ((l.zip (List.range l.length)).map fun p => if p.1 then 2 ^ p.2 else 0).sum

/-- CFO tolerance in Hz and timing tolerance in ns of a subcarrier spacing (Table 8-7). -/
def offsetTol (scs : Nat) : Nat × Nat :=
  match scs with
  | 0 => (900, 703) | 1 => (1800, 352) | _ => (3600, 176)

/-- An FP32 estimate lies outside a tolerance on both sides. -/
def outside (v : BitVec 32) (tol : Nat) : Bool := !leV (fabsV (f32 v.toNat)) (fofInt tol)

/-- The quire faulted. -/
def Quire.isFaulted (q : Quire) : Bool := q.state == .faulted

/-- The transport block was lost to its quire's fault: its LLRs had not been handed over (R247). -/
def tbFaulted (q : Quire) (x : PuschCtx) : Bool := q.isFaulted && x.handed.isNone && !x.modelLimit

/-- A transport block or a UCI part is late: its slot-reception is, and its indication was not posted before the deadline (R22). -/
def lateFor (r : RxCtx) (posted : Bool) : Bool := r.late && !posted

/-- FLAGS of a transport block (R382). -/
def puschFlags (q : Quire) (r : RxCtx) (i : Nat) (x : PuschCtx) : Nat :=
  let c := cellOf r.cellRcd
  let one := decide (x.pdu.dmrs < 2)
  let tol := offsetTol c.scs
  let off := (!one && outside (Config.offsetEst r.draw i true) tol.1) || outside (Config.offsetEst r.draw i false) tol.2
  let run := !x.modelLimit
  flagBits [lateFor r x.posted, r.missing || x.missing, x.modelLimit, tbFaulted q x, x.noBuffer, x.mismatch, x.conflict, run && off,
    run && one, q.flags.jrOmitted, q.flags.jrBlocked, x.memFill || q.flags.memFill]

/-- A transport block is posted as passed. -/
def tbGood (r : RxCtx) (x : PuschCtx) : Bool := !lateFor r x.posted && !x.modelLimit && x.tbPass == some true

/-- CB_PASS: a bit for each code block that passed (R210). -/
def cbPass (x : PuschCtx) : Nat :=
  ((x.cbs.zip (List.range x.cbs.length)).map fun p =>
    if p.1.state == .passed || p.1.state == .stored then 2 ^ p.2 else 0).sum

/-! ### Records of a slot-reception (Table 16-10; DESIGN CHOICE, log entry 45) -/

/-- An entry of CRC_IND: RNTI, HARQ process, outcome (0 pass, 1 fail), FAPI's measurements, then the added fields. -/
def crcEntry (q : Quire) (r : RxCtx) (i : Nat) (x : PuschCtx) : Bytes :=
  padTo 16 (toLE 2 x.pdu.rnti.toNat ++ toLE 1 x.pdu.harqId.toNat ++ toLE 1 (if tbGood r x then 0 else 1)
    ++ toLE 8 (Config.fapiMeasure r.draw (2 * i)) ++ toLE 4 (puschFlags q r i x) ++ toLE 24 (cbPass x)
    ++ toLE 1 ((x.cbs.map (·.iters)).foldl Nat.max 0) ++ toLE 4 (Config.offsetEst r.draw i true).toNat
    ++ toLE 4 (Config.offsetEst r.draw i false).toNat)

/-- The payload of a transport block that is posted: none where it failed. -/
def tbPayload (r : RxCtx) (x : PuschCtx) : Bytes :=
  if tbGood r x then x.payload.take x.pdu.rxBufLen.toNat else []

/-- An entry of RX_DATA_IND: RNTI, HARQ process, length, FLAGS. -/
def rxEntry (q : Quire) (r : RxCtx) (i : Nat) (x : PuschCtx) : Bytes :=
  padTo 16 (toLE 2 x.pdu.rnti.toNat ++ toLE 1 x.pdu.harqId.toNat ++ [0] ++ toLE 4 (tbPayload r x).length
    ++ toLE 4 (puschFlags q r i x))

/-- A UCI part comes out undecoded: late, past the model's limits, or lost to a fault. -/
def uciLost (r : RxCtx) (u : UciCtx) : Bool := lateFor r u.posted || u.modelLimit || u.outcome == 0

/-- FLAGS of a UCI part. -/
def uciFlags (q : Quire) (r : RxCtx) (u : UciCtx) : Nat :=
  flagBits [lateFor r u.posted, r.missing, u.modelLimit, q.isFaulted && u.outcome == 0 && !u.modelLimit, false, false, false, false,
    false, q.flags.jrOmitted, q.flags.jrBlocked, q.flags.memFill]

/-- An entry of UCI_IND: PDU, outcome (0 undecoded, 1 decoded, 2 CRC failure, 3 DTX), bits, FAPI's measurements, FLAGS and the
DTX metric. -/
def uciEntry (q : Quire) (r : RxCtx) (i : Nat) (u : UciCtx) : Bytes :=
  let lost := uciLost r u
  let b := if lost then [] else u.bits
  padTo 16 (toLE 2 u.part.pdu ++ toLE 1 (if lost then 0 else u.outcome) ++ [0] ++ toLE 2 b.length ++ packBits b
    ++ toLE 8 (Config.fapiMeasure r.draw (2 * i + 1)) ++ toLE 4 (uciFlags q r u)
    ++ toLE 2 (if lost then 0 else lowBits 16 u.metric))

/-- A list with its places. -/
def numbered (l : List α) : List (Nat × α) := (List.range l.length).zip l

/-- A record with its slot head. -/
def slotRecord (typ cell sfnSlot tag time : Nat) (entries : List Bytes) : OutRec :=
  ⟨typ, cell, slotHead cell (sfnOf sfnSlot) (slotOf sfnSlot) entries.length tag time ++ entries.flatten⟩

/-- The records of a slot-reception, in order, each with the payload bytes that follow it in the result digest (R20, R281). -/
def ulRecords (q : Quire) (r : RxCtx) (tag time : Nat) : List (OutRec × Bytes) :=
  let crc := slotRecord 0x90 r.cell r.sfnSlot tag time ((numbered r.pusch).map fun p => crcEntry q r p.1 p.2)
  let rx := slotRecord 0x91 r.cell r.sfnSlot tag time ((numbered r.pusch).map fun p => rxEntry q r p.1 p.2)
  let uci := slotRecord 0x92 r.cell r.sfnSlot tag time ((numbered r.uci).map fun p => uciEntry q r p.1 p.2)
  (if r.pusch.isEmpty then [] else [(crc, []), (rx, r.pusch.flatMap (tbPayload r))])
    ++ if r.uci.isEmpty then [] else [(uci, [])]

/-! ### Records of a PRACH occasion and of a downlink slot -/

/-- RACH_IND: FLAGS of the occasion, then an entry a preamble (R216, R219; DESIGN CHOICE, log entry 45). -/
def rachRecord (q : Quire) (x : PrachCtx) (tag time : Nat) : OutRec :=
  let l := if q.isFaulted then [] else x.found
  ⟨0x93, x.cell, slotHead x.cell (sfnOf x.sfnSlot) (slotOf x.sfnSlot) l.length tag time
    ++ padTo 16 (toLE 4 (flagBits [false, x.missing, false, q.isFaulted]))
    ++ l.flatMap fun p => padTo 16 (toLE 1 p.1 ++ toLE 2 p.2.1 ++ [0] ++ toLE 4 p.2.2.1.toNat ++ toLE 4 p.2.2.2.toNat)⟩

/-- DL_DONE: FLAGS and the late-transmit bitmap (Table 16-10, R382). -/
def dlDone (d : DlCtx) (tag time : Nat) : OutRec :=
  slotRecord 0x94 d.cell d.sfnSlot tag time
    [padTo 16 (toLE 4 (flagBits [!d.lateTx.isEmpty, d.precoderMissing, d.fault])
      ++ toLE 2 (((List.range 14).filter d.lateTx.contains).map (2 ^ ·)).sum)]

/-! ### Result digests (R281) -/

/-- A record as the result digest takes it: its bytes with SEQ, QUIRE_TAG and TIME_POST zero (R383). -/
def canonBytes (o : OutRec) : Bytes := recHead o.typ o.tag 0 (recUnits o.body) ++ padTo 16 o.body

/-- The result bytes of a slot-reception. -/
def ulResult (q : Quire) (r : RxCtx) : Bytes := (ulRecords q r 0 0).flatMap fun p => canonBytes p.1 ++ p.2

/-- The result bytes of a downlink slot: each symbol's payload as sent, two zero bytes for one discarded. -/
def dlResult (d : DlCtx) : Bytes :=
  (dlSymbols d.rcd).flatMap fun k => if d.sent.contains k then tget d.sentBytes k [] else zeros 2

/-! ### When results are there -/

/-- Every outcome of a slot-reception that its posting waits for (R20, R208, R247). -/
def ulReady (s : State) (q : Quire) (r : RxCtx) : Bool :=
  r.late
    || (r.pusch.all (fun x => x.modelLimit || tbFaulted q x
          || (x.tbPass.isSome && (x.headerWritten || (writeAddr s x).isNone)))
        && r.uci.all fun u => u.modelLimit || u.outcome != 0 || q.isFaulted)

/-- A downlink slot has sent or discarded every symbol. -/
def dlReadyToPost (d : DlCtx) : Bool := (dlSymbols d.rcd).all fun k => d.sent.contains k || d.lateTx.contains k

/-- A PRACH occasion has its detections, or its quire faulted. -/
def prachReady (q : Quire) (x : PrachCtx) : Bool := x.detected || q.isFaulted

/-! ### COLOPHON_FINALISE (R279, R283) -/

/-- The HARQ part of the input image: C of the slot-reception that last wrote each buffer of a retransmission. -/
def harqImage (s : State) (r : RxCtx) : Bytes :=
  (r.pusch.filter fun x => !x.pdu.newData && (harqAddr s x.pdu).isSome).flatMap fun x =>
    slice (tget s.coding.harqColophon x.pdu.harqBuf.toNat []) 0 32

/-- The buffers whose headers a slot-reception has written. -/
def wroteBuffers (s : State) (r : RxCtx) : List Nat :=
  (r.pusch.filter fun x => x.headerWritten && (writeAddr s x).isSome).map (·.pdu.harqBuf.toNat)

/-- The colophon of a slot-reception. -/
def ulColo (s : State) (q : Quire) (r : RxCtx) : ColoIn :=
  let miss := r.missing || r.pusch.any (·.missing)
  let fill := q.flags.memFill || r.pusch.any (·.memFill)
  { kind := 0, cell := r.cell, sfnSlot := r.sfnSlot
    flags := coloFlags r.late miss q.isFaulted (r.pusch.any (·.modelLimit) || r.uci.any (·.modelLimit)) fill q.flags
    image := r.inputImage ++ harqImage s r, setup := setupBlock s q (cellOf r.cellRcd) r.beta true
    result := ulResult q r }

/-- The configuration of a PRACH occasion as bytes (DESIGN CHOICE, log entry 8). -/
def prachConfig (p : PrachPdu) : Bytes :=
  join8 [p.format, p.scs, p.startSym, p.rootIndex, p.restricted, p.ncs, p.count, p.freqOffset, p.fft, p.beam]

/-- The colophon of a PRACH occasion. -/
def prachColo (s : State) (q : Quire) (x : PrachCtx) : ColoIn :=
  { kind := 2, cell := x.cell, sfnSlot := x.sfnSlot
    flags := coloFlags false x.missing q.isFaulted false q.flags.memFill q.flags
    image := inputHead x.cell 2 x.sfnSlot ++ digest256 (prachConfig x.pdu) ++ x.digests.flatten
    setup := setupBlock s q (cellOf x.cellRcd) [] false, result := canonBytes (rachRecord q x 0 0) }

/-- The colophon of a downlink slot. -/
def dlColo (s : State) (q : Quire) (d : DlCtx) : ColoIn :=
  let c := cellOf d.cellRcd
  { kind := 1, cell := d.cell, sfnSlot := d.sfnSlot
    flags := coloFlags false false d.fault false q.flags.memFill q.flags
    image := inputHead d.cell 1 d.sfnSlot ++ digest256 d.rcd.raw
      ++ (match d.tx with | some t => t.tbs.flatMap fun x => digest256 x.2.2 | none => [])
    setup := setupBlock s q c d.beta true, result := dlResult d }

/-- COLOPHON_FINALISE: the colophon of a quire whose results are complete and whose cell asks for one. -/
def colophonFinalise (tag : BitVec 16) (s : State) : State :=
  match tget? s.quires tag.toNat with
  | none => s
  | some q =>
    match q.kind, s.rx? tag, tget? s.coding.prach tag.toNat, tget? s.coding.dl tag.toNat with
    | .slotReception, some r, _, _ =>
      if r.posted || !r.colo.isEmpty || !(cellOf r.cellRcd).colophon || !ulReady s q r then s
      else
        let (b, s1) := finalise s q (ulColo s q r)
        let s2 := s1.setRx tag fun r => { r with colo := b }
        s2.setCoding fun x => { x with
          harqColophon := (wroteBuffers s r).foldl (fun t n => tset t n (slice b 0x10 32)) x.harqColophon }
    | .prach, _, some x, _ =>
      if x.posted || !x.colo.isEmpty || !(cellOf x.cellRcd).colophon || !prachReady q x then s
      else
        let (b, s1) := finalise s q (prachColo s q x)
        s1.setCoding fun c => { c with prach := tset c.prach tag.toNat { x with colo := b } }
    | .downlink, _, _, some d =>
      if d.posted || !d.colo.isEmpty || !(cellOf d.cellRcd).colophon || !dlReadyToPost d then s
      else
        let (b, s1) := finalise s q (dlColo s q d)
        s1.setCoding fun c => { c with dl := tset c.dl tag.toNat { d with colo := b } }
    | _, _, _, _ => s

def execColophonFinalise (tag : BitVec 16) (s : State) : Host.Outcome State Fault Refusal :=
  .next (colophonFinalise tag s)

/-! ### RESULT_POSTING (R20) -/

/-- The COLOPHON record of a quire, ahead of its others (R278). -/
def coloOut (cell sfnSlot tag time : Nat) (b : Bytes) : List OutRec :=
  if b.isEmpty then [] else [slotRecord 0x96 cell sfnSlot tag time [b]]

/-- Failed transport blocks that a rollback watch counts: none flagged late, MODEL_LIMIT or missing data (R183). -/
def failedTbs (r : RxCtx) : Nat :=
  if r.missing then 0
  else (r.pusch.filter fun x => !lateFor r x.posted && !x.modelLimit && !x.missing && !tbGood r x).length

/-- The transport blocks of a posted slot-reception, as labels are built of them (R177, R186). -/
def labelTbs (r : RxCtx) : List LabelTb :=
  r.pusch.map fun x => { pdu := x.pdu, passed := tbGood r x, llrs := x.raw, labels := x.labels }

/-- A yardstick sample of the slot may be measured from its posting on (R186). -/
def settleYard (s : State) (r : RxCtx) : State :=
  { s with yard := tmap s.yard fun c y => if c = r.cell then
      { y with samples := y.samples.map fun x =>
          if x.sfnSlot == r.sfnSlot && !x.posted then { x with posted := true, tbs := labelTbs r } else x } else y }

/-- A posted slot-reception counts for its model: the history, the watch, and its record, kept or discarded (R176, R183). One
of which a part is posted anew as late has counted; its record goes. -/
def countPosted (s : State) (q : Quire) (r : RxCtx) : State :=
  match q.modelSlot with
  | none => s
  | some i => match s.model? i with
    | none => s
    | some m =>
      if m.id.toNat ≠ q.modelId then s
      else if r.counted then
        s.setModel i fun m => { m with ring := m.ring.filter fun x => !(x.cell == r.cell && x.sfnSlot == r.sfnSlot) }
      else
        let n := failedTbs r
        let keep := !r.late && !r.forced && r.pusch.any (tbGood r)
        let (d, s1) := s.draw
        let dig := if (cellOf r.cellRcd).colophon then slice r.colo 0x30 32 else toLE 32 (Config.fresh d)
        let mine := fun (x : SampleRec) => x.cell == r.cell && x.sfnSlot == r.sfnSlot && !x.kept && x.digest.isEmpty
        let ring := if keep then m.ring.map fun x =>
            if mine x then { x with kept := true, digest := dig, tbs := labelTbs r } else x
          else m.ring.filter fun x => !mine x
        s1.setModel i fun m => { m with
          history := (n :: m.history).take 1000000
          watch := m.watch.map fun w => if w.seen < m.rbWindow then { w with seen := w.seen + 1, fNew := w.fNew + n } else w
          ring := ring }

/-- What follows a posting: the front end forgets the slot, adaptation and the yardstick may take up what it brought. -/
def afterPosting (s : State) (q : Quire) (r : RxCtx) : State :=
  let key := slotKey r.cell r.sfnSlot
  let s1 := dropUl (setUl s key fun u => { u with syms := [] }) key
  let s2 := countPosted s1 q r
  let s3 := match q.modelSlot with | some i => triggerAdapt s2 i | none => s2
  triggerYard (settleYard s3 r) r.cell

/-- The records of a slot-reception that are still to be posted: of transport blocks, of UCI, and the colophon ahead of them. -/
def openRecords (q : Quire) (r : RxCtx) (tag time : Nat) : List OutRec :=
  let open_ := fun (o : OutRec) =>
    if o.typ = 0x92 then r.uci.any (!·.posted) else r.pusch.any (!·.posted)
  (if r.coloSent then [] else coloOut r.cell r.sfnSlot tag time r.colo)
    ++ ((ulRecords q r tag time).map (·.1)).filter open_

/-- Post a slot-reception (R20): payloads, then the records and the producer index, then the message. Its places in the decoder output
are free, and its pages return. -/
def postUl (s : State) (q : Quire) (r : RxCtx) : State :=
  let tag := q.tag.toNat
  let s1 := r.pusch.foldl (fun s x =>
    let b := tbPayload r x
    if b.isEmpty || x.posted then s else s.hostWr x.pdu.rxBufAddr.toNat b) s
  let s2 := s1.postSpc (openRecords q r tag s.ticks.toNat)
  let s3 := if (cellOf r.cellRcd).colophon then s2
    else s2.setCoding fun x => { x with harqColophon := (wroteBuffers s r).foldl tdel x.harqColophon }
  let s4 := returnRest (freePlaces s3 q.tag) q.tag
  let s5 := s4.setRx q.tag fun r => { r with
    posted := true, coloSent := true, counted := true
    pusch := r.pusch.map fun x => { x with posted := true }
    uci := r.uci.map fun u => { u with posted := true } }
  afterPosting s5 q r

/-- Its colophon, if its cell asks for one, is finalised. -/
def coloDone (rcd colo : Bytes) : Bool := !(cellOf rcd).colophon || !colo.isEmpty

/-- RESULT_POSTING: of a slot-reception, a PRACH occasion or a downlink slot whose results are complete and whose colophon is
finalised; nothing is posted while no request reaches the host (R345). -/
def resultPosting (tag : BitVec 16) (s : State) : State :=
  match tget? s.quires tag.toNat with
  | none => s
  | some q =>
    if !s.linkOk then s
    else match q.kind, s.rx? tag, tget? s.coding.prach tag.toNat, tget? s.coding.dl tag.toNat with
    | .slotReception, some r, _, _ =>
      if r.posted || !ulReady s q r || !coloDone r.cellRcd r.colo then s else postUl s q r
    | .prach, _, some x, _ =>
      if x.posted || !prachReady q x || !coloDone x.cellRcd x.colo then s
      else
        let t := s.ticks.toNat
        (s.postSpc (coloOut x.cell x.sfnSlot tag.toNat t x.colo ++ [rachRecord q x tag.toNat t])).setCoding fun c =>
          { c with prach := tset c.prach tag.toNat { x with posted := true } }
    | .downlink, _, _, some d =>
      if d.posted || !dlReadyToPost d || !coloDone d.cellRcd d.colo then s
      else
        let t := s.ticks.toNat
        (s.postSpc (coloOut d.cell d.sfnSlot tag.toNat t d.colo ++ [dlDone d tag.toNat t])).setCoding fun c =>
          { c with dl := tset c.dl tag.toNat { d with posted := true } }
    | _, _, _, _ => s

def execResultPosting (tag : BitVec 16) (s : State) : Host.Outcome State Fault Refusal := .next (resultPosting tag s)

/-! ### SLOT_DEADLINE (R22, R225) -/

/-- A record of a quire that waits for room. -/
def ofQuire (tag : Nat) (o : OutRec) : Bool := decide (0x90 ≤ o.typ ∧ o.typ ≤ 0x96 ∧ o.typ ≠ 0x95) && fld o.body 8 2 == tag

/-- The colophon that a late slot-reception no longer stands by leaves the open batch. -/
def dropColo (s : State) (b : Bytes) : State :=
  if b.isEmpty then s else s.setColo fun c => { c with openRecs := c.openRecs.erase b }

/-- A record of a type waits for room for a quire. -/
def waitsFor (s : State) (tag typ : Nat) : Bool := s.mbx.spcWait.any fun o => ofQuire tag o && o.typ == typ

/-- What of a slot-reception is not posted at its deadline: everything of one that has not been posted, else what stands in records that
wait for room (R22, R35). What is in the ring is not affected. -/
def reopen (s : State) (tag : BitVec 16) (r : RxCtx) : State :=
  let tb := !r.posted || waitsFor s tag.toNat 0x90
  let uci := !r.posted || waitsFor s tag.toNat 0x92
  let colo := !r.posted || waitsFor s tag.toNat 0x96
  let drop := fun (o : OutRec) => ofQuire tag.toNat o
    && ((tb && (o.typ == 0x90 || o.typ == 0x91)) || (uci && o.typ == 0x92) || (colo && o.typ == 0x96))
  let s1 := s.setMbx fun m => { m with spcWait := m.spcWait.filter fun o => !drop o }
  let s2 := if colo then dropColo s1 r.colo else s1
  s2.setRx tag fun r => { r with
    late := true, posted := false, coloSent := !colo, colo := if colo then [] else r.colo
    pusch := r.pusch.map fun x => { x with posted := !tb }
    uci := r.uci.map fun u => { u with posted := !uci } }

/-- SLOT_DEADLINE: 350 µs after the slot close a slot-reception that is not posted stops decoding, has what LLRs it has stored, and is
posted late (R22). -/
def slotDeadline (tag : BitVec 16) (s0 : State) : State :=
  match tget? s0.quires tag.toNat, s0.rx? tag with
  | some q, some r =>
    let s := match q.deadline with
      | some t => s0.advance (t - (s0.cl q.cluster).counter.toNat)
      | none => s0
    if r.late || (r.posted && !(waitsFor s tag.toNat 0x90 || waitsFor s tag.toNat 0x92)) then s
    else
      let s1 := reopen s tag r
      let s2 := (List.range r.pusch.length).foldl (fun s i => lateStore (combineHanded s tag i) tag i) s1
      resultPosting tag (colophonFinalise tag (returnRest (freePlaces s2 tag) tag))
  | _, _ => s0

def execSlotDeadline (tag : BitVec 16) (s : State) : Host.Outcome State Fault Refusal := .next (slotDeadline tag s)

end Sys2Proof.Machine
end

