-- ==== Sys2Proof/Machine/Transfers.lean ====
section
/-!
DEFINITION. Stitch transfers at their source (R324, R325, R327, R329, R330): descriptors and their checks, the wire
stream, messages, the multicast window, and what comes back.
-/

namespace Sys2Proof.Machine
open Sys2Proof

/-! ### The descriptor (Table 14-4) -/

/-- A stitch transfer descriptor by field. -/
structure XDesc where
  kind : Nat
  space : Nat
  fmt : Nat
  wire : Nat
  cluster : Fin 4
  chip : Nat
  tag : Nat
  seq : Nat
  srcBase : Nat
  stride : Int
  lineBytes : Nat
  count : Nat
  dstOffset : Nat
  dstTag : Nat
  chanLen : Nat
  arg : Nat
  targets : Nat
  doneObj : Nat
  doneN : Nat
  remoteObj : Nat
  remoteN : Nat
  reserved : Bool
  intact : Bool

/-- Read a descriptor. -/
def XDesc.of (b : Bytes) : XDesc :=
  let h := fld b 0 8
  { kind := bits h 60 4, space := bits h 56 4, fmt := bits h 52 4, wire := bits h 48 4,
    cluster := ((BitVec.ofNat 2 (bits h 46 2)).toFin), chip := bits h 40 6, tag := bits h 16 16, seq := bits h 0 16,
    srcBase := fld b 0x10 8, stride := sx 32 (fld b 0x18 4), lineBytes := bits (fld b 0x1C 4) 0 24,
    count := bits (fld b 0x20 4) 0 24, dstOffset := fld b 0x24 4, dstTag := fld b 0x28 2, chanLen := fld b 0x2A 2,
    arg := fld b 0x2C 4, targets := fld b 0x30 8, doneObj := fld b 0x38 2, doneN := fld b 0x3A 2,
    remoteObj := fld b 0x3C 2, remoteN := fld b 0x3E 2,
    reserved := bits h 32 8 != 0 || bits (fld b 0x1C 4) 24 8 != 0 || bits (fld b 0x20 4) 24 8 != 0
    intact := slice b 8 8 == cpl (slice b 0 8) }

/-- The target chips. -/
def XDesc.chips (d : XDesc) : List Nat :=
  if d.kind = 0 ∨ d.kind = 2 then [d.chip] else (List.range 64).filter fun c => bit d.targets c

/-- MCAST and JR go to many targets. -/
def XDesc.many (d : XDesc) : Bool := d.kind == 1 || d.kind == 3

/-- Narrowed on the wire. -/
def XDesc.narrow (d : XDesc) : Bool := d.wire != 0xF

/-- Fields that a kind leaves at 0 (Table 14-4), and the reserved parts of ARG. -/
def XDesc.unusedSet (d : XDesc) : Bool :=
  (d.many && d.dstTag != 0) || (!d.many && d.targets != 0)
    || (match d.kind with
        | 2 => bits d.arg 6 2 != 0 || bits d.arg 12 20 != 0
        | 3 => bits d.arg 10 22 != 0
        | _ => d.arg != 0)

/-- The checks of R325 in the order of R146, with the codes of Table 14-8. -/
def XDesc.check (d : XDesc) (s : State) (q : Quire) (next : BitVec 16) : Option Nat :=
  let eb := fmtBytes d.fmt
  if !d.intact ∨ d.seq ≠ next.toNat ∨ d.tag ≠ q.tag.toNat then some 0x81
  else if 3 < d.kind ∨ 4 < d.space ∨ d.reserved ∨ d.unusedSet ∨ d.lineBytes = 0 ∨ d.count = 0 ∨ d.chips = []
      ∨ d.chips.any (fun c => decide (s.poolSize ≤ c)) ∨ (d.kind = 0 ∧ d.chip = s.chip) then some 0x82
  else if 0xB < d.fmt ∨ d.wire < 0xC ∨ (d.narrow ∧ (!linkSource d.fmt ∨ d.chanLen = 0 ∨ 4096 < d.chanLen ∨ d.kind = 2)) then some 0x83
  else
    let wins := match spaceOf s q d.space with | some sp => sp.wins | none => []
    let x := linesSpan d.srcBase d.stride 0 (d.count - 1) d.lineBytes
    let odd := eb != 0 && (d.srcBase % eb != 0 || d.stride % (eb : Int) != 0 || d.lineBytes % eb != 0)
    if !spanIn wins (some x) || odd || (d.kind != 3 && d.dstOffset % 4 != 0) then some 0x84 else none

/-- The element stream of a descriptor: its source lines in line order (R324). -/
def XDesc.stream (d : XDesc) (s : State) (q : Quire) : Bytes :=
  match spaceOf s q d.space with
  | some sp => (List.range d.count).flatMap fun (i : Nat) =>
      s.rd (((sp.at_ + d.srcBase : Nat) : Int) + d.stride * ((i : Nat) : Int)).toNat d.lineBytes
  | none => []

/-- One channel on the wire (R327). -/
def chanBytes (wire n : Nat) (e : ChanEnc) : Bytes :=
  let flags := if e.nonfinite then 4 else if e.zero then 1 else if e.const then 2 else 0
  toLE 8 (n % 8192 * 2 ^ 40 + flags * 2 ^ 32 + (if e.zero then 0 else e.scale))
    ++ if e.const then [] else packCodes wire e.codes

/-- The channels of a narrowed stream. -/
def XDesc.channels (d : XDesc) (b : Bytes) : List (Nat × ChanEnc) :=
  (chunks d.chanLen (leList (fmtBytes d.fmt) b)).map fun l => (l.length, chanEncode d.wire (l.flatMap (linkParts d.fmt)))

/-! ### Messages -/

/-- The SFN_SLOT of a JR message (Table 14-3): SFN in [15:6], slot in [5:0]. -/
def jrSlotCode (x : Nat) : Nat := sfnOf x * 64 + slotOf x % 64

/-- A data message of a transfer: message `i` to a chip (R322, R452). -/
def dataMsg (s : State) (x : OutXfer) (chip i : Nat) : SMsg :=
  let d := XDesc.of x.desc
  let last := decide (x.wire.length ≤ 4096 * (i + 1))
  let q := (s.stitch.queues.toList[x.queue]?.bind (·.quire)).bind fun t => tget? s.quires t.toNat
  let mid := if d.kind = 3 then
      d.arg % 1024 * 2 ^ 32 + (match q with | some q => jrSlotCode q.sfnSlot | none => 0) * 2 ^ 48
    else d.dstOffset * 2 ^ 32 + d.remoteObj * 2 ^ 64 + d.remoteN * 2 ^ 80
  let sum := if d.kind = 2 then bits d.arg 0 6 * 2 ^ 96 + bits d.arg 8 4 * 2 ^ 104 else 0
  { typ := BitVec.ofNat 8 (d.kind + 1), src := BitVec.ofNat 6 s.chip, dst := BitVec.ofNat 6 chip, cluster := d.cluster,
    tag := BitVec.ofNat 16 (if d.many then 0 else d.dstTag), offset := BitVec.ofNat 32 (4096 * i),
    xfer := BitVec.ofNat 16 x.num, seq := BitVec.ofNat 16 i,
    arg := BitVec.ofNat 128 (d.fmt + d.wire * 16 + d.chanLen * 2 ^ 16 + mid + sum + last.toNat * 2 ^ 127)
    reservedSet := false, data := (x.wire.drop (4096 * i)).take 4096 }

/-- The numbers of the messages that carry wire bytes from `lo` to `hi`, both at message boundaries or the end. -/
def msgNos (lo hi : Nat) : List Nat := (List.range (ceilDiv hi 4096 - lo / 4096)).map (lo / 4096 + ·)

/-- Send wire bytes from `lo` to `hi` to a chip. -/
def sendWire (s : State) (x : OutXfer) (chip lo hi : Nat) : State :=
  if hi ≤ lo then s else (msgNos lo hi).foldl (fun s i => s.sendMsg (dataMsg s x chip i)) s

/-- Replace an outgoing transfer. -/
def State.putX (s : State) (x : OutXfer) : State :=
  s.setStitch fun t => { t with outX := t.outX.map fun y => if y.num = x.num then x else y }

def State.outX? (s : State) (num : Nat) : Option OutXfer := s.stitch.outX.find? (·.num == num)

/-- Bytes that a multicast may be ahead of a target's acknowledged offset (R329). -/
def mcastWindow : Nat := 262144

/-- Go on with a multicast: as far as the target that is furthest allows; a target left more than the window behind is cut
(R329). -/
def goOn (s : State) (x : OutXfer) : State :=
  let on := x.targets.filter fun t => !t.cut && !t.done && t.chip != s.chip
  let best := on.foldl (fun a t => max a t.acked) 0
  let upTo := if on.isEmpty then x.sent else max x.sent (min x.wire.length (best + mcastWindow))
  let s1 := on.foldl (fun s t =>
    if t.acked + mcastWindow < upTo then
      let at_ := max x.sent (t.acked + mcastWindow)
      let s1 := sendWire s x t.chip x.sent at_
      (s1.sendMsg (ctrlMsg s1 0x08 t.chip (XDesc.of x.desc).cluster 0 x.num at_)).slCount .mcastCut 0
    else sendWire s x t.chip x.sent upTo) s
  s1.putX { x with
    sent := upTo
    targets := x.targets.map fun t =>
      { t with cut := t.cut || (on.contains t && decide (t.acked + mcastWindow < upTo)) } }

/-- A transfer whose every target has completed: the completion object counts (R325). -/
def endIfDone (s : State) (num : Nat) : State :=
  match s.outX? num with
  | none => s
  | some x =>
    if !x.targets.all (·.done) then s
    else
      let d := XDesc.of x.desc
      let s1 := s.setStitch fun t => { t with outX := t.outX.filter (·.num != num) }
      let s2 : State := match s1.stitch.queues.toList[x.queue]?.bind (·.quire) with
        | none => s1
        | some tag =>
          match tget? s1.quires tag.toNat with
          | none => s1
          | some q => addDone s1 q.cluster tag d.doneObj d.doneN
      s2.sendFreed

/-- Change a target of an outgoing transfer, which is progress. -/
def State.setTarget (s : State) (num chip : Nat) (f : XTarget → XTarget) : State :=
  match s.outX? num with
  | none => s
  | some x => s.putX { x with
      at_ := s.ticks.toNat, targets := x.targets.map fun t => if t.chip = chip then f t else t }

/-- PROGRESS from a target (R325, R329). -/
def takeProgress (s : State) (num chip n : Nat) : State :=
  let s1 := s.setTarget num chip fun t => { t with acked := max t.acked n }
  match s1.outX? num with
  | some x => if (XDesc.of x.desc).many then goOn s1 x else s1
  | none => s1

/-- A flag of a transfer shows in its quire's flags and in the completion status of the leaf that launched it (R326, R327). -/
def State.markLeaf (s : State) (tag : BitVec 16) (f : QFlags → QFlags) (g : LeafStatus → LeafStatus) : State :=
  (List.finRange 8).foldl (fun s c => if (s.core c).status.tag = tag then s.setCore c fun x => { x with status := g x.status } else s)
    (s.setQuire tag.toNat fun q => { q with flags := f q.flags })

/-- COMPLETE from a target (R325, R326): 1 REFUSED is kept for the leaf's completion status. -/
def takeComplete (s : State) (num chip code : Nat) : State :=
  match s.outX? num with
  | none => s
  | some x =>
    let s1 := if code = 1 then
        match s.stitch.queues.toList[x.queue]?.bind (·.quire) with
        | some tag => s.markLeaf tag (fun f => { f with remoteRefused := true }) fun l => { l with refused := true }
        | none => s
      else s
    let s2 := s1.setTarget num chip fun t => { t with done := true, acked := x.wire.length }
    let s3 := match s2.outX? num with
      | some x => if (XDesc.of x.desc).many then goOn s2 x else s2
      | none => s2
    endIfDone s3 num

/-- An OK grant that its waiter refused: the owner adds the amount back (R264; DESIGN CHOICE, log entry 13). -/
def undoGrant (s : State) (num : Nat) : State :=
  match s.stitch.grants.find? (fun g => g.1 == num) with
  | none => s
  | some (_, k, i, n) =>
    let s1 := s.setStitch fun t => { t with grants := t.grants.filter fun g => g.1 != num }
    if h : k < 4 then
      let k : Fin 4 := ⟨k, h⟩
      let o := s1.obj k i
      if o.felled then s1 else retryAll (s1.putObj k i { o with count := o.count + BitVec.ofNat 32 n }) k i
    else s1

/-! ### Messages back to the source -/

/-- READ_REQ (R330, R452): the rest of a transfer not yet completed goes to the asker by unicast. -/
def onReadReq (m : SMsg) (s : State) : State :=
  match s.outX? m.xfer.toNat with
  | none => s
  | some x =>
    if x.targets.any (fun t => t.chip == m.src.toNat && !t.done) then
      let s1 := if (XDesc.of x.desc).many then
          s.putX { x with targets := x.targets.map fun t => if t.chip = m.src.toNat then { t with cut := true } else t }
        else s
      sendWire s1 x m.src.toNat (m.arg.extractLsb' 0 32).toNat x.wire.length
    else s

def onProgress (m : SMsg) (s : State) : State :=
  takeProgress s m.xfer.toNat m.src.toNat (m.arg.extractLsb' 0 32).toNat

def onComplete (m : SMsg) (s : State) : State :=
  let code := (m.arg.extractLsb' 0 8).toNat
  if code = 1 ∧ (s.outX? m.xfer.toNat).isNone then undoGrant s m.xfer.toNat
  else takeComplete s m.xfer.toNat m.src.toNat code

def execReadReq (m : SMsg) (s : State) : Host.Outcome State Fault Refusal := .next (onMsg 0x05 onReadReq m s)
def execProgress (m : SMsg) (s : State) : Host.Outcome State Fault Refusal := .next (onMsg 0x06 onProgress m s)
def execComplete (m : SMsg) (s : State) : Host.Outcome State Fault Refusal := .next (onMsg 0x07 onComplete m s)

/-! ### Failures -/

/-- The quire of a stitch queue. -/
def State.queueQuire (s : State) (n : Nat) : Option Quire :=
  (s.stitch.queues.toList[n]?.bind (·.quire)).bind fun t => tget? s.quires t.toNat

/-- Fail a transfer: its quire faults with STITCH_XFER_LOST. -/
def failXfer (s : State) (x : OutXfer) : State :=
  match s.queueQuire x.queue with
  | some q => faultQuire s q.tag 0x85
  | none => (s.setStitch fun t => { t with outX := t.outX.filter (·.num != x.num) }).sendFreed

/-- XFER_LOST (R325): 200 µs without progress while the route of a WRITE or SUM is up. -/
def xferLost (num : Nat) (s : State) : State :=
  match s.outX? num with
  | none => s
  | some x =>
    let d := XDesc.of x.desc
    let up := match s.route d.chip with | some l => !(s.link l).retraining | none => false
    if d.many || !up then s else failXfer (s.advanceTo (x.at_ + usTicks 200)) x

def execXferLost (num : BitVec 16) (s : State) : Host.Outcome State Fault Refusal := .next (xferLost num.toNat s)

/-- A core's remote wait on a chip: the core's own agent writes the outcome FELLED with SYNC_PEER_LOST to its grant
object (R264, R321). -/
def peerLost (s : State) (chip : Nat) (c : Fin 8) : State :=
  match (s.core c).wait, liveQuire s c with
  | some w, some q =>
    if w.remote && (ObjRef.of w.ref).chip == chip then
      let i := q.objBase + c.val % 2
      grantCheck (sigObj s q.cluster i q.tag (({ st := .felled, reason := 0x74 } : TakeOut).grant w.seq)) q.cluster i
    else s
  | _, _ => s

/-- The same for a suspended quire's kept wait. -/
def peerLostKept (s : State) (chip tag : Nat) : State :=
  match tget? s.quires tag, tget? s.qctx tag with
  | some q, some x =>
    let one := fun (s : State) (r : Nat) (w : Option WaitCtx) =>
      match w with
      | some w => if w.remote && (ObjRef.of w.ref).chip == chip then
          sigObj s q.cluster (q.objBase + r) q.tag (({ st := .felled, reason := 0x74 } : TakeOut).grant w.seq)
        else s
      | none => s
    one (one s 0 x.wait0) 1 x.wait1
  | _, _ => s

/-- CHIP_LOST (R321): waits on the chip end, multicasts drop it, transfers to it fail. -/
def chipLost (c : Nat) (s : State) : State :=
  if c = s.chip ∨ s.poolSize ≤ c ∨ (tget s.stitch.members c {}).lost then s
  else
    let s1 := (s.setStitch fun t =>
      { t with members := tmod t.members c {} fun m => { m with lost := true }
               held := t.held.filter fun m => m.2.dst.toNat != c }).event 0x08 c (toLE 4 c)
    let s2 := (List.finRange 8).foldl (fun s k => peerLost s c k) s1
    let s3 := (s2.qctx.map (·.1)).foldl (fun s t => peerLostKept s c t) s2
    s3.stitch.outX.foldl (fun s x =>
      if !x.targets.any (fun t => t.chip == c && !t.done) then s
      else if (XDesc.of x.desc).many then takeComplete s x.num c 0
      else failXfer s x) s3

def execChipLost (chip : Fin 64) (s : State) : Host.Outcome State Fault Refusal := .next (chipLost chip.val s)

/-- CHIP_FOUND (R321): the chip is reachable again. -/
def chipFound (c : Nat) (s : State) : State :=
  if (tget s.stitch.members c {}).lost then
    ((s.setStitch fun t => { t with members := tmod t.members c {} fun m => { m with lost := false } }).event 0x09 c
      (toLE 4 c)).sendHeld
  else s

def execChipFound (chip : Fin 64) (s : State) : Host.Outcome State Fault Refusal := .next (chipFound chip.val s)

end Sys2Proof.Machine
end

