-- ==== Sys2Proof/Machine/Receive.lean ====
section
/-!
DEFINITION. Stitch transfers at their destination (R326 to R334, R452, R271, R272): the checks of each message, the
decoding of narrowed streams, sum groups, joint-reception areas, and the answers; and the launch of a transfer, since
what a chip sends to itself is received at once.
-/

namespace Sys2Proof.Machine
open Sys2Proof

/-! ### Answers -/

/-- Answer the source of a transfer by a CTRL message, or directly where the source is this chip. -/
def replyX (s : State) (src num typ arg : Nat) : State :=
  if src = s.chip then
    match typ with
    | 6 => takeProgress s num src arg
    | 7 => takeComplete s num src arg
    | _ => s
  else s.sendMsg (ctrlMsg s typ src 0 0 num arg)

/-- An incoming transfer. -/
def State.inX? (s : State) (src num : Nat) : Option InXfer := s.stitch.inX.find? fun x => x.src == src && x.num == num

/-- Replace an incoming transfer, or add it. -/
def State.putIn (s : State) (x : InXfer) : State :=
  s.setStitch fun t => { t with inX := x :: t.inX.filter fun y => !(y.src == x.src && y.num == x.num) }

/-! ### The fields of ARG (Table 14-3) -/

def argFmt (m : SMsg) : Nat := (m.arg.extractLsb' 0 4).toNat
def argWire (m : SMsg) : Nat := (m.arg.extractLsb' 4 4).toNat
def argChan (m : SMsg) : Nat := (m.arg.extractLsb' 16 16).toNat
def argDst (m : SMsg) : Nat := (m.arg.extractLsb' 32 32).toNat
def argObj (m : SMsg) : Nat := (m.arg.extractLsb' 64 16).toNat
def argObjN (m : SMsg) : Nat := (m.arg.extractLsb' 80 16).toNat
def argContrib (m : SMsg) : Nat := (m.arg.extractLsb' 96 6).toNat
def argGroup (m : SMsg) : Nat := (m.arg.extractLsb' 104 4).toNat
def argCell (m : SMsg) : Nat := (m.arg.extractLsb' 32 10).toNat
/-- SFN and slot of a JR message, packed under R450. -/
def argSlot (m : SMsg) : Nat := packSfn (m.arg.extractLsb' 54 10).toNat (m.arg.extractLsb' 48 6).toNat
def argLast (m : SMsg) : Bool := m.arg.getLsbD 127

/-! ### Decoding (R57, R58, R327, R452) -/

/-- What decoding a stretch of a narrowed stream gives: the bytes placed, what is left undecoded, format errors, and whether a
COUNT was illegal. -/
structure Decoded where
  out : Bytes := []
  rest : Bytes := []
  errs : Nat := 0
  bad : Bool := false
  /-- The scale register after it (R58). -/
  scale : Nat := 0

/-- The FP32 parts of one channel: NONFINITE is every part quiet NaN, a constant repeats its value, a zero channel is +0, codes are
scaled; with the codes that an encoder never writes. -/
def chanParts (wire parts flags val : Nat) (codes : Bytes) : List Nat × Nat :=
  if bit flags 2 then (List.replicate parts fp32.qnan, 0)
  else if bit flags 0 then (List.replicate parts 0, 0)
  else if bit flags 1 then (List.replicate parts val, 0)
  else
    let l := (unpackCodes wire parts codes).map (linkValue wire val)
    (l.map (·.1), (l.filter (·.2)).length)

/-- Decode channels while whole ones are there. -/
def decodeChans (dst wire clen : Nat) : Nat → Bytes → Bytes → Nat → Nat → Decoded
  | 0, b, out, e, sc => { out := out, rest := b, errs := e, scale := sc }
  | n + 1, b, out, e, sc =>
    if b.length < 8 then { out := out, rest := b, errs := e, scale := sc }
    else
      let h := fld b 0 8
      let cnt := bits h 40 13
      let flags := bits h 32 8
      if cnt = 0 ∨ clen < cnt then { out := out, rest := b, errs := e + 1, bad := true, scale := sc }
      else
        let marks := (bit flags 0).toNat + (bit flags 1).toNat + (bit flags 2).toNat
        let parts := if isCplx dst then 2 * cnt else cnt
        let coded := !bit flags 2 && (bit flags 0 || !bit flags 1)
        let nb := if coded then codeBytes wire parts else 0
        if b.length < 8 + nb then { out := out, rest := b, errs := e, scale := sc }
        else
          let (ps, bad) := chanParts wire parts flags (bits h 0 32) (slice b 8 nb)
          decodeChans dst wire clen n (b.drop (8 + nb)) (out ++ elemBytes dst (linkElems dst ps))
            (e + bad + if 1 < marks then 1 else 0) (if coded then bits h 0 32 else sc)

/-- The bytes that a message places, at a position from the transfer's destination offset on, and the transfer after it. -/
structure Placed where
  pos : Nat
  data : Bytes
  x : InXfer
  errs : Nat := 0
  bad : Bool := false

/-- Decode a message of a transfer (R452). -/
def placeMsg (m : SMsg) (x : InXfer) : Placed :=
  if argWire m = 0xF then { pos := m.offset.toNat, data := m.data, x := x }
  else
    let b := x.rest ++ m.data
    let d := decodeChans (argFmt m) (argWire m) (argChan m) b.length b [] 0 x.scale.toNat
    { pos := x.pos, data := d.out, x := { x with rest := d.rest, pos := x.pos + d.out.length, scale := BitVec.ofNat 32 d.scale }, errs := d.errs, bad := d.bad }

/-- The format fields of a message are ones that R327 and R55 allow. -/
def fmtsOk (m : SMsg) : Bool :=
  argWire m == 0xF && decide (argFmt m ≤ 0xB) || (decide (0xC ≤ argWire m) && linkSource (argFmt m) && argChan m != 0)

/-! ### Sum groups (R271, R272) -/

/-- The format code of a group. -/
def sumFmt : Nat → Nat
  | 0 => 8 | 1 => 3 | _ => 4

/-- One addition in a group's format. -/
def sumElem (fmt a b : Nat) : Nat :=
  if fmt = 8 then to32 (faddV (f32 a) (f32 b))
  else if fmt = 3 then (a + b) % 2 ^ 32
  else intPat 4 (sx 48 (a + b))

/-- Change a sum group of a quire. -/
def State.setSum (s : State) (tag : BitVec 16) (g : Nat) (f : SumGroup → SumGroup) : State :=
  s.setQuire tag.toNat fun q => { q with sums := listMod q.sums g f }

/-- Add bytes of a group's elements into memory. -/
def addInto (s : State) (fmt at_ : Nat) (b : Bytes) : State :=
  let n := fmtBytes fmt
  let old := leList n (s.rd at_ b.length)
  s.wr at_ (elemBytes fmt ((old.zip (leList n b)).map fun p => sumElem fmt p.1 p.2))

/-- The area of a group in the part's memory. -/
def SumGroup.area (g : SumGroup) (q : Quire) : Nat := q.qd.base + g.decl.dst

/-- The contribution is taken: its number is new and below K, and the group's object is neither felled nor stale. -/
def takesContrib (s : State) (q : Quire) (g : SumGroup) (c : Nat) : Bool :=
  let o := s.obj q.cluster (q.objBase + g.decl.obj)
  decide (c < g.decl.k) && !g.seen.contains c && !o.felled && o.owner == q.tag

/-- Add the staged contributions in contributor order, each only where it carried elements (R272). -/
def addStaged (s : State) (q : Quire) (g : SumGroup) (at_ : Nat) : State :=
  let dst := cmemAt q.cluster.val + g.area q
  (sortBy (fun (a b : Nat × List Nat) => decide (a.1 ≤ b.1)) g.carried).foldl (fun s p =>
    p.2.foldl (fun s i => addInto s 8 (dst + 4 * i) (s.rd (at_ + p.1 * g.decl.bytes + 4 * i) 4)) s) s

/-- A contribution has landed (R271, R272). -/
def landSum (s : State) (q : Quire) (i c : Nat) : State :=
  let s1 := s.setSum q.tag i fun g => { g with got := g.got ++ [c] }
  match ((tget? s1.quires q.tag.toNat).bind fun q => q.sums[i]?) with
  | none => s1
  | some g =>
    let obj := q.objBase + g.decl.obj
    match g.staging with
    | none => sigObj s1 q.cluster obj q.tag 1
    | some a =>
      if g.got.length = g.decl.k then sigObj (addStaged s1 q g a) q.cluster obj q.tag (BitVec.ofNat 32 g.decl.k)
      else s1

/-! ### One message in its place -/

/-- How a message meets its target: it is written, or not, and then whether its transfer is answered, by which code. -/
inductive Verdict where
  | ok | refused (code : Nat)
deriving DecidableEq, Repr

/-- A started quire with a tag on a cluster. -/
def State.target? (s : State) (k : Fin 4) (tag : BitVec 16) : Option Quire :=
  (tget? s.quires tag.toNat).bind fun q => if q.cluster = k ∧ q.started then some q else none

/-- The message fails its check (R326). -/
def refuseMsg (s : State) : State × Verdict := (s.slCount .refused 0, .refused 1)

/-- A persistent parity error at the target (R326): two events, and the quire whose window it is faults. -/
def parityMsg (s : State) (k : Fin 4) (q : Option Quire) : State × Verdict :=
  let s1 := s.setCl k fun c => { c with parityEvents := c.parityEvents + 2 }
  let s2 := match q with | some q => faultQuire s1 q.tag 0x57 | none => s1
  refuseMsg s2

/-- A WRITE message (R326). -/
def onWrite (m : SMsg) (parity : Bool) (p : Placed) (s : State) : State × Verdict :=
  match s.target? m.cluster m.tag with
  | none => refuseMsg s
  | some q =>
    let a := argDst m + p.pos
    if !inside a p.data.length q.qd.base q.qd.len then refuseMsg s
    else if parity then parityMsg s m.cluster (some q)
    else (s.wr (cmemAt m.cluster.val + a) p.data, .ok)

/-- An MCAST message (R326, R335). -/
def onMcast (m : SMsg) (parity : Bool) (p : Placed) (s : State) : State × Verdict :=
  let w := s.poolWin
  let a := argDst m + p.pos
  if !inside a p.data.length w.base w.len then refuseMsg s
  else if parity then parityMsg s m.cluster none
  else (s.wr (cmemAt m.cluster.val + a) p.data, .ok)

/-- A SUM message (R271, R272, R326): its first message claims the contributor number. -/
def onSum (m : SMsg) (parity : Bool) (p : Placed) (s : State) : State × Verdict :=
  match s.target? m.cluster m.tag with
  | none => refuseMsg s
  | some q =>
    match q.sums[argGroup m]? with
    | none => refuseMsg s
    | some g =>
      let fmt := sumFmt g.decl.fmt
      let n := fmtBytes fmt
      let a := argDst m + p.pos
      let rel := a - g.area q
      let c := argContrib m
      if argWire m ≠ 0xF ∨ argFmt m ≠ fmt ∨ !inside a p.data.length (g.area q) g.decl.bytes
          ∨ !inside (g.area q) g.decl.bytes q.qd.base q.qd.len ∨ rel % n ≠ 0
          ∨ p.data.length % n ≠ 0 then refuseMsg s
      else if m.seq = 0 ∧ !takesContrib s q g c then
        (s.setCl m.cluster fun k => { k with sumDiscarded := k.sumDiscarded + 1 }, .refused 1)
      else
        let s1 := if m.seq = 0 then s.setSum q.tag (argGroup m) fun g => { g with seen := g.seen ++ [c] } else s
        let s2 := if m.seq = 0 ∧ g.decl.fmt = 0 ∧ !q.pressed ∧ 1 ≤ g.seen.length then
            s1.setQuire q.tag.toNat fun q => { q with flags := { q.flags with arrivalOrder := true } }
          else s1
        if parity then parityMsg s2 m.cluster (some q)
        else match g.staging with
          | none => (addInto s2 fmt (cmemAt m.cluster.val + a) p.data, .ok)
          | some st =>
            let els := (List.range (p.data.length / 4)).map (rel / 4 + ·)
            let old := match g.carried.find? (fun x => x.1 == c) with | some x => x.2 | none => []
            ((s2.wr (st + c * g.decl.bytes + rel) p.data).setSum q.tag (argGroup m) fun g =>
              { g with carried := (c, old ++ els) :: g.carried.filter fun x => x.1 != c }, .ok)

/-! ### Joint reception (R331 to R334) -/

/-- The areas that a JR message is for: those of the cluster's cells that have the sending cell as a peer, in the half of its
slot. -/
def jrAreas (s : State) (m : SMsg) : List (Nat × JrHalf) :=
  s.stitch.jr.filter fun p => p.2.cluster == m.cluster && p.1 % 2 == argSlot m % 2
    && (match s.cell? (p.1 / 8) with | some c => c.jrPeers[p.1 % 8 / 2]? == some (argCell m) | none => false)

/-- The open slot-reception of a cell and slot. -/
def State.slotQuire (s : State) (cell slot : Nat) : Option Quire :=
  (s.quires.find? fun p => p.2.kind == .slotReception && p.2.owner == cell && p.2.sfnSlot == slot && p.2.started).map (·.2)

/-- The cut-off of a half has passed for a slot, in loose mode (R333). -/
def jrLate (s : State) (p : Nat × JrHalf) (slot : Nat) : Bool :=
  let pressed := match s.slotQuire (p.1 / 8) slot with | some q => q.pressed | none => s.pressed
  !pressed && p.2.cutoff == some slot

/-- What becomes of a JR message at one area. -/
inductive JrFate where
  | accept | blocked | discard | exceeds | late
deriving DecidableEq, Repr

/-- R332, R333: joint reception with the sender is blocked; the half is armed for another slot; the message would pass the
area; the cut-off has passed. -/
def jrFate (s : State) (src slot pos len : Nat) (p : Nat × JrHalf) : JrFate :=
  let off := match s.slotQuire (p.1 / 8) slot with | some q => q.jrOff.contains src | none => !s.jrOk src
  if off then .blocked
  else if p.2.armed.isSome && p.2.armed != some slot then .discard
  else if p.2.bytes < pos + len then .exceeds
  else if jrLate s p slot then .late
  else .accept

/-- The counter of a JR message that an area does not take. -/
def jrCount (s : State) (cell : Nat) : JrFate → State
  | .accept => s
  | .blocked => s.slCount .jrBlockedDrop cell
  | .discard => s.slCount .jrDiscard cell
  | .exceeds => s.slCount .refused 0
  | .late => s.slCount .jrLate cell

/-- A JR message: each area that takes it is armed and written; the transfer is refused, or abandoned after a cut-off, where
none takes it. -/
def onJr (m : SMsg) (parity : Bool) (p : Placed) (s : State) : State × Verdict :=
  let areas := (jrAreas s m).filter fun a => m.seq == 0 || p.x.halves.contains a.1
  let fates := areas.map fun a => (a, jrFate s m.src.toNat (argSlot m) p.pos p.data.length a)
  let s1 := fates.foldl (fun s f => jrCount s (f.1.1 / 8) f.2) s
  let take := (fates.filter fun f => f.2 == .accept).map (·.1)
  if (jrAreas s m).isEmpty then refuseMsg s
  else if take.isEmpty then (s1, .refused (if fates.any (fun f => f.2 == .late) then 2 else 1))
  else if parity then parityMsg s1 m.cluster none
  else
    let s2 := take.foldl (fun s a =>
      (s.wr (cmemAt m.cluster.val + a.2.base + p.pos) p.data).setStitch fun t =>
        { t with jr := tset t.jr a.1 { a.2 with armed := some (argSlot m) } }) s1
    (s2.putIn { p.x with jrSlot := some (argSlot m), halves := take.map (·.1) }, .ok)

/-! ### A data message (R326, R452) -/

/-- The transfer is received whole (R328, R325): REMOTE_OBJ, the contribution or the ready object counts, and COMPLETE. -/
def landX (m : SMsg) (x : InXfer) (s : State) : State :=
  let s1 := match m.typ.toNat with
    | 3 => match s.target? m.cluster m.tag with
      | some q => landSum s q (argGroup m) (argContrib m)
      | none => s
    | 4 => x.halves.foldl (fun s k => match tget? s.stitch.jr k with
      | some h => sigObj s h.cluster h.readyObj 0 1
      | none => s) s
    | _ => s
  let s2 := if m.typ.toNat = 4 then s1
    else addDone s1 m.cluster m.tag (argObj m) (argObjN m)
  replyX s2 m.src.toNat m.xfer.toNat 7 0

/-- A message of a transfer that is no longer written: it is counted and the order goes on. -/
def dropMsg (m : SMsg) (x : InXfer) (s : State) : State :=
  let s1 := if m.typ.toNat = 4 then
      (jrAreas s m).foldl (fun s a =>
        jrCount s (a.1 / 8) (jrFate s m.src.toNat (argSlot m) m.offset.toNat m.data.length a)) s
    else if m.typ.toNat = 3 ∧ (((s.target? m.cluster m.tag).bind fun q => q.sums[argGroup m]?).isSome : Bool) then s
    else s.slCount .refused 0
  s1.putIn { x with nextSeq := x.nextSeq + 1, ended := x.ended || argLast m }

/-- The next message of a transfer in order. `par` says what its words in the cluster memory meet: nothing, a parity error that
the re-read mends, one that stays (R155, R326). -/
def nextMsg (on : SMsg → Bool → Placed → State → State × Verdict) (m : SMsg) (par : Fin 3) (x : InXfer) (s : State) :
    State :=
  if x.refused then dropMsg m x s
  else
    let p := if fmtsOk m then placeMsg m x else { pos := 0, data := [], x := x, bad := true }
    let s1 := s.slCount .fmtErr 0 p.errs
    let (s2, v) := if !fmtsOk m then refuseMsg s1
      else if p.bad then (s1, .refused 1)
      else on m (par == 2) p (if par = 1 then s1.setCl m.cluster fun c => { c with parityEvents := c.parityEvents + 1 } else s1)
    let x2 := match s2.inX? x.src x.num with
      | some y => { p.x with jrSlot := y.jrSlot, halves := y.halves }
      | none => p.x
    match v with
    | .refused code =>
      replyX (s2.putIn { x2 with refused := true, nextSeq := x.nextSeq + 1, ended := argLast m }) x.src x.num 7 code
    | .ok =>
      let wire := x.wire + m.data.length
      let x3 := { x2 with nextSeq := x.nextSeq + 1, wire := wire, ended := argLast m }
      let s3 := s2.putIn x3
      let s4 := if x.wire / 16384 < wire / 16384 then replyX s3 x.src x.num 6 wire else s3
      if argLast m then landX m x3 s4 else s4

/-- The distance of a MSG_SEQ beyond the one expected, modulo 65,536, says whether messages were lost or it repeats. -/
def seqBeyond (x : InXfer) (m : SMsg) : Bool := decide ((m.seq - x.nextSeq).toNat < 0x8000)

/-- A data message (R452): in order it is taken; a repeat is discarded and counted; a message beyond the next one is
discarded, counted, and asked for by READ_REQ. A first message opens a transfer. -/
def recvData (on : SMsg → Bool → Placed → State → State × Verdict) (par : Fin 3) (m : SMsg) (s : State) : State :=
  let src := m.src.toNat
  let num := m.xfer.toNat
  let new : InXfer := { src := src, num := num }
  match s.inX? src num with
  | none =>
    if m.seq = 0 then nextMsg on m par new (s.putIn new)
    else replyX (s.slCount .msgBad 0) src num 5 0
  | some x =>
    if x.ended ∧ m.seq = 0 then nextMsg on m par new (s.putIn new)
    else if x.ended then s.slCount .msgBad 0
    else if m.seq = x.nextSeq then nextMsg on m par x s
    else
      let s1 := s.slCount .msgBad 0
      if seqBeyond x m && !x.refused then replyX s1 src num 5 x.wire else s1

def execWrite (m : SMsg) (par : Fin 3) (s : State) : Host.Outcome State Fault Refusal :=
  .next (onMsg 0x01 (recvData onWrite par) m s)
def execMcast (m : SMsg) (par : Fin 3) (s : State) : Host.Outcome State Fault Refusal :=
  .next (onMsg 0x02 (recvData onMcast par) m s)
def execSum (m : SMsg) (par : Fin 3) (s : State) : Host.Outcome State Fault Refusal :=
  .next (onMsg 0x03 (recvData onSum par) m s)
def execJr (m : SMsg) (par : Fin 3) (s : State) : Host.Outcome State Fault Refusal :=
  .next (onMsg 0x04 (recvData onJr par) m s)

/-- A data message by its TYPE. -/
def recvAny (m : SMsg) (s : State) : State :=
  match m.typ.toNat with
  | 1 => recvData onWrite 0 m s
  | 2 => recvData onMcast 0 m s
  | 3 => recvData onSum 0 m s
  | 4 => recvData onJr 0 m s
  | _ => s

/-- CUT (R330): the target asks for the rest from the first wire offset it has not received; after the cut-off in loose mode
it abandons a JR transfer. -/
def onCut (m : SMsg) (s : State) : State :=
  let src := m.src.toNat
  let num := m.xfer.toNat
  match s.inX? src num with
  | none => replyX (s.putIn { src := src, num := num, cut := true }) src num 5 0
  | some x =>
    if x.ended || x.refused then s
    else
      let late := match x.jrSlot with
        | some slot => x.halves.all fun k => match tget? s.stitch.jr k with | some h => jrLate s (k, h) slot | none => true
        | none => false
      if late then replyX (s.putIn { x with cut := true, refused := true, ended := true }) src num 7 2
      else replyX (s.putIn { x with cut := true }) src num 5 x.wire

def execCut (m : SMsg) (s : State) : Host.Outcome State Fault Refusal := .next (onMsg 0x08 onCut m s)

/-! ### The launch of a transfer (R324, R325) -/

/-- A queue's scale register after encoding channels: the scale of the last scaled one, 0.0 where a zero channel came after (R55, R56; one
register a queue, DESIGN CHOICE, log entry 18). -/
def setScale (s : State) (n : Nat) (l : List ChanEnc) : State :=
  match (l.filter fun e => !e.const).getLast? with
  | some e => s.setStitch fun t =>
      if h : n < 32 then { t with queues := vmod t.queues ⟨n, h⟩ fun q => { q with scale := BitVec.ofNat 32 (if e.zero then 0 else e.scale) } } else t
  | none => s

/-- Send a checked descriptor: the whole stream to the target of a WRITE or SUM, the first window of a multicast; what goes to
this chip is received at once; a lost member counts as complete (R321), and so does a member with which joint reception was
blocked at quire start (Table 14-5). -/
def launchX (s : State) (q : Quire) (n : Nat) (raw : Bytes) : State :=
  let d := XDesc.of raw
  let stream := d.stream s q
  let chans := if d.narrow then d.channels stream else []
  let wire := if d.narrow then chans.flatMap fun c => chanBytes d.wire c.1 c.2 else stream
  let nf := (chans.filter fun c => c.2.nonfinite).length
  let s1 := (s.slCount .nonfinite 0 nf).slCount .underflow 0 (chans.filter fun c => c.2.underflow).length
  let s2 := if 0 < nf then
      s1.markLeaf q.tag (fun f => { f with nonfinite := true }) fun l => { l with nonfinite := true }
    else s1
  let (num, s3) := (setScale s2 n (chans.map (·.2))).newXfer
  let gone := fun c => d.many && ((tget s.stitch.members c {}).lost || (d.kind == 3 && q.jrOff.contains c))
  let x : OutXfer :=
    { num := num, queue := n, desc := raw, wire := wire, sent := 0, at_ := s.ticks.toNat
      targets := d.chips.map fun c => { chip := c, done := gone c, via := s.route c } }
  let s4 := s3.setStitch fun t => { t with outX := t.outX ++ [x] }
  let s5 := if d.many then goOn s4 x else if d.chip = s.chip then s4 else sendWire s4 x d.chip 0 wire.length
  let s6 := if d.chips.contains s.chip && !gone s.chip then
      (msgNos 0 wire.length).foldl (fun s i => recvAny (dataMsg s x s.chip i) s) s5
    else s5
  endIfDone s6 num

/-- STITCH_DESCRIPTOR (R324, R325): a queue with a launch counted takes its next descriptor, once the one before has
completed. -/
def stitchDescriptor (n : Fin 32) (s : State) : State :=
  let sq := s.stitch.queues[n]
  match sq.quire.bind fun t => tget? s.quires t.toNat with
  | none => s
  | some q =>
    let o := s.obj q.cluster sq.launchObj
    if sq.descs = [] ∨ o.count = 0 ∨ s.stitch.outX.any (fun x => x.queue == n.val) ∨ q.state = .suspended ∧ !q.kind.lc then s
    else
      let raw := (sq.descs[sq.next.toNat % sq.descs.length]?).getD []
      let d := XDesc.of raw
      let s1 := s.putObj q.cluster sq.launchObj { o with count := o.count - 1 }
      match d.check s1 q sq.next with
      | some code => faultQuire s1 q.tag code
      | none =>
        if !d.many && (tget s.stitch.members d.chip {}).lost then faultQuire s1 q.tag 0x85
        else launchX (s1.setStitch fun t => { t with queues := t.queues.set n { sq with next := sq.next + 1 } }) q n.val raw

def execStitchDescriptor (q : Fin 32) (s : State) : Host.Outcome State Fault Refusal := .next (stitchDescriptor q s)

/-! ### Cut-offs and deadlines of the areas (R332, R333) -/

/-- The AON tick of a slot close, where the cell's slot is known. -/
def State.closeOf (s : State) (cell slot : Nat) : Option Nat :=
  match s.coding.rx.find? fun p => p.2.cell == cell && p.2.sfnSlot == slot with
  | some (_, r) => some r.close
  | none => none

/-- Waits on a ready object end with EXPIRED, and the omission is flagged (R274, R333). -/
def expireReady (s : State) (h : JrHalf) (tag : BitVec 16) : State :=
  (List.finRange 8).foldl (fun s c =>
    match (s.core c).wait with
    | some w =>
      if !w.remote && (s.core c).leaf == some tag && clOfCore c == h.cluster && (ObjRef.of w.ref).index == h.readyObj then
        (expireWait s c w).setQuire tag.toNat fun q => { q with flags := { q.flags with jrOmitted := true } }
      else s
    | none => s) s

/-- JR_CUTOFF (R330, R333): at slot close + JR_CUTOFF, in loose mode, WAITs on the ready objects of the slot's half end with
EXPIRED, and fetches after a cut are abandoned. -/
def jrCutoff (cell slot : Nat) (s0 : State) : State :=
  match s0.cell? cell with
  | none => s0
  | some c =>
    let q := s0.slotQuire cell slot
    let pressed := match q with | some q => q.pressed | none => s0.pressed
    if pressed then s0
    else
      let s : State := match s0.closeOf cell slot with
        | some t => s0.advanceTo (t + usTicks c.jrCutoff)
        | none => s0
      let keys := ((s.stitch.jr.filter fun p => p.1 / 8 == cell && p.1 % 2 == slot % 2).map (·.1))
      let s1 := s.setStitch fun t =>
        { t with jr := tmap t.jr fun k h => if keys.contains k then { h with cutoff := some slot } else h }
      let s2 : State := match q with
        | some q => (s.stitch.jr.filter fun p => keys.contains p.1).foldl (fun s p => expireReady s p.2 q.tag) s1
        | none => s1
      s2.stitch.inX.foldl (fun s x =>
        if x.cut && !x.ended && !x.refused && x.jrSlot == some slot && x.halves.all keys.contains && !x.halves.isEmpty then
          replyX (s.putIn { x with refused := true, ended := true }) x.src x.num 7 2
        else s) s2

def execJrCutoff (cell : Fin 64) (sfnSlot : Nat) (s : State) : Host.Outcome State Fault Refusal :=
  .next (jrCutoff cell.val sfnSlot s)

/-- JR_AREA_DEADLINE (R332): the deadline of a slot has passed without a quire: its halves are released and their ready
objects set to 0. -/
def jrAreaDeadline (cell slot : Nat) (s : State) : State :=
  if (s.slotQuire cell slot).isSome then s
  else
    (s.stitch.jr.filter fun p => p.1 / 8 == cell && p.2.armed == some slot).foldl (fun s p =>
      (s.putObj p.2.cluster p.2.readyObj {}).setStitch fun t => { t with jr := tset t.jr p.1 { p.2 with armed := none } }) s

def execJrAreaDeadline (cell : Fin 64) (sfnSlot : Nat) (s : State) : Host.Outcome State Fault Refusal :=
  .next (jrAreaDeadline cell.val sfnSlot s)

end Sys2Proof.Machine
end

