-- ==== Sys2Proof/Machine/Registers.lean ====
section
/-!
DEFINITION. The BAR0 register map (R4, R6, R7, R419 to R431): what each register reads, and what a write does under its access
code.
-/

namespace Sys2Proof.Machine
open Sys2Proof

/-! ### Reading -/

/-- Half of a 64-bit register: the low or the high 32 bits. -/
def half (off v : Nat) : Nat := if off % 8 = 0 then v % 2 ^ 32 else v / 2 ^ 32 % 2 ^ 32

/-- FUSE_CTRL (R423). -/
def Fuses.ctrl (f : Fuses) : Nat := f.key0Revoked.toNat + 2 * f.lifecycle.toNat + 8 * f.jtagLock.toNat

/-- BOOT_STATUS (Table 19-4). -/
def Boot.status (b : Boot) : Nat :=
  b.faultA.toNat * 2 ^ 24 + b.faultB.toNat * 2 ^ 16 + b.memFault.toNat * 2 ^ 8 + b.identityMismatch.toNat * 2 ^ 7
    + b.bootSlotB.toNat * 2 ^ 6 + b.state.code

/-- A word of a digest, digest byte 0 at the lowest offset (R423). -/
def digestWord (d : Bytes) (off : Nat) : Nat := fld d off 4

/-- The identification group (R422, R423). -/
def readIdent (s : State) (off : Nat) : Nat :=
  let f := s.sec.shadow
  if off = 0x0 then 0x16320001
  else if off = 0x4 then s.boot.fwRelease.toNat
  else if off = 0x8 then s.boot.status
  else if off = 0xC then s.boot.resetCause.toNat
  else if off = 0x10 ∨ off = 0x14 then half off s.ticks.toNat
  else if 0x100 ≤ off ∧ off < 0x120 then digestWord Config.fwHash0 (off - 0x100)
  else if 0x120 ≤ off ∧ off < 0x140 then digestWord Config.fwHash1 (off - 0x120)
  else if 0x140 ≤ off ∧ off < 0x160 then
    (match f.ownerRoot with | some r => digestWord r (off - 0x140) | none => 0)
  else if off = 0x160 ∨ off = 0x164 then half off f.fwSvn.toNat
  else if off = 0x168 ∨ off = 0x16C then half off f.pkgSvn.toNat
  else if off = 0x170 then f.ctrl
  else 0

/-- LINK_STATE (R424). -/
def HostLink.linkState (h : HostLink) : Nat :=
  h.speed.toNat + h.width.toNat * 8 + h.l0.toNat * 256 + h.secure0.toNat * 512 + h.secure1.toNat * 1024

/-- INT_STATUS: its HL_ERROR bit follows HL_ERR_STATUS (R424). -/
def HostLink.interrupts (h : HostLink) : Nat := h.intStatus.toNat + (decide (h.err ≠ 0)).toNat

/-- The host-link group (R424). -/
def readHost (h : HostLink) (off : Nat) : Nat :=
  if off = 0x1000 then h.err.toNat
  else if off = 0x1004 then h.ideRequired.toNat
  else if off = 0x1008 then h.linkState
  else if off = 0x100C then h.lock.toNat
  else if off = 0x1010 then h.interrupts
  else 0

/-- A mask of a flag of the rings by RING code. -/
def ringMask (m : Mailbox) (f : Ring → Bool) : Nat :=
  (List.range 5).foldl (fun n i => if f (m.ring i) then n + 2 ^ i else n) 0

/-- The mailbox group (R425, R426). -/
def readMbx (s : State) (off : Nat) : Nat :=
  let m := s.mbx
  if off = 0x2000 ∨ off = 0x2004 then half off m.cmdBase.toNat
  else if off = 0x2008 ∨ off = 0x200C then half off m.rspBase.toNat
  else if off = 0x2010 ∨ off = 0x2014 then half off m.evtBase.toNat
  else if off = 0x2018 ∨ off = 0x201C then half off m.idxBase.toNat
  else if off = 0x2020 then m.log2Size
  else if off = 0x2030 then ringMask m (·.halted) + ringMask m (·.badIndex) * 256
  else if off = 0x2034 then m.reportCount.toNat
  else if off = 0x2038 ∨ off = 0x203C then half off m.evtDropped.toNat
  else if off = 0x2040 ∨ off = 0x2044 then half off s.colo.unsealed.toNat
  else 0

/-- MARK_MISSING of a local cell. -/
def missingOf (s : State) (c : Nat) : Nat :=
  match tget? s.cfg.cells c with
  | some x => x.markMissing.toNat
  | none => 0

/-- A cluster by number, for a register's index. -/
def clusterOf (s : State) (k : Nat) : Cluster := (s.clusters.toList[k]?).getD {}

/-- The slot-mark group (Table 19-8). -/
def readMarks (s : State) (off : Nat) : Nat :=
  if off = 0x3008 ∨ off = 0x300C then half off s.cfg.markIgnored.toNat
  else if 0x3040 ≤ off ∧ off < 0x3060 then half off (clusterOf s ((off - 0x3040) / 8)).evictLate.toNat
  else if 0x3100 ≤ off ∧ off < 0x3300 then half off (missingOf s ((off - 0x3100) / 8))
  else 0

/-- DMA_STATUS (R428). -/
def DmaChan.status (c : DmaChan) : Nat :=
  c.completed.toNat + (match c.run with | some r => r.parked.isSome | none => false).toNat * 2 ^ 16 + c.run.isSome.toNat * 2 ^ 17

/-- The host DMA group (R428). -/
def readDma (s : State) (off : Nat) : Nat :=
  if 0x4000 ≤ off ∧ off < 0x4080 ∧ off % 16 = 4 then
    (match s.dma.toList[8 + (off - 0x4000) / 16]? with | some c => c.status | none => 0)
  else 0

/-- THROTTLE_STATE (R429). -/
def Power.throttleState (p : Power) : Nat :=
  lowBits 8 p.hottest * 2 ^ 24 + p.causeLast % 16 * 2 ^ 16 + p.asking * 2 ^ 8 + p.floor.val * 2 ^ 4 + p.step.val

/-- The power group (R429). -/
def readPower (p : Power) (off : Nat) : Nat :=
  if off = 0x5000 then p.throttleState
  else if off = 0x5004 then p.meanPower.toNat * 2 ^ 16 + p.state.code % 8
  else if off = 0x5008 ∨ off = 0x500C then half off p.changes.toNat
  else 0

/-- The counters of a cluster in the order of R430. -/
def Cluster.account (c : Cluster) (i : Nat) : Nat :=
  match i with
  | 0 => c.lcCycles.toNat | 1 => c.beCycles.toNat | 2 => c.idleCycles.toNat | 3 => c.sigDiscarded.toNat
  | 5 => c.grantWait.toNat | _ => 0

/-- The mask of retired engines. -/
def State.retiredMask (s : State) : Nat := 0xFFFF - s.engineMask

/-- The compute-status group (R430). -/
def readCompute (s : State) (off : Nat) : Nat :=
  if off = 0x6000 then s.retiredMask
  else if 0x6100 ≤ off ∧ off < 0x6200 then
    half off ((clusterOf s ((off - 0x6100) / 0x40)).account ((off - 0x6100) % 0x40 / 8))
  else 0

/-- Codes of a link's state and lanes (R430). -/
def LinkState.code : LinkState → Nat
  | .down => 0 | .training => 1 | .up => 2 | .degraded => 3 | .miswired => 4

def lanesCode (n : Nat) : Nat := if n = 4 then 2 else if n = 2 then 1 else 0

/-- FH_PORT_STATE and SL_LINK_STATE (R430). -/
def readPorts (s : State) (off : Nat) : Nat :=
  if off = 0x7000 then
    (List.range 8).foldl (fun n p =>
      match s.fe.ports.toList[p]? with
      | some x => n + (x.up.toNat + x.rate % 8 * 2) * 16 ^ p
      | none => n) 0
  else if off = 0x7004 then
    (List.range 4).foldl (fun n l =>
      match s.stitch.links.toList[l]? with
      | some k => n + (k.state.code + lanesCode k.lanes * 8 + k.rate % 2 * 32) * 256 ^ l
      | none => n) 0
  else 0

/-- The engine, core and memory counters (R431). -/
def readCtrs (s : State) (off : Nat) : Nat :=
  if off < 0x11000 then
    let i := off % 0x100 / 8
    half off (match (s.eng ((off - 0x10000) / 0x100)).ctrs.toList[i]? with | some v => v.toNat | none => 0)
  else if off < 0x11040 then
    half off (match s.cores.toList[(off - 0x11000) / 8]? with | some c => c.issueWait.toNat | none => 0)
  else if 0x11100 ≤ off ∧ off < 0x11120 then half off (clusterOf s ((off - 0x11100) / 8)).parityEvents.toNat
  else 0

/-- The 32-bit word that BAR0 reads at an aligned offset inside a group (R419): 0 where no register stands, and of a write-only
register. -/
def regWord (s : State) (off : Nat) : BitVec 32 :=
  BitVec.ofNat 32 <|
    if off < 0x1000 then readIdent s off
    else if off < 0x2000 then readHost s.host off
    else if off < 0x3000 then readMbx s off
    else if off < 0x4000 then readMarks s off
    else if off < 0x5000 then readDma s off
    else if off < 0x6000 then readPower s.power off
    else if off < 0x7000 then readCompute s off
    else if off < 0x8000 then readPorts s off
    else if 0x10000 ≤ off ∧ off < 0x12000 then readCtrs s off
    else 0

/-- What a single 64-bit read returns: both halves of one instant (R5). -/
def regQword (s : State) (off : Nat) : BitVec 64 := regWord s (off + 4) ++ regWord s off

/-! ### The configuration header (R342) -/

/-- The functions that the part presents: function 0 alone, and no virtual function. -/
def pciFunctions : List Nat := [0]

/-- The header's identification words: Device ID and vendor identifier at 0x00, class code and Revision ID at 0x08, the header type of a
single function at 0x0C. -/
def pciHeader (off : Nat) : Option (BitVec 32) :=
  match off with
  | 0x00 => some ((0x1632 : BitVec 16) ++ Config.pciVendor)
  | 0x08 => some 0x12000000
  | 0x0C => some 0
  | _ => none

/-! ### Writing -/

/-- An offset inside a group of Table 19-1. -/
def inGroup (off : Nat) : Bool := decide (off < 0x8000 ∨ (0x10000 ≤ off ∧ off < 0x12000))

/-- Replace half of a 64-bit register, its low `m` bits reading 0. -/
def setHalf (off m : Nat) (v : BitVec 32) (r : BitVec 64) : BitVec 64 :=
  let n := r.toNat
  let w := if off % 8 = 0 then n / 2 ^ 32 * 2 ^ 32 + v.toNat else n % 2 ^ 32 + v.toNat * 2 ^ 32
  BitVec.ofNat 64 (w / 2 ^ m * 2 ^ m)

/-- Clear the BAD_INDEX flags whose bits are written 1 (R426). -/
def clearBad (v : BitVec 32) (m : Mailbox) : Mailbox :=
  (List.range 5).foldl (fun m i => if v.getLsbD (8 + i) then m.setRing i { m.ring i with badIndex := false } else m) m

/-- SEC_LOCK.LOCK is set (R424). -/
def setLock (s : State) : State := s.setHost fun h => { h with lock := true }

/-- A 32-bit write to an aligned offset inside a group, under the register's access code (R6); a write to a reserved or read-only
register is ignored. Doorbells act as their own commands do. -/
def write32 (off : Nat) (v : BitVec 32) (s : State) : State :=
  if off = 0x1000 then s.setHost fun h => { h with err := h.err &&& ~~~(v.setWidth 9) }
  else if off = 0x1004 then (if s.host.lock then s else s.setHost fun h => { h with ideRequired := v.getLsbD 0 })
  else if off = 0x100C then (if v.getLsbD 0 then setLock s else s)
  else if off = 0x1010 then s.setHost fun h => { h with intStatus := h.intStatus &&& ~~~(v.setWidth 16) }
  else if off = 0x2000 ∨ off = 0x2004 then s.setMbx fun m => { m with cmdBase := setHalf off 12 v m.cmdBase }
  else if off = 0x2008 ∨ off = 0x200C then s.setMbx fun m => { m with rspBase := setHalf off 12 v m.rspBase }
  else if off = 0x2010 ∨ off = 0x2014 then s.setMbx fun m => { m with evtBase := setHalf off 12 v m.evtBase }
  else if off = 0x2018 ∨ off = 0x201C then s.setMbx fun m => { m with idxBase := setHalf off 6 v m.idxBase }
  else if off = 0x2020 then s.setMbx fun m => { m with log2Size := clampNat 16 24 (v.toNat % 32) }
  else if off = 0x2030 then s.setMbx (clearBad v)
  else if off = 0x3000 then slotMark v s
  else if 0x4000 ≤ off ∧ off < 0x4080 ∧ off % 16 = 0 then
    (let n : Fin 8 := ⟨(off - 0x4000) / 16 % 8, by omega⟩
     if v.getLsbD 31 then dmaDbCancel n s else dmaDbCount n (v.setWidth 16) s)
  else s

/-- A write of MBX_DOORBELL, which takes one 64-bit write (R362). -/
def doorbellWrite (v : BitVec 64) (s : State) : State :=
  let n := v.toNat % 16
  if 4 < n then s
  else if v.getLsbD 31 then doorbellReset n s
  else doorbell n (BitVec.ofNat 32 (v.toNat / 2 ^ 32)) s

/-- REGISTER_WRITE: a write of 32 bits, or of 64 (`wide`). -/
def registerWrite (off : BitVec 21) (val : BitVec 64) (wide : Bool) (s : State) : State :=
  let o := off.toNat
  if o = 8 ∧ (s.boot.state = .failed ∨ s.boot.state = .bootRom) then s
  else barReq false s fun s =>
    if o % (if wide then 8 else 4) ≠ 0 then s.hlError 3
    else if !inGroup o then (s.emit (.unsupported false)).hlError 4
    else if !wide then write32 o (val.setWidth 32) s
    else if o = 0x2028 then doorbellWrite val s
    else write32 (o + 4) (BitVec.ofNat 32 (val.toNat / 2 ^ 32)) (write32 o (val.setWidth 32) s)

def execRegisterWrite (off : BitVec 21) (val : BitVec 64) (wide : Bool) (s : State) : Host.Outcome State Fault Refusal :=
  .next (registerWrite off val wide s)

/-- SEC_LOCK_SET (R424). -/
def execSecLockSet (s : State) : Host.Outcome State Fault Refusal := .next (barReq false s setLock)

end Sys2Proof.Machine
end

