-- ==== Sys2Proof/Machine/Reset.lean ====
section
/-!
DEFINITION. Resets, start-up and the events that bring them (R385, R388, R390, R392, R401, R411, R413 to R418, R441).
-/

namespace Sys2Proof.Machine
open Sys2Proof

/-! ### The HOST level (R414, Table 18-7) -/

/-- The fuse shadow is copied at every reset (R385). -/
def Security.reshadow (x : Security) : Security := { x with shadow := x.fuses, spdm := {} }

/-- What every reset level clears: the host link with IDE and HL_ERR_STATUS, the mailbox rings and their registers, the command in
progress, the host channels and host windows. The locks and INT_STATUS stay; `keep` keeps the trained link. -/
def hostReset (keep : Bool) (s : State) : State :=
  let s1 := s.stopDma
  let windows : Vector (Option DevWindow) 64 := s1.windows.map fun w =>
    match w with
    | some x => if x.host then none else some x
    | none => none
  let h := s.host
  let link : HostLink :=
    { speed := if keep then h.speed else 0, width := if keep then h.width else 0, l0 := keep && h.l0
      ideRequired := h.ideRequired, lock := h.lock, intStatus := h.intStatus }
  let m := s.mbx
  { s1 with
    windows := windows
    host := link
    sec := s.sec.reshadow
    mbx := { rspWait := m.rspWait, spcWait := m.spcWait, evtDropped := m.evtDropped, evtOwed := m.evtOwed
             evtHeld := m.evtHeld } }

/-- HOT_RESET (R358, R414): the link has left L0, so LINK_DOWN_EVENT is set; a function in D3hot is in D0 after it. -/
def hotReset (s : State) : State := (hostReset false (d0Return s)).hlError 1

def execHotReset (s : State) : Host.Outcome State Fault Refusal := .next (hotReset s)

/-- FUNCTION_LEVEL_RESET (R358, R414): the link stays trained. -/
def functionLevelReset (s : State) : State := hostReset true (d0Return s)

def execFunctionLevelReset (s : State) : Host.Outcome State Fault Refusal := .next (functionLevelReset s)

/-! ### The COLD and POWER-ON levels -/

/-- The memory that a COLD reset leaves: Binder memory is cleared, DDR5 is lost with its keys, host memory is outside the part. -/
def coldMem (m : Mem) : Mem :=
  m.filter fun p => decide (p.1 < binderAt ∨ (binderAt + 0x200000 ≤ p.1 ∧ p.1 < ddrAt) ∨ hostAt ≤ p.1)

/-- Modules stay in their cages. -/
def keepCages (f : FrontEnd) : FrontEnd := { ({} : FrontEnd) with cages := f.cages.map fun c => { present := c.present } }

/-- The state in a COLD reset of a cause (R413, Table 18-7). -/
def coldReset (cause : BitVec 4) (s : State) : State :=
  let b := s.boot
  { ({} : State) with
    ticks := s.ticks
    boot := { resetCause := cause, pwrGood := b.pwrGood, perst := b.perst, tripHold := b.tripHold, extestHold := b.extestHold
              ddr := b.ddr, ddrEpoch := b.ddrEpoch + 1 }
    power := { sensors := s.power.sensors }
    sec := { fuses := s.sec.fuses, shadow := s.sec.fuses, flash := s.sec.flash }
    clusters := s.clusters.map fun c => { counter := c.counter, winStart := s.ticks.toNat }
    fe := keepCages s.fe
    mem := coldMem s.mem
    out := s.out
    fresh := s.fresh
    pending := s.pending }

/-- The state in a POWER-ON reset: the fuses, the board's flash, the modules and host memory are what the part finds. -/
def powerOn (good : Bool) (s : State) : State :=
  { ({} : State) with
    boot := { resetCause := 1, pwrGood := good, ddrEpoch := s.boot.ddrEpoch + 1 }
    power := { sensors := s.power.sensors }
    sec := { fuses := s.sec.fuses, shadow := s.sec.fuses, flash := s.sec.flash }
    fe := keepCages s.fe
    mem := s.mem.filter fun p => decide (hostAt ≤ p.1)
    out := s.out
    fresh := s.fresh
    pending := s.pending }

/-! ### The boot ROM (R32, R388, R415) -/

/-- The four channels are populated alike with 8, 16 or 32 GiB (R32). -/
def ddrOk : DdrChannels → Bool
  | [some a, some b, some c, some d] => a == b && b == c && c == d && (a == 8 || a == 16 || a == 32)
  | _ => false

/-- Capacity in GiB. -/
def ddrTotal (l : DdrChannels) : Nat := (l.map fun c => match c with | some g => g | none => 0).sum

/-- The image of a slot. -/
def flashSlot (f : Flash) (b : Bool) : Bytes := if b then f.slotB else f.slotA

/-- Record the first fault of a slot in BOOT_STATUS. -/
def Boot.setFault (x : Boot) (slotB : Bool) (code : Nat) : Boot :=
  if slotB then { x with faultB := BitVec.ofNat 8 code } else { x with faultA := BitVec.ofNat 8 code }

/-- Load the images of a slot to their places in Binder memory and DDR5 (R388 step 3). -/
def loadImages (img : Bytes) (s : State) : State :=
  (List.range (fld img 0x14 4)).foldl (fun s i =>
    let (dest, at_, len, load, _) := imageEntry img i
    s.wr ((if dest = 0 then binderAt else ddrAt) + load) (flashRead img at_ len)) s

/-- Busum starts from an accepted slot: FIRMWARE_INIT. -/
def startBusum (slotB : Bool) (s : State) : State :=
  let m := signedPart (flashRead (flashSlot s.sec.flash slotB) 0 6093)
  let s := loadImages (flashSlot s.sec.flash slotB) s
  { s with
    boot := { s.boot with
      state := .firmwareInit, bootSlotB := slotB, fwRelease := BitVec.ofNat 32 (fld m 0x10 4) }
    sec := { s.sec with manifest := m } }

/-- The boot ROM (R388): DDR5 checked, the slot that PREFER selects tried, then the other; FAILED where neither is accepted or
DDR5 breaks R32. -/
def bootRom (s : State) : State :=
  if !ddrOk s.boot.ddr then { s with boot := { s.boot with state := .failed, memFault := 1 } }
  else
    let gib := ddrTotal s.boot.ddr
    let s1 := { s with boot := { s.boot with state := .bootRom, ddrGiB := gib } }
    let fault := fun (b : Bool) => slotFault s.sec.fuses (gib * 2 ^ 30) (flashSlot s.sec.flash b)
    let first := s.sec.flash.prefer == 0xA5A50001
    match fault first with
    | none => startBusum first s1
    | some c1 =>
      let s2 := { s1 with boot := s1.boot.setFault first c1 }
      match fault (!first) with
      | none => startBusum (!first) s2
      | some c2 => { s2 with boot := { s2.boot.setFault (!first) c2 with state := .failed } }

/-- The boot ROM runs as soon as nothing holds the device in reset. -/
def bootIfFree (s : State) : State :=
  if s.managed && s.boot.state == .reset then bootRom s else s

/-- A COLD reset, and the start-up that follows it once nothing holds the device. -/
def coldThenBoot (cause : BitVec 4) (s : State) : State :=
  if s.boot.pwrGood then bootIfFree (coldReset cause s) else s

/-! ### The events (R401, R411, R413, R415, R441) -/

/-- POWER_ON_RESET: PWR_GOOD rises. -/
def execPowerOnReset (s : State) : Host.Outcome State Fault Refusal := .next (powerOn true s)

/-- PWR_GOOD_FALL: the whole device is held in reset until the next rise. -/
def execPwrGoodFall (s : State) : Host.Outcome State Fault Refusal := .next (powerOn false s)

/-- PERST: PERST_N is asserted. -/
def execPerst (s : State) : Host.Outcome State Fault Refusal :=
  .next (coldThenBoot 2 { s with boot := { s.boot with perst := true } })

/-- PERST_DEASSERT (R415, R441): ignored while PWR_GOOD is low; the reset is held until 100 ms after PWR_GOOD; then the boot ROM
runs on the DDR5 population and the flash that the board has. -/
def perstDeassert (ddr : DdrChannels) (flash : Option Flash) (s : State) : State :=
  if s.boot.pwrGood && s.boot.perst then
    let s1 := s.advanceTo (usTicks 100000)
    let s2 := { s1 with boot := { s1.boot with perst := false, ddr := ddr } }
    bootIfFree (match flash with
      | some f => s2.setSec fun x => { x with flash := f }
      | none => s2)
  else s

def execPerstDeassert (ddr : DdrChannels) (flash : Option Flash) (s : State) : Host.Outcome State Fault Refusal :=
  .next (perstDeassert ddr flash s)

/-- WATCHDOG: 1 s without a restart while Busum runs. -/
def execWatchdog (s : State) : Host.Outcome State Fault Refusal := .next (coldThenBoot 4 s)

/-- FIRMWARE_FATAL. -/
def execFirmwareFatal (s : State) : Host.Outcome State Fault Refusal :=
  .next (if s.busumUp then coldThenBoot 6 s else s)

/-- THERMAL_TRIP (R411): a COLD reset that holds while the part is hot. -/
def thermalTrip (s : State) : State :=
  if s.boot.tripHold then s else coldThenBoot 3 { s with boot := { s.boot with tripHold := s.boot.pwrGood } }

def execThermalTrip (s : State) : Host.Outcome State Fault Refusal := .next (thermalTrip s)

/-- THERMAL_TRIP_RELEASE (R411): every sensor reads 95 °C or less. -/
def thermalTripRelease (s : State) : State :=
  if s.boot.tripHold && decide (s.power.hottest ≤ 95) then
    bootIfFree { s with boot := { s.boot with tripHold := false } }
  else s

def execThermalTripRelease (s : State) : Host.Outcome State Fault Refusal := .next (thermalTripRelease s)

/-- THERMAL_SENSE (R410, R411): readings for the THERMAL cause; one of 115 °C trips. -/
def execThermalSense (t : Vector (BitVec 8) 8) (s : State) : Host.Outcome State Fault Refusal :=
  .next (if !s.boot.pwrGood then s
    else
      let s1 := thermalReadings t s
      if 115 ≤ s1.power.hottest then thermalTrip s1 else s1)

/-- EXTEST (R401): a COLD reset, with the derived keys, the DDR5 keys and Binder memory erased; held until the TAP leaves it. -/
def execExtest (s : State) : Host.Outcome State Fault Refusal :=
  .next (coldThenBoot 5 { s with boot := { s.boot with extestHold := s.boot.pwrGood } })

/-- EXTEST_EXIT (R401). -/
def execExtestExit (s : State) : Host.Outcome State Fault Refusal :=
  .next (if s.boot.extestHold then bootIfFree { s with boot := { s.boot with extestHold := false } } else s)

/-! ### FIRMWARE_INIT (R390 to R392, R416, R417) -/

/-- Set the lowest clear bits of a thermometer field until `n` bits are set (R386). -/
def thermometer (n : Nat) : Nat → BitVec 64 → BitVec 64
  | 0, v => v
  | f + 1, v =>
    if svnCount v < n then thermometer n f (v ||| BitVec.ofNat 64 (2 ^ (((List.range 64).find? fun i => !v.getLsbD i).getD 0)))
    else v

/-- The counters that an accepted bundle advances, and the key that it revokes (R390). -/
def advanceFuses (m : Bytes) (f : Fuses) : Fuses :=
  { f with
    fwSvn := thermometer (fld m 8 4) 64 f.fwSvn
    pkgSvn := thermometer (fld m 0xC 4) 64 f.pkgSvn
    key0Revoked := f.key0Revoked || (bit (fld m 7 1) 0 && fld m 6 1 == 1) }

/-- An engine whose test fails twice is retired; ENGINE_RETIRED waits for the event queue (R416). -/
def retireAtStart (s : State) (e : Fin 16) : State :=
  let k := clOfEng e
  let (mask, s1) := switchVariants (s.setEng e.val fun x => { x with retired := true }) k
  s1.setMbx fun m => { m with evtHeld := m.evtHeld ++
    [(0x03, e.val, toLE 1 e.val ++ toLE 1 k.val ++ toLE 2 s1.engineMask ++ toLE 2 0 ++ toLE 2 mask)] }

/-- The free pages of a cluster's UL-SCH and UCI rings (R194; DESIGN CHOICE, log entry 10). -/
def openRings (s : State) : State :=
  (List.finRange 4).foldl (fun s k => (s.putObj k 0x4000 { count := 288 }).putObj k 0x4001 { count := 32 }) s

/-- FIRMWARE_INIT: keys derived and compared, counters advanced, engines tested (`engineFails`: those whose test fails twice),
READY. -/
def firmwareInit (engineFails : BitVec 16) (s : State) : State :=
  if s.boot.state = .firmwareInit ∧ s.power.state ≠ .aon then
    let s1 := { s with
      sec := { s.sec with keys := true, fuses := advanceFuses s.sec.manifest s.sec.fuses }
      boot := { s.boot with identityMismatch := !certsMatch s.sec.flash.certs, state := .ready } }
    let s2 := ((List.finRange 16).filter fun e => engineFails.getLsbD e.val).foldl retireAtStart s1
    (openRings s2).autoPower
  else s

def execFirmwareInit (engineFails : BitVec 16) (s : State) : Host.Outcome State Fault Refusal :=
  .next (firmwareInit engineFails s)

end Sys2Proof.Machine
end

