-- ==== Sys2Proof/Machine/Sequencer.lean ====
section
/-!
DEFINITION. The core sequencer's commands (R111 to R120, R129, R132 to R135, R253 to R263): scalar instructions, branches and
loops, synchronisation, the end of a leaf, and interrupts.
-/

namespace Sys2Proof.Machine
open Sys2Proof

/-! ### Scalar unit (R114) -/

/-- The result of a scalar operation; none for a reserved code (Table 6-3). `old` is RD, `b` the second operand. MIN and MAX
compare signed numbers (DEDUCED, log entry 27). -/
def scalarOp (op : Nat) (old a b : BitVec 64) (imm : BitVec 32) : Option (BitVec 64) :=
  let n := b.toNat % 64
  match op with
  | 0 => some (a + b)
  | 1 => some (a - b)
  | 2 => some (a &&& b)
  | 3 => some (a ||| b)
  | 4 => some (a ^^^ b)
  | 5 => some (a <<< n)
  | 6 => some (a.sshiftRight n)
  | 7 => some (a >>> n)
  | 8 => some (a * b)
  | 9 => some (if b.slt a then b else a)
  | 10 => some (if a.slt b then b else a)
  | 11 => some (if a.slt b then 1 else 0)
  | 12 => some (if a = b then 1 else 0)
  | 13 => some (imm.signExtend 64)
  | 14 => some (imm ++ old.extractLsb' 0 32)
  | _ => none

/-- The s registers a scalar operation reads. -/
def scalarReads (op rd ra rb : Nat) (i : Bool) : List Nat :=
  if op = 13 then [] else if op = 14 then [rd] else if i then [ra] else [ra, rb]

/-- Scalar arithmetic, LI and LIH (R114). -/
def execScalarArith (core : Fin 8) (op : BitVec 6) (rd ra rb : Fin 64) (i : Bool) (imm : BitVec 32) (s : State) :
    Host.Outcome State Fault Refusal :=
  .next (issue core 1 1 (scalarReads op.toNat rd ra rb i) (fun q s =>
    let b := if i then imm.signExtend 64 else s.getS core rb
    match scalarOp op.toNat (s.getS core rd) (s.getS core ra) b imm with
    | some v => if op = 8 then (s.setCore core (Core.readyIn rd.val 3)).putS core rd v else s.putS core rd v
    | none => faultQuire s q.tag 0x41) s)

/-- LDS (R114, R118). -/
def execLds (core : Fin 8) (rd ra : Fin 64) (imm : BitVec 32) (par : Option Nat) (s : State) : Host.Outcome State Fault Refusal :=
  .next (issue core 1 1 [ra.val] (fun q s =>
    match coreAccess s core q (s.getS core ra + imm.signExtend 64).toNat 8 false none with
    | .ok a => reading core 1 par (wordIn · a 8) q s
        (((s.memWait core (s.getS core ra + imm.signExtend 64).toNat 8 false).setCore core (Core.readyIn rd.val 6)).putS core rd
          (BitVec.ofNat 64 (leNat (s.coreRd a 8))))
    | .error f => faultQuire s q.tag f) s)

/-- STS (R114, R118). -/
def execSts (core : Fin 8) (ra rb : Fin 64) (imm : BitVec 32) (s : State) : Host.Outcome State Fault Refusal :=
  .next (issue core 1 1 [ra.val, rb.val] (fun q s =>
    match coreAccess s core q (s.getS core ra + imm.signExtend 64).toNat 8 true none with
    | .ok a => (s.memWait core (s.getS core ra + imm.signExtend 64).toNat 8 true).coreWr a (toLE 8 (s.getS core rb).toNat)
    | .error f => faultQuire s q.tag f) s)

/-! ### Address moves (R132) -/

/-- The ring of a circular register, in core-map addresses; none while it is unbound. -/
def Core.ring (x : Core) (n : Nat) : Option Run :=
  match tget? x.cx.acb n, tget? x.cx.acl n with
  | some b, some l => some ⟨b, l⟩
  | _, _ => none

/-- MOVA (R132): a circular register is not moved outside its ring; an unbound one has no ring. -/
def execMova (core : Fin 8) (rd ra : Fin 64) (s : State) : Host.Outcome State Fault Refusal :=
  .next (issue core 1 1 [ra.val] (fun q s =>
    let n := rd.val % 16
    let v := (s.getS core ra).extractLsb' 0 32
    if n < 12 then s.putA core n v
    else match (s.core core).ring (n - 12) with
      | some r => if r.base ≤ v.toNat ∧ v.toNat < r.base + r.len then s.putA core n v else faultQuire s q.tag 0x42
      | none => faultQuire s q.tag 0x42) s)

/-- MOVSA (R114): zero-extended. -/
def execMovsa (core : Fin 8) (rd ra : Fin 64) (s : State) : Host.Outcome State Fault Refusal :=
  .next (issue core 1 1 [] (fun _ s => s.putS core rd ((s.getA core (ra.val % 16)).setWidth 64)) s)

/-- MOVSB (R132): RB[2:0] names ACB0 to ACB3, then ACL0 to ACL3 (DEDUCED, log entry 27). -/
def execMovsb (core : Fin 8) (rd rb : Fin 64) (s : State) : Host.Outcome State Fault Refusal :=
  .next (issue core 1 1 [] (fun _ s =>
    let n := rb.val % 8
    let cx := (s.core core).cx
    s.putS core rd (BitVec.ofNat 64 (if n < 4 then tget cx.acb n 0 else tget cx.acl (n - 4) 0))) s)

/-- MOVBS (R132): refused in a leaf with SEQ_PRIVILEGE; a handler writes the register that RD[2:0] names. -/
def execMovbs (core : Fin 8) (rd ra : Fin 64) (s : State) : Host.Outcome State Fault Refusal :=
  .next (issue core 1 1 [ra.val] (fun q s =>
    if (s.core core).inHandler then
      let n := rd.val % 8
      let v := (s.getS core ra).toNat % 2 ^ 32
      s.setCore core fun x =>
        { x with cx := if n < 4 then { x.cx with acb := tset x.cx.acb n v }
                       else { x.cx with acl := tset x.cx.acl (n - 4) v } }
    else faultQuire s q.tag 0x42) s)

/-! ### Branches and loops (R129) -/

/-- The condition of a branch; none for a reserved code. -/
def branchTaken (op : Nat) (a b : BitVec 64) : Option Bool :=
  match op with
  | 0 => some true
  | 1 => some (a == b)
  | 2 => some (a != b)
  | 3 => some (a.slt b)
  | 4 => some (!a.slt b)
  | _ => none

/-- BRANCH (R113, R129): the target is the branch word's address plus 8 × IMM; a taken branch costs 2 cycles without
issue; a branch in a loop body is illegal. -/
def execBranch (core : Fin 8) (op : BitVec 6) (ra rb : Fin 64) (imm : BitVec 32) (s : State) :
    Host.Outcome State Fault Refusal :=
  .next (issue core 1 1 (if op = 0 then [] else [ra.val, rb.val]) (fun q s =>
    if !(s.core core).loops.isEmpty && !(s.core core).inHandler then faultQuire s q.tag 0x41
    else match branchTaken op.toNat (s.getS core ra) (s.getS core rb) with
      | none => faultQuire s q.tag 0x41
      | some false => s
      | some true => s.setCore core fun x =>
        let pc := lowBits 61 ((x.cx.pc / 8 : Nat) + imm.toInt - 1) * 8
        Core.idle 2 { x with cx := { x.cx with pc := pc } }) s)

/-- The ring size that a RING field selects. -/
def loopRing (n : Nat) : Nat :=
  match n with
  | 0 => 0 | 1 => 16 | 2 => 32 | _ => 64

/-- DLOOP (R128, R129): the loop control is checked, the ring is selected, and the body runs as often as the count says;
a count of 0 skips the body, whose words the operand counts. A handler cannot use DLOOP (R130). -/
def execDloop (core : Fin 8) (ra : Fin 64) (imm : BitVec 32) (bodyWords : Nat) (s : State) :
    Host.Outcome State Fault Refusal :=
  .next (issue core 1 1 [ra.val] (fun q s =>
    let i := imm.toNat
    let len := bits i 0 7
    let x := s.core core
    if x.inHandler then s
    else if len = 0 ∨ 64 < len ∨ 2 ≤ x.loops.length ∨ bit i 13 then faultQuire s q.tag 0x41
    else
      let n := (s.getS core ra).toNat % 2 ^ 32
      let r := loopRing (bits i 14 2)
      s.setCore core fun x =>
        let x1 := if r = 0 ∨ r = x.rsize then x else { x with rsize := r, roff := x.roff % r }
        if n = 0 then
          -- the skipped body counts as its LEN instructions of the loop around it
          { x1 with cx := { x1.cx with pc := x1.cx.pc + 8 * bodyWords }
                    loops := x1.loops.map fun y => { y with left := y.left - len } }
        else
          -- the DLOOP itself is an instruction of the loop around it; it is counted off the new loop when it has issued
          let l : LoopCtx := { top := x.cx.pc + 8, remaining := n, iter := 0, pro := bits i 7 3, drn := bits i 10 3,
                               len := len, left := len + 1, ring := r }
          { x1 with loops := l :: x1.loops.map fun y => { y with outer := true, left := y.left - 1 } }) s)

/-! ### Synchronisation (R119, R253 to R256, R263) -/

/-- SIG (R119, R254): held until its leaf ends. -/
def execSig (core : Fin 8) (ra : Fin 64) (imm : BitVec 32) (s : State) : Host.Outcome State Fault Refusal :=
  .next (issue core 1 1 [ra.val] (fun q s =>
    let ref := s.getS core ra
    if imm.extractLsb' 0 16 = 0#16 ∨ imm.extractLsb' 16 16 ≠ 0#16 then faultQuire s q.tag 0x41
    else if !refOk s q ref then faultQuire s q.tag 0x72
    else s.setCore core fun x => { x with sigs := x.sigs ++ [(ref, imm.setWidth 32)] }) s)

/-- A reference leads to another chip. -/
def refRemote (s : State) (ref : BitVec 64) : Bool :=
  (ObjRef.of ref).far && (ObjRef.of ref).chip != s.chip

/-- The cluster an object reference leads to on this chip. -/
def refCluster (c : Fin 8) (ref : BitVec 64) : Fin 4 :=
  if (ObjRef.of ref).far then (ObjRef.of ref).cluster else clOfCore c

/-- Send a TAKE to another chip: a request number ties the reply to its register (R119, R255). -/
def sendTake (s : State) (c : Fin 8) (rd : Nat) (ref : BitVec 64) (n : BitVec 16) : State :=
  let req := s.stitch.nextTake % 65536
  let x := ObjRef.of ref
  let s1 := s.setStitch fun t => { t with nextTake := t.nextTake + 1, takes := (req, c.val, rd) :: t.takes }
  (s1.setCore c fun y => { y with takes := (req, rd) :: y.takes }).sendMsg
    (ctrlMsg s 0x11 x.chip x.cluster x.tag 0 (ref.toNat + n.toNat * 2 ^ 64 + req * 2 ^ 80))

/-- DSP cycles from a TAKE's issue to its readable outcome on this chip: 12 on the own cluster; on another cluster the 300 that
bound it (Table 11-5; DESIGN CHOICE, log entry 65). -/
def takeTime (c : Fin 8) (ref : BitVec 64) : Nat := if refCluster c ref = clOfCore c then 12 else 300

/-- The cycles of a TAKE loop (R153, R258, Table 7-9): where the core's last TAKE found EMPTY and this one names the same object,
the DSP cycles since that one's issue count on both engines of the core as a retry's; a TAKE that finds EMPTY is remembered. -/
def countRetry (c : Fin 8) (ref : BitVec 64) (empty : Bool) (s : State) : State :=
  let x := s.core c
  let n := match x.retry with
    | some (r, t) => if r = ref then x.now - t else 0
    | none => 0
  ((coreEngs c).foldl (fun s e => s.engCount e 4 n) s).setCore c fun y =>
    { y with retry := if empty then some (ref, x.now) else none }

/-- TAKE (R119, R255): on this chip its outcome is written at once and read when it is ready; on another the core goes on
without it. -/
def execTake (core : Fin 8) (rd ra : Fin 64) (imm : BitVec 32) (err : SyncError) (s : State) : Host.Outcome State Fault Refusal :=
  .next (issue core 1 1 [ra.val] (fun q s =>
    let ref := s.getS core ra
    let n := imm.extractLsb' 0 16
    if n = 0 ∨ imm.extractLsb' 16 16 ≠ 0#16 then faultQuire s q.tag 0x41
    else if !refOk s q ref then faultQuire s q.tag 0x72
    else if refRemote s ref then sendTake s core rd ref n
    else
      let k := refCluster core ref
      let (o, s1) := takeObj (meetError s k (ObjRef.of ref).index err) k (ObjRef.of ref).index (ObjRef.of ref).tag n
      (countRetry core ref (o.st == .empty) ((notePages s1 q.tag (ObjRef.of ref).index n o).setCore core
        (Core.readyIn rd.val (takeTime core ref)))).putS core rd (o.word (ObjRef.of ref).far)) s)

/-- Register a monitor and spin (R256). -/
def spinLocal (s : State) (c : Fin 8) (rd : Nat) (ref : BitVec 64) (n limit : BitVec 16) : State :=
  let k := refCluster c ref
  let w : Waiter := { chip := s.chip, engine := 2 * c.val, tag := (ObjRef.of ref).tag, n := n }
  let s1 := s.setCl k fun cl => { cl with waiters := tmod cl.waiters (ObjRef.of ref).index [] (· ++ [w]) }
  s1.setCore c fun x =>
    { x with wait := some { ref := ref, n := n, limit := limit, rd := rd, remote := false,
                            issued := (s.cl (clOfCore c)).counter.toNat } }

/-- Register at another chip and spin on the grant object (R263). -/
def spinRemote (s : State) (c : Fin 8) (q : Quire) (rd : Nat) (ref : BitVec 64) (n limit : BitVec 16) : State :=
  let seq := (tget s.stitch.waitSeq c.val 0 + 1) % 256
  let w : WaitCtx := { ref := ref, n := n, limit := limit, rd := rd, remote := true, seq := seq,
                       issued := (s.cl (clOfCore c)).counter.toNat }
  let s1 := (s.setStitch fun t => { t with waitSeq := tset t.waitSeq c.val seq }).setCore c fun x =>
    { x with wait := some w }
  sendReg s1 c q w

/-- A local WAIT that finds EMPTY on a ready object of its quire: the peer's position and whether the wait ends at once, since
joint reception with the peer was blocked at quire start, or the cut-off has passed in loose mode (R274, R333). -/
def jrEnds (s : State) (q : Quire) (i : Nat) : Option (Bool × Bool) :=
  if q.kind ≠ .slotReception then none
  else match s.stitch.jr.find? (fun p => p.1 / 8 == q.owner && p.1 % 2 == q.sfnSlot % 2 && p.2.readyObj == i) with
    | none => none
    | some (key, h) =>
      match s.cell? q.owner with
      | none => none
      | some c =>
        let blocked := match c.jrPeers[key % 8 / 2]? with | some p => q.jrOff.contains (s.cellChip p) | none => false
        some (blocked, !q.pressed && h.cutoff == some q.sfnSlot)

/-- A WAIT whose leaf, if it must, has been closed: it takes, or it waits (R256, R263). A wait that ends at once moves
the core past it. -/
def waitTake (s : State) (c : Fin 8) (q : Quire) (rd : Nat) (ref : BitVec 64) (n limit : BitVec 16) (err : SyncError) : State :=
  if refRemote s ref then spinRemote s c q rd ref n limit
  else
    let x := ObjRef.of ref
    let (o, s1) := takeObj (meetError s (refCluster c ref) x.index err) (refCluster c ref) x.index x.tag n
    let ends := if o.st = .empty ∧ x.tag = 0 then jrEnds s q x.index else none
    if ends = some (true, true) ∨ ends = some (true, false) ∨ ends = some (false, true) then
      let late := ends = some (false, true)
      let s2 := s1.setQuire q.tag.toNat fun q =>
        { q with flags := if late then { q.flags with jrOmitted := true } else { q.flags with jrBlocked := true } }
      (s2.putS c rd ((TakeOut.mk .expired 0 0 o.count).word x.far)).setCore c (issued 1 1)
    else if o.st = .empty then spinLocal s1 c rd ref n limit
    else if (s1.core c).leaf ≠ some q.tag then s1
    else ((notePages s1 q.tag x.index n o).putS c rd (o.word x.far)).setCore c (issued 1 1)

/-- At the boundary that a WAIT makes the scheduler chooses another quire's leaf for the core (R223, R227). -/
def passedOver (s : State) (q : Quire) (c : Fin 8) : Bool :=
  match (chooseLeaf ((leaveCore s q c).setQuire q.tag.toNat fun x => { x with state := .boundary }) c).1 with
  | some x => x.tag != q.tag
  | none => false

/-- WAIT (R119, R223, R227, R256, R263): it closes its leaf first where the leaf holds SIGs or the object lies on another chip,
unless the WAIT is the leaf's first instruction (DEDUCED, log entry 66); that close waits for the engines and outstanding TAKEs; a
suspension asked for is taken there, and the core goes to another leaf where one comes first, the WAIT issuing when its quire's next
leaf is dispatched. -/
def waitInstr (c : Fin 8) (rd ra : Fin 64) (imm : BitVec 32) (err : SyncError) (s : State) : State :=
  issue c 0 0 [ra.val] (fun q s =>
    let ref := s.getS c ra
    let n := imm.extractLsb' 0 16
    let limit := imm.extractLsb' 16 16
    let x := s.core c
    if x.inHandler then s
    else if q.code.len < x.cx.pc + 8 then faultQuire s q.tag 0x43
    else if n = 0 ∨ !x.loops.isEmpty then faultQuire s q.tag 0x41
    else if !refOk s q ref then faultQuire s q.tag 0x72
    else if refRemote s ref && decide (0 < x.cycle) || !x.sigs.isEmpty then
      if !x.takes.isEmpty then s.takeRetry c
      else
        let s0 := s.waitCore c (s.enginesDone c)
        let s1 := holdReady (closeLeaf s0 q c (s0.core c).ran) q.tag
        if wantsSuspend s1 q c || passedOver s1 q c then leaveCore s1 q c
        else waitTake (startLeaf s1 c q.tag true) c q rd ref n limit err
    else waitTake (s.waitCore c (s.barrierAt c)) c q rd ref n limit err) s

/-- WAIT on an object of this chip (R256). -/
def execWait (core : Fin 8) (rd ra : Fin 64) (imm : BitVec 32) (err : SyncError) (s : State) :
    Host.Outcome State Fault Refusal := .next (waitInstr core rd ra imm err s)

/-- WAIT on an object of another chip (R263). -/
def execRemoteWait (core : Fin 8) (rd ra : Fin 64) (imm : BitVec 32) (s : State) : Host.Outcome State Fault Refusal :=
  .next (waitInstr core rd ra imm .none s)

/-- The leaf of a core ends (R119, R223): it waits for the engines, their check barriers and outstanding TAKEs; the last leaf of
every core ends the quire. The operand counts the array cycles it has run, no fewer than the waits above take. A downlink leaf makes
its symbol's message ready (R24). -/
def leafEnd (c : Fin 8) (cycles : Nat) (last : Bool) (live : List Extent) (q : Quire) (s : State) : State :=
  let x := s.core c
  if x.inHandler then s
  else if q.code.len < x.cx.pc + 8 then faultQuire s q.tag 0x43
  else if !x.loops.isEmpty then faultQuire s q.tag 0x41
  else if !x.takes.isEmpty then s.takeRetry c
  else
    let s0 := (s.waitCore c (s.enginesDone c)).setCore c (issued 1 1)
    let s1 := closeLeaf s0 q c (max cycles (s0.core c).ran)
    let s2 := s1.setQuire q.tag.toNat fun q =>
      { q with live := live, done0 := q.done0 || (last && c.val % 2 == 0), done1 := q.done1 || (last && c.val % 2 == 1) }
    match tget? s2.quires q.tag.toNat with
    | none => s2
    | some q1 =>
      if q1.finished then
        let s3 := s2.setCore c fun x => { x with leaf := none, preempt := false }
        holdReady (endQuire s3 q.tag) q.tag
      else holdReady (freeLeafThread (leaveCore s2 q1 c) q1 c) q.tag

/-- LEAF_END (R119), with the array cycles the leaf has run, whether it is its core's last, and the live extents at this
boundary. -/
def execLeafEnd (core : Fin 8) (cycles : Nat) (last : Bool) (live : List Extent) (s : State) :
    Host.Outcome State Fault Refusal := .next (issue core 0 0 [] (leafEnd core cycles last live) s)

/-! ### Interrupts (R133, R134, R241) -/

/-- Swap the registers of the shadow switch (R134). -/
def swapShadow (x : Core) : Core :=
  let sw := fun (t u : Table (BitVec 64)) => (List.range 8).foldl (fun t i => tset t (56 + i) (tget u (56 + i) 0)) t
  let aw := fun (t u : Table (BitVec 32)) => (List.range 4).foldl (fun t i => tset t (8 + i) (tget u (8 + i) 0)) t
  let cx := { x.cx with s := sw x.cx.s x.shadow.s, a := aw x.cx.a x.shadow.a, pc := x.shadow.pc,
                        flags := x.shadow.flags }
  let sh := { x.shadow with s := sw x.shadow.s x.cx.s, a := aw x.shadow.a x.cx.a, pc := x.cx.pc, flags := x.cx.flags }
  { x with cx := cx, shadow := sh }

/-- Enter the OVERRUN handler: 6 cycles without issue, and the overrun is recorded (R133, R134, R223). -/
def enterOverrun (s : State) (c : Fin 8) (q : Quire) : State :=
  let s1 := s.setCore c fun x =>
    Core.idle 6 { swapShadow x with inHandler := true, overrun := true, overrunHeld := false }
  s1.account q.cluster q.consumer fun a => { a with overruns := a.overruns + 1 }

/-- OVERRUN (R133): a leaf has run 2,500 array cycles, 10,000 DSP cycles, which it reaches if it has not; once a leaf; held
while a handler runs. -/
def execOverrun (core : Fin 8) (s : State) : Host.Outcome State Fault Refusal :=
  .next (match s.live core with
    | none => s
    | some q =>
      let s1 := s.waitCore core 10000
      if (s.core core).overrun then s
      else if (s.core core).inHandler then s1.setCore core fun x => { x with overrunHeld := true }
      else enterOverrun s1 core q)

/-- Take a pre-emption in a remote wait: the wait record is written with the control part and the quire is suspended; its handler
does not return (R133, R134, R241, R265). -/
def takePreempt (s : State) (c : Fin 8) (q : Quire) : State :=
  let s0 := s.setCore c (Core.idle 6)
  let s1 := (keepContext (chargeLeaf s0 q c (s0.core c).ran) q c).setCore c fun x =>
    { x with leaf := none, wait := none, preempt := false }
  let s2 := suspendQuire s1 q.tag
  if s2.liveOn (otherCore c) q.tag then s2.setQuire q.tag.toNat fun q => { q with state := .running }
  else s2

/-- The core waits in a remote WAIT. -/
def Core.remoteWait (x : Core) : Bool := match x.wait with | some w => w.remote | none => false

/-- RETI (R133, R134): back to the leaf in 4 cycles; an interrupt that came during the handler is taken, PREEMPT before OVERRUN.
A leaf has no such operation. -/
def execReti (core : Fin 8) (s : State) : Host.Outcome State Fault Refusal :=
  .next (match s.live core with
    | none => s
    | some q =>
      let x := s.core core
      if x.inHandler then
        let s1 := s.setCore core fun x => Core.idle 4 { swapShadow x with inHandler := false }
        if x.preempt && x.remoteWait then takePreempt s1 core q
        else if x.overrunHeld then enterOverrun s1 core q
        else s1
      else faultCore s core 0x41)

/-- PREEMPT (R133, R241, R265): taken at once in a remote wait; at any other time the request is held: for the return of a
handler above a remote wait, else for the next boundary. -/
def execPreempt (core : Fin 8) (s : State) : Host.Outcome State Fault Refusal :=
  .next (match s.live core with
    | none => s
    | some q =>
      if (s.core core).remoteWait && !(s.core core).inHandler then takePreempt s core q
      else s.setCore core fun x => { x with preempt := true })

/-- LEAF_TIMEOUT (R223): the leaf has run 25,000 array cycles outside local waits. -/
def execLeafTimeout (core : Fin 8) (s : State) : Host.Outcome State Fault Refusal :=
  .next (faultCore s core 0x61)

end Sys2Proof.Machine
end

