-- ==== Sys2Proof/Machine/Spine.lean ====
section
/-!
DEFINITION. Configuration agreement (R337, R338): the spine digest, its rounds, and what a SPINE received or missing does.
-/

namespace Sys2Proof.Machine
open Sys2Proof

/-- SPINE_RECOMPUTE (R337): the digest follows a change of the image. -/
def execSpineRecompute (s : State) : Host.Outcome State Fault Refusal :=
  .next (if s.stitch.spineStale then s.spineNow else s)

/-- Ticks of a SPINE_PERIOD. -/
def State.periodTicks (s : State) : Nat := usTicks (1000 * s.spinePeriod)

/-- SPINE_ROUND (R337): every SPINE_PERIOD, SPINE with EPOCH and the digest goes to every reachable member. -/
def spineRound (s0 : State) : State :=
  if s0.poolSize ≤ 1 then s0
  else
    let s := s0.advanceTo (s0.stitch.roundAt + s0.periodTicks)
    let s1 := s.setStitch fun t => { t with roundAt := s.ticks.toNat }
    ((List.range s.poolSize).filter s.reachable).foldl (fun s c =>
      s.sendMsg { ctrlMsg s 0x30 c 0 0 0 s.epoch with data := s.stitch.spine }) s1

def execSpineRound (s : State) : Host.Outcome State Fault Refusal := .next (spineRound s)

/-- The body of SPINE_MISMATCH and SPINE_MISSING: the peer, its EPOCH and its digest as last received. -/
def spineBody (c : Nat) (m : Member) : Bytes := toLE 4 c ++ toLE 8 m.epoch ++ slice m.digest 0 32

/-- Keep what is known of a member. -/
def State.putMember (s : State) (c : Nat) (m : Member) : State :=
  s.setStitch fun t => { t with members := tset t.members c m }

/-- SPINE (R338): compared with this chip's EPOCH and digest. -/
def onSpine (m : SMsg) (s : State) : State :=
  let c := m.src.toNat
  let old := tget s.stitch.members c {}
  let epoch := (m.arg.extractLsb' 0 64).toNat
  let x : Member := { old with heardAt := s.ticks.toNat, epoch := epoch, digest := m.data }
  if epoch = s.epoch then
    if m.data = s.stitch.spine then s.putMember c { x with jrAllowed := true, epochRounds := 0 }
    else (s.putMember c { x with jrAllowed := false, epochRounds := 0 }).event 0x0A c (spineBody c x)
  else
    let n := x.epochRounds + 1
    let s1 := s.putMember c { x with jrAllowed := false, epochRounds := n }
    if n = s.spineGrace then s1.event 0x0A c (spineBody c x) else s1

def execSpine (m : SMsg) (s : State) : Host.Outcome State Fault Refusal := .next (onMsg 0x30 onSpine m s)

/-- SPINE_MISSING (R338): no SPINE from a reachable member for 3 periods. -/
def spineMissing (c : Nat) (s0 : State) : State :=
  if s0.reachable c then
    let old := tget s0.stitch.members c {}
    let s := s0.advanceTo (old.heardAt + 3 * s0.periodTicks)
    (s.putMember c { old with jrAllowed := false, heardAt := s.ticks.toNat }).event 0x0B c (spineBody c old)
  else s0

def execSpineMissing (chip : Fin 64) (s : State) : Host.Outcome State Fault Refusal := .next (spineMissing chip.val s)

end Sys2Proof.Machine
end

