-- ==== Sys2Proof/Machine/Dispatch.lean ====
section
/-!
DEFINITION. The dispatch: one arm per command, each a call of its meaning.
-/

namespace Sys2Proof.Machine
open Sys2Proof

/-- The effect of a command on everything but the queue. -/
def exec (i : Instr) (s : State) : Host.Outcome State Fault Refusal :=
  match i with
  | .nop c => Sys2Proof.Machine.execNop c s
  | .deviceInfo c => Sys2Proof.Machine.execDeviceInfo c s
  | .certGet c => Sys2Proof.Machine.execCertGet c s
  | .attest c => Sys2Proof.Machine.execAttest c s
  | .keyImport c => Sys2Proof.Machine.execKeyImport c s
  | .fwStage c => Sys2Proof.Machine.execFwStage c s
  | .mbxConfig c => Sys2Proof.Machine.execMbxConfig c s
  | .schedConfig c => Sys2Proof.Machine.execSchedConfig c s
  | .slotConfig c => Sys2Proof.Machine.execSlotConfig c s
  | .fhConfig c => Sys2Proof.Machine.execFhConfig c s
  | .slConfig c => Sys2Proof.Machine.execSlConfig c s
  | .poolConfig c => Sys2Proof.Machine.execPoolConfig c s
  | .harqConfig c => Sys2Proof.Machine.execHarqConfig c s
  | .dmaConfig c => Sys2Proof.Machine.execDmaConfig c s
  | .windowCreate c => Sys2Proof.Machine.execWindowCreate c s
  | .windowRemove c => Sys2Proof.Machine.execWindowRemove c s
  | .modelLoad c => Sys2Proof.Machine.execModelLoad c s
  | .modelUnload c => Sys2Proof.Machine.execModelUnload c s
  | .ldpcTableLoad c => Sys2Proof.Machine.execLdpcTableLoad c s
  | .precoderLoad c => Sys2Proof.Machine.execPrecoderLoad c s
  | .adaptConfig c => Sys2Proof.Machine.execAdaptConfig c s
  | .adaptRollback c => Sys2Proof.Machine.execAdaptRollback c s
  | .adaptStatus c => Sys2Proof.Machine.execAdaptStatus c s
  | .yardstickRead c => Sys2Proof.Machine.execYardstickRead c s
  | .quireStatus c => Sys2Proof.Machine.execQuireStatus c s
  | .quireCancel c => Sys2Proof.Machine.execQuireCancel c s
  | .shareRead c => Sys2Proof.Machine.execShareRead c s
  | .colophonStore c => Sys2Proof.Machine.execColophonStore c s
  | .colophonSeal c => Sys2Proof.Machine.execColophonSeal c s
  | .colophonCollect c => Sys2Proof.Machine.execColophonCollect c s
  | .setupRead c => Sys2Proof.Machine.execSetupRead c s
  | .fhStats c => Sys2Proof.Machine.execFhStats c s
  | .moduleRead c => Sys2Proof.Machine.execModuleRead c s
  | .modulePolicy c => Sys2Proof.Machine.execModulePolicy c s
  | .moduleTable c => Sys2Proof.Machine.execModuleTable c s
  | .slStats c => Sys2Proof.Machine.execSlStats c s
  | .telemetryRead c => Sys2Proof.Machine.execTelemetryRead c s
  | .powerState c => Sys2Proof.Machine.execPowerState c s
  | .longCommandLeaf => Sys2Proof.Machine.execLongCommandLeaf s
  | .ulSlot r => Sys2Proof.Machine.execUlSlot r s
  | .dlSlot r => Sys2Proof.Machine.execDlSlot r s
  | .ulDci r => Sys2Proof.Machine.execUlDci r s
  | .txData r => Sys2Proof.Machine.execTxData r s
  | .mbxDoorbell ring index => Sys2Proof.Machine.execMbxDoorbell ring index s
  | .mbxDoorbellReset ring index => Sys2Proof.Machine.execMbxDoorbellReset ring index s
  | .slotMark v => Sys2Proof.Machine.execSlotMark v s
  | .dmaDbCount n count => Sys2Proof.Machine.execDmaDbCount n count s
  | .dmaDbCancel n => Sys2Proof.Machine.execDmaDbCancel n s
  | .secLockSet => Sys2Proof.Machine.execSecLockSet s
  | .registerWrite off val wide => Sys2Proof.Machine.execRegisterWrite off val wide s
  | .barAccessSize read len => Sys2Proof.Machine.execBarAccessSize read len s
  | .unsupportedReq read => Sys2Proof.Machine.execUnsupportedReq read s
  | .scalarArith core op rd ra rb im imm => Sys2Proof.Machine.execScalarArith core op rd ra rb im imm s
  | .lds core rd ra imm par => Sys2Proof.Machine.execLds core rd ra imm par s
  | .sts core ra rb imm => Sys2Proof.Machine.execSts core ra rb imm s
  | .mova core rd ra => Sys2Proof.Machine.execMova core rd ra s
  | .movsa core rd ra => Sys2Proof.Machine.execMovsa core rd ra s
  | .movsb core rd rb => Sys2Proof.Machine.execMovsb core rd rb s
  | .movbs core rd ra => Sys2Proof.Machine.execMovbs core rd ra s
  | .branch core op ra rb imm => Sys2Proof.Machine.execBranch core op ra rb imm s
  | .dloop core ra imm bodyWords => Sys2Proof.Machine.execDloop core ra imm bodyWords s
  | .sig core ra imm => Sys2Proof.Machine.execSig core ra imm s
  | .take core rd ra imm err => Sys2Proof.Machine.execTake core rd ra imm err s
  | .wait core rd ra imm err => Sys2Proof.Machine.execWait core rd ra imm err s
  | .remoteWait core rd ra imm => Sys2Proof.Machine.execRemoteWait core rd ra imm s
  | .leafEnd core cycles last live => Sys2Proof.Machine.execLeafEnd core cycles last live s
  | .arrayMode core eng sa => Sys2Proof.Machine.execArrayMode core eng sa s
  | .arrayLoad core eng sa par => Sys2Proof.Machine.execArrayLoad core eng sa par s
  | .arrayStream core eng sa par => Sys2Proof.Machine.execArrayStream core eng sa par s
  | .arrayDrain core eng sa par => Sys2Proof.Machine.execArrayDrain core eng sa par s
  | .chain core eng sa mask mz stages par => Sys2Proof.Machine.execChain core eng sa mask mz stages par s
  | .vld core eng sa reg mask w par => Sys2Proof.Machine.execVld core eng sa reg mask w par s
  | .vst core eng sa reg mask w par => Sys2Proof.Machine.execVst core eng sa reg mask w par s
  | .actld core eng sa table par => Sys2Proof.Machine.execActld core eng sa table par s
  | .act core eng reg mask mz w => Sys2Proof.Machine.execAct core eng reg mask mz w s
  | .vecIntArith core eng reg mask mz w => Sys2Proof.Machine.execVecIntArith core eng reg mask mz w s
  | .vecLogic core eng reg mask mz w => Sys2Proof.Machine.execVecLogic core eng reg mask mz w s
  | .vecFloatArith core eng reg mask mz w => Sys2Proof.Machine.execVecFloatArith core eng reg mask mz w s
  | .vecFdivRoot core eng reg mask mz w => Sys2Proof.Machine.execVecFdivRoot core eng reg mask mz w s
  | .vecComplexArith core eng reg mask mz w => Sys2Proof.Machine.execVecComplexArith core eng reg mask mz w s
  | .cmp core eng reg mask mz w => Sys2Proof.Machine.execCmp core eng reg mask mz w s
  | .sel core eng reg mask mz w => Sys2Proof.Machine.execSel core eng reg mask mz w s
  | .cvt core eng reg mask mz w => Sys2Proof.Machine.execCvt core eng reg mask mz w s
  | .perm core eng reg mask mz w => Sys2Proof.Machine.execPerm core eng reg mask mz w s
  | .shuf core eng reg mask mz w => Sys2Proof.Machine.execShuf core eng reg mask mz w s
  | .packc core eng reg mask mz w => Sys2Proof.Machine.execPackc core eng reg mask mz w s
  | .unpackc core eng reg mask mz w => Sys2Proof.Machine.execUnpackc core eng reg mask mz w s
  | .red core eng reg mask mz w => Sys2Proof.Machine.execRed core eng reg mask mz w s
  | .maskOp core eng reg mask mz w => Sys2Proof.Machine.execMaskOp core eng reg mask mz w s
  | .ins core eng reg mask mz w => Sys2Proof.Machine.execIns core eng reg mask mz w s
  | .ext core eng reg mask mz w => Sys2Proof.Machine.execExt core eng reg mask mz w s
  | .cmac core w0 w1 par => Sys2Proof.Machine.execCmac core w0 w1 par s
  | .cmacc core w0 w1 par => Sys2Proof.Machine.execCmacc core w0 w1 par s
  | .cmul core w0 w1 par => Sys2Proof.Machine.execCmul core w0 w1 par s
  | .dmac core w0 w1 par => Sys2Proof.Machine.execDmac core w0 w1 par s
  | .dmul core w0 w1 par => Sys2Proof.Machine.execDmul core w0 w1 par s
  | .cmag2 core w0 w1 par => Sys2Proof.Machine.execCmag2 core w0 w1 par s
  | .dspHalfArith core w0 w1 par => Sys2Proof.Machine.execDspHalfArith core w0 w1 par s
  | .dspLogic core w0 w1 par => Sys2Proof.Machine.execDspLogic core w0 w1 par s
  | .pack core w0 w1 par => Sys2Proof.Machine.execPack core w0 w1 par s
  | .unpack core w0 w1 par => Sys2Proof.Machine.execUnpack core w0 w1 par s
  | .mov core w0 w1 par => Sys2Proof.Machine.execMov core w0 w1 par s
  | .movsd core w0 w1 par => Sys2Proof.Machine.execMovsd core w0 w1 par s
  | .movds core w0 w1 par => Sys2Proof.Machine.execMovds core w0 w1 par s
  | .dclr core w0 w1 par => Sys2Proof.Machine.execDclr core w0 w1 par s
  | .reti core => Sys2Proof.Machine.execReti core s
  | .preempt core => Sys2Proof.Machine.execPreempt core s
  | .overrun core => Sys2Proof.Machine.execOverrun core s
  | .leafTimeout core => Sys2Proof.Machine.execLeafTimeout core s
  | .checkMismatch e kind column vector expected observed bound cycle => Sys2Proof.Machine.execCheckMismatch e kind column vector expected observed bound cycle s
  | .quireStart tag p => Sys2Proof.Machine.execQuireStart tag p s
  | .leafDispatch core => Sys2Proof.Machine.execLeafDispatch core s
  | .reshard tag hit word again => Sys2Proof.Machine.execReshard tag hit word again s
  | .evictionWindowOpen k cell close => Sys2Proof.Machine.execEvictionWindowOpen k cell close s
  | .contextSave tag parityBad => Sys2Proof.Machine.execContextSave tag parityBad s
  | .contextSaveDone k => Sys2Proof.Machine.execContextSaveDone k s
  | .fullQuireSave tag => Sys2Proof.Machine.execFullQuireSave tag s
  | .contextRestore tag eccBad => Sys2Proof.Machine.execContextRestore tag eccBad s
  | .quireTimeout tag => Sys2Proof.Machine.execQuireTimeout tag s
  | .accountWindowEnd k => Sys2Proof.Machine.execAccountWindowEnd k s
  | .objectHoldExpiry k idx => Sys2Proof.Machine.execObjectHoldExpiry k idx s
  | .slotDeadline tag => Sys2Proof.Machine.execSlotDeadline tag s
  | .sigApply core err => Sys2Proof.Machine.execSigApply core err s
  | .waitExpired core => Sys2Proof.Machine.execWaitExpired core s
  | .registrationRetry core => Sys2Proof.Machine.execRegistrationRetry core s
  | .frameReceive f => Sys2Proof.Machine.execFrameReceive f s
  | .slotStoreForward cell sfnSlot symbol x => Sys2Proof.Machine.execSlotStoreForward cell sfnSlot symbol x s
  | .quireRelease cell sfnSlot age => Sys2Proof.Machine.execQuireRelease cell sfnSlot age s
  | .receptionWindowEnd cell sfnSlot symbol => Sys2Proof.Machine.execReceptionWindowEnd cell sfnSlot symbol s
  | .cplaneWindowOpen cell downlink => Sys2Proof.Machine.execCplaneWindowOpen cell downlink s
  | .dlTxWindowOpen cell sfnSlot symbol => Sys2Proof.Machine.execDlTxWindowOpen cell sfnSlot symbol s
  | .dlTxWindowClose cell sfnSlot symbol => Sys2Proof.Machine.execDlTxWindowClose cell sfnSlot symbol s
  | .prachWindowEnd cell sfnSlot pdu => Sys2Proof.Machine.execPrachWindowEnd cell sfnSlot pdu s
  | .portUp p peer => Sys2Proof.Machine.execPortUp p peer s
  | .portDown p => Sys2Proof.Machine.execPortDown p s
  | .moduleInsert cage => Sys2Proof.Machine.execModuleInsert cage s
  | .moduleIdentify cage lower upper => Sys2Proof.Machine.execModuleIdentify cage lower upper s
  | .moduleReadyTimeout cage => Sys2Proof.Machine.execModuleReadyTimeout cage s
  | .moduleEvaluate => Sys2Proof.Machine.execModuleEvaluate s
  | .biasSample cage bias => Sys2Proof.Machine.execBiasSample cage bias s
  | .lifeUpdate cage => Sys2Proof.Machine.execLifeUpdate cage s
  | .powerOnMinute cage => Sys2Proof.Machine.execPowerOnMinute cage s
  | .moduleFlag cage flags => Sys2Proof.Machine.execModuleFlag cage flags s
  | .mkaKeyDistribute p sci an => Sys2Proof.Machine.execMkaKeyDistribute p sci an s
  | .saRetire p => Sys2Proof.Machine.execSaRetire p s
  | .llrCombine tag pdu llrs ecc => Sys2Proof.Machine.execLlrCombine tag pdu llrs ecc s
  | .llrSpill k => Sys2Proof.Machine.execLlrSpill k s
  | .codeBlockDecode tag pdu cb eccBad => Sys2Proof.Machine.execCodeBlockDecode tag pdu cb eccBad s
  | .codeBlockWriteback tag pdu cb => Sys2Proof.Machine.execCodeBlockWriteback tag pdu cb s
  | .harqHeaderWrite tag pdu => Sys2Proof.Machine.execHarqHeaderWrite tag pdu s
  | .tbCrcCheck tag pdu => Sys2Proof.Machine.execTbCrcCheck tag pdu s
  | .polarDecode tag part llrs => Sys2Proof.Machine.execPolarDecode tag part llrs s
  | .smallBlockDecode tag part llrs => Sys2Proof.Machine.execSmallBlockDecode tag part llrs s
  | .dlEncode tag pdu => Sys2Proof.Machine.execDlEncode tag pdu s
  | .labelEncode tag pdu => Sys2Proof.Machine.execLabelEncode tag pdu s
  | .prachCorrelation tag root stream rep => Sys2Proof.Machine.execPrachCorrelation tag root stream rep s
  | .resultPosting tag => Sys2Proof.Machine.execResultPosting tag s
  | .colophonFinalise tag => Sys2Proof.Machine.execColophonFinalise tag s
  | .sealComplete => Sys2Proof.Machine.execSealComplete s
  | .trainingStep slot r => Sys2Proof.Machine.execTrainingStep slot r s
  | .shadowEvaluation slot r => Sys2Proof.Machine.execShadowEvaluation slot r s
  | .candidateStaging copy => Sys2Proof.Machine.execCandidateStaging copy s
  | .autoRollback slot => Sys2Proof.Machine.execAutoRollback slot s
  | .yardstickMeasure cell tag => Sys2Proof.Machine.execYardstickMeasure cell tag s
  | .yardstickExpiry cell => Sys2Proof.Machine.execYardstickExpiry cell s
  | .linkTrained l slow fast => Sys2Proof.Machine.execLinkTrained l slow fast s
  | .hello l chip poolId topology link => Sys2Proof.Machine.execHello l chip poolId topology link s
  | .helloRetry l => Sys2Proof.Machine.execHelloRetry l s
  | .flitReceive l flit fec => Sys2Proof.Machine.execFlitReceive l flit fec s
  | .replayTimeout l => Sys2Proof.Machine.execReplayTimeout l s
  | .linkHoldExpiry l => Sys2Proof.Machine.execLinkHoldExpiry l s
  | .chipLost chip => Sys2Proof.Machine.execChipLost chip s
  | .chipFound chip => Sys2Proof.Machine.execChipFound chip s
  | .write m par => Sys2Proof.Machine.execWrite m par s
  | .mcast m par => Sys2Proof.Machine.execMcast m par s
  | .sum m par => Sys2Proof.Machine.execSum m par s
  | .jr m par => Sys2Proof.Machine.execJr m par s
  | .readReq m => Sys2Proof.Machine.execReadReq m s
  | .progress m => Sys2Proof.Machine.execProgress m s
  | .complete m => Sys2Proof.Machine.execComplete m s
  | .cut m => Sys2Proof.Machine.execCut m s
  | .syncSig r => Sys2Proof.Machine.execSyncSig r s
  | .syncTake r => Sys2Proof.Machine.execSyncTake r s
  | .syncReply m => Sys2Proof.Machine.execSyncReply m s
  | .syncReg r => Sys2Proof.Machine.execSyncReg r s
  | .syncCancel m => Sys2Proof.Machine.execSyncCancel m s
  | .spine m => Sys2Proof.Machine.execSpine m s
  | .stitchDescriptor q => Sys2Proof.Machine.execStitchDescriptor q s
  | .xferLost num => Sys2Proof.Machine.execXferLost num s
  | .spineRecompute => Sys2Proof.Machine.execSpineRecompute s
  | .spineRound => Sys2Proof.Machine.execSpineRound s
  | .spineMissing chip => Sys2Proof.Machine.execSpineMissing chip s
  | .jrCutoff cell sfnSlot => Sys2Proof.Machine.execJrCutoff cell sfnSlot s
  | .carderDescriptor k t err => Sys2Proof.Machine.execCarderDescriptor k t err s
  | .carderDone k t => Sys2Proof.Machine.execCarderDone k t s
  | .dmaDescriptor ch desc host ev => Sys2Proof.Machine.execDmaDescriptor ch desc host ev s
  | .dmaReadBack ch ok => Sys2Proof.Machine.execDmaReadBack ch ok s
  | .pageResponse ch success host ev => Sys2Proof.Machine.execPageResponse ch success host ev s
  | .pageTimeout ch => Sys2Proof.Machine.execPageTimeout ch s
  | .cplTimeout ch => Sys2Proof.Machine.execCplTimeout ch s
  | .atsInvalidation malformed => Sys2Proof.Machine.execAtsInvalidation malformed s
  | .poisonedRx ch again => Sys2Proof.Machine.execPoisonedRx ch again s
  | .linkDown => Sys2Proof.Machine.execLinkDown s
  | .hotReset => Sys2Proof.Machine.execHotReset s
  | .functionLevelReset => Sys2Proof.Machine.execFunctionLevelReset s
  | .ideStreamInsecure => Sys2Proof.Machine.execIdeStreamInsecure s
  | .d3hotEntry => Sys2Proof.Machine.execD3hotEntry s
  | .d0Return => Sys2Proof.Machine.execD0Return s
  | .getVersion => Sys2Proof.Machine.execGetVersion s
  | .getCapabilities => Sys2Proof.Machine.execGetCapabilities s
  | .negotiateAlgorithms mldsa mlkem => Sys2Proof.Machine.execNegotiateAlgorithms mldsa mlkem s
  | .getDigests => Sys2Proof.Machine.execGetDigests s
  | .getCertificate slot off len => Sys2Proof.Machine.execGetCertificate slot off len s
  | .challenge slot nonce => Sys2Proof.Machine.execChallenge slot nonce s
  | .getMeasurements index nonce => Sys2Proof.Machine.execGetMeasurements index nonce s
  | .keyExchange reqSession kem => Sys2Proof.Machine.execKeyExchange reqSession kem s
  | .finish hmac => Sys2Proof.Machine.execFinish hmac s
  | .endSession => Sys2Proof.Machine.execEndSession s
  | .ideKm stream go => Sys2Proof.Machine.execIdeKm stream go s
  | .powerOnReset => Sys2Proof.Machine.execPowerOnReset s
  | .perst => Sys2Proof.Machine.execPerst s
  | .perstDeassert ddr flash => Sys2Proof.Machine.execPerstDeassert ddr flash s
  | .firmwareInit engineFails => Sys2Proof.Machine.execFirmwareInit engineFails s
  | .watchdog => Sys2Proof.Machine.execWatchdog s
  | .thermalTrip => Sys2Proof.Machine.execThermalTrip s
  | .thermalTripRelease => Sys2Proof.Machine.execThermalTripRelease s
  | .extest => Sys2Proof.Machine.execExtest s
  | .firmwareFatal => Sys2Proof.Machine.execFirmwareFatal s
  | .thermalSense t => Sys2Proof.Machine.execThermalSense t s
  | .powerWindowEnd mean => Sys2Proof.Machine.execPowerWindowEnd mean s
  | .imonSample milliamp => Sys2Proof.Machine.execImonSample milliamp s
  | .throttleHoldExpiry cause => Sys2Proof.Machine.execThrottleHoldExpiry cause s
  | .throttleStepChange => Sys2Proof.Machine.execThrottleStepChange s
  | .domainGate d => Sys2Proof.Machine.execDomainGate d s
  | .pllStandby p => Sys2Proof.Machine.execPllStandby p s
  | .domainWake d => Sys2Proof.Machine.execDomainWake d s
  | .slotMarkIn => Sys2Proof.Machine.execSlotMarkIn s
  | .markLost group => Sys2Proof.Machine.execMarkLost group s
  | .evqOverflow => Sys2Proof.Machine.execEvqOverflow s
  | .moduleRemove cage => Sys2Proof.Machine.execModuleRemove cage s
  | .pwrGoodFall => Sys2Proof.Machine.execPwrGoodFall s
  | .extestExit => Sys2Proof.Machine.execExtestExit s
  | .pcieLinkTrained speed width => Sys2Proof.Machine.execPcieLinkTrained speed width s
  | .msixVectorUnmask v => Sys2Proof.Machine.execMsixVectorUnmask v s
  | .unknownTypeRecord spq check1 typ tag len => Sys2Proof.Machine.execUnknownTypeRecord spq check1 typ tag len s
  | .padRecord spq len => Sys2Proof.Machine.execPadRecord spq len s
  | .jrAreaDeadline cell sfnSlot => Sys2Proof.Machine.execJrAreaDeadline cell sfnSlot s
  | .translationCompletion ch granted host ev => Sys2Proof.Machine.execTranslationCompletion ch granted host ev s

end Sys2Proof.Machine
end

