-- ==== Sys2Proof/WellFormed.lean ====
section
/-!
DEFINITION. Well-formed commands: operands inside the widths and counts that the hardware gives them, where their Lean types
allow more.
-/

namespace Sys2Proof

/-! ### Operand records -/

/-- A mailbox command: its parameters and inline units fit their length fields (R363, R366). -/
def Cmd.wf (c : Cmd) : Bool := decide (c.params.length < 2 ^ 32) && decide (c.len.toNat ≤ 4096)

/-- A packed SFN and slot number (R450): SFN below 1,024, slot number below 160. -/
def slotKeyOk (n : Nat) : Bool := decide (n / 65536 < 1024) && decide (n % 65536 < 160)

/-- A section of a slot: 14 symbols, 275 PRBs (R295). -/
def Section.wf (x : Section) : Bool := decide (x.sym + x.nSym ≤ 14) && decide (x.prb + x.nPrb ≤ 275)

/-- A PUSCH PDU: a modulation order, one to eight layers, symbols inside the slot. -/
def Pusch.wf (p : Pusch) : Bool :=
  [1, 2, 4, 6, 8].contains p.qm && decide (1 ≤ p.layers ∧ p.layers ≤ 8) && decide (p.startSym + p.numSym ≤ 14)
    && decide (p.startPrb + p.numPrb ≤ 275) && (p.bg == 1 || p.bg == 2)

/-- A PRACH PDU: a format that has a number, a logical root index, a set of cyclic shifts. -/
def PrachPdu.wf (p : PrachPdu) : Bool := decide (p.format ≤ 10 ∧ p.rootIndex < 838 ∧ p.restricted ≤ 2 ∧ p.count ≤ 255)

def UlSlot.wf (r : UlSlot) : Bool :=
  decide (r.len.toNat ≤ 4096) && r.pusch.all Pusch.wf && r.prach.all PrachPdu.wf && r.pucch.all Section.wf

def Pdsch.wf (p : Pdsch) : Bool := p.sect.wf && decide (1 ≤ p.layers ∧ p.layers ≤ 8) && (p.bg == 1 || p.bg == 2)

/-- A BCH payload: 24 MIB bits and 8 more. -/
def BchPdu.wf (p : BchPdu) : Bool := p.mib.length == 24 && p.extra.length == 8

def DlSlot.wf (r : DlSlot) : Bool :=
  decide (r.len.toNat ≤ 4096) && r.pdsch.all Pdsch.wf && r.other.all Section.wf && r.bch.all BchPdu.wf

/-- Transport-block lengths are those of the payloads fetched. -/
def TxData.wf (r : TxData) : Bool :=
  decide (r.len.toNat ≤ 4096) && r.tbs.all fun t => t.2.1.toNat == t.2.2.length

/-- A live extent names one of four engine positions and lies in its memory (R236). -/
def Extent.wf (x : Extent) : Bool :=
  decide (x.pos < 4) && decide (x.start + x.len ≤ if x.acc then 3072 else 0x400000)

/-- A program: at most four engine positions, 2 to 256 objects, at most 16 named (R229, R230, R251). -/
def Prog.wf (p : Prog) : Bool :=
  decide (p.positions ≤ 4) && decide (2 ≤ p.objInit.length ∧ p.objInit.length ≤ 256) && decide (p.named.length ≤ 16)

/-- A received eCPRI message: symbols of a slot, PRBs of a carrier (Tables 13-3 and 13-4). -/
def EcpriMsg.wf (m : EcpriMsg) : Bool :=
  slotKeyOk m.sfnSlot && decide (m.symbol < 14 ∧ m.typ < 256 ∧ m.subSeq < 128 ∧ m.filterIndex < 16)
    && m.sections.all fun x => decide (x.prb < 1024 ∧ x.nPrb < 256)

/-- A received frame: at most two VLAN tags, and a length on the wire (R292). -/
def Frame.wf (f : Frame) : Bool :=
  decide (f.tags.length ≤ 2) && decide (64 ≤ f.len ∧ f.len ≤ 9600) && f.msgs.all EcpriMsg.wf

/-- A stitch message carries at most 4,096 data bytes (R322). -/
def SMsg.wf (m : SMsg) : Bool := decide (m.data.length ≤ 4096)

/-- A training step brings a gradient of each weight for each record, and sums every record once (R178). -/
def StepResult.wf (r : StepResult) : Bool :=
  r.grads.all (fun g => g.length == (r.grads.headD []).length) && r.arrival.length == r.grads.length
    && (List.range r.grads.length).all r.arrival.contains

/-- An evaluation runs both versions over the same records (R181). -/
def EvalResult.wf (r : EvalResult) : Bool := r.cand.map (·.length) == r.active.map (·.length)

/-- The slots of the flash hold 16 MiB each, the certificate area 64 KiB (R387). -/
def flashOk (f : Flash) : Bool :=
  decide (f.slotA.length ≤ 0x1000000) && decide (f.slotB.length ≤ 0x1000000) && decide (f.certs.flatten.length ≤ 0x10000)

/-! ### Commands -/

/-- The command's operands are inside what the hardware can carry. -/
def Instr.wf : Instr → Bool
  | .nop c => c.wf
  | .deviceInfo c => c.wf
  | .certGet c => c.wf
  | .attest c => c.wf
  | .keyImport c => c.wf
  | .fwStage c => c.wf
  | .mbxConfig c => c.wf
  | .schedConfig c => c.wf
  | .slotConfig c => c.wf
  | .fhConfig c => c.wf
  | .slConfig c => c.wf
  | .poolConfig c => c.wf
  | .harqConfig c => c.wf
  | .dmaConfig c => c.wf
  | .windowCreate c => c.wf
  | .windowRemove c => c.wf
  | .modelLoad c => c.wf
  | .modelUnload c => c.wf
  | .ldpcTableLoad c => c.wf
  | .precoderLoad c => c.wf
  | .adaptConfig c => c.wf
  | .adaptRollback c => c.wf
  | .adaptStatus c => c.wf
  | .yardstickRead c => c.wf
  | .quireStatus c => c.wf
  | .quireCancel c => c.wf
  | .shareRead c => c.wf
  | .colophonStore c => c.wf
  | .colophonSeal c => c.wf
  | .colophonCollect c => c.wf
  | .setupRead c => c.wf
  | .fhStats c => c.wf
  | .moduleRead c => c.wf
  | .modulePolicy c => c.wf
  | .moduleTable c => c.wf
  | .slStats c => c.wf
  | .telemetryRead c => c.wf
  | .powerState c => c.wf
  | .ulSlot r => r.wf
  | .dlSlot r => r.wf
  | .ulDci r => r.wf
  | .txData r => r.wf
  | .barAccessSize _ len => decide (1 ≤ len ∧ len ≤ 4096)
  | .dloop _ _ _ bodyWords => decide (bodyWords < 2 ^ 16)
  | .leafEnd _ _ _ live => live.all Extent.wf
  | .chain _ _ _ _ _ stages _ => decide (1 ≤ stages.length ∧ stages.length ≤ 8)
  | .quireStart _ p => p.wf
  | .trainingStep _ r => r.wf
  | .shadowEvaluation _ r => r.wf
  | .frameReceive f => f.wf
  | .slotStoreForward _ sfnSlot symbol x => slotKeyOk sfnSlot && decide (symbol < 14 ∧ x.stream < 32)
  | .quireRelease _ sfnSlot _ => slotKeyOk sfnSlot
  | .receptionWindowEnd _ sfnSlot symbol => slotKeyOk sfnSlot && decide (symbol < 14)
  | .dlTxWindowOpen _ sfnSlot symbol => slotKeyOk sfnSlot && decide (symbol < 14)
  | .dlTxWindowClose _ sfnSlot symbol => slotKeyOk sfnSlot && decide (symbol < 14)
  | .prachWindowEnd _ sfnSlot _ => slotKeyOk sfnSlot
  | .moduleIdentify _ lower upper => lower.length == 128 && upper.length == 128
  | .biasSample _ bias => decide (0 < bias.mult) && decide (bias.lanes.length ≤ 8)
  | .mkaKeyDistribute _ sci _ => decide (sci < 2 ^ 64)
  | .prachCorrelation _ root stream rep => decide (root < 64 ∧ stream < 32 ∧ rep < 64)
  | .flitReceive _ flit _ => flit.length == 256
  | .write m _ => m.wf
  | .mcast m _ => m.wf
  | .sum m _ => m.wf
  | .jr m _ => m.wf
  | .readReq m => m.wf
  | .progress m => m.wf
  | .complete m => m.wf
  | .cut m => m.wf
  | .syncSig r => r.msg.wf
  | .syncTake r => r.msg.wf
  | .syncReply m => m.wf
  | .syncReg r => r.msg.wf
  | .syncCancel m => m.wf
  | .spine m => m.wf
  | .jrCutoff _ sfnSlot => slotKeyOk sfnSlot
  | .dmaDescriptor _ desc _ _ => desc.length == 64
  | .getCertificate slot off len => decide (slot < 8 ∧ off < 65536 ∧ len < 65536)
  | .challenge slot nonce => decide (slot < 8) && nonce.length == 32
  | .getMeasurements index nonce => decide (index < 256) && nonce.length == 32
  | .keyExchange _ kem => kem.length == 1184
  | .perstDeassert ddr flash => ddr.length == 4 && flash.all flashOk
  | .imonSample milliamp => decide (milliamp ≤ 100000)
  | .jrAreaDeadline _ sfnSlot => slotKeyOk sfnSlot
  | .longCommandLeaf | .mbxDoorbell _ _ | .mbxDoorbellReset _ _ | .slotMark _ | .dmaDbCount _ _ | .dmaDbCancel _
  | .secLockSet | .registerWrite _ _ _ | .unsupportedReq _ | .scalarArith _ _ _ _ _ _ _ | .lds _ _ _ _ _
  | .sts _ _ _ _ | .mova _ _ _ | .movsa _ _ _ | .movsb _ _ _ | .movbs _ _ _ | .branch _ _ _ _ _ | .sig _ _ _
  | .take _ _ _ _ _ | .wait _ _ _ _ _ | .remoteWait _ _ _ _ | .arrayMode _ _ _ | .arrayLoad _ _ _ _
  | .arrayStream _ _ _ _ | .arrayDrain _ _ _ _ | .vld _ _ _ _ _ _ _ | .vst _ _ _ _ _ _ _ | .actld _ _ _ _ _
  | .act _ _ _ _ _ _ | .vecIntArith _ _ _ _ _ _ | .vecLogic _ _ _ _ _ _ | .vecFloatArith _ _ _ _ _ _
  | .vecFdivRoot _ _ _ _ _ _ | .vecComplexArith _ _ _ _ _ _ | .cmp _ _ _ _ _ _ | .sel _ _ _ _ _ _ | .cvt _ _ _ _ _ _
  | .perm _ _ _ _ _ _ | .shuf _ _ _ _ _ _ | .packc _ _ _ _ _ _ | .unpackc _ _ _ _ _ _ | .red _ _ _ _ _ _
  | .maskOp _ _ _ _ _ _ | .ins _ _ _ _ _ _ | .ext _ _ _ _ _ _ | .cmac _ _ _ _ | .cmacc _ _ _ _ | .cmul _ _ _ _
  | .dmac _ _ _ _ | .dmul _ _ _ _ | .cmag2 _ _ _ _ | .dspHalfArith _ _ _ _ | .dspLogic _ _ _ _ | .pack _ _ _ _
  | .unpack _ _ _ _ | .mov _ _ _ _ | .movsd _ _ _ _ | .movds _ _ _ _ | .dclr _ _ _ _ | .reti _ | .preempt _
  | .overrun _ | .leafTimeout _ | .checkMismatch _ _ _ _ _ _ _ _ | .leafDispatch _ | .contextSave _ _
  | .contextSaveDone _ | .fullQuireSave _ | .contextRestore _ _ | .quireTimeout _ | .accountWindowEnd _
  | .objectHoldExpiry _ _ | .slotDeadline _ | .sigApply _ _ | .waitExpired _ | .registrationRetry _
  | .cplaneWindowOpen _ _ | .portUp _ _ | .portDown _ | .moduleInsert _ | .moduleReadyTimeout _ | .moduleEvaluate
  | .lifeUpdate _ | .powerOnMinute _ | .moduleFlag _ _ | .saRetire _ | .llrCombine _ _ _ _ | .llrSpill _
  | .codeBlockDecode _ _ _ _ | .codeBlockWriteback _ _ _ | .harqHeaderWrite _ _ | .tbCrcCheck _ _
  | .polarDecode _ _ _ | .smallBlockDecode _ _ _ | .dlEncode _ _ | .labelEncode _ _ | .resultPosting _
  | .colophonFinalise _ | .sealComplete | .candidateStaging _ | .reshard _ _ _ _ | .evictionWindowOpen _ _ _
  | .autoRollback _ | .yardstickExpiry _ | .yardstickMeasure _ _ | .hello _ _ _ _ _ | .linkTrained _ _ _ | .helloRetry _ | .replayTimeout _ | .linkHoldExpiry _
  | .chipLost _ | .chipFound _ | .stitchDescriptor _ | .xferLost _ | .spineRecompute | .spineRound | .spineMissing _
  | .carderDescriptor _ _ _ | .carderDone _ _ | .dmaReadBack _ _ | .pageResponse _ _ _ _ | .pageTimeout _
  | .cplTimeout _ | .atsInvalidation _ | .poisonedRx _ _ | .linkDown | .hotReset | .functionLevelReset
  | .ideStreamInsecure | .d3hotEntry | .d0Return | .getVersion | .getCapabilities | .negotiateAlgorithms _ _
  | .getDigests | .finish _ | .endSession | .ideKm _ _ | .powerOnReset | .perst | .firmwareInit _ | .watchdog
  | .thermalTrip | .thermalTripRelease | .extest | .firmwareFatal | .thermalSense _ | .powerWindowEnd _
  | .throttleHoldExpiry _ | .throttleStepChange | .domainGate _ | .pllStandby _ | .domainWake _ | .slotMarkIn
  | .markLost _ | .evqOverflow | .moduleRemove _ | .pwrGoodFall | .extestExit | .pcieLinkTrained _ _
  | .msixVectorUnmask _ | .unknownTypeRecord _ _ _ _ _ | .padRecord _ _ | .translationCompletion _ _ _ _ => true

end Sys2Proof
end

