-- ==== Sys2Proof/Safety.lean ====
section
/-!
DEFINITION. The terms that claims are stated in: when a mailbox command is served, what an answer is, the invariant of the part,
and what a fuse array may become.
-/

namespace Sys2Proof.Machine
open Sys2Proof

/-! ### Mailbox commands -/

/-- A mailbox command is read and runs at once: its record lies whole in CMDQ, LEN is inside R363 and R366, start-up lets it run
(R368), its buffers transfer, and no long command holds its target (R369). -/
structure Served (code : Nat) (early : Bool) (c : Cmd) (s : State) : Prop where
  read : s.canRead s.mbx.cmdq c.len.toNat = true
  len : 3 ≤ c.len.toNat ∧ c.len.toNat ≤ 257
  up : early = true ∨ s.boot.state = .ready
  xfer : c.xferFail = none
  free : s.targetBusy code c = false

/-- A long command is read, no other runs before it, and its first leaf commits it (R369). -/
structure ServedLong (early : Bool) (c : Cmd) (s : State) : Prop where
  read : s.canRead s.mbx.cmdq c.len.toNat = true
  len : 3 ≤ c.len.toNat ∧ c.len.toNat ≤ 257
  up : early = true ∨ s.boot.state = .ready
  xfer : c.xferFail = none
  first : s.mbx.longQ = []
  leaves : c.leaves ≤ 1

/-- The answer to a command from a state `u` with its effect: the corrections it made are reported, and the response is queued, with
OK_CLAMPED in place of OK where there were corrections (R366, R376). -/
def reply (code : Nat) (c : Cmd) (status detail : Nat) (body : Bytes) (rep : List Rep) (u : State) : State :=
  (u.report code c.tag.toNat rep).respond code c.tag.toNat (if status = 0 ∧ rep ≠ [] then 1 else status) detail
    u.mbx.reportCount.toNat rep.length 0 body

/-- The answer to a command with a result in its output buffer, which holds it (R366). -/
def replyOut (code : Nat) (c : Cmd) (status : Nat) (out body : Bytes) (u : State) : State :=
  (u.hostWr c.obAddr.toNat out).respond code c.tag.toNat status 0 u.mbx.reportCount.toNat 0 out.length body

/-- The answer to a read: its result stands in the response while it fits there, else in the output buffer (R363, R366). -/
def replyRead (code : Nat) (c : Cmd) (b : Bytes) (u : State) : State :=
  if b.length ≤ 4080 then reply code c 0 0 b [] u else replyOut code c 0 b [] u

/-- The output buffer of a command holds a result that does not fit in the response. -/
def outFits (c : Cmd) (b : Bytes) : Prop := 4080 < b.length → b.length ≤ c.obLen.toNat

/-- A host request to BAR0 or BAR2 reaches its register: the groups are served (R420) and, where IDE is required, a stream that may
have carried it is Secure (R345). -/
def BarOk (s : State) : Prop :=
  s.barServed = true ∧ (s.host.ideRequired = false ∨ s.host.secure0 = true ∨ s.host.secure1 = true)

/-- A machine outcome is a next state of which something holds. -/
def NextIs (r : Host.Outcome State Fault Refusal) (P : State → Prop) : Prop := ∃ t, r = .next t ∧ P t

/-! ### Instructions of a leaf -/

/-- An instruction of `words` words issues on a core now: a leaf of quire `q` is live, the core does not wait, the words lie in the
code region, and every register that it reads is there (R112 to R114, R135). -/
structure Issues (c : Fin 8) (words : Nat) (reads : List Nat) (q : Quire) (s : State) : Prop where
  leaf : (s.core c).leaf = some q.tag
  quire : tget? s.quires q.tag.toNat = some q
  free : (s.core c).wait = none ∨ (s.core c).inHandler = true
  fetch : (s.core c).inHandler = true ∨ (s.core c).cx.pc + 8 * words ≤ q.code.len
  ready : (s.core c).awaits reads = false
  due : (s.core c).readyAt reads ≤ (s.core c).now

/-- The state in which the instruction runs: the DSP writes due have landed (R127). -/
def State.landed (s : State) (c : Fin 8) : State :=
  if (s.core c).inHandler then s else s.setCore c (landBefore (s.core c).cycle)

/-- The core goes on past an instruction (R113, R129). -/
def State.past (s : State) (c : Fin 8) (words cycles : Nat) : State := s.setCore c (issued words cycles)

/-- An engine instruction issues: its block of `n` s registers lies in the file, and its engine is in service (R86, R115). -/
structure IssuesEng (c : Fin 8) (eng : Bool) (sa : Fin 64) (n words : Nat) (q : Quire) (s : State) : Prop where
  core : Issues c words ((List.range n).map (sa.val + ·)) q s
  block : sa.val + n ≤ 64
  live : (s.eng (engOf c eng)).retired = false

/-! ### The invariant -/

/-- What every step keeps: the byte memory is in canonical form, a device that something holds in reset is in the start-up state
RESET (R401, R411, R415, R441), an owned part is in life cycle OWNED (R395), and LOG2_SIZE is in its range (R425). -/
structure Inv (s : State) : Prop where
  mem : s.mem.wf = true
  held : s.managed = false → s.boot.state = .reset
  owned : s.sec.fuses.ownerRoot.isSome = true → s.sec.fuses.lifecycle = 3
  ring : 16 ≤ s.mbx.log2Size ∧ s.mbx.log2Size ≤ 24

/-- A fuse array that another may become: no bit of it is cleared (R385). A blank OWNER_ROOT is all zero. -/
structure FuseLe (f g : Fuses) : Prop where
  jtag : f.jtagLock = true → g.jtagLock = true
  life : ∀ i, f.lifecycle.getLsbD i = true → g.lifecycle.getLsbD i = true
  revoked : f.key0Revoked = true → g.key0Revoked = true
  pkg : ∀ i, f.pkgSvn.getLsbD i = true → g.pkgSvn.getLsbD i = true
  fw : ∀ i, f.fwSvn.getLsbD i = true → g.fwSvn.getLsbD i = true
  root : ∀ r, f.ownerRoot = some r → g.ownerRoot = some r

/-- The commands whose effect is, or may be, a COLD or a POWER-ON reset (Table 18-6). -/
def isResetCmd : Instr → Bool
  | .powerOnReset => true
  | .pwrGoodFall => true
  | .perst => true
  | .thermalTrip => true
  | .thermalSense _ => true
  | .watchdog => true
  | .extest => true
  | .firmwareFatal => true
  | _ => false

end Sys2Proof.Machine
end

