-- ==== Sys2Proof/Certificates/Slice0/Obligations.lean ====
section
/-!
DEFINITION. The statements for the provers.
-/

open Sys2Proof Sys2Proof.Machine

/-- For every command c, every queue rest and every state s: the step of s with c in front of rest is exec of c on s with
the queue rest. (00_scope.md) -/
def Obligations.Step_runs_the_command_at_the_front : Prop :=
  ∀ (c : Instr) (rest : List Instr) (s : State),
    step { s with pending := c :: rest } = exec c { s with pending := rest }

/-- For every state with an empty queue and PWR_GOOD high, the step answers the state in which the AON tick count and the
four cluster counters are one higher, a core that waits in a WAIT and its engines count its DSP cycles, and other
engines, other cores, quires, registers of the host link, memory and configuration are as before. That the tick stands
in place of idling is the model's choice (log entry 1). (R422, R222, R258, 00_scope.md) -/
def Obligations.Idle_step_is_one_tick : Prop :=
  ∀ s : State, s.pending = [] → s.boot.pwrGood = true →
    ∃ t, step s = .next t ∧ t.ticks = s.ticks + 1
      ∧ (∀ k : Fin 4, (t.cl k).counter = (s.cl k).counter + 1)
      ∧ (∀ e : Fin 16, t.engines[e] = if s.spins (e.val / 2) then (s.engines[e]).spin (4 * s.cyclesIn 1) else s.engines[e])
      
      ∧ (∀ c : Fin 8, t.cores[c] = if s.spins c.val then (s.cores[c]).spin (4 * s.cyclesIn 1) else s.cores[c])
      ∧ t.quires = s.quires ∧ t.mem = s.mem ∧ t.cfg = s.cfg
      ∧ t.host = s.host ∧ t.mbx = s.mbx ∧ t.boot = s.boot ∧ t.power = s.power ∧ t.sec = s.sec ∧ t.pending = []

/-- State.reset meets Inv: its memory is in canonical form, it is in the start-up state RESET while something holds it,
and LOG2_SIZE is 16. (R411, R425, 18_clocks_power_reset.md) -/
def Obligations.Reset_meets_the_invariant : Prop :=
  Inv State.reset

/-- For every state s with Inv s: if the step of s answers a next state t, then Inv t: the byte memory is in canonical
form; a device that PERST_N, PWR_GOOD, the thermal trip or EXTEST holds is in the start-up state RESET; a part whose
OWNER_ROOT is set is in life cycle OWNED; LOG2_SIZE lies from 16 to 24. (R401, R411, R395, R425, R415, R441) -/
def Obligations.Every_step_keeps_the_invariant : Prop :=
  ∀ s t : State, Inv s → step s = .next t → Inv t

/-- For every command c and every state s: if exec of c on s answers a next state t, then every fuse bit that is 1 in s is
1 in t: JTAG_LOCK, LIFECYCLE, KEY0_REVOKED, PKG_SVN, FW_SVN and OWNER_ROOT. (R385, R386, R390, R395) -/
def Obligations.No_command_clears_a_fuse_bit : Prop :=
  ∀ (c : Instr) (s t : State), exec c s = .next t → FuseLe s.sec.fuses t.sec.fuses

/-- For every command c that is not an event bringing a COLD or POWER-ON reset, and every state s in which SEC_LOCK.LOCK
is set: if exec of c on s answers a next state, LOCK is set in it. (19_registers.md, R424) -/
def Obligations.Security_lock_stays_until_a_cold_reset : Prop :=
  ∀ (c : Instr) (s t : State), isResetCmd c = false → s.host.lock = true → exec c s = .next t → t.host.lock = true

/-- For every command c and every state s: if exec of c on s answers a next state t, the queue of t is the queue of s. The
queue is the model's own. (00_scope.md) -/
def Obligations.Commands_leave_the_queue_alone : Prop :=
  ∀ (c : Instr) (s t : State), exec c s = .next t → t.pending = s.pending

/-- For every memory in canonical form, every address and every byte string: the write keeps the canonical form, reading
the string's bytes back gives the string, and every byte outside it reads as before. (02_architecture.md,
07_memory_and_streams.md) -/
def Obligations.Memory_reads_what_was_written : Prop :=
  ∀ (m : Mem) (a : Nat) (b : Bytes), m.wf = true →
    (m.write a b).wf = true ∧ (m.write a b).read a b.length = b
      ∧ ∀ x, x < a ∨ a + b.length ≤ x → (m.write a b).byte x = m.byte x

/-- When served: NOP answers OK with no body; DEVICE_INFO answers stepping 0, the Busum release, the mask of engines in
service, the DDR5 bytes, the start-up and the power state; TELEMETRY_READ the mean power, the hottest sensor, the
throttle step and the power state; CERT_GET puts the certificate chain in the output buffer, with UNIDENTIFIED (0x23)
where the identity keys differ; SETUP_READ with a zero digest returns every setup block used, with another digest the
block of that digest, and NOT_FOUND (7) for an unknown one. Nothing else changes. The 8-byte layout of the answers is
the model's (log entry 8). (R367, R392, R280, 16_mailbox.md) -/
def Obligations.Device_reads_answer : Prop :=
  (∀ (c : Cmd) (s : State), Served 0x01 true c s → exactLen 0 c.params.length = true →
      exec (.nop c) s = .next (reply 0x01 c 0 0 [] [] (s.takeCmd c.len)))
    ∧ (∀ (c : Cmd) (s : State), Served 0x02 true c s → exactLen 0 c.params.length = true →
      exec (.deviceInfo c) s = .next (reply 0x02 c 0 0
        (join8 [0, s.boot.fwRelease.toNat, s.engineMask, s.boot.ddrGiB * 2 ^ 30, s.boot.state.code, s.power.state.code]) []
        (s.takeCmd c.len)))
    ∧ (∀ (c : Cmd) (s : State), Served 0x50 false c s → exactLen 0 c.params.length = true →
      exec (.telemetryRead c) s = .next (reply 0x50 c 0 0
        (join8 [s.power.meanPower.toNat, lowBits 8 s.power.hottest, s.power.step.val, s.power.state.code]) [] (s.takeCmd c.len)))
    ∧ (∀ (c : Cmd) (s : State), Served 0x03 true c s → exactLen 0 c.params.length = true → s.sec.flash.certs.flatten.length ≤ c.obLen.toNat →
      exec (.certGet c) s = .next (replyOut 0x03 c
        (if s.boot.identityMismatch then 0x23 else 0) s.sec.flash.certs.flatten [] (s.takeCmd c.len)))
    ∧ (∀ (c : Cmd) (s : State), Served 0x3B false c s → exactLen 32 c.params.length = true → slice c.params 0 32 = zeros 32 → outFits c s.colo.setups.flatten →
      exec (.setupRead c) s = .next (replyRead 0x3B c s.colo.setups.flatten (s.takeCmd c.len)))
    ∧ (∀ (c : Cmd) (s : State) (b : Bytes), Served 0x3B false c s → exactLen 32 c.params.length = true → slice c.params 0 32 ≠ zeros 32 → s.colo.setups.find? (fun x => digest256 x == slice c.params 0 32) = some b → outFits c b →
      exec (.setupRead c) s = .next (replyRead 0x3B c b (s.takeCmd c.len)))
    ∧ (∀ (c : Cmd) (s : State), Served 0x3B false c s → exactLen 32 c.params.length = true → slice c.params 0 32 ≠ zeros 32 → (∀ b ∈ s.colo.setups, digest256 b ≠ slice c.params 0 32) →
      exec (.setupRead c) s = .next (reply 0x3B c 7 0 [] [] (s.takeCmd c.len)))

/-- When served: QUIRE_STATUS answers the state, consumer, leaf indices and fault code of the quire named; SHARE_READ one
account record for each of the 145 consumers of each cluster of the mask; ADAPT_STATUS a 64-byte record for each
version of the model named; MODULE_READ the bytes of page 00h of a ready module, and for another page of it a value
that nothing constrains (a new one is drawn); FH_STATS the counters of a scope, cleared with CLEAR; SL_STATS the
stitch counters, cleared with CLEAR; YARDSTICK_READ a head and four rows for each cell of the mask, cleared with
CLEAR. A tag, model, cage, page, scope or cell that does not exist is NOT_FOUND and changes nothing. The layouts of
parameters are the model's (log entry 8). (R244, R235, R185, R307, R313, R339, R190) -/
def Obligations.Status_reads_answer : Prop :=
  (∀ (c : Cmd) (s : State) (q : Quire), Served 0x30 false c s → exactLen 8 c.params.length = true → tget? s.quires (par8 c.params 0 % 65536) = some q →
      exec (.quireStatus c) s = .next (reply 0x30 c 0 0
        (join8 [q.state.code, q.consumer, q.leaf0, q.leaf1, q.fault.toNat]) [] (s.takeCmd c.len)))
    ∧ (∀ (c : Cmd) (s : State), Served 0x30 false c s → exactLen 8 c.params.length = true → tget? s.quires (par8 c.params 0 % 65536) = none →
      exec (.quireStatus c) s = .next (reply 0x30 c 7 0 [] [] (s.takeCmd c.len)))
    ∧ (∀ (c : Cmd) (s : State) (out : Bytes), Served 0x32 false c s → exactLen 8 c.params.length = true → (((List.finRange 4).filter fun k => bit (par8 c.params 0) k.val).flatMap fun k => (List.range 145).flatMap fun n =>
        accountRecord s k n (tget (s.cl k).accounts n {})) = out → out.length ≤ c.obLen.toNat →
      exec (.shareRead c) s = .next (replyOut 0x32 c 0 out [] (s.takeCmd c.len)))
    ∧ (∀ (c : Cmd) (s : State) (m : Model), Served 0x26 false c s → exactLen 8 c.params.length = true → (s.modelSlotOf (par8 c.params 0)).bind s.model? = some m → outFits c (m.versions.flatMap versionRecord) →
      exec (.adaptStatus c) s = .next (replyRead 0x26 c (m.versions.flatMap versionRecord) (s.takeCmd c.len)))
    ∧ (∀ (c : Cmd) (s : State), Served 0x26 false c s → exactLen 8 c.params.length = true → (s.modelSlotOf (par8 c.params 0)).bind s.model? = none →
      exec (.adaptStatus c) s = .next (reply 0x26 c 7 0 [] [] (s.takeCmd c.len)))
    ∧ (∀ (c : Cmd) (s : State) (cage : Fin 8), Served 0x41 false c s → exactLen 32 c.params.length = true → par8 c.params 0 = cage.val → (s.fe.cages[cage]).present = true → par8 c.params 1 ∈ [0, 1, 2, 0x11] → par8 c.params 2 + par8 c.params 3 ≤ 256 →
      exec (.moduleRead c) s = .next (if par8 c.params 1 = 0 ∧ (s.fe.cages[cage]).ready = true then
          reply 0x41 c 0 0 (slice (s.fe.cages[cage]).page0 (par8 c.params 2) (par8 c.params 3)) [] (s.takeCmd c.len)
        else reply 0x41 c 0 0 (toLE (par8 c.params 3) (Config.fresh s.fresh)) []
          { s.takeCmd c.len with fresh := s.fresh + 1 }))
    ∧ (∀ (c : Cmd) (s : State), Served 0x40 false c s → exactLen 24 c.params.length = true → par8 c.params 0 ≤ 3 → par8 c.params 1 < scopeSize (par8 c.params 0) →
      exec (.fhStats c) s = .next (reply 0x40 c 0 0
        (join8 (((scopeCtrs (par8 c.params 0)).map fun x => x.key (par8 c.params 1)).map fun k => (tget s.fe.ctrs k 0).toNat)) []
        (if bit (par8 c.params 2) 0 then (s.takeCmd c.len).setFe fun e =>
            { e with ctrs := e.ctrs.filter fun p =>
                !((scopeCtrs (par8 c.params 0)).map fun x => x.key (par8 c.params 1)).contains p.1 }
          else s.takeCmd c.len)))
    ∧ (∀ (c : Cmd) (s : State), Served 0x48 false c s → exactLen 8 c.params.length = true →
      exec (.slStats c) s = .next (reply 0x48 c 0 0
        (join8 ((slOrder.flatMap fun p => (List.range p.2).map fun i => (tget s.stitch.ctrs (p.1.key i) 0).toNat)
          ++ (List.finRange 4).map fun k => (s.cl k).sumDiscarded.toNat)) []
        (if bit (par8 c.params 0) 0 then
            { (s.takeCmd c.len).setStitch fun t => { t with ctrs := [] } with
              clusters := s.clusters.map fun k => { k with sumDiscarded := 0 } }
          else s.takeCmd c.len)))
    ∧ (∀ (c : Cmd) (s : State) (cells : List Nat), Served 0x27 false c s → exactLen 16 c.params.length = true → (List.range 64).filter (bit (par8 c.params 0)) = cells → cells.all (fun i => (s.cell? i).isSome) = true → outFits c (cells.flatMap fun i => yardBytes (match s.cell? i with | some x => x.yardMode | none => 0) (Config.fresh s.fresh) (tget s.yard i {})) →
      exec (.yardstickRead c) s = .next (replyRead 0x27 c
        (cells.flatMap fun i => yardBytes (match s.cell? i with | some x => x.yardMode | none => 0) (Config.fresh s.fresh)
          (tget s.yard i {}))
        (if par8 c.params 1 = 1 then
            { s.takeCmd c.len with
              fresh := s.fresh + 1
              yard := cells.foldl (fun t i => tmod t i {} fun y =>
                { y with taken := 0, dropped := 0, tb := 0, rows := Vector.replicate 4 {} }) s.yard }
          else { s.takeCmd c.len with fresh := s.fresh + 1 })))
    ∧ (∀ (c : Cmd) (s : State), Served 0x27 false c s → exactLen 16 c.params.length = true → ((List.range 64).filter (bit (par8 c.params 0))).all (fun i => (s.cell? i).isSome) = false →
      exec (.yardstickRead c) s = .next (reply 0x27 c 7 0 [] [] (s.takeCmd c.len)))

/-- When served with a record whose complement holds: the record as corrected by the field checks sets SPQ and SPC (both
start empty), the vectors of SPC and RSPQ, and the configuration report ring; what waits for SPC is posted; the answer
is OK, or OK_CLAMPED where fields were corrected. A record whose complement fails answers CFG_INTEGRITY (5) and
changes nothing. The layout of the record is the model's (log entry 8). (R360, R361, R366, R373, R376) -/
def Obligations.Mailbox_configuration_takes_effect : Prop :=
  (∀ (c : Cmd) (s : State) (p : Bytes) (rep : List Rep), Served 0x10 false c s → exactLen 128 c.params.length = true → cplAt c.params 0 64 = true → checkFields 0 mbxFields (slice c.params 0 64) = (p, rep) →
      exec (.mbxConfig c) s = .next (reply 0x10 c 0 0 [] rep
        ((s.takeCmd c.len).setMbx fun m => { m with
          spq := { base := par8 p 0, size := par8 p 1 / 16 }, spc := { base := par8 p 2, size := par8 p 3 / 16 }
          spcVec := par8 p 4, rspVec := par8 p 5, reportBase := par8 p 6, reportSize := par8 p 7 }).drainSpc))
    ∧ (∀ (c : Cmd) (s : State), Served 0x10 false c s → exactLen 128 c.params.length = true → cplAt c.params 0 64 = false →
      exec (.mbxConfig c) s = .next (reply 0x10 c 5 0 [] [] (s.takeCmd c.len)))

/-- With BAR0 served, for a ring that is latched: a producer count of CMDQ or SPQ that leaves no more units than the ring
holds is stored, and one that leaves more sets BAD_INDEX; a consumer count of RSPQ, EVQ or SPC up to the producer
count is stored and gives the ring room, and one beyond it sets BAD_INDEX. A ring with base 0 (neither latched nor
set) takes no count: BAD_INDEX. RESET zeroes both counts and the expected SEQ and ends the halt, after a general ring
is latched anew. A RING value above 4 is ignored. (R362, R425, R426, R361) -/
def Obligations.Doorbells_move_the_counts : Prop :=
  (∀ (ring : BitVec 4) (index : BitVec 32) (s : State), BarOk s → ring.toNat ≤ 1 → (s.mbx.ring ring.toNat).base ≠ 0 →
      (index - (s.mbx.ring ring.toNat).cons).toNat ≤ (s.mbx.ring ring.toNat).size →
      exec (.mbxDoorbell ring index) s
        = .next (s.setMbx fun m => m.setRing ring.toNat { s.mbx.ring ring.toNat with prod := index }))
    ∧ (∀ (ring : BitVec 4) (index : BitVec 32) (s : State), BarOk s → ring.toNat ≤ 1 → (s.mbx.ring ring.toNat).base ≠ 0 →
      (s.mbx.ring ring.toNat).size < (index - (s.mbx.ring ring.toNat).cons).toNat →
      exec (.mbxDoorbell ring index) s
        = .next (s.setMbx fun m => m.setRing ring.toNat { s.mbx.ring ring.toNat with badIndex := true }))
    ∧ (∀ (ring : BitVec 4) (index : BitVec 32) (s : State), BarOk s → 2 ≤ ring.toNat → ring.toNat ≤ 4 →
      (s.mbx.ring ring.toNat).base ≠ 0 →
      (index - (s.mbx.ring ring.toNat).cons).toNat ≤ ((s.mbx.ring ring.toNat).prod - (s.mbx.ring ring.toNat).cons).toNat →
      exec (.mbxDoorbell ring index) s
        = .next ((s.setMbx fun m => m.setRing ring.toNat { s.mbx.ring ring.toNat with cons := index }).ringRoom
            ring.toNat))
    ∧ (∀ (ring : BitVec 4) (index : BitVec 32) (s : State), BarOk s → 2 ≤ ring.toNat → ring.toNat ≤ 4 →
      (s.mbx.ring ring.toNat).base ≠ 0 →
      ((s.mbx.ring ring.toNat).prod - (s.mbx.ring ring.toNat).cons).toNat < (index - (s.mbx.ring ring.toNat).cons).toNat →
      exec (.mbxDoorbell ring index) s
        = .next (s.setMbx fun m => m.setRing ring.toNat { s.mbx.ring ring.toNat with badIndex := true }))
    ∧ (∀ (ring : BitVec 4) (index : BitVec 32) (s : State), BarOk s → ring.toNat ≤ 4 → (s.mbx.ring ring.toNat).base = 0 →
      s.mbx.baseReg ring.toNat = 0 →
      exec (.mbxDoorbell ring index) s
        = .next (s.setMbx fun m => m.setRing ring.toNat { s.mbx.ring ring.toNat with badIndex := true }))
    ∧ (∀ (ring : BitVec 4) (index : BitVec 32) (s : State), BarOk s → 4 < ring.toNat →
      exec (.mbxDoorbell ring index) s = .next s ∧ exec (.mbxDoorbellReset ring index) s = .next s)
    ∧ (∀ (ring : BitVec 4) (index : BitVec 32) (s : State), BarOk s → ring.toNat ≤ 4 →
      exec (.mbxDoorbellReset ring index) s
        = .next (((s.latch ring.toNat).setMbx fun m => m.setRing ring.toNat { m.ring ring.toNat with
            prod := 0, cons := 0, seq := 0, halted := false }).ringRoom ring.toNat))

/-- With BAR0 served, for RING 0, 2 or 3 whose ring is not latched and whose base register is not 0: a doorbell acts as it
does on the state in which the ring is latched, and there the ring has that base and 2 to the power LOG2_SIZE bytes in
units of 16, and the index block base is MBX_IDX_BASE. (R425, R361, R360) -/
def Obligations.First_doorbell_latches_a_general_ring : Prop :=
  ∀ (ring : BitVec 4) (index : BitVec 32) (s : State), BarOk s → isGeneral ring.toNat = true →
    (s.mbx.ring ring.toNat).base = 0 → s.mbx.baseReg ring.toNat ≠ 0 →
    exec (.mbxDoorbell ring index) s = exec (.mbxDoorbell ring index) (s.latch ring.toNat)
      ∧ ((s.latch ring.toNat).mbx.ring ring.toNat).base = s.mbx.baseReg ring.toNat
      ∧ ((s.latch ring.toNat).mbx.ring ring.toNat).size = 2 ^ s.mbx.log2Size / 16
      ∧ (s.latch ring.toNat).mbx.idxLatched = s.mbx.idxBase.toNat

/-- A PAD record that lies whole in CMDQ or SPQ is consumed. A CMDQ record that passes check 1 with an unknown TYPE is
consumed and answered BAD_COMMAND (2); an SPQ one is consumed and answered by a SLOT_ERROR of cause RECORD_INVALID
(5). A record that fails check 1 halts its ring and MBX_RING_HALT carries the SEQ expected. EVQ_OVERFLOW writes one
event with the count of events dropped when EVQ has room, and owes none after it. (R361, R364, R365, R384) -/
def Obligations.Records_without_a_command_are_skipped_or_halt : Prop :=
  (∀ (len : BitVec 16) (s : State), s.canRead s.mbx.cmdq len.toNat = true →
      exec (.padRecord false len) s = .next (s.takeCmd len))
    ∧ (∀ (len : BitVec 16) (s : State), s.canRead s.mbx.spq len.toNat = true →
      exec (.padRecord true len) s = .next (s.takeSpq len))
    ∧ (∀ (typ : Byte) (tag len : BitVec 16) (s : State), s.canRead s.mbx.cmdq 1 = true → s.canRead s.mbx.cmdq len.toNat = true →
      exec (.unknownTypeRecord false true typ tag len) s
        = .next ((s.takeCmd len).respond typ.toNat tag.toNat 2 0 s.mbx.reportCount.toNat 0 0 []))
    ∧ (∀ (typ : Byte) (tag len : BitVec 16) (s : State), s.canRead s.mbx.spq 1 = true → s.canRead s.mbx.spq len.toNat = true →
      exec (.unknownTypeRecord true true typ tag len) s = .next ((s.takeSpq len).slotError tag.toNat 0 0 5))
    ∧ (∀ (typ : Byte) (tag len : BitVec 16) (s : State), s.canRead s.mbx.cmdq 1 = true →
      exec (.unknownTypeRecord false false typ tag len) s
        = .next ((s.setMbx fun m => { m with cmdq := { s.mbx.cmdq with halted := true } }).event 0x14 0
            (toLE 4 0 ++ toLE 4 s.mbx.cmdq.seq.toNat)))
    ∧ (∀ (typ : Byte) (tag len : BitVec 16) (s : State), s.canRead s.mbx.spq 1 = true →
      exec (.unknownTypeRecord true false typ tag len) s
        = .next ((s.setMbx fun m => { m with spq := { s.mbx.spq with halted := true } }).event 0x14 1
            (toLE 4 1 ++ toLE 4 s.mbx.spq.seq.toNat)))
    ∧ (∀ s t : State, s.mbx.evtOwed ≠ 0 → s.tryEvent 0x15 0 (toLE 8 s.mbx.evtOwed) = some t →
      exec .evqOverflow s = .next (t.setMbx fun m => { m with evtOwed := 0 }))

/-- Where BAR0 is served: a good 32-bit REGISTER_WRITE acts by its register's access code; a misaligned one sets
REG_ACCESS; one outside every group is an Unsupported Request and sets UNSUPPORTED_REQ; SEC_LOCK_SET sets LOCK and
nothing else; BAR_ACCESS_SIZE sets REG_ACCESS, and a read returns all ones; UNSUPPORTED_REQ answers so and sets its
bit; unmasking a vector sends its pending message once. Where BAR0 is not served each is an Unsupported Request and
changes no register. Where IDE is required and no stream is Secure, each is an Unsupported Request and sets
IDE_VIOLATION. (R420, R343, R344, R345, R346, R424, R4) -/
def Obligations.Host_requests_to_registers : Prop :=
  (∀ (off : BitVec 21) (val : BitVec 64) (s : State), BarOk s → off.toNat % 4 = 0 → inGroup off.toNat = true →
      exec (.registerWrite off val false) s = .next (write32 off.toNat (val.setWidth 32) s))
    ∧ (∀ (off : BitVec 21) (val : BitVec 64) (s : State), BarOk s → off.toNat % 8 = 0 → inGroup off.toNat = true →
      off.toNat ≠ 0x2028 → exec (.registerWrite off val true) s
        = .next (write32 (off.toNat + 4) (BitVec.ofNat 32 (val.toNat / 2 ^ 32)) (write32 off.toNat (val.setWidth 32) s)))
    ∧ (∀ (val : BitVec 64) (s : State), BarOk s → exec (.registerWrite 0x2028 val true) s = .next (doorbellWrite val s))
    ∧ (∀ (off : BitVec 21) (val : BitVec 64) (w : Bool) (s : State), BarOk s →
      off.toNat % (if w then 8 else 4) ≠ 0 → exec (.registerWrite off val w) s = .next (s.hlError 3))
    ∧ (∀ (off : BitVec 21) (val : BitVec 64) (w : Bool) (s : State), BarOk s →
      off.toNat % (if w then 8 else 4) = 0 → inGroup off.toNat = false →
      exec (.registerWrite off val w) s = .next ((s.emit (.unsupported false)).hlError 4))
    ∧ (∀ s : State, BarOk s → exec .secLockSet s = .next { s with host := { s.host with lock := true } })
    ∧ (∀ (len : Nat) (s : State), BarOk s → exec (.barAccessSize true len) s = .next ((s.hlError 3).emit (.readOnes len))
      ∧ exec (.barAccessSize false len) s = .next (s.hlError 3))
    ∧ (∀ (read : Bool) (s : State), BarOk s →
      exec (.unsupportedReq read) s = .next ((s.emit (.unsupported read)).hlError 4))
    ∧ (∀ (v : Fin 64) (s : State), BarOk s → exec (.msixVectorUnmask v) s
        = .next { s with
            host := { s.host with msix := s.host.msix.set v { masked := false, pending := false } }
            out := if (s.host.msix[v]).pending then .msix v.val :: s.out else s.out })
    ∧ (∀ s t : State, s.barServed = false ∧ t = s.emit (.unsupported false)
        ∨ s.barServed = true ∧ s.host.ideRequired = true ∧ s.host.secure0 = false ∧ s.host.secure1 = false
          ∧ t = (s.emit (.unsupported false)).hlError 7 →
      exec .secLockSet s = .next t
      ∧ (∀ v, exec (.msixVectorUnmask v) s = .next t)
      ∧ (∀ n, exec (.barAccessSize false n) s = .next t) ∧ exec (.unsupportedReq false) s = .next t
      ∧ (∀ r i, exec (.mbxDoorbell r i) s = .next t ∧ exec (.mbxDoorbellReset r i) s = .next t)
      ∧ (∀ v, exec (.slotMark v) s = .next t)
      ∧ (∀ n c, exec (.dmaDbCount n c) s = .next t ∧ exec (.dmaDbCancel n) s = .next t)
      ∧ ∀ off val w, off.toNat ≠ 8 → exec (.registerWrite off val w) s = .next t)

/-- A write of HL_ERR_STATUS or INT_STATUS clears exactly the bits written 1; a write of SEC_LOCK with LOCK 1 sets LOCK,
with LOCK 0 it changes nothing; HL_CONFIG takes IDE_REQUIRED from bit 0 while LOCK is clear and keeps it while LOCK is
set; MBX_RING_SIZE stores LOG2_SIZE clamped to 16 to 24. (R6, R424, R425, 19_registers.md) -/
def Obligations.Write_one_to_clear_registers : Prop :=
  ∀ (v : BitVec 32) (s : State),
    (write32 0x1000 v s).host.err = s.host.err &&& ~~~(v.setWidth 9)
    ∧ (write32 0x1010 v s).host.intStatus = s.host.intStatus &&& ~~~(v.setWidth 16)
    ∧ (write32 0x100C v s).host.lock = (s.host.lock || v.getLsbD 0)
    ∧ (write32 0x1004 v s).host.ideRequired = (if s.host.lock then s.host.ideRequired else v.getLsbD 0)
    ∧ 16 ≤ (write32 0x2020 v s).mbx.log2Size ∧ (write32 0x2020 v s).mbx.log2Size ≤ 24
    ∧ (16 ≤ v.toNat % 32 → v.toNat % 32 ≤ 24 → (write32 0x2020 v s).mbx.log2Size = v.toNat % 32)

/-- When served with an intact record: DMA_CONFIG gives a host channel without a descriptor in progress the corrected
values and fresh counts; a channel with one in progress answers BAD_STATE (9); a record of another channel is dropped
and reported. WINDOW_CREATE puts a host window with the corrected base, its length cut at the memory's end, into the
first free entry and answers its number; one that a protected extent overlaps, or over Binder memory, answers
BAD_STATE; with no free entry NO_SPACE (8). WINDOW_REMOVE clears the entry, or marks it where a descriptor uses it; a
number without a host window answers NOT_FOUND (7). A broken complement answers CFG_INTEGRITY (5). (R344, R348, R353,
R371, R373, R400) -/
def Obligations.Dma_channels_and_windows_are_configured : Prop :=
  (∀ (c : Cmd) (s : State) (ch : Fin 16) (r : Bytes) (rep : List Rep), Served 0x17 false c s → exactLen 176 c.params.length = true → cplAt c.params 0 88 = true → par8 c.params 0 = ch.val → 8 ≤ ch.val → (s.chan ch).run = none → checkFields 0 (dmaFields ch.val) (slice c.params 0 88) = (r, rep) →
      exec (.dmaConfig c) s = .next (reply 0x17 c 0 0 [] rep
        ((s.takeCmd c.len).setChan ch fun _ =>
          { configured := true, ringBase := par8 r 1, size := par8 r 2, cplBase := par8 r 3, vector := some (par8 r 4),
            lc := par8 r 5 == 1, pasid := BitVec.ofNat 20 (par8 r 6), pasidEn := par8 r 7 == 1, atsEn := par8 r 8 == 1,
            priEn := par8 r 9 == 1, pageTimeout := par8 r 10 })))
    ∧ (∀ (c : Cmd) (s : State) (ch : Fin 16), Served 0x17 false c s → exactLen 176 c.params.length = true → cplAt c.params 0 88 = true → par8 c.params 0 = ch.val → 8 ≤ ch.val → (s.chan ch).run ≠ none →
      exec (.dmaConfig c) s = .next (reply 0x17 c 9 0 [] [] (s.takeCmd c.len)))
    ∧ (∀ (c : Cmd) (s : State), Served 0x17 false c s → exactLen 176 c.params.length = true → cplAt c.params 0 88 = true → ¬ (8 ≤ par8 c.params 0 ∧ par8 c.params 0 < 16) →
      exec (.dmaConfig c) s = .next (reply 0x17 c 0 0 []
        [{ kind := 4, field := 1, written := low8 (par8 c.params 0), applied := 0 }] (s.takeCmd c.len)))
    ∧ (∀ (c : Cmd) (s : State) (m : WinMem) (n : Fin 64) (len : Nat) (r : Bytes) (rep : List Rep), Served 0x18 false c s → exactLen 64 c.params.length = true → cplAt c.params 0 32 = true → winMem (if par8 c.params 0 ≤ 6 then par8 c.params 0 else 0) = m → s.winSize m ≠ 0 → checkFields 0 (winFields (s.winSize m)) (slice c.params 0 32) = (r, rep) → clampNat 1 (s.winSize m - par8 r 1) (par8 r 2) = len → s.windowFree m ⟨par8 r 1, len⟩ = true → (List.finRange 64).find? (fun k : Fin 64 => (s.windows[k]).isNone) = some n →
      exec (.windowCreate c) s = .next (reply 0x18 c 0 0 (join8 [n.val])
        (rep ++ if len = par8 r 2 then [] else [{ kind := 0, field := 3, written := par8 r 2, applied := len }])
        { s.takeCmd c.len with
          windows := s.windows.set n (some
            { mem := m, base := par8 r 1, len := len, rd := bit (par8 r 3) 0, wr := bit (par8 r 3) 1, host := true }) }))
    ∧ (∀ (c : Cmd) (s : State) (m : WinMem) (r : Bytes) (rep : List Rep), Served 0x18 false c s → exactLen 64 c.params.length = true → cplAt c.params 0 32 = true → winMem (if par8 c.params 0 ≤ 6 then par8 c.params 0 else 0) = m → s.winSize m ≠ 0 → checkFields 0 (winFields (s.winSize m)) (slice c.params 0 32) = (r, rep) → s.windowFree m ⟨par8 r 1, clampNat 1 (s.winSize m - par8 r 1) (par8 r 2)⟩ = false →
      exec (.windowCreate c) s = .next (reply 0x18 c 9 0 [] [] (s.takeCmd c.len)))
    ∧ (∀ (c : Cmd) (s : State) (n : Fin 64) (w : DevWindow), Served 0x19 false c s → exactLen 8 c.params.length = true → par8 c.params 0 = n.val → s.windows[n] = some w → w.host = true → w.removing = false →
      exec (.windowRemove c) s = .next (reply 0x19 c 0 0 [] []
        { s.takeCmd c.len with
          windows := s.windows.set n
            (if s.windowUsed n.val then some { w with removing := true } else none) }))
    ∧ (∀ (c : Cmd) (s : State) (n : Fin 64), Served 0x19 false c s → exactLen 8 c.params.length = true → par8 c.params 0 = n.val → s.windows[n] = none →
      exec (.windowRemove c) s = .next (reply 0x19 c 7 0 [] [] (s.takeCmd c.len)))
    ∧ (∀ (c : Cmd) (s : State), Served 0x19 false c s → exactLen 8 c.params.length = true → 64 ≤ par8 c.params 0 →
      exec (.windowRemove c) s = .next (reply 0x19 c 7 0 [] [] (s.takeCmd c.len)))
    ∧ (∀ (c : Cmd) (s : State), Served 0x17 false c s → exactLen 176 c.params.length = true → cplAt c.params 0 88 = false →
      exec (.dmaConfig c) s = .next (reply 0x17 c 5 0 [] [] (s.takeCmd c.len)))
    ∧ (∀ (c : Cmd) (s : State), Served 0x18 false c s → exactLen 64 c.params.length = true → cplAt c.params 0 32 = false →
      exec (.windowCreate c) s = .next (reply 0x18 c 5 0 [] [] (s.takeCmd c.len)))

/-- With BAR0 served: a count at most the ring size beyond the completed count, for a configured channel, is stored as the
producer count and changes nothing else; a larger one, or one for a channel not configured, is ignored and sets
RING_OVERRUN. CANCEL for a configured channel without a descriptor in progress marks those announced and not yet read
to end DMA_CANCELLED; with one in progress, it also ends that one DMA_CANCELLED (0x9A) with the lines delivered; for a
channel not configured it sets RING_OVERRUN. (R348, R358, R428, R346) -/
def Obligations.Dma_doorbells : Prop :=
  (∀ (n : Fin 8) (count : BitVec 16) (s : State), BarOk s → (s.chan (dbChan n)).configured = true →
      (count - (s.chan (dbChan n)).completed).toNat ≤ (s.chan (dbChan n)).size →
      exec (.dmaDbCount n count) s = .next (s.setChan (dbChan n) fun c => { c with prod := count }))
    ∧ (∀ (n : Fin 8) (count : BitVec 16) (s : State), BarOk s → ((s.chan (dbChan n)).configured = false ∨
      (s.chan (dbChan n)).size < (count - (s.chan (dbChan n)).completed).toNat) →
      exec (.dmaDbCount n count) s = .next (s.hlError 8))
    ∧ (∀ (n : Fin 8) (s : State), BarOk s → (s.chan (dbChan n)).configured = true → (s.chan (dbChan n)).run = none →
      exec (.dmaDbCancel n) s = .next (s.setChan (dbChan n) fun c =>
        { c with cancelTo := if c.next = c.prod then none else some c.prod }))
    ∧ (∀ (n : Fin 8) (r : DmaRun) (s : State), BarOk s → (s.chan (dbChan n)).configured = true →
      (s.chan (dbChan n)).run = some r →
      exec (.dmaDbCancel n) s = .next ((dmaEnd s (dbChan n) r.desc 0x9A r.parkedOnce
          (if r.readBack then (DDesc.of r.desc).dstCount else (DDesc.of r.desc).delivered r.hostLine)).setChan (dbChan n)
        fun c => { c with cancelTo := if c.next = c.prod then none else some c.prod }))
    ∧ (∀ (n : Fin 8) (s : State), BarOk s → (s.chan (dbChan n)).configured = false →
      exec (.dmaDbCancel n) s = .next (s.hlError 8))

/-- For a channel that may take a descriptor: one that passes the checks of Table 15-8 moves every line and waits for its
read-back; one that fails a check ends with that check's status and no line; one announced before a CANCEL ends
DMA_CANCELLED (0x9A). A read-back that returns ends the descriptor with status 0 and all destination lines; one that
fails with DMA_HOST_ABORT (0x98) and one line less. Ending writes for a host channel the 16-byte entry at the
completion ring's next place, then, with IRQ, sets DMA_DONE and sends the message, and the channel is free for the
next SEQ. (R348, R352, R353, R354, R355, R357, R428) -/
def Obligations.Dma_descriptors_run_to_completion : Prop :=
  (∀ (ch : Fin 16) (desc host : Bytes) (w : DevWindow) (s : State), s.chanReady ch = true → (s.chan ch).cancelTo = none →
      (DDesc.of desc).check s ch = none → (DDesc.of desc).win? s ch = some w →
      exec (.dmaDescriptor ch desc host .all) s
        = .next (((DDesc.of desc).move w host 0 (DDesc.of desc).host.2.2 s).setChan ch fun c =>
            { c with run := some { desc := desc, hostLine := (DDesc.of desc).host.2.2, readBack := true } }))
    ∧ (∀ (ch : Fin 16) (desc host : Bytes) (ev : DmaEvent) (code : Nat) (s : State), s.chanReady ch = true →
      (s.chan ch).cancelTo = none → (DDesc.of desc).check s ch = some code →
      exec (.dmaDescriptor ch desc host ev) s = .next (dmaEnd s ch desc code false 0))
    ∧ (∀ (ch : Fin 16) (desc host : Bytes) (ev : DmaEvent) (s : State), s.chanReady ch = true → (s.chan ch).cancelTo ≠ none →
      exec (.dmaDescriptor ch desc host ev) s = .next (dmaEnd s ch desc 0x9A false 0))
    ∧ (∀ (ch : Fin 16) (r : DmaRun) (s : State), (s.chan ch).run = some r → r.readBack = true → s.linkOk = true →
      exec (.dmaReadBack ch true) s = .next (dmaEnd s ch r.desc 0 r.parkedOnce (DDesc.of r.desc).dstCount)
      ∧ exec (.dmaReadBack ch false) s = .next (dmaEnd s ch r.desc 0x98 r.parkedOnce ((DDesc.of r.desc).dstCount - 1)))
    ∧ (∀ (ch : Fin 16) (desc : Bytes) (status lines : Nat) (parked : Bool) (s : State),
      ((dmaEnd s ch desc status parked lines).chan ch).run = none
      ∧ ((dmaEnd s ch desc status parked lines).chan ch).next = (s.chan ch).next + 1
      ∧ ((dmaEnd s ch desc status parked lines).chan ch).completed = (s.chan ch).completed + 1
      ∧ (8 ≤ ch.val → (dmaEnd s ch desc status parked lines).mem.read
            (hostAt + ((s.chan ch).cplBase + 16 * ((s.chan ch).completed.toNat % max 1 (s.chan ch).size))) 16
          = cplEntry (s.chan ch) (DDesc.of desc) status parked lines)
      ∧ (ch.val < 8 → (dmaEnd s ch desc status parked lines).mem = s.mem))

/-- For a descriptor in progress: a reply that leaves no page of the line without a translation issues the line; one that
denies access parks the channel, where PRI is enabled, with one page request group for those pages of the line, and
else ends DMA_PAGE (0x96); a page response of success restarts the line, any other ends DMA_PAGE; no response within
PAGE_TIMEOUT ends DMA_PAGE_TIMEOUT (0x97) at that time. A completion timeout sets COMPLETION_TIMEOUT, a poisoned
completion POISONED_RX; the timeout, and the second poisoned completion, end the descriptor DMA_HOST_ABORT (0x98). An
ATS invalidation completes, a malformed one sets ATS_ERROR. (R346, R355, R356, R357, R358) -/
def Obligations.Dma_translation_and_errors : Prop :=
  (∀ (ch : Fin 16) (r : DmaRun) (lacks : List Nat) (host : Bytes) (ev : DmaEvent) (s : State), (s.chan ch).run = some r →
      r.missed = true → s.linkOk = true → (DDesc.of r.desc).lacking r.hostLine lacks = [] →
      exec (.translationCompletion ch lacks host ev) s = .next (dmaGo s ch { r with missed := false } host ev))
    ∧ (∀ (ch : Fin 16) (r : DmaRun) (lacks : List Nat) (host : Bytes) (ev : DmaEvent) (pages : List Nat) (s : State),
      (s.chan ch).run = some r → r.missed = true → s.linkOk = true → (s.chan ch).priEn = true →
      pages = ((DDesc.of r.desc).lacking r.hostLine lacks).take (256 - s.pagesOut) →
      (DDesc.of r.desc).lacking r.hostLine lacks ≠ [] →
      exec (.translationCompletion ch lacks host ev) s
        = .next ((s.setChan ch fun c =>
            { c with run := some { r with missed := false, parkedOnce := true, parked := some pages, parkedAt := s.ticks.toNat } }).emit
            (.pageRequest ch.val (s.chan ch).tagged pages)))
    ∧ (∀ (ch : Fin 16) (r : DmaRun) (lacks : List Nat) (host : Bytes) (ev : DmaEvent) (s : State), (s.chan ch).run = some r →
      r.missed = true → s.linkOk = true → (s.chan ch).priEn = false → (DDesc.of r.desc).lacking r.hostLine lacks ≠ [] →
      exec (.translationCompletion ch lacks host ev) s
        = .next (dmaEnd s ch r.desc 0x96 r.parkedOnce ((DDesc.of r.desc).delivered r.hostLine)))
    ∧ (∀ (ch : Fin 16) (r : DmaRun) (host : Bytes) (ev : DmaEvent) (pages : List Nat) (s : State),
      (s.chan ch).run = some r → r.parked = some pages → s.linkOk = true →
      exec (.pageResponse ch true host ev) s = .next (dmaGo s ch { r with parked := none } host ev)
      ∧ exec (.pageResponse ch false host ev) s
        = .next (dmaEnd s ch r.desc 0x96 r.parkedOnce ((DDesc.of r.desc).delivered r.hostLine)))
    ∧ (∀ (ch : Fin 16) (r : DmaRun) (pages : List Nat) (s : State), (s.chan ch).run = some r → r.parked = some pages →
      exec (.pageTimeout ch) s
        = .next (dmaEnd (s.advanceTo (r.parkedAt + usTicks (1000 * (s.chan ch).pageTimeout))) ch r.desc 0x97 r.parkedOnce
            ((DDesc.of r.desc).delivered r.hostLine)))
    ∧ (∀ (ch : Fin 16) (s : State), exec (.cplTimeout (some ch)) s = .next (hostAbort ch (s.hlError 6))
      ∧ exec (.cplTimeout none) s = .next (s.hlError 6)
      ∧ exec (.poisonedRx (some ch) true) s = .next (hostAbort ch (s.hlError 5))
      ∧ exec (.poisonedRx (some ch) false) s = .next (s.hlError 5) ∧ exec (.poisonedRx none true) s = .next (s.hlError 5)
      ∧ exec (.poisonedRx none false) s = .next (s.hlError 5))
    ∧ (∀ (ch : Fin 16) (r : DmaRun) (s : State), (s.chan ch).run = some r → r.parked = none →
      hostAbort ch s = dmaEnd s ch r.desc 0x98 r.parkedOnce
        (if r.readBack then (DDesc.of r.desc).dstCount - 1 else (DDesc.of r.desc).delivered r.hostLine))
    ∧ (∀ s : State, exec (.atsInvalidation false) s = .next (s.emit .invalCompletion)
      ∧ exec (.atsInvalidation true) s = .next (s.hlError 2))

/-- When served with a record whose complement holds, and whose DDR5 areas keep clear of host windows: SCHED_CONFIG,
HARQ_CONFIG and COLOPHON_STORE (with an empty store) put the corrected record in force, HARQ_CONFIG with no more
buffers than fit in DDR5, and nothing else changes but that SCHED_CONFIG makes the spine digest stale; POOL_CONFIG
puts its record in force after the checks between fields, takes every link down first where POOL_ID, topology,
dimensions, size or chip change, and answers the recomputed spine digest. An area that a host window overlaps, and a
store that is not empty, answer BAD_STATE (9). The answer is OK, or OK_CLAMPED where fields were corrected. (R205,
R285, R319, R373, R374, R378, R400) -/
def Obligations.Configuration_records_take_effect : Prop :=
  (∀ (c : Cmd) (s : State) (r : Bytes) (rep : List Rep), Served 0x11 false c s → exactLen 256 c.params.length = true → cplAt c.params 0 128 = true → checkFields 0 (schedFields s.ddrBytes) (slice c.params 0 128) = (r, rep) → (schedRuns r).all s.isProtected = true →
      exec (.schedConfig c) s = .next (reply 0x11 c 0 0 [] rep
        { s.takeCmd c.len with
          cfg := { s.cfg with sched := r }
          stitch := { s.stitch with spineStale := true } }))
    ∧ (∀ (c : Cmd) (s : State) (r : Bytes) (rep : List Rep), Served 0x11 false c s → exactLen 256 c.params.length = true → cplAt c.params 0 128 = true → checkFields 0 (schedFields s.ddrBytes) (slice c.params 0 128) = (r, rep) → (schedRuns r).all s.isProtected = false →
      exec (.schedConfig c) s = .next (reply 0x11 c 9 0 [] [] (s.takeCmd c.len)))
    ∧ (∀ (c : Cmd) (s : State) (r r1 : Bytes) (rep1 rep2 : List Rep), Served 0x16 false c s → exactLen 64 c.params.length = true → cplAt c.params 0 32 = true → checkFields 0 (harqFields s.ddrBytes) (slice c.params 0 32) = (r1, rep1) → crossSet 0 3 16 8 (min (par8 r1 2) (max 1 ((s.ddrBytes - par8 r1 0) / par8 r1 1))) r1 = (r, rep2) → (HarqCfg.runs ⟨par8 r 0, par8 r 1, par8 r 2, par8 r 3⟩).all s.isProtected = true →
      exec (.harqConfig c) s = .next (reply 0x16 c 0 0 [] (rep1 ++ rep2)
        { s.takeCmd c.len with coding := { s.coding with harq := some ⟨par8 r 0, par8 r 1, par8 r 2, par8 r 3⟩ } }))
    ∧ (∀ (c : Cmd) (s : State) (r r1 : Bytes) (rep1 rep2 : List Rep), Served 0x15 false c s → exactLen 128 c.params.length = true → cplAt c.params 0 64 = true → poolChecked (slice c.params 0 64) = (r1, rep1) → poolCross r1 = (r, rep2) →
      exec (.poolConfig c) s = .next (reply 0x15 c 0 0
        (({ s.takeCmd c.len with cfg := { s.cfg with pool := r } } : State).spineNow).stitch.spine (rep1 ++ rep2)
        (((if slice r 0 8 == slice s.cfg.pool 0 8 && slice r 0x20 5 == slice s.cfg.pool 0x20 5 then s.takeCmd c.len
            else (List.finRange 4).foldl State.linkDown (s.takeCmd c.len)).setCfg
            fun g => { g with pool := r }).spineNow.relink)))
    ∧ (∀ (c : Cmd) (s : State) (r : Bytes) (rep : List Rep), Served 0x38 false c s → exactLen 32 c.params.length = true → cplAt c.params 0 16 = true → s.colo.stored = [] → checkFields 0 (storeFields s.ddrBytes) (slice c.params 0 16) = (r, rep) → s.isProtected ⟨par8 r 0, par8 r 1 * 36864⟩ = true →
      exec (.colophonStore c) s = .next (reply 0x38 c 0 0 [] rep
        { s.takeCmd c.len with colo := { s.colo with store := some (par8 r 0, par8 r 1) } }))
    ∧ (∀ (c : Cmd) (s : State), Served 0x38 false c s → exactLen 32 c.params.length = true → cplAt c.params 0 16 = true → s.colo.stored ≠ [] →
      exec (.colophonStore c) s = .next (reply 0x38 c 9 0 [] [] (s.takeCmd c.len)))
    ∧ (∀ (c : Cmd) (s : State), Served 0x11 false c s → exactLen 256 c.params.length = true → cplAt c.params 0 128 = false →
      exec (.schedConfig c) s = .next (reply 0x11 c 5 0 [] [] (s.takeCmd c.len)))
    ∧ (∀ (c : Cmd) (s : State), Served 0x16 false c s → exactLen 64 c.params.length = true → cplAt c.params 0 32 = false →
      exec (.harqConfig c) s = .next (reply 0x16 c 5 0 [] [] (s.takeCmd c.len)))

/-- When served with records whose complements hold: SLOT_CONFIG takes the records in order, each corrected by the checks
of single fields and between fields, applies the image at its commit point, raises CELL_UNPLACED with reason 1 for
each cell asked to be placed here that the checks do not let be placed, and with reason 0 for each placed on a cluster
without engines, makes the spine digest stale, and answers the counts of records applied and of cells lost; in STANDBY
a record with ACTIVE 1 answers BAD_STATE (9). FH_CONFIG applies both quad records and answers the state of each lane;
SL_CONFIG applies the four link records and the links train again where they may. A broken complement answers
CFG_INTEGRITY (5) and changes nothing. (R287, R315, R373, R374, R375, R377, R407) -/
def Obligations.Cells_ports_and_links_are_configured : Prop :=
  (∀ (c : Cmd) (s : State) (a : SlotAcc) (lost bare : List Nat), ServedLong false c s → slotLen c.params.length = true → (chunks 512 c.params).all (fun x => cplAt x 0 256) = true → ¬ (s.power.state = .standby ∧ (chunks 512 c.params).any (fun x => fld x 4 1 == 1) = true) → ((chunks 512 c.params).zip (List.range (chunks 512 c.params).length)).foldl
        (fun a p => takeCell (s.takeCmd c.len) a p.2 (p.1.take 256))
        ({ img := s.cfg.poolCells, rep := [], applied := 0, asked := [] } : SlotAcc) = a → (a.asked.filter fun k => match tget? a.img k with | some x => !(asCell x).active | none => true) = lost → (a.asked.filter fun k => match tget? a.img k with
        | some x => (asCell x).active && enginesFor (s.takeCmd c.len) x == 0 | none => false) = bare →
      exec (.slotConfig c) s = .next (reply 0x12 c 0 0
        (join8 [a.applied, lost.length]) a.rep
        (bare.foldl (fun s k => s.event 0x05 k (toLE 4 k ++ toLE 4 0))
          (lost.foldl (fun s k => s.event 0x05 k (toLE 4 k ++ toLE 4 1)) (applyCells (s.takeCmd c.len) a.img).spineChanged))))
    ∧ (∀ (c : Cmd) (s : State), ServedLong false c s → slotLen c.params.length = true → (chunks 512 c.params).all (fun x => cplAt x 0 256) = true → s.power.state = .standby → (chunks 512 c.params).any (fun x => fld x 4 1 == 1) = true →
      exec (.slotConfig c) s = .next (reply 0x12 c 9 0 [] [] (s.takeCmd c.len)))
    ∧ (∀ (c : Cmd) (s : State), ServedLong false c s → slotLen c.params.length = true → (chunks 512 c.params).all (fun x => cplAt x 0 256) = false →
      exec (.slotConfig c) s = .next (reply 0x12 c 5 0 [] [] (s.takeCmd c.len)))
    ∧ (∀ (c : Cmd) (s : State) (a b : Bytes) (ra rb : List Rep) (u : State), Served 0x13 false c s → exactLen 1184 c.params.length = true → cplAt c.params 0 296 = true → cplAt c.params 592 296 = true → checkFields 0 quadFields (slice c.params 0 296) = (a, ra) → checkFields 1 quadFields (slice c.params 592 296) = (b, rb) → applyQuad (applyQuad (s.takeCmd c.len) 0 a) 1 b = u →
      exec (.fhConfig c) s = .next (reply 0x13 c 0 0
        (join8 ((List.range 8).flatMap fun p => [(u.port p).up.toNat, (u.port p).rate])) (ra ++ rb) u))
    ∧ (∀ (c : Cmd) (s : State), Served 0x13 false c s → exactLen 1184 c.params.length = true → cplAt c.params 0 296 = false ∨ cplAt c.params 592 296 = false →
      exec (.fhConfig c) s = .next (reply 0x13 c 5 0 [] [] (s.takeCmd c.len)))
    ∧ (∀ (c : Cmd) (s : State) (rs : List (Fin 4 × Bytes × List Rep)), Served 0x14 false c s → exactLen 192 c.params.length = true → (List.range 4).all (fun l => cplAt c.params (48 * l) 24) = true → ((List.finRange 4).map fun (l : Fin 4) => (l, checkFields l.val slFields (slice c.params (48 * l.val) 24))) = rs →
      exec (.slConfig c) s = .next (reply 0x14 c 0 0 []
        (rs.flatMap fun p => p.2.2) (rs.foldl (fun s p => applyLink s p.1 p.2.1) (s.takeCmd c.len)).relink))
    ∧ (∀ (c : Cmd) (s : State), Served 0x14 false c s → exactLen 192 c.params.length = true → (List.range 4).all (fun l => cplAt c.params (48 * l) 24) = false →
      exec (.slConfig c) s = .next (reply 0x14 c 5 0 [] [] (s.takeCmd c.len)))

/-- When served: a container that opens and whose image passes its checks is put in the slot of its MODEL_ID, or in the
first free one, and the answer names slot, MODEL_ID and IMAGE_DIGEST; one that does not open answers the status of the
opening, one whose image fails MODEL_REJECTED (0x31) with the reason. MODEL_UNLOAD frees the slot of a model that no
active cell record binds; a bound one answers BAD_STATE (9), an unknown one NOT_FOUND (7). LDPC_TABLE_LOAD stores
table 1 to 7 and answers its digest; PRECODER_LOAD stores matrices in a cell's table from the first index on. Another
table number, or a range of indices above 255, or an unknown cell answers NOT_FOUND. (R163, R164, R191, R201, R371,
R397) -/
def Obligations.Models_and_tables_are_loaded : Prop :=
  (∀ (c : Cmd) (s : State) (b : Bytes) (slot : Nat), ServedLong false c s → (fun _ => true) c.params.length = true → openContainer (s.takeCmd c.len) c.params = .ok b → loadReason (s.takeCmd c.len) b = none → (match s.modelSlotOf (fld b 8 8) with | some i => i | none => ((List.range 16).find? fun i => (s.model? i).isNone).getD 0) = slot →
      exec (.modelLoad c) s = .next (reply 0x20 c 0 0 (join8 [slot, fld b 8 8] ++ slice b 0x40 32) [] (putImage (s.takeCmd c.len) slot b)))
    ∧ (∀ (c : Cmd) (s : State) (b : Bytes) (r : Nat), ServedLong false c s → (fun _ => true) c.params.length = true → openContainer (s.takeCmd c.len) c.params = .ok b → loadReason (s.takeCmd c.len) b = some r →
      exec (.modelLoad c) s = .next (reply 0x20 c 0x31 r [] [] (s.takeCmd c.len)))
    ∧ (∀ (c : Cmd) (s : State) (st d : Nat), ServedLong false c s → (fun _ => true) c.params.length = true → openContainer (s.takeCmd c.len) c.params = .error (st, d) →
      exec (.modelLoad c) s = .next (reply 0x20 c st d [] [] (s.takeCmd c.len)))
    ∧ (∀ (c : Cmd) (s : State) (i : Fin 16), Served 0x21 false c s → exactLen 8 c.params.length = true → s.modelSlotOf (par8 c.params 0) = some i.val → s.isBound (par8 c.params 0) = false →
      exec (.modelUnload c) s = .next (reply 0x21 c 0 0 [] []
        ({ dropModelWork (s.takeCmd c.len) i.val with
            models := (dropModelWork (s.takeCmd c.len) i.val).models.set i none } : State).spineChanged))
    ∧ (∀ (c : Cmd) (s : State) (i : Nat), Served 0x21 false c s → exactLen 8 c.params.length = true → s.modelSlotOf (par8 c.params 0) = some i → s.isBound (par8 c.params 0) = true →
      exec (.modelUnload c) s = .next (reply 0x21 c 9 0 [] [] (s.takeCmd c.len)))
    ∧ (∀ (c : Cmd) (s : State), Served 0x21 false c s → exactLen 8 c.params.length = true → s.modelSlotOf (par8 c.params 0) = none →
      exec (.modelUnload c) s = .next (reply 0x21 c 7 0 [] [] (s.takeCmd c.len)))
    ∧ (∀ (c : Cmd) (s : State), Served 0x22 false c s → exactLen 1544 c.params.length = true → 1 ≤ par8 c.params 0 → par8 c.params 0 ≤ 7 →
      exec (.ldpcTableLoad c) s = .next (reply 0x22 c 0 0
        (digest256 (slice c.params 8 1408 ++ zeros 128)) []
        { s.takeCmd c.len with
          coding := { s.coding with ldpc := tset s.coding.ldpc (par8 c.params 0) (slice c.params 8 1408 ++ zeros 128) }
          stitch := { s.stitch with spineStale := true } }))
    ∧ (∀ (c : Cmd) (s : State), Served 0x22 false c s → exactLen 1544 c.params.length = true → par8 c.params 0 = 0 ∨ 7 < par8 c.params 0 →
      exec (.ldpcTableLoad c) s = .next (reply 0x22 c 7 0 [] [] (s.takeCmd c.len)))
    ∧ (∀ (c : Cmd) (s : State), ServedLong false c s → (fun l => decide (40 ≤ l)) c.params.length = true → (s.cell? (par8 c.params 0)).isSome = true → 1 ≤ par8 c.params 3 ∧ par8 c.params 3 ≤ 16 ∧ 1 ≤ par8 c.params 4 ∧ par8 c.params 4 ≤ 32 → par8 c.params 1 + par8 c.params 2 ≤ 256 → 40 + par8 c.params 2 * (par8 c.params 3 * par8 c.params 4 * 4) ≤ c.params.length →
      exec (.precoderLoad c) s = .next (reply 0x23 c 0 0 [] []
        { s.takeCmd c.len with
          precoders := tset s.precoders (par8 c.params 0) ((List.range (par8 c.params 2)).foldl
            (fun (t : Table Precoder) i => tset t (par8 c.params 1 + i) ⟨par8 c.params 3, par8 c.params 4,
              (leList 4 (slice c.params (40 + i * (par8 c.params 3 * par8 c.params 4 * 4))
                (par8 c.params 3 * par8 c.params 4 * 4))).map (BitVec.ofNat 32)⟩) (tget s.precoders (par8 c.params 0) [])) }))
    ∧ (∀ (c : Cmd) (s : State), ServedLong false c s → (fun l => decide (40 ≤ l)) c.params.length = true → s.cell? (par8 c.params 0) = none →
      exec (.precoderLoad c) s = .next (reply 0x23 c 7 0 [] [] (s.takeCmd c.len)))

/-- When served: ADAPT_CONFIG keeps the corrected block for the next candidate of the model named, and with ADAPT_EN 0
discards a candidate in progress and what its quires bring; ADAPT_ROLLBACK to version 0, the active version or one
that was active discards any candidate and what its quires bring, ends any watch and lets the version take effect as a
promotion does; a version that was never active answers BAD_STATE (9). QUIRE_CANCEL ends a held quire, and faults a
triggered one, with QUIRE_CANCELLED (0x65). What does not exist, and a quire that has ended, answer NOT_FOUND (7).
(R174, R175, R184, R244, R245, R371) -/
def Obligations.Adaptation_is_commanded : Prop :=
  (∀ (c : Cmd) (s : State) (i : Nat) (m : Model) (b : Bytes) (rep : List Rep), Served 0x24 false c s → exactLen 136 c.params.length = true → cplAt c.params 8 64 = true → s.modelSlotOf (par8 c.params 0) = some i → s.model? i = some m → checkFields 0 (adaptFields (defaultParams m.image)) (slice c.params 8 64) = (b, rep) →
      exec (.adaptConfig c) s = .next (reply 0x24 c 0 0 [] rep ((if fld b 0 1 = 0 then dropModelWork (s.takeCmd c.len) i else (s.takeCmd c.len)).putModel i m (m.withParams b))))
    ∧ (∀ (c : Cmd) (s : State), Served 0x24 false c s → exactLen 136 c.params.length = true → cplAt c.params 8 64 = true → s.modelSlotOf (par8 c.params 0) = none →
      exec (.adaptConfig c) s = .next (reply 0x24 c 7 0 [] [] (s.takeCmd c.len)))
    ∧ (∀ (c : Cmd) (s : State), Served 0x24 false c s → exactLen 136 c.params.length = true → cplAt c.params 8 64 = false →
      exec (.adaptConfig c) s = .next (reply 0x24 c 5 0 [] [] (s.takeCmd c.len)))
    ∧ (∀ (c : Cmd) (s : State) (i : Nat) (m m1 : Model) (v : Version), ServedLong false c s → exactLen 16 c.params.length = true → s.modelSlotOf (par8 c.params 0) = some i → s.model? i = some m → m.version? (par8 c.params 1) = some v → canReturn v = true → m1 = { m.dropCandidate .discarded with watch := none, promote := none } →
      exec (.adaptRollback c) s = .next (reply 0x25 c 0 0 [] []
        (settleModel (dropModelWork (s.takeCmd c.len) i) i m (if v.number = m.active then m1
          else { m1 with promote := some ⟨v.number, m.point s.pressed m.clock, true⟩ }))))
    ∧ (∀ (c : Cmd) (s : State) (i : Nat) (m : Model) (v : Version), ServedLong false c s → exactLen 16 c.params.length = true → s.modelSlotOf (par8 c.params 0) = some i → s.model? i = some m → m.version? (par8 c.params 1) = some v → canReturn v = false →
      exec (.adaptRollback c) s = .next (reply 0x25 c 9 0 [] [] (s.takeCmd c.len)))
    ∧ (∀ (c : Cmd) (s : State), ServedLong false c s → exactLen 16 c.params.length = true → s.modelSlotOf (par8 c.params 0) = none →
      exec (.adaptRollback c) s = .next (reply 0x25 c 7 0 [] [] (s.takeCmd c.len)))
    ∧ (∀ (c : Cmd) (s : State) (q : Quire), Served 0x31 false c s → exactLen 8 c.params.length = true → tget? s.quires (par8 c.params 0 % 65536) = some q → q.state = .queued →
      exec (.quireCancel c) s = .next (reply 0x31 c 0 0 [] []
        ((s.takeCmd c.len).setQuire (par8 c.params 0 % 65536) fun q => { q with state := .ended, fault := 0x65 })))
    ∧ (∀ (c : Cmd) (s : State) (q : Quire), Served 0x31 false c s → exactLen 8 c.params.length = true → tget? s.quires (par8 c.params 0 % 65536) = some q → q.state.open_ = true → q.state ≠ .queued →
      exec (.quireCancel c) s = .next (reply 0x31 c 0 0 [] [] (faultQuire (s.takeCmd c.len) q.tag 0x65)))
    ∧ (∀ (c : Cmd) (s : State), Served 0x31 false c s → exactLen 8 c.params.length = true → tget? s.quires (par8 c.params 0 % 65536) = none →
      exec (.quireCancel c) s = .next (reply 0x31 c 7 0 [] [] (s.takeCmd c.len)))
    ∧ (∀ (c : Cmd) (s : State) (q : Quire), Served 0x31 false c s → exactLen 8 c.params.length = true → tget? s.quires (par8 c.params 0 % 65536) = some q → q.state.open_ = false →
      exec (.quireCancel c) s = .next (reply 0x31 c 7 0 [] [] (s.takeCmd c.len)))

/-- When served: COLOPHON_SEAL sends a non-empty open batch to be signed, opens the next number and answers the batch
number; an empty one answers BAD_STATE (9), one for which the store has no room NO_SPACE (8). COLOPHON_COLLECT puts
the oldest sealed batches in the output buffer and removes them from the store. MODULE_POLICY with a good complement
sets the quarantine mode, the allow-list and the life limits. MODULE_TABLE saves the table or restores the entries
given. The 8-byte parameter layouts are the model's (log entry 8). (R284, R285, R309, R310, R312) -/
def Obligations.Colophon_and_module_commands : Prop :=
  (∀ (c : Cmd) (s : State), Served 0x39 false c s → exactLen 0 c.params.length = true → s.colo.openRecs ≠ [] → s.colo.full = false →
      exec (.colophonSeal c) s = .next (reply 0x39 c 0 0 (join8 [s.colo.openNumber]) []
        { s.takeCmd c.len with
          colo := { s.colo with
            openNumber := s.colo.openNumber + 1
            openRecs := []
            sealing := s.colo.sealing ++ [⟨s.colo.openNumber, s.colo.openRecs⟩] } }))
    ∧ (∀ (c : Cmd) (s : State), Served 0x39 false c s → exactLen 0 c.params.length = true → s.colo.openRecs = [] →
      exec (.colophonSeal c) s = .next (reply 0x39 c 9 0 [] [] (s.takeCmd c.len)))
    ∧ (∀ (c : Cmd) (s : State), Served 0x39 false c s → exactLen 0 c.params.length = true → s.colo.openRecs ≠ [] → s.colo.full = true →
      exec (.colophonSeal c) s = .next (reply 0x39 c 8 0 [] [] (s.takeCmd c.len)))
    ∧ (∀ (c : Cmd) (s : State) (out : Bytes), ServedLong false c s → exactLen 8 c.params.length = true → (s.colo.stored.take (par8 c.params 0)).flatMap (·.2) = out → out.length ≤ c.obLen.toNat →
      exec (.colophonCollect c) s = .next (replyOut 0x3A c 0 out []
        { s.takeCmd c.len with colo := { s.colo with stored := s.colo.stored.drop (par8 c.params 0) } }))
    ∧ (∀ (c : Cmd) (s : State) (h : Bytes) (rep : List Rep), Served 0x42 false c s →
      80 ≤ c.params.length → c.params.length ≤ 5216 → cplAt c.params 0 (c.params.length / 2) = true →
      checkFields 0 policyFields (slice c.params 0 40) = (h, rep) →
      exec (.modulePolicy c) s = .next (reply 0x42 c 0 0 [] rep
        { s.takeCmd c.len with
          fe := { s.fe with
            quarantineMode := ⟨par8 h 0 % 3, by omega⟩
            allow := (List.range (min (par8 h 4) ((c.params.length / 2 - 40) / 40))).map fun i =>
              ((slice c.params (40 + 40 * i) 40).take 3, slice (slice c.params (40 + 40 * i) 40) 3 16,
                slice (slice c.params (40 + 40 * i) 40) 19 16)
            ratedHours := par8 h 1
            driftEol := par8 h 2
            lifeWarn := par8 h 3 } }))
    ∧ (∀ (c : Cmd) (s : State), Served 0x42 false c s → 80 ≤ c.params.length → c.params.length ≤ 5216 →
      cplAt c.params 0 (c.params.length / 2) = false →
      exec (.modulePolicy c) s = .next (reply 0x42 c 5 0 [] [] (s.takeCmd c.len)))
    ∧ (∀ (c : Cmd) (s : State), Served 0x43 false c s → 8 ≤ c.params.length → c.params.length ≤ 1040 →
      par8 c.params 0 = 0 → (s.fe.modules.flatMap moduleRecord).length ≤ c.obLen.toNat →
      exec (.moduleTable c) s = .next (replyOut 0x43 c 0 (s.fe.modules.flatMap moduleRecord) [] (s.takeCmd c.len)))
    ∧ (∀ (c : Cmd) (s : State), Served 0x43 false c s → 8 ≤ c.params.length → c.params.length ≤ 1040 →
      par8 c.params 0 ≠ 0 →
      exec (.moduleTable c) s = .next (reply 0x43 c 0 0 [] []
        ((List.range (min 32 ((c.params.length - 8) / 32))).foldl
          (fun s i => restoreModule s (slice c.params (8 + 32 * i) 32)) (s.takeCmd c.len))))

/-- When served: ATTEST puts the 2,048 bytes of the report as they stand at its snapshot, the signature over them and 19
zero bytes in the output buffer. FW_STAGE is LOCKED (0xA) while SEC_LOCK.LOCK is set; an image that fails a test
answers AUTH_FAILED (0x20), or ROLLBACK_REFUSED (0x21) for code 0x14, with the code; a good one goes to the slot not
booted from and PREFER selects that slot. KEY_IMPORT with USE 0 is LOCKED once OWNER_ROOT is set or under the lock; a
blob that does not verify is AUTH_FAILED; a good one fuses the digest of its signer key and makes the part OWNED. USE
1 without an owner root answers BAD_STATE (9); with a good blob under the owner root the CAK and its name go to the
port. (R389, R394, R395, R396, R424) -/
def Obligations.Security_commands : Prop :=
  (∀ (c : Cmd) (s : State), ServedLong true c s → exactLen 32 c.params.length = true →
      (reportBytes c.params (s.takeCmd c.len) ++ slice (identitySign "UZY1632 attest".toList
        (reportBytes c.params (s.takeCmd c.len))) 0 3309 ++ zeros 19).length ≤ c.obLen.toNat →
      exec (.attest c) s = .next (replyOut 0x04 c 0 (reportBytes c.params (s.takeCmd c.len) ++ slice (identitySign
        "UZY1632 attest".toList (reportBytes c.params (s.takeCmd c.len))) 0 3309 ++ zeros 19) []
        (s.takeCmd c.len)))
    ∧ (∀ (c : Cmd) (s : State), ServedLong false c s → 0 < c.params.length → c.params.length ≤ 0x1000000 → s.host.lock = true →
      exec (.fwStage c) s = .next (reply 0x06 c 0xA 0 [] [] (s.takeCmd c.len)))
    ∧ (∀ (c : Cmd) (s : State) (code : Nat), ServedLong false c s → 0 < c.params.length → c.params.length ≤ 0x1000000 →
      s.host.lock = false → bundleFault s.sec.fuses s.ddrBytes c.params = some code →
      exec (.fwStage c) s = .next (reply 0x06 c (if code = 0x14 then 0x21 else 0x20) code [] [] (s.takeCmd c.len)))
    ∧ (∀ (c : Cmd) (s : State), ServedLong false c s → 0 < c.params.length → c.params.length ≤ 0x1000000 →
      s.host.lock = false → bundleFault s.sec.fuses s.ddrBytes c.params = none →
      exec (.fwStage c) s = .next (reply 0x06 c 0 0
        (join8 [fld c.params 8 4, fld c.params 0x10 4] ++ digest256 (signedPart c.params)) []
        { s.takeCmd c.len with
          sec := { s.sec with
            flash := if s.boot.bootSlotB then { s.sec.flash with slotA := c.params, prefer := 0xA5A50000 }
              else { s.sec.flash with slotB := c.params, prefer := 0xA5A50001 } } }))
    ∧ (∀ (c : Cmd) (s : State), Served 0x05 false c s → c.params.length = 6485 → blobOk c.params = true →
      fld c.params 0 1 = 0 → s.sec.fuses.ownerRoot = none → s.host.lock = false → blobSigned c.params = true →
      exec (.keyImport c) s = .next (reply 0x05 c 0 0 [] []
        { s.takeCmd c.len with
          sec := { s.sec with
            fuses := { s.sec.fuses with ownerRoot := some (digest256 (slice c.params 0x4C8 1952)), lifecycle := 3 } } }))
    ∧ (∀ (c : Cmd) (s : State), Served 0x05 false c s → c.params.length = 6485 → blobOk c.params = true →
      fld c.params 0 1 = 0 → (s.sec.fuses.ownerRoot ≠ none ∨ s.host.lock = true) →
      exec (.keyImport c) s = .next (reply 0x05 c 0xA 0 [] [] (s.takeCmd c.len)))
    ∧ (∀ (c : Cmd) (s : State), Served 0x05 false c s → c.params.length = 6485 → blobOk c.params = true →
      fld c.params 0 1 = 0 → s.sec.fuses.ownerRoot = none → s.host.lock = false → blobSigned c.params = false →
      exec (.keyImport c) s = .next (reply 0x05 c 0x20 0 [] [] (s.takeCmd c.len)))
    ∧ (∀ (c : Cmd) (s : State), Served 0x05 false c s → c.params.length = 6485 → blobOk c.params = true →
      fld c.params 0 1 = 1 → s.sec.fuses.ownerRoot = none →
      exec (.keyImport c) s = .next (reply 0x05 c 9 0 [] [] (s.takeCmd c.len)))
    ∧ (∀ (c : Cmd) (s : State) (root key : Bytes) (p : Fin 8), Served 0x05 false c s → c.params.length = 6485 →
      blobOk c.params = true → fld c.params 0 1 = 1 → s.sec.fuses.ownerRoot = some root →
      digest256 (slice c.params 0x4C8 1952) = root → blobSigned c.params = true →
      slice c.params 0x28 32 = kemKeyId →
      unwrapKey (slice c.params 0x48 1088) (slice c.params 0x488 12) (slice c.params 0x498 32) (slice c.params 0x4B8 16)
        (slice c.params 0 0x30) = some key → fld c.params 1 1 = p.val →
      exec (.keyImport c) s = .next (reply 0x05 c 0 0 [] []
        { s.takeCmd c.len with
          fe := { s.fe with
            ports := vmod s.fe.ports p fun x =>
              { x with cak := slice key 0 (fld c.params 2 1), cakName := slice c.params 8 (fld c.params 3 1) } } }))
    ∧ (∀ (c : Cmd) (s : State), Served 0x05 false c s → c.params.length = 6485 → blobOk c.params = false →
      exec (.keyImport c) s = .next (reply 0x05 c 2 0 [] [] (s.takeCmd c.len)))

/-- When served with a good record: POWER_STATE to STANDBY, with no quire live and no cell placed, takes the lanes down,
stops the array and core PLLs and gates the coding domains; with a quire live or a cell placed it answers BAD_STATE
(9). POWER_STATE to ACTIVE from STANDBY starts the PLLs and lets the links train; else only FLOOR_STEP changes. Entry
to D3hot unplaces the cells, cancels every quire, takes the lanes down, stops the DMA channels and enters AON; the
return to D0 leaves AON with no PLL in standby and posts what waits for the host. (R405, R406, R407, R408) -/
def Obligations.Power_states_change : Prop :=
  (∀ (c : Cmd) (s : State) (r : Bytes) (rep : List Rep), ServedLong false c s → exactLen 32 c.params.length = true →
      cplAt c.params 0 16 = true → checkFields 0 powerFields (slice c.params 0 16) = (r, rep) → par8 r 0 = 1 →
      s.quireLive = false → s.cfg.cells.any (fun p => p.2.placed || p.2.waitFull) = false →
      exec (.powerState c) s = .next (reply 0x51 c 0 0 [] rep
        ((s.takeCmd c.len).lanesDown.setPower fun p => { setFloor (par8 r 1) p with
          state := .standby, pllStandby := [0, 1],
          gated := ((List.range 19).map (129 + ·)) ++ p.gated.filter (!((List.range 19).map (129 + ·)).contains ·) })))
    ∧ (∀ (c : Cmd) (s : State) (r : Bytes) (rep : List Rep), ServedLong false c s → exactLen 32 c.params.length = true →
      cplAt c.params 0 16 = true → checkFields 0 powerFields (slice c.params 0 16) = (r, rep) → par8 r 0 = 1 →
      s.quireLive = true ∨ s.cfg.cells.any (fun p => p.2.placed || p.2.waitFull) = true →
      exec (.powerState c) s = .next (reply 0x51 c 9 0 [] [] (s.takeCmd c.len)))
    ∧ (∀ (c : Cmd) (s : State) (r : Bytes) (rep : List Rep), ServedLong false c s → exactLen 32 c.params.length = true →
      cplAt c.params 0 16 = true → checkFields 0 powerFields (slice c.params 0 16) = (r, rep) → par8 r 0 ≠ 1 →
      exec (.powerState c) s = .next (reply 0x51 c 0 0 [] rep
        (if s.power.state = .standby then
            ((((s.takeCmd c.len).setPower (setFloor (par8 r 1))).setPower fun p =>
              { p with state := .quiet, pllStandby := [] }).autoPower).relink
          else (s.takeCmd c.len).setPower (setFloor (par8 r 1)))))
    ∧ (∀ (c : Cmd) (s : State), ServedLong false c s → exactLen 32 c.params.length = true → cplAt c.params 0 16 = false →
      exec (.powerState c) s = .next (reply 0x51 c 5 0 [] [] (s.takeCmd c.len)))
    ∧ (∀ s : State, s.power.state ≠ .aon → s.boot.state ≠ .reset →
      exec .d3hotEntry s = .next ((((((unplaceAll s).spineChanged.quires.foldl (fun s p => faultQuire s p.2.tag 0x65)
        (unplaceAll s).spineChanged).lanesDown).stopDma).setPower fun p =>
          { p with state := .aon, pllStandby := [0, 1, 2, 3] }).setHost fun h => { h with d3hot := true }))
    ∧ (∀ s : State, s.power.state = .aon → exec .d0Return s
        = .next ((((s.setPower fun p => { p with state := .quiet, pllStandby := [] }).setHost fun h =>
            { h with d3hot := false }).autoPower.relink).drainRsp.drainSpc))

/-- Of a long command with more than one leaf, the first leaf makes it the running one and applies nothing; each leaf
before the last counts one down; the last one takes it out of the queue, applies it, answers it, and serves the short
commands that waited for its target. A long command that finds another running waits after it. A short command whose
target the running long command holds waits; one with another target runs. (R369, R370, 16_mailbox.md) -/
def Obligations.Long_commands_run_leaf_by_leaf : Prop :=
  (∀ (s : State) (j : Job) (rest : List Job), s.busumUp = true → s.power.state ≠ .aon → s.mbx.longQ = j :: rest → 2 ≤ j.leaves →
      exec .longCommandLeaf s
        = .next { s with mbx := { s.mbx with longQ := { j.begun s with leaves := j.leaves - 1 } :: rest } })
    ∧ (∀ (s : State) (j : Job) (rest : List Job), s.busumUp = true → s.power.state ≠ .aon → s.mbx.longQ = j :: rest → j.leaves ≤ 1 →
      exec .longCommandLeaf s
        = .next (serveWaiting (finish { s with mbx := { s.mbx with longQ := rest } } j.code j.cmd
            (runLong j.code j.cmd (j.begun s).snap { s with mbx := { s.mbx with longQ := rest } }))))
    ∧ (∀ (s : State) (c : Cmd), s.canRead s.mbx.cmdq c.len.toNat = true → 3 ≤ c.len.toNat → c.len.toNat ≤ 257 →
      s.boot.state = .ready → c.xferFail = none → slotLen c.params.length = true → s.mbx.longQ = [] → 2 ≤ c.leaves →
      exec (.slotConfig c) s = .next ((s.takeCmd c.len).setMbx fun m => { m with longQ := [⟨0x12, c, c.leaves - 1, []⟩] }))
    ∧ (∀ (s : State) (c : Cmd), s.canRead s.mbx.cmdq c.len.toNat = true → 3 ≤ c.len.toNat → c.len.toNat ≤ 257 →
      s.boot.state = .ready → c.xferFail = none → slotLen c.params.length = true → s.mbx.longQ ≠ [] →
      exec (.slotConfig c) s = .next ((s.takeCmd c.len).setMbx fun m => { m with longQ := m.longQ ++ [⟨0x12, c, c.leaves, []⟩] }))
    ∧ (∀ (s : State) (c : Cmd), s.canRead s.mbx.cmdq c.len.toNat = true → 3 ≤ c.len.toNat → c.len.toNat ≤ 257 →
      s.boot.state = .ready → c.xferFail = none → exactLen 1184 c.params.length = true → s.targetBusy 0x13 c = true →
      exec (.fhConfig c) s = .next ((s.takeCmd c.len).setMbx fun m => { m with waitQ := m.waitQ ++ [⟨0x13, c, 1, []⟩] }))

/-- For each of the four records, lying whole in SPQ: one that no check turns away is consumed, its slot goes to the end
of the order of arrival, and it is kept under its cell and slot (an UL_SLOT all of whose PDUs are served; a DL_SLOT or
UL_DCI after the SLOT_ERRORs of its PDUs, those PDSCHs marked as not served); one that a check turns away is consumed
and answered by SLOT_ERROR with the cause of that check (an UL_SLOT where its cell has an engine in service or it
holds no PRACH). TX_DATA of a slot whose window has opened and whose DL_SLOT waits is consumed and triggers the
downlink quire. The cause is 5 for a LEN under 2, 3 for a cell not configured, not placed, not of that direction or
without an engine in service, 5 for an SFN or slot out of range, 2 for a duplicate, 1 for a slot whose window has
opened, in this order. (R24, R195, R299, R364, R380, R381) -/
def Obligations.Slot_records_are_taken : Prop :=
  (∀ (r : UlSlot) (s : State) (n : Nat), n = packSfn r.sfn.toNat r.slot.toNat → s.canRead s.mbx.spq r.len.toNat = true →
      recordCause (s.takeSpq r.len) r.cell.toNat r.sfn.toNat r.slot.toNat r.len.toNat false
        ((tget? s.fe.ulRecs (slotKey r.cell.toNat n)).isSome || (tget? s.fe.ul (slotKey r.cell.toNat n)).isSome) = none →
      (∀ p ∈ r.pusch, puschServed p = true) → (∀ p ∈ r.prach, prachAllowed p = true ∧ p.count ≤ 64) → r.excluded = [] →
      exec (.ulSlot r) s = .next ((s.takeSpq r.len).setFe fun f => { f with
        recOrder := f.recOrder ++ [(r.cell.toNat, n)]
        ulRecs := tset f.ulRecs (slotKey r.cell.toNat n) r }))
    ∧ (∀ (r : UlSlot) (s : State) (n cause : Nat), n = packSfn r.sfn.toNat r.slot.toNat → s.canRead s.mbx.spq r.len.toNat = true →
      ((∀ x, s.cell? r.cell.toNat = some x → s.inService x.cluster.val ≠ []) ∨ r.prach = []) →
      recordCause (s.takeSpq r.len) r.cell.toNat r.sfn.toNat r.slot.toNat r.len.toNat false
        ((tget? s.fe.ulRecs (slotKey r.cell.toNat n)).isSome || (tget? s.fe.ul (slotKey r.cell.toNat n)).isSome) = some cause →
      exec (.ulSlot r) s = .next ((s.takeSpq r.len).slotError r.cell.toNat r.sfn.toNat r.slot.toNat cause))
    ∧ (∀ (r : DlSlot) (s : State) (n : Nat), n = packSfn r.sfn.toNat r.slot.toNat → s.canRead s.mbx.spq r.len.toNat = true →
      recordCause (s.takeSpq r.len) r.cell.toNat r.sfn.toNat r.slot.toNat r.len.toNat true
        ((tget? s.fe.dlRecs (slotKey r.cell.toNat n)).isSome || dlServed s r.cell.toNat n) = none →
      exec (.dlSlot r) s = .next ((dlErrors r ((s.takeSpq r.len).setFe fun f => { f with
          recOrder := f.recOrder ++ [(r.cell.toNat, n)] })).setFe fun f => { f with
        dlRecs := tset f.dlRecs (slotKey r.cell.toNat n) (dlServable r) }))
    ∧ (∀ (r : DlSlot) (s : State) (n : Nat), n = packSfn r.sfn.toNat r.slot.toNat → s.canRead s.mbx.spq r.len.toNat = true →
      recordCause (s.takeSpq r.len) r.cell.toNat r.sfn.toNat r.slot.toNat r.len.toNat true
        ((tget? s.fe.dciRecs (slotKey r.cell.toNat n)).isSome || dlServed s r.cell.toNat n) = none →
      exec (.ulDci r) s = .next ((dlErrors r ((s.takeSpq r.len).setFe fun f => { f with
          recOrder := f.recOrder ++ [(r.cell.toNat, n)] })).setFe fun f => { f with
        dciRecs := tset f.dciRecs (slotKey r.cell.toNat n) (dlServable r) }))
    ∧ (∀ (r : TxData) (s : State) (n : Nat), n = packSfn r.sfn.toNat r.slot.toNat → s.canRead s.mbx.spq r.len.toNat = true →
      dlOpened s r.cell.toNat n = false →
      recordCause (s.takeSpq r.len) r.cell.toNat r.sfn.toNat r.slot.toNat r.len.toNat true
        ((tget? s.fe.txRecs (slotKey r.cell.toNat n)).isSome || dlServed s r.cell.toNat n) = none →
      exec (.txData r) s = .next ((s.takeSpq r.len).setFe fun f => { f with
        recOrder := f.recOrder ++ [(r.cell.toNat, n)]
        txRecs := tset f.txRecs (slotKey r.cell.toNat n) r }))
    ∧ (∀ (r : DlSlot) (s : State) (n cause : Nat), n = packSfn r.sfn.toNat r.slot.toNat → s.canRead s.mbx.spq r.len.toNat = true →
      recordCause (s.takeSpq r.len) r.cell.toNat r.sfn.toNat r.slot.toNat r.len.toNat true
        ((tget? s.fe.dlRecs (slotKey r.cell.toNat n)).isSome || dlServed s r.cell.toNat n) = some cause →
      exec (.dlSlot r) s = .next ((s.takeSpq r.len).slotError r.cell.toNat r.sfn.toNat r.slot.toNat cause))
    ∧ (∀ (r : DlSlot) (s : State) (n cause : Nat), n = packSfn r.sfn.toNat r.slot.toNat → s.canRead s.mbx.spq r.len.toNat = true →
      recordCause (s.takeSpq r.len) r.cell.toNat r.sfn.toNat r.slot.toNat r.len.toNat true
        ((tget? s.fe.dciRecs (slotKey r.cell.toNat n)).isSome || dlServed s r.cell.toNat n) = some cause →
      exec (.ulDci r) s = .next ((s.takeSpq r.len).slotError r.cell.toNat r.sfn.toNat r.slot.toNat cause))
    ∧ (∀ (r : TxData) (s : State) (n cause : Nat), n = packSfn r.sfn.toNat r.slot.toNat → s.canRead s.mbx.spq r.len.toNat = true →
      dlOpened s r.cell.toNat n = false →
      recordCause (s.takeSpq r.len) r.cell.toNat r.sfn.toNat r.slot.toNat r.len.toNat true
        ((tget? s.fe.txRecs (slotKey r.cell.toNat n)).isSome || dlServed s r.cell.toNat n) = some cause →
      exec (.txData r) s = .next ((s.takeSpq r.len).slotError r.cell.toNat r.sfn.toNat r.slot.toNat cause))
    ∧ (∀ (s : State) (cell sfn slot len : Nat) (dl dup : Bool),
      recordCause s cell sfn slot len dl dup = (if len < 2 then some 5 else match s.cell? cell with
        | none => some 3
        | some x => if x.placed = false ∨ (if dl then x.downlink else x.uplink) = false ∨ s.inService x.cluster.val = [] then some 3
          else if 1024 ≤ sfn ∨ x.slotsPerFrame ≤ slot then some 5
          else if dup then some 2
          else match x.indexOf (packSfn sfn slot) with
            | some i => if i < ((if dl then x.cpDl else x.cpUl : Nat) : Int) then some 1 else none
            | none => none))
    ∧ (∀ (r : TxData) (s : State) (n : Nat), n = packSfn r.sfn.toNat r.slot.toNat → s.canRead s.mbx.spq r.len.toNat = true →
      2 ≤ r.len.toNat → dlOpened s r.cell.toNat n = true → (tget? s.fe.dlRecs (slotKey r.cell.toNat n)).isSome = true →
      tget? s.fe.txRecs (slotKey r.cell.toNat n) = none → dlServed s r.cell.toNat n = false →
      exec (.txData r) s = .next (startDl ((s.takeSpq r.len).setFe fun f => { f with
        txRecs := tset f.txRecs (slotKey r.cell.toNat n) r }) r.cell.toNat n))

/-- For every UL_SLOT that is accepted: the PUSCH PDUs excluded are answered with cause 4, those with a bad base graph
with cause 5, the PRACH PDUs excluded with 4 and those with more than 64 windows with 5, the others excluded with 4,
in this order, by their PDU indices; the record is kept for its slot. An UL_SLOT of a cell whose cluster has no engine
in service, and that only this turns away, is answered with cause 3; its PRACH PDUs are then checked as above and it
is kept with them alone. (R36, R195, R219, R380, R381) -/
def Obligations.Excluded_pdus_are_answered_one_by_one : Prop :=
  (
  ∀ (r : UlSlot) (s s0 : State) (n : Nat), n = packSfn r.sfn.toNat r.slot.toNat → s.canRead s.mbx.spq r.len.toNat = true →
    recordCause (s.takeSpq r.len) r.cell.toNat r.sfn.toNat r.slot.toNat r.len.toNat false
      ((tget? s.fe.ulRecs (slotKey r.cell.toNat n)).isSome || (tget? s.fe.ul (slotKey r.cell.toNat n)).isSome) = none →
    s0 = ((s.takeSpq r.len).setFe fun f => { f with recOrder := f.recOrder ++ [(r.cell.toNat, n)] }) →
    exec (.ulSlot r) s = .next ((pduErrors (pduErrors (pduErrors (pduErrors (pduErrors s0
        r.cell.toNat r.sfn.toNat r.slot.toNat 4 (placesOf 0 (fun p => !puschAllowed p) r.pusch))
        r.cell.toNat r.sfn.toNat r.slot.toNat 5 (placesOf 0 (fun p => puschAllowed p && !puschServed p) r.pusch))
        r.cell.toNat r.sfn.toNat r.slot.toNat 4 (placesOf (r.pusch.length + r.pucch.length) (fun p => !prachAllowed p) r.prach))
        r.cell.toNat r.sfn.toNat r.slot.toNat 5
          (placesOf (r.pusch.length + r.pucch.length) (fun p => prachAllowed p && decide (64 < p.count)) r.prach))
        r.cell.toNat r.sfn.toNat r.slot.toNat 4 r.excluded).setFe fun f =>
          { f with ulRecs := tset f.ulRecs (slotKey r.cell.toNat n) r }))
    ∧ (∀ (r : UlSlot) (s s0 : State) (n : Nat) (x : Cell), n = packSfn r.sfn.toNat r.slot.toNat →
    s.canRead s.mbx.spq r.len.toNat = true → s.cell? r.cell.toNat = some x → s.inService x.cluster.val = [] → r.prach ≠ [] →
    recordCause { s.takeSpq r.len with engines := Vector.replicate 16 {} } r.cell.toNat r.sfn.toNat r.slot.toNat r.len.toNat false
      ((tget? s.fe.ulRecs (slotKey r.cell.toNat n)).isSome || (tget? s.fe.ul (slotKey r.cell.toNat n)).isSome) = none →
    s0 = (s.takeSpq r.len).slotError r.cell.toNat r.sfn.toNat r.slot.toNat 3 →
    exec (.ulSlot r) s = .next ((pduErrors (pduErrors s0
        r.cell.toNat r.sfn.toNat r.slot.toNat 4 (placesOf (r.pusch.length + r.pucch.length) (fun p => !prachAllowed p) r.prach))
        r.cell.toNat r.sfn.toNat r.slot.toNat 5
          (placesOf (r.pusch.length + r.pucch.length) (fun p => prachAllowed p && decide (64 < p.count)) r.prach)).setFe fun f =>
      { f with ulRecs := tset f.ulRecs (slotKey r.cell.toNat n) { r with pusch := [], uci := [], pucch := [], excluded := [] }
               recOrder := f.recOrder ++ [(r.cell.toNat, n)] }))

/-- With BAR0 served: a SLOT_MARK with MARK_SOURCE 0 and a lead of at most 9,999 µs notes the mark of its timing group,
which is no longer lost, and gives each placed cell of the group a close that many µs from now on its cluster counter,
and sets or re-aligns the slot clock of it and of a cell that waits for its full save; with another source or a longer
lead it is only counted in MARK_IGNORED. An edge on SLOT_MARK_IN with MARK_SOURCE 1 does so for every such cell with
its CLOSE_OFFSET, else it is counted. MARK_LOST for a timing group with a placed cell that is not lost: the clock
stands at least 10 ms past the last mark, the group is lost until its next mark, and the event names it; for a lost
group it changes nothing. (R224, R226, R297, R427, R444) -/
def Obligations.Slot_marks_set_the_close : Prop :=
  (∀ (v : BitVec 32) (s s0 : State), BarOk s → s.markSource = 0 → bits v.toNat 0 16 ≤ 9999 →
      s0 = { s with cfg := { s.cfg with
        lastMark := tset s.cfg.lastMark (bits v.toNat 24 4) s.ticks.toNat
        lostGroups := s.cfg.lostGroups.filter (· != bits v.toNat 24 4) } } →
      exec (.slotMark v) s = .next ((s.cfg.cells.filter fun p =>
          (p.2.placed || p.2.waitFull) && p.2.timingGroup == bits v.toNat 24 4).foldl (fun s p =>
        alignClock (if p.2.placed then expectClose s p.1 p.2.cluster (bits v.toNat 0 16) else s) p.1 (bits v.toNat 0 16)) s0))
    ∧ (∀ (v : BitVec 32) (s : State), BarOk s → (s.markSource ≠ 0 ∨ 9999 < bits v.toNat 0 16) →
      exec (.slotMark v) s = .next { s with cfg := { s.cfg with markIgnored := s.cfg.markIgnored + 1 } })
    ∧ (∀ s : State, s.markSource ≠ 1 →
      exec .slotMarkIn s = .next { s with cfg := { s.cfg with markIgnored := s.cfg.markIgnored + 1 } })
    ∧ (∀ s s0 : State, s.markSource = 1 → s0 = ((noteMark s (List.range 16)).setCfg fun c => { c with lastEdge := some s.ticks.toNat }) →
      exec .slotMarkIn s = .next ((s.cfg.cells.filter fun p => p.2.placed || p.2.waitFull).foldl (fun s p =>
        alignClock (if p.2.placed then expectClose s p.1 p.2.cluster p.2.closeOffset else s) p.1 p.2.closeOffset) s0))
    ∧ (∀ (g : Fin 16) (s s1 : State), s.cfg.cells.any (fun p => p.2.placed && p.2.timingGroup == g.val) = true →
      s.cfg.lostGroups.contains g.val = false →
      s1 = s.advanceTo (tget s.cfg.lastMark g.val s.ticks.toNat + usTicks 10000) →
      exec (.markLost g) s = .next (({ s1 with cfg := { s1.cfg with lostGroups := g.val :: s1.cfg.lostGroups } }).event 2
        g.val (toLE 4 g.val)))
    ∧ (∀ (g : Fin 16) (s : State), s.cfg.lostGroups.contains g.val = true → exec (.markLost g) s = .next s)
    ∧ (∀ (s : State) (cell : Nat) (k : Fin 4) (lead : Nat), ∃ e ∈ ((expectClose s cell k lead).cl k).expects,
      e.cell = cell ∧ e.close = (s.cl k).counter.toNat + lead * 25)

/-- For an instruction that issues, from the state in which the DSP writes due have landed, the core going on past its
word: scalar arithmetic with a listed operation writes RD its value from the registers as they were, a product
readable 3 DSP cycles on; LDS writes RD the 8 bytes at RA + IMM where the access is allowed and no parity error meets
it, readable 6 DSP cycles on; STS writes the 8 bytes of RB there where the access is allowed, and no other byte of
memory changes; both wait first for the engines that use those bytes. MOVA writes a0 to a11, and a circular register
with a value inside its ring; MOVSA writes RD the address register zero-extended; MOVSB writes RD a ring base or
length; MOVBS in a handler writes it. A write of s0 to s55 in a handler changes no s register, one of a0 to a7 and a12
to a15 no address register. (R113, R114, R118, R127, R132, R134) -/
def Obligations.Scalar_instructions_write_their_destination : Prop :=
  (∀ (c : Fin 8) (op : BitVec 6) (rd ra rb : Fin 64) (i : Bool) (imm : BitVec 32) (s : State) (q : Quire) (v : BitVec 64),
      Issues c 1 (scalarReads op.toNat rd ra rb i) q s →
      scalarOp op.toNat (s.getS c rd) (s.getS c ra) (if i then imm.signExtend 64 else s.getS c rb) imm = some v → op ≠ 8 →
      exec (.scalarArith c op rd ra rb i imm) s = .next (((s.landed c).putS c rd v).past c 1 1))
    ∧ (∀ (c : Fin 8) (rd ra rb : Fin 64) (i : Bool) (imm : BitVec 32) (s : State) (q : Quire),
      Issues c 1 (scalarReads 8 rd ra rb i) q s →
      exec (.scalarArith c 8 rd ra rb i imm) s = .next ((((s.landed c).setCore c (Core.readyIn rd.val 3)).putS c rd
        (s.getS c ra * (if i then imm.signExtend 64 else s.getS c rb))).past c 1 1))
    ∧ (∀ (c : Fin 8) (rd ra : Fin 64) (imm : BitVec 32) (par : Option Nat) (s : State) (q : Quire) (a : Nat), Issues c 1 [ra.val] q s →
      coreAccess (s.landed c) c q (s.getS c ra + imm.signExtend 64).toNat 8 false none = .ok a →
      parityHit (s.landed c) q c 1 par (wordIn · a 8) = false →
      exec (.lds c rd ra imm par) s
        = .next (((((s.landed c).memWait c (s.getS c ra + imm.signExtend 64).toNat 8 false).setCore c (Core.readyIn rd.val 6)).putS c rd
          (BitVec.ofNat 64 (leNat ((s.landed c).coreRd a 8)))).past c 1 1))
    ∧ (∀ (c : Fin 8) (ra rb : Fin 64) (imm : BitVec 32) (s : State) (q : Quire) (a : Nat), Issues c 1 [ra.val, rb.val] q s →
      coreAccess (s.landed c) c q (s.getS c ra + imm.signExtend 64).toNat 8 true none = .ok a →
      exec (.sts c ra rb imm) s = .next ((((s.landed c).memWait c (s.getS c ra + imm.signExtend 64).toNat 8 true).coreWr a
        (toLE 8 (s.getS c rb).toNat)).past c 1 1))
    ∧ (∀ (c : Fin 8) (ra rb : Fin 64) (imm : BitVec 32) (s : State) (q : Quire) (a : Nat), Issues c 1 [ra.val, rb.val] q s →
      coreAccess (s.landed c) c q (s.getS c ra + imm.signExtend 64).toNat 8 true none = .ok a → s.mem.wf = true →
      ∀ t, exec (.sts c ra rb imm) s = .next t → ∀ b : Nat, (b < a ∨ a + 8 ≤ b) → t.mem.byte b = s.mem.byte b)
    ∧ (∀ (c : Fin 8) (rd ra : Fin 64) (s : State) (q : Quire), Issues c 1 [ra.val] q s → rd.val % 16 < 12 →
      exec (.mova c rd ra) s
        = .next (((s.landed c).putA c (rd.val % 16) ((s.getS c ra).extractLsb' 0 32)).past c 1 1))
    ∧ (∀ (c : Fin 8) (rd ra : Fin 64) (s : State) (q : Quire) (r : Run), Issues c 1 [ra.val] q s → 12 ≤ rd.val % 16 →
      (s.core c).ring (rd.val % 16 - 12) = some r → r.base ≤ ((s.getS c ra).extractLsb' 0 32).toNat →
      ((s.getS c ra).extractLsb' 0 32).toNat < r.base + r.len →
      exec (.mova c rd ra) s
        = .next (((s.landed c).putA c (rd.val % 16) ((s.getS c ra).extractLsb' 0 32)).past c 1 1))
    ∧ (∀ (c : Fin 8) (rd ra : Fin 64) (s : State) (q : Quire), Issues c 1 [] q s →
      exec (.movsa c rd ra) s = .next (((s.landed c).putS c rd ((s.getA c (ra.val % 16)).setWidth 64)).past c 1 1))
    ∧ (∀ (c : Fin 8) (rd rb : Fin 64) (s : State) (q : Quire), Issues c 1 [] q s →
      exec (.movsb c rd rb) s = .next (((s.landed c).putS c rd (BitVec.ofNat 64
        (if rb.val % 8 < 4 then tget (s.core c).cx.acb (rb.val % 8) 0 else tget (s.core c).cx.acl (rb.val % 8 - 4) 0))).past
        c 1 1))
    ∧ (∀ (c : Fin 8) (rd ra : Fin 64) (s : State) (q : Quire), Issues c 1 [ra.val] q s → (s.core c).inHandler = true →
      exec (.movbs c rd ra) s = .next ((s.setCore c fun x => { x with cx :=
          if rd.val % 8 < 4 then { x.cx with acb := tset x.cx.acb (rd.val % 8) ((s.getS c ra).toNat % 2 ^ 32) }
          else { x.cx with acl := tset x.cx.acl (rd.val % 8 - 4) ((s.getS c ra).toNat % 2 ^ 32) } }).past c 1 1))
    ∧ (∀ (s : State) (c : Fin 8) (r : Nat) (v : BitVec 64), (s.core c).inHandler = true → r < 56 →
      ((s.putS c r v).core c).cx.s = (s.core c).cx.s)
    ∧ (∀ (s : State) (c : Fin 8) (r : Nat) (v : BitVec 32), (s.core c).inHandler = true → (r < 8 ∨ 11 < r) →
      ((s.putA c r v).core c).cx.a = (s.core c).cx.a)

/-- For the scalar, memory, move, branch and loop instructions, SIG and TAKE: on a core without a live leaf, and on one
that waits outside a handler, nothing changes; where a live leaf outside a handler and a WAIT has its instruction word
outside the quire's code region, the quire faults with SEQ_FETCH (0x43) and the instruction has no other effect.
(R112, R135, R246) -/
def Obligations.Instructions_outside_a_leaf_or_its_code : Prop :=
  ∀ (c : Fin 8) (i : Instr) (s : State),
    (∃ op rd ra rb f imm, i = .scalarArith c op rd ra rb f imm) ∨ (∃ rd ra imm par, i = .lds c rd ra imm par)
      ∨ (∃ ra rb imm, i = .sts c ra rb imm) ∨ (∃ rd ra, i = .mova c rd ra) ∨ (∃ rd ra, i = .movsa c rd ra)
      ∨ (∃ rd rb, i = .movsb c rd rb) ∨ (∃ rd ra, i = .movbs c rd ra) ∨ (∃ op ra rb imm, i = .branch c op ra rb imm)
      ∨ (∃ ra imm n, i = .dloop c ra imm n) ∨ (∃ ra imm, i = .sig c ra imm) ∨ (∃ rd ra imm err, i = .take c rd ra imm err) →
    ((s.core c).leaf = none → exec i s = .next s)
    ∧ ((s.core c).wait ≠ none → (s.core c).inHandler = false → exec i s = .next s)
    ∧ (∀ q, (s.core c).leaf = some q.tag → tget? s.quires q.tag.toNat = some q → (s.core c).wait = none →
      (s.core c).inHandler = false → q.code.len < (s.core c).cx.pc + 8 → exec i s = .next (faultQuire s q.tag 0x43))

/-- For a BRANCH that issues outside a loop: taken, the next word is, modulo 2^64, its own address plus 8 times the signed
IMM, and 2 cycles pass without issue; not taken, the next word follows. For a DLOOP that issues outside a handler with
a legal loop control (LEN 1 to 64, bit 13 clear, fewer than two loops): with count 0 the words of its body are
skipped, which count as LEN instructions of the loop around it; else a loop of LEN instructions is entered whose top
is the next word and which runs count times, in the selected ring. Past an instruction the innermost loop counts it;
past the last of the body it goes back to its top while iterations remain, advancing its ring, with 2 cycles without
issue for an outer loop; after the last iteration the loop is left. (R113, R128, R129) -/
def Obligations.Branches_and_loops_move_the_counter : Prop :=
  (∀ (c : Fin 8) (op : BitVec 6) (ra rb : Fin 64) (imm : BitVec 32) (s : State) (q : Quire),
      Issues c 1 (if op = 0 then [] else [ra.val, rb.val]) q s → (s.core c).loops = [] →
      branchTaken op.toNat (s.getS c ra) (s.getS c rb) = some false →
      exec (.branch c op ra rb imm) s = .next ((s.landed c).past c 1 1))
    ∧ (∀ (c : Fin 8) (op : BitVec 6) (ra rb : Fin 64) (imm : BitVec 32) (s : State) (q : Quire),
      Issues c 1 (if op = 0 then [] else [ra.val, rb.val]) q s → (s.core c).loops = [] →
      branchTaken op.toNat (s.getS c ra) (s.getS c rb) = some true →
      exec (.branch c op ra rb imm) s = .next (((s.landed c).setCore c fun x => { x with
          cx := { x.cx with pc := lowBits 61 ((x.cx.pc / 8 : Nat) + imm.toInt - 1) * 8 }
          now := x.now + 2, issueWait := x.issueWait + 2 }).past c 1 1))
    ∧ (∀ (c : Fin 8) (op : BitVec 6) (ra rb : Fin 64) (imm : BitVec 32) (s t : State) (q : Quire),
      Issues c 1 (if op = 0 then [] else [ra.val, rb.val]) q s → (s.core c).loops = [] → (s.core c).inHandler = false →
      (s.core c).cx.pc % 8 = 0 → (s.core c).cx.pc < 2 ^ 64 →
      branchTaken op.toNat (s.getS c ra) (s.getS c rb) = some true → exec (.branch c op ra rb imm) s = .next t →
      (t.core c).cx.pc = lowBits 64 ((s.core c).cx.pc + 8 * imm.toInt))
    ∧ (∀ (c : Fin 8) (ra : Fin 64) (imm : BitVec 32) (words : Nat) (s : State) (q : Quire), Issues c 1 [ra.val] q s →
      (s.core c).inHandler = false → 1 ≤ bits imm.toNat 0 7 → bits imm.toNat 0 7 ≤ 64 → (s.core c).loops.length < 2 →
      bit imm.toNat 13 = false → (s.getS c ra).toNat % 2 ^ 32 = 0 →
      exec (.dloop c ra imm words) s = .next (((s.landed c).setCore c fun x =>
          { (if loopRing (bits imm.toNat 14 2) = 0 ∨ loopRing (bits imm.toNat 14 2) = x.rsize then x
              else { x with rsize := loopRing (bits imm.toNat 14 2), roff := x.roff % loopRing (bits imm.toNat 14 2) }) with
            cx := { x.cx with pc := x.cx.pc + 8 * words }
            loops := x.loops.map fun y => { y with left := y.left - bits imm.toNat 0 7 } }).past c 1 1))
    ∧ (∀ (c : Fin 8) (ra : Fin 64) (imm : BitVec 32) (words : Nat) (s : State) (q : Quire), Issues c 1 [ra.val] q s →
      (s.core c).inHandler = false → 1 ≤ bits imm.toNat 0 7 → bits imm.toNat 0 7 ≤ 64 → (s.core c).loops.length < 2 →
      bit imm.toNat 13 = false → (s.getS c ra).toNat % 2 ^ 32 ≠ 0 →
      exec (.dloop c ra imm words) s = .next (((s.landed c).setCore c fun x =>
          { (if loopRing (bits imm.toNat 14 2) = 0 ∨ loopRing (bits imm.toNat 14 2) = x.rsize then x
              else { x with rsize := loopRing (bits imm.toNat 14 2), roff := x.roff % loopRing (bits imm.toNat 14 2) }) with
            loops := { top := (s.core c).cx.pc + 8, remaining := (s.getS c ra).toNat % 2 ^ 32, iter := 0,
                       pro := bits imm.toNat 7 3, drn := bits imm.toNat 10 3, len := bits imm.toNat 0 7,
                       left := bits imm.toNat 0 7 + 1, ring := loopRing (bits imm.toNat 14 2) }
              :: x.loops.map fun y => { y with outer := true, left := y.left - 1 } }).past c 1 1))
    ∧ (∀ (x : Core) (l : LoopCtx) (rest : List LoopCtx), x.loops = l :: rest → 1 < l.left →
      loopStep 3 1 x = { x with loops := { l with left := l.left - 1 } :: rest })
    ∧ (∀ (x : Core) (l : LoopCtx) (rest : List LoopCtx), x.loops = l :: rest → l.left = 1 → 1 < l.remaining →
      (loopStep 3 1 x).cx.pc = l.top
        ∧ (loopStep 3 1 x).loops = { l with remaining := l.remaining - 1, iter := l.iter + 1, left := l.len } :: rest
        ∧ (loopStep 3 1 x).roff = (if l.ring = 0 then x.roff else (x.roff + 1) % l.ring)
        ∧ (loopStep 3 1 x).issueWait = x.issueWait + BitVec.ofNat 64 (if l.outer then 2 else 0))
    ∧ (∀ (x : Core) (l : LoopCtx), x.loops = [l] → l.left = 1 → l.remaining ≤ 1 →
      (loopStep 3 1 x).cx.pc = x.cx.pc ∧ (loopStep 3 1 x).loops = [])

/-- For an instruction that issues with a legal amount and an allowed reference: SIG is added to those its leaf holds, and
nothing else changes. TAKE of an object of this chip, read without an integrity error, writes RD the outcome of the
one conditional decrement, readable 12 DSP cycles on, 300 for another cluster (that bound is the model's choice, log
entry 65); where the core's last TAKE found that object EMPTY, the DSP cycles since count as STALL_SYNC_WAIT on both
its engines; pages it takes from a ring count for its slot-reception. TAKE of another chip sends SYNC_TAKE with its
request number and the core goes on. WAIT outside a handler and a loop, on an object of this chip, in a leaf that
holds no SIG, waits for both check barriers and takes as TAKE does where it does not find EMPTY; where it finds EMPTY,
and joint reception does not end it, it is registered and spins. On an object of another chip a leaf that has run
closes first, with no TAKE outstanding: if no suspension is asked for and no other leaf comes first, the next leaf
starts, is registered there and spins; else the core leaves the quire at that boundary. A WAIT on another chip as its
leaf's first instruction, with no SIG held, closes no leaf (DEDUCED, log entry 66). (R114, R119, R223, R227, R253,
R254, R255, R256, R258, R263) -/
def Obligations.Sync_instructions_of_a_leaf : Prop :=
  (∀ (c : Fin 8) (ra : Fin 64) (imm : BitVec 32) (s : State) (q : Quire), Issues c 1 [ra.val] q s →
      imm.extractLsb' 0 16 ≠ 0#16 → imm.extractLsb' 16 16 = 0#16 → refOk (s.landed c) q (s.getS c ra) = true →
      exec (.sig c ra imm) s
        = .next (((s.landed c).setCore c fun x => { x with sigs := x.sigs ++ [(s.getS c ra, imm.setWidth 32)] }).past c 1 1))
    ∧ (∀ (c : Fin 8) (rd ra : Fin 64) (imm : BitVec 32) (err : SyncError) (s u : State) (q : Quire) (o : TakeOut), Issues c 1 [ra.val] q s →
      imm.extractLsb' 0 16 ≠ 0#16 → imm.extractLsb' 16 16 = 0#16 → refOk (s.landed c) q (s.getS c ra) = true →
      refRemote s (s.getS c ra) = false → o.st ≠ .integrity →
      takeObj (meetError (s.landed c) (refCluster c (s.getS c ra)) (ObjRef.of (s.getS c ra)).index err)
        (refCluster c (s.getS c ra)) (ObjRef.of (s.getS c ra)).index (ObjRef.of (s.getS c ra)).tag (imm.extractLsb' 0 16) = (o, u) →
      exec (.take c rd ra imm err) s
        = .next (((countRetry c (s.getS c ra) (o.st == .empty)
            ((notePages u q.tag (ObjRef.of (s.getS c ra)).index (imm.extractLsb' 0 16) o).setCore c
              (Core.readyIn rd.val (takeTime c (s.getS c ra))))).putS c rd (o.word (ObjRef.of (s.getS c ra)).far)).past c 1 1))
    ∧ (∀ (c : Fin 8) (ref : BitVec 64) (empty : Bool) (s : State) (e : Fin 2) (t : Nat), (s.core c).retry = some (ref, t) →
      ((countRetry c ref empty s).eng (2 * c.val + e.val)).ctrs[4]
        = (s.eng (2 * c.val + e.val)).ctrs[4] + BitVec.ofNat 64 ((s.core c).now - t))
    ∧ (∀ (c : Fin 8) (ref : BitVec 64), takeTime c ref = if refCluster c ref = clOfCore c then 12 else 300)
    ∧ (∀ (c : Fin 8) (rd ra : Fin 64) (imm : BitVec 32) (err : SyncError) (s : State) (q : Quire), Issues c 1 [ra.val] q s →
      imm.extractLsb' 0 16 ≠ 0#16 → imm.extractLsb' 16 16 = 0#16 → refOk (s.landed c) q (s.getS c ra) = true →
      refRemote s (s.getS c ra) = true →
      exec (.take c rd ra imm err) s
        = .next ((sendTake (s.landed c) c rd (s.getS c ra) (imm.extractLsb' 0 16)).past c 1 1))
    ∧ (∀ (c : Fin 8) (rd ra : Fin 64) (imm : BitVec 32) (err : SyncError) (s s0 u : State) (q : Quire) (o : TakeOut), Issues c 0 [ra.val] q s →
      (s.core c).inHandler = false → (s.core c).cx.pc + 8 ≤ q.code.len → imm.extractLsb' 0 16 ≠ 0#16 →
      (s.core c).loops = [] → (s.core c).sigs = [] → refOk (s.landed c) q (s.getS c ra) = true →
      refRemote s (s.getS c ra) = false → s0 = (s.landed c).waitCore c ((s.landed c).barrierAt c) →
      takeObj (meetError s0 (refCluster c (s.getS c ra)) (ObjRef.of (s.getS c ra)).index err)
        (refCluster c (s.getS c ra)) (ObjRef.of (s.getS c ra)).index (ObjRef.of (s.getS c ra)).tag (imm.extractLsb' 0 16) = (o, u) →
      o.st ≠ .empty → o.st ≠ .integrity →
      exec (.wait c rd ra imm err) s
        = .next ((((notePages u q.tag (ObjRef.of (s.getS c ra)).index (imm.extractLsb' 0 16) o).putS c rd
            (o.word (ObjRef.of (s.getS c ra)).far)).setCore c (issued 1 1)).past c 0 0))
    ∧ (∀ (c : Fin 8) (rd ra : Fin 64) (imm : BitVec 32) (err : SyncError) (s s0 u : State) (q : Quire) (o : TakeOut), Issues c 0 [ra.val] q s →
      (s.core c).inHandler = false → (s.core c).cx.pc + 8 ≤ q.code.len → imm.extractLsb' 0 16 ≠ 0#16 →
      (s.core c).loops = [] → (s.core c).sigs = [] → refOk (s.landed c) q (s.getS c ra) = true →
      refRemote s (s.getS c ra) = false → s0 = (s.landed c).waitCore c ((s.landed c).barrierAt c) →
      takeObj (meetError s0 (refCluster c (s.getS c ra)) (ObjRef.of (s.getS c ra)).index err)
        (refCluster c (s.getS c ra)) (ObjRef.of (s.getS c ra)).index (ObjRef.of (s.getS c ra)).tag (imm.extractLsb' 0 16) = (o, u) →
      o.st = .empty →
      ((ObjRef.of (s.getS c ra)).tag ≠ 0 ∨ jrEnds s0 q (ObjRef.of (s.getS c ra)).index = none
        ∨ jrEnds s0 q (ObjRef.of (s.getS c ra)).index = some (false, false)) →
      exec (.wait c rd ra imm err) s = .next ((spinLocal u c rd (s.getS c ra) (imm.extractLsb' 0 16)
        (imm.extractLsb' 16 16)).past c 0 0))
    ∧ (∀ (c : Fin 8) (rd ra : Fin 64) (imm : BitVec 32) (s s0 s1 : State) (q : Quire), Issues c 0 [ra.val] q s →
      (s.core c).inHandler = false → (s.core c).cx.pc + 8 ≤ q.code.len → imm.extractLsb' 0 16 ≠ 0#16 →
      (s.core c).loops = [] → (s.core c).takes = [] → refOk (s.landed c) q (s.getS c ra) = true →
      refRemote s (s.getS c ra) = true → 0 < (s.core c).cycle →
      s0 = (s.landed c).waitCore c ((s.landed c).enginesDone c) → s1 = holdReady (closeLeaf s0 q c (s0.core c).ran) q.tag →
      (wantsSuspend s1 q c = false → passedOver s1 q c = false →
        exec (.remoteWait c rd ra imm) s = .next ((spinRemote (startLeaf s1 c q.tag true) c q rd (s.getS c ra)
          (imm.extractLsb' 0 16) (imm.extractLsb' 16 16)).past c 0 0))
      ∧ (wantsSuspend s1 q c = true ∨ passedOver s1 q c = true →
        exec (.remoteWait c rd ra imm) s = .next (leaveCore s1 q c)))
    ∧ (∀ (c : Fin 8) (rd ra : Fin 64) (imm : BitVec 32) (s : State) (q : Quire), Issues c 0 [ra.val] q s →
      (s.core c).inHandler = false → (s.core c).cx.pc + 8 ≤ q.code.len → imm.extractLsb' 0 16 ≠ 0#16 →
      (s.core c).loops = [] → (s.core c).sigs = [] → refOk (s.landed c) q (s.getS c ra) = true →
      refRemote s (s.getS c ra) = true → (s.core c).cycle = 0 →
      exec (.remoteWait c rd ra imm) s = .next ((spinRemote ((s.landed c).waitCore c ((s.landed c).barrierAt c)) c q rd
        (s.getS c ra) (imm.extractLsb' 0 16) (imm.extractLsb' 16 16)).past c 0 0))

/-- LEAF_END of a leaf outside a handler and a loop: with a TAKE outstanding the core retries a cycle; else it waits for
its engines and closes the leaf: held SIGs are released, its cycles (no fewer than the operand says) are charged, its
core's leaf index advances, the live extents are kept, and downlink symbols that have become ready are held for
sending. Where every core has ended its last leaf the quire ends; else the core leaves the quire at the boundary.
OVERRUN comes at 10,000 DSP cycles and is taken once a leaf: outside a handler it enters the handler in 6 cycles with
the shadow registers switched and is counted for the consumer; in a handler it is held. RETI in a handler switches
back in 4 cycles; then a PREEMPT held above a remote wait is taken, else an OVERRUN that was held; RETI in a leaf is
SEQ_ILLEGAL (0x41). PREEMPT in a remote wait outside a handler keeps the context and suspends the quire; at any other
time it is held. LEAF_TIMEOUT faults the quire with code 0x61. (R119, R133, R134, R223, R240, R241) -/
def Obligations.Leaves_end_and_handlers_return : Prop :=
  (∀ (c : Fin 8) (cycles : Nat) (last : Bool) (live : List Extent) (s s0 u : State) (q q1 : Quire), Issues c 0 [] q s →
      (s.core c).inHandler = false → (s.core c).cx.pc + 8 ≤ q.code.len → (s.core c).loops = [] → (s.core c).takes = [] →
      s0 = ((s.landed c).waitCore c ((s.landed c).enginesDone c)).setCore c (issued 1 1) →
      u = (closeLeaf s0 q c (max cycles (s0.core c).ran)).setQuire q.tag.toNat (fun q => { q with
        live := live, done0 := q.done0 || (last && c.val % 2 == 0), done1 := q.done1 || (last && c.val % 2 == 1) }) →
      tget? u.quires q.tag.toNat = some q1 → q1.tag = q.tag →
      (q1.finished = true → exec (.leafEnd c cycles last live) s
        = .next (holdReady (endQuire (u.setCore c fun x => { x with leaf := none, preempt := false }) q.tag) q.tag))
      ∧ (q1.finished = false → exec (.leafEnd c cycles last live) s
        = .next (holdReady (freeLeafThread (leaveCore u q1 c) q1 c) q.tag)))
    ∧ (∀ (c : Fin 8) (cycles : Nat) (last : Bool) (live : List Extent) (s : State) (q : Quire), Issues c 0 [] q s →
      (s.core c).inHandler = false → (s.core c).cx.pc + 8 ≤ q.code.len → (s.core c).loops = [] → (s.core c).takes ≠ [] →
      exec (.leafEnd c cycles last live) s = .next (((s.landed c).takeRetry c).past c 0 0))
    ∧ (∀ (s : State) (q : Quire) (c : Fin 8) (n : Nat), closeLeaf s q c n
      = (clearMismatches (chargeLeaf (releaseSigs (noteStatus s q c 0) c) q c n) c).setQuire q.tag.toNat fun q =>
          if c.val % 2 = 0 then { q with leaf0 := q.leaf0 + 1, par0 := {} } else { q with leaf1 := q.leaf1 + 1, par1 := {} })
    ∧ (∀ (c : Fin 8) (s : State) (q : Quire), (s.core c).leaf = some q.tag → tget? s.quires q.tag.toNat = some q →
      (s.core c).overrun = false → (s.core c).inHandler = false →
      exec (.overrun c) s = .next (((s.waitCore c 10000).setCore c fun x => Core.idle 6 { swapShadow x with
          inHandler := true, overrun := true, overrunHeld := false }).account q.cluster
        q.consumer fun a => { a with overruns := a.overruns + 1 }))
    ∧ (∀ (c : Fin 8) (s : State) (q : Quire), (s.core c).leaf = some q.tag → tget? s.quires q.tag.toNat = some q →
      (s.core c).overrun = false → (s.core c).inHandler = true →
      exec (.overrun c) s = .next ((s.waitCore c 10000).setCore c fun x => { x with overrunHeld := true }))
    ∧ (∀ (c : Fin 8) (s : State) (q : Quire), (s.core c).leaf = some q.tag → tget? s.quires q.tag.toNat = some q →
      (s.core c).overrun = true → exec (.overrun c) s = .next s)
    ∧ (∀ (c : Fin 8) (s u : State) (q : Quire), (s.core c).leaf = some q.tag → tget? s.quires q.tag.toNat = some q →
      (s.core c).inHandler = true → u = (s.setCore c fun x => Core.idle 4 { swapShadow x with inHandler := false }) →
      (((s.core c).preempt = false ∨ (s.core c).remoteWait = false) → (s.core c).overrunHeld = false → exec (.reti c) s = .next u)
      ∧ ((s.core c).preempt = true → (s.core c).remoteWait = true → exec (.reti c) s = .next (takePreempt u c q))
      ∧ (((s.core c).preempt = false ∨ (s.core c).remoteWait = false) → (s.core c).overrunHeld = true →
        exec (.reti c) s = .next (enterOverrun u c q)))
    ∧ (∀ (c : Fin 8) (s : State) (q : Quire), (s.core c).leaf = some q.tag → tget? s.quires q.tag.toNat = some q →
      (s.core c).inHandler = false → exec (.reti c) s = .next (faultQuire s q.tag 0x41))
    ∧ (∀ (c : Fin 8) (s : State) (q : Quire), (s.core c).leaf = some q.tag → tget? s.quires q.tag.toNat = some q →
      ((s.core c).remoteWait = false ∨ (s.core c).inHandler = true) →
      exec (.preempt c) s = .next (s.setCore c fun x => { x with preempt := true }))
    ∧ (∀ (c : Fin 8) (s u : State) (q : Quire), (s.core c).leaf = some q.tag → tget? s.quires q.tag.toNat = some q →
      (s.core c).remoteWait = true → (s.core c).inHandler = false → s.liveOn (otherCore c) q.tag = false →
      u = s.setCore c (Core.idle 6) →
      exec (.preempt c) s = .next (suspendQuire ((keepContext (chargeLeaf u q c (u.core c).ran) q c).setCore c fun x =>
        { x with leaf := none, wait := none, preempt := false }) q.tag))
    ∧ (∀ (c : Fin 8) (s : State) (tag : BitVec 16), (s.core c).leaf = some tag →
      exec (.leafTimeout c) s = .next (faultQuire s tag 0x61))

/-- For an instruction that issues on an engine in service, with no fault condition and no parity error, after the waits
of the timing model: ARRAY_MODE sets the mode and invalidates the tile; ARRAY_LOAD with a mode set, an address at a
multiple of 64, a stride of at least 4 rows of 64 bytes and its rows inside the scratchpad window takes the tile from
those rows and raises INVALID for a signalling NaN; ARRAY_STREAM runs its vectors on the tile; ARRAY_DRAIN writes its
output rows, with the flags of their conversions, and the rows that CLR writes count as written by the leaf. An
ARRAY_STREAM with count 0, ACC_OP 3, more than 256 active lanes or no valid tile has fault 0x22; one without these
whose vectors start off a multiple of 64 has 0x23. The order of several fault conditions is the model's choice (log
entry 65). (R65, R66, R68, R69, R70, R72, R74, R75) -/
def Obligations.The_matrix_array_runs_its_operations : Prop :=
  (∀ (c : Fin 8) (eng : Bool) (sa : Fin 64) (s : State) (q : Quire), IssuesEng c eng sa 1 1 q s →
      arrayModeFault (arrayModeOf (s.getS c sa.val).toNat) = none →
      exec (.arrayMode c eng sa) s = .next (((timeMode (s.landed c) c (engOf c eng)).setEng (engOf c eng) fun e =>
        { e with mode := some (arrayModeOf (s.getS c sa.val).toNat), tileValid := false, tileReload := false, tile := [],
                 issued := e.issued + 1 }).past c 1 1))
    ∧ (∀ (c : Fin 8) (eng : Bool) (sa : Fin 64) (par : Option Nat) (s : State) (q : Quire) (m : ArrayMode) (w addr : Nat) (stride lo hi : Int),
      IssuesEng c eng sa 1 1 q s → (s.eng (engOf c eng)).mode = some m → w = (s.getS c sa.val).toNat → addr = bits w 0 22 →
      stride = sx 16 (bits w 22 16) → strideSpan addr (64 * stride) (if m.isComplex then 128 else 256) 256 = (lo, hi) →
      addr % 64 = 0 → 4 ≤ stride.natAbs → q.spadWin.holds lo hi = true →
      parityHit (s.landed c) q c 1 par (loadReads (engOf c eng) m addr stride) = false →
      exec (.arrayLoad c eng sa par) s = .next (((timeLoad (s.landed c) c (engOf c eng) (loadSpans m addr stride)).setEng (engOf c eng) fun x =>
        { x with
          tile := tileOf m (weightRows (s.landed c) (engOf c eng) m addr stride)
          tileValid := true
          tileReload := false
          wAddr := addr
          wStride := stride
          flags := x.flags.or (stInval ((weightRows (s.landed c) (engOf c eng) m addr stride).any (anySnan m.wfmt)))
          issued := x.issued + 1 }).past
        c 1 1))
    ∧ (∀ (c : Fin 8) (eng : Bool) (sa : Fin 64) (par : Option Nat) (s : State) (q : Quire) (m : ArrayMode) (o : StreamOps),
      IssuesEng c eng sa 2 1 q s → (s.eng (engOf c eng)).mode = some m →
      o = streamOpsOf (s.getS c sa.val).toNat (s.getS c (sa.val + 1)).toNat → streamFault q (s.eng (engOf c eng)) m o = none →
      parityHit (s.landed c) q c 1 par (streamReads (s.eng (engOf c eng)) (engOf c eng) m o) = false →
      exec (.arrayStream c eng sa par) s = .next ((runStream (s.landed c) c (engOf c eng) m o).past c 1 1))
    ∧ (∀ (c : Fin 8) (eng : Bool) (sa : Fin 64) (par : Option Nat) (s u : State) (q : Quire) (o : DrainOps) (fl : Sticky),
      IssuesEng c eng sa 2 1 q s →
      o = drainOpsOf (s.getS c sa.val).toNat (s.getS c (sa.val + 1)).toNat → drainFault q (s.eng (engOf c eng)) o = none →
      drainGo o (engOf c eng) o.rows 0 (timeDrain (s.landed c) c (engOf c eng) (ceilDiv o.rowBytes 256) (drainSpans o), {}) = (u, fl) →
      parityHit (s.landed c) q c 1 par (drainReads (engOf c eng) o) = false →
      exec (.arrayDrain c eng sa par) s = .next ((u.setEng (engOf c eng) fun x => { x with
          flags := x.flags.or fl
          written := (if o.clr = 0 then [] else (List.range o.rows).flatMap fun r => rowUnits (!o.flt) (o.base + r * o.stride))
            ++ x.written
          issued := x.issued + 1 }).past c 1 1))
    ∧ (∀ (q : Quire) (e : Engine) (m : ArrayMode) (o : StreamOps),
      (o.count = 0 ∨ o.op = 3 ∨ 256 < o.active ∨ e.tileValid = false → streamFault q e m o = some 0x22)
      ∧ (o.count ≠ 0 → o.op ≠ 3 → o.active ≤ 256 → (m.isComplex = true → o.active % 2 = 0) → e.tileValid = true →
        o.xAddr % 64 ≠ 0 → streamFault q e m o = some 0x23))

/-- For each of the 17 register-mode vector instructions that issues on an engine in service with a word of its row, legal
and of a legal format: after the waits of the timing model its effect is that of its class, and the core goes on past
two words with 2 issue cycles. The effect of every class but RED, the mask class and the lane moves: each active lane
of a vector destination takes the first result of its stage from the lanes of the sources, each other lane is 0 with
MZ set and as it was without; every other vector register (but the second destination of UNPACKC), every mask register
and all of memory are as before; CMP writes a mask register and no vector register. With a word of another row, or an
illegal one, the instruction faults its quire with VEC_ILLEGAL (0x32), with a wrong format with VEC_FORMAT (0x31); a
retired engine takes none. (R86, R93, R95, R98, R101, R102, R110, R115, R116) -/
def Obligations.Vector_instructions_run_in_register_mode : Prop :=
  (∀ (c : Fin 8) (eng : Bool) (reg : Byte) (mask : Fin 8) (mz : Bool) (w : BitVec 64) (s : State) (q : Quire) (u : State) (i : Instr),
      ((i = .vecIntArith c eng reg mask mz w ∧ (stgOf w).cls = 0)
        ∨ (i = .vecLogic c eng reg mask mz w ∧ (stgOf w).cls = 1)
        ∨ (i = .vecFloatArith c eng reg mask mz w ∧ (stgOf w).cls = 2)
        ∨ (i = .vecFdivRoot c eng reg mask mz w ∧ (stgOf w).cls = 3)
        ∨ (i = .vecComplexArith c eng reg mask mz w ∧ (stgOf w).cls = 4)
        ∨ (i = .cmp c eng reg mask mz w ∧ (stgOf w).cls = 5)
        ∨ (i = .sel c eng reg mask mz w ∧ (stgOf w).cls = 6)
        ∨ (i = .cvt c eng reg mask mz w ∧ (stgOf w).cls = 7)
        ∨ (i = .act c eng reg mask mz w ∧ (stgOf w).cls = 8)
        ∨ (i = .perm c eng reg mask mz w ∧ (stgOf w).opc = 0x90)
        ∨ (i = .shuf c eng reg mask mz w ∧ (stgOf w).opc = 0x91)
        ∨ (i = .packc c eng reg mask mz w ∧ (stgOf w).opc = 0x92)
        ∨ (i = .unpackc c eng reg mask mz w ∧ (stgOf w).opc = 0x93)) →
      Issues c 2 (sRegs (stgOf w).srcs) q s → (s.eng (engOf c eng)).retired = false →
      (stgOf w).illegal (s.eng (engOf c eng)).acts reg.toNat = false → (stgOf w).formatOk = true →
      u = timeVec (s.landed c) c (engOf c eng) (stgOf w).cost ((0x70 + mask.val) :: (stgOf w).srcs) ((stgOf w).writes reg.toNat) →
      exec i s = .next ((regLanes (stgOf w) (engOf c eng) c reg.toNat ((s.eng (engOf c eng)).getM mask.val) mz u).past c 2 2))
    ∧ (∀ (c : Fin 8) (eng : Bool) (reg : Byte) (mask : Fin 8) (mz : Bool) (w : BitVec 64) (s : State) (q : Quire) (u : State), (stgOf w).cls = 10 →
      Issues c 2 (sRegs (stgOf w).srcs) q s → (s.eng (engOf c eng)).retired = false →
      (stgOf w).illegal (s.eng (engOf c eng)).acts reg.toNat = false → (stgOf w).formatOk = true →
      u = timeVec (s.landed c) c (engOf c eng) (stgOf w).cost ((0x70 + mask.val) :: (stgOf w).srcs) ((stgOf w).writes reg.toNat) →
      exec (.red c eng reg mask mz w) s = .next ((regRed (stgOf w) (engOf c eng) c reg.toNat
        ((s.eng (engOf c eng)).getM mask.val) u).past c 2 2))
    ∧ (∀ (c : Fin 8) (eng : Bool) (reg : Byte) (mask : Fin 8) (mz : Bool) (w : BitVec 64) (s : State) (q : Quire) (u : State), (stgOf w).cls = 11 →
      Issues c 2 (sRegs (stgOf w).srcs) q s → (s.eng (engOf c eng)).retired = false →
      (stgOf w).illegal (s.eng (engOf c eng)).acts reg.toNat = false → (stgOf w).formatOk = true →
      u = timeVec (s.landed c) c (engOf c eng) (stgOf w).cost ((0x70 + mask.val) :: (stgOf w).srcs) ((stgOf w).writes reg.toNat) →
      exec (.maskOp c eng reg mask mz w) s = .next ((maskRun (stgOf w) (engOf c eng) c reg.toNat
        ((s.eng (engOf c eng)).getM mask.val) mz u).past c 2 2))
    ∧ (∀ (c : Fin 8) (eng : Bool) (reg : Byte) (mask : Fin 8) (mz : Bool) (w : BitVec 64) (s : State) (q : Quire) (u : State) (i : Instr),
      ((i = .ins c eng reg mask mz w ∧ (stgOf w).opc = 0xC0)
        ∨ (i = .ext c eng reg mask mz w ∧ (stgOf w).opc = 0xC1)) →
      Issues c 2 (sRegs (stgOf w).srcs) q s → (s.eng (engOf c eng)).retired = false →
      (stgOf w).illegal (s.eng (engOf c eng)).acts reg.toNat = false → (stgOf w).formatOk = true →
      u = timeVec (s.landed c) c (engOf c eng) (stgOf w).cost ((0x70 + mask.val) :: (stgOf w).srcs) ((stgOf w).writes reg.toNat) →
      exec i s = .next ((laneMove (stgOf w) (engOf c eng) c reg.toNat ((s.eng (engOf c eng)).getM mask.val) mz u).past c 2 2))
    ∧ (∀ (t : Stg) (e reg gm i : Nat) (c : Fin 8) (mz : Bool) (s : State), e < 16 → t.cls ≠ 5 → t.isUnpack = false → i < 64 →
      ((((regLanes t e c reg gm mz s).eng e).getV reg).getD i 0
        = if bit gm i then (stageLane t (s.eng e).acts
              ((⟨s.eng e, s.core c, [], [], []⟩ : VEnv).lanes t.a (t.srcRf 0) t.imm)
              ((⟨s.eng e, s.core c, [], [], []⟩ : VEnv).lanes t.b (t.srcRf 1) t.imm)
              ((⟨s.eng e, s.core c, [], [], []⟩ : VEnv).lanes t.c (t.srcRf 2) t.imm) i).1
          else if mz then 0 else ((s.eng e).getV reg).getD i 0))
    ∧ (∀ (t : Stg) (e reg gm : Nat) (c : Fin 8) (mz : Bool) (s : State), e < 16 →
      (regLanes t e c reg gm mz s).mem = s.mem ∧ (regLanes t e c reg gm mz s).cores = s.cores
        ∧ (t.cls = 5 → ((regLanes t e c reg gm mz s).eng e).v = (s.eng e).v)
        ∧ (t.cls ≠ 5 → ((regLanes t e c reg gm mz s).eng e).m = (s.eng e).m
          ∧ ∀ r, r ≠ reg → (t.isUnpack = true → r ≠ t.b) →
            ((regLanes t e c reg gm mz s).eng e).getV r = (s.eng e).getV r))
    ∧ (∀ (c : Fin 8) (eng : Bool) (reg : Byte) (mask : Fin 8) (mz : Bool) (w : BitVec 64) (s : State) (q : Quire) (i : Instr), Issues c 2 (sRegs (stgOf w).srcs) q s → (s.eng (engOf c eng)).retired = false →
      q.state ≠ .ended → q.state ≠ .faulted →
      (((i = .vecIntArith c eng reg mask mz w ∧ (((stgOf w).cls ≠ 0) ∨ (stgOf w).illegal (s.eng (engOf c eng)).acts reg.toNat = true))
        ∨ (i = .vecLogic c eng reg mask mz w ∧ (((stgOf w).cls ≠ 1) ∨ (stgOf w).illegal (s.eng (engOf c eng)).acts reg.toNat = true))
        ∨ (i = .vecFloatArith c eng reg mask mz w ∧ (((stgOf w).cls ≠ 2) ∨ (stgOf w).illegal (s.eng (engOf c eng)).acts reg.toNat = true))
        ∨ (i = .vecFdivRoot c eng reg mask mz w ∧ (((stgOf w).cls ≠ 3) ∨ (stgOf w).illegal (s.eng (engOf c eng)).acts reg.toNat = true))
        ∨ (i = .vecComplexArith c eng reg mask mz w ∧ (((stgOf w).cls ≠ 4) ∨ (stgOf w).illegal (s.eng (engOf c eng)).acts reg.toNat = true))
        ∨ (i = .cmp c eng reg mask mz w ∧ (((stgOf w).cls ≠ 5) ∨ (stgOf w).illegal (s.eng (engOf c eng)).acts reg.toNat = true))
        ∨ (i = .sel c eng reg mask mz w ∧ (((stgOf w).cls ≠ 6) ∨ (stgOf w).illegal (s.eng (engOf c eng)).acts reg.toNat = true))
        ∨ (i = .cvt c eng reg mask mz w ∧ (((stgOf w).cls ≠ 7) ∨ (stgOf w).illegal (s.eng (engOf c eng)).acts reg.toNat = true))
        ∨ (i = .act c eng reg mask mz w ∧ (((stgOf w).cls ≠ 8) ∨ (stgOf w).illegal (s.eng (engOf c eng)).acts reg.toNat = true))
        ∨ (i = .perm c eng reg mask mz w ∧ (((stgOf w).opc ≠ 0x90) ∨ (stgOf w).illegal (s.eng (engOf c eng)).acts reg.toNat = true))
        ∨ (i = .shuf c eng reg mask mz w ∧ (((stgOf w).opc ≠ 0x91) ∨ (stgOf w).illegal (s.eng (engOf c eng)).acts reg.toNat = true))
        ∨ (i = .packc c eng reg mask mz w ∧ (((stgOf w).opc ≠ 0x92) ∨ (stgOf w).illegal (s.eng (engOf c eng)).acts reg.toNat = true))
        ∨ (i = .unpackc c eng reg mask mz w ∧ (((stgOf w).opc ≠ 0x93) ∨ (stgOf w).illegal (s.eng (engOf c eng)).acts reg.toNat = true))
        ∨ (i = .red c eng reg mask mz w ∧ (((stgOf w).cls ≠ 10) ∨ (stgOf w).illegal (s.eng (engOf c eng)).acts reg.toNat = true))
        ∨ (i = .maskOp c eng reg mask mz w ∧ (((stgOf w).cls ≠ 11) ∨ (stgOf w).illegal (s.eng (engOf c eng)).acts reg.toNat = true))
        ∨ (i = .ins c eng reg mask mz w ∧ (((stgOf w).opc ≠ 0xC0) ∨ (stgOf w).illegal (s.eng (engOf c eng)).acts reg.toNat = true))
        ∨ (i = .ext c eng reg mask mz w ∧ (((stgOf w).opc ≠ 0xC1) ∨ (stgOf w).illegal (s.eng (engOf c eng)).acts reg.toNat = true))) →
        exec i s = .next (faultQuire (s.landed c) q.tag 0x32))
      ∧ (((i = .vecIntArith c eng reg mask mz w ∧ (stgOf w).cls = 0)
        ∨ (i = .vecLogic c eng reg mask mz w ∧ (stgOf w).cls = 1)
        ∨ (i = .vecFloatArith c eng reg mask mz w ∧ (stgOf w).cls = 2)
        ∨ (i = .vecFdivRoot c eng reg mask mz w ∧ (stgOf w).cls = 3)
        ∨ (i = .vecComplexArith c eng reg mask mz w ∧ (stgOf w).cls = 4)
        ∨ (i = .cmp c eng reg mask mz w ∧ (stgOf w).cls = 5)
        ∨ (i = .sel c eng reg mask mz w ∧ (stgOf w).cls = 6)
        ∨ (i = .cvt c eng reg mask mz w ∧ (stgOf w).cls = 7)
        ∨ (i = .act c eng reg mask mz w ∧ (stgOf w).cls = 8)
        ∨ (i = .perm c eng reg mask mz w ∧ (stgOf w).opc = 0x90)
        ∨ (i = .shuf c eng reg mask mz w ∧ (stgOf w).opc = 0x91)
        ∨ (i = .packc c eng reg mask mz w ∧ (stgOf w).opc = 0x92)
        ∨ (i = .unpackc c eng reg mask mz w ∧ (stgOf w).opc = 0x93)
        ∨ (i = .red c eng reg mask mz w ∧ (stgOf w).cls = 10)
        ∨ (i = .maskOp c eng reg mask mz w ∧ (stgOf w).cls = 11)
        ∨ (i = .ins c eng reg mask mz w ∧ (stgOf w).opc = 0xC0)
        ∨ (i = .ext c eng reg mask mz w ∧ (stgOf w).opc = 0xC1)) →
        (stgOf w).illegal (s.eng (engOf c eng)).acts reg.toNat = false → (stgOf w).formatOk = false →
        exec i s = .next (faultQuire (s.landed c) q.tag 0x31)))
    ∧ (∀ (c : Fin 8) (eng : Bool) (reg : Byte) (mask : Fin 8) (mz : Bool) (w : BitVec 64) (s : State) (q : Quire) (i : Instr), Issues c 2 (sRegs (stgOf w).srcs) q s → (s.eng (engOf c eng)).retired = true →
      ((i = .vecIntArith c eng reg mask mz w ∧ True)
        ∨ (i = .vecLogic c eng reg mask mz w ∧ True)
        ∨ (i = .vecFloatArith c eng reg mask mz w ∧ True)
        ∨ (i = .vecFdivRoot c eng reg mask mz w ∧ True)
        ∨ (i = .vecComplexArith c eng reg mask mz w ∧ True)
        ∨ (i = .cmp c eng reg mask mz w ∧ True)
        ∨ (i = .sel c eng reg mask mz w ∧ True)
        ∨ (i = .cvt c eng reg mask mz w ∧ True)
        ∨ (i = .act c eng reg mask mz w ∧ True)
        ∨ (i = .perm c eng reg mask mz w ∧ True)
        ∨ (i = .shuf c eng reg mask mz w ∧ True)
        ∨ (i = .packc c eng reg mask mz w ∧ True)
        ∨ (i = .unpackc c eng reg mask mz w ∧ True)
        ∨ (i = .red c eng reg mask mz w ∧ True)
        ∨ (i = .maskOp c eng reg mask mz w ∧ True)
        ∨ (i = .ins c eng reg mask mz w ∧ True)
        ∨ (i = .ext c eng reg mask mz w ∧ True)) →
      exec i s = .next ((s.landed c).past c 2 2))

/-- For an instruction that issues on an engine in service and meets no parity error, after the waits of the timing model:
a VLD with no fault writes the loaded elements to its active lanes and leaves the others; a VST with a k of at most 47
and no fault stores its active elements, and every byte outside them is as before; an ACTLD of an aligned table in the
window that passes its check loads it; a CHAIN with no fault condition runs. A VLD or VST with a fault condition of
its access, a VST with a larger k, an ACTLD off a multiple of 64, outside the window or of a table that fails its
check, and a CHAIN with a fault condition fault their quire with its code. A chain with no stage, more than 8, a COUNT
of 0 or a LAST out of 1 to 64 has 0x32; one legal in this with a wrong format has 0x31; one legal and of a right
format with a stream that is not aligned has 0x33. (R91, R96, R97, R98, R101, R102, R107, R108, R451) -/
def Obligations.Vector_memory_and_chains_run : Prop :=
  (∀ (c : Fin 8) (eng : Bool) (sa : Fin 64) (reg : Byte) (mask : Fin 8) (w : BitVec 64) (par : Option Nat) (s : State) (q : Quire)
      (x : StreamW) (gm : Nat) (l : List Nat) (f : Sticky), Issues c 2 [sa.val] q s → (s.eng (engOf c eng)).retired = false →
      x = streamWOf (s.getS c sa.val).toNat → gm = (s.eng (engOf c eng)).getM mask.val →
      accessFault q (s.eng (engOf c eng)) x reg.toNat gm false = none →
      loadLanes (s.landed c) (engOf c eng) x.fmt x.addr x.stride gm = (l, f) →
      parityHit (s.landed c) q c 2 par (lanesRead (engOf c eng) x x.addr x.stride gm false) = false →
      exec (.vld c eng sa reg mask w par) s = .next (((timeAccess (s.landed c) c (engOf c eng) false reg.toNat
        (bankExtra x.addr x.stride gm) (laneSpans x gm)).setEng (engOf c eng) fun y =>
          (y.addFlags f).setV reg.toNat gm false l).past c 2 2))
    ∧ (∀ (c : Fin 8) (eng : Bool) (sa : Fin 64) (reg : Byte) (mask : Fin 8) (w : BitVec 64) (par : Option Nat) (s u : State) (q : Quire)
      (x : StreamW) (gm : Nat) (f : Sticky), Issues c 2 [sa.val] q s → (s.eng (engOf c eng)).retired = false →
      x = streamWOf (s.getS c sa.val).toNat → gm = (s.eng (engOf c eng)).getM mask.val →
      accessFault q (s.eng (engOf c eng)) x reg.toNat gm true = none → (stgOf w).k ≤ 47 →
      storeLanes (timeAccess (s.landed c) c (engOf c eng) true reg.toNat (bankExtra x.addr x.stride gm) (laneSpans x gm))
        (engOf c eng) x.fmt (stgOf w).k (stgOf w).sat x.addr x.stride gm ((s.eng (engOf c eng)).getV reg.toNat) = (u, f) →
      parityHit (s.landed c) q c 2 par (lanesRead (engOf c eng) x x.addr x.stride gm true) = false →
      exec (.vst c eng sa reg mask w par) s = .next ((u.setEng (engOf c eng) (Engine.addFlags · f)).past c 2 2))
    ∧ (∀ (s : State) (e f k : Nat) (sat : Bool) (addr stride : Int) (gm : Nat) (l : List Nat) (b : Nat), s.mem.wf = true →
      (∀ i < 64, bit gm i = true → b < spadAt e + (addr + (i : Int) * stride).toNat
        ∨ spadAt e + (addr + (i : Int) * stride).toNat + fmtBytes f ≤ b) →
      (storeLanes s e f k sat addr stride gm l).1.mem.byte b = s.mem.byte b)
    ∧ (∀ (c : Fin 8) (eng : Bool) (sa : Fin 64) (reg : Byte) (mask : Fin 8) (w : BitVec 64) (par : Option Nat) (s : State) (q : Quire)
      (x : StreamW) (gm f : Nat), Issues c 2 [sa.val] q s → (s.eng (engOf c eng)).retired = false →
      q.state ≠ .ended → q.state ≠ .faulted → x = streamWOf (s.getS c sa.val).toNat → gm = (s.eng (engOf c eng)).getM mask.val →
      (accessFault q (s.eng (engOf c eng)) x reg.toNat gm false = some f →
        exec (.vld c eng sa reg mask w par) s = .next (faultQuire (s.landed c) q.tag f))
      ∧ ((stgOf w).k ≤ 47 → accessFault q (s.eng (engOf c eng)) x reg.toNat gm true = some f →
        exec (.vst c eng sa reg mask w par) s = .next (faultQuire (s.landed c) q.tag f))
      ∧ (47 < (stgOf w).k → exec (.vst c eng sa reg mask w par) s = .next (faultQuire (s.landed c) q.tag 0x32)))
    ∧ (∀ (c : Fin 8) (eng : Bool) (sa : Fin 64) (table : Fin 4) (par : Option Nat) (s : State) (q : Quire) (a : Nat)
      (l : List Nat),
      IssuesEng c eng sa 1 1 q s → a = bits (s.getS c sa.val).toNat 0 22 → a % 64 = 0 → q.spadWin.holds a (a + 320) = true →
      l = leList 4 (s.mem.read (spadAt (engOf c eng) + a) 320) →
      parityHit (s.landed c) q c 1 par (wordIn · (spadAt (engOf c eng) + a) 320) = false →
      (tableOk l = true → exec (.actld c eng sa table par) s
        = .next (((timeActld (s.landed c) c (engOf c eng) a).setEng (engOf c eng) fun x =>
            { x with acts := tset x.acts table.val l }).past c 1 1))
      ∧ (tableOk l = false → q.state ≠ .ended → q.state ≠ .faulted →
        exec (.actld c eng sa table par) s = .next (faultQuire (s.landed c) q.tag 0x35)))
    ∧ (∀ (c : Fin 8) (eng : Bool) (sa : Fin 64) (table : Fin 4) (par : Option Nat) (s : State) (q : Quire) (a : Nat),
      IssuesEng c eng sa 1 1 q s → a = bits (s.getS c sa.val).toNat 0 22 → (a % 64 ≠ 0 ∨ q.spadWin.holds a (a + 320) = false) →
      q.state ≠ .ended → q.state ≠ .faulted →
      exec (.actld c eng sa table par) s = .next (faultQuire (s.landed c) q.tag 0x33))
    ∧ (∀ (c : Fin 8) (eng : Bool) (sa : Fin 64) (mask : Fin 8) (mz : Bool) (stages : List (BitVec 64)) (par : Option Nat) (s : State)
      (q : Quire) (o : ChainOps) (gm : Nat),
      Issues c (1 + stages.length) ((List.range 4).map (sa.val + ·) ++ sRegs (stages.flatMap fun w => (stgOf w).srcs)) q s →
      sa.val ≤ 60 → (s.eng (engOf c eng)).retired = false →
      o = chainOpsOf (s.getS c sa.val).toNat (s.getS c (sa.val + 1)).toNat (s.getS c (sa.val + 2)).toNat
        (s.getS c (sa.val + 3)).toNat stages →
      gm = (s.eng (engOf c eng)).getM mask.val →
      (o.fault q (s.eng (engOf c eng)) gm = none →
        parityHit (s.landed c) q c (1 + stages.length) par (o.reads (engOf c eng) gm) = false →
        exec (.chain c eng sa mask mz stages par) s
          = .next ((chainRun o (engOf c eng) c gm (o.time (engOf c eng) c gm mask.val (s.landed c))).past c
              (1 + stages.length) (1 + stages.length)))
      ∧ (∀ f, o.fault q (s.eng (engOf c eng)) gm = some f → q.state ≠ .ended → q.state ≠ .faulted →
        exec (.chain c eng sa mask mz stages par) s = .next (faultQuire (s.landed c) q.tag f)))
    ∧ (∀ (o : ChainOps) (q : Quire) (en : Engine) (gm : Nat),
      (o.stages = [] ∨ 8 < o.stages.length ∨ o.count = 0 ∨ o.last = 0 ∨ 64 < o.last → o.fault q en gm = some 0x32)
      ∧ (o.illegal en.acts = false → o.badFormat = true → o.fault q en gm = some 0x31)
      ∧ (o.illegal en.acts = false → o.badFormat = false →
        (o.aligned o.l0 false = false ∨ o.aligned o.l1 false = false ∨ o.aligned o.st true = false) →
        o.fault q en gm = some 0x33))

/-- For each of the 14 bundles that issues with a class of 2, an operation of its row, a shift of at most 31 and legal
move sizes, whose moves that are on (loads outside the drain iterations, stores outside the prologue ones) are
allowed, and with no parity error: it has its effect and the core goes on past two words with 1 issue cycle. Without
moves the effect is its operation alone: with the registers as they are at issue, a result lands L - 1 cycles later in
a leaf and its flags are ORed in; MOVDS writes an s register at once, readable 2 cycles on; DCLR puts a zero in flight
for each of d64 to d127. One load puts its value, sign-extended, in flight for 4 cycles and steps its address
register; one store writes its bytes and steps its own. An operation that is not of the row, a shift above 31 or a
move size of 3 faults the quire with DSP_ILLEGAL (0x44), a class other than 2 with SEQ_ILLEGAL (0x41), a move that is
not allowed with its code. (R121, R122, R123, R124, R125, R126, R127, R129, R131) -/
def Obligations.Dsp_bundles_issue_one_operation_and_three_moves : Prop :=
  (∀ (c : Fin 8) (w0 w1 : BitVec 64) (par : Option Nat) (i : Instr) (ops : List Nat) (s : State) (q : Quire) (b : Bundle) (x : Core),
      ((i = .cmac c w0 w1 par ∧ ops = [0x01])
        ∨ (i = .cmacc c w0 w1 par ∧ ops = [0x02])
        ∨ (i = .cmul c w0 w1 par ∧ ops = [0x03, 0x04])
        ∨ (i = .dmac c w0 w1 par ∧ ops = [0x05])
        ∨ (i = .dmul c w0 w1 par ∧ ops = [0x06])
        ∨ (i = .cmag2 c w0 w1 par ∧ ops = [0x07])
        ∨ (i = .dspHalfArith c w0 w1 par ∧ ops = [0x08, 0x09, 0x0A, 0x0B, 0x0C, 0x0D, 0x0E, 0x0F, 0x10, 0x11])
        ∨ (i = .dspLogic c w0 w1 par ∧ ops = [0x12, 0x13, 0x14])
        ∨ (i = .pack c w0 w1 par ∧ ops = [0x15])
        ∨ (i = .unpack c w0 w1 par ∧ ops = [0x16])
        ∨ (i = .mov c w0 w1 par ∧ ops = [0x17, 0x18, 0x00])
        ∨ (i = .movsd c w0 w1 par ∧ ops = [0x19])
        ∨ (i = .movds c w0 w1 par ∧ ops = [0x1A])
        ∨ (i = .dclr c w0 w1 par ∧ ops = [0x1B])) →
      b = bundleOf w0 w1 → x = (s.landed c).core c → Issues c 2 b.reads q s →
      (∀ px py pz, b.illegal ops = none →
        moveCheck (s.landed c) c q b.xb (b.xb.en && !x.noLoads) false = .ok px →
        moveCheck (s.landed c) c q b.yb (b.yb.en && !x.noLoads) false = .ok py →
        moveCheck (s.landed c) c q b.zb (b.zb.en && !x.noStores) true = .ok pz →
        parityHit (s.landed c) q c 2 par (b.readsWord px py pz) = false →
        exec i s = .next ((bundleEffect c b x px py pz (s.landed c)).past c 2 1))
      ∧ (∀ f, b.illegal ops = some f → q.state ≠ .ended → q.state ≠ .faulted →
        exec i s = .next (faultQuire (s.landed c) q.tag f))
      ∧ (∀ f, b.illegal ops = none → q.state ≠ .ended → q.state ≠ .faulted →
        (moveCheck (s.landed c) c q b.xb (b.xb.en && !x.noLoads) false = .error f
          ∨ (∃ px, moveCheck (s.landed c) c q b.xb (b.xb.en && !x.noLoads) false = .ok px
            ∧ (moveCheck (s.landed c) c q b.yb (b.yb.en && !x.noLoads) false = .error f
              ∨ (∃ py, moveCheck (s.landed c) c q b.yb (b.yb.en && !x.noLoads) false = .ok py
                ∧ moveCheck (s.landed c) c q b.zb (b.zb.en && !x.noStores) true = .error f)))) →
        exec i s = .next (faultQuire (s.landed c) q.tag f)))
    ∧ (∀ (b : Bundle) (ops : List Nat),
      (b.cls ≠ 2 → b.illegal ops = some 0x41)
      ∧ (b.cls = 2 → (b.op ∉ ops ∨ 31 < b.k ∨ (b.xb.en = true ∧ b.xb.size = 3) ∨ (b.yb.en = true ∧ b.yb.size = 3)
        ∨ (b.zb.en = true ∧ b.zb.size = 3)) → b.illegal ops = some 0x44))
    ∧ (∀ (c : Fin 8) (b : Bundle) (x : Core) (s : State),
      bundleEffect c b x none none none s = bundleOp c b x s)
    ∧ (∀ (c : Fin 8) (b : Bundle) (x : Core) (s : State) (o : DspOut) (w : DspWrite),
      x.inHandler = false → s.core c = x → b.op ≠ 0x1A → b.op ≠ 0x1B →
      dspOp b (x.getD b.a) (x.getD b.b) (x.getS (b.a % 64)) = o → o.w = some w →
      bundleOp c b x s = s.setCore c fun y => { y with
        pend := y.pend ++ [⟨x.cycle + o.lat - 1, x.phys b.dst, w⟩]
        cx := { y.cx with flags := y.cx.flags.or o.flags } })
    ∧ (∀ (c : Fin 8) (b : Bundle) (x : Core) (s : State), b.op = 0x1A →
      bundleOp c b x s = (s.setCore c (Core.readyIn (b.dst % 64) 2)).putS c (b.dst % 64) (BitVec.ofNat 64 (x.getD b.a)))
    ∧ (∀ (c : Fin 8) (b : Bundle) (x : Core) (s : State), b.op = 0x1B → (s.core c).inHandler = false →
      ((bundleOp c b x s).core c).pend = (s.core c).pend ++ (List.range 64).map (fun i => ⟨x.cycle, 64 + i, .put 0⟩))
    ∧ (∀ (c : Fin 8) (b : Bundle) (x : Core) (s : State) (p : Nat),
      bundleEffect c b x (some p) none none s
        = (bundleOp c b x ((s.memWait c (tget x.cx.a b.xb.a 0).toNat b.xb.bytes false).setCore c
            (fly x.cycle 4 (x.phys b.xb.d) (.put (loadVal b.xb (leNat (s.coreRd p b.xb.bytes))))))).setCore c (bump x b.xb true))
    ∧ (∀ (c : Fin 8) (b : Bundle) (x : Core) (s : State) (p : Nat),
      bundleEffect c b x none none (some p) s
        = (bundleOp c b x ((s.memWait c (tget x.cx.a b.zb.a 0).toNat b.zb.bytes true).coreWr p
            (toLE b.zb.bytes (x.getD b.zb.d)))).setCore c (bump x b.zb true))

/-- QUIRE_START of a READY quire without a program: fewer engines in service than positions fault it (0x64), else a sum
group that needs staging without a region or window for it faults it (0x67); another slot-reception in the way, or a
FULL quire on a cluster with cells, keeps it waiting; where something it declares is not free it waits and the wait is
counted once; where everything is free and the version of its model is there, it gets all its grants. LEAF_DISPATCH on
an idle core with no re-shard held: the first ready latency-critical leaf starts, a best-effort quire there being
suspended; only without one the round-robin pick, if there is one; on a busy core nothing happens. QUIRE_TIMEOUT of an
open quire faults it with 0x66, 500 us after the deadline of a latency-critical one, after 100 ms in one local WAIT of
a best-effort one. ACCOUNT_WINDOW_END charges the live leaves, passes each account's window count and entitlement to
the read-back, and restarts them with the engines in service. (R227, R228, R230, R231, R234, R240, R248, R273) -/
def Obligations.Quires_start_dispatch_time_out_and_account : Prop :=
  (∀ (tag : BitVec 16) (p : Prog) (s u : State) (q : Quire) (g : Grants) (m : Option Nat) (v : Nat),
      tget? s.quires tag.toNat = some q → q.state = .ready → q.prog = none → startFault s q p = none →
      startWaits s q p = false → findGrants s q p = some g → readVersion s q = some (m, v, u) →
      exec (.quireStart tag p) s = .next (applyGrants u q p g m v))
    ∧ (∀ (tag : BitVec 16) (p : Prog) (s : State) (q : Quire),
      tget? s.quires tag.toNat = some q → q.state = .ready → q.prog = none →
      ((s.inService q.cluster.val).length < p.positions → exec (.quireStart tag p) s = .next (faultQuire s tag 0x64))
      ∧ (p.positions ≤ (s.inService q.cluster.val).length → s.stageBase = 0 →
        p.sums.any (fun d => needStaging d s.pressed && !stagingInWindow d p) = true →
        exec (.quireStart tag p) s = .next (faultQuire s tag 0x67))
      ∧ (startFault s q p = none → startWaits s q p = true → exec (.quireStart tag p) s = .next s)
      ∧ (startFault s q p = none → startWaits s q p = false → findGrants s q p = none → q.waited = false →
        exec (.quireStart tag p) s = .next ((s.setQuire tag.toNat fun q => { q with waited := true }).setCl q.cluster fun c =>
          { c with grantWait := c.grantWait + 1 }))
      ∧ (startFault s q p = none → startWaits s q p = false → findGrants s q p = none → q.waited = true →
        exec (.quireStart tag p) s = .next s))
    ∧ (∀ (s : State) (q : Quire) (p : Prog), startWaits s q p = true ↔
      ((q.kind = .slotReception ∧ ∃ x ∈ s.startedOn q.cluster, x.kind = .slotReception)
        ∨ (q.kind.lc = false ∧ p.full = true ∧ s.carries q.cluster = true)))
    ∧ (∀ (c : Fin 8) (s : State), (s.core c).leaf = none → ((s.startedOn (clOfCore c)).find? (·.hold)) = none →
      (∀ q, (sortBy (lcBefore s) ((s.startedOn (clOfCore c)).filter fun q => lcReady s q (c.val % 2))).head? = some q →
        q.kind.lc = true → exec (.leafDispatch c) s = .next (startNext (preemptBe s q.cluster c) q c))
      ∧ ((∀ x ∈ s.startedOn (clOfCore c), lcReady s x (c.val % 2) = false) →
        (∀ q u, bePick s (clOfCore c) (c.val % 2) = (some q, u) → q.kind.lc = false →
          exec (.leafDispatch c) s = .next (startNext u q c))
        ∧ (∀ u, bePick s (clOfCore c) (c.val % 2) = (none, u) → exec (.leafDispatch c) s = .next u)))
    ∧ (∀ (c : Fin 8) (s : State), (s.core c).leaf.isSome = true → exec (.leafDispatch c) s = .next s)
    ∧ (∀ (tag : BitVec 16) (s : State) (q : Quire) (t : Nat), tget? s.quires tag.toNat = some q → q.state.open_ = true →
      (q.kind.lc = true → dueNow s q = some t → exec (.quireTimeout tag) s
        = .next (faultQuire (s.advance (t + usTicks 500 - (s.cl q.cluster).counter.toNat)) tag 0x66))
      ∧ (q.kind.lc = false → localWait s q = some t → exec (.quireTimeout tag) s
        = .next (faultQuire (s.advance (t + usTicks 100000 - (s.cl q.cluster).counter.toNat)) tag 0x66)))
    ∧ (∀ (k : Fin 4) (s u : State) (i : Nat) (a : Account),
      u = chargeLive (s.advanceTo ((s.cl k).winStart + s.acctWindow * 25000)) k →
      ∃ t, exec (.accountWindowEnd k) s = .next t ∧ (t.cl k).winCycles = 0 ∧ (t.cl k).winEngines = (u.inService k.val).length
      ∧ (tget? (u.cl k).accounts i = some a → (∀ c ∈ u.cellsOn k, tget? (u.cl k).accounts (c.1 + 1) ≠ none) →
        tget? (t.cl k).accounts i = some { a with
          lastWindow := a.window
          lastEntitled := u.entitlement k i
          window := 0
          exceeds := false }))

/-- RESHARD of a started slot-reception on more than one engine, at a phase boundary with no leaf live and no hold, moves
the blocks that its image names for that boundary, charges its time to engines, consumer and cluster and holds the
cores; a parity error of a word it reads is counted and re-read, and one that persists faults with 0x57.
EVICTION_WINDOW_OPEN of an expected close advances to its window and marks the best-effort quires in the way of the
cell's claim; without one nothing happens. CONTEXT_SAVE writes control part and live extents of a suspended quire that
must leave and counts the eviction; a parity error that persists faults it with 0x57. CONTEXT_SAVE_DONE lets waiting
first leaves go once no eviction is outstanding, and, once no FULL quire is in place, places the cells that wait, in
the order of their next slot closes. FULL_QUIRE_SAVE marks a FULL quire of a cluster with cells, and suspends it where
no leaf is live. CONTEXT_RESTORE of a suspended quire whose slot holds its header writes its extents back and zeroes
the rest; too few engines fault it with 0x64, an ECC error with 0x63, a bad header with 0x62. CHECK_MISMATCH records
the event; the first of a leaf replays it, the next retires the engine. (R85, R86, R87, R168, R169, R236, R237, R238,
R239, R243, R248, R249) -/
def Obligations.Quires_yield_are_saved_and_return : Prop :=
  (∀ (tag : BitVec 16) (hit again : Bool) (w n b : Nat) (l : List Config.ReshardMove) (s s0 : State) (q : Quire),
      tget? s.quires tag.toNat = some q → q.phaseEnd (variantOf q.image q.engines) = some b →
      l = Config.reshardMoves q.image q.engines b → n = reshardCycles (movedBytes l) →
      q.kind = .slotReception → q.started = true → s.anyLive q = false → q.hold = false → 1 < q.engines →
      (((hit = false ∨ movesRead q s l w = false) ∧ s0 = s)
        ∨ (hit = true ∧ again = false ∧ movesRead q s l w = true ∧ s0 = countWord s w)) →
      exec (.reshard tag hit w again) s = .next
        (((chargeTime ((s0.inService q.cluster.val).foldl (fun s e => (s.engCount e 9 n).engCount e 10 (4 * n))
            (l.foldl (moveBlock q s0) s0)) q.cluster q.consumer (n * (s0.inService q.cluster.val).length)).setCl q.cluster fun k =>
          { k with lcCycles := k.lcCycles + BitVec.ofNat 64 (n * (s0.inService q.cluster.val).length) }).setQuire tag.toNat
            fun q => { q with hold := true }))
    ∧ (∀ (tag : BitVec 16) (b w : Nat) (s : State) (q : Quire),
      tget? s.quires tag.toNat = some q → q.phaseEnd (variantOf q.image q.engines) = some b →
      q.kind = .slotReception → q.started = true → s.anyLive q = false → q.hold = false → 1 < q.engines →
      movesRead q s (Config.reshardMoves q.image q.engines b) w = true →
      exec (.reshard tag true w true) s = .next (faultQuire (countWord (countWord s w) w) tag 0x57))
    ∧ (∀ (k : Fin 4) (cell : Fin 64) (close : Nat) (s u : State) (e : Expect) (x : Cell),
      (s.cl k).expects.find? (fun e => e.cell == cell.val && e.close == close && !e.opened) = some e →
      u = ((s.advance (e.close - usTicks s.evictWindow - (s.cl k).counter.toNat)).setCl k fun c =>
        { c with expects := c.expects.map fun x => if x = e then { x with opened := true } else x }) →
      u.cell? cell.val = some x →
      exec (.evictionWindowOpen k cell close) s = .next ((u.startedOn k).foldl (markEvict cell.val (u.claimOf k x)) u))
    ∧ (∀ (k : Fin 4) (cell : Fin 64) (close : Nat) (s : State),
      (s.cl k).expects.find? (fun e => e.cell == cell.val && e.close == close && !e.opened) = none →
      exec (.evictionWindowOpen k cell close) s = .next s)
    ∧ (∀ (tag : BitVec 16) (s : State) (q : Quire) (i : Nat) (data : List (Nat × Bytes)), tget? s.quires tag.toNat = some q →
      q.ctxSlot = some i → q.state = .suspended → q.saved = false → (q.evict = true ∨ q.fullSave = true) →
      data = ((q.places s).map fun p => (p.1, engineData s q p.1 p.2)) →
      exec (.contextSave tag true) s = .next (faultQuire s tag 0x57)
      ∧ exec (.contextSave tag false) s = .next
        ((data.foldl (fun s p => s.wr (s.dataAddr i p.1) p.2)
            (writeControl (s.setQuire tag.toNat fun q => { q with saved := true, fullSave := false }) tag)).account q.cluster
          q.consumer fun a => { a with
            evictions := a.evictions + 1
            bytesSaved := a.bytesSaved + (2176 + (data.map (·.2.length)).sum) }))
    ∧ (∀ (k : Fin 4) (s u : State), u = (if s.evicting k = true then s else s.setCl k fun c => { c with evictWait := false }) →
      ((∃ q ∈ s.startedOn k, q.saved = false ∧ ∃ p, q.prog = some p ∧ p.full = true) → exec (.contextSaveDone k) s = .next u)
      ∧ ((∀ q ∈ s.startedOn k, ∀ p, q.prog = some p → p.full = true → q.saved = true) →
        exec (.contextSaveDone k) s = .next
          ((sortBy (fun a b => decide (a.2.nextClose s.ticks.toNat ≤ b.2.nextClose s.ticks.toNat))
              (s.cfg.cells.filter fun p => p.2.waitFull && p.2.cluster == k)).foldl (fun t p =>
            (t.advanceTo (p.2.nextClose s.ticks.toNat)).setCfg fun g => { g with
              cells := tset g.cells p.1 { p.2 with waitFull := false, placed := true } }) u)))
    ∧ (∀ (tag : BitVec 16) (s : State) (q : Quire) (p : Prog), tget? s.quires tag.toNat = some q → q.started = true →
      q.kind.lc = false → q.prog = some p → p.full = true → q.saved = false → s.carries q.cluster = true →
      exec (.fullQuireSave tag) s = .next
        (if s.anyLive q = true ∨ q.state = .suspended then s.setQuire tag.toNat fun q => { q with fullSave := true }
          else suspendQuire (s.setQuire tag.toNat fun q => { q with fullSave := true }) tag))
    ∧ (∀ (tag : BitVec 16) (ecc : Bool) (s : State) (q : Quire) (i : Nat) (p : Prog), tget? s.quires tag.toNat = some q →
      q.ctxSlot = some i → q.state = .suspended → q.saved = true → q.evict = false → q.prog = some p → p.full = false →
      ((q.places s).length < p.positions → exec (.contextRestore tag ecc) s = .next (faultQuire s tag 0x64))
      ∧ (p.positions ≤ (q.places s).length → exec (.contextRestore tag true) s = .next (faultQuire s tag 0x63))
      ∧ (p.positions ≤ (q.places s).length → (cpl (s.rd (s.ctxAddr i) 8) ≠ s.rd (s.ctxAddr i + 8) 8
          ∨ bits (leNat (s.rd (s.ctxAddr i) 8)) 32 16 ≠ tag.toNat) →
        exec (.contextRestore tag false) s = .next (faultQuire s tag 0x62))
      ∧ (p.positions ≤ (q.places s).length → cpl (s.rd (s.ctxAddr i) 8) = s.rd (s.ctxAddr i + 8) 8 →
        bits (leNat (s.rd (s.ctxAddr i) 8)) 32 16 = tag.toNat →
        exec (.contextRestore tag false) s = .next
          (((q.places s).foldl (fun s p => s.setEng p.2 fun e => if e.owner = some tag then { e with owner := none } else e)
            ((q.places s).foldl (fun s p =>
              restoreData ((s.zeroRun (spadAt p.2) q.spad []).zeroRun (accAt p.2) q.acc.unitBytes []) p.2
                ((q.live.filter fun x => x.pos == p.1).take 8)
                (s.rd (s.dataAddr i p.1) ((((q.live.filter fun x => x.pos == p.1).take 8).map fun x =>
                  (extentPlace x 0).2).sum))) s)).setQuire tag.toNat fun q => { q with saved := false })))
    ∧ (∀ (e : Fin 16) (kind : Fin 5) (column : BitVec 16) (vector : BitVec 32) (expected observed : BitVec 64)
      (bound cycle : BitVec 32) (s : State) (q : Quire) (c : Fin 8) (m : Mismatch), c.val = e.val / 2 → liveQuire s c = some q →
      (s.eng e.val).retired = false → m = ⟨kind.val, column.toNat, vector.toNat, expected, observed, bound.toNat, cycle.toNat⟩ →
      (leafMismatches s c = 0 → exec (.checkMismatch e kind column vector expected observed bound cycle) s = .next
        (firstMismatch (s.event 0x04 e.val (arrayErrorRecord s e.val m q.tag.toNat
          (if c.val % 2 = 0 then q.leaf0 else q.leaf1) 1)) q c e.val cycle.toNat))
      ∧ (leafMismatches s c ≠ 0 → exec (.checkMismatch e kind column vector expected observed bound cycle) s = .next
        (retireEngine (s.event 0x04 e.val (arrayErrorRecord s e.val m q.tag.toNat
          (if c.val % 2 = 0 then q.leaf0 else q.leaf1) 2)) q e)))

/-- SIG_APPLY takes the oldest released SIG of a core: one for this chip is performed at its object, read with the error
that the operand says, and a core that waits for that object as its grant object then sees it; one for another chip is
sent; one that names the completion object of a transfer of its quire whose data is not written waits. WAIT_EXPIRED in
loose mode with a LIMIT ends the wait, LIMIT us after its issue; a local one returns EXPIRED with nothing taken; with
LIMIT 0 or in pressed mode it does nothing. REGISTRATION_RETRY sends the registration again 2 us after a BUSY.
OBJECT_HOLD_EXPIRY frees an object without waiters 1,000 us after its release. A SYNC_SIG applies at its object; one
with a transfer number for an object of another owner or felled is refused with COMPLETE. A SYNC_TAKE is performed and
answered with its outcome; a SYNC_REPLY writes the RD of its TAKE, or with REG set marks the wait of its core BUSY; a
SYNC_REG is kept in order and tried, or answered BUSY where 64 are held; a SYNC_CANCEL removes its registration. Each
message for another chip goes on; one with a reserved field set, a wrong TYPE or more than 4,096 bytes is discarded
and counted. (R253, R254, R255, R256, R257, R261, R262, R263, R264, R320, R323) -/
def Obligations.Sync_objects_take_signals_waits_and_messages : Prop :=
  (∀ (c : Fin 8) (err : SyncError) (s : State) (ref : BitVec 64) (n : BitVec 32) (tag : BitVec 16)
      (l : List (BitVec 64 × BitVec 32 × BitVec 16)), (s.core c).released = (ref, n, tag) :: l →
      (sigWaits s tag (ObjRef.of ref) = true → exec (.sigApply c err) s = .next s)
      ∧ (sigWaits s tag (ObjRef.of ref) = false → ∀ k, ((ObjRef.of ref).far = false ∧ k = clOfCore c)
          ∨ ((ObjRef.of ref).far = true ∧ (ObjRef.of ref).chip = s.chip ∧ k = (ObjRef.of ref).cluster) →
        exec (.sigApply c err) s = .next (grantCheck (sigObj (meetError (s.setCore c fun x => { x with released := l })
          k (ObjRef.of ref).index err) k (ObjRef.of ref).index (ObjRef.of ref).tag n) k (ObjRef.of ref).index))
      ∧ (sigWaits s tag (ObjRef.of ref) = false → (ObjRef.of ref).far = true → (ObjRef.of ref).chip ≠ s.chip →
        exec (.sigApply c err) s = .next (sendSig (s.setCore c fun x => { x with released := l }) tag ref n)))
    ∧ (∀ (c : Fin 8) (err : SyncError) (s : State), (s.core c).released = [] → exec (.sigApply c err) s = .next s)
    ∧ (∀ (c : Fin 8) (s : State) (w : WaitCtx) (q : Quire), (s.core c).wait = some w → liveQuire s c = some q → q.pressed = false →
      w.limit ≠ 0 → exec (.waitExpired c) s = .next (expireWait (s.advance (usTicks w.limit.toNat
        - ((s.cl (clOfCore c)).counter - BitVec.ofNat 48 w.issued).toNat)) c w))
    ∧ (∀ (c : Fin 8) (s : State) (w : WaitCtx), w.remote = false → expireWait s c w = coreOutcome (dropMonitors s c) c
      { st := .expired, count := (s.obj (if (ObjRef.of w.ref).far then (ObjRef.of w.ref).cluster else clOfCore c)
        (ObjRef.of w.ref).index).count })
    ∧ (∀ (c : Fin 8) (s : State) (w : WaitCtx) (q : Quire), (s.core c).wait = some w → liveQuire s c = some q →
      w.limit = 0 ∨ q.pressed = true → exec (.waitExpired c) s = .next s)
    ∧ (∀ (c : Fin 8) (s : State) (w : WaitCtx) (q : Quire) (t : Nat), (s.core c).wait = some w → liveQuire s c = some q →
      w.busy = some t → exec (.registrationRetry c) s = .next (sendReg ((s.advanceTo (t + usTicks 2)).setCore c fun x =>
        { x with wait := some { w with busy := none } }) c q w))
    ∧ (∀ (k : Fin 4) (i : BitVec 15) (s u : State) (t : Nat), tget? (s.cl k).held i.toNat = some t →
      u = s.advanceTo (t + usTicks 1000) → tget (u.cl k).waiters i.toNat [] = [] →
      exec (.objectHoldExpiry k i) s = .next (u.setCl k fun c => { c with held := tdel c.held i.toNat }))
    ∧ (∀ (m : SMsg) (err : SyncError) (s u : State) (x : ObjRef), m.dst.toNat = s.chip → m.reservedSet = false → m.data.length ≤ 4096 → m.typ = 0x10 →
      x = ObjRef.of (msgRef m) → u = meetError s x.cluster x.index err →
      (m.xfer = 0 ∨ ((u.obj x.cluster x.index).bad = false ∧ (u.obj x.cluster x.index).owner = x.tag
          ∧ (u.obj x.cluster x.index).felled = false) →
        exec (.syncSig ⟨m, err⟩) s
          = .next (grantCheck (sigObj u x.cluster x.index x.tag (m.arg.extractLsb' 64 32)) x.cluster x.index))
      ∧ (m.xfer ≠ 0 → (u.obj x.cluster x.index).bad = false →
        ((u.obj x.cluster x.index).owner ≠ x.tag ∨ (u.obj x.cluster x.index).felled = true) →
        exec (.syncSig ⟨m, err⟩) s = .next (u.sendMsg (ctrlMsg u 0x07 m.src.toNat 0 0 m.xfer.toNat 1))))
    ∧ (∀ (m : SMsg) (err : SyncError) (s u : State) (x : ObjRef) (o : TakeOut), m.dst.toNat = s.chip → m.reservedSet = false → m.data.length ≤ 4096 → m.typ = 0x11 → x = ObjRef.of (msgRef m) →
      takeObj (meetError s x.cluster x.index err) x.cluster x.index x.tag (m.arg.extractLsb' 64 16) = (o, u) →
      exec (.syncTake ⟨m, err⟩) s = .next (u.sendMsg (ctrlMsg u 0x12 m.src.toNat 0 0 0
        ((o.word true).toNat + (m.arg.extractLsb' 80 16).toNat * 2 ^ 64))))
    ∧ (∀ (m : SMsg) (s : State) (c : Fin 8) (rd n : Nat), m.dst.toNat = s.chip → m.reservedSet = false → m.data.length ≤ 4096 → m.typ = 0x12 → m.arg.getLsbD 80 = false →
      n = (m.arg.extractLsb' 64 16).toNat →
      s.stitch.takes.find? (fun t => t.1 == n) = some (n, c.val, rd) → (s.core c).takes.any (fun t => t.1 == n) = true →
      exec (.syncReply m) s = .next ((s.setStitch fun t => { t with takes := t.takes.filter fun x => x.1 != n }).setCore c
        fun x => { x.landS rd (m.arg.extractLsb' 0 64) with takes := x.takes.filter fun t => t.1 != n }))
    ∧ (∀ (m : SMsg) (s : State) (k : Fin 4) (g r t : Nat) (q : Quire) (w : WaitCtx), m.dst.toNat = s.chip → m.reservedSet = false → m.data.length ≤ 4096 → m.typ = 0x12 → m.arg.getLsbD 80 = true →
      g = (m.arg.extractLsb' 96 16).toNat → k = (m.arg.extractLsb' 112 2).toFin →
      s.quires.find? (fun p => p.2.cluster == k && (grantCore p.2 g).isSome && p.2.state != .ended && p.2.state != .faulted)
        = some (t, q) → grantCore q g = some r → (s.core (coreOf k r)).leaf = some q.tag →
      (s.core (coreOf k r)).wait = some w → w.remote = true → w.seq = (m.arg.extractLsb' 88 8).toNat →
      exec (.syncReply m) s = .next (s.setCore (coreOf k r) fun x =>
        { x with wait := some { w with busy := some s.ticks.toNat } }))
    ∧ (∀ (m : SMsg) (err : SyncError) (s u : State) (x : ObjRef), m.dst.toNat = s.chip → m.reservedSet = false → m.data.length ≤ 4096 → m.typ = 0x13 →
      x = ObjRef.of (msgRef m) → u = meetError s x.cluster x.index err →
      ((u.cl x.cluster).registrations < 64 → exec (.syncReg ⟨m, err⟩) s = .next (retryAll (u.setCl x.cluster fun c =>
        { c with waiters := tmod c.waiters x.index [] (· ++ [msgWaiter m]) }) x.cluster x.index))
      ∧ (64 ≤ (u.cl x.cluster).registrations → exec (.syncReg ⟨m, err⟩) s = .next (u.sendMsg (ctrlMsg u 0x12 m.src.toNat 0 0 0
        (6 * 2 ^ 56 + 2 ^ 80 + (m.arg.extractLsb' 96 8).toNat * 2 ^ 88 + (m.arg.extractLsb' 80 16).toNat * 2 ^ 96
          + (m.arg.extractLsb' 104 2).toNat * 2 ^ 112)))))
    ∧ (∀ (m : SMsg) (s : State) (x : ObjRef), m.dst.toNat = s.chip → m.reservedSet = false → m.data.length ≤ 4096 → m.typ = 0x14 →
      x = ObjRef.of (msgRef m) → exec (.syncCancel m) s = .next (s.setCl x.cluster fun c =>
        { c with waiters := tmod c.waiters x.index [] fun l =>
            l.filter fun w => !(w.chip == m.src.toNat && w.remote == (msgWaiter m).remote) }))
    ∧ (∀ (i : Instr) (m : SMsg) (err : SyncError) (typ : BitVec 8) (s : State),
      ((i = .syncSig ⟨m, err⟩ ∧ typ = 0x10) ∨ (i = .syncTake ⟨m, err⟩ ∧ typ = 0x11) ∨ (i = .syncReply m ∧ typ = 0x12)
        ∨ (i = .syncReg ⟨m, err⟩ ∧ typ = 0x13) ∨ (i = .syncCancel m ∧ typ = 0x14)) →
      (m.dst.toNat ≠ s.chip → exec i s = .next (s.sendMsg m))
      ∧ (m.dst.toNat = s.chip → (m.typ ≠ typ ∨ m.reservedSet = true ∨ 4096 < m.data.length) →
        exec i s = .next (s.slCount .msgBad 0)))

/-- A slot-reception, a PRACH occasion and a downlink slot that is not posted, whose results are all there and whose cell
asks for a colophon, has it finalised once. With the colophon there, or not asked for, it is posted: a slot-reception
by its payloads and records, the other two by their record behind the colophon; the quire is marked posted. While no
request reaches the host nothing is posted. SLOT_DEADLINE advances to the deadline; of a slot-reception that is not
late yet, and not posted or with records of transport blocks or of UCI that wait for room, what is not posted is
opened again as late (all of one that was not posted), the LLRs received are stored, its ring places are freed and its
pages return, and it is finalised and posted as above; any other is left alone. SEAL_COMPLETE puts the oldest batch
being signed into the store at its place, with its seal and signature, and raises its event. (R20, R22, R216, R278,
R279, R283, R284, R345) -/
def Obligations.Results_are_finalised_posted_or_cut_off : Prop :=
  (∀ (tag : BitVec 16) (s u : State) (q : Quire) (r : RxCtx) (b : Bytes), tget? s.quires tag.toNat = some q →
      q.kind = .slotReception → s.rx? tag = some r → r.posted = false → r.colo = [] → (cellOf r.cellRcd).colophon = true →
      ulReady s q r = true → finalise s q (ulColo s q r) = (b, u) →
      exec (.colophonFinalise tag) s = .next ((u.setRx tag fun r => { r with colo := b }).setCoding fun x => { x with
          harqColophon := (wroteBuffers s r).foldl (fun t n => tset t n (slice b 0x10 32)) x.harqColophon }))
    ∧ (∀ (tag : BitVec 16) (s u : State) (q : Quire) (d : DlCtx) (b : Bytes), tget? s.quires tag.toNat = some q →
      q.kind = .downlink → tget? s.coding.dl tag.toNat = some d → d.posted = false → d.colo = [] →
      (cellOf d.cellRcd).colophon = true → dlReadyToPost d = true → finalise s q (dlColo s q d) = (b, u) →
      exec (.colophonFinalise tag) s
        = .next (u.setCoding fun c => { c with dl := tset c.dl tag.toNat { d with colo := b } }))
    ∧ (∀ (tag : BitVec 16) (s u : State) (q : Quire) (x : PrachCtx) (b : Bytes), tget? s.quires tag.toNat = some q →
      q.kind = .prach → tget? s.coding.prach tag.toNat = some x → x.posted = false → x.colo = [] →
      (cellOf x.cellRcd).colophon = true → prachReady q x = true → finalise s q (prachColo s q x) = (b, u) →
      exec (.colophonFinalise tag) s
        = .next (u.setCoding fun c => { c with prach := tset c.prach tag.toNat { x with colo := b } }))
    ∧ (∀ (tag : BitVec 16) (s : State) (q : Quire) (r : RxCtx), tget? s.quires tag.toNat = some q → q.kind = .slotReception →
      s.rx? tag = some r → s.linkOk = true → r.posted = false → ulReady s q r = true → coloDone r.cellRcd r.colo = true →
      exec (.resultPosting tag) s = .next (postUl s q r))
    ∧ (∀ (tag : BitVec 16) (s : State) (q : Quire) (x : PrachCtx), tget? s.quires tag.toNat = some q → q.kind = .prach →
      tget? s.coding.prach tag.toNat = some x → s.linkOk = true → x.posted = false → prachReady q x = true →
      coloDone x.cellRcd x.colo = true →
      exec (.resultPosting tag) s = .next ((s.postSpc (coloOut x.cell x.sfnSlot tag.toNat s.ticks.toNat x.colo
          ++ [rachRecord q x tag.toNat s.ticks.toNat])).setCoding fun c =>
        { c with prach := tset c.prach tag.toNat { x with posted := true } }))
    ∧ (∀ (tag : BitVec 16) (s : State) (q : Quire) (d : DlCtx), tget? s.quires tag.toNat = some q → q.kind = .downlink →
      tget? s.coding.dl tag.toNat = some d → s.linkOk = true → d.posted = false → dlReadyToPost d = true →
      coloDone d.cellRcd d.colo = true →
      exec (.resultPosting tag) s = .next ((s.postSpc (coloOut d.cell d.sfnSlot tag.toNat s.ticks.toNat d.colo
          ++ [dlDone d tag.toNat s.ticks.toNat])).setCoding fun c =>
        { c with dl := tset c.dl tag.toNat { d with posted := true } }))
    ∧ (∀ (tag : BitVec 16) (s : State), s.linkOk = false → exec (.resultPosting tag) s = .next s)
    ∧ (∀ (tag : BitVec 16) (s u : State) (q : Quire) (r : RxCtx) (t : Nat), tget? s.quires tag.toNat = some q → s.rx? tag = some r →
      q.deadline = some t → u = s.advance (t - (s.cl q.cluster).counter.toNat) →
      (r.late = false → (r.posted = false ∨ waitsFor u tag.toNat 0x90 = true ∨ waitsFor u tag.toNat 0x92 = true) →
        exec (.slotDeadline tag) s = .next (resultPosting tag (colophonFinalise tag (returnRest (freePlaces
          ((List.range r.pusch.length).foldl (fun s i => lateStore (combineHanded s tag i) tag i) (reopen u tag r)) tag) tag))))
      ∧ ((r.late = true ∨ (r.posted = true ∧ waitsFor u tag.toNat 0x90 = false ∧ waitsFor u tag.toNat 0x92 = false)) →
        exec (.slotDeadline tag) s = .next u))
    ∧ (∀ (tag : BitVec 16) (s : State) (r : RxCtx), s.rx? tag = some r → r.posted = false →
      (reopen s tag r).rx? tag = some { r with
        late := true, coloSent := false, colo := []
        pusch := r.pusch.map fun x => { x with posted := false }
        uci := r.uci.map fun u => { u with posted := false } })
    ∧ (∀ (s u : State) (b : Batch) (l : List Batch) (base cap : Nat), s.colo.sealing = b :: l → s.colo.store = some (base, cap) →
      u = ((s.wr (ddrAt + base + b.number % cap * 36864) (sealedBatch b)).setColo fun c =>
        { c with sealing := l, stored := c.stored ++ [(b.number, sealedBatch b)] }) →
      exec .sealComplete s = .next (u.event 0x16 0 (toLE 8 b.number ++ toLE 4 (if u.colo.full then 1 else 0))))

/-- CPLANE_WINDOW_OPEN of a placed uplink cell advances to the window, numbers the clock and counts the slot; the slot's
record is served, or SLOT_RECORD_LATE is counted where there is none or the clock has no number. A frame on a port
that is down does nothing. On a port that is up a FEC error is counted, and the frame is a PAUSE, or breaks R292, or
fails MACsec, each counted, or gives its eCPRI messages in order to their cells; under another revision each message
is counted bad. A message that breaks Table 13-3 or 13-4 by itself, or whose eAxC is not in the table, is counted and
changes nothing else. RECEPTION_WINDOW_END advances to the window's end, ends the stream-symbols of its symbol still
open, and at the slot's last symbol all still open, with PRBs missing; then slot close is tested. SLOT_STORE_FORWARD
writes an ended stream-symbol at its place, with its clamps counted, and frees its granules, once the ring is its
slot's or is free of the slot before, whose release object is then free; else it does nothing. PRACH_WINDOW_END of an
occasion not ended yet makes its quire, due 500 us after its last symbol ends, with engines or without, and keeps its
samples. QUIRE_RELEASE of a slot that is closed, all stored and not released counts a close that no mark predicted and
makes its slot-reception, due 8,750 ticks after the close, with its context and samples; where its cluster has no
engine it reports SLOT_ERROR 3 if the record has PUSCH or UCI parts. Else it does nothing. (R17, R18, R36, R150, R216,
R220, R225, R292, R297, R299, R301, R304) -/
def Obligations.Uplink_slots_arrive_are_stored_and_released : Prop :=
  (∀ (cell : Fin 64) (s u : State) (c d : Cell), s.cell? cell.val = some c → c.placed = true → c.clock.isSome = true →
      c.uplink = true → u = ((numberSlot (s.advanceTo (c.symTick c.cpUl
        (match c.slotAt c.cpUl with | some n => slotOf n | none => 0) 0 - c.cpUlMax)) cell.val c.cpUl
          (if c.downlink then c.cpDl else 0)).setCell cell.val fun x => { x with cpUl := c.cpUl + 1 }) →
      u.cell? cell.val = some d →
      (∀ n r, d.slotAt c.cpUl = some n → tget? u.fe.ulRecs (slotKey cell.val n) = some r →
        exec (.cplaneWindowOpen cell false) s = .next (serveUl u cell.val c.cpUl c n r))
      ∧ (∀ n, d.slotAt c.cpUl = some n → tget? u.fe.ulRecs (slotKey cell.val n) = none →
        exec (.cplaneWindowOpen cell false) s = .next (u.feCount .slotRecordLate cell.val))
      ∧ (d.slotAt c.cpUl = none →
        exec (.cplaneWindowOpen cell false) s = .next (u.feCount .slotRecordLate cell.val)))
    ∧ (∀ (f : Frame) (s u : State), (s.port f.port.val).up = true → u = (if f.fecBad then s.feCount .fecUncorr f.port.val else s) →
      (f.pause = true → exec (.frameReceive f) s = .next (u.feCount .pauseRx f.port.val))
      ∧ (f.pause = false → frameBad u f = true → exec (.frameReceive f) s = .next (u.feCount .frameBad f.port.val))
      ∧ (f.pause = false → frameBad u f = false → macsecIn u f = none →
        exec (.frameReceive f) s = .next (u.feCount (macsecCause u f) f.port.val))
      ∧ (∀ v, f.pause = false → frameBad u f = false → macsecIn u f = some v → f.revision = 1 →
        exec (.frameReceive f) s = .next (f.msgs.foldl (takeMessage f.port.val
          (match f.tags with | t :: _ => t.2 | [] => 0)) v))
      ∧ (∀ v, f.pause = false → frameBad u f = false → macsecIn u f = some v → f.revision ≠ 1 →
        exec (.frameReceive f) s = .next (f.msgs.foldl (fun s _ => s.feCount .ecpriBad f.port.val) v)))
    ∧ (∀ (f : Frame) (s : State), (s.port f.port.val).up = false → exec (.frameReceive f) s = .next s)
    ∧ (∀ (port vlan : Nat) (s : State) (m : EcpriMsg),
      (ecpriBad m = true → takeMessage port vlan s m = s.feCount .ecpriBad port)
      ∧ (ecpriBad m = false → s.fe.eaxc.findIdx? (fun e => e.1 == port && e.2.1 == vlan && e.2.2.1 == m.eaxc.toNat
          && e.2.2.2.2.1 != 1) = none →
        takeMessage port vlan s m = s.feCount .eaxcUnknown port))
    ∧ (∀ (cell : Fin 64) (n k t : Nat) (s : State) (c : Cell) (u : UlCtx), s.cell? cell.val = some c →
      tget? s.fe.ul (slotKey cell.val n) = some u → c.symAt n k = some t →
      exec (.receptionWindowEnd cell n k) s = .next (closeCheck (setUl (s.advanceTo (t + c.ta4Max)) (slotKey cell.val n) fun x =>
        { x with
          syms := x.syms.map fun y => if !y.closed && (y.symbol == k || k == u.lastSym) then endSym c.colophon y else y
          missing := x.missing || u.syms.any fun y => !y.closed && (y.symbol == k || k == u.lastSym)
          forced := x.forced || (k == u.lastSym && u.syms.any fun y => !y.closed && y.symbol == k) }) (slotKey cell.val n)))
    ∧ (∀ (cell : Fin 64) (sn sym stream n clamps : Nat) (par : Option (Nat × Bool)) (s u v w : State) (c : Cell) (z : UlCtx)
      (x : StreamSym) (r : RingEntry) (prbs : Table Bytes) (k : Fin 4), s.cell? cell.val = some c →
      tget? s.fe.ul (slotKey cell.val sn) = some z →
      z.syms.find? (fun x => x.symbol == sym && x.stream == stream) = some x →
      s.fe.rings.find? (fun p => p.2.cell == cell.val) = some (n, r) → k.val = n / 16 → x.closed = true → x.stored = false →
      (r.slot = some sn ∨ r.busy = false ∨ r.need ≤ (s.obj k r.releaseObj).count.toNat) →
      u = (if r.slot = some sn then s else (s.putObj k r.releaseObj {}).setFe fun f =>
        { f with rings := tset f.rings n { r with busy := true, slot := some sn } }) →
      storePrbs c x = (prbs, clamps) →
      v = storeParity u (writeStore u (ringAt (n / 16) (n % 16)) c x prbs) k (slotKey cell.val sn)
        (ringAt (n / 16) (n % 16) + streamAt c x) c.streamBytes par →
      w = (if clamps = 0 then v else v.feCount .bfpClamp cell.val clamps) →
      exec (.slotStoreForward cell sn sym ⟨stream, par⟩) s = .next ((setUl w (slotKey cell.val sn) fun u => { u with
          syms := u.syms.map fun y => if y = x then { x with stored := true, gran := 0 } else y }).setFe fun f =>
        { f with granules := f.granules - x.gran }))
    ∧ (∀ (cell : Fin 64) (sn sym stream n : Nat) (par : Option (Nat × Bool)) (s : State) (c : Cell) (z : UlCtx) (x : StreamSym)
      (r : RingEntry) (k : Fin 4), s.cell? cell.val = some c → tget? s.fe.ul (slotKey cell.val sn) = some z →
      z.syms.find? (fun x => x.symbol == sym && x.stream == stream) = some x →
      s.fe.rings.find? (fun p => p.2.cell == cell.val) = some (n, r) → k.val = n / 16 →
      (x.closed = false ∨ x.stored = true
        ∨ (r.slot ≠ some sn ∧ r.busy = true ∧ (s.obj k r.releaseObj).count.toNat < r.need)) →
      exec (.slotStoreForward cell sn sym ⟨stream, par⟩) s = .next s)
    ∧ (∀ (cell : Fin 64) (sn pdu clamps t e : Nat) (s u v w : State) (c : Cell) (x : UlCtx) (p : PrachPdu) (tag : BitVec 16),
      s.cell? cell.val = some c → tget? s.fe.ul (slotKey cell.val sn) = some x → x.rcd.prach[pdu]? = some p →
      prachAllowed p = true → pdu ∉ x.prachDone → c.symAt sn (p.startSym + prachReps p - 1) = some t →
      c.symEnd sn (p.startSym + prachReps p - 1) = some e →
      u = dropUl (setUl (s.advanceTo (t + c.ta4Max)) (slotKey cell.val sn) fun u =>
        { u with prachDone := u.prachDone ++ [pdu] }) (slotKey cell.val sn) →
      newQuire u c.cluster .prach (cell.val + 1) cell.val sn
        (some ((u.cl c.cluster).counter.toNat + usTicks 500 - (u.ticks.toNat - e))) = (tag, v) →
      clamps = ((prachInputs x pdu p c.prachIds.length).map fun y => (prachSamples c (prachLen p) y.2.2).2).sum →
      ∃ ctx : PrachCtx, ctx.tag = tag ∧ ctx.cell = cell.val ∧ ctx.sfnSlot = sn ∧ ctx.pdu = p ∧ ctx.posted = false
        ∧ ctx.cellRcd = c.rcd
        ∧ (∀ y ∈ prachInputs x pdu p c.prachIds.length, ∃ z ∈ prachInputs x pdu p c.prachIds.length,
            tget? ctx.y (y.1 * 64 + y.2.1) = some (prachSamples c (prachLen p) z.2.2).1
              ∧ z.1 * 64 + z.2.1 = y.1 * 64 + y.2.1)
        ∧ (w = v.setCoding (fun g => { g with prach := tset g.prach tag.toNat ctx }) →
          exec (.prachWindowEnd cell sn pdu) s
            = .next (if clamps = 0 then w else w.feCount .bfpClamp cell.val clamps)))
    ∧ (∀ (cell : Fin 64) (sn t : Nat) (age : Fin 101) (s u v : State) (c : Cell) (x : UlCtx), s.cell? cell.val = some c →
      tget? s.fe.ul (slotKey cell.val sn) = some x → x.closeTick = some t → x.released = false →
      x.syms.all (·.stored) = true → u = s.advanceTo (t + age.val) →
      v = matchClose u cell.val ((u.cl c.cluster).counter.toNat - (u.ticks.toNat - t)) c →
      (v.inService c.cluster.val = [] → exec (.quireRelease cell sn age) s
        = .next (dropUl (setUl (if x.rcd.pusch = [] ∧ x.rcd.uci = [] then v
            else v.slotError cell.val (sfnOf sn) (slotOf sn) 3) (slotKey cell.val sn) fun y =>
          { y with released := true, syms := [] }) (slotKey cell.val sn)))
      ∧ (∀ tag w0 d w y, v.inService c.cluster.val ≠ [] → newQuire v c.cluster .slotReception (cell.val + 1) cell.val sn
          (some ((v.cl c.cluster).counter.toNat - (v.ticks.toNat - t) + 8750)) = (tag, w0) → w0.draw = (d, w) →
        y = ((setUl (w.setCoding fun y =>
          { y with rx := tset y.rx tag.toNat (rxOf w c x tag t d) }) (slotKey cell.val sn) fun y =>
            { y with released := true }).setQuire tag.toNat fun q => { q with flags := { q.flags with missing := x.missing } }) →
        (y.modelSlotOf c.modelId = none → exec (.quireRelease cell sn age) s = .next (sampleYard y c x))
        ∧ (∀ i, y.modelSlotOf c.modelId = some i →
          exec (.quireRelease cell sn age) s = .next (sampleYard (sampleModel y i c x) c x))))
    ∧ (∀ (cell : Fin 64) (sn : Nat) (age : Fin 101) (s : State) (c : Cell) (x : UlCtx), s.cell? cell.val = some c →
      tget? s.fe.ul (slotKey cell.val sn) = some x →
      (x.closeTick = none ∨ x.released = true ∨ x.syms.all (·.stored) = false) →
      exec (.quireRelease cell sn age) s = .next s)

/-- DL_TX_WINDOW_OPEN advances to the window and sends a symbol that is owed and held, where its port sends and the slot
is one it resumed for. DL_TX_WINDOW_CLOSE sends it so, or discards what is owed as late and counts it. PORT_UP with a
rate common to both ends, an allowed module and a running device raises the port at that rate, lets its cells resume
and reports it; else it does nothing. PORT_DOWN reports a port that was up. A module inserted is present, alone; its
pages, and whether the checksum was good, are kept and it is judged; one that answers nothing in 2 s is judged
unidentified; the judgement is made for every cage on MODULE_EVALUATE: mode 0 or a listed module allows it, mode 1
allows and reports one not listed, mode 2 brings its port down and quarantines and reports it. A removed module leaves
its cage empty and its entry absent. A counting module counts minutes, takes bias readings by lane, and each hour
closes its means and reports a low remaining life once. A flag of a present module goes to the host.
MKA_KEY_DISTRIBUTE on a port with a connectivity key and MACsec installs the new association of a channel beside the
old one and moves the transmit side; SA_RETIRE ends the old ones whose second has passed. (R25, R289, R290, R291,
R305, R308, R309, R310, R311, R312) -/
def Obligations.Downlink_symbols_ports_and_modules_act : Prop :=
  (∀ (cell : Fin 64) (sn k t : Nat) (s u : State) (c : Cell) (d : DlCtx), s.cell? cell.val = some c →
      dlCtx? s cell.val sn = some d → c.symAt sn k = some t → u = s.advanceTo (t - c.upMax) →
      (∀ l, tget? d.held k = some l → dlOwed d k = true → dlSends u c sn = true →
        exec (.dlTxWindowOpen cell sn k) s = .next (sendSymbol u d c.fhPort k l))
      ∧ ((tget? d.held k = none ∨ dlOwed d k = false ∨ dlSends u c sn = false) →
        exec (.dlTxWindowOpen cell sn k) s = .next u))
    ∧ (∀ (cell : Fin 64) (sn k t : Nat) (s u : State) (c : Cell) (d : DlCtx), s.cell? cell.val = some c →
      dlCtx? s cell.val sn = some d → c.symAt sn k = some t → u = s.advanceTo (t - c.upMin) → dlOwed d k = true →
      (∀ l, tget? d.held k = some l → dlSends u c sn = true →
        exec (.dlTxWindowClose cell sn k) s = .next (sendSymbol u d c.fhPort k l))
      ∧ ((tget? d.held k = none ∨ dlSends u c sn = false) →
        exec (.dlTxWindowClose cell sn k) s = .next ((u.setCoding fun x =>
          { x with dl := tset x.dl d.tag.toNat { d with lateTx := d.lateTx ++ [k], held := tdel d.held k } }).feCount
            .lateTx cell.val)))
    ∧ (∀ (p : Fin 8) (peer : BitVec 3) (rate : Nat) (s u : State), rate = commonRate s p.val peer →
      u = s.setPort p (fun x => { x with up := true, rate := rate }) →
      ((s.port p.val).up = false ∧ rate ≠ 0 ∧ moduleAllows s p = true ∧ s.busumUp = true ∧ s.lanesOn = true →
        exec (.portUp p peer) s = .next (fhLink ((cellsOnPort u p.val).foldl (fun s c =>
          s.setCell c.1 fun c => { c with resume := max c.cpUl c.cpDl }) u) p.val rate true))
      ∧ (((s.port p.val).up = true ∨ rate = 0 ∨ moduleAllows s p = false ∨ s.busumUp = false ∨ s.lanesOn = false) →
        exec (.portUp p peer) s = .next s))
    ∧ (∀ (p : Fin 8) (s : State),
      ((s.port p.val).up = true →
        exec (.portDown p) s = .next (fhLink (s.setPort p fun x => { x with up := false, rate := 0 }) p.val 0 false))
      ∧ ((s.port p.val).up = false → exec (.portDown p) s = .next s))
    ∧ (∀ (i : Fin 8) (s : State), (s.fe.cages[i]).present = false →
      exec (.moduleInsert i) s = .next ((downPort i s).setCage i fun _ => { present := true }))
    ∧ (∀ (i : Fin 8) (lower upper : Bytes) (s u : State), (s.fe.cages[i]).present = true →
      u = s.setCage i (fun c => { c with
          ready := true, identified := pageGood upper, page0 := slice lower 0 128 ++ slice upper 0 128 }) →
      exec (.moduleIdentify i lower upper) s
        = .next (evaluateCage i (if pageGood upper = true then enterModule u (u.fe.cages[i]).serial else u)))
    ∧ (∀ (i : Fin 8) (s : State), (s.fe.cages[i]).present = true → (s.fe.cages[i]).ready = false → (s.fe.cages[i]).decided = false →
      exec (.moduleReadyTimeout i) s = .next (evaluateCage i (s.setCage i fun c => { c with decided := true })))
    ∧ (∀ (s : State), exec .moduleEvaluate s = .next ((List.finRange 8).foldl (fun s i => evaluateCage i s) s))
    ∧ (∀ (i : Fin 8) (s : State), (s.fe.cages[i]).present = true → ((s.fe.cages[i]).ready = true ∨ (s.fe.cages[i]).decided = true) →
      (s.fe.cages[i]).quarantined = false →
      ((s.fe.quarantineMode.val = 0 ∨ s.listed (s.fe.cages[i]) = true) →
        evaluateCage i s = s.setCage i fun c => { c with decided := true, quarantined := false, unlisted := false })
      ∧ (s.fe.quarantineMode.val = 1 → s.listed (s.fe.cages[i]) = false → (s.fe.cages[i]).unlisted = false →
        evaluateCage i s = (s.setCage i fun c => { c with decided := true, quarantined := false, unlisted := true }).event 0x0C
          i.val (toLE 2 i.val ++ (s.fe.cages[i]).identity))
      ∧ (s.fe.quarantineMode.val = 2 → s.listed (s.fe.cages[i]) = false →
        evaluateCage i s = ((downPort i (s.emit (.moduleCtl i.val true))).setCage i fun c =>
          { c with decided := true, quarantined := true, unlisted := false }).event 0x0D i.val
            (toLE 2 i.val ++ (s.fe.cages[i]).identity)))
    ∧ (∀ (i : Fin 8) (s u : State), (s.fe.cages[i]).present = true → u = (downPort i s).setCage i (fun _ => {}) →
      ((s.fe.cages[i]).identified = true → exec (.moduleRemove i) s = .next ((u.setFe fun e =>
        { e with absentSeq := e.absentSeq + 1 }).setModule (s.fe.cages[i]).serial fun m =>
          { m with absentAt := s.fe.absentSeq + 1 }))
      ∧ ((s.fe.cages[i]).identified = false → exec (.moduleRemove i) s = .next u))
    ∧ (∀ (i : Fin 8) (s : State), (s.fe.cages[i]).counts = true →
      exec (.powerOnMinute i) s = .next (s.setModule (s.fe.cages[i]).serial fun m => { m with minutes := m.minutes + 1 })
      ∧ (∀ (mult : Nat) (bias : List (BitVec 16)), exec (.biasSample i ⟨mult, bias⟩) s
        = .next (s.setModule (s.fe.cages[i]).serial fun m => { m with
          readings := ((List.range bias.length).zip bias).foldl (fun t p => tmod t p.1 [] (mult * p.2.toNat :: ·)) m.readings }))
      ∧ (∀ m n, s.moduleOf (s.fe.cages[i]).serial = some m → n = remainingLife s (closeHour m) →
        exec (.lifeUpdate i) s = .next (if n ≤ s.fe.lifeWarn ∧ m.lifeRaised = false then
            (s.setModule (s.fe.cages[i]).serial fun _ => { closeHour m with lifeRaised := true }).event 0x0E i.val
              (toLE 4 i.val ++ toLE 4 n)
          else s.setModule (s.fe.cages[i]).serial fun _ =>
            { closeHour m with lifeRaised := m.lifeRaised || decide (n ≤ s.fe.lifeWarn) })))
    ∧ (∀ (i : Fin 8) (flags : Byte) (s : State), (s.fe.cages[i]).present = true →
      exec (.moduleFlag i flags) s = .next (s.event 0x0F i.val (toLE 4 i.val ++ toLE 4 flags.toNat)))
    ∧ (∀ (p : Fin 8) (sci : Nat) (an : Fin 4) (s : State), (s.port p.val).cak ≠ [] → (s.port p.val).macsecMode ≠ 0 →
      exec (.mkaKeyDistribute p sci an) s = .next (s.setPort p fun x => { x with
        rxOld := x.rxSas.filter (·.sci == sci) ++ x.rxOld.filter (·.sci != sci)
        rxSas := (x.rxSas.filter (·.sci != sci) ++ [({ sci := sci, an := an } : RxSa)]).drop
          (if 8 ≤ (x.rxSas.filter (·.sci != sci)).length then 1 else 0)
        txAn := an
        txPn := 1 }))
    ∧ (∀ (p : Fin 8) (t : Nat) (s : State), (s.port p.val).retireAt = some t →
      exec (.saRetire p) s = .next ((s.advanceTo t).setPort p fun x => { x with
        rxOld := x.rxOld.filter fun a => match a.since with | some u => decide (t < u + usTicks 1000000) | none => true }))

/-- LLR_COMBINE of a PUSCH whose LLRs are not handed over yet, of a slot-reception neither late, posted nor faulted, hands
them over, and combines them where no earlier slot-reception owes the buffer; LLRs handed over before are combined
once their buffer is free, and stored at once where the slot-reception is late by then. LLR_SPILL acts above three
quarters of a ring only, and with HARQ configured. CODE_BLOCK_DECODE decodes a waiting or spilled block, takes it out
of its ring and passes it by its own check; a block whose read-back is lost fails with free LLRs; while the decoder
output has no room it does nothing. The part of a decoded block is written once. TB_CRC_CHECK of a transport block
whose blocks all have an outcome stores it and passes it where every block has its bits and its CRC is good.
HARQ_HEADER_WRITE writes the header once, when all parts are written. LABEL_ENCODE encodes and scrambles a passed
block again and joins the labels to the records and samples of its slot, unless a downlink block waits. POLAR_DECODE
and SMALL_BLOCK_DECODE read their part from the ring by its size and give it its outcome; each ignores the other's
sizes. DL_ENCODE stores an entry's coded bits, at its place in the quire's window where it has one there, and forms
the messages that are ready. PRACH_CORRELATION stores the profile of a root, stream and repetition; the last one of
its occasion detects. (R198, R199, R200, R202, R208, R210, R211, R212, R214, R215, R216) -/
def Obligations.Received_bits_are_combined_decoded_and_written_back : Prop :=
  (∀ (tag : BitVec 16) (i at_ : Nat) (ecc : HarqEcc) (s u : State) (r r1 : RxCtx) (x x1 : PuschCtx) (q : Quire),
      s.rx? tag = some r → r.pusch[i]? = some x → r.late = false → r.posted = false → x.handed = none → x.combined = false → x.modelLimit = false →
      tget? s.quires tag.toNat = some q → q.state ≠ .faulted →
      x1 = { x with handed := some (at_, ecc) } → r1 = { r with pusch := listMod r.pusch i fun x =>
        { x with handed := some (at_, ecc) } } →
      u = s.setPusch tag i (fun x => { x with handed := some (at_, ecc) }) →
      ((∀ a, harqAddr u x.pdu = some a → bufferFree u r1 a = true) →
        exec (.llrCombine tag i at_ ecc) s = .next (combinePusch u r1 i x1 at_ ecc))
      ∧ (∀ a, harqAddr u x.pdu = some a → bufferFree u r1 a = false → exec (.llrCombine tag i at_ ecc) s = .next u))
    ∧ (∀ (tag : BitVec 16) (i at_ at0 : Nat) (ecc ecc0 : HarqEcc) (s : State) (r : RxCtx) (x : PuschCtx),
      s.rx? tag = some r → r.pusch[i]? = some x → x.handed = some (at0, ecc0) →
      (x.combined = false → (∀ a, harqAddr s x.pdu = some a → bufferFree s r a = true) →
        exec (.llrCombine tag i at_ ecc) s = .next (if r.late = true then lateStore (combinePusch s r i x at0 ecc0) tag i
          else combinePusch s r i x at0 ecc0))
      ∧ ((x.combined = true ∨ ∃ a, harqAddr s x.pdu = some a ∧ bufferFree s r a = false) →
        exec (.llrCombine tag i at_ ecc) s = .next s))
    ∧ (∀ (k : Fin 4) (s : State),
      (s.coding.harq ≠ none → 3 * ringSize < 4 * ringBytes s k →
        exec (.llrSpill k) s = .next (spillGo s k s.coding.ring.length))
      ∧ ((s.coding.harq = none ∨ 4 * ringBytes s k ≤ 3 * ringSize) → exec (.llrSpill k) s = .next s))
    ∧ (∀ (tag : BitVec 16) (i n a m : Nat) (bad : Bool) (s u : State) (r : RxCtx) (x : PuschCtx) (c : CbCtx) (b : List Bool),
      s.rx? tag = some r → r.pusch[i]? = some x → x.cbs[n]? = some c → r.late = false → r.posted = false →
      (c.state = .waiting ∨ (c.state = .spilled ∧ bad = false)) → takePlace s tag i x.pdu = some (a, u) →
      ldpcDecode (segOf x.pdu) r.beta r.maxIter (backLlrs s x n c) = (b, m) →
      exec (.codeBlockDecode tag i n bad) s = .next ((leaveRing u tag i n).setCb tag i n fun y =>
        { y with
          state := if cbGood x.pdu b = true then .passed else .failed
          llr := backLlrs s x n c
          spill := none
          bits := b
          iters := m }))
    ∧ (∀ (tag : BitVec 16) (i n a d : Nat) (s u v : State) (r : RxCtx) (x : PuschCtx) (c : CbCtx),
      s.rx? tag = some r → r.pusch[i]? = some x → x.cbs[n]? = some c → r.late = false → r.posted = false → c.state = .spilled →
      takePlace s tag i x.pdu = some (a, u) → u.draw = (d, v) →
      exec (.codeBlockDecode tag i n true) s = .next
        ((v.setPusch tag i fun p => { p with missing := true, memFill := true }).setCb tag i n
          fun c => { c with state := .failed, llr := lostLlrs (segOf x.pdu).ncb d, spill := none }))
    ∧ (∀ (tag : BitVec 16) (i n : Nat) (bad : Bool) (s : State) (r : RxCtx) (x : PuschCtx) (c : CbCtx),
      s.rx? tag = some r → r.pusch[i]? = some x → x.cbs[n]? = some c → takePlace s tag i x.pdu = none → exec (.codeBlockDecode tag i n bad) s = .next s)
    ∧ (∀ (tag : BitVec 16) (i n : Nat) (s : State) (r : RxCtx) (x : PuschCtx) (c : CbCtx),
      s.rx? tag = some r → r.pusch[i]? = some x → x.cbs[n]? = some c → r.posted = false → (c.state = .passed ∨ c.state = .failed) →
      (c.written = false → exec (.codeBlockWriteback tag i n) s
        = .next ((writePart s x n c).setCb tag i n fun c => { c with written := true }))
      ∧ (c.written = true → exec (.codeBlockWriteback tag i n) s = .next s))
    ∧ (∀ (tag : BitVec 16) (i a : Nat) (s u : State) (r : RxCtx) (x : PuschCtx) (out : Bytes), s.rx? tag = some r → r.pusch[i]? = some x → r.late = false →
      r.posted = false → x.combined = true → x.tbPass = none →
      (x.cbs.all fun c => c.state == .passed || c.state == .failed || c.state == .stored) = true →
      takePlace s tag i x.pdu = some (a, u) → out = packBits ((tbBits x.pdu x.cbs).take x.pdu.tbs) →
      exec (.tbCrcCheck tag i) s = .next ((u.wr (codAt + decOut.base + a) out).setPusch tag i fun p => { p with
        tbPass := some ((x.cbs.all fun c => c.bits.length == (segOf x.pdu).kp)
          && (tbCrc x.pdu.tbs).good (tbBits x.pdu x.cbs))
        payload := out }))
    ∧ (∀ (tag : BitVec 16) (i : Nat) (s : State) (r : RxCtx) (x : PuschCtx) (ok : Bool), s.rx? tag = some r → r.pusch[i]? = some x →
      x.tbPass = some ok → r.posted = false → x.cbs.all (·.written) = true →
      (x.headerWritten = false → exec (.harqHeaderWrite tag i) s = .next (writeHeader s r i x ok))
      ∧ (x.headerWritten = true → exec (.harqHeaderWrite tag i) s = .next s))
    ∧ (∀ (tag : BitVec 16) (i : Nat) (s : State) (r : RxCtx) (x : PuschCtx) (l : List Bool), s.rx? tag = some r → r.pusch[i]? = some x →
      l = ((encodeTb (unpackBits x.pdu.tbs x.payload) x.pdu.bg x.pdu.qm x.pdu.layers x.pdu.rv.val x.pdu.g x.pdu.tbsLbrm
          x.pdu.cbgTx).zip (scrAt x.pdu.cInit.toNat x.pdu.ulAt x.pdu.g)).map (fun y => y.1 != y.2) →
      (x.tbPass = some true → downlinkWaits s = false → exec (.labelEncode tag i) s = .next (triggerYard
        ((List.range 16).foldl triggerAdapt ((s.setPusch tag i fun x => { x with labels := some l }).mapLabels r.cell r.sfnSlot
          fun t => listMod t i fun y => { y with labels := some l })) r.cell))
      ∧ ((x.tbPass ≠ some true ∨ downlinkWaits s = true) → exec (.labelEncode tag i) s = .next s))
    ∧ (∀ (tag : BitVec 16) (i at_ : Nat) (s : State) (r : RxCtx) (u : UciCtx), uciOpen s tag i = some (r, u) →
      12 ≤ u.part.k → exec (.polarDecode tag i at_) s = .next (uciDone s tag i u.part fun x =>
        match polarDecodeUci u.part.k (uciRead s tag u.part at_) with
        | some b => { x with outcome := 1, bits := b }
        | none => { x with outcome := 2 }))
    ∧ (∀ (tag : BitVec 16) (i at_ : Nat) (s : State) (r : RxCtx) (u : UciCtx) (b : List Bool) (m : Int) (t : Nat),
      uciOpen s tag i = some (r, u) → u.part.k ≠ 0 → u.part.k < 12 →
      smallDecode u.part.k u.part.qm (uciRead s tag u.part at_) = (b, m, t) →
      (t ≠ 0 → exec (.smallBlockDecode tag i at_) s = .next (uciDone s tag i u.part fun x =>
        if m * 256 < (r.dtxThr * t : Nat) then { x with outcome := 3, bits := [], metric := m * 256 / (t : Int) }
        else { x with outcome := 1, bits := b, metric := m * 256 / (t : Int) }))
      ∧ (t = 0 → exec (.smallBlockDecode tag i at_) s = .next (uciDone s tag i u.part fun x =>
        if 0 < r.dtxThr then { x with outcome := 3, bits := [], metric := 0 }
        else { x with outcome := 1, bits := b, metric := 0 })))
    ∧ (∀ (tag : BitVec 16) (i at_ : Nat) (s : State) (r : RxCtx) (u : UciCtx), uciOpen s tag i = some (r, u) →
      (u.part.k < 12 → exec (.polarDecode tag i at_) s = .next s)
      ∧ (12 ≤ u.part.k → exec (.smallBlockDecode tag i at_) s = .next s))
    ∧ (∀ (tag : BitVec 16) (i : Nat) (s : State) (d : DlCtx) (q : Quire) (p : Prog) (b : List Bool),
      tget? s.coding.dl tag.toNat = some d → tget? s.quires tag.toNat = some q → q.prog = some p →
      d.fault = false → d.posted = false → dlCoded d i = some b →
      (∀ a, p.codedAt[i]? = some a → a + (packBits b).length ≤ q.qd.len → exec (.dlEncode tag i) s
        = .next (holdReady ((s.wr (cmemAt q.cluster.val + q.qd.base + a) (packBits b)).setCoding fun c =>
          { c with dl := tset c.dl tag.toNat { d with coded := tset d.coded i b } }) tag))
      ∧ ((p.codedAt[i]? = none ∨ ∃ a, p.codedAt[i]? = some a ∧ q.qd.len < a + (packBits b).length) → exec (.dlEncode tag i) s
        = .next (holdReady (s.setCoding fun c =>
          { c with dl := tset c.dl tag.toNat { d with coded := tset d.coded i b } }) tag)))
    ∧ (∀ (tag : BitVec 16) (root stream rep : Nat) (u : Nat × List Nat) (s : State) (x x1 : PrachCtx) (q : Quire)
      (y : List (BitVec 32)), tget? s.coding.prach tag.toNat = some x → tget? s.quires tag.toNat = some q →
      q.state.open_ = true → x.detected = false → (prachRoots x.pdu)[root]? = some u → stream < x.streams →
      rep < prachReps x.pdu → y = (tget x.y (stream * 64 + rep) []).take (prachLen x.pdu) →
      x1 = { x with
        pdp := tset x.pdp ((root * 64 + stream) * 64 + rep)
          (prachProfile (prachLen x.pdu) u.1 (y ++ List.replicate (prachLen x.pdu - y.length) 0)) } →
      exec (.prachCorrelation tag root stream rep) s = .next (s.setCoding fun c => { c with
        prach := tset c.prach tag.toNat
          (if x1.pdp.length = (prachRoots x.pdu).length * x.streams * prachReps x.pdu
            then { x1 with detected := true, found := prachDetect x1 } else x1) }))

/-- TRAINING_STEP of an ended adaptation quire whose gradients fit the job makes one step of the training candidate; of
other gradients it does nothing. Where a model has no candidate, no job, no watch and no change waiting, has ADAPT_EN
and the records that a first batch needs, its quire is triggered with that job of a new candidate. SHADOW_EVALUATION
of LLRs that fit the job notes the candidate's mean loss; it stages a candidate that passes the four tests, to be
promoted from the model's point on, and rejects one that does not. CANDIDATE_STAGING writes the standby copy of an
engine of a cluster that holds the model, notes it, and with the last engine in service completes the cluster's
standby; it charges the time to consumer 0. AUTO_ROLLBACK does nothing before the watch's window is full; then it ends
the watch, going back to the parent where F_new exceeds F_old (1 + 2^-RB_K) + 16. YARDSTICK_MEASURE of an ended
measuring quire accumulates the blocks of the cell's oldest sample with the model's LLR_SCALE and takes the sample
out. YARDSTICK_EXPIRY advances to the oldest sample's age, drops it and counts it; what its quire brings is not used.
(R178, R180, R181, R182, R183, R186, R189) -/
def Obligations.Adaptation_and_the_yardstick_advance : Prop :=
  (∀ (i : Fin 16) (r : StepResult) (s : State) (m : Model) (v : Version) (tag : Nat) (q : Quire), s.model? i.val = some m →
      adaptDone s i.val = some tag → m.candidate? = some v → tget? s.quires tag = some q → v.state = .training →
      (stepFits m v r = true → exec (.trainingStep i r) s
        = .next (settleModel (s.setQuire tag fun q => { q with used := true }) i.val m (m.trainStep v q.pressed r)))
      ∧ (stepFits m v r = false → exec (.trainingStep i r) s = .next s))
    ∧ (∀ (i : Nat) (s : State) (m m1 : Model), s.model? i = some m → s.bePending (65 + i) = false → m.job = [] →
      m.candidate? = none → m.watch = none → m.promote = none → fld (m.nextParams.getD m.params) 0 1 = 1 →
      m.startCandidate.nextJob = some m1 →
      triggerAdapt s i = triggerBe (s.putModel i m m1) .adaptation (65 + i) i 0)
    ∧ (∀ (i : Fin 16) (r : EvalResult) (s : State) (m m1 : Model) (v : Version) (tag : Nat) (x : SampleRec), s.model? i.val = some m →
      adaptDone s i.val = some tag → m.candidate? = some v → v.state = .evaluating → evalFits m r = true →
      m.jobRecs.getLast? = some x →
      m1 = { m.setVersion v.number (fun x =>
        { x with meanLoss := BitVec.ofNat 32 (meanLoss m.llrScale (weighed m.jobRecs r.cand)) }) with job := [] } →
      (evalPasses m v r = false → exec (.shadowEvaluation i r) s
        = .next (settleModel (s.setQuire tag fun q => { q with used := true }) i.val m (m1.dropCandidate .rejected)))
      ∧ (evalPasses m v r = true → exec (.shadowEvaluation i r) s
        = .next (settleModel (s.setQuire tag fun q => { q with used := true }) i.val m
          { m1.setVersion v.number (fun x => { x with state := .staged }) with
            evalBatch := x.batch
            promote := some ⟨v.number, m.point s.pressed x.batch, false⟩ })))
    ∧ (∀ (i e : Fin 16) (s : State) (m : Model) (p : Promote) (k : Fin 4) (pos : Nat) (w : List Nat), s.model? i.val = some m →
      m.promote = some p → k = clOfEng e → (s.inService k.val).findIdx? (· == e.val) = some pos →
      w = e.val :: (if (m.copies[k]).writing = some p.version then (m.copies[k]).written else []).filter (· != e.val) →
      (i.val ∈ s.residentModels k → (m.copies[k]).standby ≠ some p.version → (m.copies[k]).active ≠ p.version →
        exec (.candidateStaging ⟨i, e⟩) s = .next (chargeTime ((writeStandby s k i.val pos e.val m p.version).setModel i.val fun m =>
          { m with copies := vmod m.copies k fun c => { c with
              standby := if (s.inService k.val).all w.contains = true then some p.version else none
              writing := some p.version
              written := w } }) k 0 (ceilDiv (m.adaptCopy (s.inService k.val).length pos p.version).length 1024)))
      ∧ ((i.val ∉ s.residentModels k ∨ (m.copies[k]).standby = some p.version ∨ (m.copies[k]).active = p.version) →
        exec (.candidateStaging ⟨i, e⟩) s = .next s))
    ∧ (∀ (i : Fin 16) (s : State) (m : Model) (w : Watch), s.model? i.val = some m → m.watch = some w →
      (w.seen < m.rbWindow → exec (.autoRollback i) s = .next s)
      ∧ (m.rbWindow ≤ w.seen → w.fNew * 2 ^ m.rbK ≤ w.fOld * (2 ^ m.rbK + 1) + 16 * 2 ^ m.rbK →
        exec (.autoRollback i) s = .next (settleModel s i.val m { m with watch := none }))
      ∧ (m.rbWindow ≤ w.seen → w.fOld * (2 ^ m.rbK + 1) + 16 * 2 ^ m.rbK < w.fNew * 2 ^ m.rbK →
        exec (.autoRollback i) s = .next (settleModel s i.val m { m with
          watch := none
          promote := some ⟨w.parent, m.point s.pressed m.clock, true⟩ })))
    ∧ (∀ (cell : Fin 64) (tag : BitVec 16) (s : State) (c : Cell) (x : YardSample) (l : List YardSample) (m : Model),
      yardDone s cell.val tag = true → s.cell? cell.val = some c → (tget s.yard cell.val {}).samples = x :: l →
      (s.modelSlotOf c.modelId).bind s.model? = some m →
      exec (.yardstickMeasure cell tag) s = .next (triggerYard { s.setQuire tag.toNat fun q => { q with used := true } with
        yard := tset s.yard cell.val { x.tbs.foldl (fun y t =>
          addTb m.llrScale y t.pdu.qm (x.measured c.yardMode m.llrScale t)) (tget s.yard cell.val {}) with samples := l } }
        cell.val))
    ∧ (∀ (cell : Fin 64) (s u : State) (c : Cell) (x : YardSample) (l : List YardSample), s.cell? cell.val = some c →
      (tget s.yard cell.val {}).samples = x :: l → u = s.advanceTo (x.at_ + usTicks (1000 * c.yardExpiry)) →
      exec (.yardstickExpiry cell) s = .next (triggerYard { u with
        yard := tmod u.yard cell.val {} fun y => { y with samples := l, dropped := y.dropped + 1 }
        quires := tmap u.quires fun _ q =>
          if q.kind = .yardstick ∧ q.owner = cell.val then { q with used := true } else q } cell.val))

/-- A wired and enabled link in TRAINING or DOWN takes the rate, lane set and width that its trained lanes select under
R315, and sends HELLO; where none is selected nothing happens. A HELLO that matches brings a link up; any difference
puts it in MISWIRED, an up link too; MISWIRED sends HELLO again after 100 ms. On a link that is up, a corrected
codeword is counted; a flit with an uncorrectable codeword or a CRC error is counted and answered with NAK, one with a
reserved KIND (model's choice, log entry 15) or an unexpected SEQ is answered with NAK, and a good one is taken. 4 us
without acknowledgement of buffered flits replay; a retrain that lasts 1 ms drops the link and its replay buffer.
CHIP_LOST of a member reports it and drops its held messages; CHIP_FOUND of a lost one reports it and sends what is
held. SPINE_RECOMPUTE makes a stale digest new. SPINE_ROUND sends SPINE to every reachable member. SPINE with the same
EPOCH and digest allows joint reception, with the same EPOCH and another digest stops it and raises SPINE_MISMATCH,
with another EPOCH stops it and counts a round, raising SPINE_MISMATCH at SPINE_GRACE; three periods without one stop
it and raise SPINE_MISSING. (R315, R316, R318, R321, R337, R338) -/
def Obligations.Stitch_links_and_members_change_state : Prop :=
  (∀ (l : Fin 4) (slow fast : BitVec 4) (s : State), s.lanesOn = true → (s.link l).enable = true → s.wired l = true →
      (s.link l).state = .training ∨ (s.link l).state = .down →
      (∀ rate set lanes, (s.link l).trains slow fast = some (rate, set, lanes) →
        exec (.linkTrained l slow fast) s = .next (((s.setLinkState l .training).setLink l fun k =>
          { k with lanes := lanes, laneSet := set, rate := rate }).sendHello l))
      ∧ ((s.link l).trains slow fast = none → exec (.linkTrained l slow fast) s = .next s))
    ∧ (∀ (l : Fin 4) (chip : BitVec 6) (pool : BitVec 64) (topo link : BitVec 2) (s : State),
      ((s.link l).state = .training ∧ (s.link l).lanes ≠ 0) ∨ (s.link l).state = .miswired →
      (pool.toNat = s.poolId → topo.toNat = s.topology → chip.toNat = s.neighbour l → link.toNat = peerLink l →
        exec (.hello l chip pool topo link) s = .next (linkUp s l))
      ∧ (pool.toNat ≠ s.poolId ∨ topo.toNat ≠ s.topology ∨ chip.toNat ≠ s.neighbour l ∨ link.toNat ≠ peerLink l →
        exec (.hello l chip pool topo link) s = .next (s.miswire l)))
    ∧ (∀ (l : Fin 4) (chip : BitVec 6) (pool : BitVec 64) (topo link : BitVec 2) (s : State),
      (s.link l).state = .up ∨ (s.link l).state = .degraded →
      pool.toNat ≠ s.poolId ∨ topo.toNat ≠ s.topology ∨ chip.toNat ≠ s.neighbour l ∨ link.toNat ≠ peerLink l →
      exec (.hello l chip pool topo link) s = .next (s.miswire l))
    ∧ (∀ (l : Fin 4) (s : State), (s.link l).state = .miswired →
      exec (.helloRetry l) s = .next ((s.advanceTo ((s.link l).helloAt + usTicks 100000)).sendHello l))
    ∧ (∀ (l : Fin 4) (b : Bytes) (fec : Fin 3) (s u : State) (want : BitVec 16), (s.link l).state = .up ∨ (s.link l).state = .degraded →
      want = (if bits (fld b 0 8) 60 4 = 1 then (s.link l).rxSeq + 1 else (s.link l).rxSeq) →
      u = (if fec.val = 1 then s.slCount .fecCorr l.val else s) →
      (fec.val = 2 → exec (.flitReceive l b fec) s = .next (sendNull (u.slCount .fecUncorr l.val) l true 0 0))
      ∧ (fec.val ≠ 2 → b.length ≠ 256 ∨ crc32c (b.take 252) ≠ fld b 252 4 →
        exec (.flitReceive l b fec) s = .next (sendNull (u.slCount .crcErr l.val) l true 0 0))
      ∧ (fec.val ≠ 2 → b.length = 256 → crc32c (b.take 252) = fld b 252 4 →
        1 < bits (fld b 0 8) 60 4 ∨ bits (fld b 0 8) 0 16 ≠ want.toNat →
        exec (.flitReceive l b fec) s = .next (sendNull u l true 0 0))
      ∧ (fec.val ≠ 2 → b.length = 256 → crc32c (b.take 252) = fld b 252 4 → bits (fld b 0 8) 60 4 ≤ 1 →
        bits (fld b 0 8) 0 16 = want.toNat →
        exec (.flitReceive l b fec) s = .next (goodFlit u l (fld b 0 8) (fld b 0xF8 2) (fld b 0xFA 1))))
    ∧ (∀ (l : Fin 4) (s : State), (s.link l).state = .up ∨ (s.link l).state = .degraded → (s.link l).replay ≠ [] →
      exec (.replayTimeout l) s = .next ((s.advanceTo ((s.link l).ackFrom + usTicks 4)).replayFrom l))
    ∧ (∀ (l : Fin 4) (s : State), (s.link l).retraining = true →
      exec (.linkHoldExpiry l) s = .next (((s.advanceTo ((s.link l).heldAt + usTicks 1000)).linkDown l).sendHeld)
      ∧ ((((s.advanceTo ((s.link l).heldAt + usTicks 1000)).linkDown l).link l).replay = []))
    ∧ (∀ (c : Fin 64) (s u : State), c.val ≠ s.chip → c.val < s.poolSize → (tget s.stitch.members c.val {}).lost = false →
      (∀ k : Fin 8, (s.core k).wait = none) → s.qctx = [] → s.stitch.outX = [] → u = (s.setStitch fun t => { t with
        members := tmod t.members c.val {} fun m => { m with lost := true }
        held := t.held.filter fun m => m.2.dst.toNat != c.val }).event 0x08 c.val (toLE 4 c.val) →
      exec (.chipLost c) s = .next u)
    ∧ (∀ (c : Fin 64) (s : State), (tget s.stitch.members c.val {}).lost = true →
      exec (.chipFound c) s = .next (((s.setStitch fun t =>
        { t with members := tmod t.members c.val {} fun m => { m with lost := false } }).event 0x09 c.val (toLE 4 c.val)).sendHeld))
    ∧ (∀ (s : State), (s.stitch.spineStale = true → exec .spineRecompute s = .next s.spineNow)
      ∧ (s.stitch.spineStale = false → exec .spineRecompute s = .next s))
    ∧ (∀ (s u : State), 1 < s.poolSize → u = s.advanceTo (s.stitch.roundAt + s.periodTicks) →
      exec .spineRound s = .next (((List.range u.poolSize).filter u.reachable).foldl (fun s c =>
        s.sendMsg { ctrlMsg s 0x30 c 0 0 0 s.epoch with data := s.stitch.spine })
          (u.setStitch fun t => { t with roundAt := u.ticks.toNat })))
    ∧ (∀ (m : SMsg) (s : State) (x : Member), m.dst.toNat = s.chip → m.typ = 0x30 → m.reservedSet = false → m.data.length ≤ 4096 →
      x = { tget s.stitch.members m.src.toNat {} with
        heardAt := s.ticks.toNat
        epoch := (m.arg.extractLsb' 0 64).toNat
        digest := m.data } →
      (x.epoch = s.epoch → m.data = s.stitch.spine →
        exec (.spine m) s = .next (s.putMember m.src.toNat { x with jrAllowed := true, epochRounds := 0 }))
      ∧ (x.epoch = s.epoch → m.data ≠ s.stitch.spine → exec (.spine m) s
        = .next ((s.putMember m.src.toNat { x with jrAllowed := false, epochRounds := 0 }).event 0x0A m.src.toNat
          (spineBody m.src.toNat x)))
      ∧ (x.epoch ≠ s.epoch → x.epochRounds + 1 ≠ s.spineGrace → exec (.spine m) s
        = .next (s.putMember m.src.toNat { x with jrAllowed := false, epochRounds := x.epochRounds + 1 }))
      ∧ (x.epoch ≠ s.epoch → x.epochRounds + 1 = s.spineGrace → exec (.spine m) s
        = .next ((s.putMember m.src.toNat { x with jrAllowed := false, epochRounds := x.epochRounds + 1 }).event 0x0A
          m.src.toNat (spineBody m.src.toNat x))))
    ∧ (∀ (c : Fin 64) (s u : State) (m : Member), s.reachable c.val = true → m = tget s.stitch.members c.val {} →
      u = s.advanceTo (m.heardAt + 3 * s.periodTicks) →
      exec (.spineMissing c) s = .next ((u.putMember c.val { m with jrAllowed := false, heardAt := u.ticks.toNat }).event 0x0B
        c.val (spineBody c.val m)))

/-- A WRITE, MCAST, SUM or JR message for this chip opens its transfer with MSG_SEQ 0 where there is none or it has ended,
and is taken where it is the next; without a transfer a later one is counted and READ_REQ asks from 0; of an ended one
a later message is counted; of an open one a message out of order is counted, with READ_REQ from what is received if
it lies beyond. A raw WRITE inside its quire's window writes its bytes there; outside it, or without a started quire,
it is refused and counted, and a SUM without one too. CUT asks for the rest of an open or an unknown transfer.
READ_REQ sends a WRITE or SUM again from its offset to a target not done. PROGRESS moves the transfer it names on;
COMPLETE ends it at its target, or undoes a grant where a refusal names no transfer. XFER_LOST of a WRITE or SUM whose
route is up faults its quire with 0x85 after 200 us. A stitch descriptor takes one count; its first failed check
faults its quire, a lost target faults it with 0x85, else it is launched. A carder descriptor takes one count, faults
its quire at its first failed check, and else moves its lines; one that was stopped takes no count. CARDER_DONE counts
the completion and frees the thread. JR_CUTOFF does nothing for a pressed quire; in loose mode it marks the cut-off of
the slot's halves. JR_AREA_DEADLINE without a quire releases the halves and their objects. (R145, R146, R324, R325,
R326, R330, R332, R333, R452) -/
def Obligations.Transfers_arrive_in_order_and_are_answered : Prop :=
  (∀ (m : SMsg) (par : Fin 3) (i : Instr) (on : SMsg → Bool → Placed → State → State × Verdict) (s : State), m.dst.toNat = s.chip → m.reservedSet = false → m.data.length ≤ 4096 →
      (m.typ = 4 → m.arg.extractLsb' 42 6 = 0#6) →
      (i = .write m par ∧ m.typ = 1 ∧ on = onWrite) ∨ (i = .mcast m par ∧ m.typ = 2 ∧ on = onMcast)
        ∨ (i = .sum m par ∧ m.typ = 3 ∧ on = onSum) ∨ (i = .jr m par ∧ m.typ = 4 ∧ on = onJr) →
      (s.inX? m.src.toNat m.xfer.toNat = none → m.seq = 0 → exec i s
        = .next (nextMsg on m par { src := m.src.toNat, num := m.xfer.toNat }
          (s.putIn { src := m.src.toNat, num := m.xfer.toNat })))
      ∧ (∀ x, s.inX? m.src.toNat m.xfer.toNat = some x → x.ended = false → m.seq = x.nextSeq →
        exec i s = .next (nextMsg on m par x s))
      ∧ (s.inX? m.src.toNat m.xfer.toNat = none → m.seq ≠ 0 → exec i s
        = .next (replyX (s.slCount .msgBad 0) m.src.toNat m.xfer.toNat 5 0))
      ∧ (∀ x, s.inX? m.src.toNat m.xfer.toNat = some x → x.ended = true → m.seq = 0 → exec i s
        = .next (nextMsg on m par { src := m.src.toNat, num := m.xfer.toNat }
          (s.putIn { src := m.src.toNat, num := m.xfer.toNat })))
      ∧ (∀ x, s.inX? m.src.toNat m.xfer.toNat = some x → x.ended = true → m.seq ≠ 0 →
        exec i s = .next (s.slCount .msgBad 0))
      ∧ (∀ x, s.inX? m.src.toNat m.xfer.toNat = some x → x.ended = false → x.refused = false → m.seq ≠ x.nextSeq →
        exec i s = .next (if seqBeyond x m then replyX (s.slCount .msgBad 0) m.src.toNat m.xfer.toNat 5 x.wire
          else s.slCount .msgBad 0)))
    ∧ (∀ (m : SMsg) (p : Placed) (s : State) (q : Quire), s.target? m.cluster m.tag = some q →
      (inside (argDst m + p.pos) p.data.length q.qd.base q.qd.len = true →
        onWrite m false p s = (s.wr (cmemAt m.cluster.val + (argDst m + p.pos)) p.data, .ok))
      ∧ (inside (argDst m + p.pos) p.data.length q.qd.base q.qd.len = false →
        onWrite m false p s = (s.slCount .refused 0, .refused 1)))
    ∧ (∀ (m : SMsg) (p : Placed) (s : State), s.target? m.cluster m.tag = none →
      onWrite m false p s = (s.slCount .refused 0, .refused 1) ∧ onSum m false p s = (s.slCount .refused 0, .refused 1))
    ∧ (∀ (m : SMsg) (s : State), m.dst.toNat = s.chip → m.reservedSet = false → m.data.length ≤ 4096 → m.typ = 8 →
      (s.inX? m.src.toNat m.xfer.toNat = none → exec (.cut m) s
        = .next (replyX (s.putIn { src := m.src.toNat, num := m.xfer.toNat, cut := true }) m.src.toNat m.xfer.toNat 5 0))
      ∧ (∀ x, s.inX? m.src.toNat m.xfer.toNat = some x → x.ended = false → x.refused = false → x.jrSlot = none →
        exec (.cut m) s = .next (replyX (s.putIn { x with cut := true }) m.src.toNat m.xfer.toNat 5 x.wire)))
    ∧ (∀ (m : SMsg) (s : State) (x : OutXfer), m.dst.toNat = s.chip → m.reservedSet = false → m.data.length ≤ 4096 → m.typ = 5 → s.outX? m.xfer.toNat = some x → (XDesc.of x.desc).many = false →
      x.targets.any (fun t => t.chip == m.src.toNat && !t.done) = true →
      exec (.readReq m) s = .next (sendWire s x m.src.toNat (m.arg.extractLsb' 0 32).toNat x.wire.length))
    ∧ (∀ (m : SMsg) (s : State), m.dst.toNat = s.chip → m.reservedSet = false → m.data.length ≤ 4096 → m.typ = 6 →
      exec (.progress m) s = .next (takeProgress s m.xfer.toNat m.src.toNat (m.arg.extractLsb' 0 32).toNat))
    ∧ (∀ (m : SMsg) (s : State), m.dst.toNat = s.chip → m.reservedSet = false → m.data.length ≤ 4096 → m.typ = 7 →
      ((m.arg.extractLsb' 0 8).toNat ≠ 1 ∨ s.outX? m.xfer.toNat ≠ none →
        exec (.complete m) s = .next (takeComplete s m.xfer.toNat m.src.toNat (m.arg.extractLsb' 0 8).toNat))
      ∧ ((m.arg.extractLsb' 0 8).toNat = 1 → s.outX? m.xfer.toNat = none →
        exec (.complete m) s = .next (undoGrant s m.xfer.toNat)))
    ∧ (∀ (num : BitVec 16) (s : State) (x : OutXfer) (l : Fin 4) (q : Quire), s.outX? num.toNat = some x →
      (XDesc.of x.desc).many = false → s.route (XDesc.of x.desc).chip = some l → (s.link l).retraining = false →
      (s.advanceTo (x.at_ + usTicks 200)).queueQuire x.queue = some q →
      exec (.xferLost num) s = .next (faultQuire (s.advanceTo (x.at_ + usTicks 200)) q.tag 0x85))
    ∧ (∀ (n : Fin 32) (s u : State) (t : BitVec 16) (q : Quire) (raw : Bytes), (s.stitch.queues[n]).quire = some t →
      tget? s.quires t.toNat = some q → (s.stitch.queues[n]).descs ≠ [] →
      (s.obj q.cluster (s.stitch.queues[n]).launchObj).count ≠ 0 → s.stitch.outX.any (fun x => x.queue == n.val) = false →
      q.state ≠ .suspended →
      raw = ((s.stitch.queues[n]).descs[(s.stitch.queues[n]).next.toNat % (s.stitch.queues[n]).descs.length]?).getD [] →
      u = s.putObj q.cluster (s.stitch.queues[n]).launchObj { s.obj q.cluster (s.stitch.queues[n]).launchObj with
        count := (s.obj q.cluster (s.stitch.queues[n]).launchObj).count - 1 } →
      (∀ code, (XDesc.of raw).check u q (s.stitch.queues[n]).next = some code →
        exec (.stitchDescriptor n) s = .next (faultQuire u q.tag code))
      ∧ ((XDesc.of raw).check u q (s.stitch.queues[n]).next = none → (XDesc.of raw).many = false →
        (tget s.stitch.members (XDesc.of raw).chip {}).lost = true →
        exec (.stitchDescriptor n) s = .next (faultQuire u q.tag 0x85))
      ∧ ((XDesc.of raw).check u q (s.stitch.queues[n]).next = none →
        ((XDesc.of raw).many = true ∨ (tget s.stitch.members (XDesc.of raw).chip {}).lost = false) →
        exec (.stitchDescriptor n) s = .next (launchX (u.setStitch fun t => { t with
          queues := t.queues.set n { s.stitch.queues[n] with next := (s.stitch.queues[n]).next + 1 } }) q n.val raw)))
    ∧ (∀ (k : Fin 4) (t : Fin 8) (err : SrcError) (s : State) (b : Thread) (q : Quire) (l : CarderList),
      (s.cl k).threads[t] = some b → tget? s.quires b.tag.toNat = some q → q.lists[b.list]? = some l → b.finishing = none →
      l.descs ≠ [] → (s.obj k l.launchObj).count ≠ 0 → q.state ≠ .suspended →
      exec (.carderDescriptor k t err) s = .next (carderTake s q l b t err))
    ∧ (∀ (s u : State) (q : Quire) (l : CarderList) (b : Thread) (t : Fin 8) (raw : Bytes) (d : CDesc) (err : SrcError),
      raw = (l.descs[l.next.toNat % l.descs.length]?).getD [] → d = CDesc.of raw → u = s.putObj q.cluster l.launchObj
        { s.obj q.cluster l.launchObj with count := (s.obj q.cluster l.launchObj).count - 1 } → l.line = none →
      (∀ code, d.check u q l t (d.indices u q) = some code → carderTake s q l b t err = faultQuire u q.tag code)
      ∧ (∀ v, d.check u q l t (d.indices u q) = none → v = countParity u q (d.readSpace .source) 0 →
        carderTake s q l b t .none = (((List.range d.count).foldl (d.moveLine v q (d.indices u q) []) v).setQuire q.tag.toNat
          fun q => { q with lists := listMod q.lists b.list fun l => { l with next := l.next + 1, line := none } }).setCl
          q.cluster fun c => { c with
            threads := c.threads.set t (some { b with finishing := some raw, lines := d.runs v q (d.indices u q) }) }))
    ∧ (∀ (k : Fin 4) (t : Fin 8) (err : SrcError) (s : State) (b : Thread) (q : Quire) (l : CarderList) (n : Nat),
      (s.cl k).threads[t] = some b → tget? s.quires b.tag.toNat = some q → q.lists[b.list]? = some l → b.finishing = none →
      l.descs ≠ [] → l.line = some n → q.state ≠ .suspended →
      exec (.carderDescriptor k t err) s = .next (carderTake s q l b t err))
    ∧ (∀ (s : State) (q : Quire) (l : CarderList) (b : Thread) (t : Fin 8) (raw : Bytes) (n : Nat),
      raw = (l.descs[l.next.toNat % l.descs.length]?).getD [] → l.line = some n →
      (CDesc.of raw).check s q l t ((CDesc.of raw).indices s q) = none →
      (carderTake s q l b t .none).obj q.cluster l.launchObj = s.obj q.cluster l.launchObj)
    ∧ (∀ (k : Fin 4) (t : Fin 8) (s u : State) (b : Thread) (q x : Quire) (raw : Bytes), (s.cl k).threads[t] = some b →
      b.finishing = some raw → tget? s.quires b.tag.toNat = some q →
      u = addDone (s.setCl k fun c => { c with threads := c.threads.set t (some { b with finishing := none, lines := [] }) })
        k b.tag
        (CDesc.of raw).doneObj (CDesc.of raw).doneN → (CDesc.of raw).ringEntry u k = none →
      tget? u.quires b.tag.toNat = some x →
      exec (.carderDone k t) s = .next (freeLeafThread u x (coreOf q.cluster (if t.val = 5 then 1 else 0))))
    ∧ (∀ (cell : Fin 64) (n : Nat) (s : State) (c : Cell) (q : Quire), s.cell? cell.val = some c →
      s.slotQuire cell.val n = some q → q.pressed = true → exec (.jrCutoff cell n) s = .next s)
    ∧ (∀ (cell : Fin 64) (n t : Nat) (s u : State) (c : Cell), s.cell? cell.val = some c → s.slotQuire cell.val n = none →
      s.pressed = false → s.closeOf cell.val n = some t → u = s.advanceTo (t + usTicks c.jrCutoff) →
      u.stitch.inX = [] → exec (.jrCutoff cell n) s = .next (u.setStitch fun t => { t with
        jr := tmap t.jr fun k h => if ((u.stitch.jr.filter fun p => p.1 / 8 == cell.val && p.1 % 2 == n % 2).map (·.1)).contains k
          then { h with cutoff := some n } else h }))
    ∧ (∀ (cell : Fin 64) (n : Nat) (s : State), s.slotQuire cell.val n = none →
      exec (.jrAreaDeadline cell n) s = .next ((s.stitch.jr.filter fun p => p.1 / 8 == cell.val && p.2.armed == some n).foldl
        (fun s p => (s.putObj p.2.cluster p.2.readyObj {}).setStitch fun t =>
          { t with jr := tset t.jr p.1 { p.2 with armed := none } }) s))

/-- POWER_ON_RESET and PWR_GOOD_FALL are the power-on reset, with PWR_GOOD as it then is, cause 1, ticks 0, and the fuses,
flash and host memory kept. With PWR_GOOD, PERST, THERMAL_TRIP (not tripped) and EXTEST are a COLD reset of their
cause, held by what brought it; WATCHDOG, and FIRMWARE_FATAL while Busum runs, are a COLD reset of theirs, after which
the boot ROM runs where nothing holds the part. Without PWR_GOOD, WATCHDOG does nothing and PERST only sets its hold.
A COLD reset keeps ticks, fuses, flash, sensors, host memory and the modules' presence, sets its cause and RESET, and
leaves no quire, cell, leaf or retired engine. PERST_DEASSERT 100 ms after PWR_GOOD, THERMAL_TRIP_RELEASE at 95
degrees and EXTEST_EXIT end their hold, and the boot ROM runs where none is left. THERMAL_SENSE notes its readings;
115 degrees trips. The boot ROM fails on a DDR5 population that breaks R32; with slot A preferred it starts Busum from
A where its tests pass, else from B where those pass, noting the fault of A, else it fails. HOT_RESET and
FUNCTION_LEVEL_RESET are the HOST level, HOT_RESET with LINK_DOWN_EVENT set: the link state (FLR keeps it trained),
HL_ERR_STATUS, IDE, and the long commands are cleared; locks, INT_STATUS, fuses, waiting responses, quires, memory,
configuration and cores stay; the fuse shadow is copied. FIRMWARE_INIT outside AON reaches READY with the keys derived
and the counters of the bundle fused. (R385, R388, R390, R401, R411, R413, R414, R415, R416, R441,
18_clocks_power_reset.md) -/
def Obligations.Resets_hold_clear_and_boot : Prop :=
  (∀ (s : State), exec .powerOnReset s = .next (powerOn true s) ∧ exec .pwrGoodFall s = .next (powerOn false s)
      ∧ (powerOn true s).boot.state = .reset ∧ (powerOn true s).boot.resetCause = 1
      ∧ (powerOn true s).sec.fuses = s.sec.fuses ∧ (powerOn true s).sec.flash = s.sec.flash
      ∧ (powerOn false s).boot.pwrGood = false ∧ (powerOn true s).ticks = 0)
    ∧ (∀ (s : State), s.boot.pwrGood = true →
      exec .perst s = .next (coldReset 2 { s with boot := { s.boot with perst := true } })
      ∧ (s.managed = false → exec .watchdog s = .next (coldReset 4 s))
      ∧ (s.managed = true → exec .watchdog s = .next (bootRom (coldReset 4 s)))
      ∧ (s.managed = true → s.busumUp = true → exec .firmwareFatal s = .next (bootRom (coldReset 6 s)))
      ∧ (s.boot.tripHold = false → exec .thermalTrip s
        = .next (coldReset 3 { s with boot := { s.boot with tripHold := true } }))
      ∧ exec .extest s = .next (coldReset 5 { s with boot := { s.boot with extestHold := true } }))
    ∧ (∀ (s : State), s.boot.pwrGood = false → exec .watchdog s = .next s
      ∧ exec .perst s = .next { s with boot := { s.boot with perst := true } })
    ∧ (∀ (cause : BitVec 4) (s : State) (i : Fin 8) (e : Fin 16), (coldReset cause s).ticks = s.ticks
      ∧ (coldReset cause s).boot.resetCause = cause ∧ (coldReset cause s).boot.state = .reset
      ∧ (coldReset cause s).sec.fuses = s.sec.fuses ∧ (coldReset cause s).sec.flash = s.sec.flash
      ∧ (coldReset cause s).power.sensors = s.power.sensors ∧ (coldReset cause s).quires = [] ∧ (coldReset cause s).cfg.cells = []
      ∧ ((coldReset cause s).cores[i]).leaf = none ∧ ((coldReset cause s).engines[e]).retired = false
      ∧ ((coldReset cause s).fe.cages[i]).present = (s.fe.cages[i]).present)
    ∧ (∀ (cause : BitVec 4) (s : State) (a : Nat), s.mem.wf = true → hostAt ≤ a →
      (coldReset cause s).mem.byte a = s.mem.byte a ∧ (powerOn true s).mem.byte a = s.mem.byte a)
    ∧ (∀ (ddr : DdrChannels) (s u : State), s.boot.pwrGood = true → s.boot.perst = true → u = s.advanceTo (usTicks 100000) →
      exec (.perstDeassert ddr none) s
        = .next (bootIfFree { u with boot := { u.boot with perst := false, ddr := ddr } })
      ∧ (∀ f : Flash, exec (.perstDeassert ddr (some f)) s
        = .next (bootIfFree ({ u with boot := { u.boot with perst := false, ddr := ddr } }.setSec fun x =>
          { x with flash := f }))))
    ∧ (∀ (s : State) (t : Vector (BitVec 8) 8),
      (s.boot.tripHold = true → s.power.hottest ≤ 95 → exec .thermalTripRelease s
        = .next (bootIfFree { s with boot := { s.boot with tripHold := false } }))
      ∧ (s.boot.extestHold = true → exec .extestExit s
        = .next (bootIfFree { s with boot := { s.boot with extestHold := false } }))
      ∧ (s.boot.pwrGood = true → (thermalReadings t s).power.hottest < 115 →
        exec (.thermalSense t) s = .next (thermalReadings t s))
      ∧ (s.boot.pwrGood = true → 115 ≤ (thermalReadings t s).power.hottest →
        exec (.thermalSense t) s = .next (thermalTrip (thermalReadings t s))))
    ∧ (∀ (s : State),
      (ddrOk s.boot.ddr = false → bootRom s = { s with boot := { s.boot with state := .failed, memFault := 1 } })
      ∧ (ddrOk s.boot.ddr = true → s.sec.flash.prefer ≠ 0xA5A50001 →
        slotFault s.sec.fuses (ddrTotal s.boot.ddr * 2 ^ 30) s.sec.flash.slotA = none →
        (bootRom s).boot.state = .firmwareInit ∧ (bootRom s).boot.bootSlotB = false)
      ∧ (∀ a, ddrOk s.boot.ddr = true → s.sec.flash.prefer ≠ 0xA5A50001 →
        slotFault s.sec.fuses (ddrTotal s.boot.ddr * 2 ^ 30) s.sec.flash.slotA = some a →
        slotFault s.sec.fuses (ddrTotal s.boot.ddr * 2 ^ 30) s.sec.flash.slotB = none →
        (bootRom s).boot.state = .firmwareInit ∧ (bootRom s).boot.bootSlotB = true
          ∧ (bootRom s).boot.faultA = BitVec.ofNat 8 a)
      ∧ (∀ a b, ddrOk s.boot.ddr = true → s.sec.flash.prefer ≠ 0xA5A50001 →
        slotFault s.sec.fuses (ddrTotal s.boot.ddr * 2 ^ 30) s.sec.flash.slotA = some a →
        slotFault s.sec.fuses (ddrTotal s.boot.ddr * 2 ^ 30) s.sec.flash.slotB = some b → (bootRom s).boot.state = .failed))
    ∧ (∀ (s : State), exec .hotReset s = .next ((hostReset false (d0Return s)).hlError 1)
      ∧ exec .functionLevelReset s = .next (hostReset true (d0Return s)) ∧ (s.power.state ≠ .aon → d0Return s = s))
    ∧ (∀ (keep : Bool) (s : State) (i : Fin 8), (hostReset keep s).host.l0 = (keep && s.host.l0)
      ∧ (hostReset keep s).host.lock = s.host.lock ∧ (hostReset keep s).host.intStatus = s.host.intStatus
      ∧ (hostReset keep s).host.err = 0 ∧ (hostReset keep s).host.secure0 = false ∧ (hostReset keep s).host.d3hot = false
      ∧ (hostReset keep s).mbx.longQ = [] ∧ (hostReset keep s).mbx.rspWait = s.mbx.rspWait
      ∧ (hostReset keep s).sec.fuses = s.sec.fuses ∧ (hostReset keep s).sec.shadow = s.sec.fuses
      ∧ (hostReset keep s).quires = s.quires ∧ (hostReset keep s).mem = s.mem ∧ (hostReset keep s).cfg = s.cfg
      ∧ ((hostReset keep s).cores[i]) = s.cores[i])
    ∧ (∀ (m : BitVec 16) (s : State), s.boot.state = .firmwareInit → s.power.state ≠ .aon →
      ∃ t, exec (.firmwareInit m) s = .next t ∧ t.boot.state = .ready ∧ t.sec.keys = true
        ∧ t.sec.fuses = advanceFuses s.sec.manifest s.sec.fuses)

/-- While the responder serves: GET_VERSION begins anew; GET_CAPABILITIES after it and NEGOTIATE_ALGORITHMS after both,
with an algorithm in common (else ERROR 7), are noted and answered; with all three agreed GET_DIGESTS,
GET_CERTIFICATE, CHALLENGE and GET_MEASUREMENTS are answered with what they ask for (a slot but 0, a place past the
chain or a block past 3: ERROR 1), and KEY_EXCHANGE opens the one session, or is answered with ERROR 0x0A while one is
open. FINISH completes a session, or ends it with ERROR 6 where its data is wrong; in a finished session END_SESSION
ends it and IDE_KM programs a stream's keys and then makes a keyed stream Secure, and what waits for the host goes
out. A request out of its turn is answered with ERROR 4. While nothing is served no request has an effect.
PCIE_LINK_TRAINED reaches L0 with its speed and width, below 32.0 GT/s or x16 with DEGRADED, and what waits goes out.
LINK_DOWN in L0 and, with IDE required, a Secure stream 0 that becomes insecure drop the link's work; without IDE
required the stream is only no longer Secure. The host channels, 8 to 15, are empty after a stop. (R345, R346, R358,
R371, R393, R424) -/
def Obligations.Spdm_and_the_host_link_answer : Prop :=
  (∀ (s : State), s.barServed = true →
      exec .getVersion s = .next (spdmReply (s.setSpdm fun _ => { version := true }) 0x04 [] [])
      ∧ (s.sec.spdm.version = true →
        exec .getCapabilities s = .next (spdmReply (s.setSpdm fun p => { p with caps := true }) 0x61 [] []))
      ∧ (s.sec.spdm.version = false → exec .getCapabilities s = .next (spdmError s 4)
        ∧ ∀ a b : Bool, exec (.negotiateAlgorithms a b) s = .next (spdmError s 4))
      ∧ (∀ a b : Bool, s.sec.spdm.version = true → s.sec.spdm.caps = true → (a = true ∨ b = true) →
        exec (.negotiateAlgorithms a b) s = .next (spdmReply (s.setSpdm fun p => { p with algs := true }) 0x63 []
          (toLE 1 a.toNat ++ toLE 1 b.toNat)))
      ∧ (s.sec.spdm.version = true → s.sec.spdm.caps = true →
        exec (.negotiateAlgorithms false false) s = .next (spdmError s 7)))
    ∧ (∀ (s : State) (off len i : Nat) (nonce : Bytes), s.barServed = true → s.sec.spdm.agreed = true →
      exec .getDigests s = .next (spdmReply s 0x01 [] s.chain)
      ∧ (off ≤ s.chain.length →
        exec (.getCertificate 0 off len) s = .next (s.emit (.spdm 0x02 ((s.chain.drop off).take len))))
      ∧ exec (.challenge 0 nonce) s = .next (spdmReply s 0x03 [] nonce)
      ∧ exec (.getMeasurements 0 nonce) s = .next (spdmReply s 0x60 (toLE 1 3) nonce)
      ∧ exec (.getMeasurements 255 nonce) s = .next (spdmReply s 0x60 ([1, 2, 3].flatMap (measurement s)) nonce)
      ∧ (1 ≤ i → i ≤ 3 → exec (.getMeasurements i nonce) s = .next (spdmReply s 0x60 (measurement s i) nonce)))
    ∧ (∀ (s : State) (slot off len i : Nat) (nonce : Bytes), s.barServed = true → s.sec.spdm.agreed = true →
      (slot ≠ 0 ∨ s.chain.length < off → exec (.getCertificate slot off len) s = .next (spdmError s 1))
      ∧ (slot ≠ 0 → exec (.challenge slot nonce) s = .next (spdmError s 1))
      ∧ (3 < i → i ≠ 255 → exec (.getMeasurements i nonce) s = .next (spdmError s 1)))
    ∧ (∀ (s : State) (slot off len i : Nat) (n : BitVec 16) (nonce kem : Bytes), s.barServed = true → s.sec.spdm.agreed = false →
      exec .getDigests s = .next (spdmError s 4) ∧ exec (.getCertificate slot off len) s = .next (spdmError s 4)
      ∧ exec (.challenge slot nonce) s = .next (spdmError s 4) ∧ exec (.getMeasurements i nonce) s = .next (spdmError s 4)
      ∧ exec (.keyExchange n kem) s = .next (spdmError s 4))
    ∧ (∀ (s : State) (hmac : Bytes) (i : Fin 2) (go : Bool), s.barServed = true →
      ((s.sec.spdm.session = none ∨ s.sec.spdm.finished = true) → exec (.finish hmac) s = .next (spdmError s 4))
      ∧ ((s.sec.spdm.session = none ∨ s.sec.spdm.finished = false) →
        exec .endSession s = .next (spdmError s 4) ∧ exec (.ideKm i go) s = .next (spdmError s 4)))
    ∧ (∀ (s : State) (n : BitVec 16) (kem : Bytes), s.barServed = true → s.sec.spdm.agreed = true →
      (s.sec.spdm.session = none → exec (.keyExchange n kem) s
        = .next (spdmReply (s.setSpdm fun p => { p with session := some n, finished := false }) 0x64 [] kem))
      ∧ (s.sec.spdm.session ≠ none → exec (.keyExchange n kem) s = .next (spdmError s 0x0A)))
    ∧ (∀ (s : State) (n : BitVec 16) (hmac : Bytes), s.barServed = true → s.sec.spdm.session = some n →
      (s.sec.spdm.finished = false → Config.finishOk n hmac = true → exec (.finish hmac) s
        = .next (spdmReply (s.setSpdm fun p => { p with finished := true }) 0x65 [] hmac))
      ∧ (s.sec.spdm.finished = false → Config.finishOk n hmac = false → exec (.finish hmac) s
        = .next (spdmError (s.setSpdm fun p => { p with session := none }) 6))
      ∧ (s.sec.spdm.finished = true → exec .endSession s
        = .next (spdmReply (s.setSpdm fun p => { p with session := none, finished := false }) 0x6C [] []))
      ∧ (s.sec.spdm.finished = true → ∀ (i : Fin 2) (go : Bool),
        exec (.ideKm i go) s = .next (ideKm i go s).drainRsp.drainSpc))
    ∧ (∀ (s : State), ideKm 0 false s = s.setHost (fun h => { h with keyed0 := true })
      ∧ (s.host.keyed0 = true → ideKm 0 true s = s.setHost (fun h => { h with secure0 := true }))
      ∧ (s.host.keyed0 = false → ideKm 0 true s = spdmError s 4)
      ∧ ideKm 1 false s = s.setHost (fun h => { h with keyed1 := true })
      ∧ (s.host.keyed1 = true → ideKm 1 true s = s.setHost (fun h => { h with secure1 := true }))
      ∧ (s.host.keyed1 = false → ideKm 1 true s = spdmError s 4))
    ∧ (∀ (s : State) (slot off len i : Nat) (a b go : Bool) (n : BitVec 16) (nonce kem hmac : Bytes) (j : Fin 2), s.barServed = false →
      exec .getVersion s = .next s ∧ exec .getCapabilities s = .next s ∧ exec (.negotiateAlgorithms a b) s = .next s
      ∧ exec .getDigests s = .next s ∧ exec (.getCertificate slot off len) s = .next s ∧ exec (.challenge slot nonce) s = .next s
      ∧ exec (.getMeasurements i nonce) s = .next s ∧ exec (.keyExchange n kem) s = .next s ∧ exec (.finish hmac) s = .next s
      ∧ exec .endSession s = .next s ∧ exec (.ideKm j go) s = .next s)
    ∧ (∀ (speed : BitVec 3) (width : BitVec 5) (s u : State),
      u = s.setHost (fun h => { h with speed := speed, width := width, l0 := true }) →
      exec (.pcieLinkTrained speed width) s
        = .next (if speed.toNat < 5 ∨ width.toNat < 16 then u.hlError 0 else u).drainRsp.drainSpc)
    ∧ (∀ (s : State),
      (s.host.l0 = true → exec .linkDown s = .next (s.setHost fun h => { h with l0 := false }).dropLink)
      ∧ (s.host.l0 = false → exec .linkDown s = .next s)
      ∧ (s.host.secure0 = true → s.host.ideRequired = true → exec .ideStreamInsecure s
        = .next (s.setHost fun h => { h with secure0 := false, keyed0 := false }).dropLink)
      ∧ (s.host.secure0 = true → s.host.ideRequired = false → exec .ideStreamInsecure s
        = .next (s.setHost fun h => { h with secure0 := false, keyed0 := false })))
    ∧ (∀ (s : State) (i : Fin 16), 8 ≤ i.val → (s.stopDma.dma[i]) = {})

/-- While nothing holds the part in reset: POWER_WINDOW_END notes the mean and judges POWER by it, down above 60 W, up at
57 W or less, and CURRENT up with it; a cause that is judged down at step 0 asks for one step slower and the step
stays. IMON_SAMPLE notes whether it is above 66 A; a second such sample in a row makes CURRENT ask.
THROTTLE_STEP_CHANGE moves one step towards a slower step asked for, or one back, 10 ms after the last move back, or
nothing where the step is the one asked for. While something holds it these do nothing. THROTTLE_HOLD_EXPIRY ends a
cause's asking 10 ms after its condition to step up began; without one it does nothing. DOMAIN_GATE gates a domain
without work, never the AON domain or a busy one. PLL_STANDBY in QUIET stops PLL_ARRAY or PLL_CORE with all its
domains gated; in another state, or for another PLL, it does nothing. DOMAIN_WAKE while lanes are powered clocks a
domain and runs its PLL; else it clocks one that no PLL feeds. (R37, R404, R405, R409, R410, R445) -/
def Obligations.Power_clocks_and_throttle_move : Prop :=
  (∀ (mean : BitVec 16) (s : State), s.managed = true → exec (.powerWindowEnd mean) s = .next (s.setPower fun p =>
      (({ p with meanPower := mean }).judge s.ticks.toNat 1 (decide (60 * 256 < mean.toNat)) (decide (mean.toNat ≤ 57 * 256))).judge
        s.ticks.toNat 2 false (decide (mean.toNat ≤ 57 * 256))))
    ∧ (∀ (p : Power) (now : Nat) (up : Bool), p.step = 0 → p.askPower = 0 →
      (p.judge now 1 true up).askPower = 1 ∧ (p.judge now 1 false up).askPower = 0 ∧ (p.judge now 1 true up).step = p.step)
    ∧ (∀ (n : Nat) (s : State), s.managed = true →
      (n ≤ 66000 ∨ s.power.imonOver = false →
        exec (.imonSample n) s = .next (s.setPower fun p => { p with imonOver := decide (66000 < n) }))
      ∧ (66000 < n → s.power.imonOver = true → s.power.step = 0 → s.power.askCurrent = 0 →
        exec (.imonSample n) s = .next (s.setPower fun p =>
          { p with askCurrent := 1, upSince := p.upSince.set 2 none, imonOver := true })))
    ∧ (∀ (c : Fin 3) (s : State) (t : Nat), s.power.upSince[c] = some t → s.power.ask c ≠ 0 →
      exec (.throttleHoldExpiry c) s = .next ((s.advanceTo (t + usTicks 10000)).setPower fun p =>
        { p.setAsk c 0 with stopped := c.val + 1 }))
    ∧ (∀ (c : Fin 3) (s : State), s.power.upSince[c] = none ∨ s.power.ask c = 0 → exec (.throttleHoldExpiry c) s = .next s)
    ∧ (∀ (s : State), s.managed = true →
      (s.power.step.val < s.power.target → exec .throttleStepChange s = .next (setStep s.power.slower s.power.mover s))
      ∧ (∀ t, s.power.target < s.power.step.val → s.power.lastUp = some t → exec .throttleStepChange s
        = .next (setStep (if s.power.step.val = 2 then 1 else 0) s.power.stopped
          ((s.advanceTo (t + usTicks 10000)).setPower fun x =>
            { x with lastUp := some (s.advanceTo (t + usTicks 10000)).ticks.toNat })))
      ∧ (s.power.target = s.power.step.val → exec .throttleStepChange s = .next s))
    ∧ (∀ (s : State), s.managed = false → (∀ mean, exec (.powerWindowEnd mean) s = .next s)
      ∧ (∀ n, exec (.imonSample n) s = .next s) ∧ exec .throttleStepChange s = .next s)
    ∧ (∀ (d : Fin 244) (s : State),
      (d.val = 0 → exec (.domainGate d) s = .next s)
      ∧ (domainBusy s d.val = true → exec (.domainGate d) s = .next s)
      ∧ (domainBusy s d.val = false → s.power.gated.contains d.val = false →
        exec (.domainGate d) s = .next (s.setPower fun p => { p with gated := d.val :: p.gated })))
    ∧ (∀ (p : Fin 4) (s : State), s.power.pllStandby.contains p.val = false →
      (s.power.state = .quiet → p.val < 2 → (∀ d < 244, pllOf d = some p.val → s.power.gated.contains d = true) →
        exec (.pllStandby p) s = .next (s.setPower fun x => { x with pllStandby := p.val :: x.pllStandby }))
      ∧ (s.power.state ≠ .quiet ∨ 2 ≤ p.val → exec (.pllStandby p) s = .next s))
    ∧ (∀ (d : Fin 244) (s : State),
      (s.lanesOn = true → exec (.domainWake d) s = .next (s.setPower fun x => { x with
        gated := x.gated.filter (· != d.val)
        pllStandby := x.pllStandby.filter fun p => some p != pllOf d.val }))
      ∧ (s.lanesOn = false → pllOf d.val = none →
        exec (.domainWake d) s = .next (s.setPower fun x => { x with gated := x.gated.filter (· != d.val) })))

/-- For every command that carries configuration records, when served with a length in its bounds: if one record of it is
not followed by its bitwise complement of the same length, the command answers CFG_INTEGRITY (5) with no correction
reported, whatever its other fields hold, and its next state is the one in which the command was read and nothing of
it applied; a SLOT_CONFIG or POWER_STATE of several leaves ends so at its last leaf. The lengths and places of the
records follow the tables of the commands (log entry 8 where the spec gives no place). (R373) -/
def Obligations.Complements_are_checked_before_any_field : Prop :=
  (∀ (c : Cmd) (s : State), Served 0x10 false c s → exactLen 128 c.params.length = true → cplAt c.params 0 64 = false →
      exec (.mbxConfig c) s = .next (reply 0x10 c 5 0 [] [] (s.takeCmd c.len)))
    ∧ (∀ (c : Cmd) (s : State), Served 0x11 false c s → exactLen 256 c.params.length = true → cplAt c.params 0 128 = false →
      exec (.schedConfig c) s = .next (reply 0x11 c 5 0 [] [] (s.takeCmd c.len)))
    ∧ (∀ (c : Cmd) (s : State), ServedLong false c s → slotLen c.params.length = true →
      (∃ b ∈ chunks 512 c.params, cplAt b 0 256 = false) →
      exec (.slotConfig c) s = .next (reply 0x12 c 5 0 [] [] (s.takeCmd c.len)))
    ∧ (∀ (c : Cmd) (s : State), Served 0x13 false c s → exactLen 1184 c.params.length = true → (cplAt c.params 0 296 = false ∨ cplAt c.params 592 296 = false) →
      exec (.fhConfig c) s = .next (reply 0x13 c 5 0 [] [] (s.takeCmd c.len)))
    ∧ (∀ (c : Cmd) (s : State), Served 0x14 false c s → exactLen 192 c.params.length = true → (∃ l < 4, cplAt c.params (48 * l) 24 = false) →
      exec (.slConfig c) s = .next (reply 0x14 c 5 0 [] [] (s.takeCmd c.len)))
    ∧ (∀ (c : Cmd) (s : State), Served 0x15 false c s → exactLen 128 c.params.length = true → cplAt c.params 0 64 = false →
      exec (.poolConfig c) s = .next (reply 0x15 c 5 0 [] [] (s.takeCmd c.len)))
    ∧ (∀ (c : Cmd) (s : State), Served 0x16 false c s → exactLen 64 c.params.length = true → cplAt c.params 0 32 = false →
      exec (.harqConfig c) s = .next (reply 0x16 c 5 0 [] [] (s.takeCmd c.len)))
    ∧ (∀ (c : Cmd) (s : State), Served 0x17 false c s → exactLen 176 c.params.length = true → cplAt c.params 0 88 = false →
      exec (.dmaConfig c) s = .next (reply 0x17 c 5 0 [] [] (s.takeCmd c.len)))
    ∧ (∀ (c : Cmd) (s : State), Served 0x18 false c s → exactLen 64 c.params.length = true → cplAt c.params 0 32 = false →
      exec (.windowCreate c) s = .next (reply 0x18 c 5 0 [] [] (s.takeCmd c.len)))
    ∧ (∀ (c : Cmd) (s : State), Served 0x24 false c s → exactLen 136 c.params.length = true → cplAt c.params 8 64 = false →
      exec (.adaptConfig c) s = .next (reply 0x24 c 5 0 [] [] (s.takeCmd c.len)))
    ∧ (∀ (c : Cmd) (s : State), Served 0x38 false c s → exactLen 32 c.params.length = true → cplAt c.params 0 16 = false →
      exec (.colophonStore c) s = .next (reply 0x38 c 5 0 [] [] (s.takeCmd c.len)))
    ∧ (∀ (c : Cmd) (s : State), Served 0x42 false c s → (fun l => decide (80 ≤ l ∧ l ≤ 5216)) c.params.length = true → cplAt c.params 0 (c.params.length / 2) = false →
      exec (.modulePolicy c) s = .next (reply 0x42 c 5 0 [] [] (s.takeCmd c.len)))
    ∧ (∀ (c : Cmd) (s : State), ServedLong false c s → exactLen 32 c.params.length = true → cplAt c.params 0 16 = false →
      exec (.powerState c) s = .next (reply 0x51 c 5 0 [] [] (s.takeCmd c.len)))
    ∧ (∀ (c : Cmd) (snap : Bytes) (s : State),
      ((∃ b ∈ chunks 512 c.params, cplAt b 0 256 = false) → doSlotConfig c snap s = CmdOut.fail s 5)
      ∧ (cplAt c.params 0 16 = false → doPowerState c snap s = CmdOut.fail s 5))

/-- For a legal register-mode PERM that issues on an engine in service, with sources a, b and index i: after it every
active lane of the destination is zero where bit 7 of its index element is 1, else the lane of a:b that bits 6 to 0 of
the element select, whatever bits 31 to 8 hold; a masked lane is kept, or zero with MZ; no quire, and no byte of
memory, changes, so no fault arises. (R104) -/
def Obligations.Perm_selects_lanes_by_index : Prop :=
  (∀ (c : Fin 8) (eng : Bool) (reg : Byte) (mask : Fin 8) (mz : Bool) (w : BitVec 64) (s : State) (q : Quire) (u : State) (va vb vi : List Nat), (stgOf w).opc = 0x90 →
      Issues c 2 (sRegs (stgOf w).srcs) q s → (s.eng (engOf c eng)).retired = false →
      (stgOf w).illegal (s.eng (engOf c eng)).acts reg.toNat = false → (stgOf w).formatOk = true →
      u = timeVec (s.landed c) c (engOf c eng) (stgOf w).cost ((0x70 + mask.val) :: (stgOf w).srcs) ((stgOf w).writes reg.toNat) →
      va = (VEnv.lanes { eng := u.eng (engOf c eng), core := u.core c } (stgOf w).a ((stgOf w).srcRf 0) (stgOf w).imm) →
      vb = (VEnv.lanes { eng := u.eng (engOf c eng), core := u.core c } (stgOf w).b ((stgOf w).srcRf 1) (stgOf w).imm) →
      vi = (VEnv.lanes { eng := u.eng (engOf c eng), core := u.core c } (stgOf w).c ((stgOf w).srcRf 2) (stgOf w).imm) →
      ∃ t, exec (.perm c eng reg mask mz w) s = .next t ∧ t.quires = s.quires ∧ t.mem = s.mem
        ∧ ∀ i < 64, ((t.eng (engOf c eng)).getV reg.toNat).getD i 0
          = if bit ((s.eng (engOf c eng)).getM mask.val) i = true then
              (if bit (vi.getD i 0) 7 = true then 0
               else if vi.getD i 0 % 128 < 64 then va.getD (vi.getD i 0 % 128) 0
               else vb.getD (vi.getD i 0 % 128 - 64) 0)
            else if mz = true then 0 else ((s.eng (engOf c eng)).getV reg.toNat).getD i 0)

/-- When a reading of any sensor is 115 degrees or more while the part is powered and not already tripped, the state after
it is the cold reset of cause THERMAL_TRIP (3), held in RESET. From every state that meets the invariant and is held
by the trip, each step leaves it held and in RESET, unless the command is THERMAL_TRIP_RELEASE and every sensor reads
95 degrees or less, or power itself falls or rises (POWER-ON). (R411) -/
def Obligations.Thermal_trip_holds_the_part_in_reset : Prop :=
  (∀ (r : Vector (BitVec 8) 8) (s : State) (i : Fin 8), s.boot.pwrGood = true → s.boot.tripHold = false →
      115 ≤ (r[i]).toInt →
      ∃ t, exec (.thermalSense r) s = .next t ∧ t.boot.resetCause = 3 ∧ t.boot.tripHold = true ∧ t.boot.state = .reset
        ∧ t.quires = [] ∧ t.cfg.cells = [] ∧ t.power.sensors = r)
    ∧ (∀ (s t : State), Inv s → s.boot.tripHold = true → step s = .next t →
      (t.boot.tripHold = true ∧ t.boot.state = .reset)
      ∨ (s.pending.head? = some .thermalTripRelease ∧ ∀ i : Fin 8, (s.power.sensors[i]).toInt ≤ 95)
      ∨ s.pending.head? = some .powerOnReset ∨ s.pending.head? = some .pwrGoodFall)

/-- From every state that meets the invariant and whose start-up state is FAILED, each step that answers a next state
leaves it in FAILED, unless the command is one that may bring a COLD or a POWER-ON reset. (R417) -/
def Obligations.Failed_start_up_lasts_until_a_reset : Prop :=
  ∀ (s t : State), Inv s → s.boot.state = .failed → step s = .next t →
      t.boot.state = .failed ∨ ∃ c, s.pending.head? = some c ∧ isResetCmd c = true

/-- Answering from a state in which the link serves requests, no response waits and RSPQ has room before its end: the
16-byte head and the padded response body stand in host memory at the next unit of the ring, the producer count is
advanced by the units taken, the index block holds it, INT_STATUS bit 2 is set, and, the vector not being masked, its
MSI-X message has gone out. Where the link does not serve requests the response waits in order. In every case the
engines, cores, clusters, quires, configuration, security, power and every byte of memory that is not host memory are
as before. (R361, R363, R365, R366, R424, 16_mailbox.md) -/
def Obligations.Answers_reach_the_response_ring : Prop :=
  (∀ (s : State) (code : Nat) (tag : BitVec 16) (status detail first count outLen : Nat) (body b : Bytes) (t : State),
      s.mem.wf = true → s.linkOk = true → s.mbx.rspWait = [] → s.mbx.rspq.base ≠ 0 →
      b = toLE 2 status ++ toLE 2 detail ++ toLE 4 first ++ toLE 2 count ++ toLE 2 0 ++ toLE 4 outLen ++ body →
      s.mbx.rspq.used + recUnits b ≤ s.mbx.rspq.size →
      s.mbx.rspq.prod.toNat % s.mbx.rspq.size + recUnits b ≤ s.mbx.rspq.size →
      (s.mbx.rspq.base + 16 * s.mbx.rspq.size ≤ s.mbx.idxLatched ∨ s.mbx.idxLatched + 8 ≤ s.mbx.rspq.base) →
      s.respond code tag.toNat status detail first count outLen body = t →
      t.mem.read (hostAt + (s.mbx.rspq.base + 16 * (s.mbx.rspq.prod.toNat % s.mbx.rspq.size))) (16 * recUnits b)
          = recHead code tag.toNat s.mbx.rspq.seq.toNat (recUnits b) ++ padTo 16 b
      ∧ t.mbx.rspq.prod = s.mbx.rspq.prod + BitVec.ofNat 32 (recUnits b) ∧ t.mbx.rspq.cons = s.mbx.rspq.cons
      ∧ t.mem.read (hostAt + s.mbx.idxLatched) 8 = toLE 8 t.mbx.rspq.prod.toNat
      ∧ t.host.intStatus.getLsbD 2 = true ∧ t.mbx.rspWait = []
      ∧ (∀ v : Fin 64, v.val = s.mbx.rspVec → (s.host.msix[v]).masked = false → t.out = .msix v.val :: s.out))
    ∧ (∀ (s : State) (code tag status detail first count outLen : Nat) (body : Bytes), s.linkOk = false →
      s.respond code tag status detail first count outLen body
        = s.setMbx fun m => { m with rspWait := m.rspWait ++ [⟨code, tag, toLE 2 status ++ toLE 2 detail ++ toLE 4 first
            ++ toLE 2 count ++ toLE 2 0 ++ toLE 4 outLen ++ body⟩] })
    ∧ (∀ (s t : State) (code : Nat) (c : Cmd) (status detail : Nat) (body : Bytes) (rep : List Rep),
      s.mem.wf = true → reply code c status detail body rep s = t →
      t.engines = s.engines ∧ t.cores = s.cores ∧ t.clusters = s.clusters ∧ t.quires = s.quires ∧ t.cfg = s.cfg
        ∧ t.sec = s.sec ∧ t.power = s.power ∧ t.boot = s.boot ∧ t.fe = s.fe ∧ t.stitch = s.stitch ∧ t.coding = s.coding
        ∧ t.models = s.models ∧ t.dma = s.dma ∧ t.windows = s.windows ∧ t.ticks = s.ticks ∧ t.pending = s.pending
        ∧ (∀ a < hostAt, t.mem.byte a = s.mem.byte a))

/-- Where an LDS that is allowed, or an ARRAY_STREAM whose conditions hold, fetches or reads the word that its operand
names as failing, and the leaf has had fewer than three parity replays, no error on that word, and no second error on
a fetch, the instruction has no effect but the parity error. The parity error then counts one event, keeps memory,
restores the core to its boundary copy with its d registers cleared and its held SIGs dropped, and adds one to the
parity replays of the leaf. After three parity replays, on a word that failed before, or on a second fetch, the quire
faults with MEM_PARITY_PERSISTENT (0x57). A sync object whose words fail twice gives INTEGRITY to a TAKE, and a SIG on
an object of a quire is not applied. (R120, R135, R155, R156, R252, R262) -/
def Obligations.A_parity_error_replays_the_leaf : Prop :=
  (∀ (c : Fin 8) (rd ra : Fin 64) (imm : BitVec 32) (w : Nat) (s : State) (q : Quire) (a : Nat), Issues c 1 [ra.val] q s →
      coreAccess (s.landed c) c q (s.getS c ra + imm.signExtend 64).toNat 8 false none = .ok a →
      parityHit (s.landed c) q c 1 (some w) (wordIn · a 8) = true → (q.parity c).replays < 3 →
      (q.parity c).words.contains (w - w % 4) = false →
      (fetches (s.landed c) q c 1 w && (q.parity c).fetch) = false →
      exec (.lds c rd ra imm (some w)) s = .next (memParity (s.landed c) q c (fetches (s.landed c) q c 1 w) w))
    ∧ (∀ (c : Fin 8) (eng : Bool) (sa : Fin 64) (w : Nat) (s : State) (q : Quire) (m : ArrayMode) (o : StreamOps),
      IssuesEng c eng sa 2 1 q s → (s.eng (engOf c eng)).mode = some m →
      o = streamOpsOf (s.getS c sa.val).toNat (s.getS c (sa.val + 1)).toNat → streamFault q (s.eng (engOf c eng)) m o = none →
      parityHit (s.landed c) q c 1 (some w) (streamReads (s.eng (engOf c eng)) (engOf c eng) m o) = true →
      (q.parity c).replays < 3 → (q.parity c).words.contains (w - w % 4) = false →
      (fetches (s.landed c) q c 1 w && (q.parity c).fetch) = false →
      exec (.arrayStream c eng sa (some w)) s = .next (memParity (s.landed c) q c (fetches (s.landed c) q c 1 w) w))
    ∧ (∀ (s t : State) (q : Quire) (c : Fin 8) (fetch : Bool) (w : Nat), tget? s.quires q.tag.toNat = some q → (q.parity c).replays < 3 →
      (q.parity c).words.contains (w - w % 4) = false → (fetch && (q.parity c).fetch) = false → (s.core c).preempt = false →
      memParity s q c fetch w = t →
      t.mem = s.mem ∧ (t.core c).leaf = some q.tag ∧ (t.core c).cx = { (s.core c).boundary with flags := {} }
        ∧ (t.core c).d = [] ∧ (t.core c).sigs = [] ∧ (t.core c).wait = none ∧ (t.core c).takes = []
        ∧ (t.core c).replays = (s.core c).replays + 1
        ∧ ∃ x, tget? t.quires q.tag.toNat = some x ∧ (x.parity c).replays = (q.parity c).replays + 1
          ∧ (x.parity c).words = (w - w % 4) :: (q.parity c).words
          ∧ (x.parity c).fetch = ((q.parity c).fetch || fetch))
    ∧ (∀ (s : State) (q : Quire) (c : Fin 8) (fetch : Bool) (w : Nat),
      3 ≤ (q.parity c).replays ∨ (q.parity c).words.contains (w - w % 4) = true ∨ (fetch && (q.parity c).fetch) = true →
      memParity s q c fetch w = faultQuire (countWord s w) q.tag 0x57)
    ∧ (∀ (s : State) (k : Fin 4) (i : Nat) (tag n : BitVec 16) (m : BitVec 32) (e : SyncError), e = .parity ∨ e = .complement →
      (takeObj (meetError s k i e) k i tag n).1.st = .integrity
        ∧ (isSysObj i = false → sigObj (meetError s k i e) k i tag m = integrity (meetError s k i e) k i))
end

