-- ==== Sys2Proof/Laws/State.lean ====
section
/-!
SUPPORT. One lemma for each field of the state and each of its updates, so that no proof unfolds a record update.
-/

namespace Sys2Proof.Machine
open Sys2Proof

/-! ### setHost -/

@[simp] theorem State.setHost_ticks (s : State) (f : HostLink → HostLink) : (s.setHost f).ticks = s.ticks := rfl
@[simp] theorem State.setHost_boot (s : State) (f : HostLink → HostLink) : (s.setHost f).boot = s.boot := rfl
@[simp] theorem State.setHost_power (s : State) (f : HostLink → HostLink) : (s.setHost f).power = s.power := rfl
@[simp] theorem State.setHost_sec (s : State) (f : HostLink → HostLink) : (s.setHost f).sec = s.sec := rfl
@[simp] theorem State.setHost_host (s : State) (f : HostLink → HostLink) : (s.setHost f).host = f s.host := rfl
@[simp] theorem State.setHost_mbx (s : State) (f : HostLink → HostLink) : (s.setHost f).mbx = s.mbx := rfl
@[simp] theorem State.setHost_dma (s : State) (f : HostLink → HostLink) : (s.setHost f).dma = s.dma := rfl
@[simp] theorem State.setHost_windows (s : State) (f : HostLink → HostLink) : (s.setHost f).windows = s.windows := rfl
@[simp] theorem State.setHost_cfg (s : State) (f : HostLink → HostLink) : (s.setHost f).cfg = s.cfg := rfl
@[simp] theorem State.setHost_clusters (s : State) (f : HostLink → HostLink) : (s.setHost f).clusters = s.clusters := rfl
@[simp] theorem State.setHost_quires (s : State) (f : HostLink → HostLink) : (s.setHost f).quires = s.quires := rfl
@[simp] theorem State.setHost_qctx (s : State) (f : HostLink → HostLink) : (s.setHost f).qctx = s.qctx := rfl
@[simp] theorem State.setHost_ctxSlots (s : State) (f : HostLink → HostLink) : (s.setHost f).ctxSlots = s.ctxSlots := rfl
@[simp] theorem State.setHost_engines (s : State) (f : HostLink → HostLink) : (s.setHost f).engines = s.engines := rfl
@[simp] theorem State.setHost_cores (s : State) (f : HostLink → HostLink) : (s.setHost f).cores = s.cores := rfl
@[simp] theorem State.setHost_models (s : State) (f : HostLink → HostLink) : (s.setHost f).models = s.models := rfl
@[simp] theorem State.setHost_yard (s : State) (f : HostLink → HostLink) : (s.setHost f).yard = s.yard := rfl
@[simp] theorem State.setHost_precoders (s : State) (f : HostLink → HostLink) : (s.setHost f).precoders = s.precoders := rfl
@[simp] theorem State.setHost_coding (s : State) (f : HostLink → HostLink) : (s.setHost f).coding = s.coding := rfl
@[simp] theorem State.setHost_fe (s : State) (f : HostLink → HostLink) : (s.setHost f).fe = s.fe := rfl
@[simp] theorem State.setHost_colo (s : State) (f : HostLink → HostLink) : (s.setHost f).colo = s.colo := rfl
@[simp] theorem State.setHost_stitch (s : State) (f : HostLink → HostLink) : (s.setHost f).stitch = s.stitch := rfl
@[simp] theorem State.setHost_mem (s : State) (f : HostLink → HostLink) : (s.setHost f).mem = s.mem := rfl
@[simp] theorem State.setHost_out (s : State) (f : HostLink → HostLink) : (s.setHost f).out = s.out := rfl
@[simp] theorem State.setHost_fresh (s : State) (f : HostLink → HostLink) : (s.setHost f).fresh = s.fresh := rfl
@[simp] theorem State.setHost_pending (s : State) (f : HostLink → HostLink) : (s.setHost f).pending = s.pending := rfl

/-! ### setMbx -/

@[simp] theorem State.setMbx_ticks (s : State) (f : Mailbox → Mailbox) : (s.setMbx f).ticks = s.ticks := rfl
@[simp] theorem State.setMbx_boot (s : State) (f : Mailbox → Mailbox) : (s.setMbx f).boot = s.boot := rfl
@[simp] theorem State.setMbx_power (s : State) (f : Mailbox → Mailbox) : (s.setMbx f).power = s.power := rfl
@[simp] theorem State.setMbx_sec (s : State) (f : Mailbox → Mailbox) : (s.setMbx f).sec = s.sec := rfl
@[simp] theorem State.setMbx_host (s : State) (f : Mailbox → Mailbox) : (s.setMbx f).host = s.host := rfl
@[simp] theorem State.setMbx_mbx (s : State) (f : Mailbox → Mailbox) : (s.setMbx f).mbx = f s.mbx := rfl
@[simp] theorem State.setMbx_dma (s : State) (f : Mailbox → Mailbox) : (s.setMbx f).dma = s.dma := rfl
@[simp] theorem State.setMbx_windows (s : State) (f : Mailbox → Mailbox) : (s.setMbx f).windows = s.windows := rfl
@[simp] theorem State.setMbx_cfg (s : State) (f : Mailbox → Mailbox) : (s.setMbx f).cfg = s.cfg := rfl
@[simp] theorem State.setMbx_clusters (s : State) (f : Mailbox → Mailbox) : (s.setMbx f).clusters = s.clusters := rfl
@[simp] theorem State.setMbx_quires (s : State) (f : Mailbox → Mailbox) : (s.setMbx f).quires = s.quires := rfl
@[simp] theorem State.setMbx_qctx (s : State) (f : Mailbox → Mailbox) : (s.setMbx f).qctx = s.qctx := rfl
@[simp] theorem State.setMbx_ctxSlots (s : State) (f : Mailbox → Mailbox) : (s.setMbx f).ctxSlots = s.ctxSlots := rfl
@[simp] theorem State.setMbx_engines (s : State) (f : Mailbox → Mailbox) : (s.setMbx f).engines = s.engines := rfl
@[simp] theorem State.setMbx_cores (s : State) (f : Mailbox → Mailbox) : (s.setMbx f).cores = s.cores := rfl
@[simp] theorem State.setMbx_models (s : State) (f : Mailbox → Mailbox) : (s.setMbx f).models = s.models := rfl
@[simp] theorem State.setMbx_yard (s : State) (f : Mailbox → Mailbox) : (s.setMbx f).yard = s.yard := rfl
@[simp] theorem State.setMbx_precoders (s : State) (f : Mailbox → Mailbox) : (s.setMbx f).precoders = s.precoders := rfl
@[simp] theorem State.setMbx_coding (s : State) (f : Mailbox → Mailbox) : (s.setMbx f).coding = s.coding := rfl
@[simp] theorem State.setMbx_fe (s : State) (f : Mailbox → Mailbox) : (s.setMbx f).fe = s.fe := rfl
@[simp] theorem State.setMbx_colo (s : State) (f : Mailbox → Mailbox) : (s.setMbx f).colo = s.colo := rfl
@[simp] theorem State.setMbx_stitch (s : State) (f : Mailbox → Mailbox) : (s.setMbx f).stitch = s.stitch := rfl
@[simp] theorem State.setMbx_mem (s : State) (f : Mailbox → Mailbox) : (s.setMbx f).mem = s.mem := rfl
@[simp] theorem State.setMbx_out (s : State) (f : Mailbox → Mailbox) : (s.setMbx f).out = s.out := rfl
@[simp] theorem State.setMbx_fresh (s : State) (f : Mailbox → Mailbox) : (s.setMbx f).fresh = s.fresh := rfl
@[simp] theorem State.setMbx_pending (s : State) (f : Mailbox → Mailbox) : (s.setMbx f).pending = s.pending := rfl

/-! ### setPower -/

@[simp] theorem State.setPower_ticks (s : State) (f : Power → Power) : (s.setPower f).ticks = s.ticks := rfl
@[simp] theorem State.setPower_boot (s : State) (f : Power → Power) : (s.setPower f).boot = s.boot := rfl
@[simp] theorem State.setPower_power (s : State) (f : Power → Power) : (s.setPower f).power = f s.power := rfl
@[simp] theorem State.setPower_sec (s : State) (f : Power → Power) : (s.setPower f).sec = s.sec := rfl
@[simp] theorem State.setPower_host (s : State) (f : Power → Power) : (s.setPower f).host = s.host := rfl
@[simp] theorem State.setPower_mbx (s : State) (f : Power → Power) : (s.setPower f).mbx = s.mbx := rfl
@[simp] theorem State.setPower_dma (s : State) (f : Power → Power) : (s.setPower f).dma = s.dma := rfl
@[simp] theorem State.setPower_windows (s : State) (f : Power → Power) : (s.setPower f).windows = s.windows := rfl
@[simp] theorem State.setPower_cfg (s : State) (f : Power → Power) : (s.setPower f).cfg = s.cfg := rfl
@[simp] theorem State.setPower_clusters (s : State) (f : Power → Power) : (s.setPower f).clusters = s.clusters := rfl
@[simp] theorem State.setPower_quires (s : State) (f : Power → Power) : (s.setPower f).quires = s.quires := rfl
@[simp] theorem State.setPower_qctx (s : State) (f : Power → Power) : (s.setPower f).qctx = s.qctx := rfl
@[simp] theorem State.setPower_ctxSlots (s : State) (f : Power → Power) : (s.setPower f).ctxSlots = s.ctxSlots := rfl
@[simp] theorem State.setPower_engines (s : State) (f : Power → Power) : (s.setPower f).engines = s.engines := rfl
@[simp] theorem State.setPower_cores (s : State) (f : Power → Power) : (s.setPower f).cores = s.cores := rfl
@[simp] theorem State.setPower_models (s : State) (f : Power → Power) : (s.setPower f).models = s.models := rfl
@[simp] theorem State.setPower_yard (s : State) (f : Power → Power) : (s.setPower f).yard = s.yard := rfl
@[simp] theorem State.setPower_precoders (s : State) (f : Power → Power) : (s.setPower f).precoders = s.precoders := rfl
@[simp] theorem State.setPower_coding (s : State) (f : Power → Power) : (s.setPower f).coding = s.coding := rfl
@[simp] theorem State.setPower_fe (s : State) (f : Power → Power) : (s.setPower f).fe = s.fe := rfl
@[simp] theorem State.setPower_colo (s : State) (f : Power → Power) : (s.setPower f).colo = s.colo := rfl
@[simp] theorem State.setPower_stitch (s : State) (f : Power → Power) : (s.setPower f).stitch = s.stitch := rfl
@[simp] theorem State.setPower_mem (s : State) (f : Power → Power) : (s.setPower f).mem = s.mem := rfl
@[simp] theorem State.setPower_out (s : State) (f : Power → Power) : (s.setPower f).out = s.out := rfl
@[simp] theorem State.setPower_fresh (s : State) (f : Power → Power) : (s.setPower f).fresh = s.fresh := rfl
@[simp] theorem State.setPower_pending (s : State) (f : Power → Power) : (s.setPower f).pending = s.pending := rfl

/-! ### setSec -/

@[simp] theorem State.setSec_ticks (s : State) (f : Security → Security) : (s.setSec f).ticks = s.ticks := rfl
@[simp] theorem State.setSec_boot (s : State) (f : Security → Security) : (s.setSec f).boot = s.boot := rfl
@[simp] theorem State.setSec_power (s : State) (f : Security → Security) : (s.setSec f).power = s.power := rfl
@[simp] theorem State.setSec_sec (s : State) (f : Security → Security) : (s.setSec f).sec = f s.sec := rfl
@[simp] theorem State.setSec_host (s : State) (f : Security → Security) : (s.setSec f).host = s.host := rfl
@[simp] theorem State.setSec_mbx (s : State) (f : Security → Security) : (s.setSec f).mbx = s.mbx := rfl
@[simp] theorem State.setSec_dma (s : State) (f : Security → Security) : (s.setSec f).dma = s.dma := rfl
@[simp] theorem State.setSec_windows (s : State) (f : Security → Security) : (s.setSec f).windows = s.windows := rfl
@[simp] theorem State.setSec_cfg (s : State) (f : Security → Security) : (s.setSec f).cfg = s.cfg := rfl
@[simp] theorem State.setSec_clusters (s : State) (f : Security → Security) : (s.setSec f).clusters = s.clusters := rfl
@[simp] theorem State.setSec_quires (s : State) (f : Security → Security) : (s.setSec f).quires = s.quires := rfl
@[simp] theorem State.setSec_qctx (s : State) (f : Security → Security) : (s.setSec f).qctx = s.qctx := rfl
@[simp] theorem State.setSec_ctxSlots (s : State) (f : Security → Security) : (s.setSec f).ctxSlots = s.ctxSlots := rfl
@[simp] theorem State.setSec_engines (s : State) (f : Security → Security) : (s.setSec f).engines = s.engines := rfl
@[simp] theorem State.setSec_cores (s : State) (f : Security → Security) : (s.setSec f).cores = s.cores := rfl
@[simp] theorem State.setSec_models (s : State) (f : Security → Security) : (s.setSec f).models = s.models := rfl
@[simp] theorem State.setSec_yard (s : State) (f : Security → Security) : (s.setSec f).yard = s.yard := rfl
@[simp] theorem State.setSec_precoders (s : State) (f : Security → Security) : (s.setSec f).precoders = s.precoders := rfl
@[simp] theorem State.setSec_coding (s : State) (f : Security → Security) : (s.setSec f).coding = s.coding := rfl
@[simp] theorem State.setSec_fe (s : State) (f : Security → Security) : (s.setSec f).fe = s.fe := rfl
@[simp] theorem State.setSec_colo (s : State) (f : Security → Security) : (s.setSec f).colo = s.colo := rfl
@[simp] theorem State.setSec_stitch (s : State) (f : Security → Security) : (s.setSec f).stitch = s.stitch := rfl
@[simp] theorem State.setSec_mem (s : State) (f : Security → Security) : (s.setSec f).mem = s.mem := rfl
@[simp] theorem State.setSec_out (s : State) (f : Security → Security) : (s.setSec f).out = s.out := rfl
@[simp] theorem State.setSec_fresh (s : State) (f : Security → Security) : (s.setSec f).fresh = s.fresh := rfl
@[simp] theorem State.setSec_pending (s : State) (f : Security → Security) : (s.setSec f).pending = s.pending := rfl

/-! ### setCfg -/

@[simp] theorem State.setCfg_ticks (s : State) (f : ChipCfg → ChipCfg) : (s.setCfg f).ticks = s.ticks := rfl
@[simp] theorem State.setCfg_boot (s : State) (f : ChipCfg → ChipCfg) : (s.setCfg f).boot = s.boot := rfl
@[simp] theorem State.setCfg_power (s : State) (f : ChipCfg → ChipCfg) : (s.setCfg f).power = s.power := rfl
@[simp] theorem State.setCfg_sec (s : State) (f : ChipCfg → ChipCfg) : (s.setCfg f).sec = s.sec := rfl
@[simp] theorem State.setCfg_host (s : State) (f : ChipCfg → ChipCfg) : (s.setCfg f).host = s.host := rfl
@[simp] theorem State.setCfg_mbx (s : State) (f : ChipCfg → ChipCfg) : (s.setCfg f).mbx = s.mbx := rfl
@[simp] theorem State.setCfg_dma (s : State) (f : ChipCfg → ChipCfg) : (s.setCfg f).dma = s.dma := rfl
@[simp] theorem State.setCfg_windows (s : State) (f : ChipCfg → ChipCfg) : (s.setCfg f).windows = s.windows := rfl
@[simp] theorem State.setCfg_cfg (s : State) (f : ChipCfg → ChipCfg) : (s.setCfg f).cfg = f s.cfg := rfl
@[simp] theorem State.setCfg_clusters (s : State) (f : ChipCfg → ChipCfg) : (s.setCfg f).clusters = s.clusters := rfl
@[simp] theorem State.setCfg_quires (s : State) (f : ChipCfg → ChipCfg) : (s.setCfg f).quires = s.quires := rfl
@[simp] theorem State.setCfg_qctx (s : State) (f : ChipCfg → ChipCfg) : (s.setCfg f).qctx = s.qctx := rfl
@[simp] theorem State.setCfg_ctxSlots (s : State) (f : ChipCfg → ChipCfg) : (s.setCfg f).ctxSlots = s.ctxSlots := rfl
@[simp] theorem State.setCfg_engines (s : State) (f : ChipCfg → ChipCfg) : (s.setCfg f).engines = s.engines := rfl
@[simp] theorem State.setCfg_cores (s : State) (f : ChipCfg → ChipCfg) : (s.setCfg f).cores = s.cores := rfl
@[simp] theorem State.setCfg_models (s : State) (f : ChipCfg → ChipCfg) : (s.setCfg f).models = s.models := rfl
@[simp] theorem State.setCfg_yard (s : State) (f : ChipCfg → ChipCfg) : (s.setCfg f).yard = s.yard := rfl
@[simp] theorem State.setCfg_precoders (s : State) (f : ChipCfg → ChipCfg) : (s.setCfg f).precoders = s.precoders := rfl
@[simp] theorem State.setCfg_coding (s : State) (f : ChipCfg → ChipCfg) : (s.setCfg f).coding = s.coding := rfl
@[simp] theorem State.setCfg_fe (s : State) (f : ChipCfg → ChipCfg) : (s.setCfg f).fe = s.fe := rfl
@[simp] theorem State.setCfg_colo (s : State) (f : ChipCfg → ChipCfg) : (s.setCfg f).colo = s.colo := rfl
@[simp] theorem State.setCfg_stitch (s : State) (f : ChipCfg → ChipCfg) : (s.setCfg f).stitch = s.stitch := rfl
@[simp] theorem State.setCfg_mem (s : State) (f : ChipCfg → ChipCfg) : (s.setCfg f).mem = s.mem := rfl
@[simp] theorem State.setCfg_out (s : State) (f : ChipCfg → ChipCfg) : (s.setCfg f).out = s.out := rfl
@[simp] theorem State.setCfg_fresh (s : State) (f : ChipCfg → ChipCfg) : (s.setCfg f).fresh = s.fresh := rfl
@[simp] theorem State.setCfg_pending (s : State) (f : ChipCfg → ChipCfg) : (s.setCfg f).pending = s.pending := rfl

/-! ### setCoding -/

@[simp] theorem State.setCoding_ticks (s : State) (f : Coding → Coding) : (s.setCoding f).ticks = s.ticks := rfl
@[simp] theorem State.setCoding_boot (s : State) (f : Coding → Coding) : (s.setCoding f).boot = s.boot := rfl
@[simp] theorem State.setCoding_power (s : State) (f : Coding → Coding) : (s.setCoding f).power = s.power := rfl
@[simp] theorem State.setCoding_sec (s : State) (f : Coding → Coding) : (s.setCoding f).sec = s.sec := rfl
@[simp] theorem State.setCoding_host (s : State) (f : Coding → Coding) : (s.setCoding f).host = s.host := rfl
@[simp] theorem State.setCoding_mbx (s : State) (f : Coding → Coding) : (s.setCoding f).mbx = s.mbx := rfl
@[simp] theorem State.setCoding_dma (s : State) (f : Coding → Coding) : (s.setCoding f).dma = s.dma := rfl
@[simp] theorem State.setCoding_windows (s : State) (f : Coding → Coding) : (s.setCoding f).windows = s.windows := rfl
@[simp] theorem State.setCoding_cfg (s : State) (f : Coding → Coding) : (s.setCoding f).cfg = s.cfg := rfl
@[simp] theorem State.setCoding_clusters (s : State) (f : Coding → Coding) : (s.setCoding f).clusters = s.clusters := rfl
@[simp] theorem State.setCoding_quires (s : State) (f : Coding → Coding) : (s.setCoding f).quires = s.quires := rfl
@[simp] theorem State.setCoding_qctx (s : State) (f : Coding → Coding) : (s.setCoding f).qctx = s.qctx := rfl
@[simp] theorem State.setCoding_ctxSlots (s : State) (f : Coding → Coding) : (s.setCoding f).ctxSlots = s.ctxSlots := rfl
@[simp] theorem State.setCoding_engines (s : State) (f : Coding → Coding) : (s.setCoding f).engines = s.engines := rfl
@[simp] theorem State.setCoding_cores (s : State) (f : Coding → Coding) : (s.setCoding f).cores = s.cores := rfl
@[simp] theorem State.setCoding_models (s : State) (f : Coding → Coding) : (s.setCoding f).models = s.models := rfl
@[simp] theorem State.setCoding_yard (s : State) (f : Coding → Coding) : (s.setCoding f).yard = s.yard := rfl
@[simp] theorem State.setCoding_precoders (s : State) (f : Coding → Coding) : (s.setCoding f).precoders = s.precoders := rfl
@[simp] theorem State.setCoding_coding (s : State) (f : Coding → Coding) : (s.setCoding f).coding = f s.coding := rfl
@[simp] theorem State.setCoding_fe (s : State) (f : Coding → Coding) : (s.setCoding f).fe = s.fe := rfl
@[simp] theorem State.setCoding_colo (s : State) (f : Coding → Coding) : (s.setCoding f).colo = s.colo := rfl
@[simp] theorem State.setCoding_stitch (s : State) (f : Coding → Coding) : (s.setCoding f).stitch = s.stitch := rfl
@[simp] theorem State.setCoding_mem (s : State) (f : Coding → Coding) : (s.setCoding f).mem = s.mem := rfl
@[simp] theorem State.setCoding_out (s : State) (f : Coding → Coding) : (s.setCoding f).out = s.out := rfl
@[simp] theorem State.setCoding_fresh (s : State) (f : Coding → Coding) : (s.setCoding f).fresh = s.fresh := rfl
@[simp] theorem State.setCoding_pending (s : State) (f : Coding → Coding) : (s.setCoding f).pending = s.pending := rfl

/-! ### setFe -/

@[simp] theorem State.setFe_ticks (s : State) (f : FrontEnd → FrontEnd) : (s.setFe f).ticks = s.ticks := rfl
@[simp] theorem State.setFe_boot (s : State) (f : FrontEnd → FrontEnd) : (s.setFe f).boot = s.boot := rfl
@[simp] theorem State.setFe_power (s : State) (f : FrontEnd → FrontEnd) : (s.setFe f).power = s.power := rfl
@[simp] theorem State.setFe_sec (s : State) (f : FrontEnd → FrontEnd) : (s.setFe f).sec = s.sec := rfl
@[simp] theorem State.setFe_host (s : State) (f : FrontEnd → FrontEnd) : (s.setFe f).host = s.host := rfl
@[simp] theorem State.setFe_mbx (s : State) (f : FrontEnd → FrontEnd) : (s.setFe f).mbx = s.mbx := rfl
@[simp] theorem State.setFe_dma (s : State) (f : FrontEnd → FrontEnd) : (s.setFe f).dma = s.dma := rfl
@[simp] theorem State.setFe_windows (s : State) (f : FrontEnd → FrontEnd) : (s.setFe f).windows = s.windows := rfl
@[simp] theorem State.setFe_cfg (s : State) (f : FrontEnd → FrontEnd) : (s.setFe f).cfg = s.cfg := rfl
@[simp] theorem State.setFe_clusters (s : State) (f : FrontEnd → FrontEnd) : (s.setFe f).clusters = s.clusters := rfl
@[simp] theorem State.setFe_quires (s : State) (f : FrontEnd → FrontEnd) : (s.setFe f).quires = s.quires := rfl
@[simp] theorem State.setFe_qctx (s : State) (f : FrontEnd → FrontEnd) : (s.setFe f).qctx = s.qctx := rfl
@[simp] theorem State.setFe_ctxSlots (s : State) (f : FrontEnd → FrontEnd) : (s.setFe f).ctxSlots = s.ctxSlots := rfl
@[simp] theorem State.setFe_engines (s : State) (f : FrontEnd → FrontEnd) : (s.setFe f).engines = s.engines := rfl
@[simp] theorem State.setFe_cores (s : State) (f : FrontEnd → FrontEnd) : (s.setFe f).cores = s.cores := rfl
@[simp] theorem State.setFe_models (s : State) (f : FrontEnd → FrontEnd) : (s.setFe f).models = s.models := rfl
@[simp] theorem State.setFe_yard (s : State) (f : FrontEnd → FrontEnd) : (s.setFe f).yard = s.yard := rfl
@[simp] theorem State.setFe_precoders (s : State) (f : FrontEnd → FrontEnd) : (s.setFe f).precoders = s.precoders := rfl
@[simp] theorem State.setFe_coding (s : State) (f : FrontEnd → FrontEnd) : (s.setFe f).coding = s.coding := rfl
@[simp] theorem State.setFe_fe (s : State) (f : FrontEnd → FrontEnd) : (s.setFe f).fe = f s.fe := rfl
@[simp] theorem State.setFe_colo (s : State) (f : FrontEnd → FrontEnd) : (s.setFe f).colo = s.colo := rfl
@[simp] theorem State.setFe_stitch (s : State) (f : FrontEnd → FrontEnd) : (s.setFe f).stitch = s.stitch := rfl
@[simp] theorem State.setFe_mem (s : State) (f : FrontEnd → FrontEnd) : (s.setFe f).mem = s.mem := rfl
@[simp] theorem State.setFe_out (s : State) (f : FrontEnd → FrontEnd) : (s.setFe f).out = s.out := rfl
@[simp] theorem State.setFe_fresh (s : State) (f : FrontEnd → FrontEnd) : (s.setFe f).fresh = s.fresh := rfl
@[simp] theorem State.setFe_pending (s : State) (f : FrontEnd → FrontEnd) : (s.setFe f).pending = s.pending := rfl

/-! ### setColo -/

@[simp] theorem State.setColo_ticks (s : State) (f : Colophon → Colophon) : (s.setColo f).ticks = s.ticks := rfl
@[simp] theorem State.setColo_boot (s : State) (f : Colophon → Colophon) : (s.setColo f).boot = s.boot := rfl
@[simp] theorem State.setColo_power (s : State) (f : Colophon → Colophon) : (s.setColo f).power = s.power := rfl
@[simp] theorem State.setColo_sec (s : State) (f : Colophon → Colophon) : (s.setColo f).sec = s.sec := rfl
@[simp] theorem State.setColo_host (s : State) (f : Colophon → Colophon) : (s.setColo f).host = s.host := rfl
@[simp] theorem State.setColo_mbx (s : State) (f : Colophon → Colophon) : (s.setColo f).mbx = s.mbx := rfl
@[simp] theorem State.setColo_dma (s : State) (f : Colophon → Colophon) : (s.setColo f).dma = s.dma := rfl
@[simp] theorem State.setColo_windows (s : State) (f : Colophon → Colophon) : (s.setColo f).windows = s.windows := rfl
@[simp] theorem State.setColo_cfg (s : State) (f : Colophon → Colophon) : (s.setColo f).cfg = s.cfg := rfl
@[simp] theorem State.setColo_clusters (s : State) (f : Colophon → Colophon) : (s.setColo f).clusters = s.clusters := rfl
@[simp] theorem State.setColo_quires (s : State) (f : Colophon → Colophon) : (s.setColo f).quires = s.quires := rfl
@[simp] theorem State.setColo_qctx (s : State) (f : Colophon → Colophon) : (s.setColo f).qctx = s.qctx := rfl
@[simp] theorem State.setColo_ctxSlots (s : State) (f : Colophon → Colophon) : (s.setColo f).ctxSlots = s.ctxSlots := rfl
@[simp] theorem State.setColo_engines (s : State) (f : Colophon → Colophon) : (s.setColo f).engines = s.engines := rfl
@[simp] theorem State.setColo_cores (s : State) (f : Colophon → Colophon) : (s.setColo f).cores = s.cores := rfl
@[simp] theorem State.setColo_models (s : State) (f : Colophon → Colophon) : (s.setColo f).models = s.models := rfl
@[simp] theorem State.setColo_yard (s : State) (f : Colophon → Colophon) : (s.setColo f).yard = s.yard := rfl
@[simp] theorem State.setColo_precoders (s : State) (f : Colophon → Colophon) : (s.setColo f).precoders = s.precoders := rfl
@[simp] theorem State.setColo_coding (s : State) (f : Colophon → Colophon) : (s.setColo f).coding = s.coding := rfl
@[simp] theorem State.setColo_fe (s : State) (f : Colophon → Colophon) : (s.setColo f).fe = s.fe := rfl
@[simp] theorem State.setColo_colo (s : State) (f : Colophon → Colophon) : (s.setColo f).colo = f s.colo := rfl
@[simp] theorem State.setColo_stitch (s : State) (f : Colophon → Colophon) : (s.setColo f).stitch = s.stitch := rfl
@[simp] theorem State.setColo_mem (s : State) (f : Colophon → Colophon) : (s.setColo f).mem = s.mem := rfl
@[simp] theorem State.setColo_out (s : State) (f : Colophon → Colophon) : (s.setColo f).out = s.out := rfl
@[simp] theorem State.setColo_fresh (s : State) (f : Colophon → Colophon) : (s.setColo f).fresh = s.fresh := rfl
@[simp] theorem State.setColo_pending (s : State) (f : Colophon → Colophon) : (s.setColo f).pending = s.pending := rfl

/-! ### setStitch -/

@[simp] theorem State.setStitch_ticks (s : State) (f : Stitch → Stitch) : (s.setStitch f).ticks = s.ticks := rfl
@[simp] theorem State.setStitch_boot (s : State) (f : Stitch → Stitch) : (s.setStitch f).boot = s.boot := rfl
@[simp] theorem State.setStitch_power (s : State) (f : Stitch → Stitch) : (s.setStitch f).power = s.power := rfl
@[simp] theorem State.setStitch_sec (s : State) (f : Stitch → Stitch) : (s.setStitch f).sec = s.sec := rfl
@[simp] theorem State.setStitch_host (s : State) (f : Stitch → Stitch) : (s.setStitch f).host = s.host := rfl
@[simp] theorem State.setStitch_mbx (s : State) (f : Stitch → Stitch) : (s.setStitch f).mbx = s.mbx := rfl
@[simp] theorem State.setStitch_dma (s : State) (f : Stitch → Stitch) : (s.setStitch f).dma = s.dma := rfl
@[simp] theorem State.setStitch_windows (s : State) (f : Stitch → Stitch) : (s.setStitch f).windows = s.windows := rfl
@[simp] theorem State.setStitch_cfg (s : State) (f : Stitch → Stitch) : (s.setStitch f).cfg = s.cfg := rfl
@[simp] theorem State.setStitch_clusters (s : State) (f : Stitch → Stitch) : (s.setStitch f).clusters = s.clusters := rfl
@[simp] theorem State.setStitch_quires (s : State) (f : Stitch → Stitch) : (s.setStitch f).quires = s.quires := rfl
@[simp] theorem State.setStitch_qctx (s : State) (f : Stitch → Stitch) : (s.setStitch f).qctx = s.qctx := rfl
@[simp] theorem State.setStitch_ctxSlots (s : State) (f : Stitch → Stitch) : (s.setStitch f).ctxSlots = s.ctxSlots := rfl
@[simp] theorem State.setStitch_engines (s : State) (f : Stitch → Stitch) : (s.setStitch f).engines = s.engines := rfl
@[simp] theorem State.setStitch_cores (s : State) (f : Stitch → Stitch) : (s.setStitch f).cores = s.cores := rfl
@[simp] theorem State.setStitch_models (s : State) (f : Stitch → Stitch) : (s.setStitch f).models = s.models := rfl
@[simp] theorem State.setStitch_yard (s : State) (f : Stitch → Stitch) : (s.setStitch f).yard = s.yard := rfl
@[simp] theorem State.setStitch_precoders (s : State) (f : Stitch → Stitch) : (s.setStitch f).precoders = s.precoders := rfl
@[simp] theorem State.setStitch_coding (s : State) (f : Stitch → Stitch) : (s.setStitch f).coding = s.coding := rfl
@[simp] theorem State.setStitch_fe (s : State) (f : Stitch → Stitch) : (s.setStitch f).fe = s.fe := rfl
@[simp] theorem State.setStitch_colo (s : State) (f : Stitch → Stitch) : (s.setStitch f).colo = s.colo := rfl
@[simp] theorem State.setStitch_stitch (s : State) (f : Stitch → Stitch) : (s.setStitch f).stitch = f s.stitch := rfl
@[simp] theorem State.setStitch_mem (s : State) (f : Stitch → Stitch) : (s.setStitch f).mem = s.mem := rfl
@[simp] theorem State.setStitch_out (s : State) (f : Stitch → Stitch) : (s.setStitch f).out = s.out := rfl
@[simp] theorem State.setStitch_fresh (s : State) (f : Stitch → Stitch) : (s.setStitch f).fresh = s.fresh := rfl
@[simp] theorem State.setStitch_pending (s : State) (f : Stitch → Stitch) : (s.setStitch f).pending = s.pending := rfl

/-! ### setCore -/

@[simp] theorem State.setCore_ticks (s : State) (c : Fin 8) (f : Core → Core) : (s.setCore c f).ticks = s.ticks := rfl
@[simp] theorem State.setCore_boot (s : State) (c : Fin 8) (f : Core → Core) : (s.setCore c f).boot = s.boot := rfl
@[simp] theorem State.setCore_power (s : State) (c : Fin 8) (f : Core → Core) : (s.setCore c f).power = s.power := rfl
@[simp] theorem State.setCore_sec (s : State) (c : Fin 8) (f : Core → Core) : (s.setCore c f).sec = s.sec := rfl
@[simp] theorem State.setCore_host (s : State) (c : Fin 8) (f : Core → Core) : (s.setCore c f).host = s.host := rfl
@[simp] theorem State.setCore_mbx (s : State) (c : Fin 8) (f : Core → Core) : (s.setCore c f).mbx = s.mbx := rfl
@[simp] theorem State.setCore_dma (s : State) (c : Fin 8) (f : Core → Core) : (s.setCore c f).dma = s.dma := rfl
@[simp] theorem State.setCore_windows (s : State) (c : Fin 8) (f : Core → Core) : (s.setCore c f).windows = s.windows := rfl
@[simp] theorem State.setCore_cfg (s : State) (c : Fin 8) (f : Core → Core) : (s.setCore c f).cfg = s.cfg := rfl
@[simp] theorem State.setCore_clusters (s : State) (c : Fin 8) (f : Core → Core) : (s.setCore c f).clusters = s.clusters := rfl
@[simp] theorem State.setCore_quires (s : State) (c : Fin 8) (f : Core → Core) : (s.setCore c f).quires = s.quires := rfl
@[simp] theorem State.setCore_qctx (s : State) (c : Fin 8) (f : Core → Core) : (s.setCore c f).qctx = s.qctx := rfl
@[simp] theorem State.setCore_ctxSlots (s : State) (c : Fin 8) (f : Core → Core) : (s.setCore c f).ctxSlots = s.ctxSlots := rfl
@[simp] theorem State.setCore_engines (s : State) (c : Fin 8) (f : Core → Core) : (s.setCore c f).engines = s.engines := rfl
@[simp] theorem State.setCore_cores (s : State) (c : Fin 8) (f : Core → Core) : (s.setCore c f).cores = vmod s.cores c f := rfl
@[simp] theorem State.setCore_models (s : State) (c : Fin 8) (f : Core → Core) : (s.setCore c f).models = s.models := rfl
@[simp] theorem State.setCore_yard (s : State) (c : Fin 8) (f : Core → Core) : (s.setCore c f).yard = s.yard := rfl
@[simp] theorem State.setCore_precoders (s : State) (c : Fin 8) (f : Core → Core) : (s.setCore c f).precoders = s.precoders := rfl
@[simp] theorem State.setCore_coding (s : State) (c : Fin 8) (f : Core → Core) : (s.setCore c f).coding = s.coding := rfl
@[simp] theorem State.setCore_fe (s : State) (c : Fin 8) (f : Core → Core) : (s.setCore c f).fe = s.fe := rfl
@[simp] theorem State.setCore_colo (s : State) (c : Fin 8) (f : Core → Core) : (s.setCore c f).colo = s.colo := rfl
@[simp] theorem State.setCore_stitch (s : State) (c : Fin 8) (f : Core → Core) : (s.setCore c f).stitch = s.stitch := rfl
@[simp] theorem State.setCore_mem (s : State) (c : Fin 8) (f : Core → Core) : (s.setCore c f).mem = s.mem := rfl
@[simp] theorem State.setCore_out (s : State) (c : Fin 8) (f : Core → Core) : (s.setCore c f).out = s.out := rfl
@[simp] theorem State.setCore_fresh (s : State) (c : Fin 8) (f : Core → Core) : (s.setCore c f).fresh = s.fresh := rfl
@[simp] theorem State.setCore_pending (s : State) (c : Fin 8) (f : Core → Core) : (s.setCore c f).pending = s.pending := rfl

/-! ### setCl -/

@[simp] theorem State.setCl_ticks (s : State) (k : Fin 4) (f : Cluster → Cluster) : (s.setCl k f).ticks = s.ticks := rfl
@[simp] theorem State.setCl_boot (s : State) (k : Fin 4) (f : Cluster → Cluster) : (s.setCl k f).boot = s.boot := rfl
@[simp] theorem State.setCl_power (s : State) (k : Fin 4) (f : Cluster → Cluster) : (s.setCl k f).power = s.power := rfl
@[simp] theorem State.setCl_sec (s : State) (k : Fin 4) (f : Cluster → Cluster) : (s.setCl k f).sec = s.sec := rfl
@[simp] theorem State.setCl_host (s : State) (k : Fin 4) (f : Cluster → Cluster) : (s.setCl k f).host = s.host := rfl
@[simp] theorem State.setCl_mbx (s : State) (k : Fin 4) (f : Cluster → Cluster) : (s.setCl k f).mbx = s.mbx := rfl
@[simp] theorem State.setCl_dma (s : State) (k : Fin 4) (f : Cluster → Cluster) : (s.setCl k f).dma = s.dma := rfl
@[simp] theorem State.setCl_windows (s : State) (k : Fin 4) (f : Cluster → Cluster) : (s.setCl k f).windows = s.windows := rfl
@[simp] theorem State.setCl_cfg (s : State) (k : Fin 4) (f : Cluster → Cluster) : (s.setCl k f).cfg = s.cfg := rfl
@[simp] theorem State.setCl_clusters (s : State) (k : Fin 4) (f : Cluster → Cluster) : (s.setCl k f).clusters = vmod s.clusters k f := rfl
@[simp] theorem State.setCl_quires (s : State) (k : Fin 4) (f : Cluster → Cluster) : (s.setCl k f).quires = s.quires := rfl
@[simp] theorem State.setCl_qctx (s : State) (k : Fin 4) (f : Cluster → Cluster) : (s.setCl k f).qctx = s.qctx := rfl
@[simp] theorem State.setCl_ctxSlots (s : State) (k : Fin 4) (f : Cluster → Cluster) : (s.setCl k f).ctxSlots = s.ctxSlots := rfl
@[simp] theorem State.setCl_engines (s : State) (k : Fin 4) (f : Cluster → Cluster) : (s.setCl k f).engines = s.engines := rfl
@[simp] theorem State.setCl_cores (s : State) (k : Fin 4) (f : Cluster → Cluster) : (s.setCl k f).cores = s.cores := rfl
@[simp] theorem State.setCl_models (s : State) (k : Fin 4) (f : Cluster → Cluster) : (s.setCl k f).models = s.models := rfl
@[simp] theorem State.setCl_yard (s : State) (k : Fin 4) (f : Cluster → Cluster) : (s.setCl k f).yard = s.yard := rfl
@[simp] theorem State.setCl_precoders (s : State) (k : Fin 4) (f : Cluster → Cluster) : (s.setCl k f).precoders = s.precoders := rfl
@[simp] theorem State.setCl_coding (s : State) (k : Fin 4) (f : Cluster → Cluster) : (s.setCl k f).coding = s.coding := rfl
@[simp] theorem State.setCl_fe (s : State) (k : Fin 4) (f : Cluster → Cluster) : (s.setCl k f).fe = s.fe := rfl
@[simp] theorem State.setCl_colo (s : State) (k : Fin 4) (f : Cluster → Cluster) : (s.setCl k f).colo = s.colo := rfl
@[simp] theorem State.setCl_stitch (s : State) (k : Fin 4) (f : Cluster → Cluster) : (s.setCl k f).stitch = s.stitch := rfl
@[simp] theorem State.setCl_mem (s : State) (k : Fin 4) (f : Cluster → Cluster) : (s.setCl k f).mem = s.mem := rfl
@[simp] theorem State.setCl_out (s : State) (k : Fin 4) (f : Cluster → Cluster) : (s.setCl k f).out = s.out := rfl
@[simp] theorem State.setCl_fresh (s : State) (k : Fin 4) (f : Cluster → Cluster) : (s.setCl k f).fresh = s.fresh := rfl
@[simp] theorem State.setCl_pending (s : State) (k : Fin 4) (f : Cluster → Cluster) : (s.setCl k f).pending = s.pending := rfl

/-! ### setLink -/

@[simp] theorem State.setLink_ticks (s : State) (l : Fin 4) (f : Link → Link) : (s.setLink l f).ticks = s.ticks := rfl
@[simp] theorem State.setLink_boot (s : State) (l : Fin 4) (f : Link → Link) : (s.setLink l f).boot = s.boot := rfl
@[simp] theorem State.setLink_power (s : State) (l : Fin 4) (f : Link → Link) : (s.setLink l f).power = s.power := rfl
@[simp] theorem State.setLink_sec (s : State) (l : Fin 4) (f : Link → Link) : (s.setLink l f).sec = s.sec := rfl
@[simp] theorem State.setLink_host (s : State) (l : Fin 4) (f : Link → Link) : (s.setLink l f).host = s.host := rfl
@[simp] theorem State.setLink_mbx (s : State) (l : Fin 4) (f : Link → Link) : (s.setLink l f).mbx = s.mbx := rfl
@[simp] theorem State.setLink_dma (s : State) (l : Fin 4) (f : Link → Link) : (s.setLink l f).dma = s.dma := rfl
@[simp] theorem State.setLink_windows (s : State) (l : Fin 4) (f : Link → Link) : (s.setLink l f).windows = s.windows := rfl
@[simp] theorem State.setLink_cfg (s : State) (l : Fin 4) (f : Link → Link) : (s.setLink l f).cfg = s.cfg := rfl
@[simp] theorem State.setLink_clusters (s : State) (l : Fin 4) (f : Link → Link) : (s.setLink l f).clusters = s.clusters := rfl
@[simp] theorem State.setLink_quires (s : State) (l : Fin 4) (f : Link → Link) : (s.setLink l f).quires = s.quires := rfl
@[simp] theorem State.setLink_qctx (s : State) (l : Fin 4) (f : Link → Link) : (s.setLink l f).qctx = s.qctx := rfl
@[simp] theorem State.setLink_ctxSlots (s : State) (l : Fin 4) (f : Link → Link) : (s.setLink l f).ctxSlots = s.ctxSlots := rfl
@[simp] theorem State.setLink_engines (s : State) (l : Fin 4) (f : Link → Link) : (s.setLink l f).engines = s.engines := rfl
@[simp] theorem State.setLink_cores (s : State) (l : Fin 4) (f : Link → Link) : (s.setLink l f).cores = s.cores := rfl
@[simp] theorem State.setLink_models (s : State) (l : Fin 4) (f : Link → Link) : (s.setLink l f).models = s.models := rfl
@[simp] theorem State.setLink_yard (s : State) (l : Fin 4) (f : Link → Link) : (s.setLink l f).yard = s.yard := rfl
@[simp] theorem State.setLink_precoders (s : State) (l : Fin 4) (f : Link → Link) : (s.setLink l f).precoders = s.precoders := rfl
@[simp] theorem State.setLink_coding (s : State) (l : Fin 4) (f : Link → Link) : (s.setLink l f).coding = s.coding := rfl
@[simp] theorem State.setLink_fe (s : State) (l : Fin 4) (f : Link → Link) : (s.setLink l f).fe = s.fe := rfl
@[simp] theorem State.setLink_colo (s : State) (l : Fin 4) (f : Link → Link) : (s.setLink l f).colo = s.colo := rfl
@[simp] theorem State.setLink_stitch (s : State) (l : Fin 4) (f : Link → Link) : (s.setLink l f).stitch = { s.stitch with links := vmod s.stitch.links l f } := rfl
@[simp] theorem State.setLink_mem (s : State) (l : Fin 4) (f : Link → Link) : (s.setLink l f).mem = s.mem := rfl
@[simp] theorem State.setLink_out (s : State) (l : Fin 4) (f : Link → Link) : (s.setLink l f).out = s.out := rfl
@[simp] theorem State.setLink_fresh (s : State) (l : Fin 4) (f : Link → Link) : (s.setLink l f).fresh = s.fresh := rfl
@[simp] theorem State.setLink_pending (s : State) (l : Fin 4) (f : Link → Link) : (s.setLink l f).pending = s.pending := rfl

/-! ### wr -/

@[simp] theorem State.wr_ticks (s : State) (a : Nat) (b : Bytes) : (s.wr a b).ticks = s.ticks := rfl
@[simp] theorem State.wr_boot (s : State) (a : Nat) (b : Bytes) : (s.wr a b).boot = s.boot := rfl
@[simp] theorem State.wr_power (s : State) (a : Nat) (b : Bytes) : (s.wr a b).power = s.power := rfl
@[simp] theorem State.wr_sec (s : State) (a : Nat) (b : Bytes) : (s.wr a b).sec = s.sec := rfl
@[simp] theorem State.wr_host (s : State) (a : Nat) (b : Bytes) : (s.wr a b).host = s.host := rfl
@[simp] theorem State.wr_mbx (s : State) (a : Nat) (b : Bytes) : (s.wr a b).mbx = s.mbx := rfl
@[simp] theorem State.wr_dma (s : State) (a : Nat) (b : Bytes) : (s.wr a b).dma = s.dma := rfl
@[simp] theorem State.wr_windows (s : State) (a : Nat) (b : Bytes) : (s.wr a b).windows = s.windows := rfl
@[simp] theorem State.wr_cfg (s : State) (a : Nat) (b : Bytes) : (s.wr a b).cfg = s.cfg := rfl
@[simp] theorem State.wr_clusters (s : State) (a : Nat) (b : Bytes) : (s.wr a b).clusters = s.clusters := rfl
@[simp] theorem State.wr_quires (s : State) (a : Nat) (b : Bytes) : (s.wr a b).quires = s.quires := rfl
@[simp] theorem State.wr_qctx (s : State) (a : Nat) (b : Bytes) : (s.wr a b).qctx = s.qctx := rfl
@[simp] theorem State.wr_ctxSlots (s : State) (a : Nat) (b : Bytes) : (s.wr a b).ctxSlots = s.ctxSlots := rfl
@[simp] theorem State.wr_engines (s : State) (a : Nat) (b : Bytes) : (s.wr a b).engines = s.engines := rfl
@[simp] theorem State.wr_cores (s : State) (a : Nat) (b : Bytes) : (s.wr a b).cores = s.cores := rfl
@[simp] theorem State.wr_models (s : State) (a : Nat) (b : Bytes) : (s.wr a b).models = s.models := rfl
@[simp] theorem State.wr_yard (s : State) (a : Nat) (b : Bytes) : (s.wr a b).yard = s.yard := rfl
@[simp] theorem State.wr_precoders (s : State) (a : Nat) (b : Bytes) : (s.wr a b).precoders = s.precoders := rfl
@[simp] theorem State.wr_coding (s : State) (a : Nat) (b : Bytes) : (s.wr a b).coding = s.coding := rfl
@[simp] theorem State.wr_fe (s : State) (a : Nat) (b : Bytes) : (s.wr a b).fe = s.fe := rfl
@[simp] theorem State.wr_colo (s : State) (a : Nat) (b : Bytes) : (s.wr a b).colo = s.colo := rfl
@[simp] theorem State.wr_stitch (s : State) (a : Nat) (b : Bytes) : (s.wr a b).stitch = s.stitch := rfl
@[simp] theorem State.wr_mem (s : State) (a : Nat) (b : Bytes) : (s.wr a b).mem = s.mem.write a b := rfl
@[simp] theorem State.wr_out (s : State) (a : Nat) (b : Bytes) : (s.wr a b).out = s.out := rfl
@[simp] theorem State.wr_fresh (s : State) (a : Nat) (b : Bytes) : (s.wr a b).fresh = s.fresh := rfl
@[simp] theorem State.wr_pending (s : State) (a : Nat) (b : Bytes) : (s.wr a b).pending = s.pending := rfl

/-! ### clearMem -/

@[simp] theorem State.clearMem_ticks (s : State) (a n : Nat) : (s.clearMem a n).ticks = s.ticks := rfl
@[simp] theorem State.clearMem_boot (s : State) (a n : Nat) : (s.clearMem a n).boot = s.boot := rfl
@[simp] theorem State.clearMem_power (s : State) (a n : Nat) : (s.clearMem a n).power = s.power := rfl
@[simp] theorem State.clearMem_sec (s : State) (a n : Nat) : (s.clearMem a n).sec = s.sec := rfl
@[simp] theorem State.clearMem_host (s : State) (a n : Nat) : (s.clearMem a n).host = s.host := rfl
@[simp] theorem State.clearMem_mbx (s : State) (a n : Nat) : (s.clearMem a n).mbx = s.mbx := rfl
@[simp] theorem State.clearMem_dma (s : State) (a n : Nat) : (s.clearMem a n).dma = s.dma := rfl
@[simp] theorem State.clearMem_windows (s : State) (a n : Nat) : (s.clearMem a n).windows = s.windows := rfl
@[simp] theorem State.clearMem_cfg (s : State) (a n : Nat) : (s.clearMem a n).cfg = s.cfg := rfl
@[simp] theorem State.clearMem_clusters (s : State) (a n : Nat) : (s.clearMem a n).clusters = s.clusters := rfl
@[simp] theorem State.clearMem_quires (s : State) (a n : Nat) : (s.clearMem a n).quires = s.quires := rfl
@[simp] theorem State.clearMem_qctx (s : State) (a n : Nat) : (s.clearMem a n).qctx = s.qctx := rfl
@[simp] theorem State.clearMem_ctxSlots (s : State) (a n : Nat) : (s.clearMem a n).ctxSlots = s.ctxSlots := rfl
@[simp] theorem State.clearMem_engines (s : State) (a n : Nat) : (s.clearMem a n).engines = s.engines := rfl
@[simp] theorem State.clearMem_cores (s : State) (a n : Nat) : (s.clearMem a n).cores = s.cores := rfl
@[simp] theorem State.clearMem_models (s : State) (a n : Nat) : (s.clearMem a n).models = s.models := rfl
@[simp] theorem State.clearMem_yard (s : State) (a n : Nat) : (s.clearMem a n).yard = s.yard := rfl
@[simp] theorem State.clearMem_precoders (s : State) (a n : Nat) : (s.clearMem a n).precoders = s.precoders := rfl
@[simp] theorem State.clearMem_coding (s : State) (a n : Nat) : (s.clearMem a n).coding = s.coding := rfl
@[simp] theorem State.clearMem_fe (s : State) (a n : Nat) : (s.clearMem a n).fe = s.fe := rfl
@[simp] theorem State.clearMem_colo (s : State) (a n : Nat) : (s.clearMem a n).colo = s.colo := rfl
@[simp] theorem State.clearMem_stitch (s : State) (a n : Nat) : (s.clearMem a n).stitch = s.stitch := rfl
@[simp] theorem State.clearMem_mem (s : State) (a n : Nat) : (s.clearMem a n).mem = s.mem.clear a n := rfl
@[simp] theorem State.clearMem_out (s : State) (a n : Nat) : (s.clearMem a n).out = s.out := rfl
@[simp] theorem State.clearMem_fresh (s : State) (a n : Nat) : (s.clearMem a n).fresh = s.fresh := rfl
@[simp] theorem State.clearMem_pending (s : State) (a n : Nat) : (s.clearMem a n).pending = s.pending := rfl

/-! ### hostWr -/

@[simp] theorem State.hostWr_ticks (s : State) (a : Nat) (b : Bytes) : (s.hostWr a b).ticks = s.ticks := rfl
@[simp] theorem State.hostWr_boot (s : State) (a : Nat) (b : Bytes) : (s.hostWr a b).boot = s.boot := rfl
@[simp] theorem State.hostWr_power (s : State) (a : Nat) (b : Bytes) : (s.hostWr a b).power = s.power := rfl
@[simp] theorem State.hostWr_sec (s : State) (a : Nat) (b : Bytes) : (s.hostWr a b).sec = s.sec := rfl
@[simp] theorem State.hostWr_host (s : State) (a : Nat) (b : Bytes) : (s.hostWr a b).host = s.host := rfl
@[simp] theorem State.hostWr_mbx (s : State) (a : Nat) (b : Bytes) : (s.hostWr a b).mbx = s.mbx := rfl
@[simp] theorem State.hostWr_dma (s : State) (a : Nat) (b : Bytes) : (s.hostWr a b).dma = s.dma := rfl
@[simp] theorem State.hostWr_windows (s : State) (a : Nat) (b : Bytes) : (s.hostWr a b).windows = s.windows := rfl
@[simp] theorem State.hostWr_cfg (s : State) (a : Nat) (b : Bytes) : (s.hostWr a b).cfg = s.cfg := rfl
@[simp] theorem State.hostWr_clusters (s : State) (a : Nat) (b : Bytes) : (s.hostWr a b).clusters = s.clusters := rfl
@[simp] theorem State.hostWr_quires (s : State) (a : Nat) (b : Bytes) : (s.hostWr a b).quires = s.quires := rfl
@[simp] theorem State.hostWr_qctx (s : State) (a : Nat) (b : Bytes) : (s.hostWr a b).qctx = s.qctx := rfl
@[simp] theorem State.hostWr_ctxSlots (s : State) (a : Nat) (b : Bytes) : (s.hostWr a b).ctxSlots = s.ctxSlots := rfl
@[simp] theorem State.hostWr_engines (s : State) (a : Nat) (b : Bytes) : (s.hostWr a b).engines = s.engines := rfl
@[simp] theorem State.hostWr_cores (s : State) (a : Nat) (b : Bytes) : (s.hostWr a b).cores = s.cores := rfl
@[simp] theorem State.hostWr_models (s : State) (a : Nat) (b : Bytes) : (s.hostWr a b).models = s.models := rfl
@[simp] theorem State.hostWr_yard (s : State) (a : Nat) (b : Bytes) : (s.hostWr a b).yard = s.yard := rfl
@[simp] theorem State.hostWr_precoders (s : State) (a : Nat) (b : Bytes) : (s.hostWr a b).precoders = s.precoders := rfl
@[simp] theorem State.hostWr_coding (s : State) (a : Nat) (b : Bytes) : (s.hostWr a b).coding = s.coding := rfl
@[simp] theorem State.hostWr_fe (s : State) (a : Nat) (b : Bytes) : (s.hostWr a b).fe = s.fe := rfl
@[simp] theorem State.hostWr_colo (s : State) (a : Nat) (b : Bytes) : (s.hostWr a b).colo = s.colo := rfl
@[simp] theorem State.hostWr_stitch (s : State) (a : Nat) (b : Bytes) : (s.hostWr a b).stitch = s.stitch := rfl
@[simp] theorem State.hostWr_mem (s : State) (a : Nat) (b : Bytes) : (s.hostWr a b).mem = s.mem.write (hostAt + a) b := rfl
@[simp] theorem State.hostWr_out (s : State) (a : Nat) (b : Bytes) : (s.hostWr a b).out = s.out := rfl
@[simp] theorem State.hostWr_fresh (s : State) (a : Nat) (b : Bytes) : (s.hostWr a b).fresh = s.fresh := rfl
@[simp] theorem State.hostWr_pending (s : State) (a : Nat) (b : Bytes) : (s.hostWr a b).pending = s.pending := rfl

/-! ### emit -/

@[simp] theorem State.emit_ticks (s : State) (o : Out) : (s.emit o).ticks = s.ticks := rfl
@[simp] theorem State.emit_boot (s : State) (o : Out) : (s.emit o).boot = s.boot := rfl
@[simp] theorem State.emit_power (s : State) (o : Out) : (s.emit o).power = s.power := rfl
@[simp] theorem State.emit_sec (s : State) (o : Out) : (s.emit o).sec = s.sec := rfl
@[simp] theorem State.emit_host (s : State) (o : Out) : (s.emit o).host = s.host := rfl
@[simp] theorem State.emit_mbx (s : State) (o : Out) : (s.emit o).mbx = s.mbx := rfl
@[simp] theorem State.emit_dma (s : State) (o : Out) : (s.emit o).dma = s.dma := rfl
@[simp] theorem State.emit_windows (s : State) (o : Out) : (s.emit o).windows = s.windows := rfl
@[simp] theorem State.emit_cfg (s : State) (o : Out) : (s.emit o).cfg = s.cfg := rfl
@[simp] theorem State.emit_clusters (s : State) (o : Out) : (s.emit o).clusters = s.clusters := rfl
@[simp] theorem State.emit_quires (s : State) (o : Out) : (s.emit o).quires = s.quires := rfl
@[simp] theorem State.emit_qctx (s : State) (o : Out) : (s.emit o).qctx = s.qctx := rfl
@[simp] theorem State.emit_ctxSlots (s : State) (o : Out) : (s.emit o).ctxSlots = s.ctxSlots := rfl
@[simp] theorem State.emit_engines (s : State) (o : Out) : (s.emit o).engines = s.engines := rfl
@[simp] theorem State.emit_cores (s : State) (o : Out) : (s.emit o).cores = s.cores := rfl
@[simp] theorem State.emit_models (s : State) (o : Out) : (s.emit o).models = s.models := rfl
@[simp] theorem State.emit_yard (s : State) (o : Out) : (s.emit o).yard = s.yard := rfl
@[simp] theorem State.emit_precoders (s : State) (o : Out) : (s.emit o).precoders = s.precoders := rfl
@[simp] theorem State.emit_coding (s : State) (o : Out) : (s.emit o).coding = s.coding := rfl
@[simp] theorem State.emit_fe (s : State) (o : Out) : (s.emit o).fe = s.fe := rfl
@[simp] theorem State.emit_colo (s : State) (o : Out) : (s.emit o).colo = s.colo := rfl
@[simp] theorem State.emit_stitch (s : State) (o : Out) : (s.emit o).stitch = s.stitch := rfl
@[simp] theorem State.emit_mem (s : State) (o : Out) : (s.emit o).mem = s.mem := rfl
@[simp] theorem State.emit_out (s : State) (o : Out) : (s.emit o).out = o :: s.out := rfl
@[simp] theorem State.emit_fresh (s : State) (o : Out) : (s.emit o).fresh = s.fresh := rfl
@[simp] theorem State.emit_pending (s : State) (o : Out) : (s.emit o).pending = s.pending := rfl

/-! ### setChan -/

@[simp] theorem State.setChan_ticks (s : State) (ch : Fin 16) (f : DmaChan → DmaChan) : (s.setChan ch f).ticks = s.ticks := rfl
@[simp] theorem State.setChan_boot (s : State) (ch : Fin 16) (f : DmaChan → DmaChan) : (s.setChan ch f).boot = s.boot := rfl
@[simp] theorem State.setChan_power (s : State) (ch : Fin 16) (f : DmaChan → DmaChan) : (s.setChan ch f).power = s.power := rfl
@[simp] theorem State.setChan_sec (s : State) (ch : Fin 16) (f : DmaChan → DmaChan) : (s.setChan ch f).sec = s.sec := rfl
@[simp] theorem State.setChan_host (s : State) (ch : Fin 16) (f : DmaChan → DmaChan) : (s.setChan ch f).host = s.host := rfl
@[simp] theorem State.setChan_mbx (s : State) (ch : Fin 16) (f : DmaChan → DmaChan) : (s.setChan ch f).mbx = s.mbx := rfl
@[simp] theorem State.setChan_dma (s : State) (ch : Fin 16) (f : DmaChan → DmaChan) : (s.setChan ch f).dma = vmod s.dma ch f := rfl
@[simp] theorem State.setChan_windows (s : State) (ch : Fin 16) (f : DmaChan → DmaChan) : (s.setChan ch f).windows = s.windows := rfl
@[simp] theorem State.setChan_cfg (s : State) (ch : Fin 16) (f : DmaChan → DmaChan) : (s.setChan ch f).cfg = s.cfg := rfl
@[simp] theorem State.setChan_clusters (s : State) (ch : Fin 16) (f : DmaChan → DmaChan) : (s.setChan ch f).clusters = s.clusters := rfl
@[simp] theorem State.setChan_quires (s : State) (ch : Fin 16) (f : DmaChan → DmaChan) : (s.setChan ch f).quires = s.quires := rfl
@[simp] theorem State.setChan_qctx (s : State) (ch : Fin 16) (f : DmaChan → DmaChan) : (s.setChan ch f).qctx = s.qctx := rfl
@[simp] theorem State.setChan_ctxSlots (s : State) (ch : Fin 16) (f : DmaChan → DmaChan) : (s.setChan ch f).ctxSlots = s.ctxSlots := rfl
@[simp] theorem State.setChan_engines (s : State) (ch : Fin 16) (f : DmaChan → DmaChan) : (s.setChan ch f).engines = s.engines := rfl
@[simp] theorem State.setChan_cores (s : State) (ch : Fin 16) (f : DmaChan → DmaChan) : (s.setChan ch f).cores = s.cores := rfl
@[simp] theorem State.setChan_models (s : State) (ch : Fin 16) (f : DmaChan → DmaChan) : (s.setChan ch f).models = s.models := rfl
@[simp] theorem State.setChan_yard (s : State) (ch : Fin 16) (f : DmaChan → DmaChan) : (s.setChan ch f).yard = s.yard := rfl
@[simp] theorem State.setChan_precoders (s : State) (ch : Fin 16) (f : DmaChan → DmaChan) : (s.setChan ch f).precoders = s.precoders := rfl
@[simp] theorem State.setChan_coding (s : State) (ch : Fin 16) (f : DmaChan → DmaChan) : (s.setChan ch f).coding = s.coding := rfl
@[simp] theorem State.setChan_fe (s : State) (ch : Fin 16) (f : DmaChan → DmaChan) : (s.setChan ch f).fe = s.fe := rfl
@[simp] theorem State.setChan_colo (s : State) (ch : Fin 16) (f : DmaChan → DmaChan) : (s.setChan ch f).colo = s.colo := rfl
@[simp] theorem State.setChan_stitch (s : State) (ch : Fin 16) (f : DmaChan → DmaChan) : (s.setChan ch f).stitch = s.stitch := rfl
@[simp] theorem State.setChan_mem (s : State) (ch : Fin 16) (f : DmaChan → DmaChan) : (s.setChan ch f).mem = s.mem := rfl
@[simp] theorem State.setChan_out (s : State) (ch : Fin 16) (f : DmaChan → DmaChan) : (s.setChan ch f).out = s.out := rfl
@[simp] theorem State.setChan_fresh (s : State) (ch : Fin 16) (f : DmaChan → DmaChan) : (s.setChan ch f).fresh = s.fresh := rfl
@[simp] theorem State.setChan_pending (s : State) (ch : Fin 16) (f : DmaChan → DmaChan) : (s.setChan ch f).pending = s.pending := rfl

/-! ### setInt -/

@[simp] theorem State.setInt_ticks (s : State) (i : Nat) : (s.setInt i).ticks = s.ticks := rfl
@[simp] theorem State.setInt_boot (s : State) (i : Nat) : (s.setInt i).boot = s.boot := rfl
@[simp] theorem State.setInt_power (s : State) (i : Nat) : (s.setInt i).power = s.power := rfl
@[simp] theorem State.setInt_sec (s : State) (i : Nat) : (s.setInt i).sec = s.sec := rfl
@[simp] theorem State.setInt_host (s : State) (i : Nat) : (s.setInt i).host = { s.host with intStatus := s.host.intStatus ||| BitVec.ofNat 16 (2 ^ i) } := rfl
@[simp] theorem State.setInt_mbx (s : State) (i : Nat) : (s.setInt i).mbx = s.mbx := rfl
@[simp] theorem State.setInt_dma (s : State) (i : Nat) : (s.setInt i).dma = s.dma := rfl
@[simp] theorem State.setInt_windows (s : State) (i : Nat) : (s.setInt i).windows = s.windows := rfl
@[simp] theorem State.setInt_cfg (s : State) (i : Nat) : (s.setInt i).cfg = s.cfg := rfl
@[simp] theorem State.setInt_clusters (s : State) (i : Nat) : (s.setInt i).clusters = s.clusters := rfl
@[simp] theorem State.setInt_quires (s : State) (i : Nat) : (s.setInt i).quires = s.quires := rfl
@[simp] theorem State.setInt_qctx (s : State) (i : Nat) : (s.setInt i).qctx = s.qctx := rfl
@[simp] theorem State.setInt_ctxSlots (s : State) (i : Nat) : (s.setInt i).ctxSlots = s.ctxSlots := rfl
@[simp] theorem State.setInt_engines (s : State) (i : Nat) : (s.setInt i).engines = s.engines := rfl
@[simp] theorem State.setInt_cores (s : State) (i : Nat) : (s.setInt i).cores = s.cores := rfl
@[simp] theorem State.setInt_models (s : State) (i : Nat) : (s.setInt i).models = s.models := rfl
@[simp] theorem State.setInt_yard (s : State) (i : Nat) : (s.setInt i).yard = s.yard := rfl
@[simp] theorem State.setInt_precoders (s : State) (i : Nat) : (s.setInt i).precoders = s.precoders := rfl
@[simp] theorem State.setInt_coding (s : State) (i : Nat) : (s.setInt i).coding = s.coding := rfl
@[simp] theorem State.setInt_fe (s : State) (i : Nat) : (s.setInt i).fe = s.fe := rfl
@[simp] theorem State.setInt_colo (s : State) (i : Nat) : (s.setInt i).colo = s.colo := rfl
@[simp] theorem State.setInt_stitch (s : State) (i : Nat) : (s.setInt i).stitch = s.stitch := rfl
@[simp] theorem State.setInt_mem (s : State) (i : Nat) : (s.setInt i).mem = s.mem := rfl
@[simp] theorem State.setInt_out (s : State) (i : Nat) : (s.setInt i).out = s.out := rfl
@[simp] theorem State.setInt_fresh (s : State) (i : Nat) : (s.setInt i).fresh = s.fresh := rfl
@[simp] theorem State.setInt_pending (s : State) (i : Nat) : (s.setInt i).pending = s.pending := rfl

/-! ### putIndex -/

@[simp] theorem State.putIndex_ticks (s : State) (off : Nat) (n : BitVec 32) : (s.putIndex off n).ticks = s.ticks := rfl
@[simp] theorem State.putIndex_boot (s : State) (off : Nat) (n : BitVec 32) : (s.putIndex off n).boot = s.boot := rfl
@[simp] theorem State.putIndex_power (s : State) (off : Nat) (n : BitVec 32) : (s.putIndex off n).power = s.power := rfl
@[simp] theorem State.putIndex_sec (s : State) (off : Nat) (n : BitVec 32) : (s.putIndex off n).sec = s.sec := rfl
@[simp] theorem State.putIndex_host (s : State) (off : Nat) (n : BitVec 32) : (s.putIndex off n).host = s.host := rfl
@[simp] theorem State.putIndex_mbx (s : State) (off : Nat) (n : BitVec 32) : (s.putIndex off n).mbx = s.mbx := rfl
@[simp] theorem State.putIndex_dma (s : State) (off : Nat) (n : BitVec 32) : (s.putIndex off n).dma = s.dma := rfl
@[simp] theorem State.putIndex_windows (s : State) (off : Nat) (n : BitVec 32) : (s.putIndex off n).windows = s.windows := rfl
@[simp] theorem State.putIndex_cfg (s : State) (off : Nat) (n : BitVec 32) : (s.putIndex off n).cfg = s.cfg := rfl
@[simp] theorem State.putIndex_clusters (s : State) (off : Nat) (n : BitVec 32) : (s.putIndex off n).clusters = s.clusters := rfl
@[simp] theorem State.putIndex_quires (s : State) (off : Nat) (n : BitVec 32) : (s.putIndex off n).quires = s.quires := rfl
@[simp] theorem State.putIndex_qctx (s : State) (off : Nat) (n : BitVec 32) : (s.putIndex off n).qctx = s.qctx := rfl
@[simp] theorem State.putIndex_ctxSlots (s : State) (off : Nat) (n : BitVec 32) : (s.putIndex off n).ctxSlots = s.ctxSlots := rfl
@[simp] theorem State.putIndex_engines (s : State) (off : Nat) (n : BitVec 32) : (s.putIndex off n).engines = s.engines := rfl
@[simp] theorem State.putIndex_cores (s : State) (off : Nat) (n : BitVec 32) : (s.putIndex off n).cores = s.cores := rfl
@[simp] theorem State.putIndex_models (s : State) (off : Nat) (n : BitVec 32) : (s.putIndex off n).models = s.models := rfl
@[simp] theorem State.putIndex_yard (s : State) (off : Nat) (n : BitVec 32) : (s.putIndex off n).yard = s.yard := rfl
@[simp] theorem State.putIndex_precoders (s : State) (off : Nat) (n : BitVec 32) : (s.putIndex off n).precoders = s.precoders := rfl
@[simp] theorem State.putIndex_coding (s : State) (off : Nat) (n : BitVec 32) : (s.putIndex off n).coding = s.coding := rfl
@[simp] theorem State.putIndex_fe (s : State) (off : Nat) (n : BitVec 32) : (s.putIndex off n).fe = s.fe := rfl
@[simp] theorem State.putIndex_colo (s : State) (off : Nat) (n : BitVec 32) : (s.putIndex off n).colo = s.colo := rfl
@[simp] theorem State.putIndex_stitch (s : State) (off : Nat) (n : BitVec 32) : (s.putIndex off n).stitch = s.stitch := rfl
@[simp] theorem State.putIndex_mem (s : State) (off : Nat) (n : BitVec 32) : (s.putIndex off n).mem = s.mem.write (hostAt + (s.mbx.idxLatched + off)) (toLE 8 n.toNat) := rfl
@[simp] theorem State.putIndex_out (s : State) (off : Nat) (n : BitVec 32) : (s.putIndex off n).out = s.out := rfl
@[simp] theorem State.putIndex_fresh (s : State) (off : Nat) (n : BitVec 32) : (s.putIndex off n).fresh = s.fresh := rfl
@[simp] theorem State.putIndex_pending (s : State) (off : Nat) (n : BitVec 32) : (s.putIndex off n).pending = s.pending := rfl

/-! ### setEng -/

@[simp] theorem State.setEng_ticks (s : State) (e : Nat) (f : Engine → Engine) : (s.setEng e f).ticks = s.ticks := by
  unfold State.setEng; split <;> rfl
@[simp] theorem State.setEng_boot (s : State) (e : Nat) (f : Engine → Engine) : (s.setEng e f).boot = s.boot := by
  unfold State.setEng; split <;> rfl
@[simp] theorem State.setEng_power (s : State) (e : Nat) (f : Engine → Engine) : (s.setEng e f).power = s.power := by
  unfold State.setEng; split <;> rfl
@[simp] theorem State.setEng_sec (s : State) (e : Nat) (f : Engine → Engine) : (s.setEng e f).sec = s.sec := by
  unfold State.setEng; split <;> rfl
@[simp] theorem State.setEng_host (s : State) (e : Nat) (f : Engine → Engine) : (s.setEng e f).host = s.host := by
  unfold State.setEng; split <;> rfl
@[simp] theorem State.setEng_mbx (s : State) (e : Nat) (f : Engine → Engine) : (s.setEng e f).mbx = s.mbx := by
  unfold State.setEng; split <;> rfl
@[simp] theorem State.setEng_dma (s : State) (e : Nat) (f : Engine → Engine) : (s.setEng e f).dma = s.dma := by
  unfold State.setEng; split <;> rfl
@[simp] theorem State.setEng_windows (s : State) (e : Nat) (f : Engine → Engine) : (s.setEng e f).windows = s.windows := by
  unfold State.setEng; split <;> rfl
@[simp] theorem State.setEng_cfg (s : State) (e : Nat) (f : Engine → Engine) : (s.setEng e f).cfg = s.cfg := by
  unfold State.setEng; split <;> rfl
@[simp] theorem State.setEng_clusters (s : State) (e : Nat) (f : Engine → Engine) : (s.setEng e f).clusters = s.clusters := by
  unfold State.setEng; split <;> rfl
@[simp] theorem State.setEng_quires (s : State) (e : Nat) (f : Engine → Engine) : (s.setEng e f).quires = s.quires := by
  unfold State.setEng; split <;> rfl
@[simp] theorem State.setEng_qctx (s : State) (e : Nat) (f : Engine → Engine) : (s.setEng e f).qctx = s.qctx := by
  unfold State.setEng; split <;> rfl
@[simp] theorem State.setEng_ctxSlots (s : State) (e : Nat) (f : Engine → Engine) : (s.setEng e f).ctxSlots = s.ctxSlots := by
  unfold State.setEng; split <;> rfl
@[simp] theorem State.setEng_cores (s : State) (e : Nat) (f : Engine → Engine) : (s.setEng e f).cores = s.cores := by
  unfold State.setEng; split <;> rfl
@[simp] theorem State.setEng_models (s : State) (e : Nat) (f : Engine → Engine) : (s.setEng e f).models = s.models := by
  unfold State.setEng; split <;> rfl
@[simp] theorem State.setEng_yard (s : State) (e : Nat) (f : Engine → Engine) : (s.setEng e f).yard = s.yard := by
  unfold State.setEng; split <;> rfl
@[simp] theorem State.setEng_precoders (s : State) (e : Nat) (f : Engine → Engine) : (s.setEng e f).precoders = s.precoders := by
  unfold State.setEng; split <;> rfl
@[simp] theorem State.setEng_coding (s : State) (e : Nat) (f : Engine → Engine) : (s.setEng e f).coding = s.coding := by
  unfold State.setEng; split <;> rfl
@[simp] theorem State.setEng_fe (s : State) (e : Nat) (f : Engine → Engine) : (s.setEng e f).fe = s.fe := by
  unfold State.setEng; split <;> rfl
@[simp] theorem State.setEng_colo (s : State) (e : Nat) (f : Engine → Engine) : (s.setEng e f).colo = s.colo := by
  unfold State.setEng; split <;> rfl
@[simp] theorem State.setEng_stitch (s : State) (e : Nat) (f : Engine → Engine) : (s.setEng e f).stitch = s.stitch := by
  unfold State.setEng; split <;> rfl
@[simp] theorem State.setEng_mem (s : State) (e : Nat) (f : Engine → Engine) : (s.setEng e f).mem = s.mem := by
  unfold State.setEng; split <;> rfl
@[simp] theorem State.setEng_out (s : State) (e : Nat) (f : Engine → Engine) : (s.setEng e f).out = s.out := by
  unfold State.setEng; split <;> rfl
@[simp] theorem State.setEng_fresh (s : State) (e : Nat) (f : Engine → Engine) : (s.setEng e f).fresh = s.fresh := by
  unfold State.setEng; split <;> rfl
@[simp] theorem State.setEng_pending (s : State) (e : Nat) (f : Engine → Engine) : (s.setEng e f).pending = s.pending := by
  unfold State.setEng; split <;> rfl

/-! ### setQuire -/

@[simp] theorem State.setQuire_ticks (s : State) (t : Nat) (f : Quire → Quire) : (s.setQuire t f).ticks = s.ticks := by
  unfold State.setQuire; split <;> rfl
@[simp] theorem State.setQuire_boot (s : State) (t : Nat) (f : Quire → Quire) : (s.setQuire t f).boot = s.boot := by
  unfold State.setQuire; split <;> rfl
@[simp] theorem State.setQuire_power (s : State) (t : Nat) (f : Quire → Quire) : (s.setQuire t f).power = s.power := by
  unfold State.setQuire; split <;> rfl
@[simp] theorem State.setQuire_sec (s : State) (t : Nat) (f : Quire → Quire) : (s.setQuire t f).sec = s.sec := by
  unfold State.setQuire; split <;> rfl
@[simp] theorem State.setQuire_host (s : State) (t : Nat) (f : Quire → Quire) : (s.setQuire t f).host = s.host := by
  unfold State.setQuire; split <;> rfl
@[simp] theorem State.setQuire_mbx (s : State) (t : Nat) (f : Quire → Quire) : (s.setQuire t f).mbx = s.mbx := by
  unfold State.setQuire; split <;> rfl
@[simp] theorem State.setQuire_dma (s : State) (t : Nat) (f : Quire → Quire) : (s.setQuire t f).dma = s.dma := by
  unfold State.setQuire; split <;> rfl
@[simp] theorem State.setQuire_windows (s : State) (t : Nat) (f : Quire → Quire) : (s.setQuire t f).windows = s.windows := by
  unfold State.setQuire; split <;> rfl
@[simp] theorem State.setQuire_cfg (s : State) (t : Nat) (f : Quire → Quire) : (s.setQuire t f).cfg = s.cfg := by
  unfold State.setQuire; split <;> rfl
@[simp] theorem State.setQuire_clusters (s : State) (t : Nat) (f : Quire → Quire) : (s.setQuire t f).clusters = s.clusters := by
  unfold State.setQuire; split <;> rfl
@[simp] theorem State.setQuire_qctx (s : State) (t : Nat) (f : Quire → Quire) : (s.setQuire t f).qctx = s.qctx := by
  unfold State.setQuire; split <;> rfl
@[simp] theorem State.setQuire_ctxSlots (s : State) (t : Nat) (f : Quire → Quire) : (s.setQuire t f).ctxSlots = s.ctxSlots := by
  unfold State.setQuire; split <;> rfl
@[simp] theorem State.setQuire_engines (s : State) (t : Nat) (f : Quire → Quire) : (s.setQuire t f).engines = s.engines := by
  unfold State.setQuire; split <;> rfl
@[simp] theorem State.setQuire_cores (s : State) (t : Nat) (f : Quire → Quire) : (s.setQuire t f).cores = s.cores := by
  unfold State.setQuire; split <;> rfl
@[simp] theorem State.setQuire_models (s : State) (t : Nat) (f : Quire → Quire) : (s.setQuire t f).models = s.models := by
  unfold State.setQuire; split <;> rfl
@[simp] theorem State.setQuire_yard (s : State) (t : Nat) (f : Quire → Quire) : (s.setQuire t f).yard = s.yard := by
  unfold State.setQuire; split <;> rfl
@[simp] theorem State.setQuire_precoders (s : State) (t : Nat) (f : Quire → Quire) : (s.setQuire t f).precoders = s.precoders := by
  unfold State.setQuire; split <;> rfl
@[simp] theorem State.setQuire_coding (s : State) (t : Nat) (f : Quire → Quire) : (s.setQuire t f).coding = s.coding := by
  unfold State.setQuire; split <;> rfl
@[simp] theorem State.setQuire_fe (s : State) (t : Nat) (f : Quire → Quire) : (s.setQuire t f).fe = s.fe := by
  unfold State.setQuire; split <;> rfl
@[simp] theorem State.setQuire_colo (s : State) (t : Nat) (f : Quire → Quire) : (s.setQuire t f).colo = s.colo := by
  unfold State.setQuire; split <;> rfl
@[simp] theorem State.setQuire_stitch (s : State) (t : Nat) (f : Quire → Quire) : (s.setQuire t f).stitch = s.stitch := by
  unfold State.setQuire; split <;> rfl
@[simp] theorem State.setQuire_mem (s : State) (t : Nat) (f : Quire → Quire) : (s.setQuire t f).mem = s.mem := by
  unfold State.setQuire; split <;> rfl
@[simp] theorem State.setQuire_out (s : State) (t : Nat) (f : Quire → Quire) : (s.setQuire t f).out = s.out := by
  unfold State.setQuire; split <;> rfl
@[simp] theorem State.setQuire_fresh (s : State) (t : Nat) (f : Quire → Quire) : (s.setQuire t f).fresh = s.fresh := by
  unfold State.setQuire; split <;> rfl
@[simp] theorem State.setQuire_pending (s : State) (t : Nat) (f : Quire → Quire) : (s.setQuire t f).pending = s.pending := by
  unfold State.setQuire; split <;> rfl

/-! ### Reads after writes -/

@[simp] theorem State.setCore_self (s : State) (c : Fin 8) (f : Core → Core) : (s.setCore c f).core c = f (s.core c) := by
  simp [State.core, vmod]

theorem State.setCore_other (s : State) (c d : Fin 8) (f : Core → Core) (h : c ≠ d) : (s.setCore c f).core d = s.core d := by
  have hv : c.val ≠ d.val := fun e => h (Fin.ext e)
  simp [State.core, vmod, hv]

@[simp] theorem State.setCl_self (s : State) (k : Fin 4) (f : Cluster → Cluster) : (s.setCl k f).cl k = f (s.cl k) := by
  simp [State.cl, vmod]

theorem State.setCl_other (s : State) (k d : Fin 4) (f : Cluster → Cluster) (h : k ≠ d) : (s.setCl k f).cl d = s.cl d := by
  have hv : k.val ≠ d.val := fun e => h (Fin.ext e)
  simp [State.cl, vmod, hv]

@[simp] theorem State.setLink_self (s : State) (l : Fin 4) (f : Link → Link) : (s.setLink l f).link l = f (s.link l) := by
  simp [State.link, vmod]

@[simp] theorem State.setChan_self (s : State) (c : Fin 16) (f : DmaChan → DmaChan) : (s.setChan c f).chan c = f (s.chan c) := by
  simp [State.chan, vmod]

end Sys2Proof.Machine
end

