-- ==== Sys2Proof/Laws/Commands.lean ====
section
/-!
SUPPORT. What a mailbox command does when it is served: one lemma for short commands, one for long ones, and what `finish` comes to.
-/

namespace Sys2Proof.Machine
open Sys2Proof

theorem cmdRefusal_none {code : Nat} {early : Bool} {c : Cmd} {s : State} (h : Served code early c s) {lenOk : Nat → Bool}
    (hl : lenOk c.params.length = true) : cmdRefusal s early lenOk c = none := by
  have h1 : ¬ (c.len.toNat < 3 ∨ 257 < c.len.toNat) := by have := h.len; omega
  have h2 : (!early && s.boot.state != BootState.ready) = false := by
    cases h.up with
    | inl e => simp [e]
    | inr e => simp [e]
  simp [cmdRefusal, h1, h2, hl, h.xfer]

/-- A served short command runs on the state from which its record was taken, and is finished. -/
theorem shortCmd_served {code : Nat} {early : Bool} {c : Cmd} {s : State} (h : Served code early c s) {lenOk : Nat → Bool}
    (hl : lenOk c.params.length = true) (run : Cmd → State → CmdOut) :
    shortCmd code early lenOk run c s = finish (s.takeCmd c.len) code c (run c (s.takeCmd c.len)) := by
  have hf : (s.takeCmd c.len).targetBusy code c = s.targetBusy code c := rfl
  simp [shortCmd, h.read, cmdRefusal_none h hl, hf, h.free]

theorem ServedLong.toServed {early : Bool} {c : Cmd} {s : State} (h : ServedLong early c s) (code : Nat) :
    Served code early c s := ⟨h.read, h.len, h.up, h.xfer, by simp [State.targetBusy, h.first]⟩

/-- A served long command of one leaf commits at once. -/
theorem longCmd_served {code : Nat} {early : Bool} {c : Cmd} {s : State} (h : ServedLong early c s) {lenOk : Nat → Bool}
    (hl : lenOk c.params.length = true) (snap : State → Bytes) (run : Cmd → Bytes → State → CmdOut) :
    longCmd code early lenOk snap run c s
      = finish (s.takeCmd c.len) code c (run c (snap (s.takeCmd c.len)) (s.takeCmd c.len)) := by
  have hq : (s.takeCmd c.len).mbx.longQ = [] := h.first
  simp [longCmd, h.read, cmdRefusal_none (h.toServed code) hl, hq, h.leaves]

/-- A command without output is answered by its response. -/
theorem finish_reply (s0 : State) (code : Nat) (c : Cmd) (r : CmdOut) (h1 : r.outb = []) :
    finish s0 code c r = reply code c r.status r.detail r.body r.rep r.st := by
  simp [finish, h1, reply]

/-- A command whose output its buffer holds writes it there, and is answered. -/
theorem finish_replyOut (s0 : State) (code : Nat) (c : Cmd) (r : CmdOut) (h2 : r.outb.length ≤ c.obLen.toNat)
    (h3 : r.rep = []) (h4 : r.detail = 0) : finish s0 code c r = replyOut code c r.status r.outb r.body r.st := by
  have h5 : ¬ c.obLen.toNat < r.outb.length := by omega
  cases h : r.outb with
  | nil => simp [finish, h3, h4, h, replyOut, State.report, State.hostWr, State.wr, Mem.write]
  | cons a l =>
    have h6 : ¬ c.obLen.toNat < (a :: l).length := by rwa [h] at h5
    simp only [finish, h, gt_iff_lt, if_neg h6]
    simp [h3, h4, replyOut, State.report]

/-- A command that reads is answered with what it read. -/
theorem finish_answer (s0 : State) (code : Nat) (c : Cmd) (b : Bytes) (u : State) (h : outFits c b) :
    finish s0 code c (.answer u b) = replyRead code c b u := by
  unfold CmdOut.answer replyRead
  split
  · rw [finish_reply _ _ _ _ rfl]
  · rw [finish_replyOut _ _ _ _ (h (by omega)) rfl rfl]

end Sys2Proof.Machine
end

