-- ==== Sys2Proof/Laws/Leaf.lean ====
section
/-!
SUPPORT. What an instruction of a leaf does when it issues: one lemma for core instructions, one for engine instructions, and what
the landing of DSP writes leaves alone.
-/

namespace Sys2Proof.Machine
open Sys2Proof

theorem landCycle_frame (x : Core) (t : Nat) :
    (landCycle x t).cx.s = x.cx.s ∧ (landCycle x t).cx.a = x.cx.a ∧ (landCycle x t).leaf = x.leaf
      ∧ (landCycle x t).inHandler = x.inHandler ∧ (landCycle x t).cx.pc = x.cx.pc ∧ (landCycle x t).cx.acb = x.cx.acb
      ∧ (landCycle x t).cx.acl = x.cx.acl ∧ (landCycle x t).loops = x.loops := by
  unfold landCycle
  simp only
  generalize hl : x.pend.filter (·.land == t) = l
  have key : ∀ (l : List DspPend) (old : Table (BitVec 64)) (y : Core),
      y.cx.s = x.cx.s ∧ y.cx.a = x.cx.a ∧ y.leaf = x.leaf ∧ y.inHandler = x.inHandler ∧ y.cx.pc = x.cx.pc
        ∧ y.cx.acb = x.cx.acb ∧ y.cx.acl = x.cx.acl ∧ y.loops = x.loops →
      let z := l.foldl (fun (y : Core) p =>
        match p.w with
        | .put v => { y with d := tset y.d p.reg v }
        | .acc lo hi sat =>
          let v := (tget old p.reg 0).toNat
          let (a, f) := fitInt sat 32 (sx 32 v + lo)
          let (b, g) := fitInt sat 32 (sx 32 (v / 2 ^ 32) + hi)
          let w := lowBits 32 a + lowBits 32 b * 2 ^ 32
          let fl := y.cx.flags.or (f.or g)
          { y with d := tset y.d p.reg (BitVec.ofNat 64 w), cx := { y.cx with flags := fl } }) y
      z.cx.s = x.cx.s ∧ z.cx.a = x.cx.a ∧ z.leaf = x.leaf ∧ z.inHandler = x.inHandler ∧ z.cx.pc = x.cx.pc
        ∧ z.cx.acb = x.cx.acb ∧ z.cx.acl = x.cx.acl ∧ z.loops = x.loops := by
    intro l old
    induction l with
    | nil => intro y h; exact h
    | cons p r ih =>
      intro y h
      apply ih
      obtain ⟨land, reg, w⟩ := p
      cases w with
      | put v => exact h
      | acc lo hi sat =>
        exact h
  exact key l x.d x ⟨rfl, rfl, rfl, rfl, rfl, rfl, rfl, rfl⟩

theorem landBefore_frame (x : Core) (t : Nat) :
    (landBefore t x).cx.s = x.cx.s ∧ (landBefore t x).cx.a = x.cx.a ∧ (landBefore t x).leaf = x.leaf
      ∧ (landBefore t x).inHandler = x.inHandler ∧ (landBefore t x).cx.pc = x.cx.pc ∧ (landBefore t x).cx.acb = x.cx.acb
      ∧ (landBefore t x).cx.acl = x.cx.acl ∧ (landBefore t x).loops = x.loops := by
  unfold landBefore
  generalize sortBy (· ≤ ·) ((x.pend.map (·.land)).filter (· < t)) = l
  have key : ∀ (l : List Nat) (y : Core),
      y.cx.s = x.cx.s ∧ y.cx.a = x.cx.a ∧ y.leaf = x.leaf ∧ y.inHandler = x.inHandler ∧ y.cx.pc = x.cx.pc
        ∧ y.cx.acb = x.cx.acb ∧ y.cx.acl = x.cx.acl ∧ y.loops = x.loops →
      (l.foldl landCycle y).cx.s = x.cx.s ∧ (l.foldl landCycle y).cx.a = x.cx.a ∧ (l.foldl landCycle y).leaf = x.leaf
        ∧ (l.foldl landCycle y).inHandler = x.inHandler ∧ (l.foldl landCycle y).cx.pc = x.cx.pc
        ∧ (l.foldl landCycle y).cx.acb = x.cx.acb ∧ (l.foldl landCycle y).cx.acl = x.cx.acl
        ∧ (l.foldl landCycle y).loops = x.loops := by
    intro l
    induction l with
    | nil => intro y h; exact h
    | cons a r ih =>
      intro y h
      apply ih
      obtain ⟨h1, h2, h3, h4, h5, h6, h7, h8⟩ := landCycle_frame y a
      exact ⟨h1.trans h.1, h2.trans h.2.1, h3.trans h.2.2.1, h4.trans h.2.2.2.1, h5.trans h.2.2.2.2.1, h6.trans h.2.2.2.2.2.1,
        h7.trans h.2.2.2.2.2.2.1, h8.trans h.2.2.2.2.2.2.2⟩
  exact key l x ⟨rfl, rfl, rfl, rfl, rfl, rfl, rfl, rfl⟩

@[simp] theorem setCore_core (s : State) (c : Fin 8) (f : Core → Core) : (s.setCore c f).core c = f (s.core c) := by
  simp [State.setCore, State.core, vmod]

theorem landed_core (s : State) (c : Fin 8) :
    ((s.landed c).core c).cx.s = (s.core c).cx.s ∧ ((s.landed c).core c).cx.a = (s.core c).cx.a
      ∧ ((s.landed c).core c).leaf = (s.core c).leaf ∧ ((s.landed c).core c).inHandler = (s.core c).inHandler
      ∧ ((s.landed c).core c).cx.pc = (s.core c).cx.pc ∧ ((s.landed c).core c).cx.acb = (s.core c).cx.acb
      ∧ ((s.landed c).core c).cx.acl = (s.core c).cx.acl ∧ ((s.landed c).core c).loops = (s.core c).loops := by
  unfold State.landed
  split
  · exact ⟨rfl, rfl, rfl, rfl, rfl, rfl, rfl, rfl⟩
  · rw [setCore_core]; exact landBefore_frame _ _

@[simp] theorem landed_getS (s : State) (c : Fin 8) (r : Nat) : (s.landed c).getS c r = s.getS c r := by
  simp only [State.getS, Core.getS, (landed_core s c).1]

@[simp] theorem landed_getA (s : State) (c : Fin 8) (r : Nat) : (s.landed c).getA c r = s.getA c r := by
  simp only [State.getA, (landed_core s c).2.1]

theorem landed_leaf (s : State) (c : Fin 8) : ((s.landed c).core c).leaf = (s.core c).leaf := (landed_core s c).2.2.1

/-- An instruction that issues runs its body on the landed state, and the core goes on past it unless the body took the leaf away or
rolled it back. -/
theorem issue_runs {c : Fin 8} {words cycles : Nat} {reads : List Nat} {q : Quire} {s : State} (h : Issues c words reads q s)
    (body : Quire → State → State) :
    issue c words cycles reads body s
      = if ((body q (s.landed c)).core c).leaf = some q.tag ∧ ((body q (s.landed c)).core c).replays ≤ (s.core c).replays then
          (body q (s.landed c)).past c words cycles
        else body q (s.landed c) := by
  have hl : s.live c = some q := by simp [State.live, h.leaf, h.quire]
  have h1 : ((s.core c).wait.isSome && !(s.core c).inHandler) = false := by
    rcases h.free with w | w <;> simp [w]
  have h2 : (!(s.core c).inHandler && decide (q.code.len < (s.core c).cx.pc + 8 * words)) = false := by
    rcases h.fetch with w | w
    · simp [w]
    · have : ¬ q.code.len < (s.core c).cx.pc + 8 * words := by omega
      simp [this]
  have h3 : s.interlock c reads = s := by simp [State.interlock, h.due]
  unfold issue
  rw [hl]
  simp only [h1, h2, h.ready, h3]
  rfl

/-- The same for a body that keeps the core's leaf. -/
theorem issue_past {c : Fin 8} {words cycles : Nat} {reads : List Nat} {q : Quire} {s : State} (h : Issues c words reads q s)
    (body : Quire → State → State) (t : State) (hb : body q (s.landed c) = t) (ht : (t.core c).leaf = (s.core c).leaf)
    (hr : (t.core c).replays ≤ (s.core c).replays) :
    issue c words cycles reads body s = t.past c words cycles := by
  rw [issue_runs h, hb, ht, h.leaf]; simp [hr]

/-- The same for a body that rolls the leaf back. -/
theorem issue_replayed {c : Fin 8} {words cycles : Nat} {reads : List Nat} {q : Quire} {s : State}
    (h : Issues c words reads q s) (body : Quire → State → State) (t : State) (hb : body q (s.landed c) = t)
    (hr : (s.core c).replays < (t.core c).replays) : issue c words cycles reads body s = t := by
  rw [issue_runs h, hb, if_neg]
  omega

/-- An engine instruction that issues. -/
theorem issueEng_past {c : Fin 8} {eng : Bool} {sa : Fin 64} {n words cycles : Nat} {q : Quire} {s : State}
    (h : IssuesEng c eng sa n words q s) (body : Quire → State → State) (t : State) (hb : body q (s.landed c) = t)
    (ht : (t.core c).leaf = (s.core c).leaf) (hr : (t.core c).replays ≤ (s.core c).replays) :
    issueEng c eng sa n words cycles body s = t.past c words cycles := by
  refine issue_past h.core _ t ?_ ht hr
  have e : ((s.landed c).eng (engOf c eng)).retired = false := by
    have : (s.landed c).eng (engOf c eng) = s.eng (engOf c eng) := by unfold State.landed; split <;> rfl
    rw [this]; exact h.live
  have hb' : ¬ 64 < sa.val + n := by have := h.block; omega
  simp only [hb', if_false, e]
  exact hb

end Sys2Proof.Machine
end

