-- ==== Sys2Proof/Laws/Shared.lean ====
section
/-!
SUPPORT. What the other shared operations do when they are let act: a host request, a stitch message, a request to the SPDM
responder, a vector instruction in register mode, tables and vector registers; and that they keep a core's leaf.
-/

namespace Sys2Proof.Machine
open Sys2Proof

/-! ### Requests from outside -/

/-- A host request that reaches its register has that register's effect. -/
theorem barReq_ok {read : Bool} {s : State} {f : State → State} (h : BarOk s) : barReq read s f = f s := by
  obtain ⟨h1, h2⟩ := h
  have : (s.host.ideRequired && !(s.host.secure0 || s.host.secure1)) = false := by
    rcases h2 with h | h | h <;> simp [h]
  unfold barReq
  rw [h1, this]
  rfl

theorem barOk_up {s : State} (h : BarOk s) : s.boot.state = .firmwareInit ∨ s.boot.state = .ready := by
  have := h.1
  simp [State.barServed, State.busumUp] at this
  exact this.1

/-- A stitch message that passes R322 and R323 is given to its unit. -/
theorem onMsg_ok {typ : Nat} {f : SMsg → State → State} {m : SMsg} {s : State} (h1 : m.dst.toNat = s.chip)
    (h2 : m.typ.toNat = typ) (h3 : m.reservedSet = false) (h4 : m.data.length ≤ 4096)
    (h5 : typ = 4 → m.arg.extractLsb' 42 6 = 0#6) : onMsg typ f m s = f m s := by
  have : ¬ (typ = 4 ∧ m.arg.extractLsb' 42 6 ≠ 0#6) := fun h => h.2 (h5 h.1)
  unfold onMsg
  rw [if_neg (by simp [h1]), if_neg (by rintro (h | h | h | h) <;> simp_all; omega)]

/-- An SPDM request in its order is answered; one out of order is refused with UnexpectedRequest. -/
theorem spdmServe_ok {s : State} {r : Bool} {f : State → State} (h : s.barServed = true) (hr : r = true) :
    spdmServe s r f = f s := by
  simp [spdmServe, h, hr]

theorem spdmServe_no {s : State} {r : Bool} {f : State → State} (h : s.barServed = true) (hr : r = false) :
    spdmServe s r f = spdmError s 4 := by
  simp [spdmServe, h, hr]

/-! ### Tables and engine registers -/

theorem tget?_tset {α : Type} (t : Table α) (k : Nat) (v : α) : tget? (tset t k v) k = some v := by
  induction t with
  | nil => simp [tset, tget?]
  | cons p r ih =>
    obtain ⟨i, x⟩ := p
    unfold tset
    split
    · simp [tget?]
    · split
      · simp [tget?]
      · rename_i h1 h2
        simp only [tget?]
        rw [if_neg (by omega)]
        exact ih

theorem getV_setV (e : Engine) (n gm : Nat) (mz : Bool) (l : List Nat) :
    (e.setV n gm mz l).getV n
      = (List.range 64).map fun i => if bit gm i then l.getD i 0 else if mz then 0 else (e.getV n).getD i 0 := by
  unfold Engine.setV Engine.getV tget
  simp only [tget?_tset]
  rfl

theorem eng_setEng (s : State) (e : Nat) (f : Engine → Engine) (h : e < 16) : (s.setEng e f).eng e = f (s.eng e) := by
  unfold State.setEng State.eng
  rw [dif_pos h]
  simp [vmod, h]

/-! ### What keeps a core's leaf -/

theorem putS_leaf (s : State) (c : Fin 8) (r : Nat) (v : BitVec 64) : ((s.putS c r v).core c).leaf = (s.core c).leaf := by
  unfold State.putS
  rw [setCore_core]
  split <;> rfl

theorem putA_leaf (s : State) (c : Fin 8) (r : Nat) (v : BitVec 32) : ((s.putA c r v).core c).leaf = (s.core c).leaf := by
  unfold State.putA
  rw [setCore_core]
  split <;> rfl

theorem setEng_core (s : State) (e : Nat) (f : Engine → Engine) (c : Fin 8) : (s.setEng e f).core c = s.core c := by
  unfold State.setEng
  split <;> rfl

theorem landed_eng (s : State) (c : Fin 8) (e : Nat) : (s.landed c).eng e = s.eng e := by
  unfold State.landed
  split <;> rfl

theorem landed_mem (s : State) (c : Fin 8) : (s.landed c).mem = s.mem := by
  unfold State.landed
  split <;> rfl

theorem bump_leaf (x : Core) (m : Move) (on : Bool) (y : Core) : (bump x m on y).leaf = y.leaf := by
  unfold bump
  split <;> rfl

theorem fly_leaf (t lat reg : Nat) (w : DspWrite) (y : Core) : (fly t lat reg w y).leaf = y.leaf := by
  unfold fly
  split <;> rfl

theorem regLanes_leaf (t : Stg) (e : Nat) (c : Fin 8) (reg gm : Nat) (mz : Bool) (s : State) :
    ((regLanes t e c reg gm mz s).core c).leaf = (s.core c).leaf := by
  unfold regLanes
  simp only [setEng_core]

/-! ### Parity errors -/

/-- Where no word that the instruction reads fails, it has its own effect. -/
theorem reading_right (c : Fin 8) (n : Nat) (par : Option Nat) (reads : Nat → Bool) (q : Quire) (s s1 : State)
    (h : parityHit s q c n par reads = false) : reading c n par reads q s s1 = s1 := by
  unfold reading
  rw [h]; rfl

/-- Where one does, the parity error is all that happens. -/
theorem reading_wrong (c : Fin 8) (n w : Nat) (reads : Nat → Bool) (q : Quire) (s s1 : State)
    (h : parityHit s q c n (some w) reads = true) :
    reading c n (some w) reads q s s1 = memParity s q c (fetches s q c n w) w := by
  unfold reading
  rw [h]; rfl

/-! ### Vector instructions in register mode -/

/-- A legal vector instruction of a row, when it issues, has the effect of its class on the state in which its engine has taken it, and
the core goes on. -/
theorem regVec_runs {c : Fin 8} {eng : Bool} {reg : Byte} {mask : Fin 8} {mz : Bool} {w : BitVec 64} {s u : State} {q : Quire}
    {row : Stg → Bool} (hr : row (stgOf w) = true) (h : Issues c 2 (sRegs (stgOf w).srcs) q s)
    (h1 : (s.eng (engOf c eng)).retired = false) (h2 : (stgOf w).illegal (s.eng (engOf c eng)).acts reg.toNat = false)
    (h3 : (stgOf w).formatOk = true)
    (hu : timeVec (s.landed c) c (engOf c eng) (stgOf w).cost ((0x70 + mask.val) :: (stgOf w).srcs) ((stgOf w).writes reg.toNat) = u)
    (t : State)
    (ht : (match (stgOf w).cls with
      | 10 => regRed (stgOf w) (engOf c eng) c reg.toNat ((s.eng (engOf c eng)).getM mask.val) u
      | 11 => maskRun (stgOf w) (engOf c eng) c reg.toNat ((s.eng (engOf c eng)).getM mask.val) mz u
      | 12 => laneMove (stgOf w) (engOf c eng) c reg.toNat ((s.eng (engOf c eng)).getM mask.val) mz u
      | _ => regLanes (stgOf w) (engOf c eng) c reg.toNat ((s.eng (engOf c eng)).getM mask.val) mz u) = t)
    (hl : (t.core c).leaf = (s.core c).leaf) (hp : (t.core c).replays ≤ (s.core c).replays) :
    regVec row c eng reg mask mz w s = t.past c 2 2 := by
  unfold regVec issueVec
  refine issue_past h _ t ?_ hl hp
  rw [landed_eng, h1]
  simp only [if_false, landed_eng, hr, h2, h3, Bool.not_true, Bool.false_or, Bool.false_eq_true, hu]
  exact ht

end Sys2Proof.Machine
end

