-- ==== Sys2Proof/Laws/Frames.lean ====
section
/-!
SUPPORT. Which shared operations leave the cores as they are, or each core with its leaf; that a quire's fault takes its leaf off
every core; and so what an instruction that faults its quire answers.
-/

namespace Sys2Proof.Machine
open Sys2Proof

/-- A fold of steps that each keep a part of the state keeps it. -/
theorem foldl_keeps {α β γ : Type} (g : β → γ) (f : β → α → β) (h : ∀ s x, g (f s x) = g s) (l : List α) :
    ∀ s, g (l.foldl f s) = g s := by
  induction l with
  | nil => intro s; rfl
  | cons a r ih => intro s; exact (ih _).trans (h s a)

/-! ### Operations that leave the cores as they are -/

@[simp] theorem setCl_cores (s : State) (k : Fin 4) (f : Cluster → Cluster) : (s.setCl k f).cores = s.cores := rfl
@[simp] theorem wr_cores (s : State) (a : Nat) (b : Bytes) : (s.wr a b).cores = s.cores := rfl
@[simp] theorem hostWr_cores (s : State) (a : Nat) (b : Bytes) : (s.hostWr a b).cores = s.cores := rfl
@[simp] theorem emit_cores (s : State) (o : Out) : (s.emit o).cores = s.cores := rfl
@[simp] theorem setLink_cores (s : State) (l : Fin 4) (f : Link → Link) : (s.setLink l f).cores = s.cores := rfl
@[simp] theorem putObj_cores (s : State) (k : Fin 4) (i : Nat) (o : SyncObj) : (s.putObj k i o).cores = s.cores := rfl
@[simp] theorem account_cores (s : State) (k : Fin 4) (n : Nat) (f : Account → Account) : (s.account k n f).cores = s.cores := rfl
@[simp] theorem feCount_cores (s : State) (c : FeCtr) (i n : Nat) : (s.feCount c i n).cores = s.cores := rfl
@[simp] theorem dropMonitors_cores (s : State) (c : Fin 8) : (dropMonitors s c).cores = s.cores := rfl
@[simp] theorem freeThreads_cores (s : State) (k : Fin 4) (t : BitVec 16) : (freeThreads s k t).cores = s.cores := rfl
@[simp] theorem newQuire_cores (s : State) (k : Fin 4) (kind : QKind) (a b c : Nat) (d : Option Nat) :
    (newQuire s k kind a b c d).2.cores = s.cores := rfl

@[simp] theorem setEng_cores (s : State) (e : Nat) (f : Engine → Engine) : (s.setEng e f).cores = s.cores := by
  unfold State.setEng; split <;> rfl

@[simp] theorem engCount_cores (s : State) (e : Nat) (i : Fin 16) (n : Nat) : (s.engCount e i n).cores = s.cores := setEng_cores _ _ _

@[simp] theorem setQuire_cores (s : State) (t : Nat) (f : Quire → Quire) : (s.setQuire t f).cores = s.cores := by
  unfold State.setQuire; split <;> rfl

@[simp] theorem setRx_cores (s : State) (t : BitVec 16) (f : RxCtx → RxCtx) : (s.setRx t f).cores = s.cores := by
  unfold State.setRx; split <;> rfl

@[simp] theorem msix_cores (s : State) (v : Nat) : (s.msix v).cores = s.cores := by
  unfold State.msix; split <;> (try split) <;> rfl

@[simp] theorem hostWrAll_cores (s : State) (w : List (Nat × Bytes)) : (s.hostWrAll w).cores = s.cores :=
  foldl_keeps State.cores _ (by intros; rfl) w s

@[simp] theorem event_cores (s : State) (n m : Nat) (b : Bytes) : (s.event n m b).cores = s.cores := by
  unfold State.event State.tryEvent
  by_cases h : s.linkOk = true
  · simp only [h, if_true]
    generalize Ring.put _ _ = r
    match r with
    | none => rfl
    | some (r, w) =>
      show (((State.putIndex _ _ _).setInt 3).msix 0).cores = _
      rw [msix_cores]
      exact hostWrAll_cores s w
  · simp only [h]
    rfl

theorem pumpGo_cores (l : Fin 4) : ∀ (n : Nat) (s : State), (pumpGo l n s).cores = s.cores := by
  intro n
  induction n with
  | zero => intro s; rfl
  | succ n ih =>
    intro s
    unfold pumpGo
    simp only
    split
    · rfl
    · split
      · exact (ih _).trans rfl
      · exact (ih _).trans rfl
      · rfl

@[simp] theorem sendAs_cores (s : State) (d : Bool) (m : SMsg) : (s.sendAs d m).cores = s.cores := by
  unfold State.sendAs
  simp only
  split
  · split
    · rfl
    · exact pumpGo_cores _ _ _
  · rfl

@[simp] theorem sendMsg_cores (s : State) (m : SMsg) : (s.sendMsg m).cores = s.cores := sendAs_cores _ _ _

@[simp] theorem sendFreed_cores (s : State) : s.sendFreed.cores = s.cores := by
  unfold State.sendFreed
  split
  · rfl
  · exact foldl_keeps State.cores _ (by intros; exact sendAs_cores _ _ _) _ _

@[simp] theorem tearLines_cores (s : State) (q : Quire) : (tearLines s q).cores = s.cores := by
  unfold tearLines
  refine foldl_keeps State.cores _ ?_ _ _
  intro s t
  split
  · split
    · exact foldl_keeps State.cores _ (by intros; rfl) _ _
    · rfl
  · rfl

@[simp] theorem releaseQuire_cores (s : State) (q : Quire) : (releaseQuire s q).cores = s.cores := by
  unfold releaseQuire
  extract_lets k s1 s2 s3 s3' s4 s4' s5 rings s5' halves s6
  have h2 : s2.cores = s.cores := foldl_keeps State.cores _ (by intros; rfl) _ _
  have h3 : s3.cores = s.cores := by
    refine (foldl_keeps State.cores _ ?_ _ _).trans h2
    intro s n
    split <;> rfl
  have h3' : s3'.cores = s.cores := (sendFreed_cores _).trans h3
  have h4 : s4.cores = s.cores := by
    refine Eq.trans ?_ h3'
    simp only [s4]
    split
    · split <;> rfl
    · rfl
  have h4' : s4'.cores = s.cores := (foldl_keeps State.cores _ (by intros; rfl) _ _).trans h4
  have h5 : s5.cores = s.cores := h4'
  have h5' : s5'.cores = s.cores := (foldl_keeps State.cores _ (by intros; rfl) _ _).trans h5
  have h6 : s6.cores = s.cores := (foldl_keeps State.cores _ (by intros; rfl) _ _).trans h5'
  split
  · exact h6
  · exact h5

@[simp] theorem faultDownlink_cores (s : State) (q : Quire) : (faultDownlink s q).cores = s.cores := by
  unfold faultDownlink; split <;> rfl

@[simp] theorem rerun_cores (s : State) (q : Quire) : (rerun s q).cores = s.cores := by
  unfold rerun; split <;> rfl

/-! ### Operations that keep each core's leaf -/

/-- The leaf on each core. -/
def State.leaves (s : State) (c : Fin 8) : Option (BitVec 16) := (s.core c).leaf

theorem leaves_of_cores {s t : State} (h : t.cores = s.cores) : t.leaves = s.leaves := by
  funext c; simp only [State.leaves, State.core, h]

theorem setCore_other (s : State) (c d : Fin 8) (f : Core → Core) (h : d ≠ c) : (s.setCore c f).core d = s.core d := by
  simp only [State.setCore, State.core, vmod]
  have : (c : Nat) ≠ d := fun e => h (Fin.ext e.symm)
  simp [this]

theorem setCore_leaves (s : State) (c : Fin 8) (f : Core → Core) (h : ∀ x, (f x).leaf = x.leaf) :
    (s.setCore c f).leaves = s.leaves := by
  funext d
  by_cases e : d = c
  · subst e; simp only [State.leaves, setCore_core, h]
  · simp only [State.leaves, setCore_other s c d f e]

theorem coreOutcome_leaves (s : State) (c : Fin 8) (o : TakeOut) : (coreOutcome s c o).leaves = s.leaves := by
  refine setCore_leaves _ _ _ ?_
  intro x
  split
  · unfold Core.landPc Core.landS Core.setS
    split <;> split <;> rfl
  · rfl

theorem deliver_leaves (s : State) (k : Fin 4) (i : Nat) (w : Waiter) (o : TakeOut) : (deliver s k i w o).leaves = s.leaves := by
  unfold deliver
  split
  · split
    · exact coreOutcome_leaves _ _ _
    · rfl
  · simp only
    split
    · exact leaves_of_cores ((sendMsg_cores _ _).trans rfl)
    · exact leaves_of_cores ((sendMsg_cores _ _).trans rfl)

theorem fellObj_leaves (s : State) (k : Fin 4) (code : BitVec 8) (i : Nat) : (fellObj s k code i).leaves = s.leaves :=
  foldl_keeps State.leaves _ (by intros; exact deliver_leaves _ _ _ _ _) _ _

theorem chargeRun_cores (s : State) (q : Quire) (c : Fin 8) (n : Nat) : (chargeRun s q c n).cores = s.cores := by
  unfold chargeRun
  simp only [setCl_cores, account_cores]
  unfold chargeTime
  simp only [setCl_cores]
  refine foldl_keeps State.cores _ ?_ _ _
  intro s e
  simp only [engCount_cores]

theorem chargeLeaf_leaves (s : State) (q : Quire) (c : Fin 8) (n : Nat) : (chargeLeaf s q c n).leaves = s.leaves := by
  unfold chargeLeaf chargeTo
  rw [leaves_of_cores (account_cores _ _ _ _), setCore_leaves _ _ _ (by intros; rfl), leaves_of_cores (chargeRun_cores _ _ _ _)]

/-! ### A fault takes the quire's leaf off every core -/

theorem stopCore_leaf (s : State) (c d : Fin 8) : (stopCore s c).leaves d = if d = c then none else s.leaves d := by
  unfold stopCore State.leaves
  split
  · next h => subst h; rw [setCore_core]
  · next h => rw [setCore_other _ _ _ _ h]; rfl

/-- A quire that has not ended or faulted has no leaf on any core once it has faulted; every other leaf stays. -/
theorem faultQuire_leaves (s : State) (tag : BitVec 16) (code : Nat) (q : Quire) (hq : tget? s.quires tag.toNat = some q)
    (h1 : q.state ≠ .ended) (h2 : q.state ≠ .faulted) (c : Fin 8) :
    (faultQuire s tag code).leaves c = if s.leaves c = some tag then none else s.leaves c := by
  unfold faultQuire
  rw [hq]
  simp only [h1, h2, or_self, if_false]
  generalize hcs : (List.finRange 8).filter (fun c => (s.core c).leaf == some tag) = cs
  have hmem : ∀ d, d ∈ cs ↔ s.leaves d = some tag := by
    intro d; rw [← hcs]; simp [State.leaves, List.mem_filter, List.mem_finRange]
  -- the leaves after the cores are stopped
  have key : ∀ (l : List (Fin 8)) (u : State),
      (l.foldl (fun s c => stopCore (chargeLeaf (noteStatus s q c code) q c (s.core c).ran) c) u).leaves c
        = if c ∈ l then none else u.leaves c := by
    intro l
    induction l with
    | nil => intro u; simp
    | cons a r ih =>
      intro u
      rw [List.foldl_cons, ih, stopCore_leaf, chargeLeaf_leaves]
      have hn : (noteStatus u q a code).leaves = u.leaves := setCore_leaves _ _ _ (by intros; rfl)
      rw [hn]
      by_cases e : c = a
      · subst e; simp
      · simp [e]
  have h0 := key cs (tearLines s q)
  rw [leaves_of_cores (tearLines_cores s q)] at h0
  have h3 : ∀ (l : List Nat) (u : State), (l.foldl (fun s i => fellObj s q.cluster (BitVec.ofNat 8 code) i) u).leaves = u.leaves :=
    fun l u => foldl_keeps State.leaves _ (fun s i => fellObj_leaves s _ _ i) l u
  have fin : ∀ t : State, t.leaves = (q.run.foldl (fun s i => fellObj s q.cluster (BitVec.ofNat 8 code) i)
      (releaseQuire (cs.foldl (fun s c => stopCore (chargeLeaf (noteStatus s q c code) q c (s.core c).ran) c) (tearLines s q)) q)).leaves →
      t.leaves c = if s.leaves c = some tag then none else s.leaves c := by
    intro t ht
    rw [ht, h3, leaves_of_cores (releaseQuire_cores _ _), h0]
    simp only [hmem]
  split
  · exact fin _ (leaves_of_cores ((faultDownlink_cores _ _).trans rfl))
  · exact fin _ (leaves_of_cores ((rerun_cores _ _).trans ((event_cores _ _ _ _).trans rfl)))
  · exact fin _ (leaves_of_cores ((event_cores _ _ _ _).trans rfl))
  · exact fin _ rfl

/-- An instruction that issues and faults its quire has no other effect. -/
theorem issue_faults {c : Fin 8} {words cycles : Nat} {reads : List Nat} {q : Quire} {s : State} (h : Issues c words reads q s)
    (h1 : q.state ≠ .ended) (h2 : q.state ≠ .faulted) (body : Quire → State → State) (code : Nat)
    (hb : body q (s.landed c) = faultQuire (s.landed c) q.tag code) :
    issue c words cycles reads body s = faultQuire (s.landed c) q.tag code := by
  rw [issue_runs h, hb, if_neg]
  rintro ⟨h3, -⟩
  have hq : tget? (s.landed c).quires q.tag.toNat = some q := by
    have : (s.landed c).quires = s.quires := by unfold State.landed; split <;> rfl
    rw [this]; exact h.quire
  have h4 := faultQuire_leaves (s.landed c) q.tag code q hq h1 h2 c
  have h5 : (s.landed c).leaves c = some q.tag := (landed_leaf s c).trans h.leaf
  rw [h5] at h4
  simp only [if_true] at h4
  rw [State.leaves, h3] at h4
  cases h4

end Sys2Proof.Machine
end

