-- ==== Sys2Proof/Laws/Mem.lean ====
section
/-!
SUPPORT. The byte memory: every operation keeps the canonical form, a read after a write gives the byte written, a write leaves
every other byte alone.
-/

namespace Sys2Proof.Machine
open Sys2Proof

theorem Mem.risingFrom_cons (lo k : Nat) (v : Byte) (r : Mem) :
    Mem.risingFrom lo ((k, v) :: r) = true ↔ (lo ≤ k ∧ ¬ v = 0) ∧ Mem.risingFrom (k + 1) r = true := by
  rw [Mem.risingFrom, Bool.and_eq_true, Bool.and_eq_true, decide_eq_true_eq, decide_eq_true_eq]

theorem Mem.risingFrom_mono (m : Mem) (a b : Nat) (h : a ≤ b) (hm : m.risingFrom b = true) : m.risingFrom a = true := by
  cases m with
  | nil => rfl
  | cons p r =>
    obtain ⟨k, v⟩ := p
    rw [Mem.risingFrom_cons] at hm ⊢
    exact ⟨⟨by omega, hm.1.2⟩, hm.2⟩

theorem Mem.put_rising (m : Mem) (lo a : Nat) (b : Byte) (ha : lo ≤ a) (hm : m.risingFrom lo = true) :
    (m.put a b).risingFrom lo = true := by
  induction m generalizing lo with
  | nil =>
    unfold Mem.put
    split
    · rfl
    · rename_i hb
      rw [Mem.risingFrom_cons]
      exact ⟨⟨ha, hb⟩, rfl⟩
  | cons p r ih =>
    obtain ⟨k, v⟩ := p
    rw [Mem.risingFrom_cons] at hm
    obtain ⟨⟨h1, h2⟩, h3⟩ := hm
    unfold Mem.put
    split
    · rename_i hlt
      split
      · rw [Mem.risingFrom_cons]
        exact ⟨⟨h1, h2⟩, h3⟩
      · rename_i hb
        rw [Mem.risingFrom_cons, Mem.risingFrom_cons]
        exact ⟨⟨ha, hb⟩, ⟨by omega, h2⟩, h3⟩
    · split
      · rename_i heq
        split
        · exact Mem.risingFrom_mono r lo (k + 1) (by omega) h3
        · rename_i hb
          rw [Mem.risingFrom_cons]
          exact ⟨⟨ha, hb⟩, by rw [heq]; exact h3⟩
      · rw [Mem.risingFrom_cons]
        exact ⟨⟨h1, h2⟩, ih (k + 1) (by omega) h3⟩

/-- A byte write keeps the canonical form. -/
theorem Mem.put_wf (m : Mem) (a : Nat) (b : Byte) (h : m.wf = true) : (m.put a b).wf = true :=
  Mem.put_rising m 0 a b (Nat.zero_le _) h

/-- A write of a byte string keeps it. -/
theorem Mem.write_wf (l : Bytes) (m : Mem) (a : Nat) (h : m.wf = true) : (m.write a l).wf = true := by
  induction l generalizing m a with
  | nil => exact h
  | cons b r ih => exact ih _ _ (Mem.put_wf m a b h)

theorem Mem.filter_rising (m : Mem) (p : Host.Cell → Bool) (lo : Nat) (h : m.risingFrom lo = true) :
    Mem.risingFrom lo (m.filter p) = true := by
  induction m generalizing lo with
  | nil => rfl
  | cons c r ih =>
    obtain ⟨k, v⟩ := c
    rw [Mem.risingFrom_cons] at h
    rw [List.filter_cons]
    split
    · rw [Mem.risingFrom_cons]
      exact ⟨h.1, ih (k + 1) h.2⟩
    · exact Mem.risingFrom_mono _ lo (k + 1) (by omega) (ih (k + 1) h.2)

/-- Dropping entries keeps it. -/
theorem Mem.filter_wf (m : Mem) (p : Host.Cell → Bool) (h : m.wf = true) : Mem.wf (m.filter p) = true :=
  Mem.filter_rising m p 0 h

/-- Zeroing a range keeps it. -/
theorem Mem.clear_wf (m : Mem) (a n : Nat) (h : m.wf = true) : (m.clear a n).wf = true := Mem.filter_wf m _ h

theorem Mem.byte_below (m : Mem) (lo a : Nat) (ha : a < lo) (hm : m.risingFrom lo = true) : m.byte a = 0 := by
  cases m with
  | nil => rfl
  | cons p r =>
    obtain ⟨k, v⟩ := p
    rw [Mem.risingFrom_cons] at hm
    have h1 : k ≠ a := by omega
    have h2 : a < k := by omega
    simp [Mem.byte, h1, h2]

/-- What a byte reads after a byte write, in a memory in canonical form from a bound on. -/
theorem Mem.byte_put_from (m : Mem) (lo a x : Nat) (b : Byte) (hm : m.risingFrom lo = true) :
    (m.put a b).byte x = if x = a then b else m.byte x := by
  induction m generalizing lo with
  | nil =>
    unfold Mem.put
    split
    · rename_i hb; subst hb; simp [Mem.byte]
    · by_cases h : x = a
      · subst h; simp [Mem.byte]
      · have h' : ¬ a = x := fun e => h e.symm
        simp [Mem.byte, h, h']
  | cons p r ih =>
    obtain ⟨k, v⟩ := p
    rw [Mem.risingFrom_cons] at hm
    obtain ⟨⟨h1, h2⟩, h3⟩ := hm
    unfold Mem.put
    split
    · rename_i hlt
      split
      · rename_i hb
        subst hb
        by_cases h : x = a
        · subst h
          have hk : ¬ k = x := by omega
          simp [Mem.byte, hk, hlt]
        · simp [h]
      · by_cases h : x = a
        · subst h; simp [Mem.byte]
        · have h' : ¬ a = x := fun e => h e.symm
          by_cases hx : x < a
          · have hk : ¬ k = x := by omega
            have hxk : x < k := by omega
            simp [Mem.byte, h, h', hx, hk, hxk]
          · simp [Mem.byte, h, h', hx]
    · split
      · rename_i hge heq
        subst heq
        split
        · rename_i hb
          subst hb
          by_cases h : x = a
          · subst h; simp [Mem.byte_below r (x + 1) x (by omega) h3]
          · have h' : ¬ a = x := fun e => h e.symm
            by_cases hx : x < a
            · simp [Mem.byte, h, h', hx, Mem.byte_below r (a + 1) x (by omega) h3]
            · simp [Mem.byte, h, h', hx]
        · by_cases h : x = a
          · subst h; simp [Mem.byte]
          · have h' : ¬ a = x := fun e => h e.symm
            simp [Mem.byte, h, h']
      · rename_i hge hne
        have hi := ih (k + 1) h3
        by_cases h : x = a
        · subst h
          have hk : ¬ k = x := fun e => hne e.symm
          simp [Mem.byte, hk, hge, hi]
        · by_cases hk : k = x
          · simp [Mem.byte, hk, h]
          · by_cases hx : x < k
            · simp [Mem.byte, hk, hx, h]
            · simp [Mem.byte, hk, hx, h, hi]

/-- A byte reads what was written there last. -/
theorem Mem.byte_put_self (m : Mem) (a : Nat) (b : Byte) (h : m.wf = true) : (m.put a b).byte a = b := by
  simp [Mem.byte_put_from m 0 a a b h]

/-- A byte write leaves every other byte alone. -/
theorem Mem.byte_put_other (m : Mem) (a x : Nat) (b : Byte) (hx : x ≠ a) (h : m.wf = true) : (m.put a b).byte x = m.byte x := by
  simp [Mem.byte_put_from m 0 a x b h, hx]

/-- A write of a string leaves every byte outside it alone. -/
theorem Mem.byte_write_other (l : Bytes) (m : Mem) (a x : Nat) (hx : x < a ∨ a + l.length ≤ x) (h : m.wf = true) :
    (m.write a l).byte x = m.byte x := by
  induction l generalizing m a with
  | nil => rfl
  | cons b r ih =>
    simp only [List.length_cons] at hx
    have h1 : (m.put a b).wf = true := Mem.put_wf m a b h
    show ((m.put a b).write (a + 1) r).byte x = m.byte x
    rw [ih (m.put a b) (a + 1) (by omega) h1]
    exact Mem.byte_put_other m a x b (by omega) h

/-- The string written reads back. -/
theorem Mem.read_write (l : Bytes) (m : Mem) (a : Nat) (h : m.wf = true) : (m.write a l).read a l.length = l := by
  induction l generalizing m a with
  | nil => rfl
  | cons b r ih =>
    have h1 : (m.put a b).wf = true := Mem.put_wf m a b h
    show ((m.put a b).write (a + 1) r).byte a :: ((m.put a b).write (a + 1) r).read (a + 1) r.length = b :: r
    rw [ih _ _ h1, Mem.byte_write_other r (m.put a b) (a + 1) a (by omega) h1, Mem.byte_put_self m a b h]

end Sys2Proof.Machine
end

