-- ==== Sys2Proof/Tests/Slice0.lean ====
section
/-!
SUPPORT. Tests: ill-formed commands that the checks refuse, the manual's worked examples, and for every statement with
hypotheses a concrete state and operands that meet them. Where a hypothesis speaks of an opaque constant of Config (a signature,
a key, a package layout), the witness takes its outcome as given.
-/

set_option maxRecDepth 10000
set_option Elab.async false

namespace Sys2Proof.Tests
open Sys2Proof Sys2Proof.Machine

/-! ### Small states -/

/-- CMDQ and SPQ with records waiting. -/
def ring0 : Ring := { base := 0x1000, size := 65536, prod := 2000 }

/-- A mailbox that the host has set up. -/
def mbx0 : Mailbox :=
  { cmdq := ring0, spq := ring0
    rspq := { base := 0x200000, size := 65536 }, evq := { base := 0x400000, size := 65536 }
    spc := { base := 0x600000, size := 65536 }, idxLatched := 0x800000 }

/-- The part after start-up: READY, the link in L0, the rings set up. -/
def w0 : State :=
  { State.reset with
    boot := { state := .ready, perst := false, ddrGiB := 32 }, host := { l0 := true }, mbx := mbx0 }

/-- A command of one leaf with a large output buffer. -/
def cmd (p : Bytes) : Cmd :=
  { tag := 7, len := 10, params := p, obAddr := 0x900000, obLen := 0x100000, xferFail := none, leaves := 1 }

theorem srv {code : Nat} {early : Bool} {s : State} {p : Bytes} (hb : s.boot = w0.boot) (hh : s.host = w0.host)
    (hm : s.mbx = w0.mbx) (hp : s.power = w0.power) : Served code early (cmd p) s where
  read := by
    have : s.canRead s.mbx.cmdq (cmd p).len.toNat = w0.canRead w0.mbx.cmdq (cmd p).len.toNat := by
      simp only [State.canRead, State.busumUp, State.linkOk, hb, hh, hm, hp]
    rw [this]; rfl
  len := ⟨by change 3 ≤ 10; decide, by change 10 ≤ 257; decide⟩
  up := by rw [hb]; exact Or.inr rfl
  xfer := rfl
  free := by simp only [State.targetBusy, hm]; rfl

theorem srvL {early : Bool} {s : State} {p : Bytes} (hb : s.boot = w0.boot) (hh : s.host = w0.host)
    (hm : s.mbx = w0.mbx) (hp : s.power = w0.power) : ServedLong early (cmd p) s :=
  have h : Served 0 early (cmd p) s := srv hb hh hm hp
  ⟨h.read, h.len, h.up, h.xfer, by rw [hm]; rfl, Nat.le_refl 1⟩

theorem barOk {s : State} (hb : s.boot = w0.boot) (hh : s.host = w0.host) (hp : s.power = w0.power) : BarOk s :=
  ⟨by simp only [State.barServed, State.busumUp, hb, hp]; rfl, by rw [hh]; exact Or.inl rfl⟩

theorem reset_inv : Inv State.reset := ⟨rfl, fun _ => rfl, fun h => absurd h (by decide), by decide⟩

theorem pairEta {α β : Type} (x : α × β) : x = (x.1, x.2) := rfl

theorem slice_length (b : Bytes) (o n : Nat) : (slice b o n).length = n := by
  simp only [slice, List.length_append, List.length_replicate, List.length_take]; omega

theorem fits {c : Cmd} {b : Bytes} (h : b.length ≤ 4080) : outFits c b := fun g => absurd g (by omega)

/-- Parameters of 8-byte fields. -/
def par (l : List Nat) : Bytes := join8 l

/-- A record of 8-byte fields followed by its complement. -/
def rec2 (l : List Nat) : Bytes := join8 l ++ cpl (join8 l)

/-- Bytes followed by their complement. -/
def both (b : Bytes) : Bytes := b ++ cpl b

/-- A quire of a kind in a state, with tag 5. -/
def quire (k : QKind) (st : QState) : Quire :=
  { tag := 5, cluster := 0, kind := k, state := st, consumer := 1, owner := 0, sfnSlot := 0 }

/-- The part with one quire. -/
def wq (q : Quire) : State := { w0 with quires := [(5, q)] }

/-- A model with its weights as loaded. -/
def model0 : Model :=
  { id := 9, image := [], params := zeros 64, versions := [{ number := 0, parent := 0, state := .active }] }

/-- The part with one model in slot 0. -/
def wm (m : Model) : State := { w0 with models := Vector.ofFn fun i : Fin 16 => if i = 0 then some m else none }

/-- The part with a module in cage 0. -/
def wc (c : Cage) : State := { w0 with fe := { cages := Vector.ofFn fun i : Fin 8 => if i = 0 then c else {} } }

/-- The part with cell 0. -/
def cell0 : Cell := { rcd := zeros 256, placed := true }
def wcell (c : Cell) : State := { w0 with cfg := { cells := [(0, c)] } }

/-- Ring 1 at its capacity, for the limits of a doorbell. -/
def wring (r : Ring) : State := { w0 with mbx := { mbx0 with spq := r, rspq := r } }

/-- The part with a DMA channel 8. -/
def wd (c : DmaChan) : State :=
  { w0 with
    dma := Vector.ofFn fun i : Fin 16 => if i = 8 then c else {}
    windows := Vector.ofFn fun i : Fin 64 =>
      if i = 0 then some { mem := .binder, base := 0, len := 64, rd := true, wr := true, host := true } else none }

/-- A descriptor of one line of 64 bytes from host address 0 to window 0. -/
def desc0 : Bytes :=
  both (toLE 8 0) ++ zeros 16 ++ toLE 4 64 ++ zeros 4 ++ toLE 2 1 ++ zeros 2 ++ toLE 4 64 ++ zeros 4 ++ toLE 2 1 ++ zeros 10

/-- The part with a host window over the start of DDR5. -/
def wwin : State :=
  { w0 with
    windows := Vector.ofFn fun i : Fin 64 =>
      if i = 0 then some { mem := .ddr5, base := 0, len := 2 ^ 34, rd := true, wr := true, host := true } else none }

/-- The part in another power state, its link still up. -/
def wpow (p : Power) : State := { w0 with power := p }

/-- An owned part, its root the digest of a blob's signer. -/
def wroot (r : Option Bytes) (locked : Bool) : State :=
  { w0 with host := { l0 := true, lock := locked }, sec := { fuses := { ownerRoot := r } } }

/-- Blobs for KEY_IMPORT of either use. -/
theorem attest_fits : (reportBytes (cmd (zeros 32)).params (w0.takeCmd (cmd (zeros 32)).len)
    ++ slice (identitySign "UZY1632 attest".toList
      (reportBytes (cmd (zeros 32)).params (w0.takeCmd (cmd (zeros 32)).len))) 0 3309 ++ zeros 19).length
    ≤ (cmd (zeros 32)).obLen.toNat := by
  simp only [reportBytes, List.length_append, slice_length]
  decide +kernel

def blob0 : Bytes := zeros 6485
def blob1 : Bytes := [1, 0, 16, 1] ++ zeros 6481

/-- A long command in progress. -/
def job (n : Nat) : Job := { code := 0x12, cmd := cmd [], leaves := n }
def wjob (l : List Job) : State := { w0 with mbx := { mbx0 with longQ := l } }

/-- A cell record: active on cluster 0 in both directions at 30 kHz. -/
def rcd1 : Bytes := [0, 0, 0, 0, 1, 0, 0, 0, 0, 0, 1, 3] ++ zeros 244
def cell1 : Cell := { rcd := rcd1, placed := true, clock := some 0, number := some (0, 0) }
def ul0 : UlSlot :=
  { len := 2, cell := 0, sfn := 0, slot := 0, pusch := [], uci := [], prach := [], pucch := [], excluded := [], raw := [] }
def dl0 : DlSlot :=
  { len := 2, cell := 0, sfn := 0, slot := 0, pdsch := [], other := [], dci := [], bch := [], excluded := [], raw := [] }
def tx0 : TxData := { len := 2, cell := 0, sfn := 0, slot := 0, tbs := [], raw := [] }

/-- A quire with its windows, and core 0 with a leaf of it live. -/
def qlive : Quire :=
  { quire .slotReception .running with
    code := { base := 0, len := 4096 }, qd := { base := 0x80000, len := 0x1000 }, prog := none }
def prog0 : Prog :=
  { cores := 1, positions := 1, qdBytes := 0, codeBytes := 0, spadBytes := 0, accUnits := 0, full := false
    objInit := [], named := [], stitchQueues := [], sums := [], lists := [], ddrBase := 0, ddrLen := 0
    codedAt := [], remote := [], entry0 := 0, entry1 := 0 }
def core0 : Core := { leaf := some 5 }
def wl (x : Core) (q : Quire) : State :=
  { wq q with cores := Vector.ofFn fun i : Fin 8 => if i = 0 then x else {} }

/-- The same with s registers. -/
def cores (l : List (Nat × BitVec 64)) : Core := { core0 with cx := { s := l } }

/-- Core 0 with a leaf live and engine 0 prepared. -/
def we (x : Core) (e : Engine) : State :=
  { wl x qlive with engines := Vector.ofFn fun i : Fin 16 => if i = 0 then e else {} }
def mode0 : ArrayMode := { op := 0, xfmt := 1, wfmt := 1, conj := false, cmp := 0, tol := 0, gateOff := false }

/-- The part with a staging base. -/
def wstage (q : Quire) : State := { wq q with cfg := { sched := schedDefault.set 0x61 1 } }
def sum0 : SumDecl := { obj := 0, fmt := 0, k := 2, dst := 0, bytes := 64, staging := none }
def big : Prog := { prog0 with qdBytes := 0x800000 }

/-- A stitch message of a type from chip 1, and a wait. -/
def smsg (typ : Byte) : SMsg :=
  { typ := typ, src := 1, dst := 0, cluster := 0, tag := 5, offset := 0, xfer := 0, seq := 0, arg := 0
    reservedSet := false, data := [] }
def wait0 : WaitCtx := { ref := 0, n := 1, limit := 9, rd := 0, remote := false }

/-- Records of the coding subsystem for quire 5 of cell 0. -/
def rx0 : RxCtx := { tag := 5, cell := 0, sfnSlot := 0 }
def dlc0 : DlCtx := { tag := 5, cell := 0, sfnSlot := 0, rcd := dl0 }
def prach0 : PrachPdu :=
  { supported := true, format := 4, scs := 0, startSym := 0, rootIndex := 0, restricted := 0, ncs := 0, count := 0
    freqOffset := 0, fft := 0, beam := 0 }
def pctx0 : PrachCtx := { tag := 5, cell := 0, sfnSlot := 0, pdu := prach0 }
/-- A cell record with COLOPHON. -/
def rcdC : Bytes := zeros 44 ++ [1] ++ zeros 211
def qe (k : QKind) : Quire := quire k .ended
def wcod (k : QKind) (c : Coding) : State := { wq (qe k) with coding := c }

/-- A frame, an uplink slot in progress, a stream-symbol of it. -/
def frame0 : Frame :=
  { port := 0, dst := 0, src := 0, tags := [], etherType := 0xAEFE, len := 64, fcsGood := true, pause := false
    fecBad := false, macsec := .noSa, revision := 1, msgs := [] }
def wport (p : Port) : State := { w0 with fe := { ports := Vector.replicate 8 p } }
def sym0 : StreamSym := { cell := 0, sfnSlot := 0, symbol := 0, stream := 0, want := [] }
def ulc0 : UlCtx := { cell := 0, sfnSlot := 0, rcd := ul0 }
def wul (u : UlCtx) : State := { wcell cell1 with fe := { ul := [(0, u)] } }
def wul0 (u : UlCtx) : State :=
  { wul u with engines := Vector.replicate 16 { retired := true } }
/-- A frame from the radio unit of a cell, on a port with an address. -/
def frame1 : Frame := { frame0 with dst := 2, src := 2 }
def port1 (m : Nat) : Port := { up := true, mac := 2, macsecMode := m }
def rcdRu : Bytes := zeros 0x36 ++ [2] ++ zeros 201
def wru (m : Nat) : State :=
  { wport (port1 m) with cfg := { cells := [(0, { rcd := rcdRu, placed := true })] } }
def ulp : UlCtx := { ulc0 with rcd := { ul0 with prach := [prach0] } }

/-- Cages as they come up. -/
def page1 : Bytes := zeros 256
def entry0 : ModuleEntry := { serial := zeros 16 }
def wdl (d : DlCtx) : State := { wcell cell1 with coding := { dl := [(5, d)] } }
def dlOther : DlCtx := { dlc0 with rcd := { dl0 with other := [{ sym := 3, nSym := 1, prb := 0, nPrb := 0, beam := 0 }] } }

/-- A PUSCH of one short transport block, its code block, the slot-reception that holds it. -/
def pusch0 : Pusch :=
  { supported := true, rnti := 1, harqId := 0, harqBuf := 0, rxBufAddr := 0, rxBufLen := 64, tbs := 24, bg := 2
    newData := true, qm := 2, layers := 1, rv := 0, g := 4, tbsLbrm := none, cbgTx := none, cInit := 0, ulAt := none
    dmrs := 0, startSym := 0, numSym := 1, startPrb := 0, numPrb := 1, pilots := [], dataRe := [], beam := 0 }
def px0 : PuschCtx := { pdu := pusch0 }
def rxp (x : PuschCtx) : RxCtx := { rx0 with pusch := [x] }
def wrx (x : PuschCtx) : State := { wq (quire .slotReception .running) with coding := { rx := [(5, rxp x)] } }
def cbx (c : CbCtx) : PuschCtx := { px0 with combined := true, cbs := [c] }
def uci0 (k : Nat) : UciCtx := { part := { pdu := 1, k := k, e := 12, qm := 2, scr := none } }
def rxu (k : Nat) : RxCtx := { rx0 with uci := [uci0 k] }
def wru0 (k : Nat) : State := { wq (quire .slotReception .running) with coding := { rx := [(5, rxu k)] } }
def dlci : DlCtx := { dlc0 with rcd := { dl0 with dci := [{ bits := List.replicate 12 true, rnti := 1, e := 108 }] } }

theorem triEta {α β γ : Type} (x : α × β × γ) : x = (x.1, x.2.1, x.2.2) := rfl

/-- A model whose candidate is in a state, with a training and an evaluation record, and its ended adaptation quire. -/
def params0 : Bytes := [1, 1, 0, 4, 1, 0, 8, 0, 1, 0, 1, 0] ++ zeros 52
def rec0 (n : Nat) : SampleRec := { count := n, cell := 0, sfnSlot := 0, kept := true }
def vers0 (st : VState) : Version := { number := 1, parent := 0, state := st }
def mv (l : List Version) : Model :=
  { model0 with params := params0, versions := { number := 0, parent := 0, state := .active } :: l, ring := [rec0 2, rec0 3] }
def qad : Quire := { quire .adaptation .ended with owner := 0 }
def wad (m : Model) : State := { wm m with quires := [(5, qad)] }
def wadp (m : Model) (p : Promote) : State := wad { m with promote := some p }
def prom : Promote := ⟨1, none, false⟩
def eval0 : EvalResult := { cand := [], active := [] }
def mw (w : Watch) : Model := { mv [] with params := params0 ++ [], watch := some w }
def cell9 : Cell := { cell0 with rcd := zeros 16 ++ toLE 8 9 ++ zeros 232 }
def ws0 : YardSample := { sfnSlot := 0, at_ := 0 }
def wyard : State :=
  { wm (mv []) with
    cfg := { cells := [(0, cell9)] }, quires := [(5, quire .yardstick .ended)], yard := [(0, { samples := [ws0] })] }



/-- A pool of four chips with a link in a state, its neighbour chip 1. -/
def link0 (st : LinkState) : Link := { enable := true, state := st, lanes := 4, rate := 1 }
def wpool (k : Link) : State :=
  { w0 with cfg := { pool := poolDefault.set 35 4 }, stitch := { links := Vector.replicate 4 k } }
def wup : State := wpool (link0 .up)
/-- A flit with a CRC and a SEQ. -/
def flit (seq : Nat) : Bytes :=
  let p := toLE 8 (2 ^ 60 + seq) ++ zeros 244
  p ++ toLE 4 (crc32c p)
def qfl : QFlit := { data := false, first := true, last := true, payload := [] }
def wstale (b : Bool) : State := { wup with stitch := { wup.stitch with spineStale := b } }
def spine0 (epoch : Nat) (d : Bytes) : SMsg := { smsg 0x30 with arg := BitVec.ofNat 128 epoch, data := d }

/-- An outgoing WRITE to chip 1, an incoming transfer from it, a multicast descriptor of quire 5. -/
def wdesc (h : Nat) : Bytes :=
  both (toLE 8 h) ++ toLE 8 0x80000 ++ zeros 4 ++ toLE 4 64 ++ toLE 4 1 ++ zeros 12 ++ toLE 8 2 ++ zeros 8
def mcastDesc : Bytes := wdesc (2 ^ 60 + 4 * 2 ^ 56 + 15 * 2 ^ 48 + 5 * 2 ^ 16)
def writeDesc : Bytes := wdesc (4 * 2 ^ 56 + 15 * 2 ^ 48 + 2 ^ 40 + 5 * 2 ^ 16)
def out0 : OutXfer := { num := 0, queue := 0, desc := writeDesc, wire := [1], sent := 1, at_ := 0, targets := [{ chip := 1 }] }
def in0 : InXfer := { src := 1, num := 0, nextSeq := 1 }
def win0 (x : InXfer) : State := { wup with stitch := { wup.stitch with inX := [x] } }
def wout (x : OutXfer) : State := { wup with stitch := { wup.stitch with outX := [x] } }
def wqueue (d : Bytes) (out : List OutXfer) : State :=
  { wup with
    stitch := { wup.stitch with
      outX := out
      queues := Vector.ofFn fun i : Fin 32 => if i = 0 then { quire := some 5, descs := [d], launchObj := 0x4080 } else {} }
    quires := [(5, qlive)]
    clusters := Vector.replicate 4 { objs := [(0x4080, { count := 1 })] } }
def place0 : Placed := { pos := 0, data := [1], x := in0 }
/-- A quire with a carder list that is at work on thread 0, and a descriptor of one line. -/
def list0 : CarderList := { descs := [[]], launchObj := 0x4020 }
/-- A copy of one line of 64 bytes inside the quire-data window, with SEQ 0. -/
def copyHead : Bytes := toLE 8 0x0F04400000050000
def copyDesc : Bytes := copyHead ++ cpl copyHead ++ toLE 8 0x80000 ++ toLE 8 0x80400 ++ zeros 8 ++ toLE 4 64 ++ toLE 4 1
  ++ zeros 12 ++ toLE 2 0xFFFF ++ toLE 2 1
def list1 : CarderList := { descs := [copyDesc], launchObj := 0x4020, line := some 0 }
def qcopy : Quire := { qlive with lists := [list1], qd := ⟨0x80000, 0x1000⟩ }
def qcard : Quire := { qlive with lists := [list0], prog := some prog0 }
def wcard (b : Thread) : State :=
  { wup with
    quires := [(5, qcard)]
    clusters := Vector.replicate 4 { objs := [(0x4020, { count := 1 })], threads := Vector.replicate 8 (some b) } }
def wclose : State :=
  { wcell cell0 with
    cfg := { sched := schedDefault.set 1 0, cells := [(0, cell0)] }
    coding := { rx := [(5, { rx0 with close := 7 })] } }

/-- The part in a state of boot, of power, of SPDM. -/
def wboot (b : Boot) : State := { w0 with boot := b }
def wres (b : Boot) : State := { State.reset with boot := b }
def boot0 : Boot := { state := .ready, perst := false, ddrGiB := 32 }
def ddr0 : DdrChannels := [some 8, some 8, some 8, some 8]
def wflash (a : Bytes) (b : Bytes) : State := { wboot { boot0 with ddr := ddr0 } with sec := { flash := { slotA := a, slotB := b } } }
def wspdm (p : Spdm) : State := { w0 with sec := { spdm := p } }
def spdm0 : Spdm := { version := true, caps := true, algs := true }
def whost (h : HostLink) : State := { w0 with host := h }
theorem wprefer : (0xA5A50000#32 : BitVec 32) ≠ 0xA5A50001 := by decide
theorem slotA_erased : slotFault {} (ddrTotal ddr0 * 2 ^ 30) [] = some 0x10 := by decide +kernel
def hot : Vector (BitVec 8) 8 := Vector.replicate 8 115
def cool : Vector (BitVec 8) 8 := Vector.replicate 8 114

/-- Core 0 of the part in a pool of two chips, with a reference to an object of another chip in s1. -/
def wfar (x : Core) : State :=
  { wl { x with cx := { x.cx with s := [(1, 0x8100000500004100#64)] } } qlive with cfg := { pool := poolDefault.set 35 2 } }
/-- A bundle loop in its last instruction, or before it. -/
def loop1 (left rem : Nat) : LoopCtx :=
  { top := 8, remaining := rem, iter := 0, pro := 0, drn := 0, len := 2, left := left, ring := 0, outer := false }

/-- A slot-reception between its leaves on two engines, a best-effort quire between dispatches, and one suspended. -/
def qre : Quire := { quire .slotReception .running with prog := some prog0, leaf0 := 1, engines := 2 }
def qbe : Quire := { quire .yardstick .running with prog := some prog0 }
def qsus : Quire := { quire .yardstick .suspended with ctxSlot := some 0, saved := true, prog := some prog0, engines := 1 }
def qyard : Quire := { qlive with kind := .yardstick }

/-- The thread of a carder that is finishing a descriptor of quire 5. -/
def wfin : State :=
  { wl { core0 with released := [(0, 1, 5)] } qlive with
    clusters := Vector.replicate 4 { threads := Vector.replicate 8 (some { tag := 5, list := 0, finishing := some [] }) } }
def qgrant : Quire := { qlive with objCount := 2 }
def mgrant : SMsg := { smsg 0x12 with arg := BitVec.ofNat 128 (2 ^ 80) }
/-- A stream-symbol that has closed, its slot, and a slot store whose ring is the slot's or another's. -/
def symc : StreamSym := { sym0 with closed := true }
def ulcc : UlCtx := { ulc0 with syms := [symc] }
def ring1 (n : Option Nat) : RingEntry := { base := 0, len := 0, releaseObj := 0, need := 1, cell := 0, busy := true, slot := n }
def wstore (n : Option Nat) : State := { wul ulcc with fe := { ul := [(0, ulcc)], rings := [(1, ring1 n)] } }
/-- A message with one section, and a cell with a clock that has no number. -/
def msg0 : EcpriMsg :=
  { typ := 0, eaxc := 0, seq := 0, eBit := true, subSeq := 0, filterIndex := 0, sfnSlot := 0, symbol := 0
    sections := [{ prb := 0, nPrb := 1, symInc := 0, comp := none, prbs := [] }] }
def cellC : Cell := { cell1 with clock := some 0, number := none }
def wsmp : State := { wul { ulc0 with closeTick := some 0 } with models := Vector.ofFn fun i : Fin 16 => if i = 0 then some { model0 with id := 0 } else none }

/-- A downlink slot with a message held for symbol 3. -/
def dlHeld : DlCtx := { dlOther with held := [(3, [(0, [1])])] }
def wdlp (d : DlCtx) : State :=
  { wdl d with fe := { ports := Vector.replicate 8 { up := true, mac := 2 } }, quires := [(5, quire .downlink .running)] }
/-- A second slot-reception that still owes the header of buffer 0, and the HARQ region. -/
def harq0 : HarqCfg := { base := 0, stride := 0x10000, count := 1, spill := 0x100000 }
def rx6 : RxCtx := { rxp { px0 with handed := some (0, ⟨false, []⟩) } with tag := 6 }
def rxLater (x : PuschCtx) : RxCtx := { rxp x with close := 1 }
def whold (x : PuschCtx) : State :=
  { wrx x with coding := { harq := some harq0, rx := [(5, rxLater x), (6, rx6)] } }
def pxHeld : PuschCtx := { px0 with handed := some (0, ⟨false, []⟩) }
/-- A PRACH occasion of short format with one receive stream. -/
def pdu1 : PrachPdu := { prach0 with count := 1 }
def ctx1 : PrachCtx := { pctx0 with pdu := pdu1, cellRcd := zeros 5 ++ [1] ++ zeros 250 }
/-- A model that evaluates on one record with one label. -/
def recLab : SampleRec :=
  { rec0 3 with tbs := [{ pdu := pusch0, passed := true, labels := some [true] }] }
def mev (l : List (Bool × SampleRec)) : Model :=
  { mv [vers0 .evaluating] with
    params := params0.set 2 1, ring := l.map (·.2), job := (l.filter (·.1)).map (·.2.count) }
def evGood : EvalResult := { cand := [[0xC1000000]], active := [[0x41000000]] }

theorem loss_good (h : Config.softplus2 0xFF800000 = 0) : bitLoss 0 true 0xC1000000 = 0 := by
  have e : BitVec.ofNat 32 (div32 (0xC1000000#32).toNat 0) = 0xFF800000 := by decide +kernel
  show (Config.softplus2 (BitVec.ofNat 32 (div32 (0xC1000000#32).toNat 0))).toNat = _
  rw [e, h]; rfl

theorem loss_bad (h : Config.softplus2 0x7F800000 = 0x7F800000) : bitLoss 0 true 0x41000000 = 0x7F800000 := by
  have e : BitVec.ofNat 32 (div32 (0x41000000#32).toNat 0) = 0x7F800000 := by decide +kernel
  show (Config.softplus2 (BitVec.ofNat 32 (div32 (0x41000000#32).toNat 0))).toNat = _
  rw [e, h]; rfl

theorem evalOk (h1 : Config.softplus2 0xFF800000 = 0) (h2 : Config.softplus2 0x7F800000 = 0x7F800000)
    (h3 : ((Config.layers []).filter (·.adaptable)).all (driftOk [] []) = true) :
    evalPasses (mev [(true, recLab)]) (vers0 .evaluating) evGood = true := by
  have a : meanLoss 0 [(true, 0xC1000000)] = 0 := by
    show div32 (add32 0 (bitLoss 0 true 0xC1000000)) (to32 (fofInt 1)) = 0
    rw [loss_good h1]; decide +kernel
  have b : meanLoss 0 [(true, 0x41000000)] = 0x7F800000 := by
    show div32 (add32 0 (bitLoss 0 true 0x41000000)) (to32 (fofInt 1)) = 0x7F800000
    rw [loss_bad h2]; decide +kernel
  show (leV (f32 (meanLoss 0 [(true, 0xC1000000)])) (fmulV (f32 (meanLoss 0 [(true,
    0x41000000)])) (.fin false (2 ^ 1 - 1) (-1)))
    && decide (bitErrors [(true, 0xC1000000)] ≤ bitErrors [(true, 0x41000000)])
    && ([] : List (BitVec 32)).all (fun x => (f32 x.toNat).isFin) && ((Config.layers []).filter (·.adaptable)).all (driftOk
      [] [])) = true
  rw [a, b, h3]; decide +kernel

/-- A flit of a reserved kind, and one that is good but out of order. -/
def flitKind : Bytes :=
  let p := toLE 8 (5 * 2 ^ 60) ++ zeros 244
  p ++ toLE 4 (crc32c p)
def wgrace (n : Nat) : State := { wup with cfg := { pool := (poolDefault.set 35 4).set 37 (BitVec.ofNat 8 n) } }

/-- A queue whose next descriptor names a lost member. -/
def writeDesc1 : Bytes := writeDesc.take 48 ++ zeros 16
def wlost : State :=
  { wqueue writeDesc1 [] with stitch := { (wqueue writeDesc1 []).stitch with members := [(1, { lost := true })] } }
def qcopy0 : Quire := { qcopy with lists := [{ list1 with line := none }] }
def wcopy (q : Quire) : State := { wcard { tag := 5, list := 0 } with quires := [(5, q)] }
def thr0 : Thread := { tag := 5, list := 0 }
def thrF : Thread := { tag := 5, list := 0, finishing := some [] }

/-! ### Ill-formed commands, one for each check -/

/-- Operands longer than their length fields, numbers past their ranges. -/
theorem test_ill_formed_operands :
    Cmd.wf { cmd [] with len := 4097 } = false ∧ slotKeyOk (1024 * 65536) = false ∧ slotKeyOk 160 = false
      ∧ Section.wf { sym := 10, nSym := 5, prb := 0, nPrb := 1, beam := 0 } = false
      ∧ Section.wf { sym := 0, nSym := 1, prb := 1, nPrb := 275, beam := 0 } = false
      ∧ Extent.wf { pos := 4, acc := false, start := 0, len := 1 } = false
      ∧ Extent.wf { pos := 0, acc := true, start := 3072, len := 1 } = false
      ∧ SMsg.wf { smsg 1 with data := zeros 4097 } = false
      ∧ StepResult.wf { grads := [[0], []], arrival := [0, 1] } = false
      ∧ StepResult.wf { grads := [[0], [0]], arrival := [0] } = false
      ∧ StepResult.wf { grads := [[0], [0]], arrival := [0, 0] } = false
      ∧ EvalResult.wf { cand := [[0]], active := [[]] } = false
      ∧ flashOk { certs := [zeros 65537] } = false := by decide +kernel

/-- PDUs and records. -/
theorem test_ill_formed_records :
    Pusch.wf { pusch0 with qm := 3 } = false ∧ Pusch.wf { pusch0 with layers := 9 } = false
      ∧ Pusch.wf { pusch0 with startSym := 14 } = false ∧ Pusch.wf { pusch0 with startPrb := 275 } = false
      ∧ Pusch.wf { pusch0 with bg := 3 } = false ∧ PrachPdu.wf { prach0 with rootIndex := 838 } = false
      ∧ UlSlot.wf { ul0 with len := 4097 } = false ∧ UlSlot.wf { ul0 with pusch := [{ pusch0 with bg := 0 }] } = false
      ∧ UlSlot.wf { ul0 with prach := [{ prach0 with format := 11 }] } = false
      ∧ UlSlot.wf { ul0 with pucch := [{ sym := 14, nSym := 1, prb := 0, nPrb := 1, beam := 0 }] } = false
      ∧ BchPdu.wf { mib := [], extra := List.replicate 8 false, cellId := 0, l64 := false } = false
      ∧ DlSlot.wf { dl0 with bch := [{ mib := [], extra := [], cellId := 0, l64 := false }] } = false
      ∧ DlSlot.wf { dl0 with len := 4097 } = false ∧ TxData.wf { tx0 with tbs := [(0, 1, [])] } = false
      ∧ Prog.wf { prog0 with positions := 5, objInit := [0, 0] } = false ∧ Prog.wf { prog0 with objInit := [0] } = false
      ∧ Prog.wf { prog0 with objInit := [0, 0], named := List.range 17 } = false
      ∧ Frame.wf { frame0 with len := 63 } = false ∧ EcpriMsg.wf { msg0 with sfnSlot := 160 } = false
      ∧ EcpriMsg.wf { msg0 with symbol := 14 } = false
      ∧ Frame.wf { frame0 with tags := List.replicate 3 (0x8100, 0) } = false := by decide +kernel

/-- Commands whose operands are checked where they stand. -/
theorem test_ill_formed_commands :
    Instr.wf (.barAccessSize true 0) = false ∧ Instr.wf (.dloop 0 0 0 65536) = false
      ∧ Instr.wf (.chain 0 false 0 0 false [] none) = false ∧ Instr.wf (.slotStoreForward 0 0 14 ⟨0, none⟩) = false
      ∧ Instr.wf (.slotStoreForward 0 0 0 ⟨32, none⟩) = false ∧ Instr.wf (.quireRelease 0 160 0) = false
      ∧ Instr.wf (.receptionWindowEnd 0 0 14) = false ∧ Instr.wf (.dlTxWindowOpen 0 0 14) = false
      ∧ Instr.wf (.moduleIdentify 0 [] (zeros 128)) = false ∧ Instr.wf (.biasSample 0 ⟨0, []⟩) = false
      ∧ Instr.wf (.biasSample 0 ⟨1, List.replicate 9 0⟩) = false ∧ Instr.wf (.mkaKeyDistribute 0 (2 ^ 64) 0) = false
      ∧ Instr.wf (.prachCorrelation 0 64 0 0) = false
      ∧ Instr.wf (.flitReceive 0 (zeros 255) 0) = false ∧ Instr.wf (.jrCutoff 0 160) = false
      ∧ Instr.wf (.dmaDescriptor 8 (zeros 63) [] .all) = false ∧ Instr.wf (.getCertificate 8 0 0) = false
      ∧ Instr.wf (.challenge 0 []) = false ∧ Instr.wf (.getMeasurements 256 (zeros 32)) = false
      ∧ Instr.wf (.keyExchange 0 []) = false ∧ Instr.wf (.perstDeassert [] none) = false
      ∧ Instr.wf (.imonSample 100001) = false ∧ Instr.wf (.jrAreaDeadline 0 160) = false := by decide +kernel

/-- A command of each table family that is well formed. -/
theorem test_well_formed_commands :
    Instr.wf (.nop (cmd [])) = true ∧ Instr.wf (.slotStoreForward 0 0x00010005 13 ⟨31, none⟩) = true
      ∧ Instr.wf (.perstDeassert [some 8, some 8, some 8, some 8] none) = true ∧ Instr.wf (.write (smsg 1) 0) = true := by
  decide +kernel

/-! ### The word interface -/

/-- No row of the table has bits of its own: no word spells a command, and nothing is put in front. -/
theorem test_no_word_spells_a_command : decodeTableWord 64 0 = none ∧ w0.withFetchWord 64 5 = w0 := by
  exact ⟨rfl, rfl⟩

/-! ### The manual's worked examples -/

/-- Narrowing of ACC48 values with k = 10 (worked example after R46). -/
theorem test_drain_rounds_to_even :
    narrowInt (-2560) 10 16 = (-2, false) ∧ narrowInt (-3584) 10 16 = (-4, false) ∧ narrowInt 1537 10 16 = (2, false)
      ∧ narrowInt 40000008 10 16 = (32767, true) := by decide +kernel

/-- Two ties of FP32 to BF16, and an overflow of FP32 to FP16 with and without saturation (the same example). -/
theorem test_float_narrowing :
    (cvtReal 8 7 0 false 0x3F808000).map (·.1) = some 0x3F80 ∧ (cvtReal 8 7 0 false 0x3F818000).map (·.1) = some 0x3F82
      ∧ (cvtReal 8 6 0 false 0x4788B800).map (·.1) = some 0x7C00
      ∧ (cvtReal 8 6 0 true 0x4788B800).map (·.1) = some 0x7BFF := by decide +kernel

/-- BFP with w = 9: exponent 5 and the four mantissas of the example. -/
theorem test_bfp_compress :
    bfpExpand 9 (bfpCompress 9 ([5000, -1234, 80, 112] ++ List.replicate 20 0)).1
      = ([4992, -1248, 64, 128] ++ List.replicate 20 0, false)
      ∧ (bfpCompress 9 ([5000, -1234, 80, 112] ++ List.replicate 20 0)).1.head? = some 5 := by decide +kernel

/-- A channel of LS8, and a constant one. -/
theorem test_link_channel :
    chanEncode 13 ([0x40FE0000, 0xC0020000, 0x3DCCCCCD, 0x40A00000].map f32)
      = { scale := 0x3D800000, codes := [0x7F, 0xE0, 0x02, 0x50] }
      ∧ chanEncode 13 (List.replicate 4 (f32 0x40A00000)) = { const := true, scale := 0x40A00000 } := by decide +kernel

/-- UZPEVEN and a butterfly over lanes a0, b0, a1, b1 …, with 100 + i for a_i and 200 + i for b_i. -/
theorem test_shuffles :
    let va := (List.range 32).flatMap fun i => [100 + i, 200 + i]
    let vb := (List.range 32).flatMap fun i => [132 + i, 232 + i]
    (List.range 64).map (shufLane 5 0 va vb) = (List.range 64).map (100 + ·)
      ∧ (List.range 64).map (shufLane 6 0 va vb) = (List.range 64).map (200 + ·)
      ∧ shufLane 7 1 va vb 0 = 200 ∧ permLane va vb 65 = 232 ∧ permLane va vb 0x80 = 0 ∧ permLane va vb 3 = 201 := by
  decide +kernel

/-- PACKC to CI16 with k = 2. -/
theorem test_packc :
    (lanePack { opc := 0x92, rf := 2, sat := false, k := 2, a := 0, b := 0, c := 0, imm := 0, sub := 0 } 1026
      (lowBits 32 (-7))).1 = 0xFFFE0100 := by decide +kernel

/-- The bundle of the correlation loop: CMACC d0, d64, d96 with k = 12, and loads to d68 and d100. -/
theorem test_bundle_fields :
    bundleOf 0x082008180C000000 0xC401E41100005000
      = { cls := 2, op := 2, sat := false, dst := 0, a := 64, b := 96, k := 12, imm := 0
          xb := { en := true, d := 68, a := 0, mod := 1, size := 1 }
          yb := { en := true, d := 100, a := 1, mod := 1, size := 1 }
          zb := { en := false, d := 0, a := 0, mod := 0, size := 0 } } := by decide +kernel

/-- Segmentation and buffer of the example after R209. -/
theorem test_segmentation :
    let g := segment 84216 1 none
    [g.c, g.kp, g.zc, g.k, g.ncb, g.llrPart, g.bitPart, g.bufBytes]
      = [10, 8448, 384, 8448, 25344, 25344, 1088, 264448] := by decide +kernel

/-- E_r and the starts of RV 0, 1 and 2 of the same example. -/
theorem test_rate_matching :
    let g := segment 84216 1 none
    [rateE 126720 2 8 10 0, rateE 126720 2 8 10 9, rvStart g 0, rvStart g 1, rvStart g 2] = [12672, 12672, 0, 6528, 10368] := by
  decide +kernel

/-- The reference and the grant of the remote wait. -/
theorem test_reference_and_grant :
    ObjRef.of 0x8640412300004210 = { far := true, chip := 6, cluster := 1, tag := 0x4123, index := 0x4210 }
      ∧ farRef 6 1 0x4123 0x4210 = 0x8640412300004210
      ∧ ({ st := .ok } : TakeOut).grant 17 = 0x00001101 := by decide +kernel

/-- Sums in pressed order and in an order of arrival (chapter 12). -/
theorem test_sum_order :
    add32 (add32 0x4B800000 0xCB800000) 0x3F800000 = 0x3F800000
      ∧ add32 (add32 0x4B800000 0x3F800000) 0xCB800000 = 0 := by decide +kernel

/-- A multicast stream of 1,024 channels of 64 FP32 elements takes 73,728 bytes as LS8: 72 bytes a channel. -/
theorem test_channel_bytes :
    (chanBytes 13 64 (chanEncode 13 ((List.range 64).map fun (i : Nat) => fofInt i))).length = 72 := by decide +kernel

/-- The cell of the SLOT_CONFIG example: cell 5 of cluster K1, with values out of range. -/
def cellRecord (cell scs width lo hi share : Nat) : Bytes :=
  [(0, 2, cell), (4, 1, 1), (6, 1, 1), (0xA, 1, scs), (0xB, 1, 1), (0xC, 2, 51), (0xE, 1, 4), (0xF, 1, 1), (0x1D, 1, 1),
    (0x21, 1, 2), (0x24, 2, 16), (0x28, 2, 10), (0x2A, 2, share), (0x2F, 1, 1), (0x31, 1, width), (0x32, 1, 1), (0x3C, 4, lo),
    (0x40, 4, hi), (0x5C, 2, 1), (0x5E, 2, 20), (0x60, 8, 2 ^ 64 - 1), (0x68, 2, 1)].foldl
    (fun b (f : Nat × Nat × Nat) => setFld b f.1 f.2.1 f.2.2) (zeros 256)

/-- The four corrections of that example, by FIELD, KIND, WRITTEN and APPLIED. -/
theorem test_slot_config_corrections :
    let others := (List.range 3).map fun i => (i, cellRecord i 1 16 0 0 256)
    ((takeCell { w0 with cfg := { poolCells := others } } { img := others, rep := [], applied := 0, asked := [] } 0
      (cellRecord 5 3 17 200000 150000 512)).rep.map fun r => (r.field, r.kind, r.written, r.applied))
      = [(8, 1, 3, 1), (33, 0, 17, 16), (39, 3, 150000, 200000), (27, 3, 512, 256)] := by decide +kernel

/-- The counters of E9 after 2,463 array cycles at step 1, as BAR0 reads them (example after R431). -/
theorem test_engine_counters :
    let q := { qlive with cluster := 2 }
    let s := chargeLeaf { wq q with power := { step := 1 } } q 4 2463
    (regWord s 0x10938, regWord s 0x1093C) = (0x03350000, 0) ∧ (regWord s 0x10940 = 0x0CD40000) := by decide +kernel

/-! ### Every statement with hypotheses: they can be met -/

theorem test_met_Idle_step_is_one_tick :
    (∃ (s : State),
      (s.pending = [])
      ∧ (s.boot.pwrGood = true)) :=
  ⟨w0, by decide +kernel, by decide +kernel⟩

theorem test_met_Every_step_keeps_the_invariant :
    (∃ (s : State) (t : State),
      (Inv s)
      ∧ (step s = .next t)) :=
  ⟨State.reset, _, reset_inv, rfl⟩

theorem test_met_No_command_clears_a_fuse_bit :
    (∃ (c : Instr) (s : State) (t : State),
      (exec c s = .next t)) :=
  ⟨.firmwareInit 0, w0, _, rfl⟩

theorem test_met_Security_lock_stays_until_a_cold_reset :
    (∃ (c : Instr) (s : State) (t : State),
      (isResetCmd c = false)
      ∧ (s.host.lock = true)
      ∧ (exec c s = .next t)) :=
  ⟨.firmwareInit 0, { w0 with host := { lock := true } }, _, by decide +kernel, rfl, rfl⟩

theorem test_met_Commands_leave_the_queue_alone :
    (∃ (c : Instr) (s : State) (t : State),
      (exec c s = .next t)) :=
  ⟨.firmwareInit 0, w0, _, rfl⟩

theorem test_met_Memory_reads_what_was_written :
    (∃ m : Mem, m.wf = true ∧ m ≠ []) :=
  ⟨[(5, 1)], by decide, by decide⟩

theorem test_met_Device_reads_answer :
    (∃ (c : Cmd) (s : State),
      (Served 0x01 true c s)
      ∧ (exactLen 0 c.params.length = true))
    ∧ (∃ (c : Cmd) (s : State),
      (Served 0x02 true c s)
      ∧ (exactLen 0 c.params.length = true))
    ∧ (∃ (c : Cmd) (s : State),
      (Served 0x50 false c s)
      ∧ (exactLen 0 c.params.length = true))
    ∧ (∃ (c : Cmd) (s : State),
      (Served 0x03 true c s)
      ∧ (exactLen 0 c.params.length = true)
      ∧ (s.sec.flash.certs.flatten.length ≤ c.obLen.toNat))
    ∧ (∃ (c : Cmd) (s : State),
      (Served 0x3B false c s)
      ∧ (exactLen 32 c.params.length = true)
      ∧ (slice c.params 0 32 = zeros 32)
      ∧ (outFits c s.colo.setups.flatten))
    ∧ (∃ (c : Cmd) (s : State) (b : Bytes),
      (Served 0x3B false c s)
      ∧ (exactLen 32 c.params.length = true)
      ∧ (slice c.params 0 32 ≠ zeros 32)
      ∧ (s.colo.setups.find? (fun x => digest256 x == slice c.params 0 32) = some b)
      ∧ (outFits c b))
    ∧ (∃ (c : Cmd) (s : State),
      (Served 0x3B false c s)
      ∧ (exactLen 32 c.params.length = true)
      ∧ (slice c.params 0 32 ≠ zeros 32)
      ∧ ((∀ b ∈ s.colo.setups, digest256 b ≠ slice c.params 0 32))) :=
  ⟨⟨cmd [], w0, srv rfl rfl rfl rfl, by decide +kernel⟩,
    ⟨cmd [], w0, srv rfl rfl rfl rfl, by decide +kernel⟩,
    ⟨cmd [], w0, srv rfl rfl rfl rfl, by decide +kernel⟩,
    ⟨cmd [], { w0 with sec := { flash := { certs := [[1, 2]] } } }, srv rfl rfl rfl rfl, by decide +kernel,
      by decide +kernel⟩,
    ⟨cmd (zeros 32), { w0 with colo := { setups := [[1, 2]] } }, srv rfl rfl rfl rfl, by decide +kernel, by decide +kernel,
      fits (by decide +kernel)⟩,
    ⟨cmd (digest256 [1]), { w0 with colo := { setups := [[1]] } }, [1], srv rfl rfl rfl rfl, by decide +kernel,
      by decide +kernel, by decide +kernel, fits (by decide +kernel)⟩,
    ⟨cmd (List.replicate 32 1), w0, srv rfl rfl rfl rfl, by decide +kernel, by decide +kernel, by decide +kernel⟩⟩

theorem test_met_Status_reads_answer :
    (∃ (c : Cmd) (s : State) (q : Quire),
      (Served 0x30 false c s)
      ∧ (exactLen 8 c.params.length = true)
      ∧ (tget? s.quires (par8 c.params 0 % 65536) = some q))
    ∧ (∃ (c : Cmd) (s : State),
      (Served 0x30 false c s)
      ∧ (exactLen 8 c.params.length = true)
      ∧ (tget? s.quires (par8 c.params 0 % 65536) = none))
    ∧ (∃ (c : Cmd) (s : State) (out : Bytes),
      (Served 0x32 false c s)
      ∧ (exactLen 8 c.params.length = true)
      ∧ ((((List.finRange 4).filter fun k => bit (par8 c.params 0) k.val).flatMap fun k => (List.range 145).flatMap fun n =>
        accountRecord s k n (tget (s.cl k).accounts n {})) = out)
      ∧ (out.length ≤ c.obLen.toNat))
    ∧ (∃ (c : Cmd) (s : State) (m : Model),
      (Served 0x26 false c s)
      ∧ (exactLen 8 c.params.length = true)
      ∧ ((s.modelSlotOf (par8 c.params 0)).bind s.model? = some m)
      ∧ (outFits c (m.versions.flatMap versionRecord)))
    ∧ (∃ (c : Cmd) (s : State),
      (Served 0x26 false c s)
      ∧ (exactLen 8 c.params.length = true)
      ∧ ((s.modelSlotOf (par8 c.params 0)).bind s.model? = none))
    ∧ (∃ (c : Cmd) (s : State) (cage : Fin 8),
      (Served 0x41 false c s)
      ∧ (exactLen 32 c.params.length = true)
      ∧ (par8 c.params 0 = cage.val)
      ∧ ((s.fe.cages[cage]).present = true)
      ∧ (par8 c.params 1 ∈ [0, 1, 2, 0x11])
      ∧ (par8 c.params 2 + par8 c.params 3 ≤ 256))
    ∧ (∃ (c : Cmd) (s : State),
      (Served 0x40 false c s)
      ∧ (exactLen 24 c.params.length = true)
      ∧ (par8 c.params 0 ≤ 3)
      ∧ (par8 c.params 1 < scopeSize (par8 c.params 0)))
    ∧ (∃ (c : Cmd) (s : State),
      (Served 0x48 false c s)
      ∧ (exactLen 8 c.params.length = true))
    ∧ (∃ (c : Cmd) (s : State) (cells : List Nat),
      (Served 0x27 false c s)
      ∧ (exactLen 16 c.params.length = true)
      ∧ ((List.range 64).filter (bit (par8 c.params 0)) = cells)
      ∧ (cells.all (fun i => (s.cell? i).isSome) = true)
      ∧ (outFits c (cells.flatMap fun i => yardBytes (match s.cell? i with
          | some x => x.yardMode
          | none => 0) (Config.fresh s.fresh) (tget s.yard i {}))))
    ∧ (∃ (c : Cmd) (s : State),
      (Served 0x27 false c s)
      ∧ (exactLen 16 c.params.length = true)
      ∧ (((List.range 64).filter (bit (par8 c.params 0))).all (fun i => (s.cell? i).isSome) = false)) :=
  ⟨⟨cmd (par [5]), wq (quire .adaptation .ready), _, srv rfl rfl rfl rfl, by decide +kernel, rfl⟩,
    ⟨cmd (par [6]), wq (quire .adaptation .ready), srv rfl rfl rfl rfl, by decide +kernel, by decide +kernel⟩,
    ⟨cmd (par [1]), w0, _, srv rfl rfl rfl rfl, by decide +kernel, rfl, by decide +kernel⟩,
    ⟨cmd (par [9]), wm model0, model0, srv rfl rfl rfl rfl, by decide +kernel, by decide +kernel, fits (by decide +kernel)⟩,
    ⟨cmd (par [9]), w0, srv rfl rfl rfl rfl, by decide +kernel, by decide +kernel⟩,
    ⟨cmd (par [0, 0, 0, 128]), wc { present := true, ready := true }, 0, srv rfl rfl rfl rfl, by decide +kernel,
      by decide +kernel, by decide +kernel, by decide +kernel, by decide +kernel⟩,
    ⟨cmd (par [0, 0, 1]), w0, srv rfl rfl rfl rfl, by decide +kernel, by decide +kernel, by decide +kernel⟩,
    ⟨cmd (par [1]), w0, srv rfl rfl rfl rfl, by decide +kernel⟩,
    ⟨cmd (par [1, 1]), wcell cell0, [0], srv rfl rfl rfl rfl, by decide +kernel, by decide +kernel, by decide +kernel,
      fits (by decide +kernel)⟩,
    ⟨cmd (par [1, 1]), w0, srv rfl rfl rfl rfl, by decide +kernel, by decide +kernel⟩⟩

theorem test_met_Mailbox_configuration_takes_effect :
    (∃ (c : Cmd) (s : State) (p : Bytes) (rep : List Rep),
      (Served 0x10 false c s)
      ∧ (exactLen 128 c.params.length = true)
      ∧ (cplAt c.params 0 64 = true)
      ∧ (checkFields 0 mbxFields (slice c.params 0 64) = (p, rep)))
    ∧ (∃ (c : Cmd) (s : State),
      (Served 0x10 false c s)
      ∧ (exactLen 128 c.params.length = true)
      ∧ (cplAt c.params 0 64 = false)) :=
  ⟨⟨cmd (both (zeros 64)), w0, _, _, srv rfl rfl rfl rfl, by decide +kernel, by decide +kernel, pairEta _⟩,
    ⟨cmd (zeros 128), w0, srv rfl rfl rfl rfl, by decide +kernel, by decide +kernel⟩⟩

theorem test_met_Doorbells_move_the_counts :
    (∃ (ring : BitVec 4) (index : BitVec 32) (s : State),
      (BarOk s)
      ∧ (ring.toNat ≤ 1)
      ∧ ((s.mbx.ring ring.toNat).base ≠ 0)
      ∧ ((index - (s.mbx.ring ring.toNat).cons).toNat ≤ (s.mbx.ring ring.toNat).size))
    ∧ (∃ (ring : BitVec 4) (index : BitVec 32) (s : State),
      (BarOk s)
      ∧ (ring.toNat ≤ 1)
      ∧ ((s.mbx.ring ring.toNat).base ≠ 0)
      ∧ ((s.mbx.ring ring.toNat).size < (index - (s.mbx.ring ring.toNat).cons).toNat))
    ∧ (∃ (ring : BitVec 4) (index : BitVec 32) (s : State),
      (BarOk s)
      ∧ (2 ≤ ring.toNat)
      ∧ (ring.toNat ≤ 4)
      ∧ ((s.mbx.ring ring.toNat).base ≠ 0)
      ∧ ((index - (s.mbx.ring ring.toNat).cons).toNat ≤ ((s.mbx.ring ring.toNat).prod - (s.mbx.ring ring.toNat).cons).toNat))
    ∧ (∃ (ring : BitVec 4) (index : BitVec 32) (s : State),
      (BarOk s)
      ∧ (2 ≤ ring.toNat)
      ∧ (ring.toNat ≤ 4)
      ∧ ((s.mbx.ring ring.toNat).base ≠ 0)
      ∧ (((s.mbx.ring ring.toNat).prod - (s.mbx.ring ring.toNat).cons).toNat < (index - (s.mbx.ring ring.toNat).cons).toNat))
    ∧ (∃ (ring : BitVec 4) (s : State),
      (BarOk s)
      ∧ (ring.toNat ≤ 4)
      ∧ ((s.mbx.ring ring.toNat).base = 0)
      ∧ (s.mbx.baseReg ring.toNat = 0))
    ∧ (∃ (ring : BitVec 4) (s : State),
      (BarOk s)
      ∧ (4 < ring.toNat))
    ∧ (∃ (ring : BitVec 4) (s : State),
      (BarOk s)
      ∧ (ring.toNat ≤ 4)) :=
  ⟨⟨1, 65536, wring { base := 16, size := 65536 }, barOk rfl rfl rfl, by decide +kernel, by decide +kernel,
    by decide +kernel⟩,
    ⟨1, 65537, wring { base := 16, size := 65536 }, barOk rfl rfl rfl, by decide +kernel, by decide +kernel,
      by decide +kernel⟩,
    ⟨2, 5, wring { base := 16, size := 65536, prod := 5 }, barOk rfl rfl rfl, by decide +kernel, by decide +kernel,
      by decide +kernel, by decide +kernel⟩,
    ⟨2, 6, wring { base := 16, size := 65536, prod := 5 }, barOk rfl rfl rfl, by decide +kernel, by decide +kernel,
      by decide +kernel, by decide +kernel⟩,
    ⟨4, { w0 with mbx := {} }, barOk rfl rfl rfl, by decide +kernel, by decide +kernel, by decide +kernel⟩,
    ⟨5, w0, barOk rfl rfl rfl, by decide +kernel⟩,
    ⟨4, w0, barOk rfl rfl rfl, by decide +kernel⟩⟩

theorem test_met_First_doorbell_latches_a_general_ring :
    (∃ (ring : BitVec 4) (s : State),
      (BarOk s)
      ∧ (isGeneral ring.toNat = true)
      ∧ ((s.mbx.ring ring.toNat).base = 0)
      ∧ (s.mbx.baseReg ring.toNat ≠ 0)) :=
  ⟨3, { w0 with mbx := { evtBase := 4096 } }, barOk rfl rfl rfl, by decide +kernel, by decide +kernel, by decide +kernel⟩

theorem test_met_Records_without_a_command_are_skipped_or_halt :
    (∃ (len : BitVec 16) (s : State),
      (s.canRead s.mbx.cmdq len.toNat = true))
    ∧ (∃ (len : BitVec 16) (s : State),
      (s.canRead s.mbx.spq len.toNat = true))
    ∧ (∃ (len : BitVec 16) (s : State),
      (s.canRead s.mbx.cmdq 1 = true)
      ∧ (s.canRead s.mbx.cmdq len.toNat = true))
    ∧ (∃ (len : BitVec 16) (s : State),
      (s.canRead s.mbx.spq 1 = true)
      ∧ (s.canRead s.mbx.spq len.toNat = true))
    ∧ (∃ (s : State),
      (s.canRead s.mbx.cmdq 1 = true))
    ∧ (∃ (s : State),
      (s.canRead s.mbx.spq 1 = true))
    ∧ (∃ (s : State) (t : State),
      (s.mbx.evtOwed ≠ 0)
      ∧ (s.tryEvent 0x15 0 (toLE 8 s.mbx.evtOwed) = some t)) :=
  ⟨⟨1, w0, by decide +kernel⟩,
    ⟨1, w0, by decide +kernel⟩,
    ⟨1, w0, by decide +kernel, by decide +kernel⟩,
    ⟨1, w0, by decide +kernel, by decide +kernel⟩,
    ⟨w0, by decide +kernel⟩,
    ⟨w0, by decide +kernel⟩,
    ⟨{ w0 with mbx := { mbx0 with evtOwed := 3 } }, _, by decide +kernel, rfl⟩⟩

theorem test_met_Host_requests_to_registers :
    (∃ (off : BitVec 21) (s : State),
      (BarOk s)
      ∧ (off.toNat % 4 = 0)
      ∧ (inGroup off.toNat = true))
    ∧ (∃ (off : BitVec 21) (s : State),
      (BarOk s)
      ∧ (off.toNat % 8 = 0)
      ∧ (inGroup off.toNat = true)
      ∧ (off.toNat ≠ 0x2028))
    ∧ (∃ (s : State),
      (BarOk s))
    ∧ (∃ (off : BitVec 21) (w : Bool) (s : State),
      (BarOk s)
      ∧ (off.toNat % (if w then 8 else 4) = 0)
      ∧ (inGroup off.toNat = false))
    ∧ (∃ (s : State),
      (BarOk s))
    ∧ (∃ (s : State),
      (BarOk s))
    ∧ (∃ (s : State),
      (BarOk s))
    ∧ (∃ (s : State),
      (BarOk s))
    ∧ (∃ (s : State) (t : State),
      (s.barServed = false ∧ t = s.emit (.unsupported false) ∨ s.barServed = true ∧ s.host.ideRequired = true
        ∧ s.host.secure0 = false ∧ s.host.secure1 = false ∧ t = (s.emit (.unsupported false)).hlError 7)) :=
  ⟨⟨4, w0, barOk rfl rfl rfl, by decide +kernel, by decide +kernel⟩,
    ⟨0x7FF8, w0, barOk rfl rfl rfl, by decide +kernel, by decide +kernel, by decide +kernel⟩,
    ⟨w0, barOk rfl rfl rfl⟩,
    ⟨0x8000, true, w0, barOk rfl rfl rfl, by decide +kernel, by decide +kernel⟩,
    ⟨w0, barOk rfl rfl rfl⟩,
    ⟨w0, barOk rfl rfl rfl⟩,
    ⟨w0, barOk rfl rfl rfl⟩,
    ⟨w0, barOk rfl rfl rfl⟩,
    ⟨{ w0 with host := { ideRequired := true, l0 := true } }, _, Or.inr ⟨rfl, rfl, rfl, rfl, rfl⟩⟩⟩

theorem test_met_Write_one_to_clear_registers :
    (∃ (v : BitVec 32),
      (16 ≤ v.toNat % 32)
      ∧ (v.toNat % 32 ≤ 24)) :=
  ⟨24, by decide +kernel, by decide +kernel⟩

theorem test_met_Dma_channels_and_windows_are_configured :
    (∃ (c : Cmd) (s : State) (ch : Fin 16) (r : Bytes) (rep : List Rep),
      (Served 0x17 false c s)
      ∧ (exactLen 176 c.params.length = true)
      ∧ (cplAt c.params 0 88 = true)
      ∧ (par8 c.params 0 = ch.val)
      ∧ (8 ≤ ch.val)
      ∧ ((s.chan ch).run = none)
      ∧ (checkFields 0 (dmaFields ch.val) (slice c.params 0 88) = (r, rep)))
    ∧ (∃ (c : Cmd) (s : State) (ch : Fin 16),
      (Served 0x17 false c s)
      ∧ (exactLen 176 c.params.length = true)
      ∧ (cplAt c.params 0 88 = true)
      ∧ (par8 c.params 0 = ch.val)
      ∧ (8 ≤ ch.val)
      ∧ ((s.chan ch).run ≠ none))
    ∧ (∃ (c : Cmd) (s : State),
      (Served 0x17 false c s)
      ∧ (exactLen 176 c.params.length = true)
      ∧ (cplAt c.params 0 88 = true)
      ∧ (¬ (8 ≤ par8 c.params 0 ∧ par8 c.params 0 < 16)))
    ∧ (∃ (c : Cmd) (s : State) (m : WinMem) (n : Fin 64) (len : Nat) (r : Bytes) (rep : List Rep),
      (Served 0x18 false c s)
      ∧ (exactLen 64 c.params.length = true)
      ∧ (cplAt c.params 0 32 = true)
      ∧ (winMem (if par8 c.params 0 ≤ 6 then par8 c.params 0 else 0) = m)
      ∧ (s.winSize m ≠ 0)
      ∧ (checkFields 0 (winFields (s.winSize m)) (slice c.params 0 32) = (r, rep))
      ∧ (clampNat 1 (s.winSize m - par8 r 1) (par8 r 2) = len)
      ∧ (s.windowFree m ⟨par8 r 1, len⟩ = true)
      ∧ ((List.finRange 64).find? (fun k : Fin 64 => (s.windows[k]).isNone) = some n))
    ∧ (∃ (c : Cmd) (s : State) (m : WinMem) (r : Bytes) (rep : List Rep),
      (Served 0x18 false c s)
      ∧ (exactLen 64 c.params.length = true)
      ∧ (cplAt c.params 0 32 = true)
      ∧ (winMem (if par8 c.params 0 ≤ 6 then par8 c.params 0 else 0) = m)
      ∧ (s.winSize m ≠ 0)
      ∧ (checkFields 0 (winFields (s.winSize m)) (slice c.params 0 32) = (r, rep))
      ∧ (s.windowFree m ⟨par8 r 1, clampNat 1 (s.winSize m - par8 r 1) (par8 r 2)⟩ = false))
    ∧ (∃ (c : Cmd) (s : State) (n : Fin 64) (w : DevWindow),
      (Served 0x19 false c s)
      ∧ (exactLen 8 c.params.length = true)
      ∧ (par8 c.params 0 = n.val)
      ∧ (s.windows[n] = some w)
      ∧ (w.host = true)
      ∧ (w.removing = false))
    ∧ (∃ (c : Cmd) (s : State) (n : Fin 64),
      (Served 0x19 false c s)
      ∧ (exactLen 8 c.params.length = true)
      ∧ (par8 c.params 0 = n.val)
      ∧ (s.windows[n] = none))
    ∧ (∃ (c : Cmd) (s : State),
      (Served 0x19 false c s)
      ∧ (exactLen 8 c.params.length = true)
      ∧ (64 ≤ par8 c.params 0))
    ∧ (∃ (c : Cmd) (s : State),
      (Served 0x17 false c s)
      ∧ (exactLen 176 c.params.length = true)
      ∧ (cplAt c.params 0 88 = false))
    ∧ (∃ (c : Cmd) (s : State),
      (Served 0x18 false c s)
      ∧ (exactLen 64 c.params.length = true)
      ∧ (cplAt c.params 0 32 = false)) :=
  ⟨⟨cmd (rec2 [8, 0, 0, 0, 0, 0, 0, 0, 0, 0, 0]), w0, 8, _, _, srv rfl rfl rfl rfl, by decide +kernel, by decide +kernel,
    by decide +kernel, by decide +kernel, by decide +kernel, pairEta _⟩,
    ⟨cmd (rec2 [8, 0, 0, 0, 0, 0, 0, 0, 0, 0, 0]), wd { run := some { desc := [] } }, 8, srv rfl rfl rfl rfl,
      by decide +kernel, by decide +kernel, by decide +kernel, by decide +kernel, by decide +kernel⟩,
    ⟨cmd (rec2 [7, 0, 0, 0, 0, 0, 0, 0, 0, 0, 0]), w0, srv rfl rfl rfl rfl, by decide +kernel, by decide +kernel,
      by decide +kernel⟩,
    ⟨cmd (rec2 [1, 0, 64, 3]), w0, .quireData 0, 0, _, _, _, srv rfl rfl rfl rfl, by decide +kernel, by decide +kernel,
      by decide +kernel, by decide +kernel, pairEta _, rfl, rfl, by decide +kernel⟩,
    ⟨cmd (rec2 [6, 0, 64, 3]), w0, .binder, _, _, srv rfl rfl rfl rfl, by decide +kernel, by decide +kernel,
      by decide +kernel, by decide +kernel, pairEta _, rfl⟩,
    ⟨cmd (par [0]), wd {}, 0, _, srv rfl rfl rfl rfl, by decide +kernel, by decide +kernel, rfl, rfl, rfl⟩,
    ⟨cmd (par [63]), w0, 63, srv rfl rfl rfl rfl, by decide +kernel, by decide +kernel, by decide +kernel⟩,
    ⟨cmd (par [64]), w0, srv rfl rfl rfl rfl, by decide +kernel, by decide +kernel⟩,
    ⟨cmd (zeros 176), w0, srv rfl rfl rfl rfl, by decide +kernel, by decide +kernel⟩,
    ⟨cmd (zeros 64), w0, srv rfl rfl rfl rfl, by decide +kernel, by decide +kernel⟩⟩

theorem test_met_Dma_doorbells :
    (∃ (n : Fin 8) (count : BitVec 16) (s : State),
      (BarOk s)
      ∧ ((s.chan (dbChan n)).configured = true)
      ∧ ((count - (s.chan (dbChan n)).completed).toNat ≤ (s.chan (dbChan n)).size))
    ∧ (∃ (n : Fin 8) (count : BitVec 16) (s : State),
      (BarOk s)
      ∧ (((s.chan (dbChan n)).configured = false ∨ (s.chan (dbChan n)).size < (count - (s.chan (dbChan
        n)).completed).toNat)))
    ∧ (∃ (n : Fin 8) (s : State),
      (BarOk s)
      ∧ ((s.chan (dbChan n)).configured = true)
      ∧ ((s.chan (dbChan n)).run = none))
    ∧ (∃ (n : Fin 8) (r : DmaRun) (s : State),
      (BarOk s)
      ∧ ((s.chan (dbChan n)).configured = true)
      ∧ ((s.chan (dbChan n)).run = some r))
    ∧ (∃ (n : Fin 8) (s : State),
      (BarOk s)
      ∧ ((s.chan (dbChan n)).configured = false)) :=
  ⟨⟨0, 16, wd { configured := true, size := 16 }, barOk rfl rfl rfl, by decide +kernel, by decide +kernel⟩,
    ⟨0, 17, wd { configured := true, size := 16 }, barOk rfl rfl rfl, by decide +kernel⟩,
    ⟨0, wd { configured := true }, barOk rfl rfl rfl, by decide +kernel, by decide +kernel⟩,
    ⟨0, _, wd { configured := true, run := some { desc := desc0 } }, barOk rfl rfl rfl, by decide +kernel, rfl⟩,
    ⟨7, w0, barOk rfl rfl rfl, by decide +kernel⟩⟩

theorem test_met_Dma_descriptors_run_to_completion :
    (∃ (ch : Fin 16) (desc : Bytes) (w : DevWindow) (s : State),
      (s.chanReady ch = true)
      ∧ ((s.chan ch).cancelTo = none)
      ∧ ((DDesc.of desc).check s ch = none)
      ∧ ((DDesc.of desc).win? s ch = some w))
    ∧ (∃ (ch : Fin 16) (desc : Bytes) (code : Nat) (s : State),
      (s.chanReady ch = true)
      ∧ ((s.chan ch).cancelTo = none)
      ∧ ((DDesc.of desc).check s ch = some code))
    ∧ (∃ (ch : Fin 16) (s : State),
      (s.chanReady ch = true)
      ∧ ((s.chan ch).cancelTo ≠ none))
    ∧ (∃ (ch : Fin 16) (r : DmaRun) (s : State),
      ((s.chan ch).run = some r)
      ∧ (r.readBack = true)
      ∧ (s.linkOk = true))
    ∧ (∃ (ch : Fin 16),
      (8 ≤ ch.val))
    ∧ (∃ (ch : Fin 16),
      (ch.val < 8)) :=
  ⟨⟨8, desc0, { mem := .binder, base := 0, len := 64, rd := true, wr := true, host := true },
    wd { configured := true, size := 16, prod := 1 }, by decide +kernel, by decide +kernel, by decide +kernel,
      by decide +kernel⟩,
    ⟨8, [], 0x91, wd { configured := true, size := 16, prod := 1 }, by decide +kernel, by decide +kernel, by decide +kernel⟩,
    ⟨8, wd { configured := true, size := 16, prod := 1, cancelTo := some 1 }, by decide +kernel, by decide +kernel⟩,
    ⟨8, _, wd { run := some { desc := desc0, readBack := true } }, rfl, rfl, by decide +kernel⟩,
    ⟨8, by decide +kernel⟩,
    ⟨7, by decide +kernel⟩⟩

theorem test_met_Dma_translation_and_errors :
    (∃ (ch : Fin 16) (r : DmaRun) (lacks : List Nat) (s : State),
      ((s.chan ch).run = some r)
      ∧ (r.missed = true)
      ∧ (s.linkOk = true)
      ∧ ((DDesc.of r.desc).lacking r.hostLine lacks = []))
    ∧ (∃ (ch : Fin 16) (r : DmaRun) (lacks : List Nat) (pages : List Nat) (s : State),
      ((s.chan ch).run = some r)
      ∧ (r.missed = true)
      ∧ (s.linkOk = true)
      ∧ ((s.chan ch).priEn = true)
      ∧ (pages = ((DDesc.of r.desc).lacking r.hostLine lacks).take (256 - s.pagesOut))
      ∧ ((DDesc.of r.desc).lacking r.hostLine lacks ≠ []))
    ∧ (∃ (ch : Fin 16) (r : DmaRun) (lacks : List Nat) (s : State),
      ((s.chan ch).run = some r)
      ∧ (r.missed = true)
      ∧ (s.linkOk = true)
      ∧ ((s.chan ch).priEn = false)
      ∧ ((DDesc.of r.desc).lacking r.hostLine lacks ≠ []))
    ∧ (∃ (ch : Fin 16) (r : DmaRun) (pages : List Nat) (s : State),
      ((s.chan ch).run = some r)
      ∧ (r.parked = some pages)
      ∧ (s.linkOk = true))
    ∧ (∃ (ch : Fin 16) (r : DmaRun) (pages : List Nat) (s : State),
      ((s.chan ch).run = some r)
      ∧ (r.parked = some pages))
    ∧ (∃ (ch : Fin 16) (r : DmaRun) (s : State),
      ((s.chan ch).run = some r)
      ∧ (r.parked = none)) :=
  ⟨⟨8, _, [], wd { run := some { desc := desc0, missed := true } }, rfl, rfl, by decide +kernel, rfl⟩,
    ⟨8, _, [0], _, wd { priEn := true, run := some { desc := desc0, missed := true } }, rfl, rfl, rfl, rfl, rfl,
      by decide +kernel⟩,
    ⟨8, _, [0], wd { run := some { desc := desc0, missed := true } }, rfl, rfl, by decide +kernel, by decide +kernel,
      by decide +kernel⟩,
    ⟨8, { desc := desc0, parked := some [4096] }, [4096], wd { run := some { desc := desc0, parked := some [4096] } },
      by decide +kernel, by decide +kernel, by decide +kernel⟩,
    ⟨8, { desc := desc0, parked := some [4096] }, [4096], wd { run := some { desc := desc0, parked := some [4096] } },
      by decide +kernel, by decide +kernel⟩,
    ⟨8, _, wd { run := some { desc := desc0 } }, rfl, rfl⟩⟩

theorem test_met_Configuration_records_take_effect :
    (∃ (c : Cmd) (s : State) (r : Bytes) (rep : List Rep),
      (Served 0x11 false c s)
      ∧ (exactLen 256 c.params.length = true)
      ∧ (cplAt c.params 0 128 = true)
      ∧ (checkFields 0 (schedFields s.ddrBytes) (slice c.params 0 128) = (r, rep))
      ∧ ((schedRuns r).all s.isProtected = true))
    ∧ (∃ (c : Cmd) (s : State) (r : Bytes) (rep : List Rep),
      (Served 0x11 false c s)
      ∧ (exactLen 256 c.params.length = true)
      ∧ (cplAt c.params 0 128 = true)
      ∧ (checkFields 0 (schedFields s.ddrBytes) (slice c.params 0 128) = (r, rep))
      ∧ ((schedRuns r).all s.isProtected = false))
    ∧ (∃ (c : Cmd) (s : State) (r : Bytes) (r1 : Bytes) (rep1 : List Rep) (rep2 : List Rep),
      (Served 0x16 false c s)
      ∧ (exactLen 64 c.params.length = true)
      ∧ (cplAt c.params 0 32 = true)
      ∧ (checkFields 0 (harqFields s.ddrBytes) (slice c.params 0 32) = (r1, rep1))
      ∧ (crossSet 0 3 16 8 (min (par8 r1 2) (max 1 ((s.ddrBytes - par8 r1 0) / par8 r1 1))) r1 = (r, rep2))
      ∧ ((HarqCfg.runs ⟨par8 r 0, par8 r 1, par8 r 2, par8 r 3⟩).all s.isProtected = true))
    ∧ (∃ (c : Cmd) (s : State) (r : Bytes) (r1 : Bytes) (rep1 : List Rep) (rep2 : List Rep),
      (Served 0x15 false c s)
      ∧ (exactLen 128 c.params.length = true)
      ∧ (cplAt c.params 0 64 = true)
      ∧ (poolChecked (slice c.params 0 64) = (r1, rep1))
      ∧ (poolCross r1 = (r, rep2)))
    ∧ (∃ (c : Cmd) (s : State) (r : Bytes) (rep : List Rep),
      (Served 0x38 false c s)
      ∧ (exactLen 32 c.params.length = true)
      ∧ (cplAt c.params 0 16 = true)
      ∧ (s.colo.stored = [])
      ∧ (checkFields 0 (storeFields s.ddrBytes) (slice c.params 0 16) = (r, rep))
      ∧ (s.isProtected ⟨par8 r 0, par8 r 1 * 36864⟩ = true))
    ∧ (∃ (c : Cmd) (s : State),
      (Served 0x38 false c s)
      ∧ (exactLen 32 c.params.length = true)
      ∧ (cplAt c.params 0 16 = true)
      ∧ (s.colo.stored ≠ []))
    ∧ (∃ (c : Cmd) (s : State),
      (Served 0x11 false c s)
      ∧ (exactLen 256 c.params.length = true)
      ∧ (cplAt c.params 0 128 = false))
    ∧ (∃ (c : Cmd) (s : State),
      (Served 0x16 false c s)
      ∧ (exactLen 64 c.params.length = true)
      ∧ (cplAt c.params 0 32 = false)) :=
  ⟨⟨cmd (both (zeros 128)), w0, _, _, srv rfl rfl rfl rfl, by decide +kernel, by decide +kernel, pairEta _, rfl⟩,
    ⟨cmd (both (zeros 128)), wwin, _, _, srv rfl rfl rfl rfl, by decide +kernel, by decide +kernel, pairEta _, rfl⟩,
    ⟨cmd (both (zeros 32)), w0, _, _, _, _, srv rfl rfl rfl rfl, by decide +kernel, by decide +kernel, pairEta _, pairEta _,
      rfl⟩,
    ⟨cmd (both (zeros 64)), w0, _, _, _, _, srv rfl rfl rfl rfl, by decide +kernel, by decide +kernel, pairEta _, pairEta _⟩,
    ⟨cmd (both (zeros 16)), w0, _, _, srv rfl rfl rfl rfl, by decide +kernel, by decide +kernel, by decide +kernel,
      pairEta _, rfl⟩,
    ⟨cmd (both (zeros 16)), { w0 with colo := { stored := [(0, [])] } }, srv rfl rfl rfl rfl, by decide +kernel,
      by decide +kernel, by decide +kernel⟩,
    ⟨cmd (zeros 256), w0, srv rfl rfl rfl rfl, by decide +kernel, by decide +kernel⟩,
    ⟨cmd (zeros 64), w0, srv rfl rfl rfl rfl, by decide +kernel, by decide +kernel⟩⟩

theorem test_met_Cells_ports_and_links_are_configured :
    (∃ (c : Cmd) (s : State) (a : SlotAcc) (lost : List Nat) (bare : List Nat),
      (ServedLong false c s)
      ∧ (slotLen c.params.length = true)
      ∧ ((chunks 512 c.params).all (fun x => cplAt x 0 256) = true)
      ∧ (¬ (s.power.state = .standby ∧ (chunks 512 c.params).any (fun x => fld x 4 1 == 1) = true))
      ∧ (((chunks 512 c.params).zip (List.range (chunks 512 c.params).length)).foldl (fun a p => takeCell (s.takeCmd c.len) a
        p.2 (p.1.take 256)) ({ img := s.cfg.poolCells, rep := [], applied := 0, asked := [] } : SlotAcc) = a)
      ∧ ((a.asked.filter fun k => match tget? a.img k with
          | some x => !(asCell x).active
          | none => true) = lost)
      ∧ ((a.asked.filter fun k => match tget? a.img k with
          | some x => (asCell x).active && enginesFor (s.takeCmd c.len) x == 0
          | none => false) = bare))
    ∧ (∃ (c : Cmd) (s : State),
      (ServedLong false c s)
      ∧ (slotLen c.params.length = true)
      ∧ ((chunks 512 c.params).all (fun x => cplAt x 0 256) = true)
      ∧ (s.power.state = .standby)
      ∧ ((chunks 512 c.params).any (fun x => fld x 4 1 == 1) = true))
    ∧ (∃ (c : Cmd) (s : State),
      (ServedLong false c s)
      ∧ (slotLen c.params.length = true)
      ∧ ((chunks 512 c.params).all (fun x => cplAt x 0 256) = false))
    ∧ (∃ (c : Cmd) (s : State) (a : Bytes) (b : Bytes) (ra : List Rep) (rb : List Rep) (u : State),
      (Served 0x13 false c s)
      ∧ (exactLen 1184 c.params.length = true)
      ∧ (cplAt c.params 0 296 = true)
      ∧ (cplAt c.params 592 296 = true)
      ∧ (checkFields 0 quadFields (slice c.params 0 296) = (a, ra))
      ∧ (checkFields 1 quadFields (slice c.params 592 296) = (b, rb))
      ∧ (applyQuad (applyQuad (s.takeCmd c.len) 0 a) 1 b = u))
    ∧ (∃ (c : Cmd) (s : State),
      (Served 0x13 false c s)
      ∧ (exactLen 1184 c.params.length = true)
      ∧ (cplAt c.params 0 296 = false ∨ cplAt c.params 592 296 = false))
    ∧ (∃ (c : Cmd) (s : State) (rs : List (Fin 4 × Bytes × List Rep)),
      (Served 0x14 false c s)
      ∧ (exactLen 192 c.params.length = true)
      ∧ ((List.range 4).all (fun l => cplAt c.params (48 * l) 24) = true)
      ∧ (((List.finRange 4).map fun (l : Fin 4) => (l, checkFields l.val slFields (slice c.params (48 * l.val) 24))) = rs))
    ∧ (∃ (c : Cmd) (s : State),
      (Served 0x14 false c s)
      ∧ (exactLen 192 c.params.length = true)
      ∧ ((List.range 4).all (fun l => cplAt c.params (48 * l) 24) = false)) :=
  ⟨⟨cmd (both (zeros 256)), w0, _, _, _, srvL rfl rfl rfl rfl, by decide +kernel, by decide +kernel, by decide +kernel, rfl,
    rfl, rfl⟩,
    ⟨cmd (both (zeros 4 ++ [1] ++ zeros 251)), wpow { state := .standby }, ⟨rfl, ⟨by decide, by decide⟩, Or.inr rfl, rfl,
      rfl, by decide⟩, by decide +kernel, by decide +kernel, by decide +kernel, by decide +kernel⟩,
    ⟨cmd (zeros 512), w0, srvL rfl rfl rfl rfl, by decide +kernel, by decide +kernel⟩,
    ⟨cmd (both (zeros 296) ++ both (zeros 296)), w0, _, _, _, _, _, srv rfl rfl rfl rfl, by decide +kernel,
      by decide +kernel, by decide +kernel, pairEta _, pairEta _, rfl⟩,
    ⟨cmd (zeros 1184), w0, srv rfl rfl rfl rfl, by decide +kernel, by decide +kernel⟩,
    ⟨cmd (both (zeros 24) ++ both (zeros 24) ++ both (zeros 24) ++ both (zeros 24)), w0, _, srv rfl rfl rfl rfl,
      by decide +kernel, by decide +kernel, rfl⟩,
    ⟨cmd (zeros 192), w0, srv rfl rfl rfl rfl, by decide +kernel, by decide +kernel⟩⟩

theorem test_met_Models_and_tables_are_loaded :
    (∀ p b, openContainer (w0.takeCmd 10) p = .ok b → loadReason (w0.takeCmd 10) b = none → ∃ (c : Cmd) (s : State),
      ServedLong false c s ∧ openContainer (s.takeCmd c.len) c.params = .ok b ∧ loadReason (s.takeCmd c.len) b = none)
    ∧ (∀ p b r, openContainer (w0.takeCmd 10) p = .ok b → loadReason (w0.takeCmd 10) b = some r → ∃ (c : Cmd) (s : State),
      ServedLong false c s ∧ openContainer (s.takeCmd c.len) c.params = .ok b ∧ loadReason (s.takeCmd c.len) b = some r)
    ∧ (∃ (c : Cmd) (s : State) (st : Nat) (d : Nat),
      (ServedLong false c s)
      ∧ ((fun _ => true) c.params.length = true)
      ∧ (openContainer (s.takeCmd c.len) c.params = .error (st, d)))
    ∧ (∃ (c : Cmd) (s : State) (i : Fin 16),
      (Served 0x21 false c s)
      ∧ (exactLen 8 c.params.length = true)
      ∧ (s.modelSlotOf (par8 c.params 0) = some i.val)
      ∧ (s.isBound (par8 c.params 0) = false))
    ∧ (∃ (c : Cmd) (s : State) (i : Nat),
      (Served 0x21 false c s)
      ∧ (exactLen 8 c.params.length = true)
      ∧ (s.modelSlotOf (par8 c.params 0) = some i)
      ∧ (s.isBound (par8 c.params 0) = true))
    ∧ (∃ (c : Cmd) (s : State),
      (Served 0x21 false c s)
      ∧ (exactLen 8 c.params.length = true)
      ∧ (s.modelSlotOf (par8 c.params 0) = none))
    ∧ (∃ (c : Cmd) (s : State),
      (Served 0x22 false c s)
      ∧ (exactLen 1544 c.params.length = true)
      ∧ (1 ≤ par8 c.params 0)
      ∧ (par8 c.params 0 ≤ 7))
    ∧ (∃ (c : Cmd) (s : State),
      (Served 0x22 false c s)
      ∧ (exactLen 1544 c.params.length = true)
      ∧ (par8 c.params 0 = 0 ∨ 7 < par8 c.params 0))
    ∧ (∃ (c : Cmd) (s : State),
      (ServedLong false c s)
      ∧ ((fun l => decide (40 ≤ l)) c.params.length = true)
      ∧ ((s.cell? (par8 c.params 0)).isSome = true)
      ∧ (1 ≤ par8 c.params 3 ∧ par8 c.params 3 ≤ 16 ∧ 1 ≤ par8 c.params 4 ∧ par8 c.params 4 ≤ 32)
      ∧ (par8 c.params 1 + par8 c.params 2 ≤ 256)
      ∧ (40 + par8 c.params 2 * (par8 c.params 3 * par8 c.params 4 * 4) ≤ c.params.length))
    ∧ (∃ (c : Cmd) (s : State),
      (ServedLong false c s)
      ∧ ((fun l => decide (40 ≤ l)) c.params.length = true)
      ∧ (s.cell? (par8 c.params 0) = none)) :=
  ⟨fun p _ h g => ⟨cmd p, w0, srvL rfl rfl rfl rfl, h, g⟩,
    fun p _ _ h g => ⟨cmd p, w0, srvL rfl rfl rfl rfl, h, g⟩,
    ⟨cmd [], w0, _, _, srvL rfl rfl rfl rfl, by decide +kernel, rfl⟩,
    ⟨cmd (par [9]), wm model0, 0, srv rfl rfl rfl rfl, by decide +kernel, by decide +kernel, by decide +kernel⟩,
    ⟨cmd (par [9]), { wm model0 with cfg := { cells := [(0, { rcd := [0, 0, 0, 0, 1] ++ zeros 11 ++ toLE 8 9 ++ zeros 232, placed := true })] } },
      0, srv rfl rfl rfl rfl, by decide +kernel, by decide +kernel, by decide +kernel⟩,
    ⟨cmd (par [9]), w0, srv rfl rfl rfl rfl, by decide +kernel, by decide +kernel⟩,
    ⟨cmd (par [7] ++ zeros 1536), w0, srv rfl rfl rfl rfl, by decide +kernel, by decide +kernel, by decide +kernel⟩,
    ⟨cmd (par [8] ++ zeros 1536), w0, srv rfl rfl rfl rfl, by decide +kernel, by decide +kernel⟩,
    ⟨cmd (par [0, 0, 1, 1, 1] ++ zeros 4), wcell cell0, srvL rfl rfl rfl rfl, by decide +kernel, by decide +kernel,
      by decide +kernel, by decide +kernel, by decide +kernel⟩,
    ⟨cmd (par [0, 0, 1, 1, 1]), w0, srvL rfl rfl rfl rfl, by decide +kernel, by decide +kernel⟩⟩

theorem test_met_Adaptation_is_commanded :
    (∃ (c : Cmd) (s : State) (i : Nat) (m : Model) (b : Bytes) (rep : List Rep),
      (Served 0x24 false c s)
      ∧ (exactLen 136 c.params.length = true)
      ∧ (cplAt c.params 8 64 = true)
      ∧ (s.modelSlotOf (par8 c.params 0) = some i)
      ∧ (s.model? i = some m)
      ∧ (checkFields 0 (adaptFields (defaultParams m.image)) (slice c.params 8 64) = (b, rep)))
    ∧ (∃ (c : Cmd) (s : State),
      (Served 0x24 false c s)
      ∧ (exactLen 136 c.params.length = true)
      ∧ (cplAt c.params 8 64 = true)
      ∧ (s.modelSlotOf (par8 c.params 0) = none))
    ∧ (∃ (c : Cmd) (s : State),
      (Served 0x24 false c s)
      ∧ (exactLen 136 c.params.length = true)
      ∧ (cplAt c.params 8 64 = false))
    ∧ (∃ (c : Cmd) (s : State) (i : Nat) (m : Model) (m1 : Model) (v : Version),
      (ServedLong false c s)
      ∧ (exactLen 16 c.params.length = true)
      ∧ (s.modelSlotOf (par8 c.params 0) = some i)
      ∧ (s.model? i = some m)
      ∧ (m.version? (par8 c.params 1) = some v)
      ∧ (canReturn v = true)
      ∧ (m1 = { m.dropCandidate .discarded with watch := none, promote := none }))
    ∧ (∃ (c : Cmd) (s : State) (i : Nat) (m : Model) (v : Version),
      (ServedLong false c s)
      ∧ (exactLen 16 c.params.length = true)
      ∧ (s.modelSlotOf (par8 c.params 0) = some i)
      ∧ (s.model? i = some m)
      ∧ (m.version? (par8 c.params 1) = some v)
      ∧ (canReturn v = false))
    ∧ (∃ (c : Cmd) (s : State),
      (ServedLong false c s)
      ∧ (exactLen 16 c.params.length = true)
      ∧ (s.modelSlotOf (par8 c.params 0) = none))
    ∧ (∃ (c : Cmd) (s : State) (q : Quire),
      (Served 0x31 false c s)
      ∧ (exactLen 8 c.params.length = true)
      ∧ (tget? s.quires (par8 c.params 0 % 65536) = some q)
      ∧ (q.state = .queued))
    ∧ (∃ (c : Cmd) (s : State) (q : Quire),
      (Served 0x31 false c s)
      ∧ (exactLen 8 c.params.length = true)
      ∧ (tget? s.quires (par8 c.params 0 % 65536) = some q)
      ∧ (q.state.open_ = true)
      ∧ (q.state ≠ .queued))
    ∧ (∃ (c : Cmd) (s : State),
      (Served 0x31 false c s)
      ∧ (exactLen 8 c.params.length = true)
      ∧ (tget? s.quires (par8 c.params 0 % 65536) = none))
    ∧ (∃ (c : Cmd) (s : State) (q : Quire),
      (Served 0x31 false c s)
      ∧ (exactLen 8 c.params.length = true)
      ∧ (tget? s.quires (par8 c.params 0 % 65536) = some q)
      ∧ (q.state.open_ = false)) :=
  ⟨⟨cmd (par [9] ++ both (zeros 64)), wm model0, 0, model0, _, _, srv rfl rfl rfl rfl, by decide +kernel, by decide +kernel,
    by decide +kernel, rfl, pairEta _⟩,
    ⟨cmd (par [9] ++ both (zeros 64)), w0, srv rfl rfl rfl rfl, by decide +kernel, by decide +kernel, by decide +kernel⟩,
    ⟨cmd (zeros 136), w0, srv rfl rfl rfl rfl, by decide +kernel, by decide +kernel⟩,
    ⟨cmd (par [9, 0]), wm model0, 0, model0, _, { number := 0, parent := 0, state := .active }, srvL rfl rfl rfl rfl,
      by decide +kernel, by decide +kernel, rfl, rfl, by decide +kernel, rfl⟩,
    ⟨cmd (par [9, 2]), wm { model0 with versions := [{ number := 2, parent := 0, state := .rejected }] }, 0, _,
      { number := 2, parent := 0, state := .rejected }, srvL rfl rfl rfl rfl, by decide +kernel, by decide +kernel, rfl, rfl,
        by decide +kernel⟩,
    ⟨cmd (par [9, 0]), w0, srvL rfl rfl rfl rfl, by decide +kernel, by decide +kernel⟩,
    ⟨cmd (par [5]), wq (quire .adaptation .queued), _, srv rfl rfl rfl rfl, by decide +kernel, rfl, rfl⟩,
    ⟨cmd (par [5]), wq (quire .adaptation .running), _, srv rfl rfl rfl rfl, by decide +kernel, rfl, rfl, nofun⟩,
    ⟨cmd (par [6]), w0, srv rfl rfl rfl rfl, by decide +kernel, by decide +kernel⟩,
    ⟨cmd (par [5]), wq (quire .adaptation .ended), _, srv rfl rfl rfl rfl, by decide +kernel, rfl, rfl⟩⟩

theorem test_met_Colophon_and_module_commands :
    (∃ (c : Cmd) (s : State),
      (Served 0x39 false c s)
      ∧ (exactLen 0 c.params.length = true)
      ∧ (s.colo.openRecs ≠ [])
      ∧ (s.colo.full = false))
    ∧ (∃ (c : Cmd) (s : State),
      (Served 0x39 false c s)
      ∧ (exactLen 0 c.params.length = true)
      ∧ (s.colo.openRecs = []))
    ∧ (∃ (c : Cmd) (s : State),
      (Served 0x39 false c s)
      ∧ (exactLen 0 c.params.length = true)
      ∧ (s.colo.openRecs ≠ [])
      ∧ (s.colo.full = true))
    ∧ (∃ (c : Cmd) (s : State) (out : Bytes),
      (ServedLong false c s)
      ∧ (exactLen 8 c.params.length = true)
      ∧ ((s.colo.stored.take (par8 c.params 0)).flatMap (·.2) = out)
      ∧ (out.length ≤ c.obLen.toNat))
    ∧ (∃ (c : Cmd) (s : State) (h : Bytes) (rep : List Rep),
      (Served 0x42 false c s)
      ∧ (80 ≤ c.params.length)
      ∧ (c.params.length ≤ 5216)
      ∧ (cplAt c.params 0 (c.params.length / 2) = true)
      ∧ (checkFields 0 policyFields (slice c.params 0 40) = (h, rep)))
    ∧ (∃ (c : Cmd) (s : State),
      (Served 0x42 false c s)
      ∧ (80 ≤ c.params.length)
      ∧ (c.params.length ≤ 5216)
      ∧ (cplAt c.params 0 (c.params.length / 2) = false))
    ∧ (∃ (c : Cmd) (s : State),
      (Served 0x43 false c s)
      ∧ (8 ≤ c.params.length)
      ∧ (c.params.length ≤ 1040)
      ∧ (par8 c.params 0 = 0)
      ∧ ((s.fe.modules.flatMap moduleRecord).length ≤ c.obLen.toNat))
    ∧ (∃ (c : Cmd) (s : State),
      (Served 0x43 false c s)
      ∧ (8 ≤ c.params.length)
      ∧ (c.params.length ≤ 1040)
      ∧ (par8 c.params 0 ≠ 0)) :=
  ⟨⟨cmd [], { w0 with colo := { openRecs := [[]], store := some (0, 1) } }, srv rfl rfl rfl rfl, by decide +kernel,
    by decide +kernel, by decide +kernel⟩,
    ⟨cmd [], w0, srv rfl rfl rfl rfl, by decide +kernel, by decide +kernel⟩,
    ⟨cmd [], { w0 with colo := { openRecs := [[]] } }, srv rfl rfl rfl rfl, by decide +kernel, by decide +kernel,
      by decide +kernel⟩,
    ⟨cmd (par [1]), w0, _, srvL rfl rfl rfl rfl, by decide +kernel, rfl, by decide +kernel⟩,
    ⟨cmd (both (zeros 40)), w0, _, _, srv rfl rfl rfl rfl, by decide +kernel, by decide +kernel, by decide +kernel,
      pairEta _⟩,
    ⟨cmd (zeros 80), w0, srv rfl rfl rfl rfl, by decide +kernel, by decide +kernel, by decide +kernel⟩,
    ⟨cmd (par [0]), w0, srv rfl rfl rfl rfl, by decide +kernel, by decide +kernel, by decide +kernel, by decide +kernel⟩,
    ⟨cmd (par [1]), w0, srv rfl rfl rfl rfl, by decide +kernel, by decide +kernel, by decide +kernel⟩⟩

theorem test_met_Security_commands :
    (∃ (c : Cmd) (s : State),
      (ServedLong true c s)
      ∧ (exactLen 32 c.params.length = true)
      ∧ ((reportBytes c.params (s.takeCmd c.len) ++ slice (identitySign "UZY1632 attest".toList (reportBytes c.params
        (s.takeCmd c.len))) 0 3309 ++ zeros 19).length ≤ c.obLen.toNat))
    ∧ (∃ (c : Cmd) (s : State),
      (ServedLong false c s)
      ∧ (0 < c.params.length)
      ∧ (c.params.length ≤ 0x1000000)
      ∧ (s.host.lock = true))
    ∧ (∃ (c : Cmd) (s : State) (code : Nat),
      (ServedLong false c s)
      ∧ (0 < c.params.length)
      ∧ (c.params.length ≤ 0x1000000)
      ∧ (s.host.lock = false)
      ∧ (bundleFault s.sec.fuses s.ddrBytes c.params = some code))
    ∧ (∀ p : Bytes, 0 < p.length → p.length ≤ 0x1000000 → bundleFault w0.sec.fuses w0.ddrBytes p = none → ∃ (c : Cmd) (s :
      State), ServedLong false c s ∧ c.params = p ∧ s.host.lock = false ∧ bundleFault s.sec.fuses s.ddrBytes c.params = none)
    ∧ (blobSigned blob0 = true → ∃ (c : Cmd) (s : State), Served 0x05 false c s ∧ c.params.length = 6485
      ∧ blobOk c.params = true ∧ fld c.params 0 1 = 0 ∧ s.sec.fuses.ownerRoot = none ∧ s.host.lock = false
        ∧ blobSigned c.params = true)
    ∧ (∃ (c : Cmd) (s : State),
      (Served 0x05 false c s)
      ∧ (c.params.length = 6485)
      ∧ (blobOk c.params = true)
      ∧ (fld c.params 0 1 = 0)
      ∧ ((s.sec.fuses.ownerRoot ≠ none ∨ s.host.lock = true)))
    ∧ (blobSigned blob0 = false → ∃ (c : Cmd) (s : State), Served 0x05 false c s ∧ c.params.length = 6485
      ∧ blobOk c.params = true ∧ fld c.params 0 1 = 0 ∧ s.sec.fuses.ownerRoot = none ∧ s.host.lock = false
        ∧ blobSigned c.params = false)
    ∧ (∃ (c : Cmd) (s : State),
      (Served 0x05 false c s)
      ∧ (c.params.length = 6485)
      ∧ (blobOk c.params = true)
      ∧ (fld c.params 0 1 = 1)
      ∧ (s.sec.fuses.ownerRoot = none))
    ∧ (∀ (b key : Bytes) (p : Fin 8), b.length = 6485 → blobOk b = true → fld b 0 1 = 1 → blobSigned b = true → slice b 0x28
      32 = kemKeyId → unwrapKey (slice b 0x48 1088) (slice b 0x488 12) (slice b 0x498 32) (slice b 0x4B8 16) (slice b 0 0x30)
        = some key → fld b 1 1 = p.val → ∃ (c : Cmd) (s : State) (root : Bytes), Served 0x05 false c s ∧ c.params = b
          ∧ s.sec.fuses.ownerRoot = some root ∧ digest256 (slice c.params 0x4C8 1952) = root)
    ∧ (∃ (c : Cmd) (s : State),
      (Served 0x05 false c s)
      ∧ (c.params.length = 6485)
      ∧ (blobOk c.params = false)) :=
  ⟨⟨cmd (zeros 32), w0, srvL rfl rfl rfl rfl, by decide +kernel, attest_fits⟩,
    ⟨cmd [0], wroot none true, ⟨rfl, ⟨by decide, by decide⟩, Or.inr rfl, rfl, rfl, by decide⟩, by decide +kernel,
      by decide +kernel, by decide +kernel⟩,
    ⟨cmd [0], w0, 0x11, srvL rfl rfl rfl rfl, by decide +kernel, by decide +kernel, by decide +kernel, by decide +kernel⟩,
    fun p _ _ h => ⟨cmd p, w0, srvL rfl rfl rfl rfl, rfl, rfl, h⟩,
    fun h => ⟨cmd blob0, w0, srv rfl rfl rfl rfl, by decide +kernel, by decide +kernel, by decide +kernel, rfl, rfl, h⟩,
    ⟨cmd blob0, wroot (some []) false, srv rfl rfl rfl rfl, by decide +kernel, by decide +kernel, by decide +kernel,
      by decide +kernel⟩,
    fun h => ⟨cmd blob0, w0, srv rfl rfl rfl rfl, by decide +kernel, by decide +kernel, by decide +kernel, rfl, rfl, h⟩,
    ⟨cmd blob1, w0, srv rfl rfl rfl rfl, by decide +kernel, by decide +kernel, by decide +kernel, by decide +kernel⟩,
    fun b _ _ _ _ _ _ _ _ _ => ⟨cmd b, wroot (some (digest256 (slice b 0x4C8 1952))) false, _, srv rfl rfl rfl rfl, rfl, rfl,
      rfl⟩,
    ⟨cmd ([0, 0, 0, 0, 1] ++ zeros 6480), w0, srv rfl rfl rfl rfl, by decide +kernel, by decide +kernel⟩⟩

theorem test_met_Power_states_change :
    (∃ (c : Cmd) (s : State) (r : Bytes) (rep : List Rep),
      (ServedLong false c s)
      ∧ (exactLen 32 c.params.length = true)
      ∧ (cplAt c.params 0 16 = true)
      ∧ (checkFields 0 powerFields (slice c.params 0 16) = (r, rep))
      ∧ (par8 r 0 = 1)
      ∧ (s.quireLive = false)
      ∧ (s.cfg.cells.any (fun p => p.2.placed || p.2.waitFull) = false))
    ∧ (∃ (c : Cmd) (s : State) (r : Bytes) (rep : List Rep),
      (ServedLong false c s)
      ∧ (exactLen 32 c.params.length = true)
      ∧ (cplAt c.params 0 16 = true)
      ∧ (checkFields 0 powerFields (slice c.params 0 16) = (r, rep))
      ∧ (par8 r 0 = 1)
      ∧ (s.quireLive = true ∨ s.cfg.cells.any (fun p => p.2.placed || p.2.waitFull) = true))
    ∧ (∃ (c : Cmd) (s : State) (r : Bytes) (rep : List Rep),
      (ServedLong false c s)
      ∧ (exactLen 32 c.params.length = true)
      ∧ (cplAt c.params 0 16 = true)
      ∧ (checkFields 0 powerFields (slice c.params 0 16) = (r, rep))
      ∧ (par8 r 0 ≠ 1))
    ∧ (∃ (c : Cmd) (s : State),
      (ServedLong false c s)
      ∧ (exactLen 32 c.params.length = true)
      ∧ (cplAt c.params 0 16 = false))
    ∧ (∃ (s : State),
      (s.power.state ≠ .aon)
      ∧ (s.boot.state ≠ .reset))
    ∧ (∃ (s : State),
      (s.power.state = .aon)) :=
  ⟨⟨cmd (both (par [1, 0])), w0, _, _, srvL rfl rfl rfl rfl, by decide +kernel, by decide +kernel, pairEta _,
    by decide +kernel, by decide +kernel, by decide +kernel⟩,
    ⟨cmd (both (par [1, 0])), wcell cell0, _, _, srvL rfl rfl rfl rfl, by decide +kernel, by decide +kernel, pairEta _,
      by decide +kernel, by decide +kernel⟩,
    ⟨cmd (both (par [0, 1])), w0, _, _, srvL rfl rfl rfl rfl, by decide +kernel, by decide +kernel, pairEta _,
      by decide +kernel⟩,
    ⟨cmd (zeros 32), w0, srvL rfl rfl rfl rfl, by decide +kernel, by decide +kernel⟩,
    ⟨w0, by decide +kernel, by decide +kernel⟩,
    ⟨wpow { state := .aon }, by decide +kernel⟩⟩

theorem test_met_Long_commands_run_leaf_by_leaf :
    (∃ (s : State) (j : Job) (rest : List Job),
      (s.busumUp = true)
      ∧ (s.power.state ≠ .aon)
      ∧ (s.mbx.longQ = j :: rest)
      ∧ (2 ≤ j.leaves))
    ∧ (∃ (s : State) (j : Job) (rest : List Job),
      (s.busumUp = true)
      ∧ (s.power.state ≠ .aon)
      ∧ (s.mbx.longQ = j :: rest)
      ∧ (j.leaves ≤ 1))
    ∧ (∃ (s : State) (c : Cmd),
      (s.canRead s.mbx.cmdq c.len.toNat = true)
      ∧ (3 ≤ c.len.toNat)
      ∧ (c.len.toNat ≤ 257)
      ∧ (s.boot.state = .ready)
      ∧ (c.xferFail = none)
      ∧ (slotLen c.params.length = true)
      ∧ (s.mbx.longQ = [])
      ∧ (2 ≤ c.leaves))
    ∧ (∃ (s : State) (c : Cmd),
      (s.canRead s.mbx.cmdq c.len.toNat = true)
      ∧ (3 ≤ c.len.toNat)
      ∧ (c.len.toNat ≤ 257)
      ∧ (s.boot.state = .ready)
      ∧ (c.xferFail = none)
      ∧ (slotLen c.params.length = true)
      ∧ (s.mbx.longQ ≠ []))
    ∧ (∃ (s : State) (c : Cmd),
      (s.canRead s.mbx.cmdq c.len.toNat = true)
      ∧ (3 ≤ c.len.toNat)
      ∧ (c.len.toNat ≤ 257)
      ∧ (s.boot.state = .ready)
      ∧ (c.xferFail = none)
      ∧ (exactLen 1184 c.params.length = true)
      ∧ (s.targetBusy 0x13 c = true)) :=
  ⟨⟨wjob [job 2], _, _, by decide +kernel, by decide +kernel, rfl, by decide⟩,
    ⟨wjob [job 1], _, _, by decide +kernel, by decide +kernel, rfl, by decide⟩,
    ⟨w0, { cmd (zeros 512) with leaves := 2 }, by decide +kernel, by decide +kernel, by decide +kernel, by decide +kernel,
      by decide +kernel, by decide +kernel, by decide +kernel, by decide +kernel⟩,
    ⟨wjob [job 1], cmd (zeros 512), by decide +kernel, by decide +kernel, by decide +kernel, by decide +kernel,
      by decide +kernel, by decide +kernel, by decide +kernel⟩,
    ⟨wjob [{ code := 0x12, cmd := cmd [], leaves := 2 }], cmd (both (zeros 296) ++ both (zeros 296)), by decide +kernel,
      by decide +kernel, by decide +kernel, by decide +kernel, by decide +kernel, by decide +kernel, by decide +kernel⟩⟩

theorem test_met_Slot_records_are_taken :
    (∃ (r : UlSlot) (s : State) (n : Nat),
      (n = packSfn r.sfn.toNat r.slot.toNat)
      ∧ (s.canRead s.mbx.spq r.len.toNat = true)
      ∧ (recordCause (s.takeSpq r.len) r.cell.toNat r.sfn.toNat r.slot.toNat r.len.toNat false ((tget? s.fe.ulRecs (slotKey
        r.cell.toNat n)).isSome || (tget? s.fe.ul (slotKey r.cell.toNat n)).isSome) = none)
      ∧ ((∀ p ∈ r.pusch, puschServed p = true))
      ∧ ((∀ p ∈ r.prach, prachAllowed p = true ∧ p.count ≤ 64))
      ∧ (r.excluded = []))
    ∧ (∃ (r : UlSlot) (s : State) (n : Nat) (cause : Nat),
      (n = packSfn r.sfn.toNat r.slot.toNat)
      ∧ (s.canRead s.mbx.spq r.len.toNat = true)
      ∧ (((∀ x, s.cell? r.cell.toNat = some x → s.inService x.cluster.val ≠ []) ∨ r.prach = []))
      ∧ (recordCause (s.takeSpq r.len) r.cell.toNat r.sfn.toNat r.slot.toNat r.len.toNat false ((tget? s.fe.ulRecs (slotKey
        r.cell.toNat n)).isSome || (tget? s.fe.ul (slotKey r.cell.toNat n)).isSome) = some cause))
    ∧ (∃ (r : DlSlot) (s : State) (n : Nat),
      (n = packSfn r.sfn.toNat r.slot.toNat)
      ∧ (s.canRead s.mbx.spq r.len.toNat = true)
      ∧ (recordCause (s.takeSpq r.len) r.cell.toNat r.sfn.toNat r.slot.toNat r.len.toNat true ((tget? s.fe.dlRecs (slotKey
        r.cell.toNat n)).isSome || dlServed s r.cell.toNat n) = none))
    ∧ (∃ (r : DlSlot) (s : State) (n : Nat),
      (n = packSfn r.sfn.toNat r.slot.toNat)
      ∧ (s.canRead s.mbx.spq r.len.toNat = true)
      ∧ (recordCause (s.takeSpq r.len) r.cell.toNat r.sfn.toNat r.slot.toNat r.len.toNat true ((tget? s.fe.dciRecs (slotKey
        r.cell.toNat n)).isSome || dlServed s r.cell.toNat n) = none))
    ∧ (∃ (r : TxData) (s : State) (n : Nat),
      (n = packSfn r.sfn.toNat r.slot.toNat)
      ∧ (s.canRead s.mbx.spq r.len.toNat = true)
      ∧ (dlOpened s r.cell.toNat n = false)
      ∧ (recordCause (s.takeSpq r.len) r.cell.toNat r.sfn.toNat r.slot.toNat r.len.toNat true ((tget? s.fe.txRecs (slotKey
        r.cell.toNat n)).isSome || dlServed s r.cell.toNat n) = none))
    ∧ (∃ (r : DlSlot) (s : State) (n : Nat) (cause : Nat),
      (n = packSfn r.sfn.toNat r.slot.toNat)
      ∧ (s.canRead s.mbx.spq r.len.toNat = true)
      ∧ (recordCause (s.takeSpq r.len) r.cell.toNat r.sfn.toNat r.slot.toNat r.len.toNat true ((tget? s.fe.dlRecs (slotKey
        r.cell.toNat n)).isSome || dlServed s r.cell.toNat n) = some cause))
    ∧ (∃ (r : DlSlot) (s : State) (n : Nat) (cause : Nat),
      (n = packSfn r.sfn.toNat r.slot.toNat)
      ∧ (s.canRead s.mbx.spq r.len.toNat = true)
      ∧ (recordCause (s.takeSpq r.len) r.cell.toNat r.sfn.toNat r.slot.toNat r.len.toNat true ((tget? s.fe.dciRecs (slotKey
        r.cell.toNat n)).isSome || dlServed s r.cell.toNat n) = some cause))
    ∧ (∃ (r : TxData) (s : State) (n : Nat) (cause : Nat),
      (n = packSfn r.sfn.toNat r.slot.toNat)
      ∧ (s.canRead s.mbx.spq r.len.toNat = true)
      ∧ (dlOpened s r.cell.toNat n = false)
      ∧ (recordCause (s.takeSpq r.len) r.cell.toNat r.sfn.toNat r.slot.toNat r.len.toNat true ((tget? s.fe.txRecs (slotKey
        r.cell.toNat n)).isSome || dlServed s r.cell.toNat n) = some cause))
    ∧ (∃ (r : TxData) (s : State) (n : Nat),
      (n = packSfn r.sfn.toNat r.slot.toNat)
      ∧ (s.canRead s.mbx.spq r.len.toNat = true)
      ∧ (2 ≤ r.len.toNat)
      ∧ (dlOpened s r.cell.toNat n = true)
      ∧ ((tget? s.fe.dlRecs (slotKey r.cell.toNat n)).isSome = true)
      ∧ (tget? s.fe.txRecs (slotKey r.cell.toNat n) = none)
      ∧ (dlServed s r.cell.toNat n = false)) :=
  ⟨⟨ul0, wcell cell1, 0, by decide +kernel, by decide +kernel, by decide +kernel, by decide +kernel, by decide +kernel,
    by decide +kernel⟩,
    ⟨{ ul0 with len := 1 }, wcell cell1, 0, 5, by decide +kernel, by decide +kernel, Or.inr rfl, by decide +kernel⟩,
    ⟨dl0, wcell cell1, 0, by decide +kernel, by decide +kernel, by decide +kernel⟩,
    ⟨dl0, wcell cell1, 0, by decide +kernel, by decide +kernel, by decide +kernel⟩,
    ⟨tx0, wcell cell1, 0, by decide +kernel, by decide +kernel, by decide +kernel, by decide +kernel⟩,
    ⟨{ dl0 with len := 1 }, wcell cell1, 0, 5, by decide +kernel, by decide +kernel, by decide +kernel⟩,
    ⟨{ dl0 with len := 1 }, wcell cell1, 0, 5, by decide +kernel, by decide +kernel, by decide +kernel⟩,
    ⟨{ tx0 with len := 1 }, wcell cell1, 0, 5, by decide +kernel, by decide +kernel, by decide +kernel, by decide +kernel⟩,
    ⟨tx0, { wcell { cell1 with cpDl := 1 } with fe := { dlRecs := [(0, dl0)] } }, 0, by decide +kernel, by decide +kernel,
      by decide +kernel, by decide +kernel, by decide +kernel, by decide +kernel, rfl⟩⟩

theorem test_met_Excluded_pdus_are_answered_one_by_one :
    (∃ (r : UlSlot) (s : State) (s0 : State) (n : Nat),
      (n = packSfn r.sfn.toNat r.slot.toNat)
      ∧ (s.canRead s.mbx.spq r.len.toNat = true)
      ∧ (recordCause (s.takeSpq r.len) r.cell.toNat r.sfn.toNat r.slot.toNat r.len.toNat false ((tget? s.fe.ulRecs (slotKey
        r.cell.toNat n)).isSome || (tget? s.fe.ul (slotKey r.cell.toNat n)).isSome) = none)
      ∧ (s0 = ((s.takeSpq r.len).setFe fun f => { f with recOrder := f.recOrder ++ [(r.cell.toNat, n)] })))
    ∧ (∃ (r : UlSlot) (s : State) (s0 : State) (n : Nat) (x : Cell),
      (n = packSfn r.sfn.toNat r.slot.toNat)
      ∧ (s.canRead s.mbx.spq r.len.toNat = true)
      ∧ (s.cell? r.cell.toNat = some x)
      ∧ (s.inService x.cluster.val = [])
      ∧ (r.prach ≠ [])
      ∧ (recordCause { s.takeSpq r.len with engines := Vector.replicate 16 {} } r.cell.toNat r.sfn.toNat r.slot.toNat
        r.len.toNat false ((tget? s.fe.ulRecs (slotKey r.cell.toNat n)).isSome || (tget? s.fe.ul (slotKey r.cell.toNat
          n)).isSome) = none)
      ∧ (s0 = (s.takeSpq r.len).slotError r.cell.toNat r.sfn.toNat r.slot.toNat 3)) :=
  ⟨⟨{ ul0 with excluded := [0] }, wcell cell1, _, 0, by decide +kernel, by decide +kernel, by decide +kernel, rfl⟩,
    ⟨{ ul0 with prach := [prach0] }, { wcell cell1 with engines := Vector.replicate 16 { retired := true } }, _, 0, cell1,
      by decide +kernel, by decide +kernel, rfl, by decide +kernel, by decide +kernel, by decide +kernel, rfl⟩⟩

theorem test_met_Slot_marks_set_the_close :
    (∃ (v : BitVec 32) (s : State) (s0 : State),
      (BarOk s)
      ∧ (s.markSource = 0)
      ∧ (bits v.toNat 0 16 ≤ 9999)
      ∧ (s0 = { s with cfg := { s.cfg with lastMark := tset s.cfg.lastMark (bits v.toNat 24 4) s.ticks.toNat, lostGroups := s.cfg.lostGroups.filter (· != bits v.toNat 24 4) } }))
    ∧ (∃ (v : BitVec 32) (s : State),
      (BarOk s)
      ∧ ((s.markSource ≠ 0 ∨ 9999 < bits v.toNat 0 16)))
    ∧ (∃ (s : State),
      (s.markSource ≠ 1))
    ∧ (∃ (s : State) (s0 : State),
      (s.markSource = 1)
      ∧ (s0 = ((noteMark s (List.range 16)).setCfg fun c => { c with lastEdge := some s.ticks.toNat })))
    ∧ (∃ (g : Fin 16) (s : State) (s1 : State),
      (s.cfg.cells.any (fun p => p.2.placed && p.2.timingGroup == g.val) = true)
      ∧ (s.cfg.lostGroups.contains g.val = false)
      ∧ (s1 = s.advanceTo (tget s.cfg.lastMark g.val s.ticks.toNat + usTicks 10000)))
    ∧ (∃ (g : Fin 16) (s : State),
      (s.cfg.lostGroups.contains g.val = true)) :=
  ⟨⟨9999, w0, _, barOk rfl rfl rfl, by decide +kernel, by decide +kernel, rfl⟩,
    ⟨10000, w0, barOk rfl rfl rfl, Or.inr (by decide +kernel)⟩,
    ⟨{ w0 with cfg := { sched := [2] } }, by decide +kernel⟩,
    ⟨{ w0 with cfg := { sched := [1] } }, _, by decide +kernel, rfl⟩,
    ⟨0, wcell cell1, _, by decide +kernel, by decide +kernel, rfl⟩,
    ⟨0, { w0 with cfg := { lostGroups := [0] } }, by decide +kernel⟩⟩

theorem test_met_Scalar_instructions_write_their_destination :
    (∃ (c : Fin 8) (op : BitVec 6) (rd : Fin 64) (ra : Fin 64) (rb : Fin 64) (i : Bool) (imm : BitVec 32) (s : State) (q :
      Quire) (v : BitVec 64),
      (Issues c 1 (scalarReads op.toNat rd ra rb i) q s)
      ∧ (scalarOp op.toNat (s.getS c rd) (s.getS c ra) (if i then imm.signExtend 64 else s.getS c rb) imm = some v)
      ∧ (op ≠ 8))
    ∧ (∃ (c : Fin 8) (rd : Fin 64) (ra : Fin 64) (rb : Fin 64) (i : Bool) (s : State) (q : Quire),
      (Issues c 1 (scalarReads 8 rd ra rb i) q s))
    ∧ (∃ (c : Fin 8) (ra : Fin 64) (imm : BitVec 32) (par : Option Nat) (s : State) (q : Quire) (a : Nat),
      (Issues c 1 [ra.val] q s)
      ∧ (coreAccess (s.landed c) c q (s.getS c ra + imm.signExtend 64).toNat 8 false none = .ok a)
      ∧ (parityHit (s.landed c) q c 1 par (wordIn · a 8) = false))
    ∧ (∃ (c : Fin 8) (ra : Fin 64) (rb : Fin 64) (imm : BitVec 32) (s : State) (q : Quire) (a : Nat),
      (Issues c 1 [ra.val, rb.val] q s)
      ∧ (coreAccess (s.landed c) c q (s.getS c ra + imm.signExtend 64).toNat 8 true none = .ok a))
    ∧ (∃ (c : Fin 8) (ra : Fin 64) (rb : Fin 64) (imm : BitVec 32) (s : State) (q : Quire) (a : Nat) (t : _) (b : Nat),
      (Issues c 1 [ra.val, rb.val] q s)
      ∧ (coreAccess (s.landed c) c q (s.getS c ra + imm.signExtend 64).toNat 8 true none = .ok a)
      ∧ (s.mem.wf = true)
      ∧ (exec (.sts c ra rb imm) s = .next t)
      ∧ ((b < a ∨ a + 8 ≤ b)))
    ∧ (∃ (c : Fin 8) (rd : Fin 64) (ra : Fin 64) (s : State) (q : Quire),
      (Issues c 1 [ra.val] q s)
      ∧ (rd.val % 16 < 12))
    ∧ (∃ (c : Fin 8) (rd : Fin 64) (ra : Fin 64) (s : State) (q : Quire) (r : Run),
      (Issues c 1 [ra.val] q s)
      ∧ (12 ≤ rd.val % 16)
      ∧ ((s.core c).ring (rd.val % 16 - 12) = some r)
      ∧ (r.base ≤ ((s.getS c ra).extractLsb' 0 32).toNat)
      ∧ (((s.getS c ra).extractLsb' 0 32).toNat < r.base + r.len))
    ∧ (∃ (c : Fin 8) (s : State) (q : Quire),
      (Issues c 1 [] q s))
    ∧ (∃ (c : Fin 8) (s : State) (q : Quire),
      (Issues c 1 [] q s))
    ∧ (∃ (c : Fin 8) (ra : Fin 64) (s : State) (q : Quire),
      (Issues c 1 [ra.val] q s)
      ∧ ((s.core c).inHandler = true))
    ∧ (∃ (s : State) (c : Fin 8) (r : Nat),
      ((s.core c).inHandler = true)
      ∧ (r < 56))
    ∧ (∃ (s : State) (c : Fin 8) (r : Nat),
      ((s.core c).inHandler = true)
      ∧ ((r < 8 ∨ 11 < r))) :=
  ⟨⟨0, 0, 1, 2, 3, true, 5, wl core0 qlive, qlive, 5, ⟨rfl, rfl, Or.inl rfl, Or.inr (by decide), rfl, by decide⟩, rfl,
    by decide +kernel⟩,
    ⟨0, 1, 2, 3, true, wl core0 qlive, qlive, ⟨rfl, rfl, Or.inl rfl, Or.inr (by decide), rfl, by decide⟩⟩,
    ⟨0, 0, 0, some 64, wl core0 qlive, qlive, 0, ⟨rfl, rfl, Or.inl rfl, Or.inr (by decide), rfl, by decide⟩, rfl,
      by decide +kernel⟩,
    ⟨0, 0, 2, 0, wl core0 qlive, qlive, 0, ⟨rfl, rfl, Or.inl rfl, Or.inr (by decide), rfl, by decide⟩, rfl⟩,
    ⟨0, 0, 2, 0, wl core0 qlive, qlive, 0, _, 8, ⟨rfl, rfl, Or.inl rfl, Or.inr (by decide), rfl, by decide⟩, rfl,
      by decide +kernel, rfl, by decide +kernel⟩,
    ⟨0, 11, 2, wl core0 qlive, qlive, ⟨rfl, rfl, Or.inl rfl, Or.inr (by decide), rfl, by decide⟩, by decide +kernel⟩,
    ⟨0, 12, 2, wl { core0 with cx := { acb := [(0, 0)], acl := [(0, 64)] } } qlive, qlive, { base := 0, len := 64 }, ⟨rfl,
      rfl, Or.inl rfl, Or.inr (by decide), rfl, by decide⟩, by decide +kernel, rfl, by decide +kernel, by decide +kernel⟩,
    ⟨0, wl core0 qlive, qlive, ⟨rfl, rfl, Or.inl rfl, Or.inr (by decide), rfl, by decide⟩⟩,
    ⟨0, wl core0 qlive, qlive, ⟨rfl, rfl, Or.inl rfl, Or.inr (by decide), rfl, by decide⟩⟩,
    ⟨0, 2, wl { core0 with inHandler := true } qlive, qlive, ⟨rfl, rfl, Or.inr rfl, Or.inl rfl, rfl, by decide⟩,
      by decide +kernel⟩,
    ⟨wl { core0 with inHandler := true } qlive, 0, 55, rfl, by decide +kernel⟩,
    ⟨wl { core0 with inHandler := true } qlive, 0, 12, rfl, by decide +kernel⟩⟩

theorem test_met_Instructions_outside_a_leaf_or_its_code :
    (∃ (c : Fin 8) (i : Instr) (s : State),
      ((∃ op rd ra rb f imm, i = .scalarArith c op rd ra rb f imm) ∨ (∃ rd ra imm par,
        i = .lds c rd ra imm par) ∨ (∃ ra rb imm, i = .sts c ra rb imm) ∨ (∃ rd ra, i = .mova c rd ra) ∨ (∃ rd ra,
          i = .movsa c rd ra) ∨ (∃ rd rb, i = .movsb c rd rb) ∨ (∃ rd ra, i = .movbs c rd ra) ∨ (∃ op ra rb imm,
            i = .branch c op ra rb imm) ∨ (∃ ra imm n, i = .dloop c ra imm n) ∨ (∃ ra imm,
              i = .sig c ra imm) ∨ (∃ rd ra imm err, i = .take c rd ra imm err))
      ∧ ((s.core c).leaf = none))
    ∧ (∃ (c : Fin 8) (i : Instr) (s : State),
      ((∃ op rd ra rb f imm, i = .scalarArith c op rd ra rb f imm) ∨ (∃ rd ra imm par,
        i = .lds c rd ra imm par) ∨ (∃ ra rb imm, i = .sts c ra rb imm) ∨ (∃ rd ra, i = .mova c rd ra) ∨ (∃ rd ra,
          i = .movsa c rd ra) ∨ (∃ rd rb, i = .movsb c rd rb) ∨ (∃ rd ra, i = .movbs c rd ra) ∨ (∃ op ra rb imm,
            i = .branch c op ra rb imm) ∨ (∃ ra imm n, i = .dloop c ra imm n) ∨ (∃ ra imm,
              i = .sig c ra imm) ∨ (∃ rd ra imm err, i = .take c rd ra imm err))
      ∧ ((s.core c).wait ≠ none)
      ∧ ((s.core c).inHandler = false))
    ∧ (∃ (c : Fin 8) (i : Instr) (s : State) (q : _),
      ((∃ op rd ra rb f imm, i = .scalarArith c op rd ra rb f imm) ∨ (∃ rd ra imm par,
        i = .lds c rd ra imm par) ∨ (∃ ra rb imm, i = .sts c ra rb imm) ∨ (∃ rd ra, i = .mova c rd ra) ∨ (∃ rd ra,
          i = .movsa c rd ra) ∨ (∃ rd rb, i = .movsb c rd rb) ∨ (∃ rd ra, i = .movbs c rd ra) ∨ (∃ op ra rb imm,
            i = .branch c op ra rb imm) ∨ (∃ ra imm n, i = .dloop c ra imm n) ∨ (∃ ra imm,
              i = .sig c ra imm) ∨ (∃ rd ra imm err, i = .take c rd ra imm err))
      ∧ ((s.core c).leaf = some q.tag)
      ∧ (tget? s.quires q.tag.toNat = some q)
      ∧ ((s.core c).wait = none)
      ∧ ((s.core c).inHandler = false)
      ∧ (q.code.len < (s.core c).cx.pc + 8)) :=
  ⟨⟨0, .sig 0 0 1, w0, by simp, by decide +kernel⟩,
    ⟨0, .sig 0 0 1, wl { core0 with wait := some { ref := 0, n := 1, limit := 0, rd := 0, remote := false } } qlive, by simp,
      by decide +kernel, by decide +kernel⟩,
    ⟨0, .sig 0 0 1, wl { core0 with cx := { pc := 4089 } } qlive, qlive, by simp, by decide +kernel, rfl, by decide +kernel,
      by decide +kernel, by decide +kernel⟩⟩

theorem test_met_Branches_and_loops_move_the_counter :
    (∃ (c : Fin 8) (op : BitVec 6) (ra : Fin 64) (rb : Fin 64) (s : State) (q : Quire),
      (Issues c 1 (if op = 0 then [] else [ra.val, rb.val]) q s)
      ∧ ((s.core c).loops = [])
      ∧ (branchTaken op.toNat (s.getS c ra) (s.getS c rb) = some false))
    ∧ (∃ (c : Fin 8) (op : BitVec 6) (ra : Fin 64) (rb : Fin 64) (s : State) (q : Quire),
      (Issues c 1 (if op = 0 then [] else [ra.val, rb.val]) q s)
      ∧ ((s.core c).loops = [])
      ∧ (branchTaken op.toNat (s.getS c ra) (s.getS c rb) = some true))
    ∧ (∃ (c : Fin 8) (op : BitVec 6) (ra : Fin 64) (rb : Fin 64) (imm : BitVec 32) (s : State) (t : State) (q : Quire),
      (Issues c 1 (if op = 0 then [] else [ra.val, rb.val]) q s)
      ∧ ((s.core c).loops = [])
      ∧ ((s.core c).inHandler = false)
      ∧ ((s.core c).cx.pc % 8 = 0)
      ∧ ((s.core c).cx.pc < 2 ^ 64)
      ∧ (branchTaken op.toNat (s.getS c ra) (s.getS c rb) = some true)
      ∧ (exec (.branch c op ra rb imm) s = .next t))
    ∧ (∃ (c : Fin 8) (ra : Fin 64) (imm : BitVec 32) (s : State) (q : Quire),
      (Issues c 1 [ra.val] q s)
      ∧ ((s.core c).inHandler = false)
      ∧ (1 ≤ bits imm.toNat 0 7)
      ∧ (bits imm.toNat 0 7 ≤ 64)
      ∧ ((s.core c).loops.length < 2)
      ∧ (bit imm.toNat 13 = false)
      ∧ ((s.getS c ra).toNat % 2 ^ 32 = 0))
    ∧ (∃ (c : Fin 8) (ra : Fin 64) (imm : BitVec 32) (s : State) (q : Quire),
      (Issues c 1 [ra.val] q s)
      ∧ ((s.core c).inHandler = false)
      ∧ (1 ≤ bits imm.toNat 0 7)
      ∧ (bits imm.toNat 0 7 ≤ 64)
      ∧ ((s.core c).loops.length < 2)
      ∧ (bit imm.toNat 13 = false)
      ∧ ((s.getS c ra).toNat % 2 ^ 32 ≠ 0))
    ∧ (∃ (x : Core) (l : LoopCtx) (rest : List LoopCtx),
      (x.loops = l :: rest)
      ∧ (1 < l.left))
    ∧ (∃ (x : Core) (l : LoopCtx) (rest : List LoopCtx),
      (x.loops = l :: rest)
      ∧ (l.left = 1)
      ∧ (1 < l.remaining))
    ∧ (∃ (x : Core) (l : LoopCtx),
      (x.loops = [l])
      ∧ (l.left = 1)
      ∧ (l.remaining ≤ 1)) :=
  ⟨⟨0, 2, 1, 1, wl core0 qlive, qlive, ⟨rfl, rfl, Or.inl rfl, Or.inr (by decide), rfl, by decide⟩, rfl, rfl⟩,
    ⟨0, 0, 1, 1, wl core0 qlive, qlive, ⟨rfl, rfl, Or.inl rfl, Or.inr (by decide), rfl, by decide⟩, rfl, rfl⟩,
    ⟨0, 1, 1, 1, 2, wl core0 qlive, _, qlive, ⟨rfl, rfl, Or.inl rfl, Or.inr (by decide), rfl, by decide⟩, rfl,
      by decide +kernel, rfl, by decide +kernel, rfl, rfl⟩,
    ⟨0, 1, 1, wl core0 qlive, qlive, ⟨rfl, rfl, Or.inl rfl, Or.inr (by decide), rfl, by decide⟩, by decide +kernel,
      by decide +kernel, by decide +kernel, by decide +kernel, by decide +kernel, rfl⟩,
    ⟨0, 1, 1, wl (cores [(1, 1)]) qlive, qlive, ⟨rfl, rfl, Or.inl rfl, Or.inr (by decide), rfl, by decide⟩,
      by decide +kernel, by decide +kernel, by decide +kernel, by decide +kernel, by decide +kernel, by decide +kernel⟩,
    ⟨{ loops := [loop1 2 1] }, _, _, rfl, by decide +kernel⟩,
    ⟨{ loops := [loop1 1 2] }, _, _, rfl, rfl, by decide +kernel⟩,
    ⟨{ loops := [loop1 1 1] }, _, rfl, rfl, by decide +kernel⟩⟩

theorem test_met_Sync_instructions_of_a_leaf :
    (∃ (c : Fin 8) (ra : Fin 64) (imm : BitVec 32) (s : State) (q : Quire),
      (Issues c 1 [ra.val] q s)
      ∧ (imm.extractLsb' 0 16 ≠ 0#16)
      ∧ (imm.extractLsb' 16 16 = 0#16)
      ∧ (refOk (s.landed c) q (s.getS c ra) = true))
    ∧ (∃ (c : Fin 8) (ra : Fin 64) (imm : BitVec 32) (err : SyncError) (s : State) (u : State) (q : Quire) (o : TakeOut),
      (Issues c 1 [ra.val] q s)
      ∧ (imm.extractLsb' 0 16 ≠ 0#16)
      ∧ (imm.extractLsb' 16 16 = 0#16)
      ∧ (refOk (s.landed c) q (s.getS c ra) = true)
      ∧ (refRemote s (s.getS c ra) = false)
      ∧ (o.st ≠ .integrity)
      ∧ (takeObj (meetError (s.landed c) (refCluster c (s.getS c ra)) (ObjRef.of (s.getS c ra)).index err) (refCluster c
        (s.getS c ra)) (ObjRef.of (s.getS c ra)).index (ObjRef.of (s.getS c ra)).tag (imm.extractLsb' 0 16) = (o, u)))
    ∧ (∃ (c : Fin 8) (ref : BitVec 64) (s : State) (t : Nat),
      ((s.core c).retry = some (ref, t)))
    ∧ (∃ (c : Fin 8) (ra : Fin 64) (imm : BitVec 32) (s : State) (q : Quire),
      (Issues c 1 [ra.val] q s)
      ∧ (imm.extractLsb' 0 16 ≠ 0#16)
      ∧ (imm.extractLsb' 16 16 = 0#16)
      ∧ (refOk (s.landed c) q (s.getS c ra) = true)
      ∧ (refRemote s (s.getS c ra) = true))
    ∧ (∃ (c : Fin 8) (ra : Fin 64) (imm : BitVec 32) (err : SyncError) (s : State) (s0 : State) (u : State) (q : Quire) (o :
      TakeOut),
      (Issues c 0 [ra.val] q s)
      ∧ ((s.core c).inHandler = false)
      ∧ ((s.core c).cx.pc + 8 ≤ q.code.len)
      ∧ (imm.extractLsb' 0 16 ≠ 0#16)
      ∧ ((s.core c).loops = [])
      ∧ ((s.core c).sigs = [])
      ∧ (refOk (s.landed c) q (s.getS c ra) = true)
      ∧ (refRemote s (s.getS c ra) = false)
      ∧ (s0 = (s.landed c).waitCore c ((s.landed c).barrierAt c))
      ∧ (takeObj (meetError s0 (refCluster c (s.getS c ra)) (ObjRef.of (s.getS c ra)).index err) (refCluster c (s.getS c ra))
        (ObjRef.of (s.getS c ra)).index (ObjRef.of (s.getS c ra)).tag (imm.extractLsb' 0 16) = (o, u))
      ∧ (o.st ≠ .empty)
      ∧ (o.st ≠ .integrity))
    ∧ (∃ (c : Fin 8) (ra : Fin 64) (imm : BitVec 32) (err : SyncError) (s : State) (s0 : State) (u : State) (q : Quire) (o :
      TakeOut),
      (Issues c 0 [ra.val] q s)
      ∧ ((s.core c).inHandler = false)
      ∧ ((s.core c).cx.pc + 8 ≤ q.code.len)
      ∧ (imm.extractLsb' 0 16 ≠ 0#16)
      ∧ ((s.core c).loops = [])
      ∧ ((s.core c).sigs = [])
      ∧ (refOk (s.landed c) q (s.getS c ra) = true)
      ∧ (refRemote s (s.getS c ra) = false)
      ∧ (s0 = (s.landed c).waitCore c ((s.landed c).barrierAt c))
      ∧ (takeObj (meetError s0 (refCluster c (s.getS c ra)) (ObjRef.of (s.getS c ra)).index err) (refCluster c (s.getS c ra))
        (ObjRef.of (s.getS c ra)).index (ObjRef.of (s.getS c ra)).tag (imm.extractLsb' 0 16) = (o, u))
      ∧ (o.st = .empty)
      ∧ (((ObjRef.of (s.getS c ra)).tag ≠ 0 ∨ jrEnds s0 q (ObjRef.of (s.getS c ra)).index = none ∨ jrEnds s0 q (ObjRef.of
        (s.getS c ra)).index = some (false, false))))
    ∧ (∃ (c : Fin 8) (ra : Fin 64) (imm : BitVec 32) (s : State) (s0 : State) (s1 : State) (q : Quire),
      (Issues c 0 [ra.val] q s)
      ∧ ((s.core c).inHandler = false)
      ∧ ((s.core c).cx.pc + 8 ≤ q.code.len)
      ∧ (imm.extractLsb' 0 16 ≠ 0#16)
      ∧ ((s.core c).loops = [])
      ∧ ((s.core c).takes = [])
      ∧ (refOk (s.landed c) q (s.getS c ra) = true)
      ∧ (refRemote s (s.getS c ra) = true)
      ∧ (0 < (s.core c).cycle)
      ∧ (s0 = (s.landed c).waitCore c ((s.landed c).enginesDone c))
      ∧ (s1 = holdReady (closeLeaf s0 q c (s0.core c).ran) q.tag)
      ∧ (wantsSuspend s1 q c = false)
      ∧ (passedOver s1 q c = false))
    ∧ (∃ (c : Fin 8) (ra : Fin 64) (imm : BitVec 32) (s : State) (s0 : State) (s1 : State) (q : Quire),
      (Issues c 0 [ra.val] q s)
      ∧ ((s.core c).inHandler = false)
      ∧ ((s.core c).cx.pc + 8 ≤ q.code.len)
      ∧ (imm.extractLsb' 0 16 ≠ 0#16)
      ∧ ((s.core c).loops = [])
      ∧ ((s.core c).takes = [])
      ∧ (refOk (s.landed c) q (s.getS c ra) = true)
      ∧ (refRemote s (s.getS c ra) = true)
      ∧ (0 < (s.core c).cycle)
      ∧ (s0 = (s.landed c).waitCore c ((s.landed c).enginesDone c))
      ∧ (s1 = holdReady (closeLeaf s0 q c (s0.core c).ran) q.tag)
      ∧ (wantsSuspend s1 q c = true ∨ passedOver s1 q c = true))
    ∧ (∃ (c : Fin 8) (ra : Fin 64) (imm : BitVec 32) (s : State) (q : Quire),
      (Issues c 0 [ra.val] q s)
      ∧ ((s.core c).inHandler = false)
      ∧ ((s.core c).cx.pc + 8 ≤ q.code.len)
      ∧ (imm.extractLsb' 0 16 ≠ 0#16)
      ∧ ((s.core c).loops = [])
      ∧ ((s.core c).sigs = [])
      ∧ (refOk (s.landed c) q (s.getS c ra) = true)
      ∧ (refRemote s (s.getS c ra) = true)
      ∧ ((s.core c).cycle = 0)) :=
  ⟨⟨0, 1, 1, wl (cores [(1, 0x0000000500004100#64)]) qlive, qlive, ⟨rfl, rfl, Or.inl rfl, Or.inr (by decide), rfl,
    by decide⟩, by decide +kernel, rfl, by decide +kernel⟩,
    ⟨0, 1, 1, .none, wl (cores [(1, 0x0000000500004100#64)]) qlive, _, qlive, { st := .stale }, ⟨rfl, rfl, Or.inl rfl,
      Or.inr (by decide), rfl, by decide⟩, by decide +kernel, rfl, by decide +kernel, by decide +kernel, by decide +kernel,
        rfl⟩,
    ⟨0, 7, wl { core0 with retry := some (7, 0) } qlive, 0, rfl⟩,
    ⟨0, 1, 1, wfar core0, qlive, ⟨rfl, rfl, Or.inl rfl, Or.inr (by decide), rfl, by decide⟩, by decide +kernel, rfl,
      by decide +kernel, by decide +kernel⟩,
    ⟨0, 1, 1, .mended, wl (cores [(1, 0x0000000500004100#64)]) qlive, _, _, qlive, { st := .stale }, ⟨rfl, rfl, Or.inl rfl,
      Or.inr (by decide), rfl, by decide⟩, by decide +kernel, by decide +kernel, by decide +kernel, rfl, rfl,
        by decide +kernel, by decide +kernel, rfl, rfl, by decide +kernel, by decide +kernel⟩,
    ⟨0, 1, 1, .none, { wl (cores [(1, 0x0000000500004100#64)]) qlive with clusters := Vector.replicate 4 { objs := [(0x4100, { owner := 5 })] } },
      _, _, qlive, { st := .empty, owner := 5 }, ⟨rfl, rfl, Or.inl rfl, Or.inr (by decide), rfl, by decide⟩,
        by decide +kernel, by decide +kernel, by decide +kernel, rfl, rfl, by decide +kernel, by decide +kernel, rfl, rfl,
          rfl, Or.inl (by decide +kernel)⟩,
    ⟨0, 1, 1, wfar { core0 with cycle := 1 }, _, _, qlive, ⟨rfl, rfl, Or.inl rfl, Or.inr (by decide), rfl, by decide⟩,
      by decide +kernel, by decide +kernel, by decide +kernel, rfl, rfl, by decide +kernel, by decide +kernel,
        by decide +kernel, rfl, rfl, rfl, rfl⟩,
    ⟨0, 1, 1, { wfar { core0 with cycle := 1, preempt := true } with quires := [(5, { qlive with kind := .yardstick })] }, _,
      _, { qlive with kind := .yardstick }, ⟨rfl, rfl, Or.inl rfl, Or.inr (by decide), rfl, by decide⟩, by decide +kernel,
        by decide +kernel, by decide +kernel, rfl, rfl, by decide +kernel, by decide +kernel, by decide +kernel, rfl, rfl,
          Or.inl (by decide +kernel)⟩,
    ⟨0, 1, 1, wfar core0, qlive, ⟨rfl, rfl, Or.inl rfl, Or.inr (by decide), rfl, by decide⟩, by decide +kernel,
      by decide +kernel, by decide +kernel, rfl, rfl, by decide +kernel, by decide +kernel, rfl⟩⟩

theorem test_met_Leaves_end_and_handlers_return :
    (∃ (c : Fin 8) (cycles : Nat) (last : Bool) (live : List Extent) (s : State) (s0 : State) (u : State) (q : Quire) (q1 :
      Quire),
      (Issues c 0 [] q s)
      ∧ ((s.core c).inHandler = false)
      ∧ ((s.core c).cx.pc + 8 ≤ q.code.len)
      ∧ ((s.core c).loops = [])
      ∧ ((s.core c).takes = [])
      ∧ (s0 = ((s.landed c).waitCore c ((s.landed c).enginesDone c)).setCore c (issued 1 1))
      ∧ (u = (closeLeaf s0 q c (max cycles (s0.core c).ran)).setQuire q.tag.toNat (fun q =>
        { q with live := live, done0 := q.done0 || (last && c.val % 2 == 0), done1 := q.done1 || (last && c.val % 2 == 1) }))
      ∧ (tget? u.quires q.tag.toNat = some q1)
      ∧ (q1.tag = q.tag)
      ∧ (q1.finished = true))
    ∧ (∃ (c : Fin 8) (cycles : Nat) (last : Bool) (live : List Extent) (s : State) (s0 : State) (u : State) (q : Quire) (q1 :
      Quire),
      (Issues c 0 [] q s)
      ∧ ((s.core c).inHandler = false)
      ∧ ((s.core c).cx.pc + 8 ≤ q.code.len)
      ∧ ((s.core c).loops = [])
      ∧ ((s.core c).takes = [])
      ∧ (s0 = ((s.landed c).waitCore c ((s.landed c).enginesDone c)).setCore c (issued 1 1))
      ∧ (u = (closeLeaf s0 q c (max cycles (s0.core c).ran)).setQuire q.tag.toNat (fun q =>
        { q with live := live, done0 := q.done0 || (last && c.val % 2 == 0), done1 := q.done1 || (last && c.val % 2 == 1) }))
      ∧ (tget? u.quires q.tag.toNat = some q1)
      ∧ (q1.tag = q.tag)
      ∧ (q1.finished = false))
    ∧ (∃ (c : Fin 8) (s : State) (q : Quire),
      (Issues c 0 [] q s)
      ∧ ((s.core c).inHandler = false)
      ∧ ((s.core c).cx.pc + 8 ≤ q.code.len)
      ∧ ((s.core c).loops = [])
      ∧ ((s.core c).takes ≠ []))
    ∧ (∃ (c : Fin 8) (s : State) (q : Quire),
      ((s.core c).leaf = some q.tag)
      ∧ (tget? s.quires q.tag.toNat = some q)
      ∧ ((s.core c).overrun = false)
      ∧ ((s.core c).inHandler = false))
    ∧ (∃ (c : Fin 8) (s : State) (q : Quire),
      ((s.core c).leaf = some q.tag)
      ∧ (tget? s.quires q.tag.toNat = some q)
      ∧ ((s.core c).overrun = false)
      ∧ ((s.core c).inHandler = true))
    ∧ (∃ (c : Fin 8) (s : State) (q : Quire),
      ((s.core c).leaf = some q.tag)
      ∧ (tget? s.quires q.tag.toNat = some q)
      ∧ ((s.core c).overrun = true))
    ∧ (∃ (c : Fin 8) (s : State) (u : State) (q : Quire),
      ((s.core c).leaf = some q.tag)
      ∧ (tget? s.quires q.tag.toNat = some q)
      ∧ ((s.core c).inHandler = true)
      ∧ (u = (s.setCore c fun x => Core.idle 4 { swapShadow x with inHandler := false }))
      ∧ (((s.core c).preempt = false ∨ (s.core c).remoteWait = false))
      ∧ ((s.core c).overrunHeld = false))
    ∧ (∃ (c : Fin 8) (s : State) (u : State) (q : Quire),
      ((s.core c).leaf = some q.tag)
      ∧ (tget? s.quires q.tag.toNat = some q)
      ∧ ((s.core c).inHandler = true)
      ∧ (u = (s.setCore c fun x => Core.idle 4 { swapShadow x with inHandler := false }))
      ∧ ((s.core c).preempt = true)
      ∧ ((s.core c).remoteWait = true))
    ∧ (∃ (c : Fin 8) (s : State) (u : State) (q : Quire),
      ((s.core c).leaf = some q.tag)
      ∧ (tget? s.quires q.tag.toNat = some q)
      ∧ ((s.core c).inHandler = true)
      ∧ (u = (s.setCore c fun x => Core.idle 4 { swapShadow x with inHandler := false }))
      ∧ (((s.core c).preempt = false ∨ (s.core c).remoteWait = false))
      ∧ ((s.core c).overrunHeld = true))
    ∧ (∃ (c : Fin 8) (s : State) (q : Quire),
      ((s.core c).leaf = some q.tag)
      ∧ (tget? s.quires q.tag.toNat = some q)
      ∧ ((s.core c).inHandler = false))
    ∧ (∃ (c : Fin 8) (s : State) (q : Quire),
      ((s.core c).leaf = some q.tag)
      ∧ (tget? s.quires q.tag.toNat = some q)
      ∧ (((s.core c).remoteWait = false ∨ (s.core c).inHandler = true)))
    ∧ (∃ (c : Fin 8) (s : State) (u : State) (q : Quire),
      ((s.core c).leaf = some q.tag)
      ∧ (tget? s.quires q.tag.toNat = some q)
      ∧ ((s.core c).remoteWait = true)
      ∧ ((s.core c).inHandler = false)
      ∧ (s.liveOn (otherCore c) q.tag = false)
      ∧ (u = s.setCore c (Core.idle 6)))
    ∧ (∃ (c : Fin 8) (s : State) (tag : BitVec 16),
      ((s.core c).leaf = some tag)) :=
  ⟨⟨0, 1, true, [], wl core0 { qlive with prog := some prog0 }, _, _, { qlive with prog := some prog0 }, _, ⟨rfl, rfl,
    Or.inl rfl, Or.inr (by decide), rfl, by decide⟩, by decide +kernel, by decide +kernel, rfl, rfl, rfl, rfl, rfl, rfl,
      rfl⟩,
    ⟨0, 1, false, [], wl core0 qlive, _, _, qlive, _, ⟨rfl, rfl, Or.inl rfl, Or.inr (by decide), rfl, by decide⟩,
      by decide +kernel, by decide +kernel, rfl, rfl, rfl, rfl, rfl, rfl, rfl⟩,
    ⟨0, wl { core0 with takes := [(0, 1)] } qlive, qlive, ⟨rfl, rfl, Or.inl rfl, Or.inr (by decide), rfl, by decide⟩,
      by decide +kernel, by decide +kernel, rfl, by decide +kernel⟩,
    ⟨0, wl core0 qlive, qlive, rfl, rfl, by decide +kernel, by decide +kernel⟩,
    ⟨0, wl { core0 with inHandler := true } qlive, qlive, rfl, rfl, by decide +kernel, by decide +kernel⟩,
    ⟨0, wl { core0 with overrun := true } qlive, qlive, rfl, rfl, by decide +kernel⟩,
    ⟨0, wl { core0 with inHandler := true } qlive, _, qlive, rfl, rfl, by decide +kernel, rfl, by decide +kernel,
      by decide +kernel⟩,
    ⟨0, wl { core0 with inHandler := true, preempt := true, wait := some { ref := 0, n := 1, limit := 9, rd := 0, remote := true } }
      qlive, _, qlive, rfl, rfl, by decide +kernel, rfl, by decide +kernel, by decide +kernel⟩,
    ⟨0, wl { core0 with inHandler := true, overrunHeld := true } qlive, _, qlive, rfl, rfl, by decide +kernel, rfl,
      by decide +kernel, by decide +kernel⟩,
    ⟨0, wl core0 qlive, qlive, rfl, rfl, by decide +kernel⟩,
    ⟨0, wl core0 qlive, qlive, rfl, rfl, by decide +kernel⟩,
    ⟨0, wl { core0 with wait := some { ref := 0, n := 1, limit := 9, rd := 0, remote := true } } qlive, _, qlive, rfl, rfl,
      by decide +kernel, by decide +kernel, by decide +kernel, rfl⟩,
    ⟨0, wl core0 qlive, 5, rfl⟩⟩

theorem test_met_The_matrix_array_runs_its_operations :
    (∃ (c : Fin 8) (eng : Bool) (sa : Fin 64) (s : State) (q : Quire),
      (IssuesEng c eng sa 1 1 q s)
      ∧ (arrayModeFault (arrayModeOf (s.getS c sa.val).toNat) = none))
    ∧ (∃ (c : Fin 8) (eng : Bool) (sa : Fin 64) (par : Option Nat) (s : State) (q : Quire) (m : ArrayMode) (w : Nat) (addr :
      Nat) (stride : Int) (lo : Int) (hi : Int),
      (IssuesEng c eng sa 1 1 q s)
      ∧ ((s.eng (engOf c eng)).mode = some m)
      ∧ (w = (s.getS c sa.val).toNat)
      ∧ (addr = bits w 0 22)
      ∧ (stride = sx 16 (bits w 22 16))
      ∧ (strideSpan addr (64 * stride) (if m.isComplex then 128 else 256) 256 = (lo, hi))
      ∧ (addr % 64 = 0)
      ∧ (4 ≤ stride.natAbs)
      ∧ (q.spadWin.holds lo hi = true)
      ∧ (parityHit (s.landed c) q c 1 par (loadReads (engOf c eng) m addr stride) = false))
    ∧ (∃ (c : Fin 8) (eng : Bool) (sa : Fin 64) (par : Option Nat) (s : State) (q : Quire) (m : ArrayMode) (o : StreamOps),
      (IssuesEng c eng sa 2 1 q s)
      ∧ ((s.eng (engOf c eng)).mode = some m)
      ∧ (o = streamOpsOf (s.getS c sa.val).toNat (s.getS c (sa.val + 1)).toNat)
      ∧ (streamFault q (s.eng (engOf c eng)) m o = none)
      ∧ (parityHit (s.landed c) q c 1 par (streamReads (s.eng (engOf c eng)) (engOf c eng) m o) = false))
    ∧ (∃ (c : Fin 8) (eng : Bool) (sa : Fin 64) (par : Option Nat) (s : State) (u : State) (q : Quire) (o : DrainOps) (fl :
      Sticky),
      (IssuesEng c eng sa 2 1 q s)
      ∧ (o = drainOpsOf (s.getS c sa.val).toNat (s.getS c (sa.val + 1)).toNat)
      ∧ (drainFault q (s.eng (engOf c eng)) o = none)
      ∧ (drainGo o (engOf c eng) o.rows 0 (timeDrain (s.landed c) c (engOf c eng) (ceilDiv o.rowBytes 256) (drainSpans o),
        {}) = (u, fl))
      ∧ (parityHit (s.landed c) q c 1 par (drainReads (engOf c eng) o) = false))
    ∧ (∃ (e : Engine) (o : StreamOps),
      (o.count = 0 ∨ o.op = 3 ∨ 256 < o.active ∨ e.tileValid = false))
    ∧ (∃ (e : Engine) (m : ArrayMode) (o : StreamOps),
      (o.count ≠ 0)
      ∧ (o.op ≠ 3)
      ∧ (o.active ≤ 256)
      ∧ ((m.isComplex = true → o.active % 2 = 0))
      ∧ (e.tileValid = true)
      ∧ (o.xAddr % 64 ≠ 0)) :=
  ⟨⟨0, false, 63, we (cores [(63, 0x4200)]) {}, qlive, ⟨⟨rfl, rfl, Or.inl rfl, Or.inr (by decide), rfl, by decide⟩,
    by decide, rfl⟩, by decide +kernel⟩,
    ⟨0, false, 1, none, we (cores [(1, 4 * 2 ^ 22)]) { mode := some mode0 }, qlive, mode0, _, 0, 4, 0, 65536, ⟨⟨rfl, rfl,
      Or.inl rfl, Or.inr (by decide), rfl, by decide⟩, by decide, rfl⟩, by decide +kernel, rfl, by decide +kernel,
        by decide +kernel, by decide +kernel, by decide +kernel, by decide +kernel, by decide +kernel, by decide +kernel⟩,
    ⟨0, false, 1, none, we (cores [(1, 2 ^ 38)]) { mode := some mode0, tileValid := true, wStride := 4, wAddr := 0x100000 },
      qlive, mode0, _, ⟨⟨rfl, rfl, Or.inl rfl, Or.inr (by decide), rfl, by decide⟩, by decide, rfl⟩, by decide +kernel, rfl,
        by decide +kernel, rfl⟩,
    ⟨0, false, 1, none, we (cores [(1, 2 ^ 22 * 16), (2, 2 ^ 12 + 3 * 2 ^ 37)]) {}, _, qlive, _, _, ⟨⟨rfl, rfl, Or.inl rfl,
      Or.inr (by decide), rfl, by decide⟩, by decide, rfl⟩, rfl, by decide +kernel, pairEta _, rfl⟩,
    ⟨{}, streamOpsOf 0 0, by decide +kernel⟩,
    ⟨{ tileValid := true }, mode0, streamOpsOf (2 ^ 38 + 1) 0, by decide +kernel, by decide +kernel, by decide +kernel,
      nofun, by decide +kernel, by decide +kernel⟩⟩

theorem test_met_Vector_instructions_run_in_register_mode :
    (∃ (c : Fin 8) (eng : Bool) (reg : Byte) (mask : Fin 8) (mz : Bool) (w : BitVec 64) (s : State) (q : Quire) (u : State)
      (i : Instr),
      (((i = .vecIntArith c eng reg mask mz w ∧ (stgOf w).cls = 0) ∨ (i = .vecLogic c eng reg mask mz w
        ∧ (stgOf w).cls = 1) ∨ (i = .vecFloatArith c eng reg mask mz w
          ∧ (stgOf w).cls = 2) ∨ (i = .vecFdivRoot c eng reg mask mz w
            ∧ (stgOf w).cls = 3) ∨ (i = .vecComplexArith c eng reg mask mz w
              ∧ (stgOf w).cls = 4) ∨ (i = .cmp c eng reg mask mz w ∧ (stgOf w).cls = 5) ∨ (i = .sel c eng reg mask mz w
                ∧ (stgOf w).cls = 6) ∨ (i = .cvt c eng reg mask mz w ∧ (stgOf w).cls = 7) ∨ (i = .act c eng reg mask mz w
                  ∧ (stgOf w).cls = 8) ∨ (i = .perm c eng reg mask mz w
                    ∧ (stgOf w).opc = 0x90) ∨ (i = .shuf c eng reg mask mz w
                      ∧ (stgOf w).opc = 0x91) ∨ (i = .packc c eng reg mask mz w
                        ∧ (stgOf w).opc = 0x92) ∨ (i = .unpackc c eng reg mask mz w ∧ (stgOf w).opc = 0x93)))
      ∧ (Issues c 2 (sRegs (stgOf w).srcs) q s)
      ∧ ((s.eng (engOf c eng)).retired = false)
      ∧ ((stgOf w).illegal (s.eng (engOf c eng)).acts reg.toNat = false)
      ∧ ((stgOf w).formatOk = true)
      ∧ (u = timeVec (s.landed c) c (engOf c eng) (stgOf w).cost ((0x70 + mask.val) :: (stgOf w).srcs) ((stgOf w).writes
        reg.toNat)))
    ∧ (∃ (c : Fin 8) (eng : Bool) (reg : Byte) (mask : Fin 8) (w : BitVec 64) (s : State) (q : Quire) (u : State),
      ((stgOf w).cls = 10)
      ∧ (Issues c 2 (sRegs (stgOf w).srcs) q s)
      ∧ ((s.eng (engOf c eng)).retired = false)
      ∧ ((stgOf w).illegal (s.eng (engOf c eng)).acts reg.toNat = false)
      ∧ ((stgOf w).formatOk = true)
      ∧ (u = timeVec (s.landed c) c (engOf c eng) (stgOf w).cost ((0x70 + mask.val) :: (stgOf w).srcs) ((stgOf w).writes
        reg.toNat)))
    ∧ (∃ (c : Fin 8) (eng : Bool) (reg : Byte) (mask : Fin 8) (w : BitVec 64) (s : State) (q : Quire) (u : State),
      ((stgOf w).cls = 11)
      ∧ (Issues c 2 (sRegs (stgOf w).srcs) q s)
      ∧ ((s.eng (engOf c eng)).retired = false)
      ∧ ((stgOf w).illegal (s.eng (engOf c eng)).acts reg.toNat = false)
      ∧ ((stgOf w).formatOk = true)
      ∧ (u = timeVec (s.landed c) c (engOf c eng) (stgOf w).cost ((0x70 + mask.val) :: (stgOf w).srcs) ((stgOf w).writes
        reg.toNat)))
    ∧ (∃ (c : Fin 8) (eng : Bool) (reg : Byte) (mask : Fin 8) (mz : Bool) (w : BitVec 64) (s : State) (q : Quire) (u : State)
      (i : Instr),
      (((i = .ins c eng reg mask mz w ∧ (stgOf w).opc = 0xC0) ∨ (i = .ext c eng reg mask mz w ∧ (stgOf w).opc = 0xC1)))
      ∧ (Issues c 2 (sRegs (stgOf w).srcs) q s)
      ∧ ((s.eng (engOf c eng)).retired = false)
      ∧ ((stgOf w).illegal (s.eng (engOf c eng)).acts reg.toNat = false)
      ∧ ((stgOf w).formatOk = true)
      ∧ (u = timeVec (s.landed c) c (engOf c eng) (stgOf w).cost ((0x70 + mask.val) :: (stgOf w).srcs) ((stgOf w).writes
        reg.toNat)))
    ∧ (∃ (t : Stg) (e : Nat) (i : Nat),
      (e < 16)
      ∧ (t.cls ≠ 5)
      ∧ (t.isUnpack = false)
      ∧ (i < 64))
    ∧ (∃ (e : Nat),
      (e < 16))
    ∧ (∃ (t : Stg) (e : Nat),
      (e < 16)
      ∧ (t.cls = 5))
    ∧ (∃ (t : Stg) (e : Nat),
      (e < 16)
      ∧ (t.cls ≠ 5))
    ∧ (∃ (t : Stg) (e : Nat) (reg : Nat) (r : _),
      (e < 16)
      ∧ (t.cls ≠ 5)
      ∧ (r ≠ reg)
      ∧ ((t.isUnpack = true → r ≠ t.b)))
    ∧ (∃ (c : Fin 8) (eng : Bool) (reg : Byte) (mask : Fin 8) (mz : Bool) (w : BitVec 64) (s : State) (q : Quire) (i :
      Instr),
      (Issues c 2 (sRegs (stgOf w).srcs) q s)
      ∧ ((s.eng (engOf c eng)).retired = false)
      ∧ (q.state ≠ .ended)
      ∧ (q.state ≠ .faulted)
      ∧ (((i = .vecIntArith c eng reg mask mz w ∧ (((stgOf w).cls ≠ 0) ∨ (stgOf w).illegal (s.eng (engOf c eng)).acts
        reg.toNat = true)) ∨ (i = .vecLogic c eng reg mask mz w
          ∧ (((stgOf w).cls ≠ 1) ∨ (stgOf w).illegal (s.eng (engOf c eng)).acts reg.toNat = true)) ∨ (i = .vecFloatArith c
            eng reg mask mz w ∧ (((stgOf w).cls ≠ 2) ∨ (stgOf w).illegal (s.eng (engOf c eng)).acts reg.toNat = true)) ∨ (i =
              .vecFdivRoot c eng reg mask mz w ∧ (((stgOf w).cls ≠ 3) ∨ (stgOf w).illegal (s.eng (engOf c eng)).acts
                reg.toNat = true)) ∨ (i = .vecComplexArith c eng reg mask mz w
                  ∧ (((stgOf w).cls ≠ 4) ∨ (stgOf w).illegal (s.eng (engOf c eng)).acts reg.toNat = true)) ∨ (i = .cmp c eng
                    reg mask mz w ∧ (((stgOf w).cls ≠ 5) ∨ (stgOf w).illegal (s.eng (engOf c eng)).acts reg.toNat = true)) ∨
                      (i = .sel c eng reg mask mz w ∧ (((stgOf w).cls ≠ 6) ∨ (stgOf w).illegal (s.eng (engOf c eng)).acts
                        reg.toNat = true)) ∨ (i = .cvt c eng reg mask mz w
                          ∧ (((stgOf w).cls ≠ 7) ∨ (stgOf w).illegal (s.eng (engOf c eng)).acts reg.toNat = true)) ∨ (i =
                            .act c eng reg mask mz w ∧ (((stgOf w).cls ≠ 8) ∨ (stgOf w).illegal (s.eng (engOf c eng)).acts
                              reg.toNat = true)) ∨ (i = .perm c eng reg mask mz w
                                ∧ (((stgOf w).opc ≠ 0x90) ∨ (stgOf w).illegal (s.eng (engOf c eng)).acts reg.toNat = true)) ∨
                                  (i = .shuf c eng reg mask mz w
                                    ∧ (((stgOf w).opc ≠ 0x91) ∨ (stgOf w).illegal (s.eng (engOf c eng)).acts reg.toNat =
                                      true)) ∨ (i = .packc c eng reg mask mz w
                                        ∧ (((stgOf w).opc ≠ 0x92) ∨ (stgOf w).illegal (s.eng (engOf c eng)).acts reg.toNat =
                                          true)) ∨ (i = .unpackc c eng reg mask mz w
                                            ∧ (((stgOf w).opc ≠ 0x93) ∨ (stgOf w).illegal (s.eng (engOf c eng)).acts
                                              reg.toNat = true)) ∨ (i = .red c eng reg mask mz w
                                                ∧ (((stgOf w).cls ≠ 10) ∨ (stgOf w).illegal (s.eng (engOf c eng)).acts
                                                  reg.toNat = true)) ∨ (i = .maskOp c eng reg mask mz w
                                                    ∧ (((stgOf w).cls ≠ 11) ∨ (stgOf w).illegal (s.eng (engOf c eng)).acts
                                                      reg.toNat = true)) ∨ (i = .ins c eng reg mask mz w
                                                        ∧ (((stgOf w).opc ≠ 0xC0) ∨ (stgOf w).illegal (s.eng (engOf c
                                                          eng)).acts reg.toNat = true)) ∨ (i = .ext c eng reg mask mz w
                                                            ∧ (((stgOf w).opc ≠ 0xC1) ∨ (stgOf w).illegal (s.eng (engOf c
                                                              eng)).acts reg.toNat = true)))))
    ∧ (∃ (c : Fin 8) (eng : Bool) (reg : Byte) (mask : Fin 8) (mz : Bool) (w : BitVec 64) (s : State) (q : Quire) (i :
      Instr),
      (Issues c 2 (sRegs (stgOf w).srcs) q s)
      ∧ ((s.eng (engOf c eng)).retired = false)
      ∧ (q.state ≠ .ended)
      ∧ (q.state ≠ .faulted)
      ∧ (((i = .vecIntArith c eng reg mask mz w ∧ (stgOf w).cls = 0) ∨ (i = .vecLogic c eng reg mask mz w
        ∧ (stgOf w).cls = 1) ∨ (i = .vecFloatArith c eng reg mask mz w
          ∧ (stgOf w).cls = 2) ∨ (i = .vecFdivRoot c eng reg mask mz w
            ∧ (stgOf w).cls = 3) ∨ (i = .vecComplexArith c eng reg mask mz w
              ∧ (stgOf w).cls = 4) ∨ (i = .cmp c eng reg mask mz w ∧ (stgOf w).cls = 5) ∨ (i = .sel c eng reg mask mz w
                ∧ (stgOf w).cls = 6) ∨ (i = .cvt c eng reg mask mz w ∧ (stgOf w).cls = 7) ∨ (i = .act c eng reg mask mz w
                  ∧ (stgOf w).cls = 8) ∨ (i = .perm c eng reg mask mz w
                    ∧ (stgOf w).opc = 0x90) ∨ (i = .shuf c eng reg mask mz w
                      ∧ (stgOf w).opc = 0x91) ∨ (i = .packc c eng reg mask mz w
                        ∧ (stgOf w).opc = 0x92) ∨ (i = .unpackc c eng reg mask mz w
                          ∧ (stgOf w).opc = 0x93) ∨ (i = .red c eng reg mask mz w
                            ∧ (stgOf w).cls = 10) ∨ (i = .maskOp c eng reg mask mz w
                              ∧ (stgOf w).cls = 11) ∨ (i = .ins c eng reg mask mz w
                                ∧ (stgOf w).opc = 0xC0) ∨ (i = .ext c eng reg mask mz w ∧ (stgOf w).opc = 0xC1)))
      ∧ ((stgOf w).illegal (s.eng (engOf c eng)).acts reg.toNat = false)
      ∧ ((stgOf w).formatOk = false))
    ∧ (∃ (c : Fin 8) (eng : Bool) (reg : Byte) (mask : Fin 8) (mz : Bool) (w : BitVec 64) (s : State) (q : Quire) (i :
      Instr),
      (Issues c 2 (sRegs (stgOf w).srcs) q s)
      ∧ ((s.eng (engOf c eng)).retired = true)
      ∧ (((i = .vecIntArith c eng reg mask mz w ∧ True) ∨ (i = .vecLogic c eng reg mask mz w
        ∧ True) ∨ (i = .vecFloatArith c eng reg mask mz w ∧ True) ∨ (i = .vecFdivRoot c eng reg mask mz w
          ∧ True) ∨ (i = .vecComplexArith c eng reg mask mz w ∧ True) ∨ (i = .cmp c eng reg mask mz w
            ∧ True) ∨ (i = .sel c eng reg mask mz w ∧ True) ∨ (i = .cvt c eng reg mask mz w
              ∧ True) ∨ (i = .act c eng reg mask mz w ∧ True) ∨ (i = .perm c eng reg mask mz w
                ∧ True) ∨ (i = .shuf c eng reg mask mz w ∧ True) ∨ (i = .packc c eng reg mask mz w
                  ∧ True) ∨ (i = .unpackc c eng reg mask mz w ∧ True) ∨ (i = .red c eng reg mask mz w
                    ∧ True) ∨ (i = .maskOp c eng reg mask mz w ∧ True) ∨ (i = .ins c eng reg mask mz w
                      ∧ True) ∨ (i = .ext c eng reg mask mz w ∧ True)))) :=
  ⟨⟨0, false, 0, 0, false, 0, we core0 {}, qlive, _, .vecIntArith 0 false 0 0 false 0, Or.inl ⟨rfl, by decide +kernel⟩, ⟨rfl,
    rfl, Or.inl rfl, Or.inr (by decide), rfl, by decide⟩, by decide +kernel, by decide +kernel, by decide +kernel, rfl⟩,
    ⟨0, false, 0, 0, 0xA000000000000000#64, we core0 {}, qlive, _, rfl, ⟨rfl, rfl, Or.inl rfl, Or.inr (by decide), rfl,
      by decide⟩, by decide +kernel, by decide +kernel, by decide +kernel, rfl⟩,
    ⟨0, false, 0x71, 0, 0xB00038B880000000#64, we core0 {}, qlive, _, rfl, ⟨rfl, rfl, Or.inl rfl, Or.inr (by decide), rfl,
      by decide⟩, by decide +kernel, by decide +kernel, by decide +kernel, rfl⟩,
    ⟨0, false, 0, 0, false, 0xC000100000000000#64, we core0 {}, qlive, _, .ins 0 false 0 0 false 0xC000100000000000#64,
      Or.inl ⟨rfl, by decide +kernel⟩, ⟨rfl, rfl, Or.inl rfl, Or.inr (by decide), rfl, by decide⟩, by decide +kernel,
        by decide +kernel, by decide +kernel, rfl⟩,
    ⟨stgOf 0, 0, 5, by decide +kernel, by decide +kernel, by decide +kernel, by decide +kernel⟩,
    ⟨0, by decide +kernel⟩,
    ⟨stgOf 0x5000000000000000#64, 0, by decide +kernel, rfl⟩,
    ⟨stgOf 0, 0, by decide +kernel, by decide +kernel⟩,
    ⟨stgOf 0, 0, 1, 2, by decide +kernel, by decide +kernel, by decide +kernel, fun h => absurd h (by decide +kernel)⟩,
    ⟨0, false, 0, 0, false, 0x0F00000000000000#64, we core0 {}, qlive, .vecIntArith 0 false 0 0 false 0x0F00000000000000#64,
      ⟨rfl, rfl, Or.inl rfl, Or.inr (by decide), rfl, by decide⟩, by decide +kernel, nofun, nofun, Or.inl ⟨rfl,
        Or.inr (by decide +kernel)⟩⟩,
    ⟨0, false, 0, 0, false, 0x2000000000000000#64, we core0 {}, qlive,
      .vecFloatArith 0 false 0 0 false 0x2000000000000000#64, ⟨rfl, rfl, Or.inl rfl, Or.inr (by decide), rfl, by decide⟩,
        by decide +kernel, nofun, nofun, Or.inr (Or.inr (Or.inl ⟨rfl, by decide +kernel⟩)), by decide +kernel,
          by decide +kernel⟩,
    ⟨0, false, 0, 0, false, 0, we core0 { retired := true }, qlive, .vecIntArith 0 false 0 0 false 0, ⟨rfl, rfl, Or.inl rfl,
      Or.inr (by decide), rfl, by decide⟩, by decide +kernel, Or.inl ⟨rfl, trivial⟩⟩⟩

theorem test_met_Vector_memory_and_chains_run :
    (∃ (c : Fin 8) (eng : Bool) (sa : Fin 64) (reg : Byte) (mask : Fin 8) (par : Option Nat) (s : State) (q : Quire) (x :
      StreamW) (gm : Nat) (l : List Nat) (f : Sticky),
      (Issues c 2 [sa.val] q s)
      ∧ ((s.eng (engOf c eng)).retired = false)
      ∧ (x = streamWOf (s.getS c sa.val).toNat)
      ∧ (gm = (s.eng (engOf c eng)).getM mask.val)
      ∧ (accessFault q (s.eng (engOf c eng)) x reg.toNat gm false = none)
      ∧ (loadLanes (s.landed c) (engOf c eng) x.fmt x.addr x.stride gm = (l, f))
      ∧ (parityHit (s.landed c) q c 2 par (lanesRead (engOf c eng) x x.addr x.stride gm false) = false))
    ∧ (∃ (c : Fin 8) (eng : Bool) (sa : Fin 64) (reg : Byte) (mask : Fin 8) (w : BitVec 64) (par : Option Nat) (s : State) (u
      : State) (q : Quire) (x : StreamW) (gm : Nat) (f : Sticky),
      (Issues c 2 [sa.val] q s)
      ∧ ((s.eng (engOf c eng)).retired = false)
      ∧ (x = streamWOf (s.getS c sa.val).toNat)
      ∧ (gm = (s.eng (engOf c eng)).getM mask.val)
      ∧ (accessFault q (s.eng (engOf c eng)) x reg.toNat gm true = none)
      ∧ ((stgOf w).k ≤ 47)
      ∧ (storeLanes (timeAccess (s.landed c) c (engOf c eng) true reg.toNat (bankExtra x.addr x.stride gm) (laneSpans x gm))
        (engOf c eng) x.fmt (stgOf w).k (stgOf w).sat x.addr x.stride gm ((s.eng (engOf c eng)).getV reg.toNat) = (u, f))
      ∧ (parityHit (s.landed c) q c 2 par (lanesRead (engOf c eng) x x.addr x.stride gm true) = false))
    ∧ (∃ (s : State) (e : Nat) (f : Nat) (addr : Int) (stride : Int) (gm : Nat) (b : Nat),
      (s.mem.wf = true)
      ∧ ((∀ i < 64, bit gm i = true → b < spadAt e + (addr + (i : Int) * stride).toNat ∨ spadAt e + (addr + (i : Int) *
        stride).toNat + fmtBytes f ≤ b)))
    ∧ (∃ (c : Fin 8) (eng : Bool) (sa : Fin 64) (reg : Byte) (mask : Fin 8) (s : State) (q : Quire) (x : StreamW) (gm : Nat)
      (f : Nat),
      (Issues c 2 [sa.val] q s)
      ∧ ((s.eng (engOf c eng)).retired = false)
      ∧ (q.state ≠ .ended)
      ∧ (q.state ≠ .faulted)
      ∧ (x = streamWOf (s.getS c sa.val).toNat)
      ∧ (gm = (s.eng (engOf c eng)).getM mask.val)
      ∧ (accessFault q (s.eng (engOf c eng)) x reg.toNat gm false = some f))
    ∧ (∃ (c : Fin 8) (eng : Bool) (sa : Fin 64) (reg : Byte) (mask : Fin 8) (w : BitVec 64) (s : State) (q : Quire) (x :
      StreamW) (gm : Nat) (f : Nat),
      (Issues c 2 [sa.val] q s)
      ∧ ((s.eng (engOf c eng)).retired = false)
      ∧ (q.state ≠ .ended)
      ∧ (q.state ≠ .faulted)
      ∧ (x = streamWOf (s.getS c sa.val).toNat)
      ∧ (gm = (s.eng (engOf c eng)).getM mask.val)
      ∧ ((stgOf w).k ≤ 47)
      ∧ (accessFault q (s.eng (engOf c eng)) x reg.toNat gm true = some f))
    ∧ (∃ (c : Fin 8) (eng : Bool) (sa : Fin 64) (mask : Fin 8) (w : BitVec 64) (s : State) (q : Quire) (x : StreamW) (gm :
      Nat),
      (Issues c 2 [sa.val] q s)
      ∧ ((s.eng (engOf c eng)).retired = false)
      ∧ (q.state ≠ .ended)
      ∧ (q.state ≠ .faulted)
      ∧ (x = streamWOf (s.getS c sa.val).toNat)
      ∧ (gm = (s.eng (engOf c eng)).getM mask.val)
      ∧ (47 < (stgOf w).k))
    ∧ (∃ (c : Fin 8) (eng : Bool) (sa : Fin 64) (par : Option Nat) (s : State) (q : Quire) (a : Nat) (l : List Nat),
      (IssuesEng c eng sa 1 1 q s)
      ∧ (a = bits (s.getS c sa.val).toNat 0 22)
      ∧ (a % 64 = 0)
      ∧ (q.spadWin.holds a (a + 320) = true)
      ∧ (l = leList 4 (s.mem.read (spadAt (engOf c eng) + a) 320))
      ∧ (parityHit (s.landed c) q c 1 par (wordIn · (spadAt (engOf c eng) + a) 320) = false)
      ∧ (tableOk l = true))
    ∧ (∃ (c : Fin 8) (eng : Bool) (sa : Fin 64) (par : Option Nat) (s : State) (q : Quire) (a : Nat) (l : List Nat),
      (IssuesEng c eng sa 1 1 q s)
      ∧ (a = bits (s.getS c sa.val).toNat 0 22)
      ∧ (a % 64 = 0)
      ∧ (q.spadWin.holds a (a + 320) = true)
      ∧ (l = leList 4 (s.mem.read (spadAt (engOf c eng) + a) 320))
      ∧ (parityHit (s.landed c) q c 1 par (wordIn · (spadAt (engOf c eng) + a) 320) = false)
      ∧ (tableOk l = false)
      ∧ (q.state ≠ .ended)
      ∧ (q.state ≠ .faulted))
    ∧ (∃ (c : Fin 8) (eng : Bool) (sa : Fin 64) (s : State) (q : Quire) (a : Nat),
      (IssuesEng c eng sa 1 1 q s)
      ∧ (a = bits (s.getS c sa.val).toNat 0 22)
      ∧ ((a % 64 ≠ 0 ∨ q.spadWin.holds a (a + 320) = false))
      ∧ (q.state ≠ .ended)
      ∧ (q.state ≠ .faulted))
    ∧ (∃ (c : Fin 8) (eng : Bool) (sa : Fin 64) (mask : Fin 8) (stages : List (BitVec 64)) (par : Option Nat) (s : State) (q
      : Quire) (o : ChainOps) (gm : Nat),
      (Issues c (1 + stages.length) ((List.range 4).map (sa.val + ·) ++ sRegs (stages.flatMap fun w => (stgOf w).srcs)) q s)
      ∧ (sa.val ≤ 60)
      ∧ ((s.eng (engOf c eng)).retired = false)
      ∧ (o = chainOpsOf (s.getS c sa.val).toNat (s.getS c (sa.val + 1)).toNat (s.getS c (sa.val + 2)).toNat (s.getS c (sa.val
        + 3)).toNat stages)
      ∧ (gm = (s.eng (engOf c eng)).getM mask.val)
      ∧ (o.fault q (s.eng (engOf c eng)) gm = none)
      ∧ (parityHit (s.landed c) q c (1 + stages.length) par (o.reads (engOf c eng) gm) = false))
    ∧ (∃ (c : Fin 8) (eng : Bool) (sa : Fin 64) (mask : Fin 8) (stages : List (BitVec 64)) (s : State) (q : Quire) (o :
      ChainOps) (gm : Nat) (f : _),
      (Issues c (1 + stages.length) ((List.range 4).map (sa.val + ·) ++ sRegs (stages.flatMap fun w => (stgOf w).srcs)) q s)
      ∧ (sa.val ≤ 60)
      ∧ ((s.eng (engOf c eng)).retired = false)
      ∧ (o = chainOpsOf (s.getS c sa.val).toNat (s.getS c (sa.val + 1)).toNat (s.getS c (sa.val + 2)).toNat (s.getS c (sa.val
        + 3)).toNat stages)
      ∧ (gm = (s.eng (engOf c eng)).getM mask.val)
      ∧ (o.fault q (s.eng (engOf c eng)) gm = some f)
      ∧ (q.state ≠ .ended)
      ∧ (q.state ≠ .faulted))
    ∧ (∃ (o : ChainOps),
      (o.stages = [] ∨ 8 < o.stages.length ∨ o.count = 0 ∨ o.last = 0 ∨ 64 < o.last))
    ∧ (∃ (o : ChainOps) (en : Engine),
      (o.illegal en.acts = false)
      ∧ (o.badFormat = true))
    ∧ (∃ (o : ChainOps) (en : Engine),
      (o.illegal en.acts = false)
      ∧ (o.badFormat = false)
      ∧ ((o.aligned o.l0 false = false ∨ o.aligned o.l1 false = false ∨ o.aligned o.st true = false))) :=
  ⟨⟨0, false, 1, 0, 0, none, we (cores [(1, 8)]) {}, qlive, _, _, _, _, ⟨rfl, rfl, Or.inl rfl, Or.inr (by decide), rfl,
    by decide⟩, by decide +kernel, rfl, rfl, by decide +kernel, pairEta _, rfl⟩,
    ⟨0, false, 1, 0, 0, 0, none, we (cores [(1, 8)]) {}, _, qlive, _, _, _, ⟨rfl, rfl, Or.inl rfl, Or.inr (by decide), rfl,
      by decide⟩, by decide +kernel, rfl, rfl, by decide +kernel, by decide +kernel, pairEta _, rfl⟩,
    ⟨w0, 0, 8, 0, 4, 1, 4, by decide +kernel, by decide +kernel⟩,
    ⟨0, false, 1, 0, 0, we (cores [(1, 15)]) {}, qlive, _, _, _, ⟨rfl, rfl, Or.inl rfl, Or.inr (by decide), rfl, by decide⟩,
      by decide +kernel, nofun, nofun, rfl, rfl, rfl⟩,
    ⟨0, false, 1, 0, 0, 0, we (cores [(1, 15)]) {}, qlive, _, _, _, ⟨rfl, rfl, Or.inl rfl, Or.inr (by decide), rfl,
      by decide⟩, by decide +kernel, nofun, nofun, rfl, rfl, by decide +kernel, rfl⟩,
    ⟨0, false, 1, 0, 0x0018000000000000#64, we (cores [(1, 8)]) {}, qlive, _, _, ⟨rfl, rfl, Or.inl rfl, Or.inr (by decide),
      rfl, by decide⟩, by decide +kernel, nofun, nofun, rfl, rfl, by decide +kernel⟩,
    ⟨0, false, 1, none, { we core0 {} with mem := Mem.write [] 0 ((List.range 15).flatMap fun i => toLE 4 (0x3F800000 + i)) },
      qlive, _, _, ⟨⟨rfl, rfl, Or.inl rfl, Or.inr (by decide), rfl, by decide⟩, by decide, rfl⟩, rfl, by decide +kernel,
        by decide +kernel, rfl, by decide +kernel, by decide +kernel⟩,
    ⟨0, false, 1, none, we core0 {}, qlive, _, _, ⟨⟨rfl, rfl, Or.inl rfl, Or.inr (by decide), rfl, by decide⟩, by decide,
      rfl⟩, rfl, by decide +kernel, by decide +kernel, rfl, by decide +kernel, by decide +kernel, nofun, nofun⟩,
    ⟨0, false, 1, we (cores [(1, 1)]) {}, qlive, _, ⟨⟨rfl, rfl, Or.inl rfl, Or.inr (by decide), rfl, by decide⟩, by decide,
      rfl⟩, rfl, Or.inl (by decide +kernel), nofun, nofun⟩,
    ⟨0, false, 0, 0, [0xA000000000000000#64], none, we (cores [(0, 15), (1, 15), (2, 15), (3, 64 * 2 ^ 20 + 1)]) {}, qlive,
      _, _, ⟨rfl, rfl, Or.inl rfl, Or.inr (by decide), rfl, by decide⟩, by decide +kernel, by decide +kernel, rfl, rfl,
        by decide +kernel, rfl⟩,
    ⟨0, false, 0, 0, [], we (cores [(0, 15), (1, 15), (2, 15), (3, 64 * 2 ^ 20 + 1)]) {}, qlive, _, _, _, ⟨rfl, rfl,
      Or.inl rfl, Or.inr (by decide), rfl, by decide⟩, by decide +kernel, by decide +kernel, rfl, rfl, rfl, nofun, nofun⟩,
    ⟨chainOpsOf 0 0 0 0 [], Or.inl rfl⟩,
    ⟨chainOpsOf 15 15 3 (64 * 2 ^ 20 + 1) [0x2640000000000000#64], {}, by decide +kernel, by decide +kernel⟩,
    ⟨chainOpsOf 15 15 (8 + 2 ^ 4) (64 * 2 ^ 20 + 1) [0x2640000000000000#64], {}, by decide +kernel, by decide +kernel,
      Or.inr (Or.inr (by decide +kernel))⟩⟩

theorem test_met_Dsp_bundles_issue_one_operation_and_three_moves :
    (∃ (c : Fin 8) (w0 : BitVec 64) (w1 : BitVec 64) (par : Option Nat) (i : Instr) (ops : List Nat) (s : State) (q : Quire)
      (b : Bundle) (x : Core) (px : _) (py : _) (pz : _),
      (((i = .cmac c w0 w1 par ∧ ops = [0x01]) ∨ (i = .cmacc c w0 w1 par ∧ ops = [0x02]) ∨ (i = .cmul c w0 w1 par
        ∧ ops = [0x03, 0x04]) ∨ (i = .dmac c w0 w1 par ∧ ops = [0x05]) ∨ (i = .dmul c w0 w1 par
          ∧ ops = [0x06]) ∨ (i = .cmag2 c w0 w1 par ∧ ops = [0x07]) ∨ (i = .dspHalfArith c w0 w1 par ∧ ops = [0x08, 0x09,
            0x0A, 0x0B, 0x0C, 0x0D, 0x0E, 0x0F, 0x10, 0x11]) ∨ (i = .dspLogic c w0 w1 par ∧ ops = [0x12, 0x13,
              0x14]) ∨ (i = .pack c w0 w1 par ∧ ops = [0x15]) ∨ (i = .unpack c w0 w1 par
                ∧ ops = [0x16]) ∨ (i = .mov c w0 w1 par ∧ ops = [0x17, 0x18, 0x00]) ∨ (i = .movsd c w0 w1 par
                  ∧ ops = [0x19]) ∨ (i = .movds c w0 w1 par ∧ ops = [0x1A]) ∨ (i = .dclr c w0 w1 par ∧ ops = [0x1B])))
      ∧ (b = bundleOf w0 w1)
      ∧ (x = (s.landed c).core c)
      ∧ (Issues c 2 b.reads q s)
      ∧ (b.illegal ops = none)
      ∧ (moveCheck (s.landed c) c q b.xb (b.xb.en && !x.noLoads) false = .ok px)
      ∧ (moveCheck (s.landed c) c q b.yb (b.yb.en && !x.noLoads) false = .ok py)
      ∧ (moveCheck (s.landed c) c q b.zb (b.zb.en && !x.noStores) true = .ok pz)
      ∧ (parityHit (s.landed c) q c 2 par (b.readsWord px py pz) = false))
    ∧ (∃ (c : Fin 8) (w0 : BitVec 64) (w1 : BitVec 64) (par : Option Nat) (i : Instr) (ops : List Nat) (s : State) (q :
      Quire) (b : Bundle) (x : Core) (f : _),
      (((i = .cmac c w0 w1 par ∧ ops = [0x01]) ∨ (i = .cmacc c w0 w1 par ∧ ops = [0x02]) ∨ (i = .cmul c w0 w1 par
        ∧ ops = [0x03, 0x04]) ∨ (i = .dmac c w0 w1 par ∧ ops = [0x05]) ∨ (i = .dmul c w0 w1 par
          ∧ ops = [0x06]) ∨ (i = .cmag2 c w0 w1 par ∧ ops = [0x07]) ∨ (i = .dspHalfArith c w0 w1 par ∧ ops = [0x08, 0x09,
            0x0A, 0x0B, 0x0C, 0x0D, 0x0E, 0x0F, 0x10, 0x11]) ∨ (i = .dspLogic c w0 w1 par ∧ ops = [0x12, 0x13,
              0x14]) ∨ (i = .pack c w0 w1 par ∧ ops = [0x15]) ∨ (i = .unpack c w0 w1 par
                ∧ ops = [0x16]) ∨ (i = .mov c w0 w1 par ∧ ops = [0x17, 0x18, 0x00]) ∨ (i = .movsd c w0 w1 par
                  ∧ ops = [0x19]) ∨ (i = .movds c w0 w1 par ∧ ops = [0x1A]) ∨ (i = .dclr c w0 w1 par ∧ ops = [0x1B])))
      ∧ (b = bundleOf w0 w1)
      ∧ (x = (s.landed c).core c)
      ∧ (Issues c 2 b.reads q s)
      ∧ (b.illegal ops = some f)
      ∧ (q.state ≠ .ended)
      ∧ (q.state ≠ .faulted))
    ∧ (∃ (c : Fin 8) (w0 : BitVec 64) (w1 : BitVec 64) (par : Option Nat) (i : Instr) (ops : List Nat) (s : State) (q :
      Quire) (b : Bundle) (x : Core) (f : _),
      (((i = .cmac c w0 w1 par ∧ ops = [0x01]) ∨ (i = .cmacc c w0 w1 par ∧ ops = [0x02]) ∨ (i = .cmul c w0 w1 par
        ∧ ops = [0x03, 0x04]) ∨ (i = .dmac c w0 w1 par ∧ ops = [0x05]) ∨ (i = .dmul c w0 w1 par
          ∧ ops = [0x06]) ∨ (i = .cmag2 c w0 w1 par ∧ ops = [0x07]) ∨ (i = .dspHalfArith c w0 w1 par ∧ ops = [0x08, 0x09,
            0x0A, 0x0B, 0x0C, 0x0D, 0x0E, 0x0F, 0x10, 0x11]) ∨ (i = .dspLogic c w0 w1 par ∧ ops = [0x12, 0x13,
              0x14]) ∨ (i = .pack c w0 w1 par ∧ ops = [0x15]) ∨ (i = .unpack c w0 w1 par
                ∧ ops = [0x16]) ∨ (i = .mov c w0 w1 par ∧ ops = [0x17, 0x18, 0x00]) ∨ (i = .movsd c w0 w1 par
                  ∧ ops = [0x19]) ∨ (i = .movds c w0 w1 par ∧ ops = [0x1A]) ∨ (i = .dclr c w0 w1 par ∧ ops = [0x1B])))
      ∧ (b = bundleOf w0 w1)
      ∧ (x = (s.landed c).core c)
      ∧ (Issues c 2 b.reads q s)
      ∧ (b.illegal ops = none)
      ∧ (q.state ≠ .ended)
      ∧ (q.state ≠ .faulted)
      ∧ ((moveCheck (s.landed c) c q b.xb (b.xb.en && !x.noLoads) false = .error f ∨ (∃ px,
        moveCheck (s.landed c) c q b.xb (b.xb.en && !x.noLoads) false = .ok px
          ∧ (moveCheck (s.landed c) c q b.yb (b.yb.en && !x.noLoads) false = .error f ∨ (∃ py,
            moveCheck (s.landed c) c q b.yb (b.yb.en && !x.noLoads) false = .ok py
              ∧ moveCheck (s.landed c) c q b.zb (b.zb.en && !x.noStores) true = .error f))))))
    ∧ (∃ (b : Bundle),
      (b.cls ≠ 2))
    ∧ (∃ (b : Bundle) (ops : List Nat),
      (b.cls = 2)
      ∧ ((b.op ∉ ops ∨ 31 < b.k ∨ (b.xb.en = true ∧ b.xb.size = 3) ∨ (b.yb.en = true ∧ b.yb.size = 3) ∨ (b.zb.en = true
        ∧ b.zb.size = 3))))
    ∧ (∃ (c : Fin 8) (b : Bundle) (x : Core) (s : State) (o : DspOut) (w : DspWrite),
      (x.inHandler = false)
      ∧ (s.core c = x)
      ∧ (b.op ≠ 0x1A)
      ∧ (b.op ≠ 0x1B)
      ∧ (dspOp b (x.getD b.a) (x.getD b.b) (x.getS (b.a % 64)) = o)
      ∧ (o.w = some w))
    ∧ (∃ (b : Bundle),
      (b.op = 0x1A))
    ∧ (∃ (c : Fin 8) (b : Bundle) (s : State),
      (b.op = 0x1B)
      ∧ ((s.core c).inHandler = false)) :=
  ⟨⟨0, 0x0810000000000000#64, 0, none, .cmac 0 0x0810000000000000#64 0 none, [0x01], wl core0 qlive, qlive, _, _, _, _, _,
    Or.inl ⟨rfl, rfl⟩, rfl, rfl, ⟨rfl, rfl, Or.inl rfl, Or.inr (by decide), by decide +kernel, by decide +kernel⟩, rfl, rfl,
      rfl, rfl, rfl⟩,
    ⟨0, 0x0800000000000000#64, 0, none, .cmac 0 0x0800000000000000#64 0 none, [0x01], wl core0 qlive, qlive, _, _, _,
      Or.inl ⟨rfl, rfl⟩, rfl, rfl, ⟨rfl, rfl, Or.inl rfl, Or.inr (by decide), by decide +kernel, by decide +kernel⟩, rfl,
        nofun, nofun⟩,
    ⟨0, 0x0810000000000000#64, 0x80C0000000000000#64, none, .cmac 0 0x0810000000000000#64 0x80C0000000000000#64 none, [0x01],
      wl core0 qlive, qlive, _, _, _, Or.inl ⟨rfl, rfl⟩, rfl, rfl, ⟨rfl, rfl, Or.inl rfl, Or.inr (by decide),
        by decide +kernel, by decide +kernel⟩, rfl, nofun, nofun, Or.inl (by rfl)⟩,
    ⟨bundleOf 0 0, by decide +kernel⟩,
    ⟨bundleOf 0x0800000000000000#64 0, [0x01], rfl, Or.inl (by decide +kernel)⟩,
    ⟨0, bundleOf 0x0810000000000000#64 0, core0, wl core0 qlive, _, _, by decide +kernel, rfl, by decide +kernel,
      by decide +kernel, rfl, rfl⟩,
    ⟨bundleOf 0x09A0000000000000#64 0, rfl⟩,
    ⟨0, bundleOf 0x09B0000000000000#64 0, wl core0 qlive, rfl, by decide +kernel⟩⟩

theorem test_met_Perm_selects_lanes_by_index :
    (∃ (c : Fin 8) (eng : Bool) (reg : Byte) (mask : Fin 8) (w : BitVec 64) (s : State) (q : Quire) (u : State) (va : List
      Nat) (vb : List Nat) (vi : List Nat),
      ((stgOf w).opc = 0x90)
      ∧ (Issues c 2 (sRegs (stgOf w).srcs) q s)
      ∧ ((s.eng (engOf c eng)).retired = false)
      ∧ ((stgOf w).illegal (s.eng (engOf c eng)).acts reg.toNat = false)
      ∧ ((stgOf w).formatOk = true)
      ∧ (u = timeVec (s.landed c) c (engOf c eng) (stgOf w).cost ((0x70 + mask.val) :: (stgOf w).srcs) ((stgOf w).writes
        reg.toNat))
      ∧ (va = (VEnv.lanes { eng := u.eng (engOf c eng), core := u.core c } (stgOf w).a ((stgOf w).srcRf 0) (stgOf w).imm))
      ∧ (vb = (VEnv.lanes { eng := u.eng (engOf c eng), core := u.core c } (stgOf w).b ((stgOf w).srcRf 1) (stgOf w).imm))
      ∧ (vi = (VEnv.lanes { eng := u.eng (engOf c eng), core := u.core c } (stgOf w).c ((stgOf w).srcRf 2) (stgOf w).imm)))
        :=
  ⟨0, false, 0, 0, 0x9000000000000000#64, we core0 {}, qlive, _, _, _, _, rfl, ⟨rfl, rfl, Or.inl rfl, Or.inr (by decide),
    rfl, by decide⟩, by decide +kernel, by decide +kernel, by decide +kernel, rfl, rfl, rfl, rfl⟩

theorem test_met_A_parity_error_replays_the_leaf :
    (∃ (c : Fin 8) (ra : Fin 64) (imm : BitVec 32) (w : Nat) (s : State) (q : Quire) (a : Nat),
      (Issues c 1 [ra.val] q s)
      ∧ (coreAccess (s.landed c) c q (s.getS c ra + imm.signExtend 64).toNat 8 false none = .ok a)
      ∧ (parityHit (s.landed c) q c 1 (some w) (wordIn · a 8) = true)
      ∧ ((q.parity c).replays < 3)
      ∧ ((q.parity c).words.contains (w - w % 4) = false)
      ∧ ((fetches (s.landed c) q c 1 w && (q.parity c).fetch) = false))
    ∧ (∃ (c : Fin 8) (eng : Bool) (sa : Fin 64) (w : Nat) (s : State) (q : Quire) (m : ArrayMode) (o : StreamOps),
      (IssuesEng c eng sa 2 1 q s)
      ∧ ((s.eng (engOf c eng)).mode = some m)
      ∧ (o = streamOpsOf (s.getS c sa.val).toNat (s.getS c (sa.val + 1)).toNat)
      ∧ (streamFault q (s.eng (engOf c eng)) m o = none)
      ∧ (parityHit (s.landed c) q c 1 (some w) (streamReads (s.eng (engOf c eng)) (engOf c eng) m o) = true)
      ∧ ((q.parity c).replays < 3)
      ∧ ((q.parity c).words.contains (w - w % 4) = false)
      ∧ ((fetches (s.landed c) q c 1 w && (q.parity c).fetch) = false))
    ∧ (∃ (s : State) (t : State) (q : Quire) (c : Fin 8) (fetch : Bool) (w : Nat),
      (tget? s.quires q.tag.toNat = some q)
      ∧ ((q.parity c).replays < 3)
      ∧ ((q.parity c).words.contains (w - w % 4) = false)
      ∧ ((fetch && (q.parity c).fetch) = false)
      ∧ ((s.core c).preempt = false)
      ∧ (memParity s q c fetch w = t))
    ∧ (∃ (q : Quire) (c : Fin 8) (fetch : Bool) (w : Nat),
      (3 ≤ (q.parity c).replays ∨ (q.parity c).words.contains (w - w % 4) = true ∨ (fetch && (q.parity c).fetch) = true))
    ∧ (∃ (e : SyncError),
      (e = .parity ∨ e = .complement))
    ∧ (∃ (i : Nat) (e : SyncError),
      (e = .parity ∨ e = .complement)
      ∧ (isSysObj i = false)) :=
  ⟨⟨0, 2, 0, 5, wl core0 qlive, qlive, 0, ⟨rfl, rfl, Or.inl rfl, Or.inr (by decide), rfl, by decide⟩, rfl, by decide +kernel,
    by decide +kernel, by decide +kernel, by decide +kernel⟩,
    ⟨0, false, 1, 6, we (cores [(1, 2 ^ 38), (2, 4)]) { mode := some mode0, tileValid := true, wStride := 4, wAddr := 0x100000 },
      qlive, mode0, _, ⟨⟨rfl, rfl, Or.inl rfl, Or.inr (by decide), rfl, by decide⟩, by decide, rfl⟩, rfl, rfl,
        by decide +kernel, by decide +kernel, by decide +kernel, by decide +kernel, by decide +kernel⟩,
    ⟨wl core0 qlive, _, qlive, 0, true, 0, rfl, by decide +kernel, by decide +kernel, by decide +kernel, by decide +kernel,
      rfl⟩,
    ⟨{ qlive with par0 := { replays := 3 } }, 0, false, 0, by decide +kernel⟩,
    ⟨.parity, by decide +kernel⟩,
    ⟨0, .parity, by decide +kernel, by decide +kernel⟩⟩

theorem test_met_Quires_start_dispatch_time_out_and_account :
    (∃ (tag : BitVec 16) (p : Prog) (s : State) (u : State) (q : Quire) (g : Grants) (m : Option Nat) (v : Nat),
      (tget? s.quires tag.toNat = some q)
      ∧ (q.state = .ready)
      ∧ (q.prog = none)
      ∧ (startFault s q p = none)
      ∧ (startWaits s q p = false)
      ∧ (findGrants s q p = some g)
      ∧ (readVersion s q = some (m, v, u)))
    ∧ (∃ (tag : BitVec 16) (p : Prog) (s : State) (q : Quire),
      (tget? s.quires tag.toNat = some q)
      ∧ (q.state = .ready)
      ∧ (q.prog = none)
      ∧ ((s.inService q.cluster.val).length < p.positions))
    ∧ (∃ (tag : BitVec 16) (p : Prog) (s : State) (q : Quire),
      (tget? s.quires tag.toNat = some q)
      ∧ (q.state = .ready)
      ∧ (q.prog = none)
      ∧ (p.positions ≤ (s.inService q.cluster.val).length)
      ∧ (s.stageBase = 0)
      ∧ (p.sums.any (fun d => needStaging d s.pressed && !stagingInWindow d p) = true))
    ∧ (∃ (tag : BitVec 16) (p : Prog) (s : State) (q : Quire),
      (tget? s.quires tag.toNat = some q)
      ∧ (q.state = .ready)
      ∧ (q.prog = none)
      ∧ (startFault s q p = none)
      ∧ (startWaits s q p = true))
    ∧ (∃ (tag : BitVec 16) (p : Prog) (s : State) (q : Quire),
      (tget? s.quires tag.toNat = some q)
      ∧ (q.state = .ready)
      ∧ (q.prog = none)
      ∧ (startFault s q p = none)
      ∧ (startWaits s q p = false)
      ∧ (findGrants s q p = none)
      ∧ (q.waited = false))
    ∧ (∃ (tag : BitVec 16) (p : Prog) (s : State) (q : Quire),
      (tget? s.quires tag.toNat = some q)
      ∧ (q.state = .ready)
      ∧ (q.prog = none)
      ∧ (startFault s q p = none)
      ∧ (startWaits s q p = false)
      ∧ (findGrants s q p = none)
      ∧ (q.waited = true))
    ∧ (∃ (c : Fin 8) (s : State) (q : _),
      ((s.core c).leaf = none)
      ∧ (((s.startedOn (clOfCore c)).find? (·.hold)) = none)
      ∧ ((sortBy (lcBefore s) ((s.startedOn (clOfCore c)).filter fun q => lcReady s q (c.val % 2))).head? = some q)
      ∧ (q.kind.lc = true))
    ∧ (∃ (c : Fin 8) (s : State) (q : _) (u : _),
      ((s.core c).leaf = none)
      ∧ (((s.startedOn (clOfCore c)).find? (·.hold)) = none)
      ∧ ((∀ x ∈ s.startedOn (clOfCore c), lcReady s x (c.val % 2) = false))
      ∧ (bePick s (clOfCore c) (c.val % 2) = (some q, u))
      ∧ (q.kind.lc = false))
    ∧ (∃ (c : Fin 8) (s : State) (u : _),
      ((s.core c).leaf = none)
      ∧ (((s.startedOn (clOfCore c)).find? (·.hold)) = none)
      ∧ ((∀ x ∈ s.startedOn (clOfCore c), lcReady s x (c.val % 2) = false))
      ∧ (bePick s (clOfCore c) (c.val % 2) = (none, u)))
    ∧ (∃ (c : Fin 8) (s : State),
      ((s.core c).leaf.isSome = true))
    ∧ (∃ (tag : BitVec 16) (s : State) (q : Quire) (t : Nat),
      (tget? s.quires tag.toNat = some q)
      ∧ (q.state.open_ = true)
      ∧ (q.kind.lc = true)
      ∧ (dueNow s q = some t))
    ∧ (∃ (tag : BitVec 16) (s : State) (q : Quire) (t : Nat),
      (tget? s.quires tag.toNat = some q)
      ∧ (q.state.open_ = true)
      ∧ (q.kind.lc = false)
      ∧ (localWait s q = some t))
    ∧ (∃ (k : Fin 4) (s : State) (u : State),
      (u = chargeLive (s.advanceTo ((s.cl k).winStart + s.acctWindow * 25000)) k)) :=
  ⟨⟨5, prog0, wstage (quire .prach .ready), _, quire .prach .ready, _, _, _, rfl, rfl, rfl, rfl, by decide +kernel, rfl,
    rfl⟩,
    ⟨5, { prog0 with positions := 5 }, wq (quire .prach .ready), quire .prach .ready, rfl, rfl, rfl, by decide +kernel⟩,
    ⟨5, { prog0 with sums := [sum0] }, { wq (quire .prach .ready) with cfg := { sched := schedDefault.set 1 1 } },
      quire .prach .ready, rfl, rfl, rfl, by decide +kernel, rfl, by decide +kernel⟩,
    ⟨5, { prog0 with full := true }, { wcell cell1 with quires := [(5, quire .yardstick .ready)] }, quire .yardstick .ready,
      rfl, rfl, rfl, rfl, by decide +kernel⟩,
    ⟨5, big, wstage (quire .prach .ready), quire .prach .ready, rfl, rfl, rfl, rfl, by decide +kernel, rfl,
      by decide +kernel⟩,
    ⟨5, big, wstage { quire .prach .ready with waited := true }, { quire .prach .ready with waited := true }, rfl, rfl, rfl,
      rfl, by decide +kernel, rfl, by decide +kernel⟩,
    ⟨0, wq { quire .prach .running with prog := some prog0 }, { quire .prach .running with prog := some prog0 }, rfl, rfl,
      rfl, by decide +kernel⟩,
    ⟨0, wq qbe, qbe, _, rfl, rfl, by decide +kernel, pairEta _, by decide +kernel⟩,
    ⟨0, w0, _, rfl, rfl, by decide +kernel, pairEta _⟩,
    ⟨0, wl core0 qlive, by decide +kernel⟩,
    ⟨5, wq ({ quire .prach .running with deadline := some 9 }), { quire .prach .running with deadline := some 9 }, 9, rfl,
      by decide +kernel, by decide +kernel, rfl⟩,
    ⟨5, wl { core0 with wait := some wait0 } qyard, qyard, _, rfl, by decide +kernel, by decide +kernel, rfl⟩,
    ⟨0, w0, _, rfl⟩⟩

theorem test_met_Quires_yield_are_saved_and_return :
    (∀ (b : Nat), qre.phaseEnd (variantOf qre.image qre.engines) = some b → ∃ (tag : BitVec 16) (hit : Bool) (again : Bool)
      (w : Nat) (n : Nat) (b : Nat) (l : List Config.ReshardMove) (s : State) (s0 : State) (q : Quire),
      (tget? s.quires tag.toNat = some q)
      ∧ (q.phaseEnd (variantOf q.image q.engines) = some b)
      ∧ (l = Config.reshardMoves q.image q.engines b)
      ∧ (n = reshardCycles (movedBytes l))
      ∧ (q.kind = .slotReception)
      ∧ (q.started = true)
      ∧ (s.anyLive q = false)
      ∧ (q.hold = false)
      ∧ (1 < q.engines)
      ∧ ((((hit = false ∨ movesRead q s l w = false) ∧ s0 = s) ∨ (hit = true ∧ again = false ∧ movesRead q s l w = true
        ∧ s0 = countWord s w))))
    ∧ (∀ (b w : Nat), qre.phaseEnd (variantOf qre.image qre.engines) = some b → movesRead qre (wq qre) (Config.reshardMoves
      qre.image qre.engines b) w = true → ∃ (tag : BitVec 16) (b : Nat) (w : Nat) (s : State) (q : Quire),
      (tget? s.quires tag.toNat = some q)
      ∧ (q.phaseEnd (variantOf q.image q.engines) = some b)
      ∧ (q.kind = .slotReception)
      ∧ (q.started = true)
      ∧ (s.anyLive q = false)
      ∧ (q.hold = false)
      ∧ (1 < q.engines)
      ∧ (movesRead q s (Config.reshardMoves q.image q.engines b) w = true))
    ∧ (∃ (k : Fin 4) (cell : Fin 64) (close : Nat) (s : State) (u : State) (e : Expect) (x : Cell),
      ((s.cl k).expects.find? (fun e => e.cell == cell.val && e.close == close && !e.opened) = some e)
      ∧ (u = ((s.advance (e.close - usTicks s.evictWindow - (s.cl k).counter.toNat)).setCl k fun c =>
        { c with expects := c.expects.map fun x => if x = e then { x with opened := true } else x }))
      ∧ (u.cell? cell.val = some x))
    ∧ (∃ (k : Fin 4) (cell : Fin 64) (close : Nat) (s : State),
      ((s.cl k).expects.find? (fun e => e.cell == cell.val && e.close == close && !e.opened) = none))
    ∧ (∃ (tag : BitVec 16) (s : State) (q : Quire) (i : Nat) (data : List (Nat × Bytes)),
      (tget? s.quires tag.toNat = some q)
      ∧ (q.ctxSlot = some i)
      ∧ (q.state = .suspended)
      ∧ (q.saved = false)
      ∧ ((q.evict = true ∨ q.fullSave = true))
      ∧ (data = ((q.places s).map fun p => (p.1, engineData s q p.1 p.2))))
    ∧ (∃ (k : Fin 4) (s : State) (u : State),
      (u = (if s.evicting k = true then s else s.setCl k fun c => { c with evictWait := false }))
      ∧ ((∃ q ∈ s.startedOn k, q.saved = false ∧ ∃ p, q.prog = some p ∧ p.full = true)))
    ∧ (∃ (k : Fin 4) (s : State) (u : State),
      (u = (if s.evicting k = true then s else s.setCl k fun c => { c with evictWait := false }))
      ∧ ((∀ q ∈ s.startedOn k, ∀ p, q.prog = some p → p.full = true → q.saved = true)))
    ∧ (∃ (tag : BitVec 16) (s : State) (q : Quire) (p : Prog),
      (tget? s.quires tag.toNat = some q)
      ∧ (q.started = true)
      ∧ (q.kind.lc = false)
      ∧ (q.prog = some p)
      ∧ (p.full = true)
      ∧ (q.saved = false)
      ∧ (s.carries q.cluster = true))
    ∧ (∃ (tag : BitVec 16) (s : State) (q : Quire) (i : Nat) (p : Prog),
      (tget? s.quires tag.toNat = some q)
      ∧ (q.ctxSlot = some i)
      ∧ (q.state = .suspended)
      ∧ (q.saved = true)
      ∧ (q.evict = false)
      ∧ (q.prog = some p)
      ∧ (p.full = false)
      ∧ ((q.places s).length < p.positions))
    ∧ (∃ (tag : BitVec 16) (s : State) (q : Quire) (i : Nat) (p : Prog),
      (tget? s.quires tag.toNat = some q)
      ∧ (q.ctxSlot = some i)
      ∧ (q.state = .suspended)
      ∧ (q.saved = true)
      ∧ (q.evict = false)
      ∧ (q.prog = some p)
      ∧ (p.full = false)
      ∧ (p.positions ≤ (q.places s).length))
    ∧ (∃ (tag : BitVec 16) (s : State) (q : Quire) (i : Nat) (p : Prog),
      (tget? s.quires tag.toNat = some q)
      ∧ (q.ctxSlot = some i)
      ∧ (q.state = .suspended)
      ∧ (q.saved = true)
      ∧ (q.evict = false)
      ∧ (q.prog = some p)
      ∧ (p.full = false)
      ∧ (p.positions ≤ (q.places s).length)
      ∧ ((cpl (s.rd (s.ctxAddr i) 8) ≠ s.rd (s.ctxAddr i + 8) 8 ∨ bits (leNat (s.rd (s.ctxAddr i) 8)) 32 16 ≠ tag.toNat)))
    ∧ (∃ (tag : BitVec 16) (s : State) (q : Quire) (i : Nat) (p : Prog),
      (tget? s.quires tag.toNat = some q)
      ∧ (q.ctxSlot = some i)
      ∧ (q.state = .suspended)
      ∧ (q.saved = true)
      ∧ (q.evict = false)
      ∧ (q.prog = some p)
      ∧ (p.full = false)
      ∧ (p.positions ≤ (q.places s).length)
      ∧ (cpl (s.rd (s.ctxAddr i) 8) = s.rd (s.ctxAddr i + 8) 8)
      ∧ (bits (leNat (s.rd (s.ctxAddr i) 8)) 32 16 = tag.toNat))
    ∧ (∃ (e : Fin 16) (kind : Fin 5) (column : BitVec 16) (vector : BitVec 32) (expected : BitVec 64) (observed : BitVec 64)
      (bound : BitVec 32) (cycle : BitVec 32) (s : State) (q : Quire) (c : Fin 8) (m : Mismatch),
      (c.val = e.val / 2)
      ∧ (liveQuire s c = some q)
      ∧ ((s.eng e.val).retired = false)
      ∧ (m = ⟨kind.val, column.toNat, vector.toNat, expected, observed, bound.toNat, cycle.toNat⟩)
      ∧ (leafMismatches s c = 0))
    ∧ (∃ (e : Fin 16) (kind : Fin 5) (column : BitVec 16) (vector : BitVec 32) (expected : BitVec 64) (observed : BitVec 64)
      (bound : BitVec 32) (cycle : BitVec 32) (s : State) (q : Quire) (c : Fin 8) (m : Mismatch),
      (c.val = e.val / 2)
      ∧ (liveQuire s c = some q)
      ∧ ((s.eng e.val).retired = false)
      ∧ (m = ⟨kind.val, column.toNat, vector.toNat, expected, observed, bound.toNat, cycle.toNat⟩)
      ∧ (leafMismatches s c ≠ 0)) :=
  ⟨(fun b h => ⟨5, false, false, 0, _, b, _, wq (qre), _, qre, rfl, h, rfl, rfl, rfl, by decide +kernel, by decide +kernel,
    by decide +kernel, by decide +kernel, Or.inl ⟨Or.inl rfl, rfl⟩⟩),
    (fun b w h g => ⟨5, b, w, wq (qre), qre, rfl, h, rfl, by decide +kernel, by decide +kernel, by decide +kernel,
      by decide +kernel, g⟩),
    ⟨0, 0, 9, { wcell cell1 with clusters := Vector.replicate 4 { expects := [{ cell := 0, close := 9 }] } }, _, _, _, rfl,
      rfl, rfl⟩,
    ⟨0, 0, 9, w0, rfl⟩,
    ⟨5, wq ({ qsus with saved := false, evictFor := [0] }), { qsus with saved := false, evictFor := [0] }, 0, _, rfl, rfl,
      rfl, by decide +kernel, by decide +kernel, rfl⟩,
    ⟨0, wq { qbe with prog := some { prog0 with full := true } }, _, rfl, by decide +kernel⟩,
    ⟨0, w0, _, rfl, by decide +kernel⟩,
    ⟨5, { wcell cell1 with quires := [(5, { qbe with prog := some { prog0 with full := true } })] },
      { qbe with prog := some { prog0 with full := true } }, _, rfl, by decide +kernel, by decide +kernel, rfl, rfl,
        by decide +kernel, by decide +kernel⟩,
    ⟨5, wq ({ qsus with engines := 0 }), { qsus with engines := 0 }, 0, _, rfl, rfl, rfl, by decide +kernel,
      by decide +kernel, rfl, rfl, by decide +kernel⟩,
    ⟨5, wq (qsus), qsus, 0, _, rfl, rfl, rfl, by decide +kernel, by decide +kernel, rfl, rfl, by decide +kernel⟩,
    ⟨5, wq (qsus), qsus, 0, _, rfl, rfl, rfl, by decide +kernel, by decide +kernel, rfl, rfl, by decide +kernel,
      by decide +kernel⟩,
    ⟨5, { wq qsus with mem := Mem.write [] ddrAt (both (toLE 8 (5 * 2 ^ 32))) }, qsus, 0, _, rfl, rfl, rfl,
      by decide +kernel, by decide +kernel, rfl, rfl, by decide +kernel, rfl, rfl⟩,
    ⟨0, 0, 0, 0, 0, 0, 0, 0, wl core0 qlive, qlive, 0, _, rfl, rfl, by decide +kernel, rfl, rfl⟩,
    ⟨0, 0, 0, 0, 0, 0, 0, 0, we core0 { mismatches := 1 }, qlive, 0, _, rfl, rfl, by decide +kernel, rfl, by decide +kernel⟩⟩

theorem test_met_Sync_objects_take_signals_waits_and_messages :
    (∃ (c : Fin 8) (s : State) (ref : BitVec 64) (n : BitVec 32) (tag : BitVec 16) (l : List (BitVec 64 × BitVec 32 × BitVec
      16)),
      ((s.core c).released = (ref, n, tag) :: l)
      ∧ (sigWaits s tag (ObjRef.of ref) = true))
    ∧ (∃ (c : Fin 8) (s : State) (ref : BitVec 64) (n : BitVec 32) (tag : BitVec 16) (l : List (BitVec 64 × BitVec 32 ×
      BitVec 16)) (k : _),
      ((s.core c).released = (ref, n, tag) :: l)
      ∧ (sigWaits s tag (ObjRef.of ref) = false)
      ∧ (((ObjRef.of ref).far = false ∧ k = clOfCore c) ∨ ((ObjRef.of ref).far = true ∧ (ObjRef.of ref).chip = s.chip
        ∧ k = (ObjRef.of ref).cluster)))
    ∧ (∃ (c : Fin 8) (s : State) (ref : BitVec 64) (n : BitVec 32) (tag : BitVec 16) (l : List (BitVec 64 × BitVec 32 ×
      BitVec 16)),
      ((s.core c).released = (ref, n, tag) :: l)
      ∧ (sigWaits s tag (ObjRef.of ref) = false)
      ∧ ((ObjRef.of ref).far = true)
      ∧ ((ObjRef.of ref).chip ≠ s.chip))
    ∧ (∃ (c : Fin 8) (s : State),
      ((s.core c).released = []))
    ∧ (∃ (c : Fin 8) (s : State) (w : WaitCtx) (q : Quire),
      ((s.core c).wait = some w)
      ∧ (liveQuire s c = some q)
      ∧ (q.pressed = false)
      ∧ (w.limit ≠ 0))
    ∧ (∃ (w : WaitCtx),
      (w.remote = false))
    ∧ (∃ (c : Fin 8) (s : State) (w : WaitCtx) (q : Quire),
      ((s.core c).wait = some w)
      ∧ (liveQuire s c = some q)
      ∧ (w.limit = 0 ∨ q.pressed = true))
    ∧ (∃ (c : Fin 8) (s : State) (w : WaitCtx) (q : Quire) (t : Nat),
      ((s.core c).wait = some w)
      ∧ (liveQuire s c = some q)
      ∧ (w.busy = some t))
    ∧ (∃ (k : Fin 4) (i : BitVec 15) (s : State) (u : State) (t : Nat),
      (tget? (s.cl k).held i.toNat = some t)
      ∧ (u = s.advanceTo (t + usTicks 1000))
      ∧ (tget (u.cl k).waiters i.toNat [] = []))
    ∧ (∃ (m : SMsg) (err : SyncError) (s : State) (u : State) (x : ObjRef),
      (m.dst.toNat = s.chip)
      ∧ (m.reservedSet = false)
      ∧ (m.data.length ≤ 4096)
      ∧ (m.typ = 0x10)
      ∧ (x = ObjRef.of (msgRef m))
      ∧ (u = meetError s x.cluster x.index err)
      ∧ (m.xfer = 0 ∨ ((u.obj x.cluster x.index).bad = false ∧ (u.obj x.cluster x.index).owner = x.tag
        ∧ (u.obj x.cluster x.index).felled = false)))
    ∧ (∃ (m : SMsg) (err : SyncError) (s : State) (u : State) (x : ObjRef),
      (m.dst.toNat = s.chip)
      ∧ (m.reservedSet = false)
      ∧ (m.data.length ≤ 4096)
      ∧ (m.typ = 0x10)
      ∧ (x = ObjRef.of (msgRef m))
      ∧ (u = meetError s x.cluster x.index err)
      ∧ (m.xfer ≠ 0)
      ∧ ((u.obj x.cluster x.index).bad = false)
      ∧ (((u.obj x.cluster x.index).owner ≠ x.tag ∨ (u.obj x.cluster x.index).felled = true)))
    ∧ (∃ (m : SMsg) (err : SyncError) (s : State) (u : State) (x : ObjRef) (o : TakeOut),
      (m.dst.toNat = s.chip)
      ∧ (m.reservedSet = false)
      ∧ (m.data.length ≤ 4096)
      ∧ (m.typ = 0x11)
      ∧ (x = ObjRef.of (msgRef m))
      ∧ (takeObj (meetError s x.cluster x.index err) x.cluster x.index x.tag (m.arg.extractLsb' 64 16) = (o, u)))
    ∧ (∃ (m : SMsg) (s : State) (c : Fin 8) (rd : Nat) (n : Nat),
      (m.dst.toNat = s.chip)
      ∧ (m.reservedSet = false)
      ∧ (m.data.length ≤ 4096)
      ∧ (m.typ = 0x12)
      ∧ (m.arg.getLsbD 80 = false)
      ∧ (n = (m.arg.extractLsb' 64 16).toNat)
      ∧ (s.stitch.takes.find? (fun t => t.1 == n) = some (n, c.val, rd))
      ∧ ((s.core c).takes.any (fun t => t.1 == n) = true))
    ∧ (∃ (m : SMsg) (s : State) (k : Fin 4) (g : Nat) (r : Nat) (t : Nat) (q : Quire) (w : WaitCtx),
      (m.dst.toNat = s.chip)
      ∧ (m.reservedSet = false)
      ∧ (m.data.length ≤ 4096)
      ∧ (m.typ = 0x12)
      ∧ (m.arg.getLsbD 80 = true)
      ∧ (g = (m.arg.extractLsb' 96 16).toNat)
      ∧ (k = (m.arg.extractLsb' 112 2).toFin)
      ∧ (s.quires.find? (fun p => p.2.cluster == k && (grantCore p.2 g).isSome && p.2.state != .ended && p.2.state !=
        .faulted) = some (t, q))
      ∧ (grantCore q g = some r)
      ∧ ((s.core (coreOf k r)).leaf = some q.tag)
      ∧ ((s.core (coreOf k r)).wait = some w)
      ∧ (w.remote = true)
      ∧ (w.seq = (m.arg.extractLsb' 88 8).toNat))
    ∧ (∃ (m : SMsg) (err : SyncError) (s : State) (u : State) (x : ObjRef),
      (m.dst.toNat = s.chip)
      ∧ (m.reservedSet = false)
      ∧ (m.data.length ≤ 4096)
      ∧ (m.typ = 0x13)
      ∧ (x = ObjRef.of (msgRef m))
      ∧ (u = meetError s x.cluster x.index err)
      ∧ ((u.cl x.cluster).registrations < 64))
    ∧ (∃ (m : SMsg) (err : SyncError) (s : State) (u : State) (x : ObjRef),
      (m.dst.toNat = s.chip)
      ∧ (m.reservedSet = false)
      ∧ (m.data.length ≤ 4096)
      ∧ (m.typ = 0x13)
      ∧ (x = ObjRef.of (msgRef m))
      ∧ (u = meetError s x.cluster x.index err)
      ∧ (64 ≤ (u.cl x.cluster).registrations))
    ∧ (∃ (m : SMsg) (s : State) (x : ObjRef),
      (m.dst.toNat = s.chip)
      ∧ (m.reservedSet = false)
      ∧ (m.data.length ≤ 4096)
      ∧ (m.typ = 0x14)
      ∧ (x = ObjRef.of (msgRef m)))
    ∧ (∃ (i : Instr) (m : SMsg) (err : SyncError) (typ : BitVec 8) (s : State),
      (((i = .syncSig ⟨m, err⟩ ∧ typ = 0x10) ∨ (i = .syncTake ⟨m, err⟩ ∧ typ = 0x11) ∨ (i = .syncReply m
        ∧ typ = 0x12) ∨ (i = .syncReg ⟨m, err⟩ ∧ typ = 0x13) ∨ (i = .syncCancel m ∧ typ = 0x14)))
      ∧ (m.dst.toNat ≠ s.chip))
    ∧ (∃ (i : Instr) (m : SMsg) (err : SyncError) (typ : BitVec 8) (s : State),
      (((i = .syncSig ⟨m, err⟩ ∧ typ = 0x10) ∨ (i = .syncTake ⟨m, err⟩ ∧ typ = 0x11) ∨ (i = .syncReply m
        ∧ typ = 0x12) ∨ (i = .syncReg ⟨m, err⟩ ∧ typ = 0x13) ∨ (i = .syncCancel m ∧ typ = 0x14)))
      ∧ (m.dst.toNat = s.chip)
      ∧ ((m.typ ≠ typ ∨ m.reservedSet = true ∨ 4096 < m.data.length))) :=
  ⟨⟨0, wfin, 0, 1, 5, [], rfl, by decide +kernel⟩,
    ⟨0, wl { core0 with released := [(0, 1, 5)] } qlive, 0, 1, 5, [], 0, rfl, by decide +kernel, Or.inl ⟨rfl, rfl⟩⟩,
    ⟨0, wl { core0 with released := [(0x8100000500004100#64, 1, 5)] } qlive, 0x8100000500004100#64, 1, 5, [], rfl,
      by decide +kernel, by decide +kernel, by decide +kernel⟩,
    ⟨0, w0, by decide +kernel⟩,
    ⟨0, wl { core0 with wait := some wait0 } qlive, wait0, qlive, rfl, rfl, by decide +kernel, by decide +kernel⟩,
    ⟨wait0, by decide +kernel⟩,
    ⟨0, wl { core0 with wait := some { wait0 with limit := 0 } } qlive, { wait0 with limit := 0 }, qlive, rfl, rfl,
      Or.inl rfl⟩,
    ⟨0, wl { core0 with wait := some { wait0 with busy := some 3 } } qlive, { wait0 with busy := some 3 }, qlive, 3, rfl,
      rfl, rfl⟩,
    ⟨0, 3, { w0 with clusters := Vector.replicate 4 { held := [(3, 7)] } }, _, 7, rfl, rfl, rfl⟩,
    ⟨smsg 0x10, .none, w0, _, _, rfl, by decide +kernel, by decide +kernel, rfl, rfl, rfl, Or.inl rfl⟩,
    ⟨{ smsg 0x10 with xfer := 1 }, .none, { w0 with clusters := Vector.replicate 4 { objs := [(0, { owner := 9 })] } }, _, _,
      rfl, by decide +kernel, by decide +kernel, rfl, rfl, rfl, by decide +kernel, rfl, Or.inl (by decide +kernel)⟩,
    ⟨smsg 0x11, .none, w0, _, _, _, rfl, by decide +kernel, by decide +kernel, rfl, rfl, pairEta _⟩,
    ⟨smsg 0x12, { wl { core0 with takes := [(0, 1)] } qlive with stitch := { takes := [(0, 0, 1)] } }, 0, 1, 0, rfl,
      by decide +kernel, by decide +kernel, rfl, by decide +kernel, rfl, rfl, rfl⟩,
    ⟨mgrant, wl { core0 with wait := some { wait0 with remote := true } } qgrant, 0, 0, 0, 5, qgrant,
      { wait0 with remote := true }, rfl, by decide +kernel, by decide +kernel, rfl, by decide +kernel, rfl, rfl, rfl, rfl,
        rfl, rfl, by decide +kernel, rfl⟩,
    ⟨smsg 0x13, .none, w0, _, _, rfl, by decide +kernel, by decide +kernel, rfl, rfl, rfl, by decide +kernel⟩,
    ⟨smsg 0x13, .none, { w0 with clusters := Vector.replicate 4 { waiters := [(0, List.replicate 64 { chip := 1, engine := 0, tag := 0, n := 1, remote := some (0, 0, 0, 0) })] } },
      _, _, rfl, by decide +kernel, by decide +kernel, rfl, rfl, rfl, by decide +kernel⟩,
    ⟨smsg 0x14, w0, _, rfl, by decide +kernel, by decide +kernel, rfl, rfl⟩,
    ⟨.syncSig ⟨{ smsg 0x10 with dst := 1 }, .none⟩, { smsg 0x10 with dst := 1 }, .none, 0x10, w0, Or.inl ⟨rfl, rfl⟩,
      by decide +kernel⟩,
    ⟨.syncSig ⟨{ smsg 0x10 with reservedSet := true }, .none⟩, { smsg 0x10 with reservedSet := true }, .none, 0x10, w0,
      Or.inl ⟨rfl, rfl⟩, rfl, by decide +kernel⟩⟩

theorem test_met_Results_are_finalised_posted_or_cut_off :
    (∃ (tag : BitVec 16) (s : State) (u : State) (q : Quire) (r : RxCtx) (b : Bytes),
      (tget? s.quires tag.toNat = some q)
      ∧ (q.kind = .slotReception)
      ∧ (s.rx? tag = some r)
      ∧ (r.posted = false)
      ∧ (r.colo = [])
      ∧ ((cellOf r.cellRcd).colophon = true)
      ∧ (ulReady s q r = true)
      ∧ (finalise s q (ulColo s q r) = (b, u)))
    ∧ (∃ (tag : BitVec 16) (s : State) (u : State) (q : Quire) (d : DlCtx) (b : Bytes),
      (tget? s.quires tag.toNat = some q)
      ∧ (q.kind = .downlink)
      ∧ (tget? s.coding.dl tag.toNat = some d)
      ∧ (d.posted = false)
      ∧ (d.colo = [])
      ∧ ((cellOf d.cellRcd).colophon = true)
      ∧ (dlReadyToPost d = true)
      ∧ (finalise s q (dlColo s q d) = (b, u)))
    ∧ (∃ (tag : BitVec 16) (s : State) (u : State) (q : Quire) (x : PrachCtx) (b : Bytes),
      (tget? s.quires tag.toNat = some q)
      ∧ (q.kind = .prach)
      ∧ (tget? s.coding.prach tag.toNat = some x)
      ∧ (x.posted = false)
      ∧ (x.colo = [])
      ∧ ((cellOf x.cellRcd).colophon = true)
      ∧ (prachReady q x = true)
      ∧ (finalise s q (prachColo s q x) = (b, u)))
    ∧ (∃ (tag : BitVec 16) (s : State) (q : Quire) (r : RxCtx),
      (tget? s.quires tag.toNat = some q)
      ∧ (q.kind = .slotReception)
      ∧ (s.rx? tag = some r)
      ∧ (s.linkOk = true)
      ∧ (r.posted = false)
      ∧ (ulReady s q r = true)
      ∧ (coloDone r.cellRcd r.colo = true))
    ∧ (∃ (tag : BitVec 16) (s : State) (q : Quire) (x : PrachCtx),
      (tget? s.quires tag.toNat = some q)
      ∧ (q.kind = .prach)
      ∧ (tget? s.coding.prach tag.toNat = some x)
      ∧ (s.linkOk = true)
      ∧ (x.posted = false)
      ∧ (prachReady q x = true)
      ∧ (coloDone x.cellRcd x.colo = true))
    ∧ (∃ (tag : BitVec 16) (s : State) (q : Quire) (d : DlCtx),
      (tget? s.quires tag.toNat = some q)
      ∧ (q.kind = .downlink)
      ∧ (tget? s.coding.dl tag.toNat = some d)
      ∧ (s.linkOk = true)
      ∧ (d.posted = false)
      ∧ (dlReadyToPost d = true)
      ∧ (coloDone d.cellRcd d.colo = true))
    ∧ (∃ (s : State),
      (s.linkOk = false))
    ∧ (∃ (tag : BitVec 16) (s : State) (u : State) (q : Quire) (r : RxCtx) (t : Nat),
      (tget? s.quires tag.toNat = some q)
      ∧ (s.rx? tag = some r)
      ∧ (q.deadline = some t)
      ∧ (u = s.advance (t - (s.cl q.cluster).counter.toNat))
      ∧ (r.late = false)
      ∧ ((r.posted = false ∨ waitsFor u tag.toNat 0x90 = true ∨ waitsFor u tag.toNat 0x92 = true)))
    ∧ (∃ (tag : BitVec 16) (s : State) (u : State) (q : Quire) (r : RxCtx) (t : Nat),
      (tget? s.quires tag.toNat = some q)
      ∧ (s.rx? tag = some r)
      ∧ (q.deadline = some t)
      ∧ (u = s.advance (t - (s.cl q.cluster).counter.toNat))
      ∧ ((r.late = true ∨ (r.posted = true ∧ waitsFor u tag.toNat 0x90 = false ∧ waitsFor u tag.toNat 0x92 = false))))
    ∧ (∃ (tag : BitVec 16) (s : State) (r : RxCtx),
      (s.rx? tag = some r)
      ∧ (r.posted = false))
    ∧ (∃ (s : State) (u : State) (b : Batch) (l : List Batch) (base : Nat) (cap : Nat),
      (s.colo.sealing = b :: l)
      ∧ (s.colo.store = some (base, cap))
      ∧ (u = ((s.wr (ddrAt + base + b.number % cap * 36864) (sealedBatch b)).setColo fun c =>
        { c with sealing := l, stored := c.stored ++ [(b.number, sealedBatch b)] }))) :=
  ⟨⟨5, wcod .slotReception { rx := [(5, { rx0 with cellRcd := rcdC })] }, _, qe .slotReception, { rx0 with cellRcd := rcdC },
    _, rfl, rfl, rfl, by decide +kernel, rfl, by decide +kernel, by decide +kernel, pairEta _⟩,
    ⟨5, wcod .downlink { dl := [(5, { dlc0 with cellRcd := rcdC })] }, _, qe .downlink, { dlc0 with cellRcd := rcdC }, _,
      rfl, rfl, rfl, by decide +kernel, rfl, by decide +kernel, by decide +kernel, pairEta _⟩,
    ⟨5, wcod .prach { prach := [(5, { pctx0 with cellRcd := rcdC, detected := true })] }, _, qe .prach,
      { pctx0 with cellRcd := rcdC, detected := true }, _, rfl, rfl, rfl, by decide +kernel, rfl, by decide +kernel,
        by decide +kernel, pairEta _⟩,
    ⟨5, wcod .slotReception { rx := [(5, rx0)] }, qe .slotReception, rx0, rfl, rfl, rfl, by decide +kernel,
      by decide +kernel, by decide +kernel, by decide +kernel⟩,
    ⟨5, wcod .prach { prach := [(5, { pctx0 with detected := true })] }, qe .prach, { pctx0 with detected := true }, rfl,
      rfl, rfl, by decide +kernel, by decide +kernel, by decide +kernel, by decide +kernel⟩,
    ⟨5, wcod .downlink { dl := [(5, dlc0)] }, qe .downlink, dlc0, rfl, rfl, rfl, by decide +kernel, by decide +kernel,
      by decide +kernel, by decide +kernel⟩,
    ⟨State.reset, by decide +kernel⟩,
    ⟨5, { wq { qe .slotReception with deadline := some 9 } with coding := { rx := [(5, rx0)] } }, _,
      { qe .slotReception with deadline := some 9 }, rx0, 9, rfl, rfl, rfl, rfl, by decide +kernel, Or.inl rfl⟩,
    ⟨5, { wq { qe .slotReception with deadline := some 9 } with coding := { rx := [(5, { rx0 with posted := true })] } }, _,
      { qe .slotReception with deadline := some 9 }, { rx0 with posted := true }, 9, rfl, rfl, rfl, rfl, by decide +kernel⟩,
    ⟨5, { wq { qe .slotReception with deadline := some 9 } with coding := { rx := [(5, rx0)] } }, rx0, rfl,
      by decide +kernel⟩,
    ⟨{ w0 with colo := { sealing := [{ number := 0, records := [] }], store := some (0, 1) } }, _,
      { number := 0, records := [] }, [], 0, 1, rfl, rfl, rfl⟩⟩

theorem test_met_Uplink_slots_arrive_are_stored_and_released :
    (∃ (cell : Fin 64) (s : State) (u : State) (c : Cell) (d : Cell) (n : _) (r : _),
      (s.cell? cell.val = some c)
      ∧ (c.placed = true)
      ∧ (c.clock.isSome = true)
      ∧ (c.uplink = true)
      ∧ (u = ((numberSlot (s.advanceTo (c.symTick c.cpUl (match c.slotAt c.cpUl with
          | some n => slotOf n
          | none => 0) 0 - c.cpUlMax)) cell.val c.cpUl (if c.downlink then c.cpDl else 0)).setCell cell.val fun x =>
            { x with cpUl := c.cpUl + 1 }))
      ∧ (u.cell? cell.val = some d)
      ∧ (d.slotAt c.cpUl = some n)
      ∧ (tget? u.fe.ulRecs (slotKey cell.val n) = some r))
    ∧ (∃ (cell : Fin 64) (s : State) (u : State) (c : Cell) (d : Cell) (n : _),
      (s.cell? cell.val = some c)
      ∧ (c.placed = true)
      ∧ (c.clock.isSome = true)
      ∧ (c.uplink = true)
      ∧ (u = ((numberSlot (s.advanceTo (c.symTick c.cpUl (match c.slotAt c.cpUl with
          | some n => slotOf n
          | none => 0) 0 - c.cpUlMax)) cell.val c.cpUl (if c.downlink then c.cpDl else 0)).setCell cell.val fun x =>
            { x with cpUl := c.cpUl + 1 }))
      ∧ (u.cell? cell.val = some d)
      ∧ (d.slotAt c.cpUl = some n)
      ∧ (tget? u.fe.ulRecs (slotKey cell.val n) = none))
    ∧ (∃ (cell : Fin 64) (s : State) (u : State) (c : Cell) (d : Cell),
      (s.cell? cell.val = some c)
      ∧ (c.placed = true)
      ∧ (c.clock.isSome = true)
      ∧ (c.uplink = true)
      ∧ (u = ((numberSlot (s.advanceTo (c.symTick c.cpUl (match c.slotAt c.cpUl with
          | some n => slotOf n
          | none => 0) 0 - c.cpUlMax)) cell.val c.cpUl (if c.downlink then c.cpDl else 0)).setCell cell.val fun x =>
            { x with cpUl := c.cpUl + 1 }))
      ∧ (u.cell? cell.val = some d)
      ∧ (d.slotAt c.cpUl = none))
    ∧ (∃ (f : Frame) (s : State) (u : State),
      ((s.port f.port.val).up = true)
      ∧ (u = (if f.fecBad then s.feCount .fecUncorr f.port.val else s))
      ∧ (f.pause = true))
    ∧ (∃ (f : Frame) (s : State) (u : State),
      ((s.port f.port.val).up = true)
      ∧ (u = (if f.fecBad then s.feCount .fecUncorr f.port.val else s))
      ∧ (f.pause = false)
      ∧ (frameBad u f = true))
    ∧ (∃ (f : Frame) (s : State) (u : State),
      ((s.port f.port.val).up = true)
      ∧ (u = (if f.fecBad then s.feCount .fecUncorr f.port.val else s))
      ∧ (f.pause = false)
      ∧ (frameBad u f = false)
      ∧ (macsecIn u f = none))
    ∧ (∃ (f : Frame) (s : State) (u : State) (v : _),
      ((s.port f.port.val).up = true)
      ∧ (u = (if f.fecBad then s.feCount .fecUncorr f.port.val else s))
      ∧ (f.pause = false)
      ∧ (frameBad u f = false)
      ∧ (macsecIn u f = some v)
      ∧ (f.revision = 1))
    ∧ (∃ (f : Frame) (s : State) (u : State) (v : _),
      ((s.port f.port.val).up = true)
      ∧ (u = (if f.fecBad then s.feCount .fecUncorr f.port.val else s))
      ∧ (f.pause = false)
      ∧ (frameBad u f = false)
      ∧ (macsecIn u f = some v)
      ∧ (f.revision ≠ 1))
    ∧ (∃ (f : Frame) (s : State),
      ((s.port f.port.val).up = false))
    ∧ (∃ (m : EcpriMsg),
      (ecpriBad m = true))
    ∧ (∃ (port : Nat) (vlan : Nat) (s : State) (m : EcpriMsg),
      (ecpriBad m = false)
      ∧ (s.fe.eaxc.findIdx? (fun e => e.1 == port && e.2.1 == vlan && e.2.2.1 == m.eaxc.toNat && e.2.2.2.2.1 != 1) = none))
    ∧ (∃ (cell : Fin 64) (n : Nat) (k : Nat) (t : Nat) (s : State) (c : Cell) (u : UlCtx),
      (s.cell? cell.val = some c)
      ∧ (tget? s.fe.ul (slotKey cell.val n) = some u)
      ∧ (c.symAt n k = some t))
    ∧ (∃ (cell : Fin 64) (sn : Nat) (sym : Nat) (stream : Nat) (n : Nat) (clamps : Nat) (par : Option (Nat × Bool)) (s :
      State) (u : State) (v : State) (w : State) (c : Cell) (z : UlCtx) (x : StreamSym) (r : RingEntry) (prbs : Table Bytes)
        (k : Fin 4),
      (s.cell? cell.val = some c)
      ∧ (tget? s.fe.ul (slotKey cell.val sn) = some z)
      ∧ (z.syms.find? (fun x => x.symbol == sym && x.stream == stream) = some x)
      ∧ (s.fe.rings.find? (fun p => p.2.cell == cell.val) = some (n, r))
      ∧ (k.val = n / 16)
      ∧ (x.closed = true)
      ∧ (x.stored = false)
      ∧ ((r.slot = some sn ∨ r.busy = false ∨ r.need ≤ (s.obj k r.releaseObj).count.toNat))
      ∧ (u = (if r.slot = some sn then s else (s.putObj k r.releaseObj {}).setFe fun f =>
        { f with rings := tset f.rings n { r with busy := true, slot := some sn } }))
      ∧ (storePrbs c x = (prbs, clamps))
      ∧ (v = storeParity u (writeStore u (ringAt (n / 16) (n % 16)) c x prbs) k (slotKey cell.val sn) (ringAt (n / 16) (n %
        16) + streamAt c x) c.streamBytes par)
      ∧ (w = (if clamps = 0 then v else v.feCount .bfpClamp cell.val clamps)))
    ∧ (∃ (cell : Fin 64) (sn : Nat) (sym : Nat) (stream : Nat) (n : Nat) (s : State) (c : Cell) (z : UlCtx) (x : StreamSym)
      (r : RingEntry) (k : Fin 4),
      (s.cell? cell.val = some c)
      ∧ (tget? s.fe.ul (slotKey cell.val sn) = some z)
      ∧ (z.syms.find? (fun x => x.symbol == sym && x.stream == stream) = some x)
      ∧ (s.fe.rings.find? (fun p => p.2.cell == cell.val) = some (n, r))
      ∧ (k.val = n / 16)
      ∧ ((x.closed = false ∨ x.stored = true ∨ (r.slot ≠ some sn ∧ r.busy = true
        ∧ (s.obj k r.releaseObj).count.toNat < r.need))))
    ∧ (∃ (cell : Fin 64) (sn : Nat) (pdu : Nat) (clamps : Nat) (t : Nat) (e : Nat) (s : State) (u : State) (v : State) (c :
      Cell) (x : UlCtx) (p : PrachPdu) (tag : BitVec 16),
      (s.cell? cell.val = some c)
      ∧ (tget? s.fe.ul (slotKey cell.val sn) = some x)
      ∧ (x.rcd.prach[pdu]? = some p)
      ∧ (prachAllowed p = true)
      ∧ (pdu ∉ x.prachDone)
      ∧ (c.symAt sn (p.startSym + prachReps p - 1) = some t)
      ∧ (c.symEnd sn (p.startSym + prachReps p - 1) = some e)
      ∧ (u = dropUl (setUl (s.advanceTo (t + c.ta4Max)) (slotKey cell.val sn) fun u =>
        { u with prachDone := u.prachDone ++ [pdu] }) (slotKey cell.val sn))
      ∧ (newQuire u c.cluster .prach (cell.val + 1) cell.val sn (some ((u.cl c.cluster).counter.toNat + usTicks 500 -
        (u.ticks.toNat - e))) = (tag, v))
      ∧ (clamps = ((prachInputs x pdu p c.prachIds.length).map fun y => (prachSamples c (prachLen p) y.2.2).2).sum))
    ∧ (∃ (cell : Fin 64) (sn : Nat) (t : Nat) (age : Fin 101) (s : State) (u : State) (v : State) (c : Cell) (x : UlCtx),
      (s.cell? cell.val = some c)
      ∧ (tget? s.fe.ul (slotKey cell.val sn) = some x)
      ∧ (x.closeTick = some t)
      ∧ (x.released = false)
      ∧ (x.syms.all (·.stored) = true)
      ∧ (u = s.advanceTo (t + age.val))
      ∧ (v = matchClose u cell.val ((u.cl c.cluster).counter.toNat - (u.ticks.toNat - t)) c)
      ∧ (v.inService c.cluster.val = []))
    ∧ (∃ (cell : Fin 64) (sn : Nat) (t : Nat) (age : Fin 101) (s : State) (u : State) (v : State) (c : Cell) (x : UlCtx) (tag
      : _) (w0 : _) (d : _) (w : _) (y : _),
      (s.cell? cell.val = some c)
      ∧ (tget? s.fe.ul (slotKey cell.val sn) = some x)
      ∧ (x.closeTick = some t)
      ∧ (x.released = false)
      ∧ (x.syms.all (·.stored) = true)
      ∧ (u = s.advanceTo (t + age.val))
      ∧ (v = matchClose u cell.val ((u.cl c.cluster).counter.toNat - (u.ticks.toNat - t)) c)
      ∧ (v.inService c.cluster.val ≠ [])
      ∧ (newQuire v c.cluster .slotReception (cell.val + 1) cell.val sn (some ((v.cl c.cluster).counter.toNat -
        (v.ticks.toNat - t) + 8750)) = (tag, w0))
      ∧ (w0.draw = (d, w))
      ∧ (y = ((setUl (w.setCoding fun y => { y with rx := tset y.rx tag.toNat (rxOf w c x tag t d) }) (slotKey cell.val sn)
        fun y => { y with released := true }).setQuire tag.toNat fun q =>
          { q with flags := { q.flags with missing := x.missing } }))
      ∧ (y.modelSlotOf c.modelId = none))
    ∧ (∃ (cell : Fin 64) (sn : Nat) (t : Nat) (age : Fin 101) (s : State) (u : State) (v : State) (c : Cell) (x : UlCtx) (tag
      : _) (w0 : _) (d : _) (w : _) (y : _) (i : _),
      (s.cell? cell.val = some c)
      ∧ (tget? s.fe.ul (slotKey cell.val sn) = some x)
      ∧ (x.closeTick = some t)
      ∧ (x.released = false)
      ∧ (x.syms.all (·.stored) = true)
      ∧ (u = s.advanceTo (t + age.val))
      ∧ (v = matchClose u cell.val ((u.cl c.cluster).counter.toNat - (u.ticks.toNat - t)) c)
      ∧ (v.inService c.cluster.val ≠ [])
      ∧ (newQuire v c.cluster .slotReception (cell.val + 1) cell.val sn (some ((v.cl c.cluster).counter.toNat -
        (v.ticks.toNat - t) + 8750)) = (tag, w0))
      ∧ (w0.draw = (d, w))
      ∧ (y = ((setUl (w.setCoding fun y => { y with rx := tset y.rx tag.toNat (rxOf w c x tag t d) }) (slotKey cell.val sn)
        fun y => { y with released := true }).setQuire tag.toNat fun q =>
          { q with flags := { q.flags with missing := x.missing } }))
      ∧ (y.modelSlotOf c.modelId = some i))
    ∧ (∃ (cell : Fin 64) (sn : Nat) (s : State) (c : Cell) (x : UlCtx),
      (s.cell? cell.val = some c)
      ∧ (tget? s.fe.ul (slotKey cell.val sn) = some x)
      ∧ ((x.closeTick = none ∨ x.released = true ∨ x.syms.all (·.stored) = false))) :=
  ⟨⟨0, { wcell cell1 with fe := { ulRecs := [(0, ul0)] } }, _, cell1, { cell1 with cpUl := 1 }, 0, ul0, rfl,
    by decide +kernel, by decide +kernel, by decide +kernel, rfl, by decide +kernel, by decide +kernel, by decide +kernel⟩,
    ⟨0, wcell cell1, _, cell1, { cell1 with cpUl := 1 }, 0, rfl, by decide +kernel, by decide +kernel, by decide +kernel,
      rfl, by decide +kernel, by decide +kernel, by decide +kernel⟩,
    ⟨0, wcell cellC, _, cellC, { cellC with cpUl := 1 }, rfl, by decide +kernel, by decide +kernel, by decide +kernel, rfl,
      by decide +kernel, by decide +kernel⟩,
    ⟨{ frame0 with pause := true }, wport { up := true }, _, by decide +kernel, rfl, by decide +kernel⟩,
    ⟨{ frame0 with fcsGood := false }, wport { up := true }, _, by decide +kernel, rfl, by decide +kernel,
      by decide +kernel⟩,
    ⟨frame1, wru 1, _, by decide +kernel, rfl, by decide +kernel, by decide +kernel, by decide +kernel⟩,
    ⟨frame1, wru 0, _, _, by decide +kernel, rfl, by decide +kernel, by decide +kernel, rfl, rfl⟩,
    ⟨{ frame1 with revision := 2 }, wru 0, _, _, by decide +kernel, rfl, by decide +kernel, by decide +kernel, rfl,
      by decide +kernel⟩,
    ⟨frame0, w0, by decide +kernel⟩,
    ⟨{ msg0 with typ := 1 }, by decide +kernel⟩,
    ⟨0, 0, w0, msg0, by decide +kernel, by decide +kernel⟩,
    ⟨0, 0, 5, _, wul ulc0, cell1, ulc0, rfl, by decide +kernel, rfl⟩,
    ⟨0, 0, 0, 0, 1, _, none, wstore (some 0), _, _, _, cell1, ulcc, symc, ring1 (some 0), _, 0, rfl, by decide +kernel, rfl,
      rfl, rfl, by decide +kernel, by decide +kernel, Or.inl rfl, rfl, pairEta _, rfl, rfl⟩,
    ⟨0, 0, 0, 0, 1, wstore (some 9), cell1, ulcc, symc, ring1 (some 9), 0, rfl, by decide +kernel, rfl, rfl, rfl,
      by decide +kernel⟩,
    ⟨0, 0, 0, _, _, _, wul ulp, _, _, cell1, ulp, prach0, _, rfl, by decide +kernel, rfl, by decide +kernel,
      by decide +kernel, rfl, rfl, rfl, pairEta _, rfl⟩,
    ⟨0, 0, 0, 100, wul0 { ulc0 with closeTick := some 0 }, _, _, cell1, { ulc0 with closeTick := some 0 }, rfl,
      by decide +kernel, rfl, by decide +kernel, by decide +kernel, rfl, rfl, by decide +kernel⟩,
    ⟨0, 0, 0, 0, wul { ulc0 with closeTick := some 0 }, _, _, cell1, { ulc0 with closeTick := some 0 }, _, _, _, _, _, rfl,
      by decide +kernel, rfl, by decide +kernel, by decide +kernel, rfl, rfl, by decide +kernel, pairEta _, pairEta _, rfl,
        by decide +kernel⟩,
    ⟨0, 0, 0, 0, wsmp, _, _, cell1, { ulc0 with closeTick := some 0 }, _, _, _, _, _, 0, rfl, by decide +kernel, rfl,
      by decide +kernel, by decide +kernel, rfl, rfl, by decide +kernel, pairEta _, pairEta _, rfl, by decide +kernel⟩,
    ⟨0, 0, wul ulc0, cell1, ulc0, rfl, by decide +kernel, Or.inl rfl⟩⟩

theorem test_met_Downlink_symbols_ports_and_modules_act :
    (∃ (cell : Fin 64) (sn : Nat) (k : Nat) (t : Nat) (s : State) (u : State) (c : Cell) (d : DlCtx) (l : _),
      (s.cell? cell.val = some c)
      ∧ (dlCtx? s cell.val sn = some d)
      ∧ (c.symAt sn k = some t)
      ∧ (u = s.advanceTo (t - c.upMax))
      ∧ (tget? d.held k = some l)
      ∧ (dlOwed d k = true)
      ∧ (dlSends u c sn = true))
    ∧ (∃ (cell : Fin 64) (sn : Nat) (k : Nat) (t : Nat) (s : State) (u : State) (c : Cell) (d : DlCtx),
      (s.cell? cell.val = some c)
      ∧ (dlCtx? s cell.val sn = some d)
      ∧ (c.symAt sn k = some t)
      ∧ (u = s.advanceTo (t - c.upMax))
      ∧ ((tget? d.held k = none ∨ dlOwed d k = false ∨ dlSends u c sn = false)))
    ∧ (∃ (cell : Fin 64) (sn : Nat) (k : Nat) (t : Nat) (s : State) (u : State) (c : Cell) (d : DlCtx) (l : _),
      (s.cell? cell.val = some c)
      ∧ (dlCtx? s cell.val sn = some d)
      ∧ (c.symAt sn k = some t)
      ∧ (u = s.advanceTo (t - c.upMin))
      ∧ (dlOwed d k = true)
      ∧ (tget? d.held k = some l)
      ∧ (dlSends u c sn = true))
    ∧ (∃ (cell : Fin 64) (sn : Nat) (k : Nat) (t : Nat) (s : State) (u : State) (c : Cell) (d : DlCtx),
      (s.cell? cell.val = some c)
      ∧ (dlCtx? s cell.val sn = some d)
      ∧ (c.symAt sn k = some t)
      ∧ (u = s.advanceTo (t - c.upMin))
      ∧ (dlOwed d k = true)
      ∧ ((tget? d.held k = none ∨ dlSends u c sn = false)))
    ∧ (∃ (p : Fin 8) (peer : BitVec 3) (rate : Nat) (s : State) (u : State),
      (rate = commonRate s p.val peer)
      ∧ (u = s.setPort p (fun x => { x with up := true, rate := rate }))
      ∧ ((s.port p.val).up = false ∧ rate ≠ 0 ∧ moduleAllows s p = true ∧ s.busumUp = true ∧ s.lanesOn = true))
    ∧ (∃ (p : Fin 8) (peer : BitVec 3) (rate : Nat) (s : State) (u : State),
      (rate = commonRate s p.val peer)
      ∧ (u = s.setPort p (fun x => { x with up := true, rate := rate }))
      ∧ (((s.port p.val).up = true ∨ rate = 0 ∨ moduleAllows s p = false ∨ s.busumUp = false ∨ s.lanesOn = false)))
    ∧ (∃ (p : Fin 8) (s : State),
      ((s.port p.val).up = true))
    ∧ (∃ (p : Fin 8) (s : State),
      ((s.port p.val).up = false))
    ∧ (∃ (i : Fin 8) (s : State),
      ((s.fe.cages[i]).present = false))
    ∧ (∃ (i : Fin 8) (lower : Bytes) (upper : Bytes) (s : State) (u : State),
      ((s.fe.cages[i]).present = true)
      ∧ (u = s.setCage i (fun c => { c with ready := true, identified := pageGood upper, page0 := slice lower 0 128 ++ slice upper 0 128 })))
    ∧ (∃ (i : Fin 8) (s : State),
      ((s.fe.cages[i]).present = true)
      ∧ ((s.fe.cages[i]).ready = false)
      ∧ ((s.fe.cages[i]).decided = false))
    ∧ (∃ (i : Fin 8) (s : State),
      ((s.fe.cages[i]).present = true)
      ∧ (((s.fe.cages[i]).ready = true ∨ (s.fe.cages[i]).decided = true))
      ∧ ((s.fe.cages[i]).quarantined = false)
      ∧ ((s.fe.quarantineMode.val = 0 ∨ s.listed (s.fe.cages[i]) = true)))
    ∧ (∃ (i : Fin 8) (s : State),
      ((s.fe.cages[i]).present = true)
      ∧ (((s.fe.cages[i]).ready = true ∨ (s.fe.cages[i]).decided = true))
      ∧ ((s.fe.cages[i]).quarantined = false)
      ∧ (s.fe.quarantineMode.val = 1)
      ∧ (s.listed (s.fe.cages[i]) = false)
      ∧ ((s.fe.cages[i]).unlisted = false))
    ∧ (∃ (i : Fin 8) (s : State),
      ((s.fe.cages[i]).present = true)
      ∧ (((s.fe.cages[i]).ready = true ∨ (s.fe.cages[i]).decided = true))
      ∧ ((s.fe.cages[i]).quarantined = false)
      ∧ (s.fe.quarantineMode.val = 2)
      ∧ (s.listed (s.fe.cages[i]) = false))
    ∧ (∃ (i : Fin 8) (s : State) (u : State),
      ((s.fe.cages[i]).present = true)
      ∧ (u = (downPort i s).setCage i (fun _ => {}))
      ∧ ((s.fe.cages[i]).identified = true))
    ∧ (∃ (i : Fin 8) (s : State) (u : State),
      ((s.fe.cages[i]).present = true)
      ∧ (u = (downPort i s).setCage i (fun _ => {}))
      ∧ ((s.fe.cages[i]).identified = false))
    ∧ (∃ (i : Fin 8) (s : State),
      ((s.fe.cages[i]).counts = true))
    ∧ (∃ (i : Fin 8) (s : State) (m : _) (n : _),
      ((s.fe.cages[i]).counts = true)
      ∧ (s.moduleOf (s.fe.cages[i]).serial = some m)
      ∧ (n = remainingLife s (closeHour m)))
    ∧ (∃ (i : Fin 8) (s : State),
      ((s.fe.cages[i]).present = true))
    ∧ (∃ (p : Fin 8) (s : State),
      ((s.port p.val).cak ≠ [])
      ∧ ((s.port p.val).macsecMode ≠ 0))
    ∧ (∃ (p : Fin 8) (t : Nat) (s : State),
      ((s.port p.val).retireAt = some t)) :=
  ⟨⟨0, 0, 3, _, wdlp dlHeld, _, cell1, dlHeld, [(0, [1])], rfl, rfl, rfl, rfl, rfl, by decide +kernel, rfl⟩,
    ⟨0, 0, 3, _, wdlp dlOther, _, cell1, dlOther, rfl, rfl, rfl, rfl, Or.inl rfl⟩,
    ⟨0, 0, 3, _, wdlp dlHeld, _, cell1, dlHeld, [(0, [1])], rfl, rfl, rfl, rfl, by decide +kernel, rfl, rfl⟩,
    ⟨0, 0, 3, _, wdlp dlOther, _, cell1, dlOther, rfl, rfl, rfl, rfl, by decide +kernel, Or.inl rfl⟩,
    ⟨0, 1, _, w0, _, rfl, rfl, by decide +kernel⟩,
    ⟨0, 0, _, w0, _, rfl, rfl, Or.inr (Or.inl rfl)⟩,
    ⟨0, wport { up := true }, by decide +kernel⟩,
    ⟨0, w0, by decide +kernel⟩,
    ⟨0, w0, by decide +kernel⟩,
    ⟨0, [1], [1], wc { present := true }, _, by decide +kernel, rfl⟩,
    ⟨0, wc { present := true }, by decide +kernel, by decide +kernel, by decide +kernel⟩,
    ⟨0, { wc { present := true, ready := true } with fe := { cages := Vector.replicate 8 { present := true, ready := true }, quarantineMode := 0 } },
      by decide +kernel, by decide +kernel, by decide +kernel, by decide +kernel⟩,
    ⟨0, { wc { present := true, ready := true } with fe := { cages := Vector.replicate 8 { present := true, ready := true }, quarantineMode := 1 } },
      by decide +kernel, by decide +kernel, by decide +kernel, rfl, by decide +kernel, by decide +kernel⟩,
    ⟨0, { wc { present := true, ready := true } with fe := { cages := Vector.replicate 8 { present := true, ready := true }, quarantineMode := 2 } },
      by decide +kernel, by decide +kernel, by decide +kernel, rfl, by decide +kernel⟩,
    ⟨0, wc { present := true, identified := true }, _, by decide +kernel, rfl, by decide +kernel⟩,
    ⟨0, wc { present := true }, _, by decide +kernel, rfl, by decide +kernel⟩,
    ⟨0, wc { present := true, identified := true, ready := true }, by decide +kernel⟩,
    ⟨0, { w0 with fe := { cages := Vector.replicate 8 { present := true, identified := true, ready := true, page0 := page1 }, modules := [entry0] } },
      entry0, _, by decide +kernel, rfl, rfl⟩,
    ⟨0, wc { present := true }, by decide +kernel⟩,
    ⟨0, wport { cak := [1] }, by decide +kernel, by decide +kernel⟩,
    ⟨0, _, wport { rxOld := [{ sci := 0, an := 0, since := some 9 }] }, rfl⟩⟩

theorem test_met_Received_bits_are_combined_decoded_and_written_back :
    (∃ (tag : BitVec 16) (i : Nat) (at_ : Nat) (ecc : HarqEcc) (s : State) (u : State) (r : RxCtx) (r1 : RxCtx) (x :
      PuschCtx) (x1 : PuschCtx) (q : Quire),
      (s.rx? tag = some r)
      ∧ (r.pusch[i]? = some x)
      ∧ (r.late = false)
      ∧ (r.posted = false)
      ∧ (x.handed = none)
      ∧ (x.combined = false)
      ∧ (x.modelLimit = false)
      ∧ (tget? s.quires tag.toNat = some q)
      ∧ (q.state ≠ .faulted)
      ∧ (x1 = { x with handed := some (at_, ecc) })
      ∧ (r1 = { r with pusch := listMod r.pusch i fun x => { x with handed := some (at_, ecc) } })
      ∧ (u = s.setPusch tag i (fun x => { x with handed := some (at_, ecc) }))
      ∧ ((∀ a, harqAddr u x.pdu = some a → bufferFree u r1 a = true)))
    ∧ (∃ (tag : BitVec 16) (i : Nat) (at_ : Nat) (ecc : HarqEcc) (s : State) (u : State) (r : RxCtx) (r1 : RxCtx) (x :
      PuschCtx) (x1 : PuschCtx) (q : Quire) (a : _),
      (s.rx? tag = some r)
      ∧ (r.pusch[i]? = some x)
      ∧ (r.late = false)
      ∧ (r.posted = false)
      ∧ (x.handed = none)
      ∧ (x.combined = false)
      ∧ (x.modelLimit = false)
      ∧ (tget? s.quires tag.toNat = some q)
      ∧ (q.state ≠ .faulted)
      ∧ (x1 = { x with handed := some (at_, ecc) })
      ∧ (r1 = { r with pusch := listMod r.pusch i fun x => { x with handed := some (at_, ecc) } })
      ∧ (u = s.setPusch tag i (fun x => { x with handed := some (at_, ecc) }))
      ∧ (harqAddr u x.pdu = some a)
      ∧ (bufferFree u r1 a = false))
    ∧ (∃ (tag : BitVec 16) (i : Nat) (at0 : Nat) (ecc0 : HarqEcc) (s : State) (r : RxCtx) (x : PuschCtx),
      (s.rx? tag = some r)
      ∧ (r.pusch[i]? = some x)
      ∧ (x.handed = some (at0, ecc0))
      ∧ (x.combined = false)
      ∧ ((∀ a, harqAddr s x.pdu = some a → bufferFree s r a = true)))
    ∧ (∃ (tag : BitVec 16) (i : Nat) (at0 : Nat) (ecc0 : HarqEcc) (s : State) (r : RxCtx) (x : PuschCtx),
      (s.rx? tag = some r)
      ∧ (r.pusch[i]? = some x)
      ∧ (x.handed = some (at0, ecc0))
      ∧ ((x.combined = true ∨ ∃ a, harqAddr s x.pdu = some a ∧ bufferFree s r a = false)))
    ∧ (∃ (k : Fin 4) (s : State),
      (s.coding.harq ≠ none)
      ∧ (3 * ringSize < 4 * ringBytes s k))
    ∧ (∃ (k : Fin 4) (s : State),
      ((s.coding.harq = none ∨ 4 * ringBytes s k ≤ 3 * ringSize)))
    ∧ (∃ (tag : BitVec 16) (i : Nat) (n : Nat) (a : Nat) (m : Nat) (bad : Bool) (s : State) (u : State) (r : RxCtx) (x :
      PuschCtx) (c : CbCtx) (b : List Bool),
      (s.rx? tag = some r)
      ∧ (r.pusch[i]? = some x)
      ∧ (x.cbs[n]? = some c)
      ∧ (r.late = false)
      ∧ (r.posted = false)
      ∧ ((c.state = .waiting ∨ (c.state = .spilled ∧ bad = false)))
      ∧ (takePlace s tag i x.pdu = some (a, u))
      ∧ (ldpcDecode (segOf x.pdu) r.beta r.maxIter (backLlrs s x n c) = (b, m)))
    ∧ (∃ (tag : BitVec 16) (i : Nat) (n : Nat) (a : Nat) (d : Nat) (s : State) (u : State) (v : State) (r : RxCtx) (x :
      PuschCtx) (c : CbCtx),
      (s.rx? tag = some r)
      ∧ (r.pusch[i]? = some x)
      ∧ (x.cbs[n]? = some c)
      ∧ (r.late = false)
      ∧ (r.posted = false)
      ∧ (c.state = .spilled)
      ∧ (takePlace s tag i x.pdu = some (a, u))
      ∧ (u.draw = (d, v)))
    ∧ (∃ (tag : BitVec 16) (i : Nat) (n : Nat) (s : State) (r : RxCtx) (x : PuschCtx) (c : CbCtx),
      (s.rx? tag = some r)
      ∧ (r.pusch[i]? = some x)
      ∧ (x.cbs[n]? = some c)
      ∧ (takePlace s tag i x.pdu = none))
    ∧ (∃ (tag : BitVec 16) (i : Nat) (n : Nat) (s : State) (r : RxCtx) (x : PuschCtx) (c : CbCtx),
      (s.rx? tag = some r)
      ∧ (r.pusch[i]? = some x)
      ∧ (x.cbs[n]? = some c)
      ∧ (r.posted = false)
      ∧ ((c.state = .passed ∨ c.state = .failed))
      ∧ (c.written = false))
    ∧ (∃ (tag : BitVec 16) (i : Nat) (n : Nat) (s : State) (r : RxCtx) (x : PuschCtx) (c : CbCtx),
      (s.rx? tag = some r)
      ∧ (r.pusch[i]? = some x)
      ∧ (x.cbs[n]? = some c)
      ∧ (r.posted = false)
      ∧ ((c.state = .passed ∨ c.state = .failed))
      ∧ (c.written = true))
    ∧ (∃ (tag : BitVec 16) (i : Nat) (a : Nat) (s : State) (u : State) (r : RxCtx) (x : PuschCtx) (out : Bytes),
      (s.rx? tag = some r)
      ∧ (r.pusch[i]? = some x)
      ∧ (r.late = false)
      ∧ (r.posted = false)
      ∧ (x.combined = true)
      ∧ (x.tbPass = none)
      ∧ ((x.cbs.all fun c => c.state == .passed || c.state == .failed || c.state == .stored) = true)
      ∧ (takePlace s tag i x.pdu = some (a, u))
      ∧ (out = packBits ((tbBits x.pdu x.cbs).take x.pdu.tbs)))
    ∧ (∃ (tag : BitVec 16) (i : Nat) (s : State) (r : RxCtx) (x : PuschCtx) (ok : Bool),
      (s.rx? tag = some r)
      ∧ (r.pusch[i]? = some x)
      ∧ (x.tbPass = some ok)
      ∧ (r.posted = false)
      ∧ (x.cbs.all (·.written) = true)
      ∧ (x.headerWritten = false))
    ∧ (∃ (tag : BitVec 16) (i : Nat) (s : State) (r : RxCtx) (x : PuschCtx) (ok : Bool),
      (s.rx? tag = some r)
      ∧ (r.pusch[i]? = some x)
      ∧ (x.tbPass = some ok)
      ∧ (r.posted = false)
      ∧ (x.cbs.all (·.written) = true)
      ∧ (x.headerWritten = true))
    ∧ (∃ (tag : BitVec 16) (i : Nat) (s : State) (r : RxCtx) (x : PuschCtx) (l : List Bool),
      (s.rx? tag = some r)
      ∧ (r.pusch[i]? = some x)
      ∧ (l = ((encodeTb (unpackBits x.pdu.tbs x.payload) x.pdu.bg x.pdu.qm x.pdu.layers x.pdu.rv.val x.pdu.g x.pdu.tbsLbrm
        x.pdu.cbgTx).zip (scrAt x.pdu.cInit.toNat x.pdu.ulAt x.pdu.g)).map (fun y => y.1 != y.2))
      ∧ (x.tbPass = some true)
      ∧ (downlinkWaits s = false))
    ∧ (∃ (tag : BitVec 16) (i : Nat) (s : State) (r : RxCtx) (x : PuschCtx) (l : List Bool),
      (s.rx? tag = some r)
      ∧ (r.pusch[i]? = some x)
      ∧ (l = ((encodeTb (unpackBits x.pdu.tbs x.payload) x.pdu.bg x.pdu.qm x.pdu.layers x.pdu.rv.val x.pdu.g x.pdu.tbsLbrm
        x.pdu.cbgTx).zip (scrAt x.pdu.cInit.toNat x.pdu.ulAt x.pdu.g)).map (fun y => y.1 != y.2))
      ∧ ((x.tbPass ≠ some true ∨ downlinkWaits s = true)))
    ∧ (∃ (tag : BitVec 16) (i : Nat) (s : State) (r : RxCtx) (u : UciCtx),
      (uciOpen s tag i = some (r, u))
      ∧ (12 ≤ u.part.k))
    ∧ (∃ (tag : BitVec 16) (i : Nat) (at_ : Nat) (s : State) (r : RxCtx) (u : UciCtx) (b : List Bool) (m : Int) (t : Nat),
      (uciOpen s tag i = some (r, u))
      ∧ (u.part.k ≠ 0)
      ∧ (u.part.k < 12)
      ∧ (smallDecode u.part.k u.part.qm (uciRead s tag u.part at_) = (b, m, t))
      ∧ (t ≠ 0))
    ∧ (∃ (tag : BitVec 16) (i : Nat) (at_ : Nat) (s : State) (r : RxCtx) (u : UciCtx) (b : List Bool) (m : Int) (t : Nat),
      (uciOpen s tag i = some (r, u))
      ∧ (u.part.k ≠ 0)
      ∧ (u.part.k < 12)
      ∧ (smallDecode u.part.k u.part.qm (uciRead s tag u.part at_) = (b, m, t))
      ∧ (t = 0))
    ∧ (∃ (tag : BitVec 16) (i : Nat) (s : State) (r : RxCtx) (u : UciCtx),
      (uciOpen s tag i = some (r, u))
      ∧ (u.part.k < 12))
    ∧ (∃ (tag : BitVec 16) (i : Nat) (s : State) (d : DlCtx) (q : Quire) (p : Prog) (b : List Bool) (a : _),
      (tget? s.coding.dl tag.toNat = some d)
      ∧ (tget? s.quires tag.toNat = some q)
      ∧ (q.prog = some p)
      ∧ (d.fault = false)
      ∧ (d.posted = false)
      ∧ (dlCoded d i = some b)
      ∧ (p.codedAt[i]? = some a)
      ∧ (a + (packBits b).length ≤ q.qd.len))
    ∧ (∃ (tag : BitVec 16) (i : Nat) (s : State) (d : DlCtx) (q : Quire) (p : Prog) (b : List Bool),
      (tget? s.coding.dl tag.toNat = some d)
      ∧ (tget? s.quires tag.toNat = some q)
      ∧ (q.prog = some p)
      ∧ (d.fault = false)
      ∧ (d.posted = false)
      ∧ (dlCoded d i = some b)
      ∧ ((p.codedAt[i]? = none ∨ ∃ a, p.codedAt[i]? = some a ∧ q.qd.len < a + (packBits b).length)))
    ∧ (∃ (tag : BitVec 16) (root : Nat) (stream : Nat) (rep : Nat) (u : Nat × List Nat) (s : State) (x : PrachCtx) (x1 :
      PrachCtx) (q : Quire) (y : List (BitVec 32)),
      (tget? s.coding.prach tag.toNat = some x)
      ∧ (tget? s.quires tag.toNat = some q)
      ∧ (q.state.open_ = true)
      ∧ (x.detected = false)
      ∧ ((prachRoots x.pdu)[root]? = some u)
      ∧ (stream < x.streams)
      ∧ (rep < prachReps x.pdu)
      ∧ (y = (tget x.y (stream * 64 + rep) []).take (prachLen x.pdu))
      ∧ (x1 = { x with pdp := tset x.pdp ((root * 64 + stream) * 64 + rep) (prachProfile (prachLen x.pdu) u.1 (y ++ List.replicate (prachLen x.pdu - y.length) 0)) }))
        :=
  ⟨⟨5, 0, 0, ⟨false, []⟩, wrx (px0), _, rxp (px0), _, px0, _, quire .slotReception .running, rfl, rfl, by decide +kernel,
    by decide +kernel, rfl, by decide +kernel, by decide +kernel, rfl, by decide +kernel, rfl, rfl, rfl,
      fun _ h => nomatch h⟩,
    ⟨5, 0, 0, ⟨false, []⟩, whold px0, _, rxLater px0, _, px0, _, quire .slotReception .running, _, rfl, rfl,
      by decide +kernel, by decide +kernel, rfl, by decide +kernel, by decide +kernel, rfl, by decide +kernel, rfl, rfl, rfl,
        rfl, by decide +kernel⟩,
    ⟨5, 0, 0, ⟨false, []⟩, wrx (pxHeld), rxp (pxHeld), pxHeld, rfl, rfl, rfl, by decide +kernel, fun _ h => nomatch h⟩,
    ⟨5, 0, 0, ⟨false, []⟩, wrx ({ pxHeld with combined := true }), rxp ({ pxHeld with combined := true }),
      { pxHeld with combined := true }, rfl, rfl, rfl, by decide +kernel⟩,
    ⟨0, { w0 with coding := { harq := some harq0, ring := [(0, 5, 0, 0, 0x120000)] } }, nofun, by decide +kernel⟩,
    ⟨0, w0, Or.inl rfl⟩,
    ⟨5, 0, 0, _, _, false, wrx (cbx { state := .waiting }), _, rxp (cbx { state := .waiting }), cbx { state := .waiting },
      { state := .waiting }, _, rfl, rfl, rfl, by decide +kernel, by decide +kernel, Or.inl rfl, rfl, pairEta _⟩,
    ⟨5, 0, 0, _, _, wrx (cbx { state := .spilled }), _, _, rxp (cbx { state := .spilled }), cbx { state := .spilled },
      { state := .spilled }, rfl, rfl, rfl, by decide +kernel, by decide +kernel, rfl, rfl, pairEta _⟩,
    ⟨5, 0, 0, { wrx (cbx {}) with coding := { rx := [(5, rxp (cbx {}))], decOut := [(9, 0, ⟨0, 0x300000⟩)] } }, rxp (cbx {}),
      cbx {}, {}, rfl, rfl, rfl, by decide +kernel⟩,
    ⟨5, 0, 0, wrx (cbx { state := .passed }), rxp (cbx { state := .passed }), cbx { state := .passed }, { state := .passed },
      rfl, rfl, rfl, by decide +kernel, Or.inl rfl, by decide +kernel⟩,
    ⟨5, 0, 0, wrx (cbx { state := .passed, written := true }), rxp (cbx { state := .passed, written := true }),
      cbx { state := .passed, written := true }, { state := .passed, written := true }, rfl, rfl, rfl, by decide +kernel,
        Or.inl rfl, by decide +kernel⟩,
    ⟨5, 0, _, wrx (cbx { state := .passed, written := true }), _, rxp (cbx { state := .passed, written := true }),
      cbx { state := .passed, written := true }, _, rfl, rfl, by decide +kernel, by decide +kernel, by decide +kernel, rfl,
        rfl, rfl, rfl⟩,
    ⟨5, 0, wrx ({ cbx { state := .passed, written := true } with tbPass := some true }),
      rxp ({ cbx { state := .passed, written := true } with tbPass := some true }),
        { cbx { state := .passed, written := true } with tbPass := some true }, true, rfl, rfl, rfl, by decide +kernel,
          by decide +kernel, by decide +kernel⟩,
    ⟨5, 0, wrx ({ { cbx { state := .passed, written := true } with tbPass := some true } with headerWritten := true }),
      rxp ({ { cbx { state := .passed, written := true } with tbPass := some true } with headerWritten := true }),
        { { cbx { state := .passed, written := true } with tbPass := some true } with headerWritten := true }, true, rfl,
          rfl, rfl, by decide +kernel, by decide +kernel, by decide +kernel⟩,
    ⟨5, 0, wrx ({ cbx { state := .passed, written := true } with tbPass := some true }),
      rxp ({ cbx { state := .passed, written := true } with tbPass := some true }),
        { cbx { state := .passed, written := true } with tbPass := some true }, _, rfl, rfl, rfl, rfl, by decide +kernel⟩,
    ⟨5, 0, wrx (px0), rxp (px0), px0, _, rfl, rfl, rfl, Or.inl (by decide +kernel)⟩,
    ⟨5, 0, wru0 12, rxu 12, uci0 12, rfl, by decide +kernel⟩,
    ⟨5, 0, 0, { wru0 3 with mem := Mem.write [] (codAt + 0x480000) [5, 5, 5] }, rxu 3, uci0 3, _, _, _, rfl,
      by decide +kernel, by decide +kernel, triEta _, by decide +kernel⟩,
    ⟨5, 0, 0, wru0 3, rxu 3, uci0 3, _, _, _, rfl, by decide +kernel, by decide +kernel, triEta _, by decide +kernel⟩,
    ⟨5, 0, wru0 3, rxu 3, uci0 3, rfl, by decide +kernel⟩,
    ⟨5, 0, { wq { quire .downlink .running with prog := some { prog0 with codedAt := [0] }, qd := ⟨0, 64⟩ } with coding := { dl := [(5, dlci)] } },
      dlci, { quire .downlink .running with prog := some { prog0 with codedAt := [0] }, qd := ⟨0, 64⟩ },
        { prog0 with codedAt := [0] }, _, 0, rfl, rfl, rfl, by decide +kernel, by decide +kernel, rfl, rfl,
          by decide +kernel⟩,
    ⟨5, 0, { wq { quire .downlink .running with prog := some { prog0 with codedAt := [] }, qd := ⟨0, 64⟩ } with coding := { dl := [(5, dlci)] } },
      dlci, { quire .downlink .running with prog := some { prog0 with codedAt := [] }, qd := ⟨0, 64⟩ },
        { prog0 with codedAt := [] }, _, rfl, rfl, rfl, by decide +kernel, by decide +kernel, rfl, Or.inl rfl⟩,
    ⟨5, 0, 0, 0, _, { wq (quire .prach .running) with coding := { prach := [(5, ctx1)] } }, ctx1, _, quire .prach .running,
      _, rfl, rfl, by decide +kernel, by decide +kernel, rfl, by decide +kernel, by decide +kernel, rfl, rfl⟩⟩

theorem test_met_Adaptation_and_the_yardstick_advance :
    (∃ (i : Fin 16) (r : StepResult) (s : State) (m : Model) (v : Version) (tag : Nat) (q : Quire),
      (s.model? i.val = some m)
      ∧ (adaptDone s i.val = some tag)
      ∧ (m.candidate? = some v)
      ∧ (tget? s.quires tag = some q)
      ∧ (v.state = .training)
      ∧ (stepFits m v r = true))
    ∧ (∃ (i : Fin 16) (r : StepResult) (s : State) (m : Model) (v : Version) (tag : Nat) (q : Quire),
      (s.model? i.val = some m)
      ∧ (adaptDone s i.val = some tag)
      ∧ (m.candidate? = some v)
      ∧ (tget? s.quires tag = some q)
      ∧ (v.state = .training)
      ∧ (stepFits m v r = false))
    ∧ (∃ (i : Nat) (s : State) (m : Model) (m1 : Model),
      (s.model? i = some m)
      ∧ (s.bePending (65 + i) = false)
      ∧ (m.job = [])
      ∧ (m.candidate? = none)
      ∧ (m.watch = none)
      ∧ (m.promote = none)
      ∧ (fld (m.nextParams.getD m.params) 0 1 = 1)
      ∧ (m.startCandidate.nextJob = some m1))
    ∧ (∃ (i : Fin 16) (r : EvalResult) (s : State) (m : Model) (m1 : Model) (v : Version) (tag : Nat) (x : SampleRec),
      (s.model? i.val = some m)
      ∧ (adaptDone s i.val = some tag)
      ∧ (m.candidate? = some v)
      ∧ (v.state = .evaluating)
      ∧ (evalFits m r = true)
      ∧ (m.jobRecs.getLast? = some x)
      ∧ (m1 = { m.setVersion v.number (fun x => { x with meanLoss := BitVec.ofNat 32 (meanLoss m.llrScale (weighed m.jobRecs r.cand)) }) with job := [] })
      ∧ (evalPasses m v r = false))
    ∧ (Config.softplus2 0xFF800000 = 0 → Config.softplus2 0x7F800000 = 0x7F800000 → ((Config.layers []).filter
      (·.adaptable)).all (driftOk [] []) = true → ∃ (i : Fin 16) (r : EvalResult) (s : State) (m : Model) (m1 : Model) (v :
        Version) (tag : Nat) (x : SampleRec),
      (s.model? i.val = some m)
      ∧ (adaptDone s i.val = some tag)
      ∧ (m.candidate? = some v)
      ∧ (v.state = .evaluating)
      ∧ (evalFits m r = true)
      ∧ (m.jobRecs.getLast? = some x)
      ∧ (m1 = { m.setVersion v.number (fun x => { x with meanLoss := BitVec.ofNat 32 (meanLoss m.llrScale (weighed m.jobRecs r.cand)) }) with job := [] })
      ∧ (evalPasses m v r = true))
    ∧ (∃ (i : Fin 16) (e : Fin 16) (s : State) (m : Model) (p : Promote) (k : Fin 4) (pos : Nat) (w : List Nat),
      (s.model? i.val = some m)
      ∧ (m.promote = some p)
      ∧ (k = clOfEng e)
      ∧ ((s.inService k.val).findIdx? (· == e.val) = some pos)
      ∧ (w = e.val :: (if (m.copies[k]).writing = some p.version then (m.copies[k]).written else []).filter (· != e.val))
      ∧ (i.val ∈ s.residentModels k)
      ∧ ((m.copies[k]).standby ≠ some p.version)
      ∧ ((m.copies[k]).active ≠ p.version))
    ∧ (∃ (i : Fin 16) (e : Fin 16) (s : State) (m : Model) (p : Promote) (k : Fin 4) (pos : Nat) (w : List Nat),
      (s.model? i.val = some m)
      ∧ (m.promote = some p)
      ∧ (k = clOfEng e)
      ∧ ((s.inService k.val).findIdx? (· == e.val) = some pos)
      ∧ (w = e.val :: (if (m.copies[k]).writing = some p.version then (m.copies[k]).written else []).filter (· != e.val))
      ∧ ((i.val ∉ s.residentModels k ∨ (m.copies[k]).standby = some p.version ∨ (m.copies[k]).active = p.version)))
    ∧ (∃ (i : Fin 16) (s : State) (m : Model) (w : Watch),
      (s.model? i.val = some m)
      ∧ (m.watch = some w)
      ∧ (w.seen < m.rbWindow))
    ∧ (∃ (i : Fin 16) (s : State) (m : Model) (w : Watch),
      (s.model? i.val = some m)
      ∧ (m.watch = some w)
      ∧ (m.rbWindow ≤ w.seen)
      ∧ (w.fNew * 2 ^ m.rbK ≤ w.fOld * (2 ^ m.rbK + 1) + 16 * 2 ^ m.rbK))
    ∧ (∃ (i : Fin 16) (s : State) (m : Model) (w : Watch),
      (s.model? i.val = some m)
      ∧ (m.watch = some w)
      ∧ (m.rbWindow ≤ w.seen)
      ∧ (w.fOld * (2 ^ m.rbK + 1) + 16 * 2 ^ m.rbK < w.fNew * 2 ^ m.rbK))
    ∧ (∃ (cell : Fin 64) (tag : BitVec 16) (s : State) (c : Cell) (x : YardSample) (l : List YardSample) (m : Model),
      (yardDone s cell.val tag = true)
      ∧ (s.cell? cell.val = some c)
      ∧ ((tget s.yard cell.val {}).samples = x :: l)
      ∧ ((s.modelSlotOf c.modelId).bind s.model? = some m))
    ∧ (∃ (cell : Fin 64) (s : State) (u : State) (c : Cell) (x : YardSample) (l : List YardSample),
      (s.cell? cell.val = some c)
      ∧ ((tget s.yard cell.val {}).samples = x :: l)
      ∧ (u = s.advanceTo (x.at_ + usTicks (1000 * c.yardExpiry)))) :=
  ⟨⟨0, { grads := [[]], arrival := [0] }, wad ({ mv [vers0 .training] with job := [2] }),
    { mv [vers0 .training] with job := [2] }, vers0 .training, 5, qad, rfl, rfl, rfl, rfl, rfl, by decide +kernel⟩,
    ⟨0, { grads := [], arrival := [] }, wad ({ mv [vers0 .training] with job := [2] }),
      { mv [vers0 .training] with job := [2] }, vers0 .training, 5, qad, rfl, rfl, rfl, rfl, rfl, by decide +kernel⟩,
    ⟨0, wm (mv []), mv [], _, rfl, by decide +kernel, rfl, rfl, rfl, rfl, rfl, rfl⟩,
    ⟨0, { cand := [[]], active := [[]] }, wad (mev [(true, rec0 3)]), mev [(true, rec0 3)], _, vers0 .evaluating, 5, rec0 3,
      rfl, rfl, rfl, rfl, by decide +kernel, rfl, rfl, by decide +kernel⟩,
    (fun h1 h2 h3 => ⟨0, evGood, wad (mev [(true, recLab)]), mev [(true, recLab)], _, vers0 .evaluating, 5, recLab, rfl, rfl,
      rfl, rfl, by decide +kernel, rfl, rfl, evalOk h1 h2 h3⟩),
    ⟨0, 0, { wm ({ mv [vers0 .staged] with promote := some prom }) with cfg := { cells := [(0, cell9)] } },
      { mv [vers0 .staged] with promote := some prom }, prom, 0, _, _, rfl, rfl, rfl, rfl, rfl, by decide +kernel,
        by decide +kernel, by decide +kernel⟩,
    ⟨0, 0, wm ({ mv [vers0 .staged] with promote := some prom }), { mv [vers0 .staged] with promote := some prom }, prom, 0,
      _, _, rfl, rfl, rfl, rfl, rfl, Or.inl (by decide +kernel)⟩,
    ⟨0, wad ({ mw { seen := 0, fNew := 0, fOld := 0, parent := 0 } with params := zeros 24 ++ [9] ++ zeros 39 }),
      { mw { seen := 0, fNew := 0, fOld := 0, parent := 0 } with params := zeros 24 ++ [9] ++ zeros 39 },
        { seen := 0, fNew := 0, fOld := 0, parent := 0 }, rfl, rfl, by decide +kernel⟩,
    ⟨0, wad (mw { seen := 0, fNew := 16, fOld := 0, parent := 0 }), mw { seen := 0, fNew := 16, fOld := 0, parent := 0 },
      { seen := 0, fNew := 16, fOld := 0, parent := 0 }, rfl, rfl, by decide +kernel, by decide +kernel⟩,
    ⟨0, wad (mw { seen := 0, fNew := 17, fOld := 0, parent := 0 }), mw { seen := 0, fNew := 17, fOld := 0, parent := 0 },
      { seen := 0, fNew := 17, fOld := 0, parent := 0 }, rfl, rfl, by decide +kernel, by decide +kernel⟩,
    ⟨0, 5, wyard, cell9, ws0, [], mv [], by decide +kernel, rfl, rfl, by decide +kernel⟩,
    ⟨0, wyard, _, cell9, ws0, [], rfl, rfl, rfl⟩⟩

theorem test_met_Stitch_links_and_members_change_state :
    (∃ (l : Fin 4) (slow : BitVec 4) (fast : BitVec 4) (s : State) (rate : _) (set : _) (lanes : _),
      (s.lanesOn = true)
      ∧ ((s.link l).enable = true)
      ∧ (s.wired l = true)
      ∧ ((s.link l).state = .training ∨ (s.link l).state = .down)
      ∧ ((s.link l).trains slow fast = some (rate, set, lanes)))
    ∧ (∃ (l : Fin 4) (slow : BitVec 4) (fast : BitVec 4) (s : State),
      (s.lanesOn = true)
      ∧ ((s.link l).enable = true)
      ∧ (s.wired l = true)
      ∧ ((s.link l).state = .training ∨ (s.link l).state = .down)
      ∧ ((s.link l).trains slow fast = none))
    ∧ (∃ (l : Fin 4) (chip : BitVec 6) (pool : BitVec 64) (topo : BitVec 2) (link : BitVec 2) (s : State),
      (((s.link l).state = .training ∧ (s.link l).lanes ≠ 0) ∨ (s.link l).state = .miswired)
      ∧ (pool.toNat = s.poolId)
      ∧ (topo.toNat = s.topology)
      ∧ (chip.toNat = s.neighbour l)
      ∧ (link.toNat = peerLink l))
    ∧ (∃ (l : Fin 4) (chip : BitVec 6) (pool : BitVec 64) (topo : BitVec 2) (link : BitVec 2) (s : State),
      (((s.link l).state = .training ∧ (s.link l).lanes ≠ 0) ∨ (s.link l).state = .miswired)
      ∧ (pool.toNat ≠ s.poolId ∨ topo.toNat ≠ s.topology ∨ chip.toNat ≠ s.neighbour l ∨ link.toNat ≠ peerLink l))
    ∧ (∃ (l : Fin 4) (chip : BitVec 6) (pool : BitVec 64) (topo : BitVec 2) (link : BitVec 2) (s : State),
      ((s.link l).state = .up ∨ (s.link l).state = .degraded)
      ∧ (pool.toNat ≠ s.poolId ∨ topo.toNat ≠ s.topology ∨ chip.toNat ≠ s.neighbour l ∨ link.toNat ≠ peerLink l))
    ∧ (∃ (l : Fin 4) (s : State),
      ((s.link l).state = .miswired))
    ∧ (∃ (l : Fin 4) (b : Bytes) (fec : Fin 3) (s : State) (u : State) (want : BitVec 16),
      ((s.link l).state = .up ∨ (s.link l).state = .degraded)
      ∧ (want = (if bits (fld b 0 8) 60 4 = 1 then (s.link l).rxSeq + 1 else (s.link l).rxSeq))
      ∧ (u = (if fec.val = 1 then s.slCount .fecCorr l.val else s))
      ∧ (fec.val = 2))
    ∧ (∃ (l : Fin 4) (b : Bytes) (fec : Fin 3) (s : State) (u : State) (want : BitVec 16),
      ((s.link l).state = .up ∨ (s.link l).state = .degraded)
      ∧ (want = (if bits (fld b 0 8) 60 4 = 1 then (s.link l).rxSeq + 1 else (s.link l).rxSeq))
      ∧ (u = (if fec.val = 1 then s.slCount .fecCorr l.val else s))
      ∧ (fec.val ≠ 2)
      ∧ (b.length ≠ 256 ∨ crc32c (b.take 252) ≠ fld b 252 4))
    ∧ (∃ (l : Fin 4) (b : Bytes) (fec : Fin 3) (s : State) (u : State) (want : BitVec 16),
      ((s.link l).state = .up ∨ (s.link l).state = .degraded)
      ∧ (want = (if bits (fld b 0 8) 60 4 = 1 then (s.link l).rxSeq + 1 else (s.link l).rxSeq))
      ∧ (u = (if fec.val = 1 then s.slCount .fecCorr l.val else s))
      ∧ (fec.val ≠ 2)
      ∧ (b.length = 256)
      ∧ (crc32c (b.take 252) = fld b 252 4)
      ∧ (1 < bits (fld b 0 8) 60 4 ∨ bits (fld b 0 8) 0 16 ≠ want.toNat))
    ∧ (∃ (l : Fin 4) (b : Bytes) (fec : Fin 3) (s : State) (u : State) (want : BitVec 16),
      ((s.link l).state = .up ∨ (s.link l).state = .degraded)
      ∧ (want = (if bits (fld b 0 8) 60 4 = 1 then (s.link l).rxSeq + 1 else (s.link l).rxSeq))
      ∧ (u = (if fec.val = 1 then s.slCount .fecCorr l.val else s))
      ∧ (fec.val ≠ 2)
      ∧ (b.length = 256)
      ∧ (crc32c (b.take 252) = fld b 252 4)
      ∧ (bits (fld b 0 8) 60 4 ≤ 1)
      ∧ (bits (fld b 0 8) 0 16 = want.toNat))
    ∧ (∃ (l : Fin 4) (s : State),
      ((s.link l).state = .up ∨ (s.link l).state = .degraded)
      ∧ ((s.link l).replay ≠ []))
    ∧ (∃ (l : Fin 4) (s : State),
      ((s.link l).retraining = true))
    ∧ (∃ (c : Fin 64) (s : State) (u : State),
      (c.val ≠ s.chip)
      ∧ (c.val < s.poolSize)
      ∧ ((tget s.stitch.members c.val {}).lost = false)
      ∧ ((∀ k : Fin 8, (s.core k).wait = none))
      ∧ (s.qctx = [])
      ∧ (s.stitch.outX = [])
      ∧ (u = (s.setStitch fun t => { t with members := tmod t.members c.val {} fun m => { m with lost := true }, held := t.held.filter fun m => m.2.dst.toNat != c.val }).event
        0x08 c.val (toLE 4 c.val)))
    ∧ (∃ (c : Fin 64) (s : State),
      ((tget s.stitch.members c.val {}).lost = true))
    ∧ (∃ (s : State),
      (s.stitch.spineStale = true))
    ∧ (∃ (s : State),
      (s.stitch.spineStale = false))
    ∧ (∃ (s : State) (u : State),
      (1 < s.poolSize)
      ∧ (u = s.advanceTo (s.stitch.roundAt + s.periodTicks)))
    ∧ (∃ (m : SMsg) (s : State) (x : Member),
      (m.dst.toNat = s.chip)
      ∧ (m.typ = 0x30)
      ∧ (m.reservedSet = false)
      ∧ (m.data.length ≤ 4096)
      ∧ (x = { tget s.stitch.members m.src.toNat {} with heardAt := s.ticks.toNat, epoch := (m.arg.extractLsb' 0 64).toNat, digest := m.data })
      ∧ (x.epoch = s.epoch)
      ∧ (m.data = s.stitch.spine))
    ∧ (∃ (m : SMsg) (s : State) (x : Member),
      (m.dst.toNat = s.chip)
      ∧ (m.typ = 0x30)
      ∧ (m.reservedSet = false)
      ∧ (m.data.length ≤ 4096)
      ∧ (x = { tget s.stitch.members m.src.toNat {} with heardAt := s.ticks.toNat, epoch := (m.arg.extractLsb' 0 64).toNat, digest := m.data })
      ∧ (x.epoch = s.epoch)
      ∧ (m.data ≠ s.stitch.spine))
    ∧ (∃ (m : SMsg) (s : State) (x : Member),
      (m.dst.toNat = s.chip)
      ∧ (m.typ = 0x30)
      ∧ (m.reservedSet = false)
      ∧ (m.data.length ≤ 4096)
      ∧ (x = { tget s.stitch.members m.src.toNat {} with heardAt := s.ticks.toNat, epoch := (m.arg.extractLsb' 0 64).toNat, digest := m.data })
      ∧ (x.epoch ≠ s.epoch)
      ∧ (x.epochRounds + 1 ≠ s.spineGrace))
    ∧ (∃ (m : SMsg) (s : State) (x : Member),
      (m.dst.toNat = s.chip)
      ∧ (m.typ = 0x30)
      ∧ (m.reservedSet = false)
      ∧ (m.data.length ≤ 4096)
      ∧ (x = { tget s.stitch.members m.src.toNat {} with heardAt := s.ticks.toNat, epoch := (m.arg.extractLsb' 0 64).toNat, digest := m.data })
      ∧ (x.epoch ≠ s.epoch)
      ∧ (x.epochRounds + 1 = s.spineGrace))
    ∧ (∃ (c : Fin 64) (s : State) (u : State) (m : Member),
      (s.reachable c.val = true)
      ∧ (m = tget s.stitch.members c.val {})
      ∧ (u = s.advanceTo (m.heardAt + 3 * s.periodTicks))) :=
  ⟨⟨0, 0, 15, wpool (link0 .training), _, _, _, by decide +kernel, by decide +kernel, by decide +kernel, Or.inl rfl, rfl⟩,
    ⟨0, 0, 0, wpool (link0 .training), by decide +kernel, by decide +kernel, by decide +kernel, Or.inl rfl, rfl⟩,
    ⟨0, 1, 0, 0, 1, wpool (link0 .training), Or.inl ⟨rfl, by decide⟩, rfl, rfl, rfl, rfl⟩,
    ⟨0, 2, 0, 0, 1, wpool (link0 .training), Or.inl ⟨rfl, by decide⟩, by decide +kernel⟩,
    ⟨0, 2, 0, 0, 1, wup, Or.inl rfl, by decide +kernel⟩,
    ⟨0, wpool (link0 .miswired), rfl⟩,
    ⟨0, [], 2, wup, _, _, Or.inl rfl, rfl, rfl, rfl⟩,
    ⟨0, [], 0, wup, _, _, Or.inl rfl, rfl, rfl, by decide +kernel, Or.inl (by decide)⟩,
    ⟨0, flitKind, 0, wup, _, _, Or.inl rfl, rfl, rfl, by decide +kernel, by decide +kernel, by decide +kernel,
      by decide +kernel⟩,
    ⟨0, flit 0, 0, wup, _, _, Or.inl rfl, rfl, rfl, by decide +kernel, by decide +kernel, by decide +kernel,
      by decide +kernel, by decide +kernel⟩,
    ⟨0, wpool { link0 .up with replay := [(0, qfl)] }, Or.inl rfl, by decide +kernel⟩,
    ⟨0, wpool { link0 .training with retraining := true }, by decide +kernel⟩,
    ⟨1, wup, _, by decide +kernel, by decide +kernel, by decide +kernel, by decide +kernel, rfl, rfl, rfl⟩,
    ⟨1, { wup with stitch := { members := [(1, { lost := true })] } }, by decide +kernel⟩,
    ⟨wstale true, by decide +kernel⟩,
    ⟨wstale false, by decide +kernel⟩,
    ⟨wup, _, by decide +kernel, rfl⟩,
    ⟨spine0 0 [], wup, _, rfl, rfl, by decide +kernel, by decide +kernel, rfl, rfl, rfl⟩,
    ⟨spine0 0 [1], wup, _, rfl, rfl, by decide +kernel, by decide +kernel, rfl, rfl, by decide +kernel⟩,
    ⟨spine0 1 [], wup, _, rfl, rfl, by decide +kernel, by decide +kernel, rfl, by decide +kernel, by decide +kernel⟩,
    ⟨spine0 1 [], wgrace 1, _, rfl, rfl, by decide +kernel, by decide +kernel, rfl, by decide +kernel, rfl⟩,
    ⟨1, wup, _, _, by decide +kernel, rfl, rfl⟩⟩

theorem test_met_Transfers_arrive_in_order_and_are_answered :
    (∃ (m : SMsg) (par : Fin 3) (i : Instr) (on : SMsg → Bool → Placed → State → State × Verdict) (s : State),
      (m.dst.toNat = s.chip)
      ∧ (m.reservedSet = false)
      ∧ (m.data.length ≤ 4096)
      ∧ ((m.typ = 4 → m.arg.extractLsb' 42 6 = 0#6))
      ∧ ((i = .write m par ∧ m.typ = 1 ∧ on = onWrite) ∨ (i = .mcast m par ∧ m.typ = 2 ∧ on = onMcast) ∨ (i = .sum m par
        ∧ m.typ = 3 ∧ on = onSum) ∨ (i = .jr m par ∧ m.typ = 4 ∧ on = onJr))
      ∧ (s.inX? m.src.toNat m.xfer.toNat = none)
      ∧ (m.seq = 0))
    ∧ (∃ (m : SMsg) (par : Fin 3) (i : Instr) (on : SMsg → Bool → Placed → State → State × Verdict) (s : State) (x : _),
      (m.dst.toNat = s.chip)
      ∧ (m.reservedSet = false)
      ∧ (m.data.length ≤ 4096)
      ∧ ((m.typ = 4 → m.arg.extractLsb' 42 6 = 0#6))
      ∧ ((i = .write m par ∧ m.typ = 1 ∧ on = onWrite) ∨ (i = .mcast m par ∧ m.typ = 2 ∧ on = onMcast) ∨ (i = .sum m par
        ∧ m.typ = 3 ∧ on = onSum) ∨ (i = .jr m par ∧ m.typ = 4 ∧ on = onJr))
      ∧ (s.inX? m.src.toNat m.xfer.toNat = some x)
      ∧ (x.ended = false)
      ∧ (m.seq = x.nextSeq))
    ∧ (∃ (m : SMsg) (par : Fin 3) (i : Instr) (on : SMsg → Bool → Placed → State → State × Verdict) (s : State),
      (m.dst.toNat = s.chip)
      ∧ (m.reservedSet = false)
      ∧ (m.data.length ≤ 4096)
      ∧ ((m.typ = 4 → m.arg.extractLsb' 42 6 = 0#6))
      ∧ ((i = .write m par ∧ m.typ = 1 ∧ on = onWrite) ∨ (i = .mcast m par ∧ m.typ = 2 ∧ on = onMcast) ∨ (i = .sum m par
        ∧ m.typ = 3 ∧ on = onSum) ∨ (i = .jr m par ∧ m.typ = 4 ∧ on = onJr))
      ∧ (s.inX? m.src.toNat m.xfer.toNat = none)
      ∧ (m.seq ≠ 0))
    ∧ (∃ (m : SMsg) (par : Fin 3) (i : Instr) (on : SMsg → Bool → Placed → State → State × Verdict) (s : State) (x : _),
      (m.dst.toNat = s.chip)
      ∧ (m.reservedSet = false)
      ∧ (m.data.length ≤ 4096)
      ∧ ((m.typ = 4 → m.arg.extractLsb' 42 6 = 0#6))
      ∧ ((i = .write m par ∧ m.typ = 1 ∧ on = onWrite) ∨ (i = .mcast m par ∧ m.typ = 2 ∧ on = onMcast) ∨ (i = .sum m par
        ∧ m.typ = 3 ∧ on = onSum) ∨ (i = .jr m par ∧ m.typ = 4 ∧ on = onJr))
      ∧ (s.inX? m.src.toNat m.xfer.toNat = some x)
      ∧ (x.ended = true)
      ∧ (m.seq = 0))
    ∧ (∃ (m : SMsg) (par : Fin 3) (i : Instr) (on : SMsg → Bool → Placed → State → State × Verdict) (s : State) (x : _),
      (m.dst.toNat = s.chip)
      ∧ (m.reservedSet = false)
      ∧ (m.data.length ≤ 4096)
      ∧ ((m.typ = 4 → m.arg.extractLsb' 42 6 = 0#6))
      ∧ ((i = .write m par ∧ m.typ = 1 ∧ on = onWrite) ∨ (i = .mcast m par ∧ m.typ = 2 ∧ on = onMcast) ∨ (i = .sum m par
        ∧ m.typ = 3 ∧ on = onSum) ∨ (i = .jr m par ∧ m.typ = 4 ∧ on = onJr))
      ∧ (s.inX? m.src.toNat m.xfer.toNat = some x)
      ∧ (x.ended = true)
      ∧ (m.seq ≠ 0))
    ∧ (∃ (m : SMsg) (par : Fin 3) (i : Instr) (on : SMsg → Bool → Placed → State → State × Verdict) (s : State) (x : _),
      (m.dst.toNat = s.chip)
      ∧ (m.reservedSet = false)
      ∧ (m.data.length ≤ 4096)
      ∧ ((m.typ = 4 → m.arg.extractLsb' 42 6 = 0#6))
      ∧ ((i = .write m par ∧ m.typ = 1 ∧ on = onWrite) ∨ (i = .mcast m par ∧ m.typ = 2 ∧ on = onMcast) ∨ (i = .sum m par
        ∧ m.typ = 3 ∧ on = onSum) ∨ (i = .jr m par ∧ m.typ = 4 ∧ on = onJr))
      ∧ (s.inX? m.src.toNat m.xfer.toNat = some x)
      ∧ (x.ended = false)
      ∧ (x.refused = false)
      ∧ (m.seq ≠ x.nextSeq))
    ∧ (∃ (m : SMsg) (p : Placed) (s : State) (q : Quire),
      (s.target? m.cluster m.tag = some q)
      ∧ (inside (argDst m + p.pos) p.data.length q.qd.base q.qd.len = true))
    ∧ (∃ (m : SMsg) (p : Placed) (s : State) (q : Quire),
      (s.target? m.cluster m.tag = some q)
      ∧ (inside (argDst m + p.pos) p.data.length q.qd.base q.qd.len = false))
    ∧ (∃ (m : SMsg) (s : State),
      (s.target? m.cluster m.tag = none))
    ∧ (∃ (m : SMsg) (s : State),
      (m.dst.toNat = s.chip)
      ∧ (m.reservedSet = false)
      ∧ (m.data.length ≤ 4096)
      ∧ (m.typ = 8)
      ∧ (s.inX? m.src.toNat m.xfer.toNat = none))
    ∧ (∃ (m : SMsg) (s : State) (x : _),
      (m.dst.toNat = s.chip)
      ∧ (m.reservedSet = false)
      ∧ (m.data.length ≤ 4096)
      ∧ (m.typ = 8)
      ∧ (s.inX? m.src.toNat m.xfer.toNat = some x)
      ∧ (x.ended = false)
      ∧ (x.refused = false)
      ∧ (x.jrSlot = none))
    ∧ (∃ (m : SMsg) (s : State) (x : OutXfer),
      (m.dst.toNat = s.chip)
      ∧ (m.reservedSet = false)
      ∧ (m.data.length ≤ 4096)
      ∧ (m.typ = 5)
      ∧ (s.outX? m.xfer.toNat = some x)
      ∧ ((XDesc.of x.desc).many = false)
      ∧ (x.targets.any (fun t => t.chip == m.src.toNat && !t.done) = true))
    ∧ (∃ (m : SMsg) (s : State),
      (m.dst.toNat = s.chip)
      ∧ (m.reservedSet = false)
      ∧ (m.data.length ≤ 4096)
      ∧ (m.typ = 6))
    ∧ (∃ (m : SMsg) (s : State),
      (m.dst.toNat = s.chip)
      ∧ (m.reservedSet = false)
      ∧ (m.data.length ≤ 4096)
      ∧ (m.typ = 7)
      ∧ ((m.arg.extractLsb' 0 8).toNat ≠ 1 ∨ s.outX? m.xfer.toNat ≠ none))
    ∧ (∃ (m : SMsg) (s : State),
      (m.dst.toNat = s.chip)
      ∧ (m.reservedSet = false)
      ∧ (m.data.length ≤ 4096)
      ∧ (m.typ = 7)
      ∧ ((m.arg.extractLsb' 0 8).toNat = 1)
      ∧ (s.outX? m.xfer.toNat = none))
    ∧ (∃ (num : BitVec 16) (s : State) (x : OutXfer) (l : Fin 4) (q : Quire),
      (s.outX? num.toNat = some x)
      ∧ ((XDesc.of x.desc).many = false)
      ∧ (s.route (XDesc.of x.desc).chip = some l)
      ∧ ((s.link l).retraining = false)
      ∧ ((s.advanceTo (x.at_ + usTicks 200)).queueQuire x.queue = some q))
    ∧ (∃ (n : Fin 32) (s : State) (u : State) (t : BitVec 16) (q : Quire) (raw : Bytes) (code : _),
      ((s.stitch.queues[n]).quire = some t)
      ∧ (tget? s.quires t.toNat = some q)
      ∧ ((s.stitch.queues[n]).descs ≠ [])
      ∧ ((s.obj q.cluster (s.stitch.queues[n]).launchObj).count ≠ 0)
      ∧ (s.stitch.outX.any (fun x => x.queue == n.val) = false)
      ∧ (q.state ≠ .suspended)
      ∧ (raw = ((s.stitch.queues[n]).descs[(s.stitch.queues[n]).next.toNat % (s.stitch.queues[n]).descs.length]?).getD [])
      ∧ (u = s.putObj q.cluster (s.stitch.queues[n]).launchObj
        { s.obj q.cluster (s.stitch.queues[n]).launchObj with count := (s.obj q.cluster (s.stitch.queues[n]).launchObj).count - 1 })
      ∧ ((XDesc.of raw).check u q (s.stitch.queues[n]).next = some code))
    ∧ (∃ (n : Fin 32) (s : State) (u : State) (t : BitVec 16) (q : Quire) (raw : Bytes),
      ((s.stitch.queues[n]).quire = some t)
      ∧ (tget? s.quires t.toNat = some q)
      ∧ ((s.stitch.queues[n]).descs ≠ [])
      ∧ ((s.obj q.cluster (s.stitch.queues[n]).launchObj).count ≠ 0)
      ∧ (s.stitch.outX.any (fun x => x.queue == n.val) = false)
      ∧ (q.state ≠ .suspended)
      ∧ (raw = ((s.stitch.queues[n]).descs[(s.stitch.queues[n]).next.toNat % (s.stitch.queues[n]).descs.length]?).getD [])
      ∧ (u = s.putObj q.cluster (s.stitch.queues[n]).launchObj
        { s.obj q.cluster (s.stitch.queues[n]).launchObj with count := (s.obj q.cluster (s.stitch.queues[n]).launchObj).count - 1 })
      ∧ ((XDesc.of raw).check u q (s.stitch.queues[n]).next = none)
      ∧ ((XDesc.of raw).many = false)
      ∧ ((tget s.stitch.members (XDesc.of raw).chip {}).lost = true))
    ∧ (∃ (n : Fin 32) (s : State) (u : State) (t : BitVec 16) (q : Quire) (raw : Bytes),
      ((s.stitch.queues[n]).quire = some t)
      ∧ (tget? s.quires t.toNat = some q)
      ∧ ((s.stitch.queues[n]).descs ≠ [])
      ∧ ((s.obj q.cluster (s.stitch.queues[n]).launchObj).count ≠ 0)
      ∧ (s.stitch.outX.any (fun x => x.queue == n.val) = false)
      ∧ (q.state ≠ .suspended)
      ∧ (raw = ((s.stitch.queues[n]).descs[(s.stitch.queues[n]).next.toNat % (s.stitch.queues[n]).descs.length]?).getD [])
      ∧ (u = s.putObj q.cluster (s.stitch.queues[n]).launchObj
        { s.obj q.cluster (s.stitch.queues[n]).launchObj with count := (s.obj q.cluster (s.stitch.queues[n]).launchObj).count - 1 })
      ∧ ((XDesc.of raw).check u q (s.stitch.queues[n]).next = none)
      ∧ (((XDesc.of raw).many = true ∨ (tget s.stitch.members (XDesc.of raw).chip {}).lost = false)))
    ∧ (∃ (k : Fin 4) (t : Fin 8) (s : State) (b : Thread) (q : Quire) (l : CarderList),
      ((s.cl k).threads[t] = some b)
      ∧ (tget? s.quires b.tag.toNat = some q)
      ∧ (q.lists[b.list]? = some l)
      ∧ (b.finishing = none)
      ∧ (l.descs ≠ [])
      ∧ ((s.obj k l.launchObj).count ≠ 0)
      ∧ (q.state ≠ .suspended))
    ∧ (∃ (s : State) (u : State) (q : Quire) (l : CarderList) (t : Fin 8) (raw : Bytes) (d : CDesc) (code : _),
      (raw = (l.descs[l.next.toNat % l.descs.length]?).getD [])
      ∧ (d = CDesc.of raw)
      ∧ (u = s.putObj q.cluster l.launchObj { s.obj q.cluster l.launchObj with count := (s.obj q.cluster l.launchObj).count - 1 })
      ∧ (l.line = none)
      ∧ (d.check u q l t (d.indices u q) = some code))
    ∧ (∃ (s : State) (u : State) (q : Quire) (l : CarderList) (t : Fin 8) (raw : Bytes) (d : CDesc) (v : _),
      (raw = (l.descs[l.next.toNat % l.descs.length]?).getD [])
      ∧ (d = CDesc.of raw)
      ∧ (u = s.putObj q.cluster l.launchObj { s.obj q.cluster l.launchObj with count := (s.obj q.cluster l.launchObj).count - 1 })
      ∧ (l.line = none)
      ∧ (d.check u q l t (d.indices u q) = none)
      ∧ (v = countParity u q (d.readSpace .source) 0))
    ∧ (∃ (k : Fin 4) (t : Fin 8) (s : State) (b : Thread) (q : Quire) (l : CarderList) (n : Nat),
      ((s.cl k).threads[t] = some b)
      ∧ (tget? s.quires b.tag.toNat = some q)
      ∧ (q.lists[b.list]? = some l)
      ∧ (b.finishing = none)
      ∧ (l.descs ≠ [])
      ∧ (l.line = some n)
      ∧ (q.state ≠ .suspended))
    ∧ (∃ (s : State) (q : Quire) (l : CarderList) (t : Fin 8) (raw : Bytes) (n : Nat),
      (raw = (l.descs[l.next.toNat % l.descs.length]?).getD [])
      ∧ (l.line = some n)
      ∧ ((CDesc.of raw).check s q l t ((CDesc.of raw).indices s q) = none))
    ∧ (∃ (k : Fin 4) (t : Fin 8) (s : State) (u : State) (b : Thread) (q : Quire) (x : Quire) (raw : Bytes),
      ((s.cl k).threads[t] = some b)
      ∧ (b.finishing = some raw)
      ∧ (tget? s.quires b.tag.toNat = some q)
      ∧ (u = addDone (s.setCl k fun c => { c with threads := c.threads.set t (some { b with finishing := none, lines := [] }) })
        k b.tag (CDesc.of raw).doneObj (CDesc.of raw).doneN)
      ∧ ((CDesc.of raw).ringEntry u k = none)
      ∧ (tget? u.quires b.tag.toNat = some x))
    ∧ (∃ (cell : Fin 64) (n : Nat) (s : State) (c : Cell) (q : Quire),
      (s.cell? cell.val = some c)
      ∧ (s.slotQuire cell.val n = some q)
      ∧ (q.pressed = true))
    ∧ (∃ (cell : Fin 64) (n : Nat) (t : Nat) (s : State) (u : State) (c : Cell),
      (s.cell? cell.val = some c)
      ∧ (s.slotQuire cell.val n = none)
      ∧ (s.pressed = false)
      ∧ (s.closeOf cell.val n = some t)
      ∧ (u = s.advanceTo (t + usTicks c.jrCutoff))
      ∧ (u.stitch.inX = []))
    ∧ (∃ (cell : Fin 64) (n : Nat) (s : State),
      (s.slotQuire cell.val n = none)) :=
  ⟨⟨{ smsg 1 with seq := 0 }, 0, .write { smsg 1 with seq := 0 } 0, onWrite, wup, rfl, by decide +kernel, by decide +kernel,
    by decide +kernel, Or.inl ⟨rfl, rfl, rfl⟩, rfl, rfl⟩,
    ⟨{ smsg 1 with seq := 1 }, 0, .write { smsg 1 with seq := 1 } 0, onWrite, win0 in0, in0, rfl, by decide +kernel,
      by decide +kernel, by decide +kernel, Or.inl ⟨rfl, rfl, rfl⟩, rfl, by decide +kernel, rfl⟩,
    ⟨{ smsg 1 with seq := 1 }, 0, .write { smsg 1 with seq := 1 } 0, onWrite, wup, rfl, by decide +kernel, by decide +kernel,
      by decide +kernel, Or.inl ⟨rfl, rfl, rfl⟩, rfl, by decide +kernel⟩,
    ⟨{ smsg 1 with seq := 0 }, 0, .write { smsg 1 with seq := 0 } 0, onWrite, win0 { in0 with ended := true },
      { in0 with ended := true }, rfl, by decide +kernel, by decide +kernel, by decide +kernel, Or.inl ⟨rfl, rfl, rfl⟩, rfl,
        by decide +kernel, rfl⟩,
    ⟨{ smsg 1 with seq := 1 }, 0, .write { smsg 1 with seq := 1 } 0, onWrite, win0 { in0 with ended := true },
      { in0 with ended := true }, rfl, by decide +kernel, by decide +kernel, by decide +kernel, Or.inl ⟨rfl, rfl, rfl⟩, rfl,
        by decide +kernel, by decide +kernel⟩,
    ⟨{ smsg 1 with seq := 2 }, 0, .write { smsg 1 with seq := 2 } 0, onWrite, win0 in0, in0, rfl, by decide +kernel,
      by decide +kernel, by decide +kernel, Or.inl ⟨rfl, rfl, rfl⟩, rfl, by decide +kernel, by decide +kernel,
        by decide +kernel⟩,
    ⟨{ smsg 1 with arg := 0x80000 * 2 ^ 32 }, place0, { wup with quires := [(5, qcard)] }, qcard, rfl, by decide +kernel⟩,
    ⟨smsg 1, place0, { wup with quires := [(5, qcard)] }, qcard, rfl, by decide +kernel⟩,
    ⟨smsg 1, wup, rfl⟩,
    ⟨smsg 8, wup, rfl, by decide +kernel, by decide +kernel, rfl, rfl⟩,
    ⟨smsg 8, win0 in0, in0, rfl, by decide +kernel, by decide +kernel, rfl, rfl, by decide +kernel, by decide +kernel, rfl⟩,
    ⟨smsg 5, wout out0, out0, rfl, by decide +kernel, by decide +kernel, rfl, rfl, by decide +kernel, rfl⟩,
    ⟨smsg 6, wup, rfl, by decide +kernel, by decide +kernel, rfl⟩,
    ⟨smsg 7, wup, rfl, by decide +kernel, by decide +kernel, rfl, Or.inl (by decide +kernel)⟩,
    ⟨{ smsg 7 with arg := 1 }, wup, rfl, by decide +kernel, by decide +kernel, rfl, by decide +kernel, rfl⟩,
    ⟨0, wqueue writeDesc [out0], out0, 0, qlive, rfl, by decide +kernel, rfl, by decide +kernel, rfl⟩,
    ⟨0, wqueue [] [], _, 5, qlive, [], 0x81, rfl, rfl, nofun, by decide +kernel, rfl, by decide +kernel, rfl, rfl, rfl⟩,
    ⟨0, wlost, _, 5, qlive, writeDesc1, rfl, rfl, nofun, by decide +kernel, rfl, by decide +kernel, rfl, rfl,
      by decide +kernel, by decide +kernel, by decide +kernel⟩,
    ⟨0, wqueue mcastDesc [], _, 5, qlive, mcastDesc, rfl, rfl, nofun, by decide +kernel, rfl, by decide +kernel, rfl, rfl,
      by decide +kernel, Or.inl (by decide +kernel)⟩,
    ⟨0, 0, wcard thr0, thr0, qcard, list0, rfl, rfl, rfl, rfl, nofun, by decide +kernel, by decide +kernel⟩,
    ⟨wcard thr0, _, qcard, list0, 0, _, _, 0x51, rfl, rfl, rfl, rfl, by decide +kernel⟩,
    ⟨wcopy qcopy0, _, qcopy0, { list1 with line := none }, 0, _, _, _, rfl, rfl, rfl, rfl, by decide +kernel, rfl⟩,
    ⟨0, 0, wcopy qcopy, thr0, qcopy, list1, 0, rfl, rfl, rfl, rfl, nofun, rfl, by decide +kernel⟩,
    ⟨wcard thr0, qcopy, list1, 0, _, 0, rfl, rfl, by decide +kernel⟩,
    ⟨0, 0, wcard thrF, _, thrF, qcard, _, [], rfl, rfl, rfl, rfl, rfl, rfl⟩,
    ⟨0, 0, { wcell cell0 with quires := [(5, { qcard with pressed := true })] }, cell0, { qcard with pressed := true }, rfl,
      rfl, by decide +kernel⟩,
    ⟨0, 0, 7, wclose, _, cell0, rfl, rfl, by decide +kernel, rfl, rfl, rfl⟩,
    ⟨0, 0, w0, rfl⟩⟩

theorem test_met_Resets_hold_clear_and_boot :
    (∃ (s : State),
      (s.boot.pwrGood = true))
    ∧ (∃ (s : State),
      (s.boot.pwrGood = true)
      ∧ (s.managed = false))
    ∧ (∃ (s : State),
      (s.boot.pwrGood = true)
      ∧ (s.managed = true))
    ∧ (∃ (s : State),
      (s.boot.pwrGood = true)
      ∧ (s.managed = true)
      ∧ (s.busumUp = true))
    ∧ (∃ (s : State),
      (s.boot.pwrGood = true)
      ∧ (s.boot.tripHold = false))
    ∧ (∃ (s : State),
      (s.boot.pwrGood = false))
    ∧ (∃ (s : State) (a : Nat),
      (s.mem.wf = true)
      ∧ (hostAt ≤ a))
    ∧ (∃ (s : State) (u : State),
      (s.boot.pwrGood = true)
      ∧ (s.boot.perst = true)
      ∧ (u = s.advanceTo (usTicks 100000)))
    ∧ (∃ (s : State),
      (s.boot.tripHold = true)
      ∧ (s.power.hottest ≤ 95))
    ∧ (∃ (s : State),
      (s.boot.extestHold = true))
    ∧ (∃ (s : State) (t : Vector (BitVec 8) 8),
      (s.boot.pwrGood = true)
      ∧ ((thermalReadings t s).power.hottest < 115))
    ∧ (∃ (s : State) (t : Vector (BitVec 8) 8),
      (s.boot.pwrGood = true)
      ∧ (115 ≤ (thermalReadings t s).power.hottest))
    ∧ (∃ (s : State),
      (ddrOk s.boot.ddr = false))
    ∧ (∀ a : Bytes, slotFault {} (ddrTotal ddr0 * 2 ^ 30) a = none → ∃ (s : State),
      (ddrOk s.boot.ddr = true)
      ∧ (s.sec.flash.prefer ≠ 0xA5A50001)
      ∧ (slotFault s.sec.fuses (ddrTotal s.boot.ddr * 2 ^ 30) s.sec.flash.slotA = none))
    ∧ (∀ a : Bytes, slotFault {} (ddrTotal ddr0 * 2 ^ 30) a = none → ∃ (s : State) (a : _),
      (ddrOk s.boot.ddr = true)
      ∧ (s.sec.flash.prefer ≠ 0xA5A50001)
      ∧ (slotFault s.sec.fuses (ddrTotal s.boot.ddr * 2 ^ 30) s.sec.flash.slotA = some a)
      ∧ (slotFault s.sec.fuses (ddrTotal s.boot.ddr * 2 ^ 30) s.sec.flash.slotB = none))
    ∧ (∃ (s : State) (a : _) (b : _),
      (ddrOk s.boot.ddr = true)
      ∧ (s.sec.flash.prefer ≠ 0xA5A50001)
      ∧ (slotFault s.sec.fuses (ddrTotal s.boot.ddr * 2 ^ 30) s.sec.flash.slotA = some a)
      ∧ (slotFault s.sec.fuses (ddrTotal s.boot.ddr * 2 ^ 30) s.sec.flash.slotB = some b))
    ∧ (∃ (s : State),
      (s.power.state ≠ .aon))
    ∧ (∃ (s : State),
      (s.boot.state = .firmwareInit)
      ∧ (s.power.state ≠ .aon)) :=
  ⟨⟨w0, by decide +kernel⟩,
    ⟨wboot { boot0 with perst := true }, by decide +kernel, by decide +kernel⟩,
    ⟨w0, by decide +kernel, by decide +kernel⟩,
    ⟨w0, by decide +kernel, by decide +kernel, by decide +kernel⟩,
    ⟨w0, by decide +kernel, by decide +kernel⟩,
    ⟨wboot { boot0 with pwrGood := false }, by decide +kernel⟩,
    ⟨w0, _, by decide +kernel, Nat.le_refl _⟩,
    ⟨wboot { boot0 with perst := true }, _, by decide +kernel, by decide +kernel, rfl⟩,
    ⟨wboot { boot0 with tripHold := true }, by decide +kernel, by decide +kernel⟩,
    ⟨wboot { boot0 with extestHold := true }, by decide +kernel⟩,
    ⟨w0, cool, by decide +kernel, by decide +kernel⟩,
    ⟨w0, hot, by decide +kernel, by decide +kernel⟩,
    ⟨wboot { boot0 with ddr := [some 8] }, by decide +kernel⟩,
    (fun a h => ⟨wflash a [], rfl, wprefer, h⟩),
    (fun b h => ⟨wflash [] b, 0x10, rfl, wprefer, slotA_erased, h⟩),
    ⟨wflash [] [], 0x10, 0x10, by decide +kernel, by decide +kernel, by decide +kernel, by decide +kernel⟩,
    ⟨w0, by decide +kernel⟩,
    ⟨wboot { boot0 with state := .firmwareInit }, by decide +kernel, by decide +kernel⟩⟩

theorem test_met_Spdm_and_the_host_link_answer :
    (∃ (s : State),
      (s.barServed = true))
    ∧ (∃ (s : State),
      (s.barServed = true)
      ∧ (s.sec.spdm.version = true))
    ∧ (∃ (s : State),
      (s.barServed = true)
      ∧ (s.sec.spdm.version = false))
    ∧ (∃ (s : State) (a : Bool) (b : Bool),
      (s.barServed = true)
      ∧ (s.sec.spdm.version = true)
      ∧ (s.sec.spdm.caps = true)
      ∧ ((a = true ∨ b = true)))
    ∧ (∃ (s : State),
      (s.barServed = true)
      ∧ (s.sec.spdm.version = true)
      ∧ (s.sec.spdm.caps = true))
    ∧ (∃ (s : State),
      (s.barServed = true)
      ∧ (s.sec.spdm.agreed = true))
    ∧ (∃ (s : State) (off : Nat),
      (s.barServed = true)
      ∧ (s.sec.spdm.agreed = true)
      ∧ (off ≤ s.chain.length))
    ∧ (∃ (s : State) (i : Nat),
      (s.barServed = true)
      ∧ (s.sec.spdm.agreed = true)
      ∧ (1 ≤ i)
      ∧ (i ≤ 3))
    ∧ (∃ (s : State) (slot : Nat) (off : Nat),
      (s.barServed = true)
      ∧ (s.sec.spdm.agreed = true)
      ∧ (slot ≠ 0 ∨ s.chain.length < off))
    ∧ (∃ (s : State) (slot : Nat),
      (s.barServed = true)
      ∧ (s.sec.spdm.agreed = true)
      ∧ (slot ≠ 0))
    ∧ (∃ (s : State) (i : Nat),
      (s.barServed = true)
      ∧ (s.sec.spdm.agreed = true)
      ∧ (3 < i)
      ∧ (i ≠ 255))
    ∧ (∃ (s : State),
      (s.barServed = true)
      ∧ (s.sec.spdm.agreed = false))
    ∧ (∃ (s : State),
      (s.barServed = true)
      ∧ ((s.sec.spdm.session = none ∨ s.sec.spdm.finished = true)))
    ∧ (∃ (s : State),
      (s.barServed = true)
      ∧ ((s.sec.spdm.session = none ∨ s.sec.spdm.finished = false)))
    ∧ (∃ (s : State),
      (s.barServed = true)
      ∧ (s.sec.spdm.agreed = true)
      ∧ (s.sec.spdm.session = none))
    ∧ (∃ (s : State),
      (s.barServed = true)
      ∧ (s.sec.spdm.agreed = true)
      ∧ (s.sec.spdm.session ≠ none))
    ∧ (∀ hmac : Bytes, Config.finishOk 1 hmac = true → ∃ (s : State) (n : BitVec 16) (hmac : Bytes),
      (s.barServed = true)
      ∧ (s.sec.spdm.session = some n)
      ∧ (s.sec.spdm.finished = false)
      ∧ (Config.finishOk n hmac = true))
    ∧ (∀ hmac : Bytes, Config.finishOk 1 hmac = false → ∃ (s : State) (n : BitVec 16) (hmac : Bytes),
      (s.barServed = true)
      ∧ (s.sec.spdm.session = some n)
      ∧ (s.sec.spdm.finished = false)
      ∧ (Config.finishOk n hmac = false))
    ∧ (∃ (s : State) (n : BitVec 16),
      (s.barServed = true)
      ∧ (s.sec.spdm.session = some n)
      ∧ (s.sec.spdm.finished = true))
    ∧ (∃ (s : State),
      (s.host.keyed0 = true))
    ∧ (∃ (s : State),
      (s.host.keyed0 = false))
    ∧ (∃ (s : State),
      (s.host.keyed1 = true))
    ∧ (∃ (s : State),
      (s.host.keyed1 = false))
    ∧ (∃ (s : State),
      (s.barServed = false))
    ∧ (∃ (speed : BitVec 3) (width : BitVec 5) (s : State) (u : State),
      (u = s.setHost (fun h => { h with speed := speed, width := width, l0 := true })))
    ∧ (∃ (s : State),
      (s.host.l0 = true))
    ∧ (∃ (s : State),
      (s.host.l0 = false))
    ∧ (∃ (s : State),
      (s.host.secure0 = true)
      ∧ (s.host.ideRequired = true))
    ∧ (∃ (s : State),
      (s.host.secure0 = true)
      ∧ (s.host.ideRequired = false))
    ∧ (∃ (i : Fin 16),
      (8 ≤ i.val)) :=
  ⟨⟨w0, by decide +kernel⟩,
    ⟨wspdm spdm0, by decide +kernel, by decide +kernel⟩,
    ⟨w0, by decide +kernel, by decide +kernel⟩,
    ⟨wspdm spdm0, true, false, by decide +kernel, by decide +kernel, by decide +kernel, by decide +kernel⟩,
    ⟨wspdm spdm0, by decide +kernel, by decide +kernel, by decide +kernel⟩,
    ⟨wspdm spdm0, by decide +kernel, by decide +kernel⟩,
    ⟨wspdm spdm0, 0, by decide +kernel, by decide +kernel, by decide +kernel⟩,
    ⟨wspdm spdm0, 1, by decide +kernel, by decide +kernel, by decide +kernel, by decide +kernel⟩,
    ⟨wspdm spdm0, 1, 0, by decide +kernel, by decide +kernel, Or.inl (by decide)⟩,
    ⟨wspdm spdm0, 1, by decide +kernel, by decide +kernel, by decide +kernel⟩,
    ⟨wspdm spdm0, 4, by decide +kernel, by decide +kernel, by decide +kernel, by decide +kernel⟩,
    ⟨w0, by decide +kernel, by decide +kernel⟩,
    ⟨w0, by decide +kernel, Or.inl rfl⟩,
    ⟨w0, by decide +kernel, Or.inl rfl⟩,
    ⟨wspdm spdm0, by decide +kernel, by decide +kernel, by decide +kernel⟩,
    ⟨wspdm { spdm0 with session := some 1 }, by decide +kernel, by decide +kernel, by decide +kernel⟩,
    (fun hmac h => ⟨wspdm { spdm0 with session := some 1 }, 1, hmac, by decide +kernel, rfl, by decide +kernel, h⟩),
    (fun hmac h => ⟨wspdm { spdm0 with session := some 1 }, 1, hmac, by decide +kernel, rfl, by decide +kernel, h⟩),
    ⟨wspdm { spdm0 with session := some 1, finished := true }, 1, by decide +kernel, rfl, by decide +kernel⟩,
    ⟨whost { l0 := true, keyed0 := true }, by decide +kernel⟩,
    ⟨w0, by decide +kernel⟩,
    ⟨whost { l0 := true, keyed1 := true }, by decide +kernel⟩,
    ⟨w0, by decide +kernel⟩,
    ⟨State.reset, by decide +kernel⟩,
    ⟨5, 16, w0, _, rfl⟩,
    ⟨w0, by decide +kernel⟩,
    ⟨State.reset, by decide +kernel⟩,
    ⟨whost { l0 := true, secure0 := true, ideRequired := true }, by decide +kernel, by decide +kernel⟩,
    ⟨whost { l0 := true, secure0 := true, ideRequired := false }, by decide +kernel, by decide +kernel⟩,
    ⟨8, by decide +kernel⟩⟩

theorem test_met_Power_clocks_and_throttle_move :
    (∃ (s : State),
      (s.managed = true))
    ∧ (∃ (p : Power),
      (p.step = 0)
      ∧ (p.askPower = 0))
    ∧ (∃ (n : Nat) (s : State),
      (s.managed = true)
      ∧ (n ≤ 66000 ∨ s.power.imonOver = false))
    ∧ (∃ (n : Nat) (s : State),
      (s.managed = true)
      ∧ (66000 < n)
      ∧ (s.power.imonOver = true)
      ∧ (s.power.step = 0)
      ∧ (s.power.askCurrent = 0))
    ∧ (∃ (c : Fin 3) (s : State) (t : Nat),
      (s.power.upSince[c] = some t)
      ∧ (s.power.ask c ≠ 0))
    ∧ (∃ (c : Fin 3) (s : State),
      (s.power.upSince[c] = none ∨ s.power.ask c = 0))
    ∧ (∃ (s : State),
      (s.managed = true)
      ∧ (s.power.step.val < s.power.target))
    ∧ (∃ (s : State) (t : _),
      (s.managed = true)
      ∧ (s.power.target < s.power.step.val)
      ∧ (s.power.lastUp = some t))
    ∧ (∃ (s : State),
      (s.managed = true)
      ∧ (s.power.target = s.power.step.val))
    ∧ (∃ (s : State),
      (s.managed = false))
    ∧ (∃ (d : Fin 244),
      (d.val = 0))
    ∧ (∃ (d : Fin 244) (s : State),
      (domainBusy s d.val = true))
    ∧ (∃ (d : Fin 244) (s : State),
      (domainBusy s d.val = false)
      ∧ (s.power.gated.contains d.val = false))
    ∧ (∃ (p : Fin 4) (s : State),
      (s.power.pllStandby.contains p.val = false)
      ∧ (s.power.state = .quiet)
      ∧ (p.val < 2)
      ∧ ((∀ d < 244, pllOf d = some p.val → s.power.gated.contains d = true)))
    ∧ (∃ (p : Fin 4) (s : State),
      (s.power.pllStandby.contains p.val = false)
      ∧ (s.power.state ≠ .quiet ∨ 2 ≤ p.val))
    ∧ (∃ (s : State),
      (s.lanesOn = true))
    ∧ (∃ (d : Fin 244) (s : State),
      (s.lanesOn = false)
      ∧ (pllOf d.val = none)) :=
  ⟨⟨w0, by decide +kernel⟩,
    ⟨{}, by decide +kernel, by decide +kernel⟩,
    ⟨66000, w0, by decide +kernel, by decide +kernel⟩,
    ⟨66001, wpow { imonOver := true }, by decide +kernel, by decide +kernel, by decide +kernel, by decide +kernel,
      by decide +kernel⟩,
    ⟨0, wpow { askThermal := 1, upSince := Vector.replicate 3 (some 5) }, 5, rfl, by decide +kernel⟩,
    ⟨0, w0, Or.inl rfl⟩,
    ⟨wpow { askThermal := 1 }, by decide +kernel, by decide +kernel⟩,
    ⟨wpow { step := 2, lastUp := some 5 }, 5, by decide +kernel, by decide +kernel, by decide +kernel⟩,
    ⟨w0, by decide +kernel, by decide +kernel⟩,
    ⟨State.reset, by decide +kernel⟩,
    ⟨0, by decide +kernel⟩,
    ⟨0, w0, by decide +kernel⟩,
    ⟨1, w0, by decide +kernel, by decide +kernel⟩,
    ⟨0, wpow { state := .quiet, gated := List.range 244 }, by decide +kernel, by decide +kernel, by decide +kernel,
      by decide +kernel⟩,
    ⟨3, w0, by decide +kernel, Or.inr (by decide)⟩,
    ⟨w0, by decide +kernel⟩,
    ⟨0, wpow { state := .standby }, by decide +kernel, by decide +kernel⟩⟩

theorem test_met_Complements_are_checked_before_any_field :
    (∃ (c : Cmd) (s : State),
      (Served 0x10 false c s)
      ∧ (exactLen 128 c.params.length = true)
      ∧ (cplAt c.params 0 64 = false))
    ∧ (∃ (c : Cmd) (s : State),
      (Served 0x11 false c s)
      ∧ (exactLen 256 c.params.length = true)
      ∧ (cplAt c.params 0 128 = false))
    ∧ (∃ (c : Cmd) (s : State),
      (ServedLong false c s)
      ∧ (slotLen c.params.length = true)
      ∧ ((∃ b ∈ chunks 512 c.params, cplAt b 0 256 = false)))
    ∧ (∃ (c : Cmd) (s : State),
      (Served 0x13 false c s)
      ∧ (exactLen 1184 c.params.length = true)
      ∧ ((cplAt c.params 0 296 = false ∨ cplAt c.params 592 296 = false)))
    ∧ (∃ (c : Cmd) (s : State),
      (Served 0x14 false c s)
      ∧ (exactLen 192 c.params.length = true)
      ∧ ((∃ l < 4, cplAt c.params (48 * l) 24 = false)))
    ∧ (∃ (c : Cmd) (s : State),
      (Served 0x15 false c s)
      ∧ (exactLen 128 c.params.length = true)
      ∧ (cplAt c.params 0 64 = false))
    ∧ (∃ (c : Cmd) (s : State),
      (Served 0x16 false c s)
      ∧ (exactLen 64 c.params.length = true)
      ∧ (cplAt c.params 0 32 = false))
    ∧ (∃ (c : Cmd) (s : State),
      (Served 0x17 false c s)
      ∧ (exactLen 176 c.params.length = true)
      ∧ (cplAt c.params 0 88 = false))
    ∧ (∃ (c : Cmd) (s : State),
      (Served 0x18 false c s)
      ∧ (exactLen 64 c.params.length = true)
      ∧ (cplAt c.params 0 32 = false))
    ∧ (∃ (c : Cmd) (s : State),
      (Served 0x24 false c s)
      ∧ (exactLen 136 c.params.length = true)
      ∧ (cplAt c.params 8 64 = false))
    ∧ (∃ (c : Cmd) (s : State),
      (Served 0x38 false c s)
      ∧ (exactLen 32 c.params.length = true)
      ∧ (cplAt c.params 0 16 = false))
    ∧ (∃ (c : Cmd) (s : State),
      (Served 0x42 false c s)
      ∧ ((fun l => decide (80 ≤ l ∧ l ≤ 5216)) c.params.length = true)
      ∧ (cplAt c.params 0 (c.params.length / 2) = false))
    ∧ (∃ (c : Cmd) (s : State),
      (ServedLong false c s)
      ∧ (exactLen 32 c.params.length = true)
      ∧ (cplAt c.params 0 16 = false))
    ∧ (∃ (c : Cmd),
      ((∃ b ∈ chunks 512 c.params, cplAt b 0 256 = false)))
    ∧ (∃ (c : Cmd),
      (cplAt c.params 0 16 = false)) :=
  ⟨⟨cmd (zeros 128), w0, srv rfl rfl rfl rfl, by decide +kernel, by decide +kernel⟩,
    ⟨cmd (zeros 256), w0, srv rfl rfl rfl rfl, by decide +kernel, by decide +kernel⟩,
    ⟨cmd (zeros 512), w0, srvL rfl rfl rfl rfl, by decide +kernel, by decide +kernel⟩,
    ⟨cmd (zeros 1184), w0, srv rfl rfl rfl rfl, by decide +kernel, by decide +kernel⟩,
    ⟨cmd (zeros 192), w0, srv rfl rfl rfl rfl, by decide +kernel, by decide +kernel⟩,
    ⟨cmd (zeros 128), w0, srv rfl rfl rfl rfl, by decide +kernel, by decide +kernel⟩,
    ⟨cmd (zeros 64), w0, srv rfl rfl rfl rfl, by decide +kernel, by decide +kernel⟩,
    ⟨cmd (zeros 176), w0, srv rfl rfl rfl rfl, by decide +kernel, by decide +kernel⟩,
    ⟨cmd (zeros 64), w0, srv rfl rfl rfl rfl, by decide +kernel, by decide +kernel⟩,
    ⟨cmd (zeros 136), w0, srv rfl rfl rfl rfl, by decide +kernel, by decide +kernel⟩,
    ⟨cmd (zeros 32), w0, srv rfl rfl rfl rfl, by decide +kernel, by decide +kernel⟩,
    ⟨cmd (zeros 80), w0, srv rfl rfl rfl rfl, by decide +kernel, by decide +kernel⟩,
    ⟨cmd (zeros 32), w0, srvL rfl rfl rfl rfl, by decide +kernel, by decide +kernel⟩,
    ⟨cmd (zeros 512), by decide +kernel⟩,
    ⟨cmd (zeros 32), by decide +kernel⟩⟩

theorem test_met_Thermal_trip_holds_the_part_in_reset :
    (∃ (r : Vector (BitVec 8) 8) (s : State) (i : Fin 8),
      (s.boot.pwrGood = true)
      ∧ (s.boot.tripHold = false)
      ∧ (115 ≤ (r[i]).toInt))
    ∧ (∃ (s : State) (t : State),
      (Inv s)
      ∧ (s.boot.tripHold = true)
      ∧ (step s = .next t)) :=
  ⟨⟨hot, w0, 0, by decide +kernel, by decide +kernel, by decide +kernel⟩,
    ⟨wres { tripHold := true }, _, ⟨rfl, fun _ => rfl, nofun, by decide⟩, by decide +kernel, rfl⟩⟩

theorem test_met_Failed_start_up_lasts_until_a_reset :
    (∃ (s : State) (t : State),
      (Inv s)
      ∧ (s.boot.state = .failed)
      ∧ (step s = .next t)) :=
  ⟨wres { state := .failed, pwrGood := true, perst := false }, _, ⟨rfl, nofun, nofun, by decide⟩, by decide +kernel, rfl⟩

theorem test_met_Answers_reach_the_response_ring :
    (∃ (s : State) (code : Nat) (tag : BitVec 16) (status : Nat) (detail : Nat) (first : Nat) (count : Nat) (outLen : Nat)
      (body : Bytes) (b : Bytes) (t : State),
      (s.mem.wf = true)
      ∧ (s.linkOk = true)
      ∧ (s.mbx.rspWait = [])
      ∧ (s.mbx.rspq.base ≠ 0)
      ∧ (b = toLE 2 status ++ toLE 2 detail ++ toLE 4 first ++ toLE 2 count ++ toLE 2 0 ++ toLE 4 outLen ++ body)
      ∧ (s.mbx.rspq.used + recUnits b ≤ s.mbx.rspq.size)
      ∧ (s.mbx.rspq.prod.toNat % s.mbx.rspq.size + recUnits b ≤ s.mbx.rspq.size)
      ∧ ((s.mbx.rspq.base + 16 * s.mbx.rspq.size ≤ s.mbx.idxLatched ∨ s.mbx.idxLatched + 8 ≤ s.mbx.rspq.base))
      ∧ (s.respond code tag.toNat status detail first count outLen body = t))
    ∧ (∃ (s : State) (code : Nat) (tag : BitVec 16) (status : Nat) (detail : Nat) (first : Nat) (count : Nat) (outLen : Nat)
      (body : Bytes) (b : Bytes) (t : State) (v : Fin 64),
      (s.mem.wf = true)
      ∧ (s.linkOk = true)
      ∧ (s.mbx.rspWait = [])
      ∧ (s.mbx.rspq.base ≠ 0)
      ∧ (b = toLE 2 status ++ toLE 2 detail ++ toLE 4 first ++ toLE 2 count ++ toLE 2 0 ++ toLE 4 outLen ++ body)
      ∧ (s.mbx.rspq.used + recUnits b ≤ s.mbx.rspq.size)
      ∧ (s.mbx.rspq.prod.toNat % s.mbx.rspq.size + recUnits b ≤ s.mbx.rspq.size)
      ∧ ((s.mbx.rspq.base + 16 * s.mbx.rspq.size ≤ s.mbx.idxLatched ∨ s.mbx.idxLatched + 8 ≤ s.mbx.rspq.base))
      ∧ (s.respond code tag.toNat status detail first count outLen body = t)
      ∧ (v.val = s.mbx.rspVec)
      ∧ ((s.host.msix[v]).masked = false))
    ∧ (∃ (s : State),
      (s.linkOk = false))
    ∧ (∃ (s : State) (t : State) (code : Nat) (c : Cmd) (status : Nat) (detail : Nat) (body : Bytes) (rep : List Rep),
      (s.mem.wf = true)
      ∧ (reply code c status detail body rep s = t)) :=
  ⟨⟨w0, 0, 0, 0, 0, 0, 1, 0, [], _, _, by decide +kernel, by decide +kernel, by decide +kernel, by decide +kernel, rfl,
    by decide +kernel, by decide +kernel, by decide +kernel, rfl⟩,
    ⟨{ w0 with host := { l0 := true, msix := Vector.replicate 64 { masked := false } }, mbx := { mbx0 with rspVec := 2 } },
      0, 0, 0, 0, 0, 1, 0, [], _, _, 2, by decide +kernel, by decide +kernel, by decide +kernel, by decide +kernel, rfl,
        by decide +kernel, by decide +kernel, by decide +kernel, rfl, by decide +kernel, by decide +kernel⟩,
    ⟨State.reset, by decide +kernel⟩,
    ⟨w0, _, 0, cmd [], 0, 0, [], [], by decide +kernel, rfl⟩⟩

end Sys2Proof.Tests
end

section
/-!
SUPPORT. The registers of BAR0 that a 32-bit write changes by an access code of their own: what is stored by a write of each, and
the clamp of the ring size.
-/

namespace Sys2Proof.Machine
open Sys2Proof

/-! ### A clamped number -/

theorem le_clampNat {lo hi : Nat} (h : lo ≤ hi) (v : Nat) : lo ≤ clampNat lo hi v := by
  unfold clampNat; split_ifs <;> omega

theorem clampNat_le {lo hi : Nat} (h : lo ≤ hi) (v : Nat) : clampNat lo hi v ≤ hi := by
  unfold clampNat; split_ifs <;> omega

theorem clampNat_of_mem {lo hi v : Nat} (h1 : lo ≤ v) (h2 : v ≤ hi) : clampNat lo hi v = v := by
  simp [clampNat, Nat.not_lt.mpr h1, Nat.not_lt.mpr h2]

/-! ### What a write of a register stores -/

/-- HL_ERR_STATUS is write-1-to-clear (R6, R424). -/
theorem write32_hlErrStatus (v : BitVec 32) (s : State) :
    write32 0x1000 v s = s.setHost fun h => { h with err := h.err &&& ~~~(v.setWidth 9) } := rfl

/-- HL_CONFIG is frozen by LOCK (R424). -/
theorem write32_hlConfig (v : BitVec 32) (s : State) :
    write32 0x1004 v s = if s.host.lock then s else s.setHost fun h => { h with ideRequired := v.getLsbD 0 } := rfl

/-- SEC_LOCK is only ever set (R424). -/
theorem write32_secLock (v : BitVec 32) (s : State) :
    write32 0x100C v s = if v.getLsbD 0 then setLock s else s := rfl

/-- INT_STATUS is write-1-to-clear (R6, R424). -/
theorem write32_intStatus (v : BitVec 32) (s : State) :
    write32 0x1010 v s = s.setHost fun h => { h with intStatus := h.intStatus &&& ~~~(v.setWidth 16) } := rfl

/-- MBX_RING_SIZE holds LOG2_SIZE in its low 5 bits (R425). -/
theorem write32_mbxRingSize (v : BitVec 32) (s : State) :
    write32 0x2020 v s = s.setMbx fun m => { m with log2Size := clampNat 16 24 (v.toNat % 32) } := rfl

/-! ### The fields after the write -/

theorem write32_hlConfig_ideRequired (v : BitVec 32) (s : State) :
    (write32 0x1004 v s).host.ideRequired = if s.host.lock then s.host.ideRequired else v.getLsbD 0 := by
  rw [write32_hlConfig]
  cases s.host.lock <;> simp

theorem setLock_lock (s : State) : (setLock s).host.lock = true := by simp [setLock]

theorem write32_secLock_lock (v : BitVec 32) (s : State) :
    (write32 0x100C v s).host.lock = (s.host.lock || v.getLsbD 0) := by
  rw [write32_secLock]
  cases v.getLsbD 0 <;> simp [setLock_lock]

theorem write32_mbxRingSize_log2Size (v : BitVec 32) (s : State) :
    (write32 0x2020 v s).mbx.log2Size = clampNat 16 24 (v.toNat % 32) := by
  rw [write32_mbxRingSize, State.setMbx_mbx]

/-- Settles O16: each register's clause is what its write stores, read off the field; LOG2_SIZE is bounded by the clamp. -/
theorem write_one_to_clear_registers : Obligations.Write_one_to_clear_registers := by
  unfold Obligations.Write_one_to_clear_registers
  intro v s
  refine ⟨?err, ?intStatus, write32_secLock_lock v s, write32_hlConfig_ideRequired v s, ?_⟩
  case err => rw [write32_hlErrStatus, State.setHost_host]
  case intStatus => rw [write32_intStatus, State.setHost_host]
  rw [write32_mbxRingSize_log2Size]
  exact ⟨le_clampNat (by decide) _, clampNat_le (by decide) _, clampNat_of_mem⟩

end Sys2Proof.Machine
end

section
/-!
SUPPORT. The slot records of SPQ: what each of the four does where no check turns it away, and where one does.
-/

namespace Sys2Proof.Machine
open Sys2Proof

/-! ### A record that SPQ holds whole -/

theorem takeRecord_kept {s : State} {len cell sfn : BitVec 16} {slot : Byte} {dl dup : Bool} (keep : State → State)
    (hread : s.canRead s.mbx.spq len.toNat = true)
    (hcause : recordCause (s.takeSpq len) cell.toNat sfn.toNat slot.toNat len.toNat dl dup = none) :
    takeRecord s len cell sfn slot dl dup keep = keep ((s.takeSpq len).setFe fun f => { f with
      recOrder := f.recOrder ++ [(cell.toNat, packSfn sfn.toNat slot.toNat)] }) := by
  simp [takeRecord, hread, hcause]

theorem takeRecord_turnedAway {s : State} {len cell sfn : BitVec 16} {slot : Byte} {dl dup : Bool} {cause : Nat}
    (keep : State → State) (hread : s.canRead s.mbx.spq len.toNat = true)
    (hcause : recordCause (s.takeSpq len) cell.toNat sfn.toNat slot.toNat len.toNat dl dup = some cause) :
    takeRecord s len cell sfn slot dl dup keep = (s.takeSpq len).slotError cell.toNat sfn.toNat slot.toNat cause := by
  simp [takeRecord, hread, hcause]

/-- A record that no check turns away is one of a cell that has an engine in service. -/
theorem inService_of_recordCause_none {s : State} {cell sfn slot len : Nat} {dl dup : Bool}
    (h : recordCause s cell sfn slot len dl dup = none) (x : Cell) (hx : s.cell? cell = some x) :
    s.inService x.cluster.val ≠ [] := by
  intro hempty
  unfold recordCause at h
  rw [hx] at h
  simp only [hempty, List.isEmpty_nil, Bool.or_true, if_true] at h
  split at h <;> cases h

/-! ### The PDUs that are skipped -/

theorem placesOf_eq_nil {α : Type} {p : α → Bool} {l : List α} (off : Nat) (h : ∀ x ∈ l, p x = false) :
    placesOf off p l = [] := by
  have hnone : (l.zip (List.range l.length)).filter (fun x => p x.1) = [] := by
    refine List.filter_eq_nil_iff.2 fun x hx => ?_
    simp [h x.1 (List.of_mem_zip hx).1]
  simp [placesOf, hnone]

/-- The SLOT_ERRORs of an UL_SLOT's PDUs, in the order in which `ulSlot` posts them. -/
def ulErrors (r : UlSlot) (s : State) : State :=
  let err := fun (c : Nat) (l : List Nat) (s : State) => pduErrors s r.cell.toNat r.sfn.toNat r.slot.toNat c l
  let n := r.pusch.length + r.pucch.length
  err 4 r.excluded (err 5 (placesOf n (fun p => prachAllowed p && decide (64 < p.count)) r.prach)
    (err 4 (placesOf n (fun p => !prachAllowed p) r.prach)
      (err 5 (placesOf 0 (fun p => puschAllowed p && !puschServed p) r.pusch)
        (err 4 (placesOf 0 (fun p => !puschAllowed p) r.pusch) s))))

theorem puschAllowed_of_puschServed {p : Pusch} (h : puschServed p = true) : puschAllowed p = true :=
  (Bool.and_eq_true_iff.1 h).1

/-- No SLOT_ERROR is owed where every PDU is served. -/
theorem ulErrors_of_served {r : UlSlot} (hpusch : ∀ p ∈ r.pusch, puschServed p = true)
    (hprach : ∀ p ∈ r.prach, prachAllowed p = true ∧ p.count ≤ 64) (hexcl : r.excluded = []) (s : State) :
    ulErrors r s = s := by
  have h1 : placesOf 0 (fun p => !puschAllowed p) r.pusch = [] :=
    placesOf_eq_nil 0 fun p hp => by simp [puschAllowed_of_puschServed (hpusch p hp)]
  have h2 : placesOf 0 (fun p => puschAllowed p && !puschServed p) r.pusch = [] :=
    placesOf_eq_nil 0 fun p hp => by simp [hpusch p hp]
  have h3 : ∀ n, placesOf n (fun p => !prachAllowed p) r.prach = [] := fun n =>
    placesOf_eq_nil n fun p hp => by simp [(hprach p hp).1]
  have h4 : ∀ n, placesOf n (fun p => prachAllowed p && decide (64 < p.count)) r.prach = [] := fun n =>
    placesOf_eq_nil n fun p hp => by simp [(hprach p hp).2]
  simp [ulErrors, h1, h2, h3, h4, hexcl, pduErrors]

/-! ### UL_SLOT -/

/-- Unless its cell lost its engines and it has PRACH occasions, an UL_SLOT is taken like every other record (R36). -/
theorem ulSlot_eq_takeRecord {r : UlSlot} {s : State}
    (h : (∀ x, s.cell? r.cell.toNat = some x → s.inService x.cluster.val ≠ []) ∨ r.prach = []) :
    ulSlot r s = takeRecord s r.len r.cell r.sfn r.slot false
      ((tget? s.fe.ulRecs (slotKey r.cell.toNat (packSfn r.sfn.toNat r.slot.toNat))).isSome
        || (tget? s.fe.ul (slotKey r.cell.toNat (packSfn r.sfn.toNat r.slot.toNat))).isSome)
      fun s => (ulErrors r s).setFe fun f => { f with
        ulRecs := tset f.ulRecs (slotKey r.cell.toNat (packSfn r.sfn.toNat r.slot.toNat)) r } := by
  unfold ulSlot
  extract_lets key dup bare n keepPrach
  have hbare : (bare && !r.prach.isEmpty) = false := by
    rcases h with hengine | hprach
    · have : bare = false := by
        cases hx : s.cell? r.cell.toNat with
        | none => simp [bare, hx]
        | some x => simp [bare, hx, hengine x hx]
      simp [this]
    · simp [hprach]
  have hkeep : keepPrach = id := by
    funext u
    simp [keepPrach, hbare]
  rw [hkeep, ite_self]
  rfl

/-! ### DL_SLOT, UL_DCI and TX_DATA -/

theorem dlSlot_eq_takeRecord (r : DlSlot) (s : State) :
    dlSlot r s = takeRecord s r.len r.cell r.sfn r.slot true
      ((tget? s.fe.dlRecs (slotKey r.cell.toNat (packSfn r.sfn.toNat r.slot.toNat))).isSome
        || dlServed s r.cell.toNat (packSfn r.sfn.toNat r.slot.toNat))
      fun s => (dlErrors r s).setFe fun f => { f with
        dlRecs := tset f.dlRecs (slotKey r.cell.toNat (packSfn r.sfn.toNat r.slot.toNat)) (dlServable r) } := rfl

theorem ulDci_eq_takeRecord (r : DlSlot) (s : State) :
    ulDci r s = takeRecord s r.len r.cell r.sfn r.slot true
      ((tget? s.fe.dciRecs (slotKey r.cell.toNat (packSfn r.sfn.toNat r.slot.toNat))).isSome
        || dlServed s r.cell.toNat (packSfn r.sfn.toNat r.slot.toNat))
      fun s => (dlErrors r s).setFe fun f => { f with
        dciRecs := tset f.dciRecs (slotKey r.cell.toNat (packSfn r.sfn.toNat r.slot.toNat)) (dlServable r) } := rfl

/-- TX_DATA of a slot whose window is still to open is taken like every other record. -/
theorem txData_eq_takeRecord {r : TxData} {s : State}
    (h : dlOpened s r.cell.toNat (packSfn r.sfn.toNat r.slot.toNat) = false) :
    txData r s = takeRecord s r.len r.cell r.sfn r.slot true
      ((tget? s.fe.txRecs (slotKey r.cell.toNat (packSfn r.sfn.toNat r.slot.toNat))).isSome
        || dlServed s r.cell.toNat (packSfn r.sfn.toNat r.slot.toNat))
      fun s => s.setFe fun f => { f with
        txRecs := tset f.txRecs (slotKey r.cell.toNat (packSfn r.sfn.toNat r.slot.toNat)) r } := by
  simp [txData, h]

/-- TX_DATA that the opened window of its slot waits for triggers the downlink quire (R24). -/
theorem txData_awaited {r : TxData} {s : State} {n : Nat} (hn : n = packSfn r.sfn.toNat r.slot.toNat)
    (hread : s.canRead s.mbx.spq r.len.toNat = true) (hlen : 2 ≤ r.len.toNat) (hopen : dlOpened s r.cell.toNat n = true)
    (hdl : (tget? s.fe.dlRecs (slotKey r.cell.toNat n)).isSome = true)
    (htx : tget? s.fe.txRecs (slotKey r.cell.toNat n) = none) (hserved : dlServed s r.cell.toNat n = false) :
    txData r s = startDl ((s.takeSpq r.len).setFe fun f => { f with
      txRecs := tset f.txRecs (slotKey r.cell.toNat n) r }) r.cell.toNat n := by
  subst hn
  simp [txData, hopen, hdl, htx, hserved, hlen, hread]

/-! ### The cause -/

/-- The checks of a slot record in their order (R36, R299, R381). -/
theorem recordCause_eq (s : State) (cell sfn slot len : Nat) (dl dup : Bool) :
    recordCause s cell sfn slot len dl dup = (if len < 2 then some 5 else match s.cell? cell with
      | none => some 3
      | some x => if x.placed = false ∨ (if dl then x.downlink else x.uplink) = false ∨ s.inService x.cluster.val = [] then some 3
        else if 1024 ≤ sfn ∨ x.slotsPerFrame ≤ slot then some 5
        else if dup then some 2
        else match x.indexOf (packSfn sfn slot) with
          | some i => if i < ((if dl then x.cpDl else x.cpUl : Nat) : Int) then some 1 else none
          | none => none) := by
  unfold recordCause
  cases s.cell? cell with
  | none => rfl
  | some x =>
    have hguard : (!x.placed || !(if dl then x.downlink else x.uplink) || (s.inService x.cluster.val).isEmpty) = true
        ↔ x.placed = false ∨ (if dl then x.downlink else x.uplink) = false ∨ s.inService x.cluster.val = [] := by
      simp [or_assoc]
    exact if_congr Iff.rfl rfl (if_congr hguard rfl rfl)

/-- Settles O29: each record is taken by `takeRecord`, which keeps it or answers the cause of the check that turns it away. -/
theorem slot_records_are_taken : Obligations.Slot_records_are_taken := by
  unfold Obligations.Slot_records_are_taken
  refine ⟨?ulKept, ?ulAway, ?dlKept, ?dciKept, ?txKept, ?dlAway, ?dciAway, ?txAway, recordCause_eq, ?txAwaited⟩
  case ulKept =>
    rintro r s n rfl hread hcause hpusch hprach hexcl
    have hengine : ∀ x, s.cell? r.cell.toNat = some x → s.inService x.cluster.val ≠ [] := inService_of_recordCause_none hcause
    show Host.Outcome.next (ulSlot r s) = _
    rw [ulSlot_eq_takeRecord (.inl hengine), takeRecord_kept _ hread hcause, ulErrors_of_served hpusch hprach hexcl]
    rfl
  case ulAway =>
    rintro r s n cause rfl hread hengine hcause
    show Host.Outcome.next (ulSlot r s) = _
    rw [ulSlot_eq_takeRecord hengine, takeRecord_turnedAway _ hread hcause]
  case dlKept =>
    rintro r s n rfl hread hcause
    show Host.Outcome.next (dlSlot r s) = _
    rw [dlSlot_eq_takeRecord, takeRecord_kept _ hread hcause]
  case dciKept =>
    rintro r s n rfl hread hcause
    show Host.Outcome.next (ulDci r s) = _
    rw [ulDci_eq_takeRecord, takeRecord_kept _ hread hcause]
  case txKept =>
    rintro r s n rfl hread hopen hcause
    show Host.Outcome.next (txData r s) = _
    rw [txData_eq_takeRecord hopen, takeRecord_kept _ hread hcause]
    rfl
  case dlAway =>
    rintro r s n cause rfl hread hcause
    show Host.Outcome.next (dlSlot r s) = _
    rw [dlSlot_eq_takeRecord, takeRecord_turnedAway _ hread hcause]
  case dciAway =>
    rintro r s n cause rfl hread hcause
    show Host.Outcome.next (ulDci r s) = _
    rw [ulDci_eq_takeRecord, takeRecord_turnedAway _ hread hcause]
  case txAway =>
    rintro r s n cause rfl hread hopen hcause
    show Host.Outcome.next (txData r s) = _
    rw [txData_eq_takeRecord hopen, takeRecord_turnedAway _ hread hcause]
  case txAwaited =>
    intro r s n hn hread hlen hopen hdl htx hserved
    exact congrArg Host.Outcome.next (txData_awaited hn hread hlen hopen hdl htx hserved)

end Sys2Proof.Machine
end

section
/-!
SUPPORT. The posting of results: what COLOPHON_FINALISE and RESULT_POSTING do for each kind of quire, what SLOT_DEADLINE does with a
slot-reception, and what a slot-reception that is opened again holds.
-/

namespace Sys2Proof.Machine
open Sys2Proof

/-! ### COLOPHON_FINALISE and RESULT_POSTING by the kind of the quire (R20, R279, R283) -/

section Kinds
variable {tag : BitVec 16} {s : State} {q : Quire} (hq : tget? s.quires tag.toNat = some q)
include hq

theorem colophonFinalise_slotReception {r : RxCtx} {b : Bytes} {u : State} (hkind : q.kind = .slotReception)
    (hr : s.rx? tag = some r) (hfin : finalise s q (ulColo s q r) = (b, u)) :
    colophonFinalise tag s
      = if r.posted || !r.colo.isEmpty || !(cellOf r.cellRcd).colophon || !ulReady s q r then s
        else (u.setRx tag fun r => { r with colo := b }).setCoding fun x => { x with
          harqColophon := (wroteBuffers s r).foldl (fun t n => tset t n (slice b 0x10 32)) x.harqColophon } := by
  simp only [colophonFinalise, hq, hkind, hr, hfin]

theorem colophonFinalise_prach {x : PrachCtx} {b : Bytes} {u : State} (hkind : q.kind = .prach)
    (hx : tget? s.coding.prach tag.toNat = some x) (hfin : finalise s q (prachColo s q x) = (b, u)) :
    colophonFinalise tag s
      = if x.posted || !x.colo.isEmpty || !(cellOf x.cellRcd).colophon || !prachReady q x then s
        else u.setCoding fun c => { c with prach := tset c.prach tag.toNat { x with colo := b } } := by
  simp only [colophonFinalise, hq, hkind, hx, hfin]

theorem colophonFinalise_downlink {d : DlCtx} {b : Bytes} {u : State} (hkind : q.kind = .downlink)
    (hd : tget? s.coding.dl tag.toNat = some d) (hfin : finalise s q (dlColo s q d) = (b, u)) :
    colophonFinalise tag s
      = if d.posted || !d.colo.isEmpty || !(cellOf d.cellRcd).colophon || !dlReadyToPost d then s
        else u.setCoding fun c => { c with dl := tset c.dl tag.toNat { d with colo := b } } := by
  simp only [colophonFinalise, hq, hkind, hd, hfin]

theorem resultPosting_slotReception {r : RxCtx} (hkind : q.kind = .slotReception) (hr : s.rx? tag = some r)
    (hlink : s.linkOk = true) :
    resultPosting tag s
      = if r.posted || !ulReady s q r || !coloDone r.cellRcd r.colo then s else postUl s q r := by
  simp only [resultPosting, hq, hkind, hr, hlink, Bool.not_true, Bool.false_eq_true, if_false]

theorem resultPosting_prach {x : PrachCtx} (hkind : q.kind = .prach) (hx : tget? s.coding.prach tag.toNat = some x)
    (hlink : s.linkOk = true) :
    resultPosting tag s
      = if x.posted || !prachReady q x || !coloDone x.cellRcd x.colo then s
        else (s.postSpc (coloOut x.cell x.sfnSlot tag.toNat s.ticks.toNat x.colo
            ++ [rachRecord q x tag.toNat s.ticks.toNat])).setCoding fun c =>
          { c with prach := tset c.prach tag.toNat { x with posted := true } } := by
  simp only [resultPosting, hq, hkind, hx, hlink, Bool.not_true, Bool.false_eq_true, if_false]

theorem resultPosting_downlink {d : DlCtx} (hkind : q.kind = .downlink) (hd : tget? s.coding.dl tag.toNat = some d)
    (hlink : s.linkOk = true) :
    resultPosting tag s
      = if d.posted || !dlReadyToPost d || !coloDone d.cellRcd d.colo then s
        else (s.postSpc (coloOut d.cell d.sfnSlot tag.toNat s.ticks.toNat d.colo
            ++ [dlDone d tag.toNat s.ticks.toNat])).setCoding fun c =>
          { c with dl := tset c.dl tag.toNat { d with posted := true } } := by
  simp only [resultPosting, hq, hkind, hd, hlink, Bool.not_true, Bool.false_eq_true, if_false]

end Kinds

/-- Nothing is posted while no request reaches the host (R345). -/
theorem resultPosting_linkDown {s : State} (hlink : s.linkOk = false) (tag : BitVec 16) : resultPosting tag s = s := by
  unfold resultPosting
  cases tget? s.quires tag.toNat with
  | none => rfl
  | some q => simp [hlink]

/-! ### SLOT_DEADLINE (R22) -/

/-- At its deadline a slot-reception is late already, or posted with no record that waits for room, and left alone; or it is opened
again, stored, finalised and posted. -/
theorem slotDeadline_eq {tag : BitVec 16} {s u : State} {q : Quire} {r : RxCtx} {t : Nat}
    (hq : tget? s.quires tag.toNat = some q) (hr : s.rx? tag = some r) (ht : q.deadline = some t)
    (hu : u = s.advance (t - (s.cl q.cluster).counter.toNat)) :
    slotDeadline tag s
      = if r.late || (r.posted && !(waitsFor u tag.toNat 0x90 || waitsFor u tag.toNat 0x92)) then u
        else resultPosting tag (colophonFinalise tag (returnRest (freePlaces
          ((List.range r.pusch.length).foldl (fun s i => lateStore (combineHanded s tag i) tag i) (reopen u tag r)) tag) tag)) := by
  subst hu
  simp only [slotDeadline, hq, hr, ht]

theorem setRx_rx? {s : State} {tag : BitVec 16} {r : RxCtx} (hr : s.rx? tag = some r) (f : RxCtx → RxCtx) :
    (s.setRx tag f).rx? tag = some (f r) := by
  unfold State.setRx
  rw [hr]
  exact tget?_tset _ _ _

theorem dropColo_rx? (s : State) (b : Bytes) (tag : BitVec 16) : (dropColo s b).rx? tag = s.rx? tag := by
  unfold dropColo
  split <;> rfl

/-- All of a slot-reception that was not posted is open again, and late. -/
theorem reopen_rx?_of_not_posted {tag : BitVec 16} {s : State} {r : RxCtx} (hr : s.rx? tag = some r)
    (hposted : r.posted = false) :
    (reopen s tag r).rx? tag = some { r with
      late := true, coloSent := false, colo := []
      pusch := r.pusch.map fun x => { x with posted := false }
      uci := r.uci.map fun u => { u with posted := false } } := by
  unfold reopen
  extract_lets tb uci colo drop s1 s2
  obtain ⟨htb, huci, hcolo⟩ : tb = true ∧ uci = true ∧ colo = true := by simp [tb, uci, colo, hposted]
  have hr2 : s2.rx? tag = some r := by
    simp only [s2, hcolo, if_true]
    exact (dropColo_rx? s1 _ _).trans hr
  rw [setRx_rx? hr2]
  simp [htb, huci, hcolo, hposted]

/-- Settles O44: the equation of each command at the quire's kind, with the guard decided by the clause's hypotheses. -/
theorem results_are_finalised_posted_or_cut_off : Obligations.Results_are_finalised_posted_or_cut_off := by
  unfold Obligations.Results_are_finalised_posted_or_cut_off
  refine ⟨?finUl, ?finDl, ?finPrach, ?postUl, ?postPrach, ?postDl, ?linkDown, ?deadline, ?reopened, ?sealed⟩
  case finUl =>
    intro tag s u q r b hq hkind hr hposted hcolo hasks hready hfin
    show Host.Outcome.next (colophonFinalise tag s) = _
    rw [colophonFinalise_slotReception hq hkind hr hfin, if_neg (by simp [hposted, hcolo, hasks, hready])]
  case finDl =>
    intro tag s u q d b hq hkind hd hposted hcolo hasks hready hfin
    show Host.Outcome.next (colophonFinalise tag s) = _
    rw [colophonFinalise_downlink hq hkind hd hfin, if_neg (by simp [hposted, hcolo, hasks, hready])]
  case finPrach =>
    intro tag s u q x b hq hkind hx hposted hcolo hasks hready hfin
    show Host.Outcome.next (colophonFinalise tag s) = _
    rw [colophonFinalise_prach hq hkind hx hfin, if_neg (by simp [hposted, hcolo, hasks, hready])]
  case postUl =>
    intro tag s q r hq hkind hr hlink hposted hready hdone
    show Host.Outcome.next (resultPosting tag s) = _
    rw [resultPosting_slotReception hq hkind hr hlink, if_neg (by simp [hposted, hready, hdone])]
  case postPrach =>
    intro tag s q x hq hkind hx hlink hposted hready hdone
    show Host.Outcome.next (resultPosting tag s) = _
    rw [resultPosting_prach hq hkind hx hlink, if_neg (by simp [hposted, hready, hdone])]
  case postDl =>
    intro tag s q d hq hkind hd hlink hposted hready hdone
    show Host.Outcome.next (resultPosting tag s) = _
    rw [resultPosting_downlink hq hkind hd hlink, if_neg (by simp [hposted, hready, hdone])]
  case linkDown =>
    intro tag s hlink
    exact congrArg Host.Outcome.next (resultPosting_linkDown hlink tag)
  case deadline =>
    intro tag s u q r t hq hr ht hu
    have heq : exec (.slotDeadline tag) s = .next _ := congrArg Host.Outcome.next (slotDeadline_eq hq hr ht hu)
    refine ⟨fun hlate hopen => ?_, fun hclosed => ?_⟩
    · rw [heq, if_neg]
      rcases hopen with h | h | h <;> simp [hlate, h]
    · rw [heq, if_pos]
      rcases hclosed with h | ⟨h, htb, huci⟩
      · simp [h]
      · simp [h, htb, huci]
  case reopened =>
    intro tag s r hr hposted
    exact reopen_rx?_of_not_posted hr hposted
  case sealed =>
    intro s u b l base cap hseal hstore hu
    subst hu
    show Host.Outcome.next (sealComplete s) = _
    simp only [sealComplete, hseal, hstore]

end Sys2Proof.Machine
end

section
/-!
SUPPORT. The uplink of the fronthaul: C-plane windows, frames and messages, reception windows, slot stores, PRACH occasions and the
release of a slot-reception, each as what it does once its slot is found.
-/

namespace Sys2Proof.Machine
open Sys2Proof

/-! ### Tables -/

theorem tget?_tset_other {α : Type} (t : Table α) {k j : Nat} (v : α) (hkj : k ≠ j) :
    tget? (tset t k v) j = tget? t j := by
  induction t with
  | nil => simp [tset, tget?, hkj]
  | cons p r ih =>
    obtain ⟨i, x⟩ := p
    unfold tset
    split
    · simp [tget?, hkj]
    · split
      · next hik => subst hik; simp [tget?, hkj]
      · simp [tget?, ih]

/-- What a table holds at a key after a list of entries has been stored in it: the value of an entry with that key. -/
theorem tget?_foldl_tset {α β : Type} (key : β → Nat) (val : β → α) (l : List β) (t : Table α) {y : β} (hy : y ∈ l) :
    ∃ z ∈ l, tget? (l.foldl (fun t x => tset t (key x) (val x)) t) (key y) = some (val z) ∧ key z = key y := by
  induction l using List.reverseRecOn with
  | nil => cases hy
  | append_singleton l a ih =>
    rw [List.foldl_append, List.foldl_cons, List.foldl_nil]
    by_cases hkey : key a = key y
    · exact ⟨a, by simp, by rw [hkey, tget?_tset], hkey⟩
    · have hmem : y ∈ l := by
        rcases List.mem_append.1 hy with h | h
        · exact h
        · exact absurd (congrArg key (List.mem_singleton.1 h)).symm hkey
      obtain ⟨z, hz, hget, hzy⟩ := ih hmem
      exact ⟨z, List.mem_append_left _ hz, (tget?_tset_other _ _ hkey).trans hget, hzy⟩

/-! ### C-plane windows (R297, R299) -/

/-- The uplink slot of a C-plane window that has opened, by the number that the clock gives it: its record is served, or
SLOT_RECORD_LATE is counted. -/
def serveNumbered (u : State) (cell i : Nat) (c : Cell) (number : Option Nat) : State :=
  match number with
  | none => u.feCount .slotRecordLate cell
  | some n => match tget? u.fe.ulRecs (slotKey cell n) with
    | none => u.feCount .slotRecordLate cell
    | some r => serveUl u cell i c n r

/-- The C-plane window of an uplink slot: time passes to it, and the clock is numbered and counts on. -/
theorem cplaneWindowOpen_uplink {cell : Nat} {s u : State} {c d : Cell} (hc : s.cell? cell = some c)
    (hplaced : c.placed = true) (hclock : c.clock.isSome = true) (hul : c.uplink = true)
    (hu : u = ((numberSlot (s.advanceTo (c.symTick c.cpUl
      (match c.slotAt c.cpUl with | some n => slotOf n | none => 0) 0 - c.cpUlMax)) cell c.cpUl
        (if c.downlink then c.cpDl else 0)).setCell cell fun x => { x with cpUl := c.cpUl + 1 }))
    (hd : u.cell? cell = some d) :
    cplaneWindowOpen cell false s = serveNumbered u cell c.cpUl c (d.slotAt c.cpUl) := by
  have hgo : (!c.placed || c.clock.isNone || !c.uplink) = false := by
    simp [hplaced, hul, ← Option.not_isSome, hclock]
  subst hu
  unfold cplaneWindowOpen
  rw [hc]
  simp only [Bool.false_eq_true, if_false, hgo]
  split
  · next hnone => cases hnone.symm.trans hd
  · next c2 hc2 =>
    obtain rfl : c2 = d := Option.some.inj (hc2.symm.trans hd)
    rfl

/-! ### Frames and messages (R292 to R304) -/

theorem frameReceive_down {f : Frame} {s : State} (hdown : (s.port f.port.val).up = false) : frameReceive f s = s := by
  simp [frameReceive, hdown]

/-- The checks of a frame on a port that is up, in their order. -/
theorem frameReceive_up {f : Frame} {s u : State} (hup : (s.port f.port.val).up = true)
    (hu : u = if f.fecBad then s.feCount .fecUncorr f.port.val else s) :
    frameReceive f s = if f.pause then u.feCount .pauseRx f.port.val
      else if frameBad u f then u.feCount .frameBad f.port.val
      else match macsecIn u f with
        | none => u.feCount (macsecCause u f) f.port.val
        | some v => if f.revision ≠ 1 then f.msgs.foldl (fun s _ => s.feCount .ecpriBad f.port.val) v
          else f.msgs.foldl (takeMessage f.port.val (match f.tags with | t :: _ => t.2 | [] => 0)) v := by
  subst hu
  unfold frameReceive
  exact if_neg (by simp [hup])

theorem takeMessage_bad {m : EcpriMsg} (hbad : ecpriBad m = true) (port vlan : Nat) (s : State) :
    takeMessage port vlan s m = s.feCount .ecpriBad port := by
  simp [takeMessage, hbad]

theorem takeMessage_unknown {m : EcpriMsg} {port vlan : Nat} {s : State} (hgood : ecpriBad m = false)
    (hnone : s.fe.eaxc.findIdx? (fun e => e.1 == port && e.2.1 == vlan && e.2.2.1 == m.eaxc.toNat
      && e.2.2.2.2.1 != 1) = none) : takeMessage port vlan s m = s.feCount .eaxcUnknown port := by
  simp [takeMessage, hgood, hnone]

/-! ### SLOT_STORE_FORWARD (R150, R301) -/

theorem ringCluster_eq {n : Nat} {k : Fin 4} (hk : k.val = n / 16) :
    (if h : n / 16 < 4 then (⟨n / 16, h⟩ : Fin 4) else 0) = k := by
  rw [dif_pos (hk ▸ k.isLt)]
  exact Fin.ext hk.symm

/-- A stream-symbol that has ended and is not stored goes to its place once its ring is its slot's, or is free of the slot before. -/
theorem slotStoreForward_eq {cell sn sym stream n clamps : Nat} {par : Option (Nat × Bool)} {s u v w : State} {c : Cell} {z : UlCtx}
    {x : StreamSym} {r : RingEntry} {k : Fin 4} {prbs : Table Bytes} (hc : s.cell? cell = some c)
    (hz : tget? s.fe.ul (slotKey cell sn) = some z)
    (hx : z.syms.find? (fun x => x.symbol == sym && x.stream == stream) = some x)
    (hr : s.fe.rings.find? (fun p => p.2.cell == cell) = some (n, r)) (hk : k.val = n / 16)
    (hu : u = if r.slot = some sn then s else (s.putObj k r.releaseObj {}).setFe fun f =>
      { f with rings := tset f.rings n { r with busy := true, slot := some sn } })
    (hprbs : storePrbs c x = (prbs, clamps))
    (hv : v = storeParity u (writeStore u (ringAt (n / 16) (n % 16)) c x prbs) k (slotKey cell sn)
      (ringAt (n / 16) (n % 16) + streamAt c x) c.streamBytes par)
    (hw : w = if clamps = 0 then v else v.feCount .bfpClamp cell clamps) :
    slotStoreForward cell sn sym stream par s
      = if !x.closed || x.stored || !(r.slot == some sn || (!r.busy || decide (r.need ≤ (s.obj k r.releaseObj).count.toNat))) then s
        else (setUl w (slotKey cell sn) fun u => { u with
          syms := u.syms.map fun y => if y = x then { x with stored := true, gran := 0 } else y }).setFe fun f =>
            { f with granules := f.granules - x.gran } := by
  subst hw hv hu
  unfold slotStoreForward
  simp only [hc, hz, hx, hr, ringCluster_eq hk, hprbs, beq_iff_eq]

/-! ### PRACH occasions (R216) -/

/-- The context of an occasion that has ended, from what arrived of it. -/
def prachCtxOf (c : Cell) (u : UlCtx) (cell sn pdu : Nat) (p : PrachPdu) (tag : BitVec 16) : PrachCtx :=
  let ins := prachInputs u pdu p c.prachIds.length
  { tag := tag, cell := cell, sfnSlot := sn, pdu := p, cellRcd := c.rcd
    y := ins.foldl (fun (t : Table (List (BitVec 32))) x =>
      tset t (x.1 * 64 + x.2.1) (prachSamples c (prachLen p) x.2.2).1) []
    missing := ins.any fun x => decide (x.2.2.length < ceilDiv (prachLen p) 12)
    digests := if c.colophon then ins.map fun x => streamDigest x.2.2 else [] }

/-- An occasion that has not ended makes its quire, due 500 µs after its last symbol, and keeps its samples. -/
theorem prachWindowEnd_open {cell sn pdu clamps t e : Nat} {s u v : State} {c : Cell} {x : UlCtx} {p : PrachPdu}
    {tag : BitVec 16} (hc : s.cell? cell = some c) (hx : tget? s.fe.ul (slotKey cell sn) = some x)
    (hp : x.rcd.prach[pdu]? = some p) (hallowed : prachAllowed p = true) (hdone : pdu ∉ x.prachDone)
    (ht : c.symAt sn (p.startSym + prachReps p - 1) = some t) (he : c.symEnd sn (p.startSym + prachReps p - 1) = some e)
    (hu : u = dropUl (setUl (s.advanceTo (t + c.ta4Max)) (slotKey cell sn) fun u =>
      { u with prachDone := u.prachDone ++ [pdu] }) (slotKey cell sn))
    (hnew : newQuire u c.cluster .prach (cell + 1) cell sn
      (some ((u.cl c.cluster).counter.toNat + usTicks 500 - (u.ticks.toNat - e))) = (tag, v))
    (hclamps : clamps = ((prachInputs x pdu p c.prachIds.length).map fun y => (prachSamples c (prachLen p) y.2.2).2).sum) :
    prachWindowEnd cell sn pdu s
      = if clamps = 0 then v.setCoding fun g => { g with prach := tset g.prach tag.toNat (prachCtxOf c x cell sn pdu p tag) }
        else (v.setCoding fun g => { g with prach := tset g.prach tag.toNat (prachCtxOf c x cell sn pdu p tag) }).feCount
          .bfpClamp cell clamps := by
  subst hclamps hu
  have hgo : (!prachAllowed p || x.prachDone.contains pdu) = false := by simp [hallowed, hdone]
  unfold prachWindowEnd
  simp only [hc, hx, hp, hgo, ht, he, hnew, Bool.false_eq_true, if_false]
  rfl

/-- The samples of each stream and repetition of an occasion are kept. -/
theorem prachCtxOf_y (c : Cell) (u : UlCtx) (cell sn pdu : Nat) (p : PrachPdu) (tag : BitVec 16) {y : Nat × Nat × Table Bytes}
    (hy : y ∈ prachInputs u pdu p c.prachIds.length) :
    ∃ z ∈ prachInputs u pdu p c.prachIds.length,
      tget? (prachCtxOf c u cell sn pdu p tag).y (y.1 * 64 + y.2.1) = some (prachSamples c (prachLen p) z.2.2).1
        ∧ z.1 * 64 + z.2.1 = y.1 * 64 + y.2.1 :=
  tget?_foldl_tset (fun x : Nat × Nat × Table Bytes => x.1 * 64 + x.2.1) (fun x => (prachSamples c (prachLen p) x.2.2).1) _ [] hy

/-! ### QUIRE_RELEASE (R17, R36, R225) -/

section Release
variable {cell sn age : Nat} {s : State} {c : Cell} {x : UlCtx} (hc : s.cell? cell = some c)
  (hx : tget? s.fe.ul (slotKey cell sn) = some x)
include hc hx

/-- A slot that is not closed, not all stored, or released already is left alone. -/
theorem quireRelease_waits (h : x.closeTick = none ∨ x.released = true ∨ x.syms.all (·.stored) = false) :
    quireRelease cell sn age s = s := by
  unfold quireRelease
  simp only [hc, hx]
  cases hclose : x.closeTick with
  | none => rfl
  | some t =>
    have hstop : (x.released || !x.syms.all (·.stored)) = true := by
      rcases h with h | h | h
      · simp [hclose] at h
      · simp [h]
      · simp [h]
    simp only [hstop, if_true]

variable {t : Nat} {u v : State} (hclose : x.closeTick = some t) (hnew : x.released = false)
  (hstored : x.syms.all (·.stored) = true) (hu : u = s.advanceTo (t + age))
  (hv : v = matchClose u cell ((u.cl c.cluster).counter.toNat - (u.ticks.toNat - t)) c)
include hclose hnew hstored hu hv

/-- A cluster without engines takes no slot-reception; the slot is released without one (R36). -/
theorem quireRelease_bare (hbare : v.inService c.cluster.val = []) :
    quireRelease cell sn age s = dropUl (setUl (if x.rcd.pusch = [] ∧ x.rcd.uci = [] then v
        else v.slotError cell (sfnOf sn) (slotOf sn) 3) (slotKey cell sn) fun y =>
      { y with released := true, syms := [] }) (slotKey cell sn) := by
  subst hv hu
  unfold quireRelease
  simp only [hc, hx, hclose, hnew, hstored, hbare, Bool.not_true, Bool.or_false, Bool.false_eq_true, if_false, List.isEmpty_nil,
    if_true, Bool.and_eq_true, List.isEmpty_iff]

/-- Else its slot-reception is made, due 8,750 ticks after the close, and sampled for its model and for the yardstick. -/
theorem quireRelease_made (hengine : v.inService c.cluster.val ≠ []) {tag : BitVec 16} {w0 w y : State} {d : Nat}
    (hq : newQuire v c.cluster .slotReception (cell + 1) cell sn
      (some ((v.cl c.cluster).counter.toNat - (v.ticks.toNat - t) + 8750)) = (tag, w0)) (hd : w0.draw = (d, w))
    (hy : y = ((setUl (w.setCoding fun y =>
      { y with rx := tset y.rx tag.toNat (rxOf w c x tag t d) }) (slotKey cell sn) fun y =>
        { y with released := true }).setQuire tag.toNat fun q => { q with flags := { q.flags with missing := x.missing } })) :
    quireRelease cell sn age s = sampleYard ((y.modelSlotOf c.modelId).elim y fun i => sampleModel y i c x) c x := by
  have hsome : (v.inService c.cluster.val).isEmpty = false := by simpa using hengine
  subst hy hv hu
  unfold quireRelease
  simp only [hc, hx, hclose, hnew, hstored, hsome, hq, hd, Bool.not_true, Bool.or_false, Bool.false_eq_true,
    if_false]
  cases State.modelSlotOf _ c.modelId with
  | none => rfl
  | some i => rfl

end Release

/-- Settles O45: each command by what it does once its slot, port or occasion is found, its guard decided by the clause's hypotheses. -/
theorem uplink_slots_arrive_are_stored_and_released : Obligations.Uplink_slots_arrive_are_stored_and_released := by
  unfold Obligations.Uplink_slots_arrive_are_stored_and_released
  refine ⟨?cplane, ?frameUp, ?frameDown, ?message, ?windowEnd, ?stores, ?keeps, ?prach, ?release, ?waits⟩
  case cplane =>
    intro cell s u c d hc hplaced hclock hul hu hd
    have heq : exec (.cplaneWindowOpen cell false) s = .next (serveNumbered u cell.val c.cpUl c (d.slotAt c.cpUl)) :=
      congrArg Host.Outcome.next (cplaneWindowOpen_uplink hc hplaced hclock hul hu hd)
    refine ⟨fun n r hn hr => ?_, fun n hn hr => ?_, fun hn => ?_⟩
    · simp only [heq, serveNumbered, hn, hr]
    · simp only [heq, serveNumbered, hn, hr]
    · simp only [heq, serveNumbered, hn]
  case frameUp =>
    intro f s u hup hu
    have heq : exec (.frameReceive f) s = .next _ := congrArg Host.Outcome.next (frameReceive_up hup hu)
    refine ⟨fun hpause => ?_, fun hpause hbad => ?_, fun hpause hbad hmac => ?_, fun v hpause hbad hmac hrev => ?_,
      fun v hpause hbad hmac hrev => ?_⟩
    · rw [heq, if_pos hpause]
    · rw [heq, if_neg (by simp [hpause]), if_pos hbad]
    · rw [heq, if_neg (by simp [hpause]), if_neg (by simp [hbad]), hmac]
    · rw [heq, if_neg (by simp [hpause]), if_neg (by simp [hbad]), hmac]
      exact congrArg Host.Outcome.next (if_neg (not_not.2 hrev))
    · rw [heq, if_neg (by simp [hpause]), if_neg (by simp [hbad]), hmac]
      exact congrArg Host.Outcome.next (if_pos hrev)
  case frameDown =>
    intro f s hdown
    exact congrArg Host.Outcome.next (frameReceive_down hdown)
  case message =>
    intro port vlan s m
    exact ⟨fun hbad => takeMessage_bad hbad port vlan s, takeMessage_unknown⟩
  case windowEnd =>
    intro cell n k t s c u hc hul ht
    show Host.Outcome.next (receptionWindowEnd cell.val n k s) = _
    simp only [receptionWindowEnd, hc, hul, ht]
  case stores =>
    intro cell sn sym stream n clamps par s u v w c z x r prbs k hc hz hx hr hk hclosed hstored hfree hu hprbs hv hw
    show Host.Outcome.next (slotStoreForward cell.val sn sym stream par s) = _
    rw [slotStoreForward_eq hc hz hx hr hk hu hprbs hv hw, if_neg]
    rcases hfree with h | h | h <;> simp [hclosed, hstored, h]
  case keeps =>
    intro cell sn sym stream n par s c z x r k hc hz hx hr hk hwaits
    show Host.Outcome.next (slotStoreForward cell.val sn sym stream par s) = _
    rw [slotStoreForward_eq hc hz hx hr hk rfl rfl rfl rfl, if_pos]
    rcases hwaits with h | h | ⟨hslot, hbusy, hneed⟩
    · simp [h]
    · simp [h]
    · simp [hslot, hbusy, hneed]
  case prach =>
    intro cell sn pdu clamps t e s u v w c x p tag hc hx hp hallowed hdone ht he hu hnew hclamps
    refine ⟨prachCtxOf c x cell.val sn pdu p tag, rfl, rfl, rfl, rfl, rfl, rfl, fun y hy => prachCtxOf_y _ _ _ _ _ _ _ hy,
      fun hw => ?_⟩
    subst hw
    exact congrArg Host.Outcome.next (prachWindowEnd_open hc hx hp hallowed hdone ht he hu hnew hclamps)
  case release =>
    intro cell sn t age s u v c x hc hx hclose hnew hstored hu hv
    refine ⟨fun hbare => ?_, fun tag w0 d w y hengine hq hd hy => ?_⟩
    · exact congrArg Host.Outcome.next (quireRelease_bare hc hx hclose hnew hstored hu hv hbare)
    · have heq : exec (.quireRelease cell sn age) s = .next _ :=
        congrArg Host.Outcome.next (quireRelease_made hc hx hclose hnew hstored hu hv hengine hq hd hy)
      refine ⟨fun hmodel => ?_, fun i hmodel => ?_⟩
      · rw [heq, hmodel, Option.elim_none]
      · rw [heq, hmodel, Option.elim_some]
  case waits =>
    intro cell sn age s c x hc hx hwaits
    exact congrArg Host.Outcome.next (quireRelease_waits hc hx hwaits)

end Sys2Proof.Machine
end

section
/-!
SUPPORT. Downlink symbols, ports, modules and MACsec associations: what each command does once its cell, port or cage is found.
-/

namespace Sys2Proof.Machine
open Sys2Proof

/-! ### Downlink symbols (R25) -/

section Symbols
variable {cell sn k t : Nat} {s u : State} {c : Cell} {d : DlCtx} (hc : s.cell? cell = some c)
  (hd : dlCtx? s cell sn = some d) (ht : c.symAt sn k = some t)
include hc hd ht

/-- A symbol that is held goes out at the opening of its window if it is owed and its port sends. -/
theorem dlTxWindowOpen_held {l : List (Nat × Bytes)} (hu : u = s.advanceTo (t - c.upMax)) (hl : tget? d.held k = some l) :
    dlTxWindowOpen cell sn k s = if dlOwed d k && dlSends u c sn then sendSymbol u d c.fhPort k l else u := by
  subst hu
  simp only [dlTxWindowOpen, hc, hd, ht, hl]

theorem dlTxWindowOpen_unheld (hu : u = s.advanceTo (t - c.upMax)) (hl : tget? d.held k = none) :
    dlTxWindowOpen cell sn k s = u := by
  subst hu
  simp only [dlTxWindowOpen, hc, hd, ht, hl]

/-- An owed symbol that is held goes out at the close of its window while its port sends; else it is late. -/
theorem dlTxWindowClose_held {late : State} {l : List (Nat × Bytes)} (hu : u = s.advanceTo (t - c.upMin))
    (howed : dlOwed d k = true) (hlate : late = (u.setCoding fun x => { x with
      dl := tset x.dl d.tag.toNat { d with lateTx := d.lateTx ++ [k], held := tdel d.held k } }).feCount .lateTx cell)
    (hl : tget? d.held k = some l) :
    dlTxWindowClose cell sn k s = if dlSends u c sn then sendSymbol u d c.fhPort k l else late := by
  subst hlate hu
  simp only [dlTxWindowClose, hc, hd, ht, howed, hl, Bool.not_true, Bool.false_eq_true, if_false]

theorem dlTxWindowClose_unheld {late : State} (hu : u = s.advanceTo (t - c.upMin)) (howed : dlOwed d k = true)
    (hlate : late = (u.setCoding fun x => { x with
      dl := tset x.dl d.tag.toNat { d with lateTx := d.lateTx ++ [k], held := tdel d.held k } }).feCount .lateTx cell)
    (hl : tget? d.held k = none) : dlTxWindowClose cell sn k s = late := by
  subst hlate hu
  simp only [dlTxWindowClose, hc, hd, ht, howed, hl, Bool.not_true, Bool.false_eq_true, if_false]

end Symbols

/-! ### Ports (R289, R290) -/

theorem portUp_eq {p : Fin 8} {peer : BitVec 3} {rate : Nat} {s u : State} (hrate : rate = commonRate s p.val peer)
    (hu : u = s.setPort p fun x => { x with up := true, rate := rate }) :
    portUp p peer s
      = if (s.port p.val).up || rate == 0 || !moduleAllows s p || !s.busumUp || !s.lanesOn then s
        else fhLink ((cellsOnPort u p.val).foldl (fun s c =>
          s.setCell c.1 fun c => { c with resume := max c.cpUl c.cpDl }) u) p.val rate true := by
  subst hu hrate
  rfl

/-! ### Modules (R308 to R312) -/

/-- The judgement of a module that is present and due, and not in quarantine. -/
theorem evaluateCage_eq {i : Fin 8} {s : State} (hpresent : (s.fe.cages[i]).present = true)
    (hdue : (s.fe.cages[i]).ready = true ∨ (s.fe.cages[i]).decided = true) (hfree : (s.fe.cages[i]).quarantined = false) :
    evaluateCage i s
      = if s.fe.quarantineMode.val = 0 ∨ s.listed (s.fe.cages[i]) = true then
          s.setCage i fun c => { c with decided := true, quarantined := false, unlisted := false }
        else if s.fe.quarantineMode.val = 1 then
          if (s.fe.cages[i]).unlisted then
            s.setCage i fun c => { c with decided := true, quarantined := false, unlisted := true }
          else (s.setCage i fun c => { c with decided := true, quarantined := false, unlisted := true }).event 0x0C
            i.val (toLE 2 i.val ++ (s.fe.cages[i]).identity)
        else ((downPort i (s.emit (.moduleCtl i.val true))).setCage i fun c =>
          { c with decided := true, quarantined := true, unlisted := false }).event 0x0D i.val
            (toLE 2 i.val ++ (s.fe.cages[i]).identity) := by
  have hgo : (!(s.fe.cages[i]).present || !((s.fe.cages[i]).ready || (s.fe.cages[i]).decided)) = false := by
    rcases hdue with h | h <;> simp [-Fin.getElem_fin, hpresent, h]
  simp only [evaluateCage, hgo, hfree, Bool.false_eq_true, if_false]

/-- Closing an hour leaves it open whether the low life was reported. -/
theorem closeHour_lifeRaised (m : ModuleEntry) : (closeHour m).lifeRaised = m.lifeRaised := by
  unfold closeHour
  refine foldl_keeps ModuleEntry.lifeRaised _ ?_ m.readings { m with readings := [] }
  intro m p
  split <;> rfl

/-- The hourly closing of a module that counts: a low remaining life is reported once. -/
theorem lifeUpdate_counts {i : Fin 8} {s : State} {m : ModuleEntry} {n : Nat} (hcounts : (s.fe.cages[i]).counts = true)
    (hm : s.moduleOf (s.fe.cages[i]).serial = some m) (hn : n = remainingLife s (closeHour m)) :
    lifeUpdate i s = if n ≤ s.fe.lifeWarn ∧ m.lifeRaised = false then
        (s.setModule (s.fe.cages[i]).serial fun _ => { closeHour m with lifeRaised := true }).event 0x0E i.val
          (toLE 4 i.val ++ toLE 4 n)
      else s.setModule (s.fe.cages[i]).serial fun _ =>
        { closeHour m with lifeRaised := m.lifeRaised || decide (n ≤ s.fe.lifeWarn) } := by
  subst hn
  simp only [lifeUpdate, hcounts, hm, closeHour_lifeRaised, Bool.not_true, Bool.false_eq_true, if_false]
  by_cases hlow : remainingLife s (closeHour m) ≤ s.fe.lifeWarn
  · cases hraised : m.lifeRaised <;> simp [hlow]
  · simp [hlow]

/-- Settles O46: each command by what it does once its cell, port or cage is found, its guard decided by the clause's hypotheses. -/
theorem downlink_symbols_ports_and_modules_act : Obligations.Downlink_symbols_ports_and_modules_act := by
  unfold Obligations.Downlink_symbols_ports_and_modules_act
  refine ⟨?windowOpen, ?windowClose, ?portUp, ?portDown, ?insert, ?identify, ?timeout, fun s => rfl, ?judged, ?removed, ?counting,
    ?flag, ?distribute, ?retire⟩
  case windowOpen =>
    intro cell sn k t s u c d hc hd ht hu
    refine ⟨fun l hl howed hsends => congrArg Host.Outcome.next ?_, fun hkeeps => congrArg Host.Outcome.next ?_⟩
    · rw [dlTxWindowOpen_held hc hd ht hu hl, if_pos (by simp [howed, hsends])]
    · cases hl : tget? d.held k with
      | none => exact dlTxWindowOpen_unheld hc hd ht hu hl
      | some l =>
        have hno : dlOwed d k = false ∨ dlSends u c sn = false := hkeeps.resolve_left (by simp [hl])
        rw [dlTxWindowOpen_held hc hd ht hu hl, if_neg (by rcases hno with h | h <;> simp [h])]
  case windowClose =>
    intro cell sn k t s u c d hc hd ht hu howed
    refine ⟨fun l hl hsends => congrArg Host.Outcome.next ?_, fun hlate => congrArg Host.Outcome.next ?_⟩
    · rw [dlTxWindowClose_held hc hd ht hu howed rfl hl, if_pos hsends]
    · cases hl : tget? d.held k with
      | none => exact dlTxWindowClose_unheld hc hd ht hu howed rfl hl
      | some l =>
        have hno : dlSends u c sn = false := hlate.resolve_left (by simp [hl])
        rw [dlTxWindowClose_held hc hd ht hu howed rfl hl, if_neg (by simp [hno])]
  case portUp =>
    intro p peer rate s u hrate hu
    have heq : exec (.portUp p peer) s = .next _ := congrArg Host.Outcome.next (portUp_eq hrate hu)
    refine ⟨fun ⟨hdown, hcommon, hallows, hbusum, hlanes⟩ => ?_, fun hstays => ?_⟩
    · rw [heq, if_neg (by simp [hdown, hcommon, hallows, hbusum, hlanes])]
    · rw [heq, if_pos]
      rcases hstays with h | h | h | h | h <;> simp [h]
  case portDown =>
    intro p s
    exact ⟨fun hup => congrArg Host.Outcome.next (if_pos hup),
      fun hdown => congrArg Host.Outcome.next (if_neg (by simp [hdown]))⟩
  case insert =>
    intro i s hempty
    exact congrArg Host.Outcome.next (if_neg (by simp [-Fin.getElem_fin, hempty]))
  case identify =>
    intro i lower upper s u hpresent hu
    subst hu
    exact congrArg Host.Outcome.next (if_neg (by simp [-Fin.getElem_fin, hpresent]))
  case timeout =>
    intro i s hpresent hready hdecided
    exact congrArg Host.Outcome.next (if_neg (by simp [-Fin.getElem_fin, hpresent, hready, hdecided]))
  case judged =>
    intro i s hpresent hdue hfree
    rw [evaluateCage_eq hpresent hdue hfree]
    refine ⟨fun hallowed => ?_, fun hmode hlisted hnew => ?_, fun hmode hlisted => ?_⟩
    · rw [if_pos hallowed]
    · rw [if_neg (by simp [-Fin.getElem_fin, hmode, hlisted]), if_pos hmode, if_neg (by simp [-Fin.getElem_fin, hnew])]
    · rw [if_neg (by simp [-Fin.getElem_fin, hmode, hlisted]), if_neg (by simp [hmode])]
  case removed =>
    intro i s u hpresent hu
    subst hu
    have hthere : ¬(!(s.fe.cages[i]).present) = true := by simp [-Fin.getElem_fin, hpresent]
    refine ⟨fun hid => ?_, fun hid => ?_⟩
    · exact congrArg Host.Outcome.next ((if_neg hthere).trans (if_pos hid))
    · exact congrArg Host.Outcome.next ((if_neg hthere).trans (if_neg (by simp [-Fin.getElem_fin, hid])))
  case counting =>
    intro i s hcounts
    refine ⟨congrArg Host.Outcome.next (if_pos hcounts), fun mult bias => congrArg Host.Outcome.next (if_pos hcounts),
      fun m n hm hn => congrArg Host.Outcome.next (lifeUpdate_counts hcounts hm hn)⟩
  case flag =>
    intro i flags s hpresent
    exact congrArg Host.Outcome.next (if_pos hpresent)
  case distribute =>
    intro p sci an s hcak hmode
    exact congrArg Host.Outcome.next (if_neg (by simp [hcak, hmode]))
  case retire =>
    intro p t s ht
    refine congrArg Host.Outcome.next ?_
    unfold saRetire
    split
    · next hnone => cases hnone.symm.trans ht
    · next u hu =>
      obtain rfl : u = t := Option.some.inj (hu.symm.trans ht)
      rfl

end Sys2Proof.Machine
end

section
/-!
SUPPORT. An UL_SLOT whose PDUs are answered one by one: the cause that a SLOT_ERROR leaves as it was, and the record of a cluster
without engines.
-/

namespace Sys2Proof.Machine
open Sys2Proof

/-! ### Posting a record keeps what the checks of a slot record look at -/

@[simp] theorem msix_cfg (s : State) (v : Nat) : (s.msix v).cfg = s.cfg := by
  unfold State.msix; split_ifs <;> rfl

@[simp] theorem hostWrAll_cfg (s : State) (w : List (Nat × Bytes)) : (s.hostWrAll w).cfg = s.cfg :=
  foldl_keeps State.cfg (fun s (p : Nat × Bytes) => s.hostWr p.1 p.2) (fun _ _ => rfl) w s

@[simp] theorem drainSpc_cfg (s : State) : s.drainSpc.cfg = s.cfg := by
  unfold State.drainSpc
  split_ifs with hlink
  · split
    split_ifs <;> simp
  · rfl

@[simp] theorem slotError_cfg (s : State) (cell sfn slot cause : Nat) (pdu : Option Nat) :
    (s.slotError cell sfn slot cause pdu).cfg = s.cfg := drainSpc_cfg _

/-! ### The cause on a cluster without engines -/

/-- The checks of a slot record look at the cells and the engines alone. -/
theorem recordCause_congr {s u : State} (hcfg : u.cfg = s.cfg) (hengines : u.engines = s.engines) (cell sfn slot len : Nat)
    (dl dup : Bool) : recordCause u cell sfn slot len dl dup = recordCause s cell sfn slot len dl dup := by
  have hcell : u.cell? = s.cell? := by funext i; simp only [State.cell?, hcfg]
  have hservice : u.inService = s.inService := by funext k; simp only [State.inService, State.eng, hengines]
  unfold recordCause
  rw [hcell, hservice]

/-- With the same engines put in, the cells alone decide. -/
theorem recordCause_engines_congr {s u : State} (hcfg : u.cfg = s.cfg) (e : Vector Engine 16) (cell sfn slot len : Nat)
    (dl dup : Bool) :
    recordCause { u with engines := e } cell sfn slot len dl dup = recordCause { s with engines := e } cell sfn slot len dl dup :=
  recordCause_congr (s := { s with engines := e }) (u := { u with engines := e }) hcfg rfl cell sfn slot len dl dup

/-- A record that is long enough is turned away with cause 3 where its cluster has no engine in service (R36). -/
theorem recordCause_bare {s : State} {cell sfn slot len : Nat} {dl dup : Bool} {x : Cell} (hlen : 2 ≤ len)
    (hx : s.cell? cell = some x) (hempty : s.inService x.cluster.val = []) :
    recordCause s cell sfn slot len dl dup = some 3 := by
  simp [recordCause, Nat.not_lt.2 hlen, hx, hempty]

theorem len_of_recordCause_none {s : State} {cell sfn slot len : Nat} {dl dup : Bool}
    (h : recordCause s cell sfn slot len dl dup = none) : 2 ≤ len := by
  by_contra hlen
  simp [recordCause, Nat.lt_of_not_le hlen] at h

/-! ### UL_SLOT of a cluster without engines -/

/-- The SLOT_ERRORs of an UL_SLOT's PRACH PDUs. -/
def prachErrors (r : UlSlot) (s : State) : State :=
  let n := r.pusch.length + r.pucch.length
  pduErrors (pduErrors s r.cell.toNat r.sfn.toNat r.slot.toNat 4 (placesOf n (fun p => !prachAllowed p) r.prach))
    r.cell.toNat r.sfn.toNat r.slot.toNat 5 (placesOf n (fun p => prachAllowed p && decide (64 < p.count)) r.prach)

/-- An UL_SLOT that only its cluster's missing engines turn away is answered with cause 3 and kept with its PRACH PDUs alone (R36). -/
theorem ulSlot_bare {r : UlSlot} {s : State} {n : Nat} {x : Cell} (hn : n = packSfn r.sfn.toNat r.slot.toNat)
    (hread : s.canRead s.mbx.spq r.len.toNat = true) (hx : s.cell? r.cell.toNat = some x)
    (hempty : s.inService x.cluster.val = []) (hprach : r.prach ≠ [])
    (hcause : recordCause { s.takeSpq r.len with engines := Vector.replicate 16 {} } r.cell.toNat r.sfn.toNat r.slot.toNat
      r.len.toNat false
      ((tget? s.fe.ulRecs (slotKey r.cell.toNat n)).isSome || (tget? s.fe.ul (slotKey r.cell.toNat n)).isSome) = none) :
    ulSlot r s = (prachErrors r ((s.takeSpq r.len).slotError r.cell.toNat r.sfn.toNat r.slot.toNat 3)).setFe fun f => { f with
      ulRecs := tset f.ulRecs (slotKey r.cell.toNat n) { r with pusch := [], uci := [], pucch := [], excluded := [] }
      recOrder := f.recOrder ++ [(r.cell.toNat, n)] } := by
  subst hn
  unfold ulSlot
  extract_lets key dup bare n keepPrach
  have hbare : (bare && !r.prach.isEmpty) = true := by simp [bare, hx, hempty, hprach]
  have haway : recordCause (s.takeSpq r.len) r.cell.toNat r.sfn.toNat r.slot.toNat r.len.toNat false dup = some 3 :=
    recordCause_bare (len_of_recordCause_none hcause) hx hempty
  rw [takeRecord_turnedAway _ hread haway, if_pos hread]
  have hother := (recordCause_engines_congr (slotError_cfg (s.takeSpq r.len) r.cell.toNat r.sfn.toNat r.slot.toNat 3 none)
    (Vector.replicate 16 {}) r.cell.toNat r.sfn.toNat r.slot.toNat r.len.toNat false dup).trans hcause
  exact if_pos (Bool.and_eq_true_iff.2 ⟨hbare, beq_iff_eq.2 hother⟩)

/-- Settles O30: an accepted UL_SLOT is kept after the SLOT_ERRORs of its PDUs; on a cluster without engines, after those of its
PRACH PDUs. -/
theorem excluded_pdus_are_answered_one_by_one : Obligations.Excluded_pdus_are_answered_one_by_one := by
  unfold Obligations.Excluded_pdus_are_answered_one_by_one
  refine ⟨?accepted, ?bare⟩
  case accepted =>
    rintro r s _ n rfl hread hcause rfl
    have hengine : ∀ x, s.cell? r.cell.toNat = some x → s.inService x.cluster.val ≠ [] := inService_of_recordCause_none hcause
    show Host.Outcome.next (ulSlot r s) = _
    rw [ulSlot_eq_takeRecord (.inl hengine), takeRecord_kept _ hread hcause]
    rfl
  case bare =>
    rintro r s _ n x hn hread hx hempty hprach hcause rfl
    exact congrArg Host.Outcome.next (ulSlot_bare hn hread hx hempty hprach hcause)

end Sys2Proof.Machine
end

section
/-!
SUPPORT. The throttle's causes and steps, and the clock domains: what each command of the power manager does under its guard.
-/

namespace Sys2Proof.Machine
open Sys2Proof

/-! ### What a cause asks for -/

theorem setPower_congr {s : State} {f g : Power → Power} (h : f s.power = g s.power) : s.setPower f = s.setPower g :=
  congrArg (fun p => { s with power := p }) h

@[simp] theorem Power.setAsk_ask (p : Power) (c v : Fin 3) : (p.setAsk c v).ask c = v :=
  match c with
  | 0 => rfl
  | 1 => rfl
  | 2 => rfl

@[simp] theorem Power.setAsk_step (p : Power) (c v : Fin 3) : (p.setAsk c v).step = p.step :=
  match c with
  | 0 => rfl
  | 1 => rfl
  | 2 => rfl

theorem Power.slower_of_step_zero {p : Power} (hstep : p.step = 0) : p.slower = 1 := by simp [Power.slower, hstep]

/-- A cause that asks for nothing at step 0 is raised to step 1. -/
theorem Power.raised_of_step_zero {p : Power} {c : Fin 3} (hstep : p.step = 0) (hask : p.ask c = 0) :
    (if (p.ask c).val ≤ p.slower.val then p.slower else p.ask c) = 1 := by
  rw [slower_of_step_zero hstep, hask]
  rfl

/-- A cause judged down asks for the next slower step, unless it asks for more. -/
theorem Power.judge_down_ask (p : Power) (now : Nat) (c : Fin 3) (up : Bool) :
    (p.judge now c true up).ask c = if (p.ask c).val ≤ p.slower.val then p.slower else p.ask c := p.setAsk_ask c _

theorem Power.judge_hold_ask (p : Power) (now : Nat) (c d : Fin 3) (up : Bool) :
    (p.judge now c false up).ask d = p.ask d := rfl

/-- Judging a cause moves no step (R409). -/
@[simp] theorem Power.judge_step (p : Power) (now : Nat) (c : Fin 3) (down up : Bool) :
    (p.judge now c down up).step = p.step := by
  cases down with
  | false => rfl
  | true => exact p.setAsk_step c _

/-! ### Samples and windows -/

theorem powerWindowEnd_managed {s : State} (hm : s.managed = true) (mean : BitVec 16) :
    powerWindowEnd mean s = s.setPower fun p =>
      (({ p with meanPower := mean }).judge s.ticks.toNat 1 (decide (60 * 256 < mean.toNat)) (decide (mean.toNat ≤ 57 * 256))).judge
        s.ticks.toNat 2 false (decide (mean.toNat ≤ 57 * 256)) := if_pos hm

/-- A sample that is not the second in a row above the limit is only noted. -/
theorem imonSample_noted {s : State} {n : Nat} (hm : s.managed = true) (hn : n ≤ 66000 ∨ s.power.imonOver = false) :
    imonSample n s = s.setPower fun p => { p with imonOver := decide (66000 < n) } := by
  have hfirst : (decide (66000 < n) && s.power.imonOver) = false := by
    rcases hn with hlow | hover
    · simp [Nat.not_lt.2 hlow]
    · simp [hover]
  exact (if_pos hm).trans (setPower_congr (by simp only [hfirst, Bool.false_eq_true, if_false]))

/-- The second sample in a row above the limit raises what CURRENT asks for, and ends its condition to step up (R445). -/
theorem imonSample_again {s : State} {n : Nat} (hm : s.managed = true) (hn : 66000 < n) (hover : s.power.imonOver = true) :
    imonSample n s = s.setPower fun p =>
      { p.setAsk 2 (if (p.ask 2).val ≤ p.slower.val then p.slower else p.ask 2) with
        upSince := p.upSince.set 2 none, imonOver := true } :=
  (if_pos hm).trans (setPower_congr (by simp only [hn, hover, decide_true, Bool.and_self, if_true]))

/-! ### Holds and steps -/

theorem throttleHoldExpiry_held {c : Fin 3} {s : State} {t : Nat} (ht : s.power.upSince[c] = some t) (hask : s.power.ask c ≠ 0) :
    throttleHoldExpiry c s = (s.advanceTo (t + usTicks 10000)).setPower fun p => { p.setAsk c 0 with stopped := c.val + 1 } := by
  simp only [throttleHoldExpiry, ht, if_neg hask]

theorem throttleHoldExpiry_idle {c : Fin 3} {s : State} (h : s.power.upSince[c] = none ∨ s.power.ask c = 0) :
    throttleHoldExpiry c s = s := by
  unfold throttleHoldExpiry
  cases ht : s.power.upSince[c] with
  | none => rfl
  | some t => exact if_pos (h.resolve_left (by simp [ht]))

theorem throttleStepChange_slower {s : State} (hm : s.managed = true) (hlt : s.power.step.val < s.power.target) :
    throttleStepChange s = setStep s.power.slower s.power.mover s := by
  simp [throttleStepChange, hm, hlt]

/-- A move towards step 0 comes 10 ms after the one before it (R410). -/
theorem throttleStepChange_back {s : State} {t : Nat} (hm : s.managed = true) (hlt : s.power.target < s.power.step.val)
    (hup : s.power.lastUp = some t) :
    throttleStepChange s = setStep (if s.power.step.val = 2 then 1 else 0) s.power.stopped
      ((s.advanceTo (t + usTicks 10000)).setPower fun x =>
        { x with lastUp := some (s.advanceTo (t + usTicks 10000)).ticks.toNat }) := by
  simp [throttleStepChange, hm, hlt, hlt.not_gt, hup]

theorem throttleStepChange_settled {s : State} (heq : s.power.target = s.power.step.val) : throttleStepChange s = s := by
  simp [throttleStepChange, heq]

/-! ### Clock domains and PLLs -/

theorem domainBusy_aon (s : State) : domainBusy s 0 = true := rfl

theorem domainGate_busy {d : Fin 244} {s : State} (h : domainBusy s d.val = true) : domainGate d s = s := by
  simp [domainGate, h]

theorem domainGate_idle {d : Fin 244} {s : State} (h : domainBusy s d.val = false) (hg : s.power.gated.contains d.val = false) :
    domainGate d s = s.setPower fun p => { p with gated := d.val :: p.gated } := by
  simp only [domainGate, h, hg, Bool.or_self, Bool.false_eq_true, if_false]

/-- The domains of a PLL are all gated, as `pllStandby` asks it. -/
theorem all_pllDomains_gated {p : Nat} {gated : List Nat} (h : ∀ d < 244, pllOf d = some p → gated.contains d = true) :
    ((List.range 244).filter fun d => pllOf d == some p).all gated.contains = true := by
  refine List.all_eq_true.2 fun d hd => ?_
  obtain ⟨hrange, hpll⟩ := List.mem_filter.1 hd
  exact h d (List.mem_range.1 hrange) (eq_of_beq hpll)

theorem pllStandby_stops {p : Fin 4} {s : State} (hon : s.power.pllStandby.contains p.val = false)
    (hquiet : s.power.state = .quiet) (hp : p.val < 2)
    (hgated : ∀ d < 244, pllOf d = some p.val → s.power.gated.contains d = true) :
    pllStandby p s = s.setPower fun x => { x with pllStandby := p.val :: x.pllStandby } :=
  if_pos ⟨hquiet, hp, all_pllDomains_gated hgated, by rw [hon]; rfl⟩

theorem pllStandby_runs_on {p : Fin 4} {s : State} (h : s.power.state ≠ .quiet ∨ 2 ≤ p.val) : pllStandby p s = s := by
  refine if_neg fun ⟨hquiet, hp, _⟩ => ?_
  rcases h with hstate | hother
  · exact hstate hquiet
  · omega

theorem domainWake_lanesOn {s : State} (hlanes : s.lanesOn = true) (d : Fin 244) :
    domainWake d s = s.setPower fun x => { x with
      gated := x.gated.filter (· != d.val), pllStandby := x.pllStandby.filter fun p => some p != pllOf d.val } := if_pos hlanes

theorem domainWake_unfed {d : Fin 244} {s : State} (hlanes : s.lanesOn = false) (hpll : pllOf d.val = none) :
    domainWake d s = s.setPower fun x => { x with gated := x.gated.filter (· != d.val) } := by
  simp [domainWake, hlanes, hpll]

/-- Settles O53: each command by what it does under its guard, which the clause's hypotheses decide. -/
theorem power_clocks_and_throttle_move : Obligations.Power_clocks_and_throttle_move := by
  unfold Obligations.Power_clocks_and_throttle_move
  refine ⟨?window, ?judged, ?sample, ?expiry, ?noHold, ?change, ?held, ?gate, ?standby, ?wake⟩
  case window => exact fun mean s hm => congrArg Host.Outcome.next (powerWindowEnd_managed hm mean)
  case judged =>
    intro p now up hstep hask
    exact ⟨(p.judge_down_ask now 1 up).trans (Power.raised_of_step_zero hstep hask),
      (p.judge_hold_ask now 1 1 up).trans hask, p.judge_step now 1 true up⟩
  case sample =>
    refine fun n s hm => ⟨fun hn => congrArg Host.Outcome.next (imonSample_noted hm hn), fun hn hover hstep hask => ?_⟩
    have hraise : (if (s.power.ask 2).val ≤ s.power.slower.val then s.power.slower else s.power.ask 2) = 1 :=
      Power.raised_of_step_zero hstep hask
    show Host.Outcome.next (imonSample n s) = _
    rw [imonSample_again hm hn hover]
    refine congrArg Host.Outcome.next (setPower_congr ?_)
    rw [hraise]
    rfl
  case expiry => exact fun c s t ht hask => congrArg Host.Outcome.next (throttleHoldExpiry_held ht hask)
  case noHold => exact fun c s h => congrArg Host.Outcome.next (throttleHoldExpiry_idle h)
  case change =>
    exact fun s hm => ⟨fun hlt => congrArg Host.Outcome.next (throttleStepChange_slower hm hlt),
      fun t hlt hup => congrArg Host.Outcome.next (throttleStepChange_back hm hlt hup),
      fun heq => congrArg Host.Outcome.next (throttleStepChange_settled heq)⟩
  case held =>
    intro s hm
    have hno : ¬ s.managed = true := by simp [hm]
    exact ⟨fun mean => congrArg Host.Outcome.next (if_neg hno), fun n => congrArg Host.Outcome.next (if_neg hno),
      congrArg Host.Outcome.next (if_pos (by rw [hm]; rfl))⟩
  case gate =>
    exact fun d s => ⟨fun h0 => congrArg Host.Outcome.next (domainGate_busy (h0 ▸ domainBusy_aon s)),
      fun h => congrArg Host.Outcome.next (domainGate_busy h), fun h hg => congrArg Host.Outcome.next (domainGate_idle h hg)⟩
  case standby =>
    exact fun p s hon => ⟨fun hquiet hp hgated => congrArg Host.Outcome.next (pllStandby_stops hon hquiet hp hgated),
      fun h => congrArg Host.Outcome.next (pllStandby_runs_on h)⟩
  case wake =>
    exact fun d s => ⟨fun hlanes => congrArg Host.Outcome.next (domainWake_lanesOn hlanes d),
      fun hlanes hpll => congrArg Host.Outcome.next (domainWake_unfed hlanes hpll)⟩

end Sys2Proof.Machine
end

section
/-!
SUPPORT. The instructions of the matrix array: what each does when it issues, and that neither it nor its waits move the leaf of a core.
-/

namespace Sys2Proof.Machine
open Sys2Proof

/-! ### The attempt on a core -/

/-- The attempt that a core runs: its leaf, and the replays since the boundary. `issue` goes on past an instruction whose body keeps
both. -/
def State.attempt (s : State) (c : Fin 8) : Option (BitVec 16) × Nat := ((s.core c).leaf, (s.core c).replays)

theorem attempt_of_cores {s t : State} (h : t.cores = s.cores) : t.attempt = s.attempt := by
  funext c
  simp only [State.attempt, State.core, h]

theorem leaf_replays_of_attempt {s t : State} (h : t.attempt = s.attempt) (c : Fin 8) :
    (t.core c).leaf = (s.core c).leaf ∧ (t.core c).replays = (s.core c).replays := Prod.mk.inj (congrFun h c)

/-- A change of a core that keeps its leaf and its replays keeps every attempt. -/
theorem setCore_attempt {s : State} {c : Fin 8} {f : Core → Core} (hleaf : ∀ x, (f x).leaf = x.leaf)
    (hreplays : ∀ x, (f x).replays = x.replays) : (s.setCore c f).attempt = s.attempt := by
  funext d
  by_cases hd : d = c
  · subst hd
    simp only [State.attempt, setCore_core, hleaf, hreplays]
  · simp only [State.attempt, Machine.setCore_other s c d f hd]

theorem landCycle_replays (x : Core) (t : Nat) : (landCycle x t).replays = x.replays := by
  unfold landCycle
  refine foldl_keeps Core.replays _ (fun y p => ?_) _ x
  split <;> rfl

@[simp] theorem landed_attempt (s : State) (c : Fin 8) : (s.landed c).attempt = s.attempt := by
  unfold State.landed
  split
  · rfl
  · exact setCore_attempt (fun x => (landBefore_frame x _).2.2.1) fun x => foldl_keeps Core.replays _ landCycle_replays _ x

@[simp] theorem setEng_attempt (s : State) (e : Nat) (f : Engine → Engine) : (s.setEng e f).attempt = s.attempt :=
  attempt_of_cores (setEng_cores s e f)

@[simp] theorem engCount_attempt (s : State) (e : Nat) (i : Fin 16) (n : Nat) : (s.engCount e i n).attempt = s.attempt :=
  setEng_attempt s e _

/-- An instruction whose body keeps the attempt of its core is gone past. -/
theorem issue_goesOn {c : Fin 8} {words cycles : Nat} {reads : List Nat} {q : Quire} {s t : State}
    (h : Issues c words reads q s) {body : Quire → State → State} (hb : body q (s.landed c) = t)
    (ht : t.attempt = (s.landed c).attempt) : issue c words cycles reads body s = t.past c words cycles := by
  obtain ⟨hleaf, hreplays⟩ := leaf_replays_of_attempt (ht.trans (landed_attempt s c)) c
  exact issue_past h body t hb hleaf hreplays.le

theorem issueEng_goesOn {c : Fin 8} {eng : Bool} {sa : Fin 64} {n words cycles : Nat} {q : Quire} {s t : State}
    (h : IssuesEng c eng sa n words q s) {body : Quire → State → State} (hb : body q (s.landed c) = t)
    (ht : t.attempt = (s.landed c).attempt) : issueEng c eng sa n words cycles body s = t.past c words cycles := by
  obtain ⟨hleaf, hreplays⟩ := leaf_replays_of_attempt (ht.trans (landed_attempt s c)) c
  exact issueEng_past h body t hb hleaf hreplays.le

/-! ### The waits of the timing model keep it -/

@[simp] theorem queued_attempt (s : State) (c : Fin 8) (e : Nat) (vec : Bool) : (s.queued c e vec).attempt = s.attempt :=
  (setEng_attempt _ _ _).trans (setCore_attempt (fun _ => rfl) fun _ => rfl)

@[simp] theorem stallArr_attempt (s : State) (c : Fin 8) (e : Nat) (i : Fin 16) (n : Nat) :
    (s.stallArr c e i n).attempt = s.attempt := by
  unfold State.stallArr
  split
  · rfl
  · simp

@[simp] theorem fed_attempt (s : State) (c : Fin 8) (e start : Nat) (w : Walk) : (s.fed c e start w).attempt = s.attempt := by
  simp [State.fed]

@[simp] theorem timeMode_attempt (s : State) (c : Fin 8) (e : Nat) : (timeMode s c e).attempt = s.attempt := by
  simp [timeMode]

@[simp] theorem timeLoad_attempt (s : State) (c : Fin 8) (e : Nat) (rows : List (Int × Int)) :
    (timeLoad s c e rows).attempt = s.attempt := by
  simp [timeLoad]

@[simp] theorem timeStream_attempt (s : State) (c : Fin 8) (e : Nat) (mac : Bool) (vs : List ((Int × Int) × Nat × Nat)) :
    (timeStream s c e mac vs).attempt = s.attempt := by
  unfold timeStream
  extract_lets s1 t fl w start s2
  have hs2 : s2.attempt = s.attempt := by simp [s2, s1]
  split
  · rw [engCount_attempt, hs2]
  · exact hs2

@[simp] theorem timeDrain_attempt (s : State) (c : Fin 8) (e cycles : Nat) (rows : List ((Nat × Nat) × Int × Int)) :
    (timeDrain s c e cycles rows).attempt = s.attempt := by
  simp [timeDrain]

/-! ### The rows of a stream and of a drain keep the cores -/

theorem putInt_cores (m : ArrayMode) (o : StreamOps) (e v : Nat) (p : List Int) (a : StreamAcc) :
    (putInt m o e v p a).st.cores = a.st.cores := by
  unfold putInt
  simp only
  split <;> rfl

theorem putFlt_cores (m : ArrayMode) (o : StreamOps) (e v : Nat) (p : List Nat) (a : StreamAcc) :
    (putFlt m o e v p a).st.cores = a.st.cores := by
  unfold putFlt
  simp only
  split <;> rfl

theorem streamOne_cores (m : ArrayMode) (tile : List (List (Nat × Bool))) (o : StreamOps) (e v : Nat) (a : StreamAcc) :
    (streamOne m tile o e v a).st.cores = a.st.cores := by
  unfold streamOne
  simp only
  split
  · exact putFlt_cores _ _ _ _ _ _
  · exact putInt_cores _ _ _ _ _ _

theorem streamGo_cores (m : ArrayMode) (tile : List (List (Nat × Bool))) (o : StreamOps) (e n : Nat) :
    ∀ (v : Nat) (a : StreamAcc), (streamGo m tile o e n v a).st.cores = a.st.cores := by
  induction n with
  | zero => exact fun _ _ => rfl
  | succ n ih => exact fun v a => (ih (v + 1) _).trans (streamOne_cores m tile o e v a)

theorem clearRow_cores (s : State) (e u : Nat) (o : DrainOps) : (clearRow s e u o).cores = s.cores := by
  unfold clearRow putRow32 putRow48
  simp only
  split
  · rfl
  · split <;> exact wr_cores _ _ _

theorem drainGo_cores (o : DrainOps) (e n : Nat) :
    ∀ (r : Nat) (a : State × Sticky), (drainGo o e n r a).1.cores = a.1.cores := by
  induction n with
  | zero => exact fun _ _ => rfl
  | succ n ih => exact fun r a => (ih (r + 1) _).trans (clearRow_cores _ _ _ _)

theorem reloadTile_attempt (s : State) (c : Fin 8) (e : Nat) (m : ArrayMode) : (reloadTile s c e m).attempt = s.attempt := by
  unfold reloadTile
  simp only
  split
  · simp
  · rfl

theorem runStream_attempt (s : State) (c : Fin 8) (e : Nat) (m : ArrayMode) (o : StreamOps) :
    (runStream s c e m o).attempt = s.attempt := by
  unfold runStream
  extract_lets s1 tile skips a fl
  have ha : a.st.attempt = s1.attempt := attempt_of_cores (streamGo_cores m tile o e o.count 0 _)
  simp only [setEng_attempt, engCount_attempt, ha, s1, timeStream_attempt, reloadTile_attempt]

/-! ### The fault conditions of a stream -/

theorem streamFault_operand {e : Engine} {o : StreamOps} (h : o.count = 0 ∨ o.op = 3 ∨ 256 < o.active ∨ e.tileValid = false)
    (q : Quire) (m : ArrayMode) : streamFault q e m o = some 0x22 := by
  unfold streamFault
  refine if_pos ?_
  rcases h with hcount | hop | hactive | htile
  · exact .inl hcount
  · exact .inr (.inl hop)
  · exact .inr (.inr (.inl hactive))
  · exact .inr (.inr (.inr (.inr (by simp [htile]))))

theorem streamFault_address {e : Engine} {m : ArrayMode} {o : StreamOps} (hcount : o.count ≠ 0) (hop : o.op ≠ 3)
    (hactive : o.active ≤ 256) (hpair : m.isComplex = true → o.active % 2 = 0) (htile : e.tileValid = true)
    (haddr : o.xAddr % 64 ≠ 0) (q : Quire) : streamFault q e m o = some 0x23 := by
  unfold streamFault
  refine (if_neg ?_).trans (if_pos (.inl haddr))
  rintro (h | h | h | ⟨hcomplex, hodd⟩ | h)
  · exact hcount h
  · exact hop h
  · omega
  · have := hpair hcomplex
    omega
  · simp [htile] at h

/-! ### The four instructions -/

section Issue
variable {c : Fin 8} {eng : Bool} {sa : Fin 64} {par : Option Nat} {s : State} {q : Quire} {m : ArrayMode}

theorem execArrayMode_issues (h : IssuesEng c eng sa 1 1 q s) (hm : arrayModeOf (s.getS c sa.val).toNat = m)
    (hfault : arrayModeFault m = none) :
    execArrayMode c eng sa s = .next (((timeMode (s.landed c) c (engOf c eng)).setEng (engOf c eng) fun e =>
      { e with mode := some m, tileValid := false, tileReload := false, tile := [], issued := e.issued + 1 }).past c 1 1) := by
  refine congrArg Host.Outcome.next (issueEng_goesOn h ?_ (by simp))
  simp only [landed_getS, hm, hfault]

theorem execArrayLoad_issues {w addr : Nat} {stride lo hi : Int} (h : IssuesEng c eng sa 1 1 q s)
    (hm : (s.eng (engOf c eng)).mode = some m) (hw : w = (s.getS c sa.val).toNat) (haddr : addr = bits w 0 22)
    (hstride : stride = sx 16 (bits w 22 16))
    (hspan : strideSpan addr (64 * stride) (if m.isComplex then 128 else 256) 256 = (lo, hi))
    (hok : ¬ (addr % 64 ≠ 0 ∨ stride.natAbs < 4 ∨ (!q.spadWin.holds lo hi) = true))
    (hpar : parityHit (s.landed c) q c 1 par (loadReads (engOf c eng) m addr stride) = false) :
    execArrayLoad c eng sa par s
      = .next (((timeLoad (s.landed c) c (engOf c eng) (loadSpans m addr stride)).setEng (engOf c eng) fun x =>
        { x with
          tile := tileOf m (weightRows (s.landed c) (engOf c eng) m addr stride)
          tileValid := true
          tileReload := false
          wAddr := addr
          wStride := stride
          flags := x.flags.or (stInval ((weightRows (s.landed c) (engOf c eng) m addr stride).any (anySnan m.wfmt)))
          issued := x.issued + 1 }).past c 1 1) := by
  subst hw haddr hstride
  refine congrArg Host.Outcome.next (issueEng_goesOn h ?_ (by simp))
  simp only [landed_getS, landed_eng, hm, hspan, if_neg hok]
  exact reading_right _ _ _ _ _ _ _ hpar

theorem execArrayStream_issues {o : StreamOps} (h : IssuesEng c eng sa 2 1 q s) (hm : (s.eng (engOf c eng)).mode = some m)
    (ho : o = streamOpsOf (s.getS c sa.val).toNat (s.getS c (sa.val + 1)).toNat)
    (hfault : streamFault q (s.eng (engOf c eng)) m o = none)
    (hpar : parityHit (s.landed c) q c 1 par (streamReads (s.eng (engOf c eng)) (engOf c eng) m o) = false) :
    execArrayStream c eng sa par s = .next ((runStream (s.landed c) c (engOf c eng) m o).past c 1 1) := by
  subst ho
  refine congrArg Host.Outcome.next (issueEng_goesOn h ?_ (runStream_attempt _ _ _ _ _))
  simp only [landed_getS, landed_eng, hm, hfault]
  exact reading_right _ _ _ _ _ _ _ hpar

theorem execArrayDrain_issues {o : DrainOps} {u : State} {fl : Sticky} (h : IssuesEng c eng sa 2 1 q s)
    (ho : o = drainOpsOf (s.getS c sa.val).toNat (s.getS c (sa.val + 1)).toNat)
    (hfault : drainFault q (s.eng (engOf c eng)) o = none)
    (hgo : drainGo o (engOf c eng) o.rows 0 (timeDrain (s.landed c) c (engOf c eng) (ceilDiv o.rowBytes 256) (drainSpans o), {})
      = (u, fl))
    (hpar : parityHit (s.landed c) q c 1 par (drainReads (engOf c eng) o) = false) :
    execArrayDrain c eng sa par s = .next ((u.setEng (engOf c eng) fun x => { x with
      flags := x.flags.or fl
      written := (if o.clr = 0 then [] else (List.range o.rows).flatMap fun r => rowUnits (!o.flt) (o.base + r * o.stride))
        ++ x.written
      issued := x.issued + 1 }).past c 1 1) := by
  have hcores := drainGo_cores o (engOf c eng) o.rows 0
    (timeDrain (s.landed c) c (engOf c eng) (ceilDiv o.rowBytes 256) (drainSpans o), {})
  rw [hgo] at hcores
  have hu : u.attempt = (s.landed c).attempt := (attempt_of_cores hcores).trans (timeDrain_attempt _ _ _ _ _)
  subst ho
  refine congrArg Host.Outcome.next (issueEng_goesOn h ?_ (by rw [setEng_attempt, hu]))
  simp only [landed_getS, landed_eng, hfault, hgo]
  exact reading_right _ _ _ _ _ _ _ hpar

end Issue

/-- Settles O37: each instruction by the lemma of its issue, which keeps the attempt of its core; the faults of a stream by the order
of their conditions. -/
theorem the_matrix_array_runs_its_operations : Obligations.The_matrix_array_runs_its_operations := by
  unfold Obligations.The_matrix_array_runs_its_operations
  refine ⟨?mode, ?load, ?stream, ?drain, ?fault⟩
  case mode => exact fun c eng sa s q h hfault => execArrayMode_issues h rfl hfault
  case load =>
    intro c eng sa par s q m w addr stride lo hi h hm hw haddr hstride hspan halign hrows hwin hpar
    refine execArrayLoad_issues h hm hw haddr hstride hspan ?_ hpar
    rintro (hoff | hnear | hout)
    · exact hoff halign
    · omega
    · simp [hwin] at hout
  case stream => exact fun c eng sa par s q m o h hm ho hfault hpar => execArrayStream_issues h hm ho hfault hpar
  case drain => exact fun c eng sa par s u q o fl h ho hfault hgo hpar => execArrayDrain_issues h ho hfault hgo hpar
  case fault =>
    exact fun q e m o => ⟨fun h => streamFault_operand h q m,
      fun hcount hop hactive hpair htile haddr => streamFault_address hcount hop hactive hpair htile haddr q⟩

end Sys2Proof.Machine
end

section
/-!
SUPPORT. Vector instructions in register mode: what each class writes and what it leaves, and one lemma for each way such an
instruction may go, over the row that its operation code must be of.
-/

namespace Sys2Proof.Machine
open Sys2Proof

/-! ### What a class keeps of the cores -/

theorem putS_attempt (s : State) (c : Fin 8) (r : Nat) (v : BitVec 64) : (s.putS c r v).attempt = s.attempt :=
  setCore_attempt (fun x => by split <;> rfl) fun x => by split <;> rfl

@[simp] theorem putScalar_attempt (s : State) (c : Fin 8) (code x : Nat) : (putScalar s c code x).attempt = s.attempt :=
  putS_attempt s c _ _

theorem vecDone_attempt (s : State) (c : Fin 8) (e start next : Nat) (writes : List Nat) (at_ : Nat) (fl : List Flight) :
    (s.vecDone c e start next writes at_ fl).attempt = s.attempt := by
  unfold State.vecDone
  simp only
  rw [setCore_attempt, setEng_attempt]
  all_goals exact fun _ => rfl

@[simp] theorem timeVec_attempt (s : State) (c : Fin 8) (e cost : Nat) (reads writes : List Nat) :
    (timeVec s c e cost reads writes).attempt = s.attempt :=
  (vecDone_attempt _ _ _ _ _ _ _ _).trans (queued_attempt s c e true)

theorem regLanes_attempt (t : Stg) (e : Nat) (c : Fin 8) (reg gm : Nat) (mz : Bool) (s : State) :
    (regLanes t e c reg gm mz s).attempt = s.attempt := setEng_attempt s e _

theorem regRed_attempt (t : Stg) (e : Nat) (c : Fin 8) (reg gm : Nat) (s : State) :
    (regRed t e c reg gm s).attempt = s.attempt := by
  unfold regRed
  simp only
  split <;> simp

theorem maskRun_attempt (t : Stg) (e : Nat) (c : Fin 8) (reg gm : Nat) (mz : Bool) (s : State) :
    (maskRun t e c reg gm mz s).attempt = s.attempt := by
  unfold maskRun
  simp only
  split
  case h_8 => split <;> simp
  all_goals simp

theorem laneMove_attempt (t : Stg) (e : Nat) (c : Fin 8) (reg gm : Nat) (mz : Bool) (s : State) :
    (laneMove t e c reg gm mz s).attempt = s.attempt := by
  unfold laneMove
  simp only
  split <;> simp

/-! ### The effect of a class -/

/-- The effect of a register-mode instruction, by its class, on the state in which its engine has taken it. -/
def Stg.effect (t : Stg) (e : Nat) (c : Fin 8) (reg gm : Nat) (mz : Bool) (s : State) : State :=
  match t.cls with
  | 10 => regRed t e c reg gm s
  | 11 => maskRun t e c reg gm mz s
  | 12 => laneMove t e c reg gm mz s
  | _ => regLanes t e c reg gm mz s

section Effect
variable {t : Stg} {e : Nat} {c : Fin 8} {reg gm : Nat} {mz : Bool} {s : State}

theorem Stg.effect_lanes (h : t.cls < 10) : t.effect e c reg gm mz s = regLanes t e c reg gm mz s := by
  unfold Stg.effect
  split
  case h_4 => rfl
  all_goals omega

theorem Stg.effect_red (h : t.cls = 10) : t.effect e c reg gm mz s = regRed t e c reg gm s := by
  simp only [Stg.effect, h]

theorem Stg.effect_mask (h : t.cls = 11) : t.effect e c reg gm mz s = maskRun t e c reg gm mz s := by
  simp only [Stg.effect, h]

theorem Stg.effect_laneMove (h : t.cls = 12) : t.effect e c reg gm mz s = laneMove t e c reg gm mz s := by
  simp only [Stg.effect, h]

theorem Stg.effect_attempt : (t.effect e c reg gm mz s).attempt = s.attempt := by
  unfold Stg.effect
  split
  · exact regRed_attempt t e c reg gm s
  · exact maskRun_attempt t e c reg gm mz s
  · exact laneMove_attempt t e c reg gm mz s
  · exact regLanes_attempt t e c reg gm mz s

end Effect

/-! ### How a register-mode instruction may go -/

section Issue
variable {row : Stg → Bool} {c : Fin 8} {eng : Bool} {reg : Byte} {mask : Fin 8} {mz : Bool} {w : BitVec 64} {s u : State} {q : Quire}

/-- A legal instruction has the effect of its class. -/
theorem regVec_goesOn (hrow : row (stgOf w) = true) (h : Issues c 2 (sRegs (stgOf w).srcs) q s)
    (hlive : (s.eng (engOf c eng)).retired = false) (hlegal : (stgOf w).illegal (s.eng (engOf c eng)).acts reg.toNat = false)
    (hformat : (stgOf w).formatOk = true)
    (hu : u = timeVec (s.landed c) c (engOf c eng) (stgOf w).cost ((0x70 + mask.val) :: (stgOf w).srcs) ((stgOf w).writes reg.toNat)) :
    regVec row c eng reg mask mz w s
      = ((stgOf w).effect (engOf c eng) c reg.toNat ((s.eng (engOf c eng)).getM mask.val) mz u).past c 2 2 := by
  have hkeep : ((stgOf w).effect (engOf c eng) c reg.toNat ((s.eng (engOf c eng)).getM mask.val) mz u).attempt = s.attempt := by
    rw [Stg.effect_attempt, hu, timeVec_attempt, landed_attempt]
  obtain ⟨hleaf, hreplays⟩ := leaf_replays_of_attempt hkeep c
  exact regVec_runs hrow h hlive hlegal hformat hu.symm _ rfl hleaf hreplays.le

/-- A word of another row, or one that R98 makes illegal, is VEC_ILLEGAL. -/
theorem regVec_illegal (h : Issues c 2 (sRegs (stgOf w).srcs) q s) (hlive : (s.eng (engOf c eng)).retired = false)
    (hended : q.state ≠ .ended) (hfaulted : q.state ≠ .faulted)
    (hbad : ¬ row (stgOf w) = true ∨ (stgOf w).illegal (s.eng (engOf c eng)).acts reg.toNat = true) :
    regVec row c eng reg mask mz w s = faultQuire (s.landed c) q.tag 0x32 := by
  unfold regVec issueVec
  refine issue_faults h hended hfaulted _ 0x32 ?_
  have hcheck : (!row (stgOf w) || (stgOf w).illegal (s.eng (engOf c eng)).acts reg.toNat) = true := by
    rcases hbad with hrow | hill
    · simp [hrow]
    · simp [hill]
  simp only [landed_eng, hlive, Bool.false_eq_true, if_false]
  exact if_pos hcheck

/-- A legal word of the row in a format that its instruction does not take is VEC_FORMAT. -/
theorem regVec_badFormat (hrow : row (stgOf w) = true) (h : Issues c 2 (sRegs (stgOf w).srcs) q s)
    (hlive : (s.eng (engOf c eng)).retired = false) (hended : q.state ≠ .ended) (hfaulted : q.state ≠ .faulted)
    (hlegal : (stgOf w).illegal (s.eng (engOf c eng)).acts reg.toNat = false) (hformat : (stgOf w).formatOk = false) :
    regVec row c eng reg mask mz w s = faultQuire (s.landed c) q.tag 0x31 := by
  unfold regVec issueVec
  refine issue_faults h hended hfaulted _ 0x31 ?_
  simp only [landed_eng, hlive, hrow, hlegal, hformat, Bool.not_true, Bool.or_self, Bool.not_false, Bool.false_eq_true, if_false,
    if_true]

/-- A retired engine takes no instruction; the core goes on (R86). -/
theorem regVec_retired (h : Issues c 2 (sRegs (stgOf w).srcs) q s) (hretired : (s.eng (engOf c eng)).retired = true) :
    regVec row c eng reg mask mz w s = (s.landed c).past c 2 2 := by
  unfold regVec issueVec
  refine issue_goesOn h ?_ rfl
  simp only [landed_eng, hretired, if_true]

end Issue

/-! ### The rows -/

section Rows
variable {c : Fin 8} {eng : Bool} {reg : Byte} {mask : Fin 8} {mz : Bool} {w : BitVec 64} {i : Instr} {Q : Prop → Prop}

/-- Each of the 17 instructions is `regVec` for its row, where `Q` says something of the word's being of that row. -/
theorem exec_eq_regVec
    (hi : (i = .vecIntArith c eng reg mask mz w ∧ Q ((stgOf w).cls = 0))
      ∨ (i = .vecLogic c eng reg mask mz w ∧ Q ((stgOf w).cls = 1))
      ∨ (i = .vecFloatArith c eng reg mask mz w ∧ Q ((stgOf w).cls = 2))
      ∨ (i = .vecFdivRoot c eng reg mask mz w ∧ Q ((stgOf w).cls = 3))
      ∨ (i = .vecComplexArith c eng reg mask mz w ∧ Q ((stgOf w).cls = 4))
      ∨ (i = .cmp c eng reg mask mz w ∧ Q ((stgOf w).cls = 5))
      ∨ (i = .sel c eng reg mask mz w ∧ Q ((stgOf w).cls = 6))
      ∨ (i = .cvt c eng reg mask mz w ∧ Q ((stgOf w).cls = 7))
      ∨ (i = .act c eng reg mask mz w ∧ Q ((stgOf w).cls = 8))
      ∨ (i = .perm c eng reg mask mz w ∧ Q ((stgOf w).opc = 0x90))
      ∨ (i = .shuf c eng reg mask mz w ∧ Q ((stgOf w).opc = 0x91))
      ∨ (i = .packc c eng reg mask mz w ∧ Q ((stgOf w).opc = 0x92))
      ∨ (i = .unpackc c eng reg mask mz w ∧ Q ((stgOf w).opc = 0x93))
      ∨ (i = .red c eng reg mask mz w ∧ Q ((stgOf w).cls = 10))
      ∨ (i = .maskOp c eng reg mask mz w ∧ Q ((stgOf w).cls = 11))
      ∨ (i = .ins c eng reg mask mz w ∧ Q ((stgOf w).opc = 0xC0))
      ∨ (i = .ext c eng reg mask mz w ∧ Q ((stgOf w).opc = 0xC1))) :
    ∃ row : Stg → Bool, (∀ s, exec i s = .next (regVec row c eng reg mask mz w s)) ∧ Q (row (stgOf w) = true) := by
  rcases hi with ⟨rfl, hq⟩ | ⟨rfl, hq⟩ | ⟨rfl, hq⟩ | ⟨rfl, hq⟩ | ⟨rfl, hq⟩ | ⟨rfl, hq⟩ | ⟨rfl, hq⟩ | ⟨rfl, hq⟩ | ⟨rfl, hq⟩
    | ⟨rfl, hq⟩ | ⟨rfl, hq⟩ | ⟨rfl, hq⟩ | ⟨rfl, hq⟩ | ⟨rfl, hq⟩ | ⟨rfl, hq⟩ | ⟨rfl, hq⟩ | ⟨rfl, hq⟩
  all_goals exact ⟨_, fun _ => rfl, by rwa [beq_iff_eq]⟩

/-- The instructions that compute lane by lane are of the classes below the reductions. -/
theorem exec_eq_regVec_lanes
    (hi : (i = .vecIntArith c eng reg mask mz w ∧ (stgOf w).cls = 0)
      ∨ (i = .vecLogic c eng reg mask mz w ∧ (stgOf w).cls = 1)
      ∨ (i = .vecFloatArith c eng reg mask mz w ∧ (stgOf w).cls = 2)
      ∨ (i = .vecFdivRoot c eng reg mask mz w ∧ (stgOf w).cls = 3)
      ∨ (i = .vecComplexArith c eng reg mask mz w ∧ (stgOf w).cls = 4)
      ∨ (i = .cmp c eng reg mask mz w ∧ (stgOf w).cls = 5)
      ∨ (i = .sel c eng reg mask mz w ∧ (stgOf w).cls = 6)
      ∨ (i = .cvt c eng reg mask mz w ∧ (stgOf w).cls = 7)
      ∨ (i = .act c eng reg mask mz w ∧ (stgOf w).cls = 8)
      ∨ (i = .perm c eng reg mask mz w ∧ (stgOf w).opc = 0x90)
      ∨ (i = .shuf c eng reg mask mz w ∧ (stgOf w).opc = 0x91)
      ∨ (i = .packc c eng reg mask mz w ∧ (stgOf w).opc = 0x92)
      ∨ (i = .unpackc c eng reg mask mz w ∧ (stgOf w).opc = 0x93)) :
    ∃ row : Stg → Bool, (∀ s, exec i s = .next (regVec row c eng reg mask mz w s)) ∧ row (stgOf w) = true ∧ (stgOf w).cls < 10 := by
  rcases hi with ⟨rfl, hw⟩ | ⟨rfl, hw⟩ | ⟨rfl, hw⟩ | ⟨rfl, hw⟩ | ⟨rfl, hw⟩ | ⟨rfl, hw⟩ | ⟨rfl, hw⟩ | ⟨rfl, hw⟩ | ⟨rfl, hw⟩
    | ⟨rfl, hw⟩ | ⟨rfl, hw⟩ | ⟨rfl, hw⟩ | ⟨rfl, hw⟩
  all_goals exact ⟨_, fun _ => rfl, beq_iff_eq.2 hw, by unfold Stg.cls at *; omega⟩

theorem exec_eq_regVec_laneMove
    (hi : (i = .ins c eng reg mask mz w ∧ (stgOf w).opc = 0xC0) ∨ (i = .ext c eng reg mask mz w ∧ (stgOf w).opc = 0xC1)) :
    ∃ row : Stg → Bool, (∀ s, exec i s = .next (regVec row c eng reg mask mz w s)) ∧ row (stgOf w) = true ∧ (stgOf w).cls = 12 := by
  rcases hi with ⟨rfl, hw⟩ | ⟨rfl, hw⟩
  all_goals exact ⟨_, fun _ => rfl, beq_iff_eq.2 hw, by unfold Stg.cls; omega⟩

end Rows

/-! ### What the lanes write and leave -/

theorem tget_tset_other {α : Type} (t : Table α) {k j : Nat} (v d : α) (hkj : k ≠ j) : tget (tset t k v) j d = tget t j d :=
  congrArg (·.getD d) (tget?_tset_other t v hkj)

@[simp] theorem setV_m (e : Engine) (n gm : Nat) (mz : Bool) (l : List Nat) : (e.setV n gm mz l).m = e.m := rfl

theorem getV_setV_other (e : Engine) {n r : Nat} (gm : Nat) (mz : Bool) (l : List Nat) (hr : r ≠ n) :
    (e.setV n gm mz l).getV r = e.getV r := tget_tset_other e.v _ _ hr.symm

/-- What a lane of a vector register reads after its write under a mask (R101). -/
theorem getV_setV_getD (e : Engine) (n gm : Nat) (mz : Bool) (l : List Nat) {i : Nat} (hi : i < 64) :
    ((e.setV n gm mz l).getV n).getD i 0 = if bit gm i then l.getD i 0 else if mz then 0 else (e.getV n).getD i 0 := by
  simp [getV_setV, List.getD, hi]

@[simp] theorem setM_v (e : Engine) (n v : Nat) : (e.setM n v).v = e.v := by
  unfold Engine.setM
  split <;> rfl

/-- An active lane of a stage's first result. -/
theorem stageRun_fst_getD (t : Stg) (v : VEnv) {act i : Nat} (hi : i < 64) (hactive : bit act i = true) :
    (stageRun t v act).1.getD i 0 = (stageLane t v.eng.acts (v.lanes t.a (t.srcRf 0) t.imm) (v.lanes t.b (t.srcRf 1) t.imm)
      (v.lanes t.c (t.srcRf 2) t.imm) i).1 := by
  simp [stageRun, List.getD, hi, hactive]

section Lanes
variable {t : Stg} {e : Nat} (he : e < 16) (c : Fin 8) (reg gm : Nat) (mz : Bool) (s : State)
include he

/-- CMP writes the mask of the lanes that hold. -/
theorem regLanes_cmp_eng (hcmp : t.cls = 5) :
    let r := stageRun t ⟨s.eng e, s.core c, [], [], []⟩ gm
    (regLanes t e c reg gm mz s).eng e = ((s.eng e).addFlags r.2.2).setM (reg - 0x70) (regLanes.leNatBits r.1) := by
  unfold regLanes
  rw [eng_setEng _ _ _ he]
  exact if_pos hcmp

/-- Every other class writes its vector register, UNPACKC a second one. -/
theorem regLanes_eng (hcmp : t.cls ≠ 5) :
    let r := stageRun t ⟨s.eng e, s.core c, [], [], []⟩ gm
    let z := ((s.eng e).addFlags r.2.2).setV reg gm mz r.1
    (regLanes t e c reg gm mz s).eng e = if t.isUnpack then z.setV t.b gm mz r.2.1 else z := by
  unfold regLanes
  rw [eng_setEng _ _ _ he]
  exact if_neg hcmp

theorem regLanes_lane (hcmp : t.cls ≠ 5) (hunpack : t.isUnpack = false) {i : Nat} (hi : i < 64) :
    (((regLanes t e c reg gm mz s).eng e).getV reg).getD i 0
      = if bit gm i then (stageLane t (s.eng e).acts
            ((⟨s.eng e, s.core c, [], [], []⟩ : VEnv).lanes t.a (t.srcRf 0) t.imm)
            ((⟨s.eng e, s.core c, [], [], []⟩ : VEnv).lanes t.b (t.srcRf 1) t.imm)
            ((⟨s.eng e, s.core c, [], [], []⟩ : VEnv).lanes t.c (t.srcRf 2) t.imm) i).1
        else if mz then 0 else ((s.eng e).getV reg).getD i 0 := by
  simp only [regLanes_eng he c reg gm mz s hcmp, hunpack, Bool.false_eq_true, if_false, getV_setV_getD _ reg gm mz _ hi]
  split
  case isTrue hactive => exact stageRun_fst_getD t ⟨s.eng e, s.core c, [], [], []⟩ hi hactive
  case isFalse => rfl

theorem regLanes_cmp_v (hcmp : t.cls = 5) : ((regLanes t e c reg gm mz s).eng e).v = (s.eng e).v := by
  rw [regLanes_cmp_eng he c reg gm mz s hcmp, setM_v]
  rfl

theorem regLanes_m (hcmp : t.cls ≠ 5) : ((regLanes t e c reg gm mz s).eng e).m = (s.eng e).m := by
  rw [regLanes_eng he c reg gm mz s hcmp]
  cases t.isUnpack <;> rfl

theorem regLanes_getV_other (hcmp : t.cls ≠ 5) {r : Nat} (hr : r ≠ reg) (hb : t.isUnpack = true → r ≠ t.b) :
    ((regLanes t e c reg gm mz s).eng e).getV r = (s.eng e).getV r := by
  rw [regLanes_eng he c reg gm mz s hcmp]
  cases hunpack : t.isUnpack with
  | false => exact getV_setV_other _ gm mz _ hr
  | true => exact (getV_setV_other _ gm mz _ (hb hunpack)).trans (getV_setV_other _ gm mz _ hr)

end Lanes

/-- Settles O38: an instruction of a row is `regVec`, whose ways are one lemma each; the destinations are those of `regLanes`. -/
theorem vector_instructions_run_in_register_mode : Obligations.Vector_instructions_run_in_register_mode := by
  unfold Obligations.Vector_instructions_run_in_register_mode
  refine ⟨?lanes, ?red, ?maskOp, ?laneMove, ?lane, ?frame, ?fault, ?retired⟩
  case lanes =>
    intro c eng reg mask mz w s q u i hi h hlive hlegal hformat hu
    obtain ⟨row, hexec, hrow, hcls⟩ := exec_eq_regVec_lanes hi
    rw [hexec, regVec_goesOn hrow h hlive hlegal hformat hu, Stg.effect_lanes hcls]
  case red =>
    intro c eng reg mask mz w s q u hcls h hlive hlegal hformat hu
    show Host.Outcome.next (regVec _ c eng reg mask mz w s) = _
    rw [regVec_goesOn (row := fun t => t.cls == 10) (beq_iff_eq.2 hcls) h hlive hlegal hformat hu, Stg.effect_red hcls]
  case maskOp =>
    intro c eng reg mask mz w s q u hcls h hlive hlegal hformat hu
    show Host.Outcome.next (regVec _ c eng reg mask mz w s) = _
    rw [regVec_goesOn (row := fun t => t.cls == 11) (beq_iff_eq.2 hcls) h hlive hlegal hformat hu, Stg.effect_mask hcls]
  case laneMove =>
    intro c eng reg mask mz w s q u i hi h hlive hlegal hformat hu
    obtain ⟨row, hexec, hrow, hcls⟩ := exec_eq_regVec_laneMove hi
    rw [hexec, regVec_goesOn hrow h hlive hlegal hformat hu, Stg.effect_laneMove hcls]
  case lane => exact fun t e reg gm i c mz s he hcmp hunpack hi => regLanes_lane he c reg gm mz s hcmp hunpack hi
  case frame =>
    exact fun t e reg gm c mz s he => ⟨State.setEng_mem s e _, setEng_cores s e _, regLanes_cmp_v he c reg gm mz s,
      fun hcmp => ⟨regLanes_m he c reg gm mz s hcmp, fun r hr hb => regLanes_getV_other he c reg gm mz s hcmp hr hb⟩⟩
  case fault =>
    intro c eng reg mask mz w s q i h hlive hended hfaulted
    constructor
    · intro hi
      obtain ⟨row, hexec, hbad⟩ :=
        exec_eq_regVec (Q := fun p => ¬ p ∨ (stgOf w).illegal (s.eng (engOf c eng)).acts reg.toNat = true) hi
      rw [hexec, regVec_illegal h hlive hended hfaulted hbad]
    · intro hi hlegal hformat
      obtain ⟨row, hexec, hrow⟩ := exec_eq_regVec (Q := id) hi
      rw [hexec, regVec_badFormat hrow h hlive hended hfaulted hlegal hformat]
  case retired =>
    intro c eng reg mask mz w s q i h hretired hi
    obtain ⟨row, hexec, -⟩ := exec_eq_regVec (Q := fun _ => True) hi
    rw [hexec, regVec_retired h hretired]

end Sys2Proof.Machine
end

section
/-!
SUPPORT. Quires that make way and return: what a re-shard, an eviction window, a save, a restore and a failed check do under their
guards, one lemma for each way that they may go.
-/

namespace Sys2Proof.Machine
open Sys2Proof

/-! ### Re-sharding -/

section Reshard
variable {tag : BitVec 16} {hit again : Bool} {w b : Nat} {s s0 : State} {q : Quire}

/-- The guards of a re-shard hold: a started slot-reception on more than one engine, with no leaf live and no hold (R168). -/
theorem reshard_guard (hkind : q.kind = .slotReception) (hstarted : q.started = true) (hlive : s.anyLive q = false)
    (hhold : q.hold = false) (hmany : 1 < q.engines) :
    ¬ (q.kind ≠ .slotReception ∨ (!q.started) = true ∨ s.anyLive q = true ∨ q.hold = true ∨ q.engines ≤ 1) := by
  simp [hkind, hstarted, hlive, hhold, hmany]

theorem reshard_moves {l : List Config.ReshardMove} {n : Nat} (hq : tget? s.quires tag.toNat = some q)
    (hb : q.phaseEnd (variantOf q.image q.engines) = some b) (hl : l = Config.reshardMoves q.image q.engines b)
    (hn : n = reshardCycles (movedBytes l)) (hkind : q.kind = .slotReception) (hstarted : q.started = true)
    (hlive : s.anyLive q = false) (hhold : q.hold = false) (hmany : 1 < q.engines)
    (hpar : ((hit = false ∨ movesRead q s l w = false) ∧ s0 = s)
      ∨ (hit = true ∧ again = false ∧ movesRead q s l w = true ∧ s0 = countWord s w)) :
    reshard tag hit w again s
      = ((chargeTime ((s0.inService q.cluster.val).foldl (fun s e => (s.engCount e 9 n).engCount e 10 (4 * n))
            (l.foldl (moveBlock q s0) s0)) q.cluster q.consumer (n * (s0.inService q.cluster.val).length)).setCl q.cluster fun k =>
          { k with lcCycles := k.lcCycles + BitVec.ofNat 64 (n * (s0.inService q.cluster.val).length) }).setQuire tag.toNat
            fun q => { q with hold := true } := by
  subst hl hn
  unfold reshard
  simp only [hq, hb, if_neg (reshard_guard hkind hstarted hlive hhold hmany)]
  rcases hpar with ⟨hmiss, rfl⟩ | ⟨rfl, rfl, hread, rfl⟩
  · have hmet : (hit && movesRead q s0 (Config.reshardMoves q.image q.engines b) w) = false :=
      Bool.and_eq_false_iff.2 hmiss
    simp only [hmet, Bool.false_and, Bool.false_eq_true, if_false]
  · simp only [hread, Bool.and_self, Bool.and_false, Bool.false_eq_true, if_true, if_false]

/-- A parity error of a word that moves which its re-read meets too faults the quire (R169). -/
theorem reshard_faults (hq : tget? s.quires tag.toNat = some q) (hb : q.phaseEnd (variantOf q.image q.engines) = some b)
    (hkind : q.kind = .slotReception) (hstarted : q.started = true) (hlive : s.anyLive q = false) (hhold : q.hold = false)
    (hmany : 1 < q.engines) (hread : movesRead q s (Config.reshardMoves q.image q.engines b) w = true) :
    reshard tag true w true s = faultQuire (countWord (countWord s w) w) tag 0x57 := by
  unfold reshard
  simp only [hq, hb, if_neg (reshard_guard hkind hstarted hlive hhold hmany), hread, Bool.and_self, if_true]

end Reshard

/-! ### Eviction windows -/

theorem evictionWindowOpen_expected {k : Fin 4} {cell : Fin 64} {close : Nat} {s u : State} {e : Expect} {x : Cell}
    (he : (s.cl k).expects.find? (fun e => e.cell == cell.val && e.close == close && !e.opened) = some e)
    (hu : u = ((s.advance (e.close - usTicks s.evictWindow - (s.cl k).counter.toNat)).setCl k fun c =>
      { c with expects := c.expects.map fun x => if x = e then { x with opened := true } else x }))
    (hx : u.cell? cell.val = some x) :
    evictionWindowOpen k cell close s = (u.startedOn k).foldl (markEvict cell.val (u.claimOf k x)) u := by
  subst hu
  unfold evictionWindowOpen
  simp only [he, startEviction, hx]

theorem evictionWindowOpen_unexpected {k : Fin 4} {cell : Fin 64} {close : Nat} {s : State}
    (he : (s.cl k).expects.find? (fun e => e.cell == cell.val && e.close == close && !e.opened) = none) :
    evictionWindowOpen k cell close s = s := by
  unfold evictionWindowOpen
  rw [he]

/-! ### Saves -/

/-- The guards of a context save hold: the quire is suspended, not saved, and must leave (R236). -/
theorem contextSave_guard {q : Quire} (hstate : q.state = .suspended) (hsaved : q.saved = false)
    (hleave : q.evict = true ∨ q.fullSave = true) :
    ¬ (q.state ≠ .suspended ∨ q.saved = true ∨ (!(q.evict || q.fullSave)) = true) := by
  rcases hleave with h | h <;> simp [hstate, hsaved, h]

section Save
variable {tag : BitVec 16} {s : State} {q : Quire} {i : Nat} (hq : tget? s.quires tag.toNat = some q) (hslot : q.ctxSlot = some i)
  (hstate : q.state = .suspended) (hsaved : q.saved = false) (hleave : q.evict = true ∨ q.fullSave = true)
include hq hslot hstate hsaved hleave

theorem contextSave_parity : contextSave tag true s = faultQuire s tag 0x57 := by
  unfold contextSave
  simp only [hq, hslot, if_neg (contextSave_guard hstate hsaved hleave), if_true]

theorem contextSave_writes {data : List (Nat × Bytes)} (hdata : data = (q.places s).map fun p => (p.1, engineData s q p.1 p.2)) :
    contextSave tag false s
      = (data.foldl (fun s p => s.wr (s.dataAddr i p.1) p.2)
          (writeControl (s.setQuire tag.toNat fun q => { q with saved := true, fullSave := false }) tag)).account q.cluster
        q.consumer fun a => { a with
          evictions := a.evictions + 1
          bytesSaved := a.bytesSaved + (2176 + (data.map (·.2.length)).sum) } := by
  subst hdata
  unfold contextSave
  simp only [hq, hslot, if_neg (contextSave_guard hstate hsaved hleave), Bool.false_eq_true, if_false]

end Save

section SaveDone
variable {k : Fin 4} {s u : State}

/-- Where a FULL quire of the cluster is not saved yet, only the waiting first leaves may go (R237, R239). -/
theorem contextSaveDone_fullInPlace (hu : u = if s.evicting k = true then s else s.setCl k fun c => { c with evictWait := false })
    (hfull : ∃ q ∈ s.startedOn k, q.saved = false ∧ ∃ p, q.prog = some p ∧ p.full = true) : contextSaveDone k s = u := by
  subst hu
  obtain ⟨q, hmem, hsaved, p, hprog, hp⟩ := hfull
  unfold contextSaveDone
  exact if_pos (List.any_eq_true.2 ⟨q, hmem, by simp [hsaved, hprog, hp]⟩)

/-- Where every FULL quire is saved, the cells that wait are placed in the order of their next slot closes (R239). -/
theorem contextSaveDone_places (hu : u = if s.evicting k = true then s else s.setCl k fun c => { c with evictWait := false })
    (hfull : ∀ q ∈ s.startedOn k, ∀ p, q.prog = some p → p.full = true → q.saved = true) :
    contextSaveDone k s
      = (sortBy (fun a b => decide (a.2.nextClose s.ticks.toNat ≤ b.2.nextClose s.ticks.toNat))
          (s.cfg.cells.filter fun p => p.2.waitFull && p.2.cluster == k)).foldl (fun t p =>
            (t.advanceTo (p.2.nextClose s.ticks.toNat)).setCfg fun g => { g with
              cells := tset g.cells p.1 { p.2 with waitFull := false, placed := true } }) u := by
  have hcfg : u.cfg = s.cfg := by
    rw [hu]
    split <;> rfl
  rw [← hcfg]
  subst hu
  unfold contextSaveDone
  refine if_neg fun hany => ?_
  obtain ⟨q, hmem, hq⟩ := List.any_eq_true.1 hany
  obtain ⟨hsaved, hp⟩ := Bool.and_eq_true_iff.1 hq
  split at hp
  case h_1 p hprog => simp [hfull q hmem p hprog hp] at hsaved
  case h_2 => cases hp

end SaveDone

theorem fullQuireSave_marks {tag : BitVec 16} {s : State} {q : Quire} {p : Prog} (hq : tget? s.quires tag.toNat = some q)
    (hstarted : q.started = true) (hlc : q.kind.lc = false) (hprog : q.prog = some p) (hfull : p.full = true)
    (hsaved : q.saved = false) (hcarries : s.carries q.cluster = true) :
    fullQuireSave tag s
      = if s.anyLive q = true ∨ q.state = .suspended then s.setQuire tag.toNat fun q => { q with fullSave := true }
        else suspendQuire (s.setQuire tag.toNat fun q => { q with fullSave := true }) tag := by
  unfold fullQuireSave
  simp only [hq, hstarted, hlc, hprog, hfull, hsaved, hcarries, Bool.not_true, Bool.or_self, Bool.false_eq_true, if_false,
    Bool.or_eq_true, beq_iff_eq]

/-! ### Restores -/

/-- A restore of a suspended and saved quire that is not FULL: the engines that it needs are checked, then the ECC, then the header
(R243). -/
theorem contextRestore_eq {tag : BitVec 16} {ecc : Bool} {s : State} {q : Quire} {i : Nat} {p : Prog}
    (hq : tget? s.quires tag.toNat = some q) (hslot : q.ctxSlot = some i) (hstate : q.state = .suspended) (hsaved : q.saved = true)
    (hevict : q.evict = false) (hprog : q.prog = some p) (hfull : p.full = false) :
    contextRestore tag ecc s
      = if (q.places s).length < p.positions then faultQuire s tag 0x64
        else if ecc = true then faultQuire s tag 0x63
        else if cpl (s.rd (s.ctxAddr i) 8) ≠ s.rd (s.ctxAddr i + 8) 8
            ∨ bits (leNat (s.rd (s.ctxAddr i) 8)) 32 16 ≠ tag.toNat then faultQuire s tag 0x62
        else
          ((q.places s).foldl (fun s p => s.setEng p.2 fun e => if e.owner = some tag then { e with owner := none } else e)
            ((q.places s).foldl (fun s p =>
              restoreData ((s.zeroRun (spadAt p.2) q.spad []).zeroRun (accAt p.2) q.acc.unitBytes []) p.2
                ((q.live.filter fun x => x.pos == p.1).take 8)
                (s.rd (s.dataAddr i p.1) ((((q.live.filter fun x => x.pos == p.1).take 8).map fun x =>
                  (extentPlace x 0).2).sum))) s)).setQuire tag.toNat fun q => { q with saved := false } := by
  unfold contextRestore
  simp only [hq, hslot, hstate, hsaved, hevict, hprog, hfull, bne_self_eq_false, Bool.not_true, Bool.false_and, Bool.or_self,
    Bool.false_eq_true, if_false]

/-! ### Checks that fail -/

/-- The core of an engine, as `checkMismatch` finds it. -/
theorem coreOfEng_eq {e : Fin 16} {c : Fin 8} (hc : c.val = e.val / 2) :
    (⟨e.val / 2, (Nat.div_lt_iff_lt_mul Nat.two_pos).2 e.isLt⟩ : Fin 8) = c := Fin.ext hc.symm

section Mismatch
variable {e : Fin 16} {s : State} {q : Quire} {c : Fin 8} (m : Mismatch) (hc : c.val = e.val / 2) (hq : liveQuire s c = some q)
  (hservice : (s.eng e.val).retired = false)
include hc hq hservice

/-- The first mismatch of a leaf is recorded and replayed (R85). -/
theorem checkMismatch_first (hfirst : leafMismatches s c = 0) :
    checkMismatch e m s = firstMismatch (s.event 0x04 e.val (arrayErrorRecord s e.val m q.tag.toNat
      (if c.val % 2 = 0 then q.leaf0 else q.leaf1) 1)) q c e.val m.cycle := by
  unfold checkMismatch
  simp only [coreOfEng_eq hc, hc, hq, hservice, hfirst, Bool.false_eq_true, if_false, if_true]

/-- The next one is recorded and retires the engine (R86). -/
theorem checkMismatch_next (hnext : leafMismatches s c ≠ 0) :
    checkMismatch e m s = retireEngine (s.event 0x04 e.val (arrayErrorRecord s e.val m q.tag.toNat
      (if c.val % 2 = 0 then q.leaf0 else q.leaf1) 2)) q e := by
  unfold checkMismatch
  simp [coreOfEng_eq hc, hc, hq, hservice, hnext]

end Mismatch

/-- Settles O42: each command by the lemma of the way that its clause's hypotheses choose. -/
theorem quires_yield_are_saved_and_return : Obligations.Quires_yield_are_saved_and_return := by
  unfold Obligations.Quires_yield_are_saved_and_return
  refine ⟨?moves, ?moveFaults, ?window, ?noWindow, ?save, ?saveDone, ?fullSave, ?restore, ?mismatch⟩
  case moves =>
    intro tag hit again w n b l s s0 q hq hb hl hn hkind hstarted hlive hhold hmany hpar
    exact congrArg Host.Outcome.next (reshard_moves hq hb hl hn hkind hstarted hlive hhold hmany hpar)
  case moveFaults =>
    intro tag b w s q hq hb hkind hstarted hlive hhold hmany hread
    exact congrArg Host.Outcome.next (reshard_faults hq hb hkind hstarted hlive hhold hmany hread)
  case window => exact fun k cell close s u e x he hu hx => congrArg Host.Outcome.next (evictionWindowOpen_expected he hu hx)
  case noWindow => exact fun k cell close s he => congrArg Host.Outcome.next (evictionWindowOpen_unexpected he)
  case save =>
    exact fun tag s q i data hq hslot hstate hsaved hleave hdata =>
      ⟨congrArg Host.Outcome.next (contextSave_parity hq hslot hstate hsaved hleave),
        congrArg Host.Outcome.next (contextSave_writes hq hslot hstate hsaved hleave hdata)⟩
  case saveDone =>
    exact fun k s u hu => ⟨fun hfull => congrArg Host.Outcome.next (contextSaveDone_fullInPlace hu hfull),
      fun hfull => congrArg Host.Outcome.next (contextSaveDone_places hu hfull)⟩
  case fullSave =>
    intro tag s q p hq hstarted hlc hprog hfull hsaved hcarries
    exact congrArg Host.Outcome.next (fullQuireSave_marks hq hstarted hlc hprog hfull hsaved hcarries)
  case restore =>
    intro tag ecc s q i p hq hslot hstate hsaved hevict hprog hfull
    have heq : ∀ ecc, exec (.contextRestore tag ecc) s = .next _ := fun ecc =>
      congrArg Host.Outcome.next (contextRestore_eq (ecc := ecc) hq hslot hstate hsaved hevict hprog hfull)
    refine ⟨fun hfew => ?_, fun hmany => ?_, fun hmany hbad => ?_, fun hmany hcpl htag => ?_⟩
    · rw [heq, if_pos hfew]
    · rw [heq, if_neg hmany.not_gt, if_pos rfl]
    · rw [heq, if_neg hmany.not_gt, if_neg Bool.false_ne_true, if_pos hbad]
    · rw [heq, if_neg hmany.not_gt, if_neg Bool.false_ne_true, if_neg (by simp [hcpl, htag])]
  case mismatch =>
    intro e kind column vector expected observed bound cycle s q c m hc hq hservice hm
    subst hm
    exact ⟨fun hfirst => congrArg Host.Outcome.next (checkMismatch_first _ hc hq hservice hfirst),
      fun hnext => congrArg Host.Outcome.next (checkMismatch_next _ hc hq hservice hnext)⟩

end Sys2Proof.Machine
end

section
/-!
SUPPORT. The vector engine's memory forms: what VLD, VST, ACTLD and CHAIN do once they issue, in the order of their checks; that their
waits and their stores move no core's leaf; and which bytes a store leaves alone.
-/

namespace Sys2Proof.Machine
open Sys2Proof

/-! ### The waits of the timing model keep the attempt -/

@[simp] theorem vecLate_attempt (s : State) (e n : Nat) : (s.vecLate e n).attempt = s.attempt := by
  simp [State.vecLate]

@[simp] theorem timeAccess_attempt (s : State) (c : Fin 8) (e : Nat) (store : Bool) (reg extra : Nat) (spans : List (Int × Int)) :
    (timeAccess s c e store reg extra spans).attempt = s.attempt := by
  simp [timeAccess, vecDone_attempt]

@[simp] theorem timeActld_attempt (s : State) (c : Fin 8) (e a : Nat) : (timeActld s c e a).attempt = s.attempt := by
  simp [timeActld, vecDone_attempt]

@[simp] theorem timeChain_attempt (s : State) (c : Fin 8) (e lat : Nat) (reads writes : List Nat) (its : List Iter) :
    (timeChain s c e lat reads writes its).attempt = s.attempt := by
  simp [timeChain, vecDone_attempt]

theorem ChainOps.time_attempt (o : ChainOps) (e : Nat) (c : Fin 8) (gm mask : Nat) (s : State) :
    (o.time e c gm mask s).attempt = s.attempt := timeChain_attempt s c e _ _ _ _

/-! ### What a store of lanes changes -/

theorem toLE_length (n x : Nat) : (toLE n x).length = n := by
  induction n generalizing x with
  | zero => rfl
  | succ n ih => exact congrArg (· + 1) (ih (x / 256))

/-- What the write of each active lane keeps, the store of the lanes keeps. -/
theorem storeLanes_induct {P : State → Prop} {s : State} {e f act : Nat} {addr stride : Int} (hs : P s)
    (hwr : ∀ i < 64, bit act i = true → ∀ u x, P u → P (u.wr (spadAt e + (addr + (i : Int) * stride).toNat) (toLE (fmtBytes f) x)))
    (k : Nat) (sat : Bool) (l : List Nat) : P (storeLanes s e f k sat addr stride act l).1 := by
  unfold storeLanes
  refine List.foldlRecOn (motive := fun a : State × Sticky => P a.1) _ _ hs fun a ha i hi => ?_
  split
  case isTrue hactive => exact hwr i (List.mem_range.1 hi) hactive a.1 _ ha
  case isFalse => exact ha

theorem storeLanes_cores (s : State) (e f k : Nat) (sat : Bool) (addr stride : Int) (act : Nat) (l : List Nat) :
    (storeLanes s e f k sat addr stride act l).1.cores = s.cores :=
  storeLanes_induct (P := fun u => u.cores = s.cores) rfl (fun _ _ _ _ _ hu => hu) k sat l

/-- A byte outside every active element is as before. -/
theorem storeLanes_byte_other {s : State} {e f act b : Nat} {addr stride : Int} (hwf : s.mem.wf = true)
    (hout : ∀ i < 64, bit act i = true → b < spadAt e + (addr + (i : Int) * stride).toNat
      ∨ spadAt e + (addr + (i : Int) * stride).toNat + fmtBytes f ≤ b) (k : Nat) (sat : Bool) (l : List Nat) :
    (storeLanes s e f k sat addr stride act l).1.mem.byte b = s.mem.byte b := by
  have hkeep := storeLanes_induct (P := fun u => u.mem.wf = true ∧ u.mem.byte b = s.mem.byte b) ⟨hwf, rfl⟩
    (fun i hi hactive u x ⟨huwf, hbyte⟩ => ⟨Mem.write_wf _ _ _ huwf,
      (Mem.byte_write_other _ u.mem _ b (by simpa only [toLE_length] using hout i hi hactive) huwf).trans hbyte⟩) k sat l
  exact hkeep.2

/-! ### A chain keeps the attempt -/

theorem storeCompact_cores (s : State) (e f k : Nat) (sat : Bool) (cur act : Nat) (l : List Nat) :
    (storeCompact s e f k sat cur act l).1.cores = s.cores := by
  unfold storeCompact
  refine foldl_keeps (fun a : State × Sticky × Nat => a.1.cores) _ ?_ (lanesOf act) (s, {}, cur)
  exact fun _ _ => rfl

theorem chainIter_cores (o : ChainOps) (e : Nat) (en : Engine) (x : Core) (gm v : Nat) (a : ChainAcc) :
    (chainIter o e en x gm v a).st.cores = a.st.cores := by
  unfold chainIter
  simp only
  split
  · rfl
  · split
    · exact storeCompact_cores _ _ _ _ _ _ _ _
    · exact storeLanes_cores _ _ _ _ _ _ _ _ _

theorem chainGo_cores (o : ChainOps) (e : Nat) (en : Engine) (x : Core) (gm n : Nat) :
    ∀ (v : Nat) (a : ChainAcc), (chainGo o e en x gm n v a).st.cores = a.st.cores := by
  induction n with
  | zero => exact fun _ _ => rfl
  | succ n ih => exact fun v a => (ih (v + 1) _).trans (chainIter_cores o e en x gm v a)

theorem chainRun_attempt (o : ChainOps) (e : Nat) (c : Fin 8) (gm : Nat) (s : State) :
    (chainRun o e c gm s).attempt = s.attempt := by
  have hgo := attempt_of_cores (chainGo_cores o e (s.eng e) (s.core c) gm o.count 0 { st := s, cur := o.st.addr })
  unfold chainRun
  simp only
  split
  · exact (setEng_attempt _ _ _).trans hgo
  · split
    · exact (putScalar_attempt _ _ _ _).trans ((setEng_attempt _ _ _).trans hgo)
    · exact (setEng_attempt _ _ _).trans ((setEng_attempt _ _ _).trans hgo)

/-! ### VLD and VST -/

section Access
variable {c : Fin 8} {eng : Bool} {sa : Fin 64} {reg : Byte} {mask : Fin 8} {w : BitVec 64} {par : Option Nat} {s : State} {q : Quire}
  {x : StreamW} {gm : Nat} (h : Issues c 2 [sa.val] q s) (hlive : (s.eng (engOf c eng)).retired = false)
  (hx : x = streamWOf (s.getS c sa.val).toNat) (hgm : gm = (s.eng (engOf c eng)).getM mask.val)
include h hlive hx hgm

theorem execVld_loads {l : List Nat} {f : Sticky} (hok : accessFault q (s.eng (engOf c eng)) x reg.toNat gm false = none)
    (hload : loadLanes (s.landed c) (engOf c eng) x.fmt x.addr x.stride gm = (l, f))
    (hpar : parityHit (s.landed c) q c 2 par (lanesRead (engOf c eng) x x.addr x.stride gm false) = false) :
    execVld c eng sa reg mask w par s = .next (((timeAccess (s.landed c) c (engOf c eng) false reg.toNat
      (bankExtra x.addr x.stride gm) (laneSpans x gm)).setEng (engOf c eng) fun y =>
        (y.addFlags f).setV reg.toNat gm false l).past c 2 2) := by
  subst hx hgm
  refine congrArg Host.Outcome.next (issue_goesOn h ?_ (by simp))
  simp only [landed_getS, landed_eng, hlive, Bool.false_eq_true, if_false, hok, hload]
  exact reading_right _ _ _ _ _ _ _ hpar

theorem execVld_faults {f : Nat} (hended : q.state ≠ .ended) (hfaulted : q.state ≠ .faulted)
    (hbad : accessFault q (s.eng (engOf c eng)) x reg.toNat gm false = some f) :
    execVld c eng sa reg mask w par s = .next (faultQuire (s.landed c) q.tag f) := by
  subst hx hgm
  refine congrArg Host.Outcome.next (issue_faults h hended hfaulted _ f ?_)
  simp only [landed_getS, landed_eng, hlive, Bool.false_eq_true, if_false, hbad]

theorem execVst_stores {u : State} {f : Sticky} (hok : accessFault q (s.eng (engOf c eng)) x reg.toNat gm true = none)
    (hk : (stgOf w).k ≤ 47)
    (hstore : storeLanes (timeAccess (s.landed c) c (engOf c eng) true reg.toNat (bankExtra x.addr x.stride gm) (laneSpans x gm))
      (engOf c eng) x.fmt (stgOf w).k (stgOf w).sat x.addr x.stride gm ((s.eng (engOf c eng)).getV reg.toNat) = (u, f))
    (hpar : parityHit (s.landed c) q c 2 par (lanesRead (engOf c eng) x x.addr x.stride gm true) = false) :
    execVst c eng sa reg mask w par s = .next ((u.setEng (engOf c eng) (Engine.addFlags · f)).past c 2 2) := by
  have hcores := storeLanes_cores
    (timeAccess (s.landed c) c (engOf c eng) true reg.toNat (bankExtra x.addr x.stride gm) (laneSpans x gm))
    (engOf c eng) x.fmt (stgOf w).k (stgOf w).sat x.addr x.stride gm ((s.eng (engOf c eng)).getV reg.toNat)
  rw [hstore] at hcores
  have hu : u.attempt = (s.landed c).attempt := (attempt_of_cores hcores).trans (timeAccess_attempt _ _ _ _ _ _ _)
  subst hx hgm
  refine congrArg Host.Outcome.next (issue_goesOn h ?_ (by rw [setEng_attempt, hu]))
  simp only [landed_getS, landed_eng, hlive, Bool.false_eq_true, if_false, if_neg hk.not_gt, hok, hstore]
  exact reading_right _ _ _ _ _ _ _ hpar

theorem execVst_faults {f : Nat} (hended : q.state ≠ .ended) (hfaulted : q.state ≠ .faulted) (hk : (stgOf w).k ≤ 47)
    (hbad : accessFault q (s.eng (engOf c eng)) x reg.toNat gm true = some f) :
    execVst c eng sa reg mask w par s = .next (faultQuire (s.landed c) q.tag f) := by
  subst hx hgm
  refine congrArg Host.Outcome.next (issue_faults h hended hfaulted _ f ?_)
  simp only [landed_getS, landed_eng, hlive, Bool.false_eq_true, if_false, if_neg hk.not_gt, hbad]

omit hx hgm in
/-- A shift above 47 is VEC_ILLEGAL, before any condition of the access. -/
theorem execVst_shift (hended : q.state ≠ .ended) (hfaulted : q.state ≠ .faulted) (hk : 47 < (stgOf w).k) :
    execVst c eng sa reg mask w par s = .next (faultQuire (s.landed c) q.tag 0x32) := by
  refine congrArg Host.Outcome.next (issue_faults h hended hfaulted _ 0x32 ?_)
  simp only [landed_eng, hlive, Bool.false_eq_true, if_false, if_pos hk]

end Access

/-! ### ACTLD -/

/-- An engine instruction that issues and faults its quire has no other effect. -/
theorem issueEng_faults {c : Fin 8} {eng : Bool} {sa : Fin 64} {n words cycles : Nat} {q : Quire} {s : State}
    (h : IssuesEng c eng sa n words q s) (hended : q.state ≠ .ended) (hfaulted : q.state ≠ .faulted)
    {body : Quire → State → State} {code : Nat} (hb : body q (s.landed c) = faultQuire (s.landed c) q.tag code) :
    issueEng c eng sa n words cycles body s = faultQuire (s.landed c) q.tag code := by
  refine issue_faults h.core hended hfaulted _ code ?_
  simp only [if_neg h.block.not_gt, landed_eng, h.live, Bool.false_eq_true, if_false, hb]

section Actld
variable {c : Fin 8} {eng : Bool} {sa : Fin 64} {table : Fin 4} {par : Option Nat} {s : State} {q : Quire} {a : Nat}
  (h : IssuesEng c eng sa 1 1 q s) (ha : a = bits (s.getS c sa.val).toNat 0 22)
include h ha

theorem execActld_loads {l : List Nat} (haddr : ¬ (a % 64 ≠ 0 ∨ (!q.spadWin.holds a (a + 320)) = true))
    (hl : l = leList 4 (s.mem.read (spadAt (engOf c eng) + a) 320))
    (hpar : parityHit (s.landed c) q c 1 par (wordIn · (spadAt (engOf c eng) + a) 320) = false) (htable : tableOk l = true) :
    execActld c eng sa table par s = .next (((timeActld (s.landed c) c (engOf c eng) a).setEng (engOf c eng) fun x =>
      { x with acts := tset x.acts table.val l }).past c 1 1) := by
  subst ha hl
  refine congrArg Host.Outcome.next (issueEng_goesOn h ?_ (by simp))
  simp only [landed_getS, if_neg haddr, State.rd, landed_mem, if_pos htable]
  exact reading_right _ _ _ _ _ _ _ hpar

/-- A table that fails its check faults the quire. -/
theorem execActld_badTable {l : List Nat} (haddr : ¬ (a % 64 ≠ 0 ∨ (!q.spadWin.holds a (a + 320)) = true))
    (hl : l = leList 4 (s.mem.read (spadAt (engOf c eng) + a) 320))
    (hpar : parityHit (s.landed c) q c 1 par (wordIn · (spadAt (engOf c eng) + a) 320) = false) (htable : tableOk l = false)
    (hended : q.state ≠ .ended) (hfaulted : q.state ≠ .faulted) :
    execActld c eng sa table par s = .next (faultQuire (s.landed c) q.tag 0x35) := by
  subst ha hl
  refine congrArg Host.Outcome.next (issueEng_faults h hended hfaulted ?_)
  simp only [landed_getS, if_neg haddr, State.rd, landed_mem, htable, Bool.false_eq_true, if_false]
  exact reading_right _ _ _ _ _ _ _ hpar

/-- A table off a multiple of 64, or outside the window, faults the quire. -/
theorem execActld_badAddress (haddr : a % 64 ≠ 0 ∨ (!q.spadWin.holds a (a + 320)) = true) (hended : q.state ≠ .ended)
    (hfaulted : q.state ≠ .faulted) : execActld c eng sa table par s = .next (faultQuire (s.landed c) q.tag 0x33) := by
  subst ha
  refine congrArg Host.Outcome.next (issueEng_faults h hended hfaulted ?_)
  simp only [landed_getS, if_pos haddr]

end Actld

/-! ### CHAIN -/

section Chain
variable {c : Fin 8} {eng : Bool} {sa : Fin 64} {mask : Fin 8} {mz : Bool} {stages : List (BitVec 64)} {par : Option Nat} {s : State}
  {q : Quire} {o : ChainOps} {gm : Nat}
  (h : Issues c (1 + stages.length) ((List.range 4).map (sa.val + ·) ++ sRegs (stages.flatMap fun w => (stgOf w).srcs)) q s)
  (hsa : sa.val ≤ 60) (hlive : (s.eng (engOf c eng)).retired = false)
  (ho : o = chainOpsOf (s.getS c sa.val).toNat (s.getS c (sa.val + 1)).toNat (s.getS c (sa.val + 2)).toNat
    (s.getS c (sa.val + 3)).toNat stages)
  (hgm : gm = (s.eng (engOf c eng)).getM mask.val)
include h hsa hlive ho hgm

theorem execChain_runs (hok : o.fault q (s.eng (engOf c eng)) gm = none)
    (hpar : parityHit (s.landed c) q c (1 + stages.length) par (o.reads (engOf c eng) gm) = false) :
    execChain c eng sa mask mz stages par s
      = .next ((chainRun o (engOf c eng) c gm (o.time (engOf c eng) c gm mask.val (s.landed c))).past c
          (1 + stages.length) (1 + stages.length)) := by
  subst ho hgm
  refine congrArg Host.Outcome.next (issue_goesOn h ?_ ((chainRun_attempt _ _ _ _ _).trans (ChainOps.time_attempt _ _ _ _ _ _)))
  simp only [if_neg hsa.not_gt, landed_getS, landed_eng, hlive, Bool.false_eq_true, if_false, Nat.add_zero, hok]
  exact reading_right _ _ _ _ _ _ _ hpar

theorem execChain_faults {f : Nat} (hbad : o.fault q (s.eng (engOf c eng)) gm = some f) (hended : q.state ≠ .ended)
    (hfaulted : q.state ≠ .faulted) :
    execChain c eng sa mask mz stages par s = .next (faultQuire (s.landed c) q.tag f) := by
  subst ho hgm
  refine congrArg Host.Outcome.next (issue_faults h hended hfaulted _ f ?_)
  simp only [if_neg hsa.not_gt, landed_getS, landed_eng, hlive, Bool.false_eq_true, if_false, Nat.add_zero, hbad]

end Chain

/-! ### The first three fault conditions of a chain (R98) -/

section Fault
variable {o : ChainOps}

theorem ChainOps.illegal_of_size (h : o.stages = [] ∨ 8 < o.stages.length ∨ o.count = 0 ∨ o.last = 0 ∨ 64 < o.last)
    (acts : Table (List Nat)) : o.illegal acts = true := by
  unfold ChainOps.illegal
  rcases h with h | h | h | h | h <;> simp [h]

variable {q : Quire} {en : Engine} {gm : Nat}

theorem ChainOps.fault_illegal (h : o.illegal en.acts = true) : o.fault q en gm = some 0x32 := if_pos h

theorem ChainOps.fault_badFormat (hlegal : o.illegal en.acts = false) (hformat : o.badFormat = true) :
    o.fault q en gm = some 0x31 := by
  simp only [ChainOps.fault, hlegal, hformat, Bool.false_eq_true, if_false, if_true]

theorem ChainOps.fault_unaligned (hlegal : o.illegal en.acts = false) (hformat : o.badFormat = false)
    (hoff : o.aligned o.l0 false = false ∨ o.aligned o.l1 false = false ∨ o.aligned o.st true = false) :
    o.fault q en gm = some 0x33 := by
  simp only [ChainOps.fault, hlegal, hformat, Bool.false_eq_true, if_false]
  refine if_pos ?_
  rcases hoff with h | h | h <;> simp [h]

end Fault

/-- Settles O39: each instruction by the lemma of its way through the checks; a store leaves what no active element covers. -/
theorem vector_memory_and_chains_run : Obligations.Vector_memory_and_chains_run := by
  unfold Obligations.Vector_memory_and_chains_run
  refine ⟨?vld, ?vst, ?frame, ?accessFaults, ?actld, ?actldAddress, ?chain, ?chainFault⟩
  case vld =>
    exact fun c eng sa reg mask w par s q x gm l f h hlive hx hgm hok hload hpar =>
      execVld_loads (w := w) h hlive hx hgm hok hload hpar
  case vst =>
    exact fun c eng sa reg mask w par s u q x gm f h hlive hx hgm hok hk hstore hpar =>
      execVst_stores h hlive hx hgm hok hk hstore hpar
  case frame => exact fun s e f k sat addr stride gm l b hwf hout => storeLanes_byte_other hwf hout k sat l
  case accessFaults =>
    exact fun c eng sa reg mask w par s q x gm f h hlive hended hfaulted hx hgm =>
      ⟨execVld_faults (w := w) h hlive hx hgm hended hfaulted, execVst_faults h hlive hx hgm hended hfaulted,
        execVst_shift h hlive hended hfaulted⟩
  case actld =>
    intro c eng sa table par s q a l h ha halign hwin hl hpar
    have haddr : ¬ (a % 64 ≠ 0 ∨ (!q.spadWin.holds a (a + 320)) = true) := by simp [halign, hwin]
    exact ⟨execActld_loads h ha haddr hl hpar, execActld_badTable h ha haddr hl hpar⟩
  case actldAddress =>
    intro c eng sa table par s q a h ha haddr hended hfaulted
    exact execActld_badAddress h ha (haddr.imp_right fun hout => by simp [hout]) hended hfaulted
  case chain =>
    exact fun c eng sa mask mz stages par s q o gm h hsa hlive ho hgm =>
      ⟨execChain_runs (mz := mz) h hsa hlive ho hgm, fun f => execChain_faults (mz := mz) h hsa hlive ho hgm⟩
  case chainFault =>
    exact fun o q en gm => ⟨fun hsize => ChainOps.fault_illegal (ChainOps.illegal_of_size hsize en.acts), ChainOps.fault_badFormat,
      ChainOps.fault_unaligned⟩

end Sys2Proof.Machine
end

section
/-!
SUPPORT. PERM: that the wait of a register-mode instruction changes no quire, no byte and no vector register, and what a lane of PERM
selects.
-/

namespace Sys2Proof.Machine
open Sys2Proof

theorem engOf_lt (c : Fin 8) (eng : Bool) : engOf c eng < 16 := by
  unfold engOf
  split <;> omega

/-- A change of an engine that keeps a part of it keeps that part of every engine. -/
theorem setEng_keeps {α : Type} (g : Engine → α) (s : State) (e d : Nat) {f : Engine → Engine} (hf : ∀ x, g (f x) = g x) :
    g ((s.setEng e f).eng d) = g (s.eng d) := by
  unfold State.setEng State.eng
  split
  case isFalse => rfl
  case isTrue he =>
    by_cases hd : d = e
    · subst hd
      simp [vmod, he, hf]
    · simp [vmod, Ne.symm hd]

@[simp] theorem timeVec_mem (s : State) (c : Fin 8) (e cost : Nat) (reads writes : List Nat) :
    (timeVec s c e cost reads writes).mem = s.mem := by
  simp [timeVec, State.vecDone, State.queued]

@[simp] theorem timeVec_quires (s : State) (c : Fin 8) (e cost : Nat) (reads writes : List Nat) :
    (timeVec s c e cost reads writes).quires = s.quires := by
  simp [timeVec, State.vecDone, State.queued]

@[simp] theorem setCore_eng (s : State) (c : Fin 8) (f : Core → Core) (d : Nat) : (s.setCore c f).eng d = s.eng d := rfl

theorem queued_v (s : State) (c : Fin 8) (e : Nat) (vec : Bool) (d : Nat) : ((s.queued c e vec).eng d).v = (s.eng d).v := by
  unfold State.queued
  exact setEng_keeps Engine.v _ e d fun _ => rfl

theorem vecDone_v (s : State) (c : Fin 8) (e start next : Nat) (writes : List Nat) (at_ : Nat) (fl : List Flight) (d : Nat) :
    ((s.vecDone c e start next writes at_ fl).eng d).v = (s.eng d).v := by
  unfold State.vecDone
  rw [setCore_eng]
  exact setEng_keeps Engine.v s e d fun _ => rfl

@[simp] theorem timeVec_v (s : State) (c : Fin 8) (e cost : Nat) (reads writes : List Nat) (d : Nat) :
    ((timeVec s c e cost reads writes).eng d).v = (s.eng d).v :=
  (vecDone_v _ _ _ _ _ _ _ _ d).trans (queued_v s c e true d)

theorem landed_quires (s : State) (c : Fin 8) : (s.landed c).quires = s.quires := by
  unfold State.landed
  split <;> rfl

/-- A lane of PERM is the lane of the first two sources that its index element selects. -/
theorem stageLane_perm {t : Stg} (hperm : t.opc = 0x90) (acts : Table (List Nat)) (va vb vi : List Nat) (i : Nat) :
    (stageLane t acts va vb vi i).1 = permLane va vb (vi.getD i 0) := by
  have hcls : t.cls = 9 := by simp [Stg.cls, hperm]
  have hpos : t.pos = 0 := by simp [Stg.pos, hperm]
  simp only [stageLane, hcls, hpos, if_true]

/-- Settles O55: PERM goes on with the lanes of `regLanes`, whose wait keeps the registers, and each active one is a `permLane`. -/
theorem perm_selects_lanes_by_index : Obligations.Perm_selects_lanes_by_index := by
  unfold Obligations.Perm_selects_lanes_by_index
  intro c eng reg mask mz w s q u va vb vi hperm h hlive hlegal hformat hu hva hvb hvi
  have hcls : (stgOf w).cls = 9 := by simp [Stg.cls, hperm]
  have hunpack : (stgOf w).isUnpack = false := by simp [Stg.isUnpack, hperm]
  have hrun := regVec_goesOn (row := fun t => t.opc == 0x90) (mz := mz) (beq_iff_eq.2 hperm) h hlive hlegal hformat hu
  rw [Stg.effect_lanes (by omega)] at hrun
  refine ⟨_, congrArg Host.Outcome.next hrun, ?quires, ?mem, fun i hi => ?lane⟩
  case quires => simp [State.past, regLanes, hu, landed_quires]
  case mem => simp [State.past, regLanes, hu, landed_mem]
  case lane =>
    have hold : (u.eng (engOf c eng)).getV reg.toNat = (s.eng (engOf c eng)).getV reg.toNat := by
      simp only [Engine.getV, hu, timeVec_v, landed_eng]
    refine (regLanes_lane (engOf_lt c eng) c reg.toNat _ mz u (by omega) hunpack hi).trans ?_
    rw [stageLane_perm hperm, hold, hva, hvb, hvi]
    rfl

end Sys2Proof.Machine
end

section
/-!
SUPPORT. What the operations of a core instruction leave alone: the landing of DSP writes every field but the d registers, the writes in
flight and the DSP's flags; a register write, a store and a wait the attempt on each core.
-/

namespace Sys2Proof.Machine
open Sys2Proof

/-! ### Changes of a core -/

/-- A change of a core is what it makes of that core. -/
theorem setCore_congr {s : State} {c : Fin 8} {f g : Core → Core} (h : f (s.core c) = g (s.core c)) :
    s.setCore c f = s.setCore c g :=
  congrArg (fun x => { s with cores := s.cores.set c x }) h

theorem setCore_of_fixed {s : State} {c : Fin 8} {f : Core → Core} (h : f (s.core c) = s.core c) : s.setCore c f = s := by
  rw [setCore_congr (g := id) h]
  simp [State.setCore, vmod]

/-! ### The landing of DSP writes (R127) -/

theorem landCycle_eq (x : Core) (t : Nat) :
    ∃ d p f, landCycle x t = { x with d := d, pend := p, cx := { x.cx with flags := f } } := by
  suffices h : ∀ (g : Core → DspPend → Core), (∀ y p, ∃ d f, g y p = { y with d := d, cx := { y.cx with flags := f } }) →
      ∀ (l : List DspPend) (y : Core), ∃ d f, l.foldl g y = { y with d := d, cx := { y.cx with flags := f } } by
    unfold landCycle
    extract_lets old x1
    obtain ⟨d, f, hx1⟩ : ∃ d f, x1 = { x with d := d, cx := { x.cx with flags := f } } := by
      refine h _ (fun y p => ?_) _ x
      split
      · exact ⟨_, _, rfl⟩
      · exact ⟨_, _, rfl⟩
    exact ⟨d, _, f, by rw [hx1]⟩
  intro g hg l
  induction l with
  | nil => exact fun y => ⟨_, _, rfl⟩
  | cons p l ih =>
    intro y
    obtain ⟨d, f, hp⟩ := hg y p
    obtain ⟨d', f', hl⟩ := ih (g y p)
    exact ⟨d', f', by rw [List.foldl_cons, hl, hp]⟩

theorem landBefore_eq (t : Nat) (x : Core) :
    ∃ d p f, landBefore t x = { x with d := d, pend := p, cx := { x.cx with flags := f } } := by
  unfold landBefore
  generalize sortBy (· ≤ ·) ((x.pend.map (·.land)).filter (· < t)) = l
  induction l generalizing x with
  | nil => exact ⟨_, _, _, rfl⟩
  | cons t l ih =>
    obtain ⟨d, p, f, ht⟩ := landCycle_eq x t
    obtain ⟨d', p', f', hl⟩ := ih (landCycle x t)
    exact ⟨d', p', f', by rw [List.foldl_cons, hl, ht]⟩

/-- The core on which an instruction runs differs from the core before it in what the DSP's landed writes changed. -/
theorem landed_core_eq (s : State) (c : Fin 8) :
    ∃ d p f, (s.landed c).core c = { s.core c with d := d, pend := p, cx := { (s.core c).cx with flags := f } } := by
  unfold State.landed
  split
  · exact ⟨_, _, _, rfl⟩
  · rw [setCore_core]
    exact landBefore_eq _ _

/-- What ignores the d registers, the writes in flight and the flags reads the same on the landed core. -/
theorem landed_reads {α : Type} (g : Core → α)
    (hg : ∀ (x : Core) d p f, g { x with d := d, pend := p, cx := { x.cx with flags := f } } = g x) (s : State) (c : Fin 8) :
    g ((s.landed c).core c) = g (s.core c) := by
  obtain ⟨d, p, f, h⟩ := landed_core_eq s c
  rw [h, hg]

@[simp] theorem landed_inHandler (s : State) (c : Fin 8) : ((s.landed c).core c).inHandler = (s.core c).inHandler :=
  landed_reads _ (fun _ _ _ _ => rfl) s c

@[simp] theorem landed_loops (s : State) (c : Fin 8) : ((s.landed c).core c).loops = (s.core c).loops :=
  landed_reads _ (fun _ _ _ _ => rfl) s c

@[simp] theorem landed_pc (s : State) (c : Fin 8) : ((s.landed c).core c).cx.pc = (s.core c).cx.pc :=
  landed_reads (·.cx.pc) (fun _ _ _ _ => rfl) s c

@[simp] theorem landed_acb (s : State) (c : Fin 8) : ((s.landed c).core c).cx.acb = (s.core c).cx.acb :=
  landed_reads (·.cx.acb) (fun _ _ _ _ => rfl) s c

@[simp] theorem landed_acl (s : State) (c : Fin 8) : ((s.landed c).core c).cx.acl = (s.core c).cx.acl :=
  landed_reads (·.cx.acl) (fun _ _ _ _ => rfl) s c

@[simp] theorem landed_ring (s : State) (c : Fin 8) (n : Nat) : ((s.landed c).core c).ring n = (s.core c).ring n :=
  landed_reads (Core.ring · n) (fun _ _ _ _ => rfl) s c

@[simp] theorem landed_sigs (s : State) (c : Fin 8) : ((s.landed c).core c).sigs = (s.core c).sigs :=
  landed_reads _ (fun _ _ _ _ => rfl) s c

@[simp] theorem landed_takes (s : State) (c : Fin 8) : ((s.landed c).core c).takes = (s.core c).takes :=
  landed_reads _ (fun _ _ _ _ => rfl) s c

@[simp] theorem landed_cycle (s : State) (c : Fin 8) : ((s.landed c).core c).cycle = (s.core c).cycle :=
  landed_reads _ (fun _ _ _ _ => rfl) s c

theorem landed_of_inHandler {s : State} {c : Fin 8} (h : (s.core c).inHandler = true) : s.landed c = s := if_pos h

@[simp] theorem landed_cfg (s : State) (c : Fin 8) : (s.landed c).cfg = s.cfg := by
  unfold State.landed
  split <;> rfl

/-! ### What keeps the attempt on each core -/

@[simp] theorem readyIn_attempt (s : State) (c : Fin 8) (r lat : Nat) : (s.setCore c (Core.readyIn r lat)).attempt = s.attempt :=
  setCore_attempt (fun _ => rfl) fun _ => rfl

@[simp] theorem putA_attempt (s : State) (c : Fin 8) (r : Nat) (v : BitVec 32) : (s.putA c r v).attempt = s.attempt :=
  setCore_attempt (fun x => by split <;> rfl) fun x => by split <;> rfl

@[simp] theorem coreWr_cores (s : State) (a : Nat) (b : Bytes) : (s.coreWr a b).cores = s.cores := by
  unfold State.coreWr
  split <;> rfl

@[simp] theorem coreWr_attempt (s : State) (a : Nat) (b : Bytes) : (s.coreWr a b).attempt = s.attempt :=
  attempt_of_cores (coreWr_cores s a b)

@[simp] theorem idle_attempt (s : State) (c : Fin 8) (n : Nat) : (s.setCore c (Core.idle n)).attempt = s.attempt :=
  setCore_attempt (fun _ => rfl) fun _ => rfl

@[simp] theorem waitCore_attempt (s : State) (c : Fin 8) (t : Nat) : (s.waitCore c t).attempt = s.attempt :=
  setCore_attempt (fun _ => rfl) fun _ => rfl

/-- The wait of a load or a store for the engines, if there is one, is cycles without issue, counted on an engine (R64, R118). -/
theorem memWait_eq (s : State) (c : Fin 8) (a size : Nat) (store : Bool) :
    s.memWait c a size store = s ∨ ∃ e n, s.memWait c a size store = (s.setCore c (Core.idle n)).vecLate e n := by
  unfold State.memWait
  split
  · extract_lets tm t n
    by_cases hn : n = 0
    · exact .inl (if_pos hn)
    · exact .inr ⟨_, n, if_neg hn⟩
  · exact .inl rfl

@[simp] theorem memWait_attempt (s : State) (c : Fin 8) (a size : Nat) (store : Bool) :
    (s.memWait c a size store).attempt = s.attempt := by
  rcases memWait_eq s c a size store with h | ⟨e, n, h⟩
  · rw [h]
  · simp [h]

/-! ### What keeps memory -/

@[simp] theorem vecLate_mem (s : State) (e n : Nat) : (s.vecLate e n).mem = s.mem := by
  simp [State.vecLate, State.engCount]

@[simp] theorem memWait_mem (s : State) (c : Fin 8) (a size : Nat) (store : Bool) : (s.memWait c a size store).mem = s.mem := by
  rcases memWait_eq s c a size store with h | ⟨e, n, h⟩
  · rw [h]
  · simp [h]

/-- A store of a core changes no byte of memory outside the bytes stored. -/
theorem coreWr_byte_other {s : State} {a b : Nat} {l : Bytes} (hwf : s.mem.wf = true) (hout : b < a ∨ a + l.length ≤ b) :
    (s.coreWr a l).mem.byte b = s.mem.byte b := by
  unfold State.coreWr
  split
  · rfl
  · exact Mem.byte_write_other l s.mem a b hout hwf

/-! ### Registers that a handler may not write (R134) -/

theorem putS_of_not_mayWriteS {s : State} {c : Fin 8} {r : Nat} (h : (s.core c).mayWriteS r = false) (v : BitVec 64) :
    s.putS c r v = s := setCore_of_fixed (by simp [h])

theorem putA_of_not_mayWriteA {s : State} {c : Fin 8} {r : Nat} (h : (s.core c).mayWriteA r = false) (v : BitVec 32) :
    s.putA c r v = s := setCore_of_fixed (by simp [h])

end Sys2Proof.Machine
end

section
/-!
SUPPORT. An instruction that does not issue: on a core without a leaf, on one that waits, and outside the code region.
-/

namespace Sys2Proof.Machine
open Sys2Proof

section NoIssue
variable {c : Fin 8} {words cycles : Nat} {reads : List Nat} {body : Quire → State → State} {s : State}

theorem issue_without_leaf (h : (s.core c).leaf = none) : issue c words cycles reads body s = s := by
  simp [issue, State.live, h]

theorem issue_waiting (hwait : (s.core c).wait ≠ none) (hleaf : (s.core c).inHandler = false) :
    issue c words cycles reads body s = s := by
  unfold issue
  cases s.live c with
  | none => rfl
  | some q => exact if_pos (by simp [Option.isSome_iff_ne_none.2 hwait, hleaf])

/-- Outside the code region of its quire a leaf's instruction is SEQ_FETCH (R112, R135). -/
theorem issue_outside_code {q : Quire} (hleaf : (s.core c).leaf = some q.tag) (hq : tget? s.quires q.tag.toNat = some q)
    (hwait : (s.core c).wait = none) (hhandler : (s.core c).inHandler = false)
    (hcode : q.code.len < (s.core c).cx.pc + 8 * words) :
    issue c words cycles reads body s = faultQuire s q.tag 0x43 := by
  have hlive : s.live c = some q := by simp [State.live, hleaf, hq]
  have hfault : faultCore s c 0x43 = faultQuire s q.tag 0x43 := by simp [faultCore, hleaf]
  simp [issue, hlive, hwait, hhandler, hcode, hfault]

end NoIssue

/-- Settles O33: each of the instructions is an `issue` of one word, which a core without a leaf and a core that waits do not come to,
and which faults outside the code region. -/
theorem instructions_outside_a_leaf_or_its_code : Obligations.Instructions_outside_a_leaf_or_its_code := by
  unfold Obligations.Instructions_outside_a_leaf_or_its_code
  intro c i s hi
  have hissue : ∃ reads body, exec i s = .next (issue c 1 1 reads body s) := by
    rcases hi with ⟨op, rd, ra, rb, f, imm, rfl⟩ | ⟨rd, ra, imm, par, rfl⟩ | ⟨ra, rb, imm, rfl⟩ | ⟨rd, ra, rfl⟩ | ⟨rd, ra, rfl⟩
      | ⟨rd, rb, rfl⟩ | ⟨rd, ra, rfl⟩ | ⟨op, ra, rb, imm, rfl⟩ | ⟨ra, imm, n, rfl⟩ | ⟨ra, imm, rfl⟩ | ⟨rd, ra, imm, err, rfl⟩
    all_goals exact ⟨_, _, rfl⟩
  obtain ⟨reads, body, hexec⟩ := hissue
  refine ⟨fun hleaf => ?_, fun hwait hhandler => ?_, fun q hleaf hq hwait hhandler hcode => ?_⟩
  · rw [hexec, issue_without_leaf hleaf]
  · rw [hexec, issue_waiting hwait hhandler]
  · rw [hexec, issue_outside_code hleaf hq hwait hhandler hcode]

end Sys2Proof.Machine
end

section
/-!
SUPPORT. The scalar unit: what each instruction does when it issues.
-/

namespace Sys2Proof.Machine
open Sys2Proof

section Scalar
variable {c : Fin 8} {rd ra rb : Fin 64} {imm : BitVec 32} {s : State} {q : Quire}

theorem execScalarArith_issues {op : BitVec 6} {i : Bool} {v : BitVec 64} (h : Issues c 1 (scalarReads op.toNat rd ra rb i) q s)
    (hv : scalarOp op.toNat (s.getS c rd) (s.getS c ra) (if i then imm.signExtend 64 else s.getS c rb) imm = some v) :
    execScalarArith c op rd ra rb i imm s
      = .next ((if op = 8 then ((s.landed c).setCore c (Core.readyIn rd.val 3)).putS c rd v else (s.landed c).putS c rd v).past
          c 1 1) := by
  refine congrArg Host.Outcome.next (issue_goesOn h ?_ ?_)
  · simp only [landed_getS, hv]
  · split <;> simp [putS_attempt]

theorem execLds_loads {par : Option Nat} {a : Nat} (h : Issues c 1 [ra.val] q s)
    (ha : coreAccess (s.landed c) c q (s.getS c ra + imm.signExtend 64).toNat 8 false none = .ok a)
    (hpar : parityHit (s.landed c) q c 1 par (wordIn · a 8) = false) :
    execLds c rd ra imm par s
      = .next (((((s.landed c).memWait c (s.getS c ra + imm.signExtend 64).toNat 8 false).setCore c (Core.readyIn rd.val 6)).putS c rd
        (BitVec.ofNat 64 (leNat ((s.landed c).coreRd a 8)))).past c 1 1) := by
  refine congrArg Host.Outcome.next (issue_goesOn h ?_ (by simp [putS_attempt]))
  simp only [landed_getS, ha]
  exact reading_right _ _ _ _ _ _ _ hpar

theorem execSts_stores {a : Nat} (h : Issues c 1 [ra.val, rb.val] q s)
    (ha : coreAccess (s.landed c) c q (s.getS c ra + imm.signExtend 64).toNat 8 true none = .ok a) :
    execSts c ra rb imm s = .next ((((s.landed c).memWait c (s.getS c ra + imm.signExtend 64).toNat 8 true).coreWr a
      (toLE 8 (s.getS c rb).toNat)).past c 1 1) := by
  refine congrArg Host.Outcome.next (issue_goesOn h ?_ (by simp))
  simp only [landed_getS, ha]

/-- MOVA writes a plain register with any value, a circular one with a value inside its ring. -/
theorem execMova_writes (h : Issues c 1 [ra.val] q s)
    (hring : rd.val % 16 < 12 ∨ ∃ r, (s.core c).ring (rd.val % 16 - 12) = some r ∧ r.base ≤ ((s.getS c ra).extractLsb' 0 32).toNat
      ∧ ((s.getS c ra).extractLsb' 0 32).toNat < r.base + r.len) :
    execMova c rd ra s = .next (((s.landed c).putA c (rd.val % 16) ((s.getS c ra).extractLsb' 0 32)).past c 1 1) := by
  refine congrArg Host.Outcome.next (issue_goesOn h ?_ (by simp))
  simp only [landed_getS, landed_ring]
  split
  case isTrue => rfl
  case isFalse hcircular =>
    obtain ⟨r, hr, hlo, hhi⟩ := hring.resolve_left hcircular
    simp only [hr]
    exact if_pos ⟨hlo, hhi⟩

theorem execMovsa_writes (h : Issues c 1 [] q s) :
    execMovsa c rd ra s = .next (((s.landed c).putS c rd ((s.getA c (ra.val % 16)).setWidth 64)).past c 1 1) := by
  refine congrArg Host.Outcome.next (issue_goesOn h ?_ (putS_attempt _ _ _ _))
  simp only [landed_getA]

theorem execMovsb_writes (h : Issues c 1 [] q s) :
    execMovsb c rd rb s = .next (((s.landed c).putS c rd (BitVec.ofNat 64
      (if rb.val % 8 < 4 then tget (s.core c).cx.acb (rb.val % 8) 0 else tget (s.core c).cx.acl (rb.val % 8 - 4) 0))).past
      c 1 1) := by
  refine congrArg Host.Outcome.next (issue_goesOn h ?_ (putS_attempt _ _ _ _))
  simp only [landed_acb, landed_acl]

theorem execMovbs_writes (h : Issues c 1 [ra.val] q s) (hhandler : (s.core c).inHandler = true) :
    execMovbs c rd ra s = .next ((s.setCore c fun x => { x with cx :=
      if rd.val % 8 < 4 then { x.cx with acb := tset x.cx.acb (rd.val % 8) ((s.getS c ra).toNat % 2 ^ 32) }
      else { x.cx with acl := tset x.cx.acl (rd.val % 8 - 4) ((s.getS c ra).toNat % 2 ^ 32) } }).past c 1 1) := by
  have hlanded := landed_of_inHandler hhandler
  refine congrArg Host.Outcome.next (issue_goesOn h ?_ ?_)
  · simp only [hlanded, hhandler, if_true]
  · rw [hlanded]
    exact setCore_attempt (fun _ => rfl) fun _ => rfl

end Scalar

/-- Settles O32: each instruction by the lemma of its issue; what a handler may not write stays. -/
theorem scalar_instructions_write_their_destination : Obligations.Scalar_instructions_write_their_destination := by
  unfold Obligations.Scalar_instructions_write_their_destination
  refine ⟨?arith, ?product, ?load, ?store, ?storeFrame, ?plain, ?circular, ?movsa, ?movsb, ?movbs, ?handlerS, ?handlerA⟩
  case arith =>
    intro c op rd ra rb i imm s q v h hv hop
    exact (execScalarArith_issues h hv).trans (by rw [if_neg hop])
  case product => exact fun c rd ra rb i imm s q h => execScalarArith_issues (op := 8) h rfl
  case load => exact fun c rd ra imm par s q a h ha hpar => execLds_loads h ha hpar
  case store => exact fun c ra rb imm s q a h ha => execSts_stores h ha
  case storeFrame =>
    intro c ra rb imm s q a h ha hwf t ht b hb
    obtain rfl := Host.Outcome.next.inj ((execSts_stores h ha).symm.trans ht)
    refine (coreWr_byte_other (by rwa [memWait_mem, landed_mem]) (by rwa [toLE_length])).trans ?_
    rw [memWait_mem, landed_mem]
  case plain => exact fun c rd ra s q h hplain => execMova_writes h (.inl hplain)
  case circular => exact fun c rd ra s q r h _ hr hlo hhi => execMova_writes h (.inr ⟨r, hr, hlo, hhi⟩)
  case movsa => exact fun c rd ra s q h => execMovsa_writes h
  case movsb => exact fun c rd rb s q h => execMovsb_writes h
  case movbs => exact fun c rd ra s q h hhandler => execMovbs_writes h hhandler
  case handlerS =>
    intro s c r v hhandler hr
    rw [putS_of_not_mayWriteS (by simp [Core.mayWriteS, hhandler, hr])]
  case handlerA =>
    intro s c r v hhandler hr
    have hkept : ¬ (8 ≤ r ∧ r ≤ 11) := by omega
    rw [putA_of_not_mayWriteA (by simp [Core.mayWriteA, hhandler, hkept])]

end Sys2Proof.Machine
end

section
/-!
SUPPORT. Branches and hardware loops: what BRANCH and DLOOP do when they issue, where a taken branch of a leaf leads, and what the
loops count past an instruction.
-/

namespace Sys2Proof.Machine
open Sys2Proof

/-! ### Past an instruction of a loop (R128, R129) -/

/-- The ring of a loop advances by one at the end of an iteration. -/
def Core.advanceRing (x : Core) (ring : Nat) : Core := if ring = 0 then x else { x with roff := (x.roff + 1) % ring }

theorem Core.advanceRing_eq (x : Core) (ring : Nat) :
    x.advanceRing ring = { x with roff := if ring = 0 then x.roff else (x.roff + 1) % ring } := by
  unfold Core.advanceRing
  split <;> rfl

/-- What the innermost loop does past `m` instructions of its body: it counts them; past the last of the body it goes back to its top
while iterations remain; after the last iteration it is left, and counts as its LEN instructions of the loop around it. -/
theorem loopStep_loop {x : Core} {l : LoopCtx} {rest : List LoopCtx} (hloops : x.loops = l :: rest) (n m : Nat) :
    loopStep (n + 1) m x = if m < l.left then { x with loops := { l with left := l.left - m } :: rest }
      else if l.remaining ≤ 1 then loopStep n l.len { x.advanceRing l.ring with loops := rest }
      else Core.idle (if l.outer then 2 else 0) { x.advanceRing l.ring with
        cx := { (x.advanceRing l.ring).cx with pc := l.top }
        loops := { l with remaining := l.remaining - 1, iter := l.iter + 1, left := l.len } :: rest } := by
  rw [loopStep]
  split
  case h_1 hnil => cases hnil.symm.trans hloops
  case h_2 l' rest' hcons =>
    obtain ⟨rfl, rfl⟩ := List.cons.inj (hcons.symm.trans hloops)
    rfl

theorem loopStep_outside {x : Core} (hloops : x.loops = []) (n m : Nat) : loopStep n m x = x := by
  cases n with
  | zero => rfl
  | succ n => simp only [loopStep, hloops]

/-! ### BRANCH (R113, R129) -/

section Branch
variable {c : Fin 8} {op : BitVec 6} {ra rb : Fin 64} {imm : BitVec 32} {s : State} {q : Quire}
  (h : Issues c 1 (if op = 0 then [] else [ra.val, rb.val]) q s) (hloops : (s.core c).loops = [])
include h hloops

theorem execBranch_falls (htaken : branchTaken op.toNat (s.getS c ra) (s.getS c rb) = some false) :
    execBranch c op ra rb imm s = .next ((s.landed c).past c 1 1) := by
  refine congrArg Host.Outcome.next (issue_goesOn h ?_ rfl)
  simp [hloops, htaken]

theorem execBranch_goes (htaken : branchTaken op.toNat (s.getS c ra) (s.getS c rb) = some true) :
    execBranch c op ra rb imm s = .next (((s.landed c).setCore c fun x => { x with
      cx := { x.cx with pc := lowBits 61 ((x.cx.pc / 8 : Nat) + imm.toInt - 1) * 8 }
      now := x.now + 2, issueWait := x.issueWait + 2 }).past c 1 1) := by
  refine congrArg Host.Outcome.next (issue_goesOn h ?_ (setCore_attempt (fun _ => rfl) fun _ => rfl))
  simp only [landed_getS, landed_loops, hloops, htaken]
  rfl

end Branch

/-- One word past the counter that a taken branch sets, modulo 2^64, stands its target. -/
theorem branchTarget_eq {pc : Nat} (halign : pc % 8 = 0) (imm : Int) :
    (lowBits 61 ((pc / 8 : Nat) + imm - 1) * 8 + 8 * 1) % 2 ^ 64 = lowBits 64 (pc + 8 * imm) := by
  unfold lowBits
  omega

/-- Outside a loop a leaf's counter goes on past its words. -/
theorem issued_pc_of_no_loop {x : Core} (hhandler : x.inHandler = false) (hloops : x.loops = []) (words cycles : Nat) :
    (issued words cycles x).cx.pc = (x.cx.pc + 8 * words) % 2 ^ 64 := by
  simp [issued, hhandler, loopStep_outside, hloops]

/-! ### DLOOP (R128, R129) -/

/-- The ring of a size is selected: the rotation is cut to it, 0 leaving ring and rotation as they are (R128). -/
def Core.withRing (r : Nat) (x : Core) : Core :=
  if r = 0 ∨ r = x.rsize then x else { x with rsize := r, roff := x.roff % r }

/-- It changes nothing but the size and the rotation. -/
theorem Core.withRing_eq (r : Nat) (x : Core) : ∃ size off, x.withRing r = { x with rsize := size, roff := off } := by
  unfold Core.withRing
  split
  · exact ⟨_, _, rfl⟩
  · exact ⟨_, _, rfl⟩

@[simp] theorem Core.withRing_leaf (r : Nat) (x : Core) : (x.withRing r).leaf = x.leaf := by
  unfold Core.withRing
  split <;> rfl

@[simp] theorem Core.withRing_replays (r : Nat) (x : Core) : (x.withRing r).replays = x.replays := by
  unfold Core.withRing
  split <;> rfl

section Dloop
variable {c : Fin 8} {ra : Fin 64} {imm : BitVec 32} {words : Nat} {s : State} {q : Quire} (h : Issues c 1 [ra.val] q s)
  (hhandler : (s.core c).inHandler = false) (hlegal : ¬ (bits imm.toNat 0 7 = 0 ∨ 64 < bits imm.toNat 0 7
    ∨ 2 ≤ (s.core c).loops.length ∨ bit imm.toNat 13 = true))
include h hhandler hlegal

/-- With count 0 the body is skipped and counts in the loops around it. -/
theorem execDloop_skips (hcount : (s.getS c ra).toNat % 2 ^ 32 = 0) :
    execDloop c ra imm words s = .next (((s.landed c).setCore c fun x => { x.withRing (loopRing (bits imm.toNat 14 2)) with
      cx := { x.cx with pc := x.cx.pc + 8 * words }
      loops := x.loops.map fun y => { y with left := y.left - bits imm.toNat 0 7 } }).past c 1 1) := by
  refine congrArg Host.Outcome.next (issue_goesOn h ?_ (setCore_attempt (by simp) (by simp)))
  simp only [landed_getS, landed_inHandler, landed_loops, hhandler, hcount, if_neg hlegal, if_true, Bool.false_eq_true, if_false]
  refine setCore_congr ?_
  obtain ⟨size, off, hring⟩ := Core.withRing_eq (loopRing (bits imm.toNat 14 2)) ((s.landed c).core c)
  unfold Core.withRing at hring ⊢
  simp only [hring]

/-- With another count a loop is entered whose top is the next word. -/
theorem execDloop_enters (hcount : (s.getS c ra).toNat % 2 ^ 32 ≠ 0) :
    execDloop c ra imm words s = .next (((s.landed c).setCore c fun x => { x.withRing (loopRing (bits imm.toNat 14 2)) with
      loops := { top := (s.core c).cx.pc + 8, remaining := (s.getS c ra).toNat % 2 ^ 32, iter := 0,
                 pro := bits imm.toNat 7 3, drn := bits imm.toNat 10 3, len := bits imm.toNat 0 7,
                 left := bits imm.toNat 0 7 + 1, ring := loopRing (bits imm.toNat 14 2) }
        :: x.loops.map fun y => { y with outer := true, left := y.left - 1 } }).past c 1 1) := by
  refine congrArg Host.Outcome.next (issue_goesOn h ?_ (setCore_attempt (by simp) (by simp)))
  simp only [landed_getS, landed_inHandler, landed_loops, hhandler, if_neg hcount, if_neg hlegal, Bool.false_eq_true, if_false]
  refine setCore_congr ?_
  obtain ⟨size, off, hring⟩ := Core.withRing_eq (loopRing (bits imm.toNat 14 2)) ((s.landed c).core c)
  unfold Core.withRing at hring ⊢
  simp only [hring, landed_pc]

end Dloop

/-- Settles O34: BRANCH and DLOOP by the lemmas of their issue; the loops by the three ways of `loopStep`. -/
theorem branches_and_loops_move_the_counter : Obligations.Branches_and_loops_move_the_counter := by
  unfold Obligations.Branches_and_loops_move_the_counter
  refine ⟨?falls, ?goes, ?target, ?skips, ?enters, ?counts, ?goesBack, ?leaves⟩
  case falls => exact fun c op ra rb imm s q h hloops htaken => execBranch_falls h hloops htaken
  case goes => exact fun c op ra rb imm s q h hloops htaken => execBranch_goes h hloops htaken
  case target =>
    intro c op ra rb imm s t q h hloops hhandler halign _ htaken ht
    obtain rfl := Host.Outcome.next.inj ((execBranch_goes h hloops htaken).symm.trans ht)
    rw [State.past, setCore_core, setCore_core, issued_pc_of_no_loop (by simpa using hhandler) (by simpa using hloops)]
    simp only [landed_pc]
    exact branchTarget_eq halign imm.toInt
  case skips =>
    intro c ra imm words s q h hhandler hlen hmax hdepth hbit hcount
    exact execDloop_skips h hhandler (by simp [hbit]; omega) hcount
  case enters =>
    intro c ra imm words s q h hhandler hlen hmax hdepth hbit hcount
    exact execDloop_enters h hhandler (by simp [hbit]; omega) hcount
  case counts =>
    intro x l rest hloops hleft
    rw [loopStep_loop hloops, if_pos hleft]
  case goesBack =>
    intro x l rest hloops hleft hmore
    rw [loopStep_loop hloops, if_neg hleft.le.not_gt, if_neg hmore.not_ge, Core.advanceRing_eq]
    exact ⟨rfl, rfl, rfl, by cases l.outer <;> rfl⟩
  case leaves =>
    intro x l hloops hleft hlast
    rw [loopStep_loop hloops, if_neg hleft.le.not_gt, if_pos hlast, loopStep_outside rfl, Core.advanceRing_eq]
    exact ⟨rfl, rfl⟩

end Sys2Proof.Machine
end

section
/-!
SUPPORT. The bundles of the core DSP: that the effect of one keeps the attempt on its core, how a bundle may go, and what it does with one
move or none.
-/

namespace Sys2Proof.Machine
open Sys2Proof

/-! ### A bundle keeps the attempt -/

theorem fly_replays (t lat reg : Nat) (w : DspWrite) (x : Core) : (fly t lat reg w x).replays = x.replays := by
  unfold fly
  split <;> rfl

theorem bump_replays (x0 : Core) (m : Move) (on : Bool) (x : Core) : (bump x0 m on x).replays = x.replays := by
  unfold bump
  split <;> rfl

@[simp] theorem fly_attempt (s : State) (c : Fin 8) (t lat reg : Nat) (w : DspWrite) :
    (s.setCore c (fly t lat reg w)).attempt = s.attempt := setCore_attempt (fly_leaf t lat reg w) (fly_replays t lat reg w)

theorem bundleOp_attempt (c : Fin 8) (b : Bundle) (x0 : Core) (s : State) : (bundleOp c b x0 s).attempt = s.attempt := by
  unfold bundleOp
  simp only
  split
  · simp [putS_attempt]
  · split
    · exact setCore_attempt (foldl_keeps Core.leaf _ (fun x i => fly_leaf _ _ _ _ x) _)
        (foldl_keeps Core.replays _ (fun x i => fly_replays _ _ _ _ x) _)
    · split
      · exact setCore_attempt (fun x => fly_leaf _ _ _ _ x) fun x => fly_replays _ _ _ _ x
      · rfl

theorem bundleMoves_attempt (c : Fin 8) (b : Bundle) (x0 : Core) (px py pz : Option Nat) (s : State) :
    (bundleMoves c b x0 px py pz s).attempt = s.attempt := by
  unfold bundleMoves
  cases px <;> cases py <;> cases pz <;> simp

theorem bankClash_attempt (s : State) (c : Fin 8) (a : Nat) : (bankClash s c a).attempt = s.attempt := by
  unfold bankClash
  simp only
  split <;> simp

theorem bundleEffect_attempt (c : Fin 8) (b : Bundle) (x0 : Core) (px py pz : Option Nat) (s : State) :
    (bundleEffect c b x0 px py pz s).attempt = s.attempt := by
  unfold bundleEffect
  extract_lets s1 s2 ax
  have hs2 : s2.attempt = s.attempt := by
    refine (setCore_attempt (fun x => ?_) fun x => ?_).trans ((bundleOp_attempt _ _ _ _).trans (bundleMoves_attempt _ _ _ _ _ _ _))
    · simp only [bump_leaf]
    · simp only [bump_replays]
  split
  · exact (bankClash_attempt _ _ _).trans hs2
  · exact hs2

/-! ### How a bundle may go -/

/-- A bundle is not legal by its class, or by its operation, its shift or a move size (R112, R122, R123). -/
theorem Bundle.illegal_of_class {b : Bundle} (h : b.cls ≠ 2) (ops : List Nat) : b.illegal ops = some 0x41 := if_pos h

theorem Bundle.illegal_of_field {b : Bundle} {ops : List Nat} (hclass : b.cls = 2)
    (h : b.op ∉ ops ∨ 31 < b.k ∨ (b.xb.en = true ∧ b.xb.size = 3) ∨ (b.yb.en = true ∧ b.yb.size = 3)
      ∨ (b.zb.en = true ∧ b.zb.size = 3)) : b.illegal ops = some 0x44 := by
  refine (if_neg (not_not.2 hclass)).trans (if_pos ?_)
  rcases h with h | h | ⟨hen, hsize⟩ | ⟨hen, hsize⟩ | ⟨hen, hsize⟩
  · simp [h]
  · simp [h]
  all_goals simp [hen, hsize]

section Issue
variable {c : Fin 8} {w0 w1 : BitVec 64} {par : Option Nat} {ops : List Nat} {s : State} {q : Quire} {b : Bundle} {x : Core}
  (hb : b = bundleOf w0 w1) (h : Issues c 2 b.reads q s)
include hb h

theorem runBundle_illegal {f : Nat} (hbad : b.illegal ops = some f) (hended : q.state ≠ .ended) (hfaulted : q.state ≠ .faulted) :
    runBundle ops c w0 w1 par s = faultQuire (s.landed c) q.tag f := by
  subst hb
  unfold runBundle
  refine issue_faults h hended hfaulted _ f ?_
  simp only [hbad]

variable (hx : x = (s.landed c).core c) (hlegal : b.illegal ops = none)
include hx hlegal

/-- A legal bundle whose moves are allowed has its effect. -/
theorem runBundle_goesOn {px py pz : Option Nat}
    (hpx : moveCheck (s.landed c) c q b.xb (b.xb.en && !x.noLoads) false = .ok px)
    (hpy : moveCheck (s.landed c) c q b.yb (b.yb.en && !x.noLoads) false = .ok py)
    (hpz : moveCheck (s.landed c) c q b.zb (b.zb.en && !x.noStores) true = .ok pz)
    (hpar : parityHit (s.landed c) q c 2 par (b.readsWord px py pz) = false) :
    runBundle ops c w0 w1 par s = (bundleEffect c b x px py pz (s.landed c)).past c 2 1 := by
  subst hb hx
  unfold runBundle
  refine issue_goesOn h ?_ (bundleEffect_attempt _ _ _ _ _ _ _)
  simp only [hlegal, hpx, hpy, hpz]
  exact reading_right _ _ _ _ _ _ _ hpar

/-- The first of the moves that is not allowed faults the quire. -/
theorem runBundle_moveFaults {f : Nat} (hended : q.state ≠ .ended) (hfaulted : q.state ≠ .faulted)
    (hbad : moveCheck (s.landed c) c q b.xb (b.xb.en && !x.noLoads) false = .error f
      ∨ (∃ px, moveCheck (s.landed c) c q b.xb (b.xb.en && !x.noLoads) false = .ok px
        ∧ (moveCheck (s.landed c) c q b.yb (b.yb.en && !x.noLoads) false = .error f
          ∨ (∃ py, moveCheck (s.landed c) c q b.yb (b.yb.en && !x.noLoads) false = .ok py
            ∧ moveCheck (s.landed c) c q b.zb (b.zb.en && !x.noStores) true = .error f)))) :
    runBundle ops c w0 w1 par s = faultQuire (s.landed c) q.tag f := by
  subst hb hx
  unfold runBundle
  refine issue_faults h hended hfaulted _ f ?_
  rcases hbad with hx | ⟨px, hx, hy | ⟨py, hy, hz⟩⟩
  · simp only [hlegal, hx]
  · simp only [hlegal, hx, hy]
  · simp only [hlegal, hx, hy, hz]

end Issue

/-! ### The operation of a bundle (R123, R127) -/

theorem fly_of_leaf {x : Core} (h : x.inHandler = false) (t lat reg : Nat) (w : DspWrite) :
    fly t lat reg w x = { x with pend := x.pend ++ [⟨t + lat - 1, reg, w⟩] } := if_neg (by simp [h])

/-- A row of writes of a leaf put in flight one by one. -/
theorem foldl_fly_pend {x : Core} (h : x.inHandler = false) (t lat : Nat) (reg : Nat → Nat) (w : DspWrite) (l : List Nat) :
    (l.foldl (fun x i => fly t lat (reg i) w x) x).pend = x.pend ++ l.map fun i => ⟨t + lat - 1, reg i, w⟩ := by
  induction l generalizing x with
  | nil => simp
  | cons i l ih =>
    rw [List.foldl_cons, fly_of_leaf h, ih (by exact h)]
    simp

section Operation
variable {c : Fin 8} {b : Bundle} {x : Core} {s : State}

theorem bundleOp_movds (h : b.op = 0x1A) :
    bundleOp c b x s
      = (s.setCore c (Core.readyIn (b.dst % 64) 2)).putS c (b.dst % 64) (BitVec.ofNat 64 (x.getD b.a)) := if_pos h

theorem bundleOp_dclr (h : b.op = 0x1B) :
    bundleOp c b x s
      = s.setCore c fun y => (List.range 64).foldl (fun y i => fly x.cycle 1 (64 + i) (.put 0) y) y := by
  simp only [bundleOp, h]
  rfl

theorem bundleOp_flies {o : DspOut} {w : DspWrite} (hmovds : b.op ≠ 0x1A) (hdclr : b.op ≠ 0x1B)
    (ho : dspOp b (x.getD b.a) (x.getD b.b) (x.getS (b.a % 64)) = o) (hw : o.w = some w) :
    bundleOp c b x s = s.setCore c fun y => { fly x.cycle o.lat (x.phys b.dst) w y with
      cx := { (fly x.cycle o.lat (x.phys b.dst) w y).cx with
        flags := (fly x.cycle o.lat (x.phys b.dst) w y).cx.flags.or o.flags } } := by
  simp only [bundleOp, if_neg hmovds, if_neg hdclr, ho, hw]

end Operation

/-! ### One move or none (R126) -/

section Moves
variable (c : Fin 8) (b : Bundle) (x : Core) (s : State) (p : Nat)

theorem bundleEffect_without_moves : bundleEffect c b x none none none s = bundleOp c b x s :=
  setCore_of_fixed rfl

theorem bundleEffect_load : bundleEffect c b x (some p) none none s
    = (bundleOp c b x ((s.memWait c (tget x.cx.a b.xb.a 0).toNat b.xb.bytes false).setCore c
        (fly x.cycle 4 (x.phys b.xb.d) (.put (loadVal b.xb (leNat (s.coreRd p b.xb.bytes))))))).setCore c (bump x b.xb true) := rfl

theorem bundleEffect_store : bundleEffect c b x none none (some p) s
    = (bundleOp c b x ((s.memWait c (tget x.cx.a b.zb.a 0).toNat b.zb.bytes true).coreWr p
        (toLE b.zb.bytes (x.getD b.zb.d)))).setCore c (bump x b.zb true) := rfl

end Moves

/-- Settles O40: each of the 14 rows is `runBundle` for its operations, whose ways are one lemma each; the effect by its moves and its
operation. -/
theorem dsp_bundles_issue_one_operation_and_three_moves : Obligations.Dsp_bundles_issue_one_operation_and_three_moves := by
  unfold Obligations.Dsp_bundles_issue_one_operation_and_three_moves
  refine ⟨?rows, ?illegal, fun c b x s => bundleEffect_without_moves c b x s, ?flies, fun c b x s => bundleOp_movds, ?dclr,
    fun c b x s p => bundleEffect_load c b x s p, fun c b x s p => bundleEffect_store c b x s p⟩
  case rows =>
    intro c w0 w1 par i ops s q b x hi hb hx h
    have hexec : exec i s = .next (runBundle ops c w0 w1 par s) := by
      rcases hi with ⟨rfl, rfl⟩ | ⟨rfl, rfl⟩ | ⟨rfl, rfl⟩ | ⟨rfl, rfl⟩ | ⟨rfl, rfl⟩ | ⟨rfl, rfl⟩ | ⟨rfl, rfl⟩ | ⟨rfl, rfl⟩
        | ⟨rfl, rfl⟩ | ⟨rfl, rfl⟩ | ⟨rfl, rfl⟩ | ⟨rfl, rfl⟩ | ⟨rfl, rfl⟩ | ⟨rfl, rfl⟩
      all_goals rfl
    refine ⟨fun px py pz hlegal hpx hpy hpz hpar => ?_, fun f hbad hended hfaulted => ?_, fun f hlegal hended hfaulted hbad => ?_⟩
    · rw [hexec, runBundle_goesOn hb h hx hlegal hpx hpy hpz hpar]
    · rw [hexec, runBundle_illegal hb h hbad hended hfaulted]
    · rw [hexec, runBundle_moveFaults hb h hx hlegal hended hfaulted hbad]
  case illegal => exact fun b ops => ⟨fun hclass => Bundle.illegal_of_class hclass ops, Bundle.illegal_of_field⟩
  case flies =>
    intro c b x s o w hhandler hx hmovds hdclr ho hw
    rw [bundleOp_flies hmovds hdclr ho hw]
    refine setCore_congr ?_
    rw [fly_of_leaf (by rwa [hx])]
  case dclr =>
    intro c b x s hop hhandler
    rw [bundleOp_dclr hop, setCore_core, foldl_fly_pend hhandler]
    rfl

end Sys2Proof.Machine
end

section
/-!
SUPPORT. What the operations at the boundary of a leaf change: the charge of a leaf, its start, its suspension and its end, each with the
parts of the state that it leaves alone.
-/

namespace Sys2Proof.Machine
open Sys2Proof

/-! ### Operations on engines -/

theorem setEng_eq (s : State) (e : Nat) (f : Engine → Engine) : ∃ en, s.setEng e f = { s with engines := en } := by
  unfold State.setEng
  split
  · exact ⟨_, rfl⟩
  · exact ⟨s.engines, rfl⟩

/-- A row of steps that each change engines alone changes engines alone. -/
theorem foldl_engines {α : Type} {f : State → α → State} (h : ∀ s x, ∃ en, f s x = { s with engines := en }) (l : List α)
    (s : State) : ∃ en, l.foldl f s = { s with engines := en } := by
  induction l generalizing s with
  | nil => exact ⟨s.engines, rfl⟩
  | cons x l ih =>
    obtain ⟨en, hx⟩ := h s x
    obtain ⟨en', hl⟩ := ih (f s x)
    exact ⟨en', by rw [List.foldl_cons, hl, hx]⟩

theorem engCount_eq (s : State) (e : Nat) (i : Fin 16) (n : Nat) : ∃ en, s.engCount e i n = { s with engines := en } :=
  setEng_eq s e _

theorem clearMismatches_eq (s : State) (c : Fin 8) : ∃ en, clearMismatches s c = { s with engines := en } :=
  foldl_engines (fun s e => setEng_eq s e _) _ s

theorem countDiscarded_eq (s : State) (c : Fin 8) (arr : Nat) : ∃ en, countDiscarded s c arr = { s with engines := en } := by
  refine foldl_engines (fun s e => ?_) _ s
  obtain ⟨en, hfirst⟩ := engCount_eq s e 5 (arr - (s.eng e).tm.stallArr)
  obtain ⟨en', hsecond⟩ := engCount_eq { s with engines := en } e 6 (4 * arr - (s.eng e).tm.stallVec)
  exact ⟨en', by simp only [hfirst, hsecond]⟩

/-! ### The charge of a leaf (R233) -/

theorem chargeRun_eq (s : State) (q : Quire) (c : Fin 8) (n : Nat) :
    ∃ cl en, chargeRun s q c n = { s with clusters := cl, engines := en } := by
  unfold chargeRun
  extract_lets es s1 m s2
  obtain ⟨en, hs1⟩ : ∃ en, s1 = { s with engines := en } := by
    refine foldl_engines (fun s e => ?_) es s
    obtain ⟨en1, h1⟩ := engCount_eq s e 9 n
    obtain ⟨en2, h2⟩ := engCount_eq { s with engines := en1 } e 10 (4 * n)
    obtain ⟨en3, h3⟩ := engCount_eq { s with engines := en2 } e 7 (s.throttled n)
    obtain ⟨en4, h4⟩ := engCount_eq { s with engines := en3 } e 8 (s.throttled (4 * n))
    exact ⟨en4, by rw [h1, h2, h3, h4]⟩
  clear_value s1
  subst hs1
  exact ⟨_, _, rfl⟩

theorem chargeLeaf_eq (s : State) (q : Quire) (c : Fin 8) (n : Nat) : ∃ cl en, chargeLeaf s q c n
    = { s with clusters := cl, engines := en }.setCore c fun x => { x with charged := max x.charged n } := by
  unfold chargeLeaf chargeTo
  obtain ⟨cl, en, hrun⟩ := chargeRun_eq s q c ((s.core c).owed n)
  rw [hrun]
  exact ⟨_, _, rfl⟩

@[simp] theorem chargeLeaf_mem (s : State) (q : Quire) (c : Fin 8) (n : Nat) : (chargeLeaf s q c n).mem = s.mem := by
  obtain ⟨cl, en, h⟩ := chargeLeaf_eq s q c n
  rw [h, State.setCore_mem]

@[simp] theorem chargeLeaf_quires (s : State) (q : Quire) (c : Fin 8) (n : Nat) : (chargeLeaf s q c n).quires = s.quires := by
  obtain ⟨cl, en, h⟩ := chargeLeaf_eq s q c n
  rw [h, State.setCore_quires]

@[simp] theorem chargeLeaf_cfg (s : State) (q : Quire) (c : Fin 8) (n : Nat) : (chargeLeaf s q c n).cfg = s.cfg := by
  obtain ⟨cl, en, h⟩ := chargeLeaf_eq s q c n
  rw [h, State.setCore_cfg]

theorem chargeLeaf_core (s : State) (q : Quire) (c : Fin 8) (n : Nat) :
    (chargeLeaf s q c n).core c = { s.core c with charged := max (s.core c).charged n } := by
  obtain ⟨cl, en, h⟩ := chargeLeaf_eq s q c n
  rw [h, setCore_core]
  rfl

/-! ### The start of a leaf (R120) -/

/-- Two changes of a core, one after the other. -/
theorem setCore_setCore (s : State) (c : Fin 8) (f g : Core → Core) :
    (s.setCore c f).setCore c g = s.setCore c fun x => g (f x) := by
  simp [State.setCore, vmod]


theorem startLeaf_eq (s : State) (c : Fin 8) (tag : BitVec 16) (fresh : Bool) : ∃ en, startLeaf s c tag fresh
    = { s with engines := en }.setCore c fun x => { x.startLeaf with leaf := some tag } := by
  unfold startLeaf
  extract_lets s1
  obtain ⟨en, hs1⟩ : ∃ en, s1 = { s with engines := en } := foldl_engines (fun s e => setEng_eq s e _) _ s
  exact ⟨en, by rw [hs1]⟩

/-- A replay starts the leaf from the boundary copy, and is counted (R85, R120). -/
theorem replayLeaf_eq (s : State) (c : Fin 8) (tag : BitVec 16) : ∃ cl en, replayLeaf s c tag
    = { s with clusters := cl, engines := en }.setCore c fun x =>
        { ({ x with cx := x.boundary, wait := none, takes := [] } : Core).startLeaf with leaf := some tag, replays := x.replays + 1 } := by
  unfold replayLeaf
  extract_lets s1 s2
  obtain ⟨en, hs2⟩ : ∃ en, s2 = { s1 with engines := en } := foldl_engines (fun s e => setEng_eq s e _) _ s1
  obtain ⟨en', hstart⟩ := startLeaf_eq s2 c tag false
  refine ⟨s1.clusters, en', ?_⟩
  have hcount : (s1.core c).replays = (s.core c).replays := by simp only [s1, setCore_core]; rfl
  rw [hstart, hs2, setCore_setCore, hcount]
  exact setCore_setCore { s with clusters := s1.clusters, engines := en' } c
    (fun x => { x with cx := x.boundary, wait := none, takes := [] }) _

theorem replayLeaf_core (s : State) (c : Fin 8) (tag : BitVec 16) : (replayLeaf s c tag).core c
    = { ({ s.core c with cx := (s.core c).boundary, wait := none, takes := [] } : Core).startLeaf with
        leaf := some tag, replays := (s.core c).replays + 1 } := by
  obtain ⟨cl, en, h⟩ := replayLeaf_eq s c tag
  rw [h, setCore_core]
  rfl

/-! ### Suspension (R240, R242) -/

@[simp] theorem stopCarder_cores (s : State) (q : Quire) : (stopCarder s q).cores = s.cores := by
  unfold stopCarder
  rw [freeThreads_cores]
  refine foldl_keeps State.cores _ (fun s t => ?_) _ s
  split
  · split
    · exact setQuire_cores _ _ _
    · rfl
  · rfl

@[simp] theorem writeControl_cores (s : State) (tag : BitVec 16) : (writeControl s tag).cores = s.cores := by
  unfold writeControl
  split
  · rfl
  · simp only
    split
    · rfl
    · split
      · split <;> rfl
      · rfl

@[simp] theorem suspendQuire_cores (s : State) (tag : BitVec 16) : (suspendQuire s tag).cores = s.cores := by
  unfold suspendQuire
  split
  · rfl
  · simp only [account_cores, writeControl_cores, setQuire_cores]
    split
    · rfl
    · exact stopCarder_cores _ _

theorem core_of_cores {s t : State} (h : t.cores = s.cores) (c : Fin 8) : t.core c = s.core c := by
  simp only [State.core, h]

/-! ### Leaving a quire at a boundary (R240) -/

theorem otherCore_ne (c : Fin 8) : c ≠ otherCore c := by
  refine fun h => ?_
  have hval : c.val = if c.val % 2 = 0 then c.val + 1 else c.val - 1 := congrArg Fin.val h
  split at hval <;> omega

/-- The core that leaves has no leaf. -/
theorem leaveCore_leaf (s : State) (q : Quire) (c : Fin 8) : ((leaveCore s q c).core c).leaf = none := by
  unfold leaveCore
  extract_lets want s1
  have hs1 : (s1.core c).leaf = none := by simp only [s1, setCore_core]
  split
  · split
    · rw [Machine.setCore_other _ _ _ _ (otherCore_ne c), hs1]
    · exact hs1
  · split
    · rw [core_of_cores (suspendQuire_cores _ _), hs1]
    · rw [core_of_cores (setQuire_cores _ _ _), hs1]

/-! ### Closing a leaf (R119, R223) -/

@[simp] theorem holdSymbol_cores (s : State) (tag : BitVec 16) (symbol : Nat) : (holdSymbol s tag symbol).cores = s.cores := by
  unfold holdSymbol
  split
  · rfl
  · split
    · rfl
    · simp only
      split <;> rfl

@[simp] theorem holdSymbol_cfg (s : State) (tag : BitVec 16) (symbol : Nat) : (holdSymbol s tag symbol).cfg = s.cfg := by
  unfold holdSymbol
  split
  · rfl
  · split
    · rfl
    · simp only
      split <;> rfl

@[simp] theorem holdReady_cores (s : State) (tag : BitVec 16) : (holdReady s tag).cores = s.cores :=
  foldl_keeps State.cores _ (fun s k => holdSymbol_cores s tag k) _ s

@[simp] theorem holdReady_cfg (s : State) (tag : BitVec 16) : (holdReady s tag).cfg = s.cfg :=
  foldl_keeps State.cfg _ (fun s k => holdSymbol_cfg s tag k) _ s

@[simp] theorem clearMismatches_cfg (s : State) (c : Fin 8) : (clearMismatches s c).cfg = s.cfg := by
  obtain ⟨en, h⟩ := clearMismatches_eq s c
  rw [h]

@[simp] theorem closeLeaf_cfg (s : State) (q : Quire) (c : Fin 8) (n : Nat) : (closeLeaf s q c n).cfg = s.cfg := by
  simp [closeLeaf, releaseSigs, noteStatus]

@[simp] theorem startLeaf_cfg (s : State) (c : Fin 8) (tag : BitVec 16) (fresh : Bool) : (startLeaf s c tag fresh).cfg = s.cfg := by
  obtain ⟨en, h⟩ := startLeaf_eq s c tag fresh
  rw [h, State.setCore_cfg]

/-- A leaf starts with no replay behind it. -/
theorem startLeaf_core (s : State) (c : Fin 8) (tag : BitVec 16) (fresh : Bool) :
    (startLeaf s c tag fresh).core c = { (s.core c).startLeaf with leaf := some tag } := by
  obtain ⟨en, h⟩ := startLeaf_eq s c tag fresh
  rw [h, setCore_core]
  rfl

end Sys2Proof.Machine
end

section
/-!
SUPPORT. Parity errors that a leaf meets: how the leaf is rolled back and what that leaves alone, and the objects whose words fail.
-/

namespace Sys2Proof.Machine
open Sys2Proof

/-! ### The event and the discarded attempt -/

/-- A parity error is counted on an engine or on a cluster. -/
theorem countWord_eq (s : State) (w : Nat) : ∃ cl en, countWord s w = { s with clusters := cl, engines := en } := by
  unfold countWord
  split
  · exact (engCount_eq s _ _ _).elim fun en h => ⟨s.clusters, en, h⟩
  · split
    · exact (engCount_eq s _ _ _).elim fun en h => ⟨s.clusters, en, h⟩
    · exact ⟨_, s.engines, rfl⟩

@[simp] theorem countWord_cores (s : State) (w : Nat) : (countWord s w).cores = s.cores := by
  obtain ⟨cl, en, h⟩ := countWord_eq s w
  rw [h]

@[simp] theorem countWord_mem (s : State) (w : Nat) : (countWord s w).mem = s.mem := by
  obtain ⟨cl, en, h⟩ := countWord_eq s w
  rw [h]

@[simp] theorem countWord_quires (s : State) (w : Nat) : (countWord s w).quires = s.quires := by
  obtain ⟨cl, en, h⟩ := countWord_eq s w
  rw [h]

@[simp] theorem countDiscarded_cores (s : State) (c : Fin 8) (arr : Nat) : (countDiscarded s c arr).cores = s.cores := by
  obtain ⟨en, h⟩ := countDiscarded_eq s c arr
  rw [h]

@[simp] theorem countDiscarded_mem (s : State) (c : Fin 8) (arr : Nat) : (countDiscarded s c arr).mem = s.mem := by
  obtain ⟨en, h⟩ := countDiscarded_eq s c arr
  rw [h]

@[simp] theorem countDiscarded_quires (s : State) (c : Fin 8) (arr : Nat) : (countDiscarded s c arr).quires = s.quires := by
  obtain ⟨en, h⟩ := countDiscarded_eq s c arr
  rw [h]

/-! ### The roll-back (R85, R87) -/

@[simp] theorem replayLeaf_mem (s : State) (c : Fin 8) (tag : BitVec 16) : (replayLeaf s c tag).mem = s.mem := by
  obtain ⟨cl, en, h⟩ := replayLeaf_eq s c tag
  rw [h, State.setCore_mem]

@[simp] theorem replayLeaf_quires (s : State) (c : Fin 8) (tag : BitVec 16) : (replayLeaf s c tag).quires = s.quires := by
  obtain ⟨cl, en, h⟩ := replayLeaf_eq s c tag
  rw [h, State.setCore_quires]

/-- Without a held pre-emption the leaf runs again. -/
theorem rollBack_replays {s : State} {c : Fin 8} (h : (s.core c).preempt = false) (q : Quire) :
    rollBack s q c = replayLeaf s c q.tag := by
  have hkept : ((replayLeaf s c q.tag).core c).preempt = (s.core c).preempt := by
    rw [replayLeaf_core]
    rfl
  simp [rollBack, hkept, h]

/-- A leaf that is rolled back has one replay more, or its core leaves the quire. -/
theorem rollBack_stops (s : State) (q : Quire) (c : Fin 8) : ((rollBack s q c).core c).leaf = none
    ∨ ((rollBack s q c).core c).replays = (s.core c).replays + 1 := by
  unfold rollBack
  extract_lets s1 s2
  split
  · have hs2 : (s2.core c).leaf = none := by simp only [s2, setCore_core]
    split
    · exact .inl hs2
    · exact .inl (by rw [core_of_cores (suspendQuire_cores _ _), hs2])
  · exact .inr (by rw [replayLeaf_core])

/-! ### A parity error of a leaf (R155) -/

/-- The parity context of a core of a quire is replaced. -/
def Quire.setParity (q : Quire) (c : Fin 8) (p : ParityCtx) : Quire :=
  if c.val % 2 = 0 then { q with par0 := p } else { q with par1 := p }

@[simp] theorem Quire.setParity_parity (q : Quire) (c : Fin 8) (p : ParityCtx) : (q.setParity c p).parity c = p := by
  unfold Quire.setParity Quire.parity
  split <;> rfl

/-- The parity error persists: the leaf had three replays, the word failed before, or a second fetch fails (Table 7-10). -/
def ParityCtx.Persists (p : ParityCtx) (fetch : Bool) (w : Nat) : Prop :=
  3 ≤ p.replays ∨ p.words.contains (w - w % 4) = true ∨ (fetch && p.fetch) = true

theorem ParityCtx.not_persists {p : ParityCtx} {fetch : Bool} {w : Nat} (hreplays : p.replays < 3)
    (hword : p.words.contains (w - w % 4) = false) (hfetch : (fetch && p.fetch) = false) : ¬ p.Persists fetch w := by
  rintro (h | h | h)
  · omega
  · exact Bool.false_ne_true (hword.symm.trans h)
  · exact Bool.false_ne_true (hfetch.symm.trans h)

/-- The parity context after a parity error that does not persist. -/
def ParityCtx.noted (p : ParityCtx) (fetch : Bool) (w : Nat) : ParityCtx :=
  { replays := p.replays + 1, words := (w - w % 4) :: p.words, fetch := p.fetch || fetch }

section MemParity
variable {s : State} {q : Quire} {c : Fin 8} {fetch : Bool} {w : Nat}

theorem memParity_faults (h : (q.parity c).Persists fetch w) :
    memParity s q c fetch w = faultQuire (countWord s w) q.tag 0x57 := if_pos h

theorem memParity_rollsBack (h : ¬ (q.parity c).Persists fetch w) :
    memParity s q c fetch w
      = discard ((countWord s w).setQuire q.tag.toNat (·.setParity c ((q.parity c).noted fetch w))) q c (s.reached c)
          (rollBack · q c) := if_neg h

/-- The core on which the roll-back begins is the core that met the error, its cycles charged. -/
theorem charged_core (f : Quire → Quire) (t arr : Nat) :
    (chargeLeaf (countDiscarded ((countWord s w).setQuire t f) c arr) q c arr).core c
      = { s.core c with charged := max (s.core c).charged arr } := by
  rw [chargeLeaf_core, core_of_cores (s := s) (by simp)]

/-- An instruction that meets a parity error which does not persist has no other effect. -/
theorem issue_rollsBack {words cycles : Nat} {reads : List Nat} (h : Issues c words reads q s) {body : Quire → State → State}
    (hb : body q (s.landed c) = memParity (s.landed c) q c fetch w) (hnew : ¬ (q.parity c).Persists fetch w) :
    issue c words cycles reads body s = memParity (s.landed c) q c fetch w := by
  rw [issue_runs h, hb]
  refine if_neg fun ⟨hleaf, hreplays⟩ => ?_
  simp only [memParity_rollsBack hnew, discard] at hleaf hreplays
  rcases rollBack_stops (chargeLeaf (countDiscarded _ c _) q c _) q c with hnone | hmore
  · cases hleaf.symm.trans hnone
  · have hkept := (leaf_replays_of_attempt (landed_attempt s c) c).2
    simp only [charged_core] at hmore
    omega

/-- What a parity error that does not persist leaves, where no pre-emption is held: the leaf at its boundary, memory, and its quire
with one parity replay more. -/
theorem memParity_effect (hq : tget? s.quires q.tag.toNat = some q) (hnew : ¬ (q.parity c).Persists fetch w)
    (hpreempt : (s.core c).preempt = false) : ∃ arr,
    (memParity s q c fetch w).mem = s.mem
      ∧ (memParity s q c fetch w).core c
        = { ({ s.core c with
              charged := max (s.core c).charged arr, cx := (s.core c).boundary, wait := none, takes := [] } : Core).startLeaf with
            leaf := some q.tag, replays := (s.core c).replays + 1 }
      ∧ tget? (memParity s q c fetch w).quires q.tag.toNat = some (q.setParity c ((q.parity c).noted fetch w)) := by
  have hcore := charged_core (s := s) (q := q) (c := c) (w := w) (·.setParity c ((q.parity c).noted fetch w)) q.tag.toNat (s.reached c)
  refine ⟨s.reached c, ?_⟩
  rw [memParity_rollsBack hnew, discard, rollBack_replays (by rw [hcore]; exact hpreempt)]
  refine ⟨by simp, ?_, ?_⟩
  · rw [replayLeaf_core, hcore]
  · simp [State.setQuire, hq, tget?_tset]

end MemParity

/-! ### The instructions -/

theorem execLds_parity {c : Fin 8} {rd ra : Fin 64} {imm : BitVec 32} {s : State} {q : Quire} {a w : Nat} (h : Issues c 1 [ra.val] q s)
    (ha : coreAccess (s.landed c) c q (s.getS c ra + imm.signExtend 64).toNat 8 false none = .ok a)
    (hpar : parityHit (s.landed c) q c 1 (some w) (wordIn · a 8) = true)
    (hnew : ¬ (q.parity c).Persists (fetches (s.landed c) q c 1 w) w) :
    execLds c rd ra imm (some w) s = .next (memParity (s.landed c) q c (fetches (s.landed c) q c 1 w) w) := by
  refine congrArg Host.Outcome.next (issue_rollsBack h ?_ hnew)
  simp only [landed_getS, ha]
  exact reading_wrong _ _ _ _ _ _ _ hpar

theorem execArrayStream_parity {c : Fin 8} {eng : Bool} {sa : Fin 64} {s : State} {q : Quire} {m : ArrayMode} {o : StreamOps} {w : Nat}
    (h : IssuesEng c eng sa 2 1 q s) (hm : (s.eng (engOf c eng)).mode = some m)
    (ho : o = streamOpsOf (s.getS c sa.val).toNat (s.getS c (sa.val + 1)).toNat)
    (hfault : streamFault q (s.eng (engOf c eng)) m o = none)
    (hpar : parityHit (s.landed c) q c 1 (some w) (streamReads (s.eng (engOf c eng)) (engOf c eng) m o) = true)
    (hnew : ¬ (q.parity c).Persists (fetches (s.landed c) q c 1 w) w) :
    execArrayStream c eng sa (some w) s = .next (memParity (s.landed c) q c (fetches (s.landed c) q c 1 w) w) := by
  subst ho
  refine congrArg Host.Outcome.next (issue_rollsBack h.core ?_ hnew)
  simp only [if_neg h.block.not_gt, landed_getS, landed_eng, h.live, Bool.false_eq_true, if_false, hm, hfault]
  exact reading_wrong _ _ _ _ _ _ _ hpar

/-! ### Objects whose words fail (R155, R252, R262) -/

theorem obj_putObj (s : State) (k : Fin 4) (i : Nat) (o : SyncObj) : (s.putObj k i o).obj k i = o := by
  simp only [State.obj, State.putObj, State.setCl_self, tget, tget?_tset]
  rfl

/-- Words that fail twice, or that are no complements, spoil the object. -/
theorem meetError_bad (s : State) (k : Fin 4) (i : Nat) {e : SyncError} (he : e = .parity ∨ e = .complement) :
    ((meetError s k i e).obj k i).bad = true := by
  rcases he with rfl | rfl
  all_goals
    simp only [meetError]
    rw [obj_putObj]

/-- A TAKE of a spoilt object has the outcome INTEGRITY. -/
theorem takeObj_of_bad {s : State} {k : Fin 4} {i : Nat} (h : (s.obj k i).bad = true) (tag n : BitVec 16) :
    (takeObj s k i tag n).1.st = .integrity := by
  rw [takeObj, if_pos h]

/-- A SIG on a spoilt object of a quire is not applied. -/
theorem sigObj_of_bad {s : State} {k : Fin 4} {i : Nat} (h : (s.obj k i).bad = true) (hquire : isSysObj i = false) (tag : BitVec 16)
    (n : BitVec 32) : sigObj s k i tag n = integrity s k i :=
  (if_pos h).trans (if_neg (by simp [hquire]))

/-- Settles O59: an instruction that meets a parity error is rolled back or faulted as `memParity` says; a spoilt object gives
INTEGRITY. -/
theorem a_parity_error_replays_the_leaf : Obligations.A_parity_error_replays_the_leaf := by
  unfold Obligations.A_parity_error_replays_the_leaf
  refine ⟨?load, ?stream, ?effect, ?faults, ?object⟩
  case load =>
    exact fun c rd ra imm w s q a h ha hpar hreplays hword hfetch =>
      execLds_parity h ha hpar (ParityCtx.not_persists hreplays hword hfetch)
  case stream =>
    exact fun c eng sa w s q m o h hm ho hfault hpar hreplays hword hfetch =>
      execArrayStream_parity h hm ho hfault hpar (ParityCtx.not_persists hreplays hword hfetch)
  case effect =>
    rintro s _ q c fetch w hq hreplays hword hfetch hpreempt rfl
    obtain ⟨arr, hmem, hcore, hquire⟩ := memParity_effect hq (ParityCtx.not_persists hreplays hword hfetch) hpreempt
    rw [hcore]
    exact ⟨hmem, rfl, rfl, rfl, rfl, rfl, rfl, rfl, _, hquire, by simp [ParityCtx.noted]⟩
  case faults => exact fun s q c fetch w h => memParity_faults h
  case object =>
    exact fun s k i tag n m e he => ⟨takeObj_of_bad (meetError_bad s k i he) tag n,
      fun hquire => sigObj_of_bad (meetError_bad s k i he) hquire tag m⟩

end Sys2Proof.Machine
end

section
/-!
SUPPORT. The synchronisation instructions: that SIG, TAKE and WAIT keep the attempt on their core, what TAKE counts for a retry, and the
ways in which a WAIT may go.
-/

namespace Sys2Proof.Machine
open Sys2Proof

/-! ### What keeps the cores -/

@[simp] theorem meetError_cores (s : State) (k : Fin 4) (i : Nat) (e : SyncError) : (meetError s k i e).cores = s.cores := by
  cases e <;> rfl

/-- A conditional decrement without an integrity error changes no core. -/
theorem takeObj_cores {s u : State} {k : Fin 4} {i : Nat} {tag n : BitVec 16} {o : TakeOut} (h : takeObj s k i tag n = (o, u))
    (hst : o.st ≠ .integrity) : u.cores = s.cores := by
  unfold takeObj at h
  simp only at h
  split at h
  · exact absurd (congrArg (fun x => x.1.st) h).symm hst
  · obtain rfl : _ = u := congrArg Prod.snd h
    split
    · rfl
    · split
      · rfl
      · split <;> rfl

@[simp] theorem notePages_cores (s : State) (tag : BitVec 16) (i : Nat) (n : BitVec 16) (o : TakeOut) :
    (notePages s tag i n o).cores = s.cores := by
  unfold notePages
  split
  · rfl
  · split
    · exact setRx_cores _ _ _
    · split
      · exact setRx_cores _ _ _
      · rfl

/-! ### What keeps the attempt -/

theorem loopStep_attempt (n m : Nat) (x : Core) :
    (loopStep n m x).leaf = x.leaf ∧ (loopStep n m x).replays = x.replays := by
  induction n generalizing m x with
  | zero => exact ⟨rfl, rfl⟩
  | succ n ih =>
    cases hloops : x.loops with
    | nil => simp only [loopStep_outside hloops, and_self]
    | cons l rest =>
      rw [loopStep_loop hloops, Core.advanceRing_eq]
      split
      · exact ⟨rfl, rfl⟩
      · split
        · exact ih _ _
        · exact ⟨rfl, rfl⟩

@[simp] theorem issued_attempt (s : State) (c : Fin 8) (words cycles : Nat) :
    (s.setCore c (issued words cycles)).attempt = s.attempt := by
  have hkeep : ∀ x : Core, (issued words cycles x).leaf = x.leaf ∧ (issued words cycles x).replays = x.replays := by
    intro x
    unfold issued
    simp only
    split
    · exact ⟨rfl, rfl⟩
    · exact loopStep_attempt _ _ _
  exact setCore_attempt (fun x => (hkeep x).1) fun x => (hkeep x).2

@[simp] theorem countRetry_attempt (s : State) (c : Fin 8) (ref : BitVec 64) (empty : Bool) :
    (countRetry c ref empty s).attempt = s.attempt := by
  unfold countRetry
  extract_lets x n
  rw [setCore_attempt (by intro; rfl) (by intro; rfl)]
  exact foldl_keeps State.attempt _ (fun s e => engCount_attempt s e 4 n) _ s

@[simp] theorem takeRetry_attempt (s : State) (c : Fin 8) : (s.takeRetry c).attempt = s.attempt :=
  (foldl_keeps State.attempt _ (fun s e => engCount_attempt s e 4 1) _ _).trans (idle_attempt s c 1)

@[simp] theorem sendTake_attempt (s : State) (c : Fin 8) (rd : Nat) (ref : BitVec 64) (n : BitVec 16) :
    (sendTake s c rd ref n).attempt = s.attempt :=
  (attempt_of_cores (sendMsg_cores _ _)).trans (setCore_attempt (fun _ => rfl) fun _ => rfl)

@[simp] theorem spinLocal_attempt (s : State) (c : Fin 8) (rd : Nat) (ref : BitVec 64) (n limit : BitVec 16) :
    (spinLocal s c rd ref n limit).attempt = s.attempt :=
  setCore_attempt (s := s.setCl (refCluster c ref) _) (fun _ => rfl) fun _ => rfl

@[simp] theorem spinRemote_attempt (s : State) (c : Fin 8) (q : Quire) (rd : Nat) (ref : BitVec 64) (n limit : BitVec 16) :
    (spinRemote s c q rd ref n limit).attempt = s.attempt :=
  (attempt_of_cores (sendMsg_cores _ _)).trans
    (setCore_attempt (s := s.setStitch _) (fun _ => rfl) fun _ => rfl)

/-! ### References -/

/-- Whether a reference leads to another chip is a matter of the configuration. -/
theorem refRemote_congr {s t : State} (h : t.cfg = s.cfg) (ref : BitVec 64) : refRemote t ref = refRemote s ref := by
  simp only [refRemote, State.chip, h]

@[simp] theorem landed_refRemote (s : State) (c : Fin 8) (ref : BitVec 64) : refRemote (s.landed c) ref = refRemote s ref :=
  refRemote_congr (landed_cfg s c) ref

@[simp] theorem waitCore_refRemote (s : State) (c : Fin 8) (t : Nat) (ref : BitVec 64) :
    refRemote (s.waitCore c t) ref = refRemote s ref := refRemote_congr (State.setCore_cfg s c _) ref

/-! ### What a retry counts (R153, R258) -/

theorem eng_setEng_other (s : State) {e d : Nat} (f : Engine → Engine) (h : d ≠ e) : (s.setEng e f).eng d = s.eng d := by
  unfold State.setEng State.eng
  split
  · simp [vmod, h.symm]
  · rfl

theorem engCount_eng_self (s : State) {e : Nat} (he : e < 16) (i : Fin 16) (n : Nat) :
    (s.engCount e i n).eng e = { s.eng e with ctrs := vmod (s.eng e).ctrs i (· + BitVec.ofNat 64 n) } := eng_setEng s e _ he

theorem engCount_eng_other (s : State) {e d : Nat} (hd : d ≠ e) (i : Fin 16) (n : Nat) : (s.engCount e i n).eng d = s.eng d :=
  eng_setEng_other s _ hd

/-- A TAKE of the object that the core's last TAKE found EMPTY counts the cycles since on both engines. -/
theorem countRetry_eng {c : Fin 8} {ref : BitVec 64} {s : State} {t : Nat} (hretry : (s.core c).retry = some (ref, t)) (empty : Bool)
    (e : Fin 2) : (countRetry c ref empty s).eng (2 * c.val + e.val) = { s.eng (2 * c.val + e.val) with
      ctrs := vmod (s.eng (2 * c.val + e.val)).ctrs 4 (· + BitVec.ofNat 64 ((s.core c).now - t)) } := by
  simp only [countRetry, hretry, if_true, setCore_eng, coreEngs, List.foldl_cons, List.foldl_nil]
  match e with
  | 0 => rw [engCount_eng_other _ (by simp), Fin.val_zero, Nat.add_zero, engCount_eng_self _ (by omega)]
  | 1 => rw [Fin.val_one, engCount_eng_self _ (by omega), engCount_eng_other _ (by omega)]

/-! ### Instructions at a boundary -/

section Boundary
variable {c : Fin 8} {words cycles : Nat} {reads : List Nat} {q : Quire} {s t u : State} (h : Issues c words reads q s)
  {body : Quire → State → State} (hb : body q (s.landed c) = t)
include h hb

/-- A core that leaves its quire does not go on past the instruction. -/
theorem issue_left (hleaf : (t.core c).leaf = none) : issue c words cycles reads body s = t := by
  rw [issue_runs h, hb, if_neg (by simp [hleaf])]

/-- A core on which a leaf of its quire has started goes on. -/
theorem issue_started {x : Core} (hattempt : t.attempt = u.attempt)
    (hstart : u.core c = { x.startLeaf with leaf := some q.tag }) : issue c words cycles reads body s = t.past c words cycles := by
  obtain ⟨hleaf, hreplays⟩ := leaf_replays_of_attempt hattempt c
  rw [issue_runs h, hb, if_pos]
  rw [hleaf, hreplays, hstart]
  exact ⟨rfl, Nat.zero_le _⟩

end Boundary

/-! ### SIG and TAKE -/

section Take
variable {c : Fin 8} {rd ra : Fin 64} {imm : BitVec 32} {err : SyncError} {s : State} {q : Quire} (h : Issues c 1 [ra.val] q s)
  (hamount : imm.extractLsb' 0 16 ≠ 0#16) (hlimit : imm.extractLsb' 16 16 = 0#16)
  (href : refOk (s.landed c) q (s.getS c ra) = true)
include h hamount hlimit href

theorem execSig_holds : execSig c ra imm s
    = .next (((s.landed c).setCore c fun x => { x with sigs := x.sigs ++ [(s.getS c ra, imm.setWidth 32)] }).past c 1 1) := by
  refine congrArg Host.Outcome.next (issue_goesOn h ?_ (setCore_attempt (fun _ => rfl) fun _ => rfl))
  simp [hamount, hlimit, href]

theorem execTake_takes {u : State} {o : TakeOut} (hlocal : refRemote s (s.getS c ra) = false) (hst : o.st ≠ .integrity)
    (htake : takeObj (meetError (s.landed c) (refCluster c (s.getS c ra)) (ObjRef.of (s.getS c ra)).index err)
      (refCluster c (s.getS c ra)) (ObjRef.of (s.getS c ra)).index (ObjRef.of (s.getS c ra)).tag (imm.extractLsb' 0 16) = (o, u)) :
    execTake c rd ra imm err s = .next (((countRetry c (s.getS c ra) (o.st == .empty)
      ((notePages u q.tag (ObjRef.of (s.getS c ra)).index (imm.extractLsb' 0 16) o).setCore c
        (Core.readyIn rd.val (takeTime c (s.getS c ra))))).putS c rd (o.word (ObjRef.of (s.getS c ra)).far)).past c 1 1) := by
  have hu : u.attempt = (s.landed c).attempt :=
    attempt_of_cores ((takeObj_cores htake hst).trans (meetError_cores _ _ _ _))
  refine congrArg Host.Outcome.next (issue_goesOn h ?_ ?_)
  · simp [hamount, hlimit, href, hlocal, htake]
  · rw [putS_attempt, countRetry_attempt, readyIn_attempt, attempt_of_cores (notePages_cores _ _ _ _ _), hu]

theorem execTake_sends (hremote : refRemote s (s.getS c ra) = true) :
    execTake c rd ra imm err s = .next ((sendTake (s.landed c) c rd (s.getS c ra) (imm.extractLsb' 0 16)).past c 1 1) := by
  refine congrArg Host.Outcome.next (issue_goesOn h ?_ (sendTake_attempt _ _ _ _ _))
  simp [hamount, hlimit, href, hremote]

end Take

/-! ### WAIT where its leaf goes on (R256, R263) -/

section WaitTake
variable {c : Fin 8} {rd : Nat} {ref : BitVec 64} {n limit : BitVec 16} {err : SyncError} {s u : State} {q : Quire} {o : TakeOut}

theorem waitTake_remote (hremote : refRemote s ref = true) :
    waitTake s c q rd ref n limit err = spinRemote s c q rd ref n limit := if_pos hremote

variable (hlocal : refRemote s ref = false)
  (htake : takeObj (meetError s (refCluster c ref) (ObjRef.of ref).index err) (refCluster c ref) (ObjRef.of ref).index
    (ObjRef.of ref).tag n = (o, u))
include hlocal htake

theorem waitTake_takes (hempty : o.st ≠ .empty) (hleaf : (u.core c).leaf = some q.tag) :
    waitTake s c q rd ref n limit err
      = ((notePages u q.tag (ObjRef.of ref).index n o).putS c rd (o.word (ObjRef.of ref).far)).setCore c (issued 1 1) := by
  simp [waitTake, hlocal, htake, hempty, hleaf]

theorem waitTake_spins (hempty : o.st = .empty)
    (hgoesOn : (ObjRef.of ref).tag ≠ 0 ∨ jrEnds s q (ObjRef.of ref).index = none
      ∨ jrEnds s q (ObjRef.of ref).index = some (false, false)) :
    waitTake s c q rd ref n limit err = spinLocal u c rd ref n limit := by
  rcases hgoesOn with h | h | h
  · have htag : ¬ (ObjRef.of ref).tag = 0#16 := h
    simp [waitTake, hlocal, htake, hempty, htag]
  · simp [waitTake, hlocal, htake, hempty, h]
  · simp [waitTake, hlocal, htake, hempty, h]

end WaitTake

section Wait
variable {c : Fin 8} {rd ra : Fin 64} {imm : BitVec 32} {err : SyncError} {s : State} {q : Quire} (h : Issues c 0 [ra.val] q s)
  (hhandler : (s.core c).inHandler = false) (hcode : (s.core c).cx.pc + 8 ≤ q.code.len) (hamount : imm.extractLsb' 0 16 ≠ 0#16)
  (hloops : (s.core c).loops = []) (href : refOk (s.landed c) q (s.getS c ra) = true)
include h hhandler hcode hamount hloops href

/-- A WAIT that need not close its leaf waits for the check barriers and takes, or spins. -/
theorem waitInstr_stays {t : State} (hsigs : (s.core c).sigs = []) (hopen : refRemote s (s.getS c ra) = false ∨ (s.core c).cycle = 0)
    (ht : waitTake ((s.landed c).waitCore c ((s.landed c).barrierAt c)) c q rd (s.getS c ra) (imm.extractLsb' 0 16)
      (imm.extractLsb' 16 16) err = t) (hattempt : t.attempt = (s.landed c).attempt) :
    waitInstr c rd ra imm err s = t.past c 0 0 := by
  refine issue_goesOn h ?_ hattempt
  rcases hopen with hlocal | hfirst
  · simp [hhandler, hcode, hamount, hloops, href, hsigs, hlocal, ht]
  · simp [hhandler, hcode, hamount, hloops, href, hsigs, hfirst, ht]

/-- The state after the close of the leaf that a WAIT on another chip asks for. -/
def waitClosed (s : State) (q : Quire) (c : Fin 8) : State :=
  holdReady (closeLeaf (s.waitCore c (s.enginesDone c)) q c ((s.waitCore c (s.enginesDone c)).core c).ran) q.tag

section Closes
variable (htakes : (s.core c).takes = []) (hremote : refRemote s (s.getS c ra) = true) (hran : 0 < (s.core c).cycle)
include htakes hremote hran

/-- A WAIT on another chip of a leaf that has run closes it; without a suspension or another leaf first, the next leaf spins. -/
theorem waitInstr_spinsNext (hsuspend : wantsSuspend (waitClosed (s.landed c) q c) q c = false)
    (hpassed : passedOver (waitClosed (s.landed c) q c) q c = false) :
    waitInstr c rd ra imm err s = (spinRemote (startLeaf (waitClosed (s.landed c) q c) c q.tag true) c q rd (s.getS c ra)
      (imm.extractLsb' 0 16) (imm.extractLsb' 16 16)).past c 0 0 := by
  have hstart : refRemote (startLeaf (waitClosed (s.landed c) q c) c q.tag true) (s.getS c ra) = true :=
    (refRemote_congr (by simp [waitClosed, State.waitCore]) _).trans hremote
  refine issue_started h ?_ (spinRemote_attempt _ _ _ _ _ _ _) (startLeaf_core _ c q.tag true)
  rw [← waitTake_remote (err := err) hstart]
  unfold waitClosed at *
  simp [hhandler, hcode, hamount, hloops, href, htakes, hremote, hran, hsuspend, hpassed]

/-- Where a suspension is asked for, or another leaf comes first, the core leaves the quire there. -/
theorem waitInstr_leaves (hleave : wantsSuspend (waitClosed (s.landed c) q c) q c = true
      ∨ passedOver (waitClosed (s.landed c) q c) q c = true) :
    waitInstr c rd ra imm err s = leaveCore (waitClosed (s.landed c) q c) q c := by
  refine issue_left h ?_ (leaveCore_leaf _ q c)
  unfold waitClosed at *
  rcases hleave with hsuspend | hpassed
  · simp [hhandler, hcode, hamount, hloops, href, htakes, hremote, hran, hsuspend]
  · simp [hhandler, hcode, hamount, hloops, href, htakes, hremote, hran, hpassed]

end Closes

end Wait

/-- The wait for the check barriers before a TAKE of an object without an integrity error keeps the attempt. -/
theorem waitedTake_attempt {c : Fin 8} {k : Fin 4} {i t : Nat} {err : SyncError} {tag n : BitVec 16} {s u : State} {o : TakeOut}
    (htake : takeObj (meetError (s.waitCore c t) k i err) k i tag n = (o, u)) (hst : o.st ≠ .integrity) :
    u.attempt = s.attempt :=
  (attempt_of_cores ((takeObj_cores htake hst).trans (meetError_cores _ _ _ _))).trans (waitCore_attempt s c t)

/-- Settles O35: SIG and TAKE by the lemmas of their issue, WAIT by the lemma of the way that the clause's hypotheses choose. -/
theorem sync_instructions_of_a_leaf : Obligations.Sync_instructions_of_a_leaf := by
  unfold Obligations.Sync_instructions_of_a_leaf
  refine ⟨?sig, ?take, ?retry, fun c ref => rfl, ?send, ?waitTakes, ?waitSpins, ?waitCloses, ?waitFirst⟩
  case sig => exact fun c ra imm s q h hamount hlimit href => execSig_holds h hamount hlimit href
  case take =>
    exact fun c rd ra imm err s u q o h hamount hlimit href hlocal hst htake =>
      execTake_takes h hamount hlimit href hlocal hst htake
  case retry =>
    intro c ref empty s e t hretry
    rw [countRetry_eng hretry]
    simp [vmod]
  case send =>
    exact fun c rd ra imm err s q h hamount hlimit href hremote => execTake_sends h hamount hlimit href hremote
  case waitTakes =>
    rintro c rd ra imm err s _ u q o h hhandler hcode hamount hloops hsigs href hlocal rfl htake hempty hst
    have hu := (waitedTake_attempt htake hst).trans (landed_attempt s c)
    have hleaf := (leaf_replays_of_attempt hu c).1.trans h.leaf
    refine congrArg Host.Outcome.next (waitInstr_stays h hhandler hcode hamount hloops href hsigs (.inl hlocal)
      (waitTake_takes (by simpa using hlocal) htake hempty hleaf) ?_)
    rw [issued_attempt, putS_attempt, attempt_of_cores (notePages_cores _ _ _ _ _), waitedTake_attempt htake hst]
  case waitSpins =>
    rintro c rd ra imm err s _ u q o h hhandler hcode hamount hloops hsigs href hlocal rfl htake hempty hgoesOn
    refine congrArg Host.Outcome.next (waitInstr_stays h hhandler hcode hamount hloops href hsigs (.inl hlocal)
      (waitTake_spins (by simpa using hlocal) htake hempty hgoesOn) ?_)
    rw [spinLocal_attempt, waitedTake_attempt htake (by simp [hempty])]
  case waitCloses =>
    intro c rd ra imm s s0 s1 q h hhandler hcode hamount hloops htakes href hremote hran hs0 hs1
    have hclosed : s1 = waitClosed (s.landed c) q c := by rw [hs1, hs0, waitClosed]
    rw [hclosed]
    exact ⟨fun hsuspend hpassed => congrArg Host.Outcome.next
        (waitInstr_spinsNext h hhandler hcode hamount hloops href htakes hremote hran hsuspend hpassed),
      fun hleave => congrArg Host.Outcome.next
        (waitInstr_leaves h hhandler hcode hamount hloops href htakes hremote hran hleave)⟩
  case waitFirst =>
    intro c rd ra imm s q h hhandler hcode hamount hloops hsigs href hremote hfirst
    exact congrArg Host.Outcome.next (waitInstr_stays h hhandler hcode hamount hloops href hsigs (.inr hfirst)
      (waitTake_remote (by simpa using hremote)) ((spinRemote_attempt _ _ _ _ _ _ _).trans (waitCore_attempt _ _ _)))

end Sys2Proof.Machine
end

section
/-!
SUPPORT. The end of a leaf and the interrupts: that the end of a quire moves no leaf, and what LEAF_END, OVERRUN, RETI, PREEMPT and
LEAF_TIMEOUT do by what the core is about.
-/

namespace Sys2Proof.Machine
open Sys2Proof

/-! ### The end of a quire keeps each core's leaf -/

theorem releaseObj_leaves (s : State) (k : Fin 4) (i : Nat) : (releaseObj s k i).leaves = s.leaves :=
  foldl_keeps State.leaves _ (by intros; exact deliver_leaves _ _ _ _ _) _ _

@[simp] theorem triggerQueued_cores (s : State) (k : Fin 4) : (triggerQueued s k).cores = s.cores := by
  unfold triggerQueued
  split
  · rfl
  · split
    · exact setQuire_cores _ _ _
    · rfl

theorem endQuire_leaves (s : State) (tag : BitVec 16) : (endQuire s tag).leaves = s.leaves := by
  unfold endQuire
  split
  · rfl
  · next q _ =>
    extract_lets s1 s2 s3
    have hs1 : s1.leaves = s.leaves :=
      (foldl_keeps State.leaves _ (fun s i => releaseObj_leaves s q.cluster i) _ _).trans (leaves_of_cores (releaseQuire_cores s q))
    have hs3 : s3.leaves = s.leaves := (leaves_of_cores (s := s1) (setQuire_cores s1 tag.toNat _)).trans hs1
    split
    · exact hs3
    · exact (leaves_of_cores (triggerQueued_cores _ _)).trans hs3

@[simp] theorem freeLeafThread_cores (s : State) (q : Quire) (c : Fin 8) : (freeLeafThread s q c).cores = s.cores := by
  refine foldl_keeps State.cores _ (fun s t => ?_) _ s
  split
  · extract_lets live pend
    split <;> rfl
  · rfl

/-! ### LEAF_END (R119, R223) -/

section LeafEnd
variable {c : Fin 8} {cycles : Nat} {last : Bool} {live : List Extent} {s : State} {q : Quire} (h : Issues c 0 [] q s)
  (hhandler : (s.core c).inHandler = false) (hcode : (s.core c).cx.pc + 8 ≤ q.code.len) (hloops : (s.core c).loops = [])
include h hhandler hcode hloops

/-- With a TAKE outstanding the core retries a cycle. -/
theorem execLeafEnd_retries (htakes : (s.core c).takes ≠ []) :
    execLeafEnd c cycles last live s = .next (((s.landed c).takeRetry c).past c 0 0) := by
  refine congrArg Host.Outcome.next (issue_goesOn h ?_ (takeRetry_attempt _ _))
  simp [leafEnd, hhandler, hcode, hloops, htakes]

variable (htakes : (s.core c).takes = []) {s0 u : State} {q1 : Quire}
  (hs0 : s0 = ((s.landed c).waitCore c ((s.landed c).enginesDone c)).setCore c (issued 1 1))
  (hu : u = (closeLeaf s0 q c (max cycles (s0.core c).ran)).setQuire q.tag.toNat (fun q => { q with
    live := live, done0 := q.done0 || (last && c.val % 2 == 0), done1 := q.done1 || (last && c.val % 2 == 1) }))
  (hq1 : tget? u.quires q.tag.toNat = some q1)
include htakes hs0 hu hq1

omit h in
/-- What a leaf's end comes to once the leaf is closed. -/
theorem leafEnd_closed : leafEnd c cycles last live q (s.landed c) = if q1.finished then
      holdReady (endQuire (u.setCore c fun x => { x with leaf := none, preempt := false }) q.tag) q.tag
    else holdReady (freeLeafThread (leaveCore u q1 c) q1 c) q.tag := by
  subst hs0 hu
  simp only [leafEnd, landed_inHandler, landed_pc, landed_loops, landed_takes, hhandler, if_neg hcode.not_gt, hloops, htakes,
    List.isEmpty_nil, Bool.not_true, Bool.false_eq_true, if_false, hq1]

/-- The last leaf of every core ends the quire. -/
theorem execLeafEnd_ends (hfinished : q1.finished = true) : execLeafEnd c cycles last live s
    = .next (holdReady (endQuire (u.setCore c fun x => { x with leaf := none, preempt := false }) q.tag) q.tag) := by
  refine congrArg Host.Outcome.next (issue_left h
    ((leafEnd_closed hhandler hcode hloops htakes hs0 hu hq1).trans (if_pos hfinished)) ?_)
  rw [core_of_cores (holdReady_cores _ _)]
  refine (congrFun (endQuire_leaves _ _) c).trans ?_
  rw [State.leaves, setCore_core]

theorem execLeafEnd_leaves (hgoesOn : q1.finished = false) : execLeafEnd c cycles last live s
    = .next (holdReady (freeLeafThread (leaveCore u q1 c) q1 c) q.tag) := by
  refine congrArg Host.Outcome.next (issue_left h
    ((leafEnd_closed hhandler hcode hloops htakes hs0 hu hq1).trans (if_neg (by simp [hgoesOn]))) ?_)
  rw [core_of_cores (holdReady_cores _ _), core_of_cores (freeLeafThread_cores _ _ _), leaveCore_leaf]

end LeafEnd

/-! ### Interrupts (R133, R134, R241) -/

section Interrupts
variable {c : Fin 8} {s : State} {q : Quire} (hleaf : (s.core c).leaf = some q.tag) (hq : tget? s.quires q.tag.toNat = some q)
include hleaf hq

theorem live_of_leaf : s.live c = some q := by
  simp [State.live, hleaf, hq]

/-- OVERRUN is taken once a leaf: in a leaf it enters the handler, in a handler it is held. -/
theorem execOverrun_eq : execOverrun c s = .next (if (s.core c).overrun then s
    else if (s.core c).inHandler then (s.waitCore c 10000).setCore c fun x => { x with overrunHeld := true }
    else enterOverrun (s.waitCore c 10000) c q) := by
  simp only [execOverrun, live_of_leaf hleaf hq]

/-- RETI of a handler: a PREEMPT held above a remote wait comes before an OVERRUN that was held. -/
theorem execReti_eq {u : State} (hhandler : (s.core c).inHandler = true)
    (hu : u = s.setCore c fun x => Core.idle 4 { swapShadow x with inHandler := false }) :
    execReti c s = .next (if (s.core c).preempt && (s.core c).remoteWait then takePreempt u c q
      else if (s.core c).overrunHeld then enterOverrun u c q else u) := by
  subst hu
  simp only [execReti, live_of_leaf hleaf hq, hhandler, if_true]

/-- A leaf has no RETI. -/
theorem execReti_illegal (hhandler : (s.core c).inHandler = false) : execReti c s = .next (faultQuire s q.tag 0x41) := by
  simp only [execReti, live_of_leaf hleaf hq, hhandler, faultCore, hleaf, Bool.false_eq_true, if_false]

/-- PREEMPT is taken at once in a remote wait outside a handler, else held. -/
theorem execPreempt_eq : execPreempt c s = .next (if (s.core c).remoteWait && !(s.core c).inHandler then takePreempt s c q
    else s.setCore c fun x => { x with preempt := true }) := by
  simp only [execPreempt, live_of_leaf hleaf hq]

end Interrupts

@[simp] theorem keepContext_cores (s : State) (q : Quire) (c : Fin 8) : (keepContext s q c).cores = s.cores := rfl

/-- A pre-emption in a remote wait suspends the quire where the other core of the cluster has no leaf of it. -/
theorem takePreempt_suspends {c : Fin 8} {s : State} {q : Quire} (hother : s.liveOn (otherCore c) q.tag = false) {u : State}
    (hu : u = s.setCore c (Core.idle 6)) :
    takePreempt s c q = suspendQuire ((keepContext (chargeLeaf u q c (u.core c).ran) q c).setCore c fun x =>
      { x with leaf := none, wait := none, preempt := false }) q.tag := by
  subst hu
  unfold takePreempt
  extract_lets s0 s1 s2
  have hleaf : (s2.core (otherCore c)).leaf = (s.core (otherCore c)).leaf := by
    rw [core_of_cores (suspendQuire_cores s1 q.tag), Machine.setCore_other _ _ _ _ (otherCore_ne c).symm,
      core_of_cores (keepContext_cores _ q c)]
    refine (congrFun (chargeLeaf_leaves s0 q c _) (otherCore c)).trans ?_
    rw [State.leaves, Machine.setCore_other _ _ _ _ (otherCore_ne c).symm]
  have hs2 : s2.liveOn (otherCore c) q.tag = false := by
    rw [State.liveOn, hleaf]
    exact hother
  rw [hs2]
  rfl

/-- Settles O36: LEAF_END by what closes its leaf, each interrupt by what the core is about. -/
theorem leaves_end_and_handlers_return : Obligations.Leaves_end_and_handlers_return := by
  unfold Obligations.Leaves_end_and_handlers_return
  refine ⟨?ends, ?retries, fun s q c n => rfl, ?overrun, ?overrunHeld, ?overrunAgain, ?reti, ?retiLeaf, ?held, ?taken, ?timeout⟩
  case ends =>
    intro c cycles last live s s0 u q q1 h hhandler hcode hloops htakes hs0 hu hq1 _
    exact ⟨execLeafEnd_ends h hhandler hcode hloops htakes hs0 hu hq1, execLeafEnd_leaves h hhandler hcode hloops htakes hs0 hu hq1⟩
  case retries =>
    exact fun c cycles last live s q h hhandler hcode hloops htakes => execLeafEnd_retries h hhandler hcode hloops htakes
  case overrun =>
    intro c s q hleaf hq hfirst hhandler
    refine (execOverrun_eq hleaf hq).trans ?_
    rw [if_neg (by simp [hfirst]), if_neg (by simp [hhandler]), enterOverrun]
  case overrunHeld =>
    intro c s q hleaf hq hfirst hhandler
    refine (execOverrun_eq hleaf hq).trans ?_
    rw [if_neg (by simp [hfirst]), if_pos hhandler]
  case overrunAgain =>
    intro c s q hleaf hq hagain
    exact (execOverrun_eq hleaf hq).trans (by rw [if_pos hagain])
  case reti =>
    intro c s u q hleaf hq hhandler hu
    have heq : exec (.reti c) s = .next _ := execReti_eq hleaf hq hhandler hu
    have hno : ((s.core c).preempt = false ∨ (s.core c).remoteWait = false) →
        ¬ ((s.core c).preempt && (s.core c).remoteWait) = true := by
      rintro (h | h) <;> simp [h]
    refine ⟨fun h hheld => ?_, fun hpreempt hremote => ?_, fun h hheld => ?_⟩
    · rw [heq, if_neg (hno h), if_neg (by simp [hheld])]
    · rw [heq, if_pos (by simp [hpreempt, hremote])]
    · rw [heq, if_neg (hno h), if_pos hheld]
  case retiLeaf => exact fun c s q hleaf hq hhandler => execReti_illegal hleaf hq hhandler
  case held =>
    intro c s q hleaf hq h
    refine (execPreempt_eq hleaf hq).trans ?_
    rw [if_neg]
    rcases h with h | h <;> simp [h]
  case taken =>
    intro c s u q hleaf hq hremote hhandler hother hu
    refine (execPreempt_eq hleaf hq).trans ?_
    rw [if_pos (by simp [hremote, hhandler]), takePreempt_suspends hother hu]
  case timeout =>
    intro c s tag hleaf
    refine congrArg Host.Outcome.next ?_
    simp only [faultCore, hleaf]

end Sys2Proof.Machine
end

section
/-!
SUPPORT. Stitch and carder transfers: the order of a transfer's messages, the answers to its source, the descriptor that a queue or
a carder list takes next, and the areas of joint reception.
-/

namespace Sys2Proof.Machine
open Sys2Proof

/-! ### The order of a transfer's messages (R452) -/

/-- A data message for this chip that passes R323 is received by the rule of its TYPE. -/
theorem exec_dataMsg {m : SMsg} {par : Fin 3} {i : Instr} {on : SMsg → Bool → Placed → State → State × Verdict} {s : State}
    (hdst : m.dst.toNat = s.chip) (hreserved : m.reservedSet = false) (hlen : m.data.length ≤ 4096)
    (hjr : m.typ = 4 → m.arg.extractLsb' 42 6 = 0#6)
    (hkind : (i = .write m par ∧ m.typ = 1 ∧ on = onWrite) ∨ (i = .mcast m par ∧ m.typ = 2 ∧ on = onMcast)
      ∨ (i = .sum m par ∧ m.typ = 3 ∧ on = onSum) ∨ (i = .jr m par ∧ m.typ = 4 ∧ on = onJr)) :
    exec i s = .next (recvData on par m s) := by
  have received (typ : Nat) (htyp : m.typ.toNat = typ) (h4 : typ = 4 → m.arg.extractLsb' 42 6 = 0#6) :
      onMsg typ (recvData on par) m s = recvData on par m s :=
    onMsg_ok hdst htyp hreserved hlen h4
  rcases hkind with ⟨rfl, htyp, rfl⟩ | ⟨rfl, htyp, rfl⟩ | ⟨rfl, htyp, rfl⟩ | ⟨rfl, htyp, rfl⟩
  · exact congrArg Host.Outcome.next (received 1 (by simp [htyp]) (by simp))
  · exact congrArg Host.Outcome.next (received 2 (by simp [htyp]) (by simp))
  · exact congrArg Host.Outcome.next (received 3 (by simp [htyp]) (by simp))
  · exact congrArg Host.Outcome.next (received 4 (by simp [htyp]) fun _ => hjr htyp)

section Order
variable {on : SMsg → Bool → Placed → State → State × Verdict} {par : Fin 3} {m : SMsg} {s : State} {x : InXfer}

/-- MSG_SEQ 0 opens a transfer that is unknown or has ended; the second is the model's reading (log entry 18). -/
theorem recvData_opens (hx : ∀ x, s.inX? m.src.toNat m.xfer.toNat = some x → x.ended = true) (hseq : m.seq = 0) :
    recvData on par m s = nextMsg on m par { src := m.src.toNat, num := m.xfer.toNat }
      (s.putIn { src := m.src.toNat, num := m.xfer.toNat }) := by
  cases h : s.inX? m.src.toNat m.xfer.toNat with
  | none => simp only [recvData, h, if_pos hseq]
  | some x => simp only [recvData, h, if_pos (And.intro (hx x h) hseq)]

theorem recvData_unknown (hx : s.inX? m.src.toNat m.xfer.toNat = none) (hseq : m.seq ≠ 0) :
    recvData on par m s = replyX (s.slCount .msgBad 0) m.src.toNat m.xfer.toNat 5 0 := by
  simp only [recvData, hx, if_neg hseq]

theorem recvData_ended (hx : s.inX? m.src.toNat m.xfer.toNat = some x) (hended : x.ended = true) (hseq : m.seq ≠ 0) :
    recvData on par m s = s.slCount .msgBad 0 := by
  simp only [recvData, hx, hended, hseq, and_false, if_false, if_true]

theorem recvData_inOrder (hx : s.inX? m.src.toNat m.xfer.toNat = some x) (hopen : x.ended = false) (hseq : m.seq = x.nextSeq) :
    recvData on par m s = nextMsg on m par x s := by
  simp [recvData, hx, hopen, hseq]

theorem recvData_outOfOrder (hx : s.inX? m.src.toNat m.xfer.toNat = some x) (hopen : x.ended = false)
    (htaken : x.refused = false) (hseq : m.seq ≠ x.nextSeq) :
    recvData on par m s = if seqBeyond x m then replyX (s.slCount .msgBad 0) m.src.toNat m.xfer.toNat 5 x.wire
      else s.slCount .msgBad 0 := by
  simp [recvData, hx, hopen, htaken, hseq]

end Order

/-! ### A raw message in its place (R326) -/

theorem onWrite_inside {m : SMsg} {p : Placed} {s : State} {q : Quire} (hq : s.target? m.cluster m.tag = some q)
    (hin : inside (argDst m + p.pos) p.data.length q.qd.base q.qd.len = true) :
    onWrite m false p s = (s.wr (cmemAt m.cluster.val + (argDst m + p.pos)) p.data, .ok) := by
  simp [onWrite, hq, hin]

theorem onWrite_outside {m : SMsg} {p : Placed} {s : State} {q : Quire} (hq : s.target? m.cluster m.tag = some q)
    (hout : inside (argDst m + p.pos) p.data.length q.qd.base q.qd.len = false) :
    onWrite m false p s = refuseMsg s := by
  simp [onWrite, hq, hout]

theorem onWrite_noTarget {m : SMsg} {p : Placed} {s : State} (hq : s.target? m.cluster m.tag = none) :
    onWrite m false p s = refuseMsg s := by
  simp only [onWrite, hq]

theorem onSum_noTarget {m : SMsg} {p : Placed} {s : State} (hq : s.target? m.cluster m.tag = none) :
    onSum m false p s = refuseMsg s := by
  simp only [onSum, hq]

/-! ### CUT, READ_REQ and COMPLETE (R325, R330) -/

theorem onCut_unknown {m : SMsg} {s : State} (hx : s.inX? m.src.toNat m.xfer.toNat = none) :
    onCut m s = replyX (s.putIn { src := m.src.toNat, num := m.xfer.toNat, cut := true }) m.src.toNat m.xfer.toNat 5 0 := by
  simp only [onCut, hx]

/-- A transfer that is not of joint reception has no cut-off, so that the rest of it is asked for. -/
theorem onCut_open {m : SMsg} {s : State} {x : InXfer} (hx : s.inX? m.src.toNat m.xfer.toNat = some x)
    (hopen : x.ended = false) (htaken : x.refused = false) (hjr : x.jrSlot = none) :
    onCut m s = replyX (s.putIn { x with cut := true }) m.src.toNat m.xfer.toNat 5 x.wire := by
  simp [onCut, hx, hopen, htaken, hjr]

theorem onReadReq_single {m : SMsg} {s : State} {x : OutXfer} (hx : s.outX? m.xfer.toNat = some x)
    (hsingle : (XDesc.of x.desc).many = false)
    (htarget : x.targets.any (fun t => t.chip == m.src.toNat && !t.done) = true) :
    onReadReq m s = sendWire s x m.src.toNat (m.arg.extractLsb' 0 32).toNat x.wire.length := by
  simp [onReadReq, hx, hsingle, htarget]

theorem onComplete_transfer {m : SMsg} {s : State}
    (h : (m.arg.extractLsb' 0 8).toNat ≠ 1 ∨ s.outX? m.xfer.toNat ≠ none) :
    onComplete m s = takeComplete s m.xfer.toNat m.src.toNat (m.arg.extractLsb' 0 8).toNat := by
  refine if_neg ?_
  rintro ⟨hcode, hnone⟩
  exact h.elim (· hcode) (· (Option.isNone_iff_eq_none.1 hnone))

/-- REFUSED that names no transfer answers a grant, which is undone (log entry 13). -/
theorem onComplete_grant {m : SMsg} {s : State} (hcode : (m.arg.extractLsb' 0 8).toNat = 1)
    (hx : s.outX? m.xfer.toNat = none) : onComplete m s = undoGrant s m.xfer.toNat :=
  if_pos ⟨hcode, Option.isNone_iff_eq_none.2 hx⟩

/-! ### A transfer that is lost (R325) -/

theorem failXfer_quire {s : State} {x : OutXfer} {q : Quire} (hq : s.queueQuire x.queue = some q) :
    failXfer s x = faultQuire s q.tag 0x85 := by
  simp only [failXfer, hq]

theorem xferLost_routeUp {num : Nat} {s : State} {x : OutXfer} {l : Fin 4} (hx : s.outX? num = some x)
    (hsingle : (XDesc.of x.desc).many = false) (hroute : s.route (XDesc.of x.desc).chip = some l)
    (hup : (s.link l).retraining = false) : xferLost num s = failXfer (s.advanceTo (x.at_ + usTicks 200)) x := by
  simp [xferLost, hx, hsingle, hroute, hup]

/-! ### The next descriptor of a stitch queue (R324, R325) -/

/-- What a stitch queue does with the descriptor it takes, in the state in which the count is taken. -/
def stitchTake (s : State) (q : Quire) (n : Fin 32) (sq : SQueue) (raw : Bytes) : State :=
  match (XDesc.of raw).check s q sq.next with
  | some code => faultQuire s q.tag code
  | none =>
    if !(XDesc.of raw).many && (tget s.stitch.members (XDesc.of raw).chip {}).lost then faultQuire s q.tag 0x85
    else launchX (s.setStitch fun t => { t with queues := t.queues.set n { sq with next := sq.next + 1 } }) q n.val raw

/-- A queue of a live quire with a launch counted and no transfer on its way takes a count and its next descriptor. -/
theorem stitchDescriptor_takes {n : Fin 32} {s : State} {t : BitVec 16} {q : Quire} {sq : SQueue} (hsq : s.stitch.queues[n] = sq)
    (htag : sq.quire = some t) (hq : tget? s.quires t.toNat = some q) (hdescs : sq.descs ≠ [])
    (hcount : (s.obj q.cluster sq.launchObj).count ≠ 0) (hidle : s.stitch.outX.any (fun x => x.queue == n.val) = false)
    (hlive : q.state ≠ .suspended) :
    stitchDescriptor n s = stitchTake (s.putObj q.cluster sq.launchObj { s.obj q.cluster sq.launchObj with
        count := (s.obj q.cluster sq.launchObj).count - 1 }) q n sq
      ((sq.descs[sq.next.toNat % sq.descs.length]?).getD []) := by
  have hguard : ¬ (sq.descs = [] ∨ (s.obj q.cluster sq.launchObj).count = 0 ∨ s.stitch.outX.any (fun x => x.queue == n.val)
      ∨ q.state = .suspended ∧ !q.kind.lc) := by
    rw [hidle]
    rintro (h | h | h | ⟨h, -⟩)
    exacts [hdescs h, hcount h, absurd h (by simp), hlive h]
  have hbind : (sq.quire.bind fun t => tget? s.quires t.toNat) = some q := by rw [htag]; exact hq
  simp only [stitchDescriptor, hsq, hbind]
  exact if_neg hguard

section StitchTake
variable {s : State} {q : Quire} {n : Fin 32} {sq : SQueue} {raw : Bytes}

theorem stitchTake_fails {code : Nat} (hcheck : (XDesc.of raw).check s q sq.next = some code) :
    stitchTake s q n sq raw = faultQuire s q.tag code := by
  simp only [stitchTake, hcheck]

theorem stitchTake_lost (hcheck : (XDesc.of raw).check s q sq.next = none) (hsingle : (XDesc.of raw).many = false)
    (hlost : (tget s.stitch.members (XDesc.of raw).chip {}).lost = true) :
    stitchTake s q n sq raw = faultQuire s q.tag 0x85 := by
  simp [stitchTake, hcheck, hsingle, hlost]

theorem stitchTake_launches (hcheck : (XDesc.of raw).check s q sq.next = none)
    (hreach : (XDesc.of raw).many = true ∨ (tget s.stitch.members (XDesc.of raw).chip {}).lost = false) :
    stitchTake s q n sq raw
      = launchX (s.setStitch fun t => { t with queues := t.queues.set n { sq with next := sq.next + 1 } }) q n.val raw := by
  rcases hreach with h | h <;> simp [stitchTake, hcheck, h]

end StitchTake

/-! ### The next descriptor of a carder list (R145, R146, R149) -/

/-- A bound thread between descriptors, of a live quire, takes the next one where a launch is counted or one was stopped. -/
theorem carderDescriptor_takes {k : Fin 4} {t : Fin 8} {err : SrcError} {s : State} {b : Thread} {q : Quire} {l : CarderList}
    (hthread : (s.cl k).threads[t] = some b) (hq : tget? s.quires b.tag.toNat = some q) (hlist : q.lists[b.list]? = some l)
    (hfree : b.finishing = none) (hdescs : l.descs ≠ []) (hlaunch : (s.obj k l.launchObj).count ≠ 0 ∨ l.line.isSome = true)
    (hlive : q.state ≠ .suspended) : carderDescriptor k t err s = carderTake s q l b t err := by
  simp only [carderDescriptor, hthread, hq, hlist]
  refine if_neg ?_
  rintro (h | h | ⟨hcount, hline⟩ | ⟨h, -⟩)
  · simp [hfree] at h
  · exact hdescs h
  · rcases hlaunch with h | h
    · exact h hcount
    · simp [Option.isNone_iff_eq_none.1 hline] at h
  · exact hlive h

/-- The state in which a thread checks its descriptor: its launch is counted off, unless it was stopped. -/
def launchCounted (s : State) (q : Quire) (l : CarderList) : State :=
  if l.line.isSome then s
  else s.putObj q.cluster l.launchObj { s.obj q.cluster l.launchObj with count := (s.obj q.cluster l.launchObj).count - 1 }

theorem launchCounted_of_fresh {s : State} {q : Quire} {l : CarderList} (hline : l.line = none) :
    launchCounted s q l = s.putObj q.cluster l.launchObj { s.obj q.cluster l.launchObj with
      count := (s.obj q.cluster l.launchObj).count - 1 } := by
  simp [launchCounted, hline]

theorem launchCounted_of_stopped {s : State} {q : Quire} {l : CarderList} {n : Nat} (hline : l.line = some n) :
    launchCounted s q l = s := by
  simp [launchCounted, hline]

/-- The descriptor that comes next in a carder list. -/
def CarderList.nextDesc (l : CarderList) : Bytes := (l.descs[l.next.toNat % l.descs.length]?).getD []

section CarderTake
variable {s u : State} {q : Quire} {l : CarderList} (b : Thread) {t : Fin 8} {d : CDesc} (hd : d = CDesc.of l.nextDesc)
  (hu : launchCounted s q l = u)
include hd hu

theorem carderTake_fails (err : SrcError) {code : Nat} (hcheck : d.check u q l t (d.indices u q) = some code) :
    carderTake s q l b t err = faultQuire u q.tag code := by
  subst hd hu
  simp only [CarderList.nextDesc, launchCounted] at hcheck ⊢
  simp only [carderTake, hcheck]

/-- Without memory errors, a checked descriptor moves its lines, from the first or where it was stopped, and then waits for its
completion. -/
theorem carderTake_moves {v : State} (hcheck : d.check u q l t (d.indices u q) = none)
    (hv : v = countParity u q (d.readSpace .source) 0) :
    carderTake s q l b t .none
      = ((((List.range d.count).drop (l.line.getD 0)).foldl (d.moveLine v q (d.indices u q) []) v).setQuire q.tag.toNat
          fun q => { q with lists := listMod q.lists b.list fun l => { l with next := l.next + 1, line := none } }).setCl
        q.cluster fun c => { c with
          threads := c.threads.set t (some { b with finishing := some l.nextDesc, lines := d.runs v q (d.indices u q) }) } := by
  subst hd hu hv
  simp only [CarderList.nextDesc, launchCounted] at hcheck ⊢
  simp only [carderTake, hcheck]
  rfl

end CarderTake

/-! ### What moves lines without an effect on the objects -/

/-- The sync objects of each cluster. -/
def State.objects (s : State) (k : Fin 4) : Table SyncObj := (s.cl k).objs

theorem obj_of_objects {s u : State} (h : u.objects = s.objects) (k : Fin 4) (i : Nat) : u.obj k i = s.obj k i :=
  congrArg (fun t : Table SyncObj => tget t i {}) (congrFun h k)

theorem objects_of_clusters {s u : State} (h : u.clusters = s.clusters) : u.objects = s.objects := by
  funext k
  simp only [State.objects, State.cl, h]

theorem setCl_objects {s : State} {k : Fin 4} {f : Cluster → Cluster} (hf : ∀ c, (f c).objs = c.objs) :
    (s.setCl k f).objects = s.objects := by
  funext d
  unfold State.objects
  by_cases h : k = d
  · subst h; rw [State.setCl_self, hf]
  · rw [State.setCl_other _ _ _ _ h]

theorem countParity_objects (s : State) (q : Quire) (code n : Nat) : (countParity s q code n).objects = s.objects := by
  unfold countParity
  extract_lets inCluster
  have hcluster : ∀ k, (inCluster k).objects = s.objects := fun k => setCl_objects fun _ => rfl
  split_ifs
  · exact objects_of_clusters (State.setEng_clusters _ _ _)
  · exact hcluster _
  · exact hcluster _
  · rfl

theorem moveLine_objects (d : CDesc) (s0 : State) (q : Quire) (idx bad : List Nat) (s : State) (n : Nat) :
    (d.moveLine s0 q idx bad s n).objects = s.objects := by
  unfold CDesc.moveLine
  extract_lets i skipped line
  split_ifs
  · rfl
  · split <;> rfl

/-- A descriptor that was stopped has its launch consumed, so that going on with it changes no object (R149). -/
theorem carderTake_objects_of_stopped {s : State} {q : Quire} {l : CarderList} (b : Thread) {t : Fin 8} {n : Nat}
    (hline : l.line = some n)
    (hcheck : (CDesc.of l.nextDesc).check s q l t ((CDesc.of l.nextDesc).indices s q) = none) :
    (carderTake s q l b t .none).objects = s.objects := by
  rw [carderTake_moves b rfl (launchCounted_of_stopped hline) hcheck rfl]
  rw [setCl_objects (by intro; rfl), objects_of_clusters (State.setQuire_clusters _ _ _),
    foldl_keeps State.objects _ (moveLine_objects _ _ _ _ _), countParity_objects]

/-- CARDER_DONE of a descriptor that empties no ring counts its completion and lets the thread go (R145). -/
theorem carderDone_counts {k : Fin 4} {t : Fin 8} {s u : State} {b : Thread} {q x : Quire} {raw : Bytes}
    (hthread : (s.cl k).threads[t] = some b) (hraw : b.finishing = some raw) (hq : tget? s.quires b.tag.toNat = some q)
    (hu : u = addDone (s.setCl k fun c => { c with threads := c.threads.set t (some { b with finishing := none, lines := [] }) })
      k b.tag (CDesc.of raw).doneObj (CDesc.of raw).doneN)
    (hring : (CDesc.of raw).ringEntry u k = none) (hx : tget? u.quires b.tag.toNat = some x) :
    carderDone k t s = freeLeafThread u x (coreOf q.cluster (if t.val = 5 then 1 else 0)) := by
  subst hu
  simp only [carderDone, hthread, hraw, hq, hring, hx]

/-! ### The areas of joint reception (R332, R333) -/

theorem jrCutoff_pressed {cell slot : Nat} {s : State} {q : Quire} (hq : s.slotQuire cell slot = some q)
    (hpressed : q.pressed = true) : jrCutoff cell slot s = s := by
  unfold jrCutoff
  split
  · rfl
  · simp [hq, hpressed]

/-- The keys of a cell's halves for the slots of a slot's parity. -/
def jrKeys (s : State) (cell slot : Nat) : List Nat :=
  (s.stitch.jr.filter fun p => p.1 / 8 == cell && p.1 % 2 == slot % 2).map (·.1)

/-- In loose mode, with no quire and no transfer on its way, the cut-off is all that is noted. -/
theorem jrCutoff_marks {cell slot t : Nat} {s u : State} {c : Cell} (hc : s.cell? cell = some c)
    (hq : s.slotQuire cell slot = none) (hloose : s.pressed = false) (hclose : s.closeOf cell slot = some t)
    (hu : u = s.advanceTo (t + usTicks c.jrCutoff)) (hin : u.stitch.inX = []) :
    jrCutoff cell slot s = u.setStitch fun t => { t with
      jr := tmap t.jr fun k h => if (jrKeys u cell slot).contains k then { h with cutoff := some slot } else h } := by
  simp only [jrCutoff, hc, hq, hloose, hclose, ← hu, State.setStitch_stitch, hin, List.foldl_nil]
  rfl

theorem jrAreaDeadline_noQuire {cell slot : Nat} {s : State} (hq : s.slotQuire cell slot = none) :
    jrAreaDeadline cell slot s = (s.stitch.jr.filter fun p => p.1 / 8 == cell && p.2.armed == some slot).foldl
      (fun s p => (s.putObj p.2.cluster p.2.readyObj {}).setStitch fun t =>
        { t with jr := tset t.jr p.1 { p.2 with armed := none } }) s :=
  if_neg (by simp [hq])

/-- Settles O50: each message by its place in the order of its transfer or by the answer to its source; each descriptor by the guard
under which it is taken and the outcome of its checks; the areas by whether a quire of the slot is open. -/
theorem transfers_arrive_in_order_and_are_answered : Obligations.Transfers_arrive_in_order_and_are_answered := by
  unfold Obligations.Transfers_arrive_in_order_and_are_answered
  refine ⟨?order, ?write, ?noTarget, ?cut, ?readReq, ?progress, ?complete, ?lost, ?stitch, ?carder, ?carderTake, ?carderStopped,
    ?stoppedCount, ?carderDone, ?cutoffPressed, ?cutoffLoose, ?areaDeadline⟩
  case order =>
    intro m par i on s hdst hreserved hlen hjr hkind
    rw [exec_dataMsg hdst hreserved hlen hjr hkind]
    refine ⟨fun hx hseq => ?_, fun x hx hopen hseq => ?_, fun hx hseq => ?_, fun x hx hended hseq => ?_,
      fun x hx hended hseq => ?_, fun x hx hopen htaken hseq => ?_⟩
    · rw [recvData_opens (by simp [hx]) hseq]
    · rw [recvData_inOrder hx hopen hseq]
    · rw [recvData_unknown hx hseq]
    · rw [recvData_opens (by simp [hx, hended]) hseq]
    · rw [recvData_ended hx hended hseq]
    · rw [recvData_outOfOrder hx hopen htaken hseq]
  case write => exact fun m p s q hq => ⟨onWrite_inside hq, onWrite_outside hq⟩
  case noTarget => exact fun m p s hq => ⟨onWrite_noTarget hq, onSum_noTarget hq⟩
  case cut =>
    intro m s hdst hreserved hlen htyp
    have heq : exec (.cut m) s = .next (onCut m s) :=
      congrArg Host.Outcome.next (onMsg_ok hdst (by simp [htyp]) hreserved hlen (by simp))
    rw [heq]
    exact ⟨fun hx => congrArg Host.Outcome.next (onCut_unknown hx),
      fun x hx hopen htaken hjr => congrArg Host.Outcome.next (onCut_open hx hopen htaken hjr)⟩
  case readReq =>
    intro m s x hdst hreserved hlen htyp hx hsingle htarget
    exact congrArg Host.Outcome.next
      ((onMsg_ok hdst (by simp [htyp]) hreserved hlen (by simp)).trans (onReadReq_single hx hsingle htarget))
  case progress =>
    intro m s hdst hreserved hlen htyp
    exact congrArg Host.Outcome.next (onMsg_ok hdst (by simp [htyp]) hreserved hlen (by simp))
  case complete =>
    intro m s hdst hreserved hlen htyp
    have heq : exec (.complete m) s = .next (onComplete m s) :=
      congrArg Host.Outcome.next (onMsg_ok hdst (by simp [htyp]) hreserved hlen (by simp))
    rw [heq]
    exact ⟨fun h => congrArg Host.Outcome.next (onComplete_transfer h),
      fun hcode hx => congrArg Host.Outcome.next (onComplete_grant hcode hx)⟩
  case lost =>
    intro num s x l q hx hsingle hroute hup hq
    exact congrArg Host.Outcome.next ((xferLost_routeUp hx hsingle hroute hup).trans (failXfer_quire hq))
  case stitch =>
    rintro n s u t q raw htag hq hdescs hcount hidle hlive rfl rfl
    have heq : exec (.stitchDescriptor n) s = .next (stitchTake _ q n s.stitch.queues[n] _) :=
      congrArg Host.Outcome.next (stitchDescriptor_takes rfl htag hq hdescs hcount hidle hlive)
    rw [heq]
    exact ⟨fun code hcheck => congrArg Host.Outcome.next (stitchTake_fails hcheck),
      fun hcheck hsingle hlost => congrArg Host.Outcome.next (stitchTake_lost hcheck hsingle hlost),
      fun hcheck hreach => congrArg Host.Outcome.next (stitchTake_launches hcheck hreach)⟩
  case carder =>
    intro k t err s b q l hthread hq hlist hfree hdescs hcount hlive
    exact congrArg Host.Outcome.next (carderDescriptor_takes hthread hq hlist hfree hdescs (.inl hcount) hlive)
  case carderTake =>
    rintro s u q l b t _ d err rfl hd hu hline
    have hcounted : launchCounted s q l = u := (launchCounted_of_fresh hline).trans hu.symm
    refine ⟨fun code hcheck => carderTake_fails b hd hcounted err hcheck, fun v hcheck hv => ?_⟩
    rw [carderTake_moves b hd hcounted hcheck hv, hline]
    rfl
  case carderStopped =>
    intro k t err s b q l n hthread hq hlist hfree hdescs hline hlive
    exact congrArg Host.Outcome.next
      (carderDescriptor_takes hthread hq hlist hfree hdescs (.inr (Option.isSome_of_eq_some hline)) hlive)
  case stoppedCount =>
    rintro s q l b t _ n rfl hline hcheck
    exact obj_of_objects (carderTake_objects_of_stopped b hline hcheck) q.cluster l.launchObj
  case carderDone =>
    intro k t s u b q x raw hthread hraw hq hu hring hx
    exact congrArg Host.Outcome.next (carderDone_counts hthread hraw hq hu hring hx)
  case cutoffPressed => exact fun cell n s c q _ hq hpressed => congrArg Host.Outcome.next (jrCutoff_pressed hq hpressed)
  case cutoffLoose =>
    intro cell n t s u c hc hq hloose hclose hu hin
    exact congrArg Host.Outcome.next (jrCutoff_marks hc hq hloose hclose hu hin)
  case areaDeadline => exact fun cell n s hq => congrArg Host.Outcome.next (jrAreaDeadline_noQuire hq)

end Sys2Proof.Machine
end

section
/-!
SUPPORT. Adaptation and the yardstick: what each of their steps does with the model or the sample that it finds.
-/

namespace Sys2Proof.Machine
open Sys2Proof

/-! ### Training steps and jobs (R178, R180) -/

theorem trainingStep_training {i : Fin 16} {s : State} {m : Model} {v : Version} {tag : Nat} {q : Quire} (r : StepResult)
    (hm : s.model? i.val = some m) (hdone : adaptDone s i.val = some tag) (hv : m.candidate? = some v)
    (hq : tget? s.quires tag = some q) (htraining : v.state = .training) :
    trainingStep i r s = if stepFits m v r = true then
        settleModel (s.setQuire tag fun q => { q with used := true }) i.val m (m.trainStep v q.pressed r)
      else s := by
  simp only [trainingStep, hm, hdone, hv, hq, htraining, true_and]

theorem Model.mayStart_of {m : Model} (hcandidate : m.candidate? = none) (hwatch : m.watch = none) (hpromote : m.promote = none)
    (hen : fld (m.nextParams.getD m.params) 0 1 = 1) : m.mayStart = true := by
  simp [mayStart, hcandidate, hwatch, hpromote, hen]

theorem Model.withJob_starts {m : Model} (hjob : m.job = []) (hmay : m.mayStart = true) :
    m.withJob = m.startCandidate.nextJob := by
  rw [withJob, if_neg (not_not.2 hjob), if_pos hmay]

theorem triggerAdapt_job {i : Nat} {s : State} {m m1 : Model} (hm : s.model? i = some m) (hidle : s.bePending (65 + i) = false)
    (hjob : m.withJob = some m1) : triggerAdapt s i = triggerBe (s.putModel i m m1) .adaptation (65 + i) i 0 := by
  simp [triggerAdapt, hm, hidle, hjob]

/-! ### Shadow evaluation (R181) -/

theorem shadowEvaluation_fits {i : Fin 16} {r : EvalResult} {s : State} {m m1 : Model} {v : Version} {tag : Nat} {x : SampleRec}
    (hm : s.model? i.val = some m) (hdone : adaptDone s i.val = some tag) (hv : m.candidate? = some v)
    (hevaluating : v.state = .evaluating) (hfits : evalFits m r = true) (hlast : m.jobRecs.getLast? = some x)
    (hm1 : m1 = { m.setVersion v.number (fun x =>
      { x with meanLoss := BitVec.ofNat 32 (meanLoss m.llrScale (weighed m.jobRecs r.cand)) }) with job := [] }) :
    shadowEvaluation i r s = settleModel (s.setQuire tag fun q => { q with used := true }) i.val m
      (if evalPasses m v r = true then
        { m1.setVersion v.number (fun x => { x with state := .staged }) with
          evalBatch := x.batch
          promote := some ⟨v.number, m.point s.pressed x.batch, false⟩ }
      else m1.dropCandidate .rejected) := by
  subst hm1
  simp only [shadowEvaluation, hm, hdone, hv, hevaluating, hfits, hlast]
  cases evalPasses m v r <;> rfl

/-! ### Staging (R182) -/

section Staging

variable {i e : Fin 16} {s : State} {m : Model} {p : Promote} {k : Fin 4} {pos : Nat}

theorem candidateStaging_stays (hm : s.model? i.val = some m) (hp : m.promote = some p) (hk : k = clOfEng e)
    (hpos : (s.inService k.val).findIdx? (· == e.val) = some pos)
    (hno : i.val ∉ s.residentModels k ∨ (m.copies[k]).standby = some p.version ∨ (m.copies[k]).active = p.version) :
    candidateStaging i e s = s := by
  subst hk
  simp only [candidateStaging, hm, hp, hpos]
  refine if_pos ?_
  rcases hno with habsent | hstandby | hactive
  · simp [habsent]
  · simp only [hstandby, beq_self_eq_true, Bool.or_true, Bool.true_or]
  · simp only [hactive, beq_self_eq_true, Bool.or_true]

theorem candidateStaging_writes {w : List Nat} (hm : s.model? i.val = some m) (hp : m.promote = some p) (hk : k = clOfEng e)
    (hpos : (s.inService k.val).findIdx? (· == e.val) = some pos)
    (hw : w = e.val :: (if (m.copies[k]).writing = some p.version then (m.copies[k]).written else []).filter (· != e.val))
    (hresident : i.val ∈ s.residentModels k) (hstandby : (m.copies[k]).standby ≠ some p.version)
    (hactive : (m.copies[k]).active ≠ p.version) :
    candidateStaging i e s = chargeTime ((writeStandby s k i.val pos e.val m p.version).setModel i.val fun m =>
      { m with copies := vmod m.copies k fun c => { c with
          standby := if (s.inService k.val).all w.contains = true then some p.version else none
          writing := some p.version
          written := w } }) k 0 (ceilDiv (m.adaptCopy (s.inService k.val).length pos p.version).length 1024) := by
  subst hk hw
  simp only [candidateStaging, hm, hp, hpos]
  refine if_neg ?_
  simp only [List.contains_iff_mem.2 hresident, Bool.not_true, Bool.false_or, Bool.or_eq_true, beq_iff_eq, not_or]
  exact ⟨hstandby, hactive⟩

end Staging

/-! ### The watch (R183) -/

theorem worse_iff {fNew fOld k : Nat} : worse fNew fOld k = true ↔ fOld * (2 ^ k + 1) + 16 * 2 ^ k < fNew * 2 ^ k :=
  decide_eq_true_iff

section Watch

variable {i : Fin 16} {s : State} {m : Model} {w : Watch}

theorem autoRollback_early (hm : s.model? i.val = some m) (hw : m.watch = some w) (hseen : w.seen < m.rbWindow) :
    autoRollback i s = s := by
  simp only [autoRollback, hm, hw, if_pos hseen]

/-- With its window full the watch ends, and the parent is to return where the promoted version failed more. -/
theorem autoRollback_ends (hm : s.model? i.val = some m) (hw : m.watch = some w) (hseen : m.rbWindow ≤ w.seen) :
    autoRollback i s = settleModel s i.val m (if worse w.fNew w.fOld m.rbK = true then
        { m with watch := none, promote := some ⟨w.parent, m.point s.pressed m.clock, true⟩ }
      else { m with watch := none }) := by
  simp only [autoRollback, hm, hw, if_neg hseen.not_gt]
  cases worse w.fNew w.fOld m.rbK <;> rfl

end Watch

/-! ### The yardstick (R186 to R189) -/

theorem yardstickMeasure_done {cell : Fin 64} {tag : BitVec 16} {s : State} {c : Cell} {x : YardSample} {l : List YardSample}
    {m : Model} (hdone : yardDone s cell.val tag = true) (hc : s.cell? cell.val = some c)
    (hsamples : (tget s.yard cell.val {}).samples = x :: l) (hm : (s.modelSlotOf c.modelId).bind s.model? = some m) :
    yardstickMeasure cell tag s = triggerYard { s.setQuire tag.toNat fun q => { q with used := true } with
      yard := tset s.yard cell.val { x.tbs.foldl (fun y t =>
        addTb m.llrScale y t.pdu.qm (x.measured c.yardMode m.llrScale t)) (tget s.yard cell.val {}) with samples := l } }
      cell.val := by
  simp only [yardstickMeasure, hdone, hc, hsamples, hm, State.setQuire_yard]

theorem yardstickExpiry_oldest {cell : Fin 64} {s u : State} {c : Cell} {x : YardSample} {l : List YardSample}
    (hc : s.cell? cell.val = some c) (hsamples : (tget s.yard cell.val {}).samples = x :: l)
    (hu : u = s.advanceTo (x.at_ + usTicks (1000 * c.yardExpiry))) :
    yardstickExpiry cell s = triggerYard { u with
      yard := tmod u.yard cell.val {} fun y => { y with samples := l, dropped := y.dropped + 1 }
      quires := tmap u.quires fun _ q =>
        if q.kind = .yardstick ∧ q.owner = cell.val then { q with used := true } else q } cell.val := by
  subst hu
  simp only [yardstickExpiry, hc, hsamples]

/-- Settles O48: each step by what it does with the model or the sample found, its guard decided by the clause's hypotheses. -/
theorem adaptation_and_the_yardstick_advance : Obligations.Adaptation_and_the_yardstick_advance := by
  unfold Obligations.Adaptation_and_the_yardstick_advance
  refine ⟨?train, ?start, ?evaluate, ?stage, ?watch, ?measure, ?expire⟩
  case train =>
    intro i r s m v tag q hm hdone hv hq htraining
    have heq := trainingStep_training r hm hdone hv hq htraining
    exact ⟨fun hfits => congrArg Host.Outcome.next (heq.trans (if_pos hfits)),
      fun hfits => congrArg Host.Outcome.next (heq.trans (if_neg (by simp [hfits])))⟩
  case start =>
    intro i s m m1 hm hidle hjob hcandidate hwatch hpromote hen hnext
    exact triggerAdapt_job hm hidle
      ((Model.withJob_starts hjob (Model.mayStart_of hcandidate hwatch hpromote hen)).trans hnext)
  case evaluate =>
    intro i r s m m1 v tag x hm hdone hv hevaluating hfits hlast hm1
    have heq : exec (.shadowEvaluation i r) s = .next _ :=
      congrArg Host.Outcome.next (shadowEvaluation_fits hm hdone hv hevaluating hfits hlast hm1)
    exact ⟨fun hfails => by rw [heq, if_neg (by simp [hfails])], fun hpasses => by rw [heq, if_pos hpasses]⟩
  case stage =>
    intro i e s m p k pos w hm hp hk hpos hw
    exact ⟨fun hresident hstandby hactive =>
        congrArg Host.Outcome.next (candidateStaging_writes hm hp hk hpos hw hresident hstandby hactive),
      fun hno => congrArg Host.Outcome.next (candidateStaging_stays hm hp hk hpos hno)⟩
  case watch =>
    intro i s m w hm hw
    refine ⟨fun hseen => congrArg Host.Outcome.next (autoRollback_early hm hw hseen), fun hseen hno => ?_,
      fun hseen hworse => ?_⟩
    · refine congrArg Host.Outcome.next ((autoRollback_ends hm hw hseen).trans ?_)
      rw [if_neg (mt worse_iff.1 hno.not_gt)]
    · refine congrArg Host.Outcome.next ((autoRollback_ends hm hw hseen).trans ?_)
      rw [if_pos (worse_iff.2 hworse)]
  case measure =>
    intro cell tag s c x l m hdone hc hsamples hm
    exact congrArg Host.Outcome.next (yardstickMeasure_done hdone hc hsamples hm)
  case expire =>
    intro cell s u c x l hc hsamples hu
    exact congrArg Host.Outcome.next (yardstickExpiry_oldest hc hsamples hu)

end Sys2Proof.Machine
end

section
/-!
SUPPORT. Commands without an output buffer: their answer once they are served, and what taking their record leaves as it was.
-/

namespace Sys2Proof.Machine
open Sys2Proof

/-! ### The answer of a served command -/

section Replies

variable {code : Nat} {early : Bool} {c : Cmd} {s u : State} {lenOk : Nat → Bool} {status detail : Nat} {body : Bytes}
  {rep : List Rep}

/-- A served short command without output answers with what it ran to. -/
theorem shortCmd_replies {run : Cmd → State → CmdOut} (h : Served code early c s) (hl : lenOk c.params.length = true)
    (hrun : run c (s.takeCmd c.len) = { st := u, status := status, detail := detail, body := body, rep := rep }) :
    shortCmd code early lenOk run c s = reply code c status detail body rep u := by
  rw [shortCmd_served h hl, hrun, finish_reply _ _ _ _ rfl]

/-- A served long command of one leaf without output, likewise. -/
theorem longCmd_replies {snap : State → Bytes} {run : Cmd → Bytes → State → CmdOut} (h : ServedLong early c s)
    (hl : lenOk c.params.length = true) (hrun : run c (snap (s.takeCmd c.len)) (s.takeCmd c.len)
      = { st := u, status := status, detail := detail, body := body, rep := rep }) :
    longCmd code early lenOk snap run c s = reply code c status detail body rep u := by
  rw [longCmd_served h hl, hrun, finish_reply _ _ _ _ rfl]

end Replies

/-! ### What taking a command's record leaves as it was -/

@[simp] theorem takeCmd_modelSlotOf (s : State) (n : BitVec 16) (id : Nat) :
    (s.takeCmd n).modelSlotOf id = s.modelSlotOf id := rfl

end Sys2Proof.Machine
end

section
/-!
SUPPORT. Models and tables: what each command that loads or removes one ends with, by the check that decides it.
-/

namespace Sys2Proof.Machine
open Sys2Proof

/-! ### MODEL_LOAD (R163, R164, R397) -/

theorem doModelLoad_unopened {c : Cmd} {s : State} {st d : Nat} (snap : Bytes)
    (hopen : openContainer s c.params = .error (st, d)) :
    doModelLoad c snap s = .fail s st d := by
  simp only [doModelLoad, hopen]

theorem doModelLoad_rejected {c : Cmd} {s : State} {b : Bytes} {r : Nat} (snap : Bytes)
    (hopen : openContainer s c.params = .ok b) (hreason : loadReason s b = some r) :
    doModelLoad c snap s = .fail s 0x31 r := by
  simp only [doModelLoad, hopen, hreason]

/-- The slot that an image of a model goes to: the model's own, or the first free one. -/
def State.loadSlot (s : State) (id : Nat) : Nat :=
  (s.modelSlotOf id).getD (((List.range 16).find? fun i => (s.model? i).isNone).getD 0)

theorem doModelLoad_loads {c : Cmd} {s : State} {b : Bytes} (snap : Bytes) (hopen : openContainer s c.params = .ok b)
    (hreason : loadReason s b = none) :
    doModelLoad c snap s = { st := putImage s (s.loadSlot (fld b 8 8)) b
                             body := join8 [s.loadSlot (fld b 8 8), fld b 8 8] ++ slice b 0x40 32 } := by
  simp only [doModelLoad, hopen, hreason, State.loadSlot]
  cases s.modelSlotOf (fld b 8 8) <;> rfl

/-! ### MODEL_UNLOAD (R371) -/

theorem doModelUnload_unknown {c : Cmd} {s : State} (hslot : s.modelSlotOf (par8 c.params 0) = none) :
    doModelUnload c s = .fail s 7 := by
  simp only [doModelUnload, hslot]

theorem doModelUnload_bound {c : Cmd} {s : State} {i : Nat} (hslot : s.modelSlotOf (par8 c.params 0) = some i)
    (hbound : s.isBound (par8 c.params 0) = true) : doModelUnload c s = .fail s 9 := by
  simp only [doModelUnload, hslot, if_pos hbound]

theorem doModelUnload_frees {c : Cmd} {s : State} {i : Fin 16} (hslot : s.modelSlotOf (par8 c.params 0) = some i.val)
    (hbound : s.isBound (par8 c.params 0) = false) :
    doModelUnload c s = { st := ({ dropModelWork s i.val with
      models := (dropModelWork s i.val).models.set i none } : State).spineChanged } := by
  simp only [doModelUnload, hslot, hbound, Bool.false_eq_true, if_false, dif_pos i.isLt]

/-! ### LDPC_TABLE_LOAD (R201) -/

theorem doLdpcTableLoad_badNumber {c : Cmd} {s : State} (hn : par8 c.params 0 = 0 ∨ 7 < par8 c.params 0) :
    doLdpcTableLoad c s = .fail s 7 := if_pos hn

theorem doLdpcTableLoad_stores {c : Cmd} {s : State} (hlo : 1 ≤ par8 c.params 0) (hhi : par8 c.params 0 ≤ 7) :
    doLdpcTableLoad c s =
      { st := (s.setCoding fun x => { x with
          ldpc := tset x.ldpc (par8 c.params 0) (slice c.params 8 1408 ++ zeros 128) }).spineChanged
        body := digest256 (slice c.params 8 1408 ++ zeros 128) } := if_neg (by omega)

/-! ### PRECODER_LOAD (R191) -/

theorem doPrecoderLoad_noCell {c : Cmd} {s : State} (snap : Bytes) (hcell : s.cell? (par8 c.params 0) = none) :
    doPrecoderLoad c snap s = .fail s 7 := if_pos (by simp [hcell])

theorem doPrecoderLoad_stores {c : Cmd} {s : State} (snap : Bytes) (hcell : (s.cell? (par8 c.params 0)).isSome = true)
    (hshape : 1 ≤ par8 c.params 3 ∧ par8 c.params 3 ≤ 16 ∧ 1 ≤ par8 c.params 4 ∧ par8 c.params 4 ≤ 32)
    (hrange : par8 c.params 1 + par8 c.params 2 ≤ 256)
    (hlen : 40 + par8 c.params 2 * (par8 c.params 3 * par8 c.params 4 * 4) ≤ c.params.length) :
    doPrecoderLoad c snap s = { st := { s with
      precoders := tset s.precoders (par8 c.params 0) ((List.range (par8 c.params 2)).foldl
        (fun (t : Table Precoder) i => tset t (par8 c.params 1 + i) ⟨par8 c.params 3, par8 c.params 4,
          (leList 4 (slice c.params (40 + i * (par8 c.params 3 * par8 c.params 4 * 4))
            (par8 c.params 3 * par8 c.params 4 * 4))).map (BitVec.ofNat 32)⟩) (tget s.precoders (par8 c.params 0) [])) } } := by
  have hknown : ¬(s.cell? (par8 c.params 0)).isNone = true := by simp [Option.isSome_iff_ne_none.1 hcell]
  have hallowed : ¬(par8 c.params 3 = 0 ∨ 16 < par8 c.params 3 ∨ par8 c.params 4 = 0 ∨ 32 < par8 c.params 4
      ∨ 256 < par8 c.params 1 + par8 c.params 2) := by omega
  exact (if_neg hknown).trans ((if_neg hallowed).trans (if_neg hlen.not_gt))

/-- Settles O23: each served command answers with what it ran to, which the clause's hypotheses decide. -/
theorem models_and_tables_are_loaded : Obligations.Models_and_tables_are_loaded := by
  unfold Obligations.Models_and_tables_are_loaded
  refine ⟨?load, ?reject, ?unopened, ?unload, ?bound, ?unknown, ?table, ?badTable, ?precoder, ?noCell⟩
  case load =>
    intro c s b slot h hl hopen hreason hslot
    obtain rfl : (s.takeCmd c.len).loadSlot (fld b 8 8) = slot := by
      rw [← hslot, State.loadSlot, takeCmd_modelSlotOf]
      cases s.modelSlotOf (fld b 8 8) <;> rfl
    exact congrArg Host.Outcome.next (longCmd_replies h hl (doModelLoad_loads [] hopen hreason))
  case reject =>
    exact fun c s b r h hl hopen hreason =>
      congrArg Host.Outcome.next (longCmd_replies h hl (doModelLoad_rejected [] hopen hreason))
  case unopened =>
    exact fun c s st d h hl hopen => congrArg Host.Outcome.next (longCmd_replies h hl (doModelLoad_unopened [] hopen))
  case unload =>
    exact fun c s i h hl hslot hbound =>
      congrArg Host.Outcome.next (shortCmd_replies h hl (doModelUnload_frees hslot hbound))
  case bound =>
    exact fun c s i h hl hslot hbound =>
      congrArg Host.Outcome.next (shortCmd_replies h hl (doModelUnload_bound hslot hbound))
  case unknown =>
    exact fun c s h hl hslot => congrArg Host.Outcome.next (shortCmd_replies h hl (doModelUnload_unknown hslot))
  case table =>
    exact fun c s h hl hlo hhi => congrArg Host.Outcome.next (shortCmd_replies h hl (doLdpcTableLoad_stores hlo hhi))
  case badTable =>
    exact fun c s h hl hn => congrArg Host.Outcome.next (shortCmd_replies h hl (doLdpcTableLoad_badNumber hn))
  case precoder =>
    exact fun c s h hl hcell hshape hrange hlen =>
      congrArg Host.Outcome.next (longCmd_replies h hl (doPrecoderLoad_stores [] hcell hshape hrange hlen))
  case noCell =>
    exact fun c s h hl hcell => congrArg Host.Outcome.next (longCmd_replies h hl (doPrecoderLoad_noCell [] hcell))

end Sys2Proof.Machine
end

section
/-!
SUPPORT. ADAPT_CONFIG, ADAPT_ROLLBACK and QUIRE_CANCEL: what each ends with, by the model or the quire that it finds.
-/

namespace Sys2Proof.Machine
open Sys2Proof

/-! ### ADAPT_CONFIG (R174, R175) -/

theorem doAdaptConfig_badComplement {c : Cmd} {s : State} (hcpl : cplAt c.params 8 64 = false) :
    doAdaptConfig c s = .fail s 5 := if_pos (by simp [hcpl])

theorem doAdaptConfig_unknown {c : Cmd} {s : State} (hcpl : cplAt c.params 8 64 = true)
    (hslot : s.modelSlotOf (par8 c.params 0) = none) : doAdaptConfig c s = .fail s 7 := by
  simp only [doAdaptConfig, hcpl, hslot, Bool.not_true, Bool.false_eq_true, if_false]

theorem doAdaptConfig_keeps {c : Cmd} {s : State} {i : Nat} {m : Model} {b : Bytes} {rep : List Rep}
    (hcpl : cplAt c.params 8 64 = true) (hslot : s.modelSlotOf (par8 c.params 0) = some i) (hm : s.model? i = some m)
    (hb : checkFields 0 (adaptFields (defaultParams m.image)) (slice c.params 8 64) = (b, rep)) :
    doAdaptConfig c s =
      { st := (if fld b 0 1 = 0 then dropModelWork s i else s).putModel i m (m.withParams b), rep := rep } := by
  simp only [doAdaptConfig, hcpl, hslot, hm, hb, Bool.not_true, Bool.false_eq_true, if_false]

/-! ### ADAPT_ROLLBACK (R184) -/

theorem doAdaptRollback_unknown {c : Cmd} {s : State} (snap : Bytes) (hslot : s.modelSlotOf (par8 c.params 0) = none) :
    doAdaptRollback c snap s = .fail s 7 := by
  simp only [doAdaptRollback, hslot]

section Rollback

variable {c : Cmd} {s : State} {i : Nat} {m : Model} {v : Version}

theorem doAdaptRollback_neverActive (snap : Bytes) (hslot : s.modelSlotOf (par8 c.params 0) = some i)
    (hm : s.model? i = some m) (hv : m.version? (par8 c.params 1) = some v) (hreturn : canReturn v = false) :
    doAdaptRollback c snap s = .fail s 9 := by
  simp only [doAdaptRollback, hslot, hm, hv, hreturn, Bool.not_false, if_true]

theorem doAdaptRollback_returns (snap : Bytes) (hslot : s.modelSlotOf (par8 c.params 0) = some i) (hm : s.model? i = some m)
    (hv : m.version? (par8 c.params 1) = some v) (hreturn : canReturn v = true) {m1 : Model}
    (hm1 : m1 = { m.dropCandidate .discarded with watch := none, promote := none }) :
    doAdaptRollback c snap s = { st := settleModel (dropModelWork s i) i m (if v.number = m.active then m1
      else { m1 with promote := some ⟨v.number, m.point s.pressed m.clock, true⟩ }) } := by
  subst hm1
  simp only [doAdaptRollback, hslot, hm, hv, hreturn, Bool.not_true, Bool.false_eq_true, if_false]

end Rollback

/-! ### QUIRE_CANCEL (R244, R245, R371) -/

section Cancel

variable {c : Cmd} {s : State} {q : Quire}

theorem doQuireCancel_unknown (hq : tget? s.quires (par8 c.params 0 % 65536) = none) : doQuireCancel c s = .fail s 7 := by
  simp only [doQuireCancel, hq]

theorem doQuireCancel_ended (hq : tget? s.quires (par8 c.params 0 % 65536) = some q) (hended : q.state.open_ = false) :
    doQuireCancel c s = .fail s 7 := by
  simp only [doQuireCancel, hq, hended, Bool.not_false, if_true]

theorem doQuireCancel_held (hq : tget? s.quires (par8 c.params 0 % 65536) = some q) (hheld : q.state = .queued) :
    doQuireCancel c s =
      { st := s.setQuire (par8 c.params 0 % 65536) fun q => { q with state := .ended, fault := 0x65 } } := by
  simp only [doQuireCancel, hq, hheld, QState.open_, Bool.not_true, Bool.false_eq_true, if_false, if_true]

theorem doQuireCancel_triggered (hq : tget? s.quires (par8 c.params 0 % 65536) = some q) (hopen : q.state.open_ = true)
    (htriggered : q.state ≠ .queued) : doQuireCancel c s = { st := faultQuire s q.tag 0x65 } := by
  simp only [doQuireCancel, hq, hopen, htriggered, Bool.not_true, Bool.false_eq_true, if_false]

end Cancel

/-- Settles O24: each served command answers with what it ran to, by the model or the quire that the clause names. -/
theorem adaptation_is_commanded : Obligations.Adaptation_is_commanded := by
  unfold Obligations.Adaptation_is_commanded
  refine ⟨?config, ?noModel, ?badConfig, ?rollback, ?neverActive, ?noRollback, ?held, ?triggered, ?noQuire, ?ended⟩
  case config =>
    exact fun c s i m b rep h hl hcpl hslot hm hb =>
      congrArg Host.Outcome.next (shortCmd_replies h hl (doAdaptConfig_keeps hcpl hslot hm hb))
  case noModel =>
    exact fun c s h hl hcpl hslot => congrArg Host.Outcome.next (shortCmd_replies h hl (doAdaptConfig_unknown hcpl hslot))
  case badConfig =>
    exact fun c s h hl hcpl => congrArg Host.Outcome.next (shortCmd_replies h hl (doAdaptConfig_badComplement hcpl))
  case rollback =>
    exact fun c s i m m1 v h hl hslot hm hv hreturn hm1 =>
      congrArg Host.Outcome.next (longCmd_replies h hl
        (doAdaptRollback_returns (s := s.takeCmd c.len) [] hslot hm hv hreturn hm1))
  case neverActive =>
    exact fun c s i m v h hl hslot hm hv hreturn =>
      congrArg Host.Outcome.next (longCmd_replies h hl (doAdaptRollback_neverActive [] hslot hm hv hreturn))
  case noRollback =>
    exact fun c s h hl hslot => congrArg Host.Outcome.next (longCmd_replies h hl (doAdaptRollback_unknown [] hslot))
  case held =>
    exact fun c s q h hl hq hheld => congrArg Host.Outcome.next (shortCmd_replies h hl (doQuireCancel_held hq hheld))
  case triggered =>
    exact fun c s q h hl hq hopen htriggered =>
      congrArg Host.Outcome.next (shortCmd_replies h hl (doQuireCancel_triggered hq hopen htriggered))
  case noQuire =>
    exact fun c s h hl hq => congrArg Host.Outcome.next (shortCmd_replies h hl (doQuireCancel_unknown hq))
  case ended =>
    exact fun c s q h hl hq hended => congrArg Host.Outcome.next (shortCmd_replies h hl (doQuireCancel_ended hq hended))

end Sys2Proof.Machine
end

section
/-!
SUPPORT. Coding: what each command does with the PUSCH, code block, UCI part, downlink entry or PRACH occasion that it finds.
-/

namespace Sys2Proof.Machine
open Sys2Proof

/-! ### One PUSCH of a slot-reception -/

theorem getElem?_listMod_same {α : Type} {l : List α} {i : Nat} {a : α} (ha : l[i]? = some a) (f : α → α) :
    (listMod l i f)[i]? = some (f a) := by
  induction l generalizing i with
  | nil => cases ha
  | cons x l ih => cases i with
    | zero => exact congrArg (Option.map f) ha
    | succ i => exact ih ha

theorem setPusch_rx? {s : State} {tag : BitVec 16} {r : RxCtx} (hr : s.rx? tag = some r) (i : Nat) (f : PuschCtx → PuschCtx) :
    (s.setPusch tag i f).rx? tag = some { r with pusch := listMod r.pusch i f } :=
  setRx_rx? hr _

/-! ### LLR_COMBINE (R198, R209) -/

section Combine
variable {s : State} {tag : BitVec 16} {i at_ : Nat} {ecc : HarqEcc} {r : RxCtx} {x : PuschCtx}

/-- LLRs handed over are combined once no earlier slot-reception owes their buffer. -/
theorem combineHanded_free (hr : s.rx? tag = some r) (hx : r.pusch[i]? = some x) (hhanded : x.handed = some (at_, ecc))
    (hnew : x.combined = false) (hfree : ∀ a, harqAddr s x.pdu = some a → bufferFree s r a = true) :
    combineHanded s tag i = if r.late = true then lateStore (combinePusch s r i x at_ ecc) tag i
      else combinePusch s r i x at_ ecc := by
  simp only [combineHanded, hr, hx, hhanded, hnew, Bool.false_or]
  cases haddr : harqAddr s x.pdu with
  | none => rfl
  | some a => simp only [hfree a haddr, Bool.not_true, Bool.false_eq_true, if_false]

/-- They wait while one owes it, and are combined once only. -/
theorem combineHanded_stays (hr : s.rx? tag = some r) (hx : r.pusch[i]? = some x) (hhanded : x.handed = some (at_, ecc))
    (hno : x.combined = true ∨ ∃ a, harqAddr s x.pdu = some a ∧ bufferFree s r a = false) : combineHanded s tag i = s := by
  simp only [combineHanded, hr, hx, hhanded]
  rcases hno with hdone | ⟨a, haddr, howed⟩
  · simp only [hdone, Bool.true_or, if_true]
  · simp only [haddr, howed, Bool.not_false, Bool.or_true, if_true]

theorem llrCombine_handed {at0 : Nat} {ecc0 : HarqEcc} (hr : s.rx? tag = some r) (hx : r.pusch[i]? = some x)
    (hhanded : x.handed = some (at0, ecc0)) : llrCombine tag i at_ ecc s = combineHanded s tag i := by
  simp only [llrCombine, hr, hx, hhanded, Option.isSome_some, if_true]

theorem llrCombine_hands {q : Quire} (hr : s.rx? tag = some r) (hx : r.pusch[i]? = some x) (hlate : r.late = false)
    (hposted : r.posted = false) (hhanded : x.handed = none) (hlimit : x.modelLimit = false)
    (hq : tget? s.quires tag.toNat = some q) (hlive : q.state ≠ .faulted) :
    llrCombine tag i at_ ecc s = combineHanded (s.setPusch tag i fun x => { x with handed := some (at_, ecc) }) tag i := by
  simp [llrCombine, hr, hx, hlate, hposted, hhanded, hlimit, hq, hlive]

end Combine

/-! ### LLR_SPILL (R199) -/

theorem llrSpill_acts {k : Fin 4} {s : State} (hharq : s.coding.harq ≠ none) (hfull : 3 * ringSize < 4 * ringBytes s k) :
    llrSpill k s = spillGo s k s.coding.ring.length :=
  if_neg (by simpa [hharq] using hfull)

theorem llrSpill_stays {k : Fin 4} {s : State} (hno : s.coding.harq = none ∨ 4 * ringBytes s k ≤ 3 * ringSize) :
    llrSpill k s = s :=
  if_pos (by simpa using hno)

/-! ### Code blocks (R199, R200, R202, R208) -/

section Block
variable {s u : State} {tag : BitVec 16} {i n a : Nat} {bad : Bool} {r : RxCtx} {x : PuschCtx} {c : CbCtx}
  (hr : s.rx? tag = some r) (hx : r.pusch[i]? = some x) (hc : x.cbs[n]? = some c)
include hr hx hc

theorem codeBlockDecode_noRoom (hplace : takePlace s tag i x.pdu = none) : codeBlockDecode tag i n bad s = s := by
  simp only [codeBlockDecode, hr, hx, hc, hplace, ite_self]

theorem codeBlockDecode_decodes {b : List Bool} {m : Nat} (hlate : r.late = false) (hposted : r.posted = false)
    (hstate : c.state = .waiting ∨ (c.state = .spilled ∧ bad = false)) (hplace : takePlace s tag i x.pdu = some (a, u))
    (hdecode : ldpcDecode (segOf x.pdu) r.beta r.maxIter (backLlrs s x n c) = (b, m)) :
    codeBlockDecode tag i n bad s = (leaveRing u tag i n).setCb tag i n fun y =>
      { y with
        state := if cbGood x.pdu b = true then .passed else .failed
        llr := backLlrs s x n c
        spill := none
        bits := b
        iters := m } := by
  have hgo : (r.late || r.posted || !(c.state == .waiting || c.state == .spilled)) = false := by
    rcases hstate with h | ⟨h, -⟩ <;> simp [hlate, hposted, h]
  have hback : (decide (c.state = .spilled) && bad) = false := by
    rcases hstate with h | ⟨h, hbad⟩
    · simp [h]
    · simp [hbad]
  simp only [codeBlockDecode, hr, hx, hc, hgo, hplace, hback, hdecode, Bool.false_eq_true, if_false]

theorem codeBlockDecode_lost {v : State} {d : Nat} (hlate : r.late = false) (hposted : r.posted = false)
    (hspilled : c.state = .spilled) (hplace : takePlace s tag i x.pdu = some (a, u)) (hdraw : u.draw = (d, v)) :
    codeBlockDecode tag i n true s
      = (v.setPusch tag i fun p => { p with missing := true, memFill := true }).setCb tag i n fun c =>
        { c with state := .failed, llr := lostLlrs (segOf x.pdu).ncb d, spill := none } := by
  have hgo : (r.late || r.posted || !(c.state == .waiting || c.state == .spilled)) = false := by
    simp [hlate, hposted, hspilled]
  have hback : (decide (c.state = .spilled) && true) = true := by simp [hspilled]
  simp only [codeBlockDecode, hr, hx, hc, hgo, hplace, hback, hdraw, Bool.false_eq_true, if_false, if_true]

theorem codeBlockWriteback_known (hposted : r.posted = false) (hknown : c.state = .passed ∨ c.state = .failed) :
    codeBlockWriteback tag i n s = if c.written = true then s
      else (writePart s x n c).setCb tag i n fun c => { c with written := true } := by
  have hgo : (c.written || r.posted || !(c.state == .passed || c.state == .failed)) = c.written := by
    rcases hknown with h | h <;> simp [hposted, h]
  simp only [codeBlockWriteback, hr, hx, hc, hgo]

end Block

/-! ### Transport blocks and labels (R177, R208, R210, R215) -/

section TransportBlock
variable {s u : State} {tag : BitVec 16} {i a : Nat} {r : RxCtx} {x : PuschCtx}
  (hr : s.rx? tag = some r) (hx : r.pusch[i]? = some x)
include hr hx

theorem tbCrcCheck_known (hlate : r.late = false) (hposted : r.posted = false) (hcombined : x.combined = true)
    (hnew : x.tbPass = none)
    (hknown : (x.cbs.all fun c => c.state == .passed || c.state == .failed || c.state == .stored) = true)
    (hplace : takePlace s tag i x.pdu = some (a, u)) :
    tbCrcCheck tag i s = (u.wr (codAt + decOut.base + a) (packBits ((tbBits x.pdu x.cbs).take x.pdu.tbs))).setPusch tag i
      fun p => { p with
        tbPass := some ((x.cbs.all fun c => c.bits.length == (segOf x.pdu).kp)
          && (tbCrc x.pdu.tbs).good (tbBits x.pdu x.cbs))
        payload := packBits ((tbBits x.pdu x.cbs).take x.pdu.tbs) } := by
  simp only [tbCrcCheck, hr, hx, hlate, hposted, hcombined, hnew, hknown, hplace, Bool.not_true, Option.isSome_none,
    Bool.or_self, Bool.false_eq_true, if_false]

theorem harqHeaderWrite_known {ok : Bool} (hok : x.tbPass = some ok) (hposted : r.posted = false)
    (hparts : x.cbs.all (·.written) = true) :
    harqHeaderWrite tag i s = if x.headerWritten = true then s else writeHeader s r i x ok := by
  simp only [harqHeaderWrite, hr, hx, hok, hposted, hparts, Bool.not_true, Bool.or_false]

theorem labelEncode_stays (hno : x.tbPass ≠ some true ∨ downlinkWaits s = true) : labelEncode tag i s = s := by
  simp only [labelEncode, hr, hx, if_pos hno]

theorem labelEncode_labels {l : List Bool} (hpass : x.tbPass = some true) (hidle : downlinkWaits s = false)
    (hl : l = ((encodeTb (unpackBits x.pdu.tbs x.payload) x.pdu.bg x.pdu.qm x.pdu.layers x.pdu.rv.val x.pdu.g x.pdu.tbsLbrm
      x.pdu.cbgTx).zip (scrAt x.pdu.cInit.toNat x.pdu.ulAt x.pdu.g)).map (fun y => y.1 != y.2)) :
    labelEncode tag i s = triggerYard ((List.range 16).foldl triggerAdapt
      ((s.setPusch tag i fun x => { x with labels := some l }).mapLabels r.cell r.sfnSlot
        fun t => listMod t i fun y => { y with labels := some l })) r.cell := by
  subst hl
  have hgo : ¬(x.tbPass ≠ some true ∨ downlinkWaits s = true) := by simp [hpass, hidle]
  simp only [labelEncode, hr, hx, if_neg hgo]

end TransportBlock

/-! ### UCI parts (R211, R212) -/

section Uci
variable {s : State} {tag : BitVec 16} {i at_ : Nat} {r : RxCtx} {u : UciCtx} (hu : uciOpen s tag i = some (r, u))
include hu

theorem polarDecode_small (hk : u.part.k < 12) : polarDecode tag i at_ s = s := by
  simp only [polarDecode, hu, if_pos hk]

theorem polarDecode_large (hk : 12 ≤ u.part.k) :
    polarDecode tag i at_ s = uciDone s tag i u.part fun x =>
      match polarDecodeUci u.part.k (uciRead s tag u.part at_) with
      | some b => { x with outcome := 1, bits := b }
      | none => { x with outcome := 2 } := by
  simp only [polarDecode, hu, if_neg hk.not_gt]
  cases polarDecodeUci u.part.k (uciRead s tag u.part at_) <;> rfl

theorem smallBlockDecode_large (hk : 12 ≤ u.part.k) : smallBlockDecode tag i at_ s = s := by
  simp only [smallBlockDecode, hu, if_pos (Or.inr hk : u.part.k = 0 ∨ _)]

/-- A small block is DTX where its metric lies below the threshold of its slot-reception; without LLRs where that is not 0. -/
theorem smallBlockDecode_small {b : List Bool} {m : Int} {t : Nat} (h0 : u.part.k ≠ 0) (hk : u.part.k < 12)
    (hdecode : smallDecode u.part.k u.part.qm (uciRead s tag u.part at_) = (b, m, t)) :
    smallBlockDecode tag i at_ s = uciDone s tag i u.part fun x =>
      if (if t = 0 then 0 < r.dtxThr else m * 256 < (r.dtxThr * t : Nat)) then
        { x with outcome := 3, bits := [], metric := if t = 0 then 0 else m * 256 / (t : Int) }
      else { x with outcome := 1, bits := b, metric := if t = 0 then 0 else m * 256 / (t : Int) } := by
  have hsize : ¬(u.part.k = 0 ∨ 12 ≤ u.part.k) := by omega
  simp only [smallBlockDecode, hu, hdecode, if_neg hsize]
  refine congrArg _ (funext fun x => ?_)
  by_cases ht : t = 0
  · simp only [if_pos ht, decide_eq_true_eq]
    split <;> rfl
  · simp only [if_neg ht, decide_eq_true_eq]
    split <;> rfl

end Uci

/-! ### DL_ENCODE (R214) -/

/-- The coded bits of an entry stored at its place in the quire's window, where it has one there. -/
def storeCoded (s : State) (q : Quire) (p : Prog) (i : Nat) (b : Bytes) : State :=
  match p.codedAt[i]? with
  | some a => if a + b.length ≤ q.qd.len then s.wr (cmemAt q.cluster.val + q.qd.base + a) b else s
  | none => s

section Encode
variable {s : State} {q : Quire} {p : Prog} {i a : Nat} {b : Bytes}

theorem storeCoded_fits (ha : p.codedAt[i]? = some a) (hfits : a + b.length ≤ q.qd.len) :
    storeCoded s q p i b = s.wr (cmemAt q.cluster.val + q.qd.base + a) b := by
  simp only [storeCoded, ha, if_pos hfits]

theorem storeCoded_noPlace (hno : p.codedAt[i]? = none ∨ ∃ a, p.codedAt[i]? = some a ∧ q.qd.len < a + b.length) :
    storeCoded s q p i b = s := by
  rcases hno with h | ⟨a, ha, hlong⟩
  · simp only [storeCoded, h]
  · simp only [storeCoded, ha, if_neg hlong.not_ge]

end Encode

theorem dlEncode_stores {tag : BitVec 16} {i : Nat} {s : State} {d : DlCtx} {q : Quire} {p : Prog} {b : List Bool}
    (hd : tget? s.coding.dl tag.toNat = some d) (hq : tget? s.quires tag.toNat = some q) (hp : q.prog = some p)
    (hfault : d.fault = false) (hposted : d.posted = false) (hb : dlCoded d i = some b) :
    dlEncode tag i s = holdReady ((storeCoded s q p i (packBits b)).setCoding fun c =>
      { c with dl := tset c.dl tag.toNat { d with coded := tset d.coded i b } }) tag := by
  simp only [dlEncode, hd, hq, hp, hb, hfault, hposted, Bool.or_self, Bool.false_eq_true, if_false]
  rfl

/-! ### PRACH_CORRELATION (R216, R220) -/

theorem prachCorrelation_stores {tag : BitVec 16} {root stream rep : Nat} {u : Nat × List Nat} {s : State} {x : PrachCtx}
    {q : Quire} (hx : tget? s.coding.prach tag.toNat = some x) (hq : tget? s.quires tag.toNat = some q)
    (hopen : q.state.open_ = true) (hnew : x.detected = false) (hroot : (prachRoots x.pdu)[root]? = some u)
    (hstream : stream < x.streams) (hrep : rep < prachReps x.pdu) {y : List (BitVec 32)} {x1 : PrachCtx}
    (hy : y = (tget x.y (stream * 64 + rep) []).take (prachLen x.pdu))
    (hx1 : x1 = { x with
      pdp := tset x.pdp ((root * 64 + stream) * 64 + rep)
        (prachProfile (prachLen x.pdu) u.1 (y ++ List.replicate (prachLen x.pdu - y.length) 0)) }) :
    prachCorrelation tag root stream rep s = s.setCoding fun c => { c with
      prach := tset c.prach tag.toNat
        (if x1.pdp.length = (prachRoots x.pdu).length * x.streams * prachReps x.pdu
          then { x1 with detected := true, found := prachDetect x1 } else x1) } := by
  subst hx1 hy
  have hgo : (!q.state.open_ || x.detected || decide (x.streams ≤ stream) || decide (prachReps x.pdu ≤ rep)) = false := by
    simp [hopen, hnew, hstream, hrep]
  simp only [prachCorrelation, hx, hq, hroot, hgo, Bool.false_eq_true, if_false]

/-- Settles O47: each command by what it does with what it finds, its guards decided by the clause's hypotheses. -/
theorem received_bits_are_combined_decoded_and_written_back :
    Obligations.Received_bits_are_combined_decoded_and_written_back := by
  unfold Obligations.Received_bits_are_combined_decoded_and_written_back
  refine ⟨?hands, ?handed, ?spill, ?decode, ?lost, ?noRoom, ?writeback, ?crc, ?header, ?label, ?polar, ?small, ?sizes, ?encode,
    ?prach⟩
  case hands =>
    intro tag i at_ ecc s u r r1 x x1 q hr hx hlate hposted hhanded hnew hlimit hq hlive hx1 hr1 hu
    subst hx1 hr1 hu
    have heq : exec (.llrCombine tag i at_ ecc) s = .next _ :=
      congrArg Host.Outcome.next (llrCombine_hands hr hx hlate hposted hhanded hlimit hq hlive)
    refine ⟨fun hfree => heq.trans (congrArg _ ?_), fun a haddr howed => heq.trans (congrArg _ ?_)⟩
    · exact (combineHanded_free (setPusch_rx? hr i _) (getElem?_listMod_same hx _) rfl hnew hfree).trans
        (if_neg (by simp [hlate]))
    · exact combineHanded_stays (setPusch_rx? hr i _) (getElem?_listMod_same hx _) rfl (.inr ⟨a, haddr, howed⟩)
  case handed =>
    intro tag i at_ at0 ecc ecc0 s r x hr hx hhanded
    have heq : exec (.llrCombine tag i at_ ecc) s = .next (combineHanded s tag i) :=
      congrArg Host.Outcome.next (llrCombine_handed hr hx hhanded)
    exact ⟨fun hnew hfree => heq.trans (congrArg _ (combineHanded_free hr hx hhanded hnew hfree)),
      fun hno => heq.trans (congrArg _ (combineHanded_stays hr hx hhanded hno))⟩
  case spill =>
    exact fun k s => ⟨fun hharq hfull => congrArg Host.Outcome.next (llrSpill_acts hharq hfull),
      fun hno => congrArg Host.Outcome.next (llrSpill_stays hno)⟩
  case decode =>
    intro tag i n a m bad s u r x c b hr hx hc hlate hposted hstate hplace hdecode
    exact congrArg Host.Outcome.next (codeBlockDecode_decodes hr hx hc hlate hposted hstate hplace hdecode)
  case lost =>
    intro tag i n a d s u v r x c hr hx hc hlate hposted hspilled hplace hdraw
    exact congrArg Host.Outcome.next (codeBlockDecode_lost hr hx hc hlate hposted hspilled hplace hdraw)
  case noRoom =>
    exact fun tag i n bad s r x c hr hx hc hplace => congrArg Host.Outcome.next (codeBlockDecode_noRoom hr hx hc hplace)
  case writeback =>
    intro tag i n s r x c hr hx hc hposted hknown
    have heq := codeBlockWriteback_known hr hx hc hposted hknown
    exact ⟨fun hnew => congrArg Host.Outcome.next (heq.trans (if_neg (by simp [hnew]))),
      fun hdone => congrArg Host.Outcome.next (heq.trans (if_pos hdone))⟩
  case crc =>
    intro tag i a s u r x out hr hx hlate hposted hcombined hnew hknown hplace hout
    subst hout
    exact congrArg Host.Outcome.next (tbCrcCheck_known hr hx hlate hposted hcombined hnew hknown hplace)
  case header =>
    intro tag i s r x ok hr hx hok hposted hparts
    have heq := harqHeaderWrite_known hr hx hok hposted hparts
    exact ⟨fun hnew => congrArg Host.Outcome.next (heq.trans (if_neg (by simp [hnew]))),
      fun hdone => congrArg Host.Outcome.next (heq.trans (if_pos hdone))⟩
  case label =>
    intro tag i s r x l hr hx hl
    exact ⟨fun hpass hidle => congrArg Host.Outcome.next (labelEncode_labels hr hx hpass hidle hl),
      fun hno => congrArg Host.Outcome.next (labelEncode_stays hr hx hno)⟩
  case polar =>
    exact fun tag i at_ s r u hu hk => congrArg Host.Outcome.next (polarDecode_large hu hk)
  case small =>
    intro tag i at_ s r u b m t hu h0 hk hdecode
    have heq : exec (.smallBlockDecode tag i at_) s = .next _ :=
      congrArg Host.Outcome.next (smallBlockDecode_small hu h0 hk hdecode)
    exact ⟨fun ht => by simp only [heq, if_neg ht], fun ht => by simp only [heq, if_pos ht]⟩
  case sizes =>
    intro tag i at_ s r u hu
    exact ⟨fun hk => congrArg Host.Outcome.next (polarDecode_small hu hk),
      fun hk => congrArg Host.Outcome.next (smallBlockDecode_large hu hk)⟩
  case encode =>
    intro tag i s d q p b hd hq hp hfault hposted hb
    have heq : exec (.dlEncode tag i) s = .next _ :=
      congrArg Host.Outcome.next (dlEncode_stores hd hq hp hfault hposted hb)
    exact ⟨fun a ha hfits => by rw [heq, storeCoded_fits ha hfits], fun hno => by rw [heq, storeCoded_noPlace hno]⟩
  case prach =>
    intro tag root stream rep u s x x1 q y hx hq hopen hnew hroot hstream hrep hy hx1
    exact congrArg Host.Outcome.next (prachCorrelation_stores hx hq hopen hnew hroot hstream hrep hy hx1)

end Sys2Proof.Machine
end

section
/-!
SUPPORT. The configuration records of the chip: what each command that takes one ends with, and that the spine digest does not depend
on what a link's change of state touches. A record's check is rewritten to its result before that pair is taken apart: the kernel would
evaluate it otherwise.
-/

namespace Sys2Proof.Machine
open Sys2Proof

/-! ### Events and links -/

theorem msix_eq (s : State) (v : Nat) : ∃ h o, s.msix v = { s with host := h, out := o } := by
  unfold State.msix
  split
  · split
    · exact ⟨_, s.out, rfl⟩
    · exact ⟨s.host, _, rfl⟩
  · exact ⟨s.host, s.out, rfl⟩

theorem hostWrAll_eq (s : State) (w : List (Nat × Bytes)) : ∃ m, s.hostWrAll w = { s with mem := m } := by
  induction w generalizing s with
  | nil => exact ⟨s.mem, rfl⟩
  | cons p w ih =>
    obtain ⟨m, hm⟩ := ih (s.hostWr p.1 p.2)
    exact ⟨m, hm⟩

/-- An event changes what the host link and the mailbox hold, memory and the outputs alone. -/
theorem event_eq (s : State) (ev src : Nat) (b : Bytes) :
    ∃ h x m o, s.event ev src b = { s with host := h, mbx := x, mem := m, out := o } := by
  unfold State.event State.tryEvent
  by_cases hlink : s.linkOk = true
  · simp only [hlink, if_true]
    generalize Ring.put _ _ = put
    match put with
    | none => exact ⟨s.host, _, s.mem, s.out, rfl⟩
    | some (r, w) =>
      obtain ⟨m, hm⟩ := hostWrAll_eq s w
      obtain ⟨h, o, ho⟩ := msix_eq ((((s.hostWrAll w).setMbx fun m => { m with evq := r }).putIndex 0x08 r.prod).setInt 3) 0
      exact ⟨h, _, _, o, ho.trans (by rw [hm]; rfl)⟩
  · simp only [hlink]
    exact ⟨s.host, _, s.mem, s.out, rfl⟩

section Links
variable {α : Type} {g : State → α} (hlinks : ∀ s l f, g (State.setLink s l f) = g s)
  (hevent : ∀ s ev src b, g (State.event s ev src b) = g s)
include hlinks hevent

/-- What neither a link nor an event touches, a change of a link's state keeps; and so what goes down and up again does. -/
theorem setLinkState_keeps (s : State) (l : Fin 4) (st : LinkState) : g (s.setLinkState l st) = g s := by
  unfold State.setLinkState
  dsimp only
  split
  · rfl
  · exact (hevent _ _ _ _).trans (hlinks _ _ _)

theorem linkDown_keeps (s : State) (l : Fin 4) : g (s.linkDown l) = g s :=
  (setLinkState_keeps hlinks hevent _ _ _).trans (hlinks _ _ _)

theorem relink_keeps (s : State) : g s.relink = g s := by
  refine foldl_keeps g _ (fun s l => ?_) _ s
  split
  · split
    · exact setLinkState_keeps hlinks hevent _ _ _
    · rfl
  · exact linkDown_keeps hlinks hevent _ _

end Links

/-! ### The spine digest (R337) -/

theorem spineNow_spine (s : State) : s.spineNow.stitch.spine = digest256 s.canonImage := by
  simp only [State.spineNow, State.setStitch_stitch]

theorem relink_spine (s : State) : s.relink.stitch.spine = s.stitch.spine := by
  refine relink_keeps (g := fun s => s.stitch.spine) (fun _ _ _ => rfl) (fun s ev src b => ?_) s
  obtain ⟨h, x, m, o, heq⟩ := event_eq s ev src b
  rw [heq]

/-- The canonical image of a configuration does not depend on the links. -/
theorem linksDown_canonImage (f : ChipCfg → ChipCfg) (l : List (Fin 4)) (s : State) :
    ((l.foldl State.linkDown s).setCfg f).canonImage = (s.setCfg f).canonImage := by
  refine foldl_keeps (fun s => (s.setCfg f).canonImage) _
    (linkDown_keeps (g := fun s => (s.setCfg f).canonImage) (fun _ _ _ => rfl) fun s ev src b => ?_) l s
  obtain ⟨h, x, m, o, heq⟩ := event_eq s ev src b
  rw [heq]
  rfl

/-! ### SCHED_CONFIG (R378, R400) -/

section Sched
variable {c : Cmd} {s : State} {r : Bytes} {rep : List Rep}

theorem doSchedConfig_badComplement (hcpl : cplAt c.params 0 128 = false) : doSchedConfig c s = .fail s 5 := by
  unfold doSchedConfig
  rw [hcpl]
  rfl

theorem doSchedConfig_overlaps (hcpl : cplAt c.params 0 128 = true)
    (hr : checkFields 0 (schedFields s.ddrBytes) (slice c.params 0 128) = (r, rep))
    (hoverlap : (schedRuns r).all s.isProtected = false) : doSchedConfig c s = .fail s 9 := by
  unfold doSchedConfig
  rw [hcpl, hr]
  simp only [hoverlap, Bool.not_true, Bool.not_false, Bool.false_eq_true, if_false, if_true]

theorem doSchedConfig_takes (hcpl : cplAt c.params 0 128 = true)
    (hr : checkFields 0 (schedFields s.ddrBytes) (slice c.params 0 128) = (r, rep))
    (hclear : (schedRuns r).all s.isProtected = true) :
    doSchedConfig c s = { st := (s.setCfg fun g => { g with sched := r }).spineChanged, rep := rep } := by
  unfold doSchedConfig
  rw [hcpl, hr]
  simp only [hclear, Bool.not_true, Bool.false_eq_true, if_false]

end Sched

/-! ### HARQ_CONFIG (R205, R400) -/

section Harq
variable {c : Cmd} {s : State} {r r1 : Bytes} {rep1 rep2 : List Rep}

theorem doHarqConfig_badComplement (hcpl : cplAt c.params 0 32 = false) : doHarqConfig c s = .fail s 5 := by
  unfold doHarqConfig
  rw [hcpl]
  rfl

/-- The record in force counts no more buffers than fit in DDR5 (DEDUCED, log entry 39). -/
theorem doHarqConfig_takes (hcpl : cplAt c.params 0 32 = true)
    (hr1 : checkFields 0 (harqFields s.ddrBytes) (slice c.params 0 32) = (r1, rep1))
    (hr : crossSet 0 3 16 8 (min (par8 r1 2) (max 1 ((s.ddrBytes - par8 r1 0) / par8 r1 1))) r1 = (r, rep2))
    (hclear : (HarqCfg.runs ⟨par8 r 0, par8 r 1, par8 r 2, par8 r 3⟩).all s.isProtected = true) :
    doHarqConfig c s = { st := s.setCoding fun x => { x with harq := some ⟨par8 r 0, par8 r 1, par8 r 2, par8 r 3⟩ }
                         rep := rep1 ++ rep2 } := by
  unfold doHarqConfig
  rw [hcpl, hr1]
  simp only [hr, hclear, Bool.not_true, Bool.false_eq_true, if_false]

end Harq

/-! ### POOL_CONFIG (R319, R378) -/

/-- The links before a pool record takes effect: down where POOL_ID, topology, dimensions, size or chip change
(DEDUCED, log entry 16). -/
def State.linksFor (s : State) (r : Bytes) : State :=
  if slice r 0 8 == slice s.cfg.pool 0 8 && slice r 0x20 5 == slice s.cfg.pool 0x20 5 then s
  else (List.finRange 4).foldl State.linkDown s

theorem linksFor_canonImage (s : State) (r : Bytes) (f : ChipCfg → ChipCfg) :
    ((s.linksFor r).setCfg f).canonImage = (s.setCfg f).canonImage := by
  unfold State.linksFor
  split
  · rfl
  · exact linksDown_canonImage f _ s

theorem doPoolConfig_takes {c : Cmd} {s : State} {r r1 : Bytes} {rep1 rep2 : List Rep} (hcpl : cplAt c.params 0 64 = true)
    (hr1 : poolChecked (slice c.params 0 64) = (r1, rep1)) (hr : poolCross r1 = (r, rep2)) :
    doPoolConfig c s = { st := ((s.linksFor r).setCfg fun g => { g with pool := r }).spineNow.relink
                         body := (s.setCfg fun g => { g with pool := r }).spineNow.stitch.spine
                         rep := rep1 ++ rep2 } := by
  have hspine : (((s.linksFor r).setCfg fun g => { g with pool := r }).spineNow.relink).stitch.spine
      = (s.setCfg fun g => { g with pool := r }).spineNow.stitch.spine := by
    rw [relink_spine, spineNow_spine, spineNow_spine, linksFor_canonImage]
  rw [← hspine]
  unfold doPoolConfig
  rw [hcpl, hr1]
  simp only [hr, Bool.not_true, Bool.false_eq_true, if_false, State.linksFor]

/-! ### COLOPHON_STORE (R285, R400) -/

section Store
variable {c : Cmd} {s : State}

theorem doColophonStore_stored (hcpl : cplAt c.params 0 16 = true) (hstored : s.colo.stored ≠ []) :
    doColophonStore c s = .fail s 9 := by
  have hkept : (!s.colo.stored.isEmpty) = true := by simp [hstored]
  unfold doColophonStore
  rw [hcpl, hkept]
  rfl

theorem doColophonStore_takes {r : Bytes} {rep : List Rep} (hcpl : cplAt c.params 0 16 = true) (hempty : s.colo.stored = [])
    (hr : checkFields 0 (storeFields s.ddrBytes) (slice c.params 0 16) = (r, rep))
    (hclear : s.isProtected ⟨par8 r 0, par8 r 1 * 36864⟩ = true) :
    doColophonStore c s = { st := s.setColo fun x => { x with store := some (par8 r 0, par8 r 1) }, rep := rep } := by
  unfold doColophonStore
  rw [hcpl, hempty, hr]
  simp only [hclear, List.isEmpty_nil, Bool.not_true, Bool.false_eq_true, if_false]

end Store

/-- Settles O21: each served command answers with what it ran to, by the checks of its record that the clause's hypotheses decide. -/
theorem configuration_records_take_effect : Obligations.Configuration_records_take_effect := by
  unfold Obligations.Configuration_records_take_effect
  refine ⟨?sched, ?schedOverlap, ?harq, ?pool, ?store, ?stored, ?schedBroken, ?harqBroken⟩
  case sched =>
    intro c s r rep h hl hcpl hr hclear
    have hrun := doSchedConfig_takes (s := s.takeCmd c.len) hcpl hr hclear
    exact congrArg Host.Outcome.next (shortCmd_replies h hl hrun)
  case schedOverlap =>
    intro c s r rep h hl hcpl hr hoverlap
    have hrun := doSchedConfig_overlaps (s := s.takeCmd c.len) hcpl hr hoverlap
    exact congrArg Host.Outcome.next (shortCmd_replies h hl hrun)
  case harq =>
    intro c s r r1 rep1 rep2 h hl hcpl hr1 hr hclear
    have hrun := doHarqConfig_takes (s := s.takeCmd c.len) hcpl hr1 hr hclear
    exact congrArg Host.Outcome.next (shortCmd_replies h hl hrun)
  case pool =>
    intro c s r r1 rep1 rep2 h hl hcpl hr1 hr
    have hrun := doPoolConfig_takes (s := s.takeCmd c.len) hcpl hr1 hr
    exact congrArg Host.Outcome.next (shortCmd_replies h hl hrun)
  case store =>
    exact fun c s r rep h hl hcpl hempty hr hclear =>
      congrArg Host.Outcome.next (shortCmd_replies h hl (doColophonStore_takes hcpl hempty hr hclear))
  case stored =>
    exact fun c s h hl hcpl hstored => congrArg Host.Outcome.next (shortCmd_replies h hl (doColophonStore_stored hcpl hstored))
  case schedBroken =>
    exact fun c s h hl hcpl => congrArg Host.Outcome.next (shortCmd_replies h hl (doSchedConfig_badComplement hcpl))
  case harqBroken =>
    exact fun c s h hl hcpl => congrArg Host.Outcome.next (shortCmd_replies h hl (doHarqConfig_badComplement hcpl))

end Sys2Proof.Machine
end

section
/-!
SUPPORT. Quires on their clusters: what the start of one comes to by what stands in its way, the leaf that an idle core takes, the
instant of a time-out, and what the end of a window leaves of an account.
-/

namespace Sys2Proof.Machine
open Sys2Proof

/-! ### The start of a quire (R228, R230, R248, R273) -/

theorem startFault_fewEngines {s : State} {q : Quire} {p : Prog} (h : (s.inService q.cluster.val).length < p.positions) :
    startFault s q p = some 0x64 := if_pos h

theorem startFault_noStaging {s : State} {q : Quire} {p : Prog} (henough : p.positions ≤ (s.inService q.cluster.val).length)
    (hbase : s.stageBase = 0) (hsums : p.sums.any (fun d => needStaging d s.pressed && !stagingInWindow d p) = true) :
    startFault s q p = some 0x67 :=
  (if_neg henough.not_gt).trans (if_pos ⟨hbase, hsums⟩)

theorem startWaits_iff (s : State) (q : Quire) (p : Prog) : startWaits s q p = true ↔
    ((q.kind = .slotReception ∧ ∃ x ∈ s.startedOn q.cluster, x.kind = .slotReception)
      ∨ (q.kind.lc = false ∧ p.full = true ∧ s.carries q.cluster = true)) := by
  simp [startWaits, and_assoc]

section Start

variable {tag : BitVec 16} {p : Prog} {s : State} {q : Quire}
  (hq : tget? s.quires tag.toNat = some q) (hready : q.state = .ready) (hprog : q.prog = none)
include hq hready hprog

theorem quireStart_faults {code : Nat} (hfault : startFault s q p = some code) :
    quireStart tag p s = faultQuire s tag code := by
  simp [quireStart, hq, hready, hprog, hfault]

variable (hfault : startFault s q p = none)
include hfault

theorem quireStart_waits (hwaits : startWaits s q p = true) : quireStart tag p s = s := by
  simp [quireStart, hq, hready, hprog, hfault, hwaits]

theorem quireStart_notFree (hwaits : startWaits s q p = false) (hgrants : findGrants s q p = none) :
    quireStart tag p s = if q.waited then s
      else (s.setQuire tag.toNat fun q => { q with waited := true }).setCl q.cluster fun c =>
        { c with grantWait := c.grantWait + 1 } := by
  simp [quireStart, hq, hready, hprog, hfault, hwaits, hgrants]

theorem quireStart_starts {g : Grants} {m : Option Nat} {v : Nat} {u : State} (hwaits : startWaits s q p = false)
    (hgrants : findGrants s q p = some g) (hversion : readVersion s q = some (m, v, u)) :
    quireStart tag p s = applyGrants u q p g m v := by
  simp [quireStart, hq, hready, hprog, hfault, hwaits, hgrants, hversion]

end Start

/-! ### The leaf that an idle core takes (R227, R231, R240) -/

section Dispatch

variable {c : Fin 8} {s : State}

theorem leafDispatch_busy (hbusy : (s.core c).leaf.isSome = true) : leafDispatch c s = s := if_pos hbusy

/-- With no re-shard held, the first ready latency-critical leaf is taken. -/
theorem chooseLeaf_latencyCritical {q : Quire} (hfree : (s.startedOn (clOfCore c)).find? (·.hold) = none)
    (hfirst : (sortBy (lcBefore s)
      ((s.startedOn (clOfCore c)).filter fun q => lcReady s q (c.val % 2))).head? = some q) :
    chooseLeaf s c = (some q, s) := by
  simp only [chooseLeaf, hfree, Bool.and_true, hfirst]

/-- With no re-shard held and no latency-critical leaf ready, the round-robin picks. -/
theorem chooseLeaf_noneReady (hfree : (s.startedOn (clOfCore c)).find? (·.hold) = none)
    (hnone : ∀ x ∈ s.startedOn (clOfCore c), lcReady s x (c.val % 2) = false) :
    chooseLeaf s c = bePick s (clOfCore c) (c.val % 2) := by
  have hempty : ((s.startedOn (clOfCore c)).filter fun q => lcReady s q (c.val % 2)) = [] :=
    List.filter_eq_nil_iff.2 fun x hx => by simp [hnone x hx]
  simp only [chooseLeaf, hfree, Bool.and_true, hempty, sortBy, List.head?_nil, Option.isSome_none, Bool.false_eq_true,
    if_false]

theorem leafDispatch_latencyCritical {q : Quire} (hidle : (s.core c).leaf = none)
    (hchosen : chooseLeaf s c = (some q, s)) (hlc : q.kind.lc = true) :
    leafDispatch c s = startNext (preemptBe s q.cluster c) q c := by
  simp [leafDispatch, hidle, hchosen, hlc]

theorem leafDispatch_bestEffort {q : Quire} {u : State} (hidle : (s.core c).leaf = none)
    (hchosen : chooseLeaf s c = (some q, u)) (hbe : q.kind.lc = false) : leafDispatch c s = startNext u q c := by
  simp [leafDispatch, hidle, hchosen, hbe]

theorem leafDispatch_nothing {u : State} (hidle : (s.core c).leaf = none) (hchosen : chooseLeaf s c = (none, u)) :
    leafDispatch c s = u := by
  simp [leafDispatch, hidle, hchosen]

end Dispatch

/-! ### Time-outs (R248) -/

section Timeout

variable {tag : BitVec 16} {s : State} {q : Quire} {t : Nat}
  (hq : tget? s.quires tag.toNat = some q) (hopen : q.state.open_ = true)
include hq hopen

theorem quireTimeout_latencyCritical (hlc : q.kind.lc = true) (hdue : dueNow s q = some t) :
    quireTimeout tag s = faultQuire (s.advance (t + usTicks 500 - (s.cl q.cluster).counter.toNat)) tag 0x66 := by
  simp only [quireTimeout, hq, hlc, hdue, hopen, if_true, Option.map_some, Bool.not_true, Bool.false_eq_true, if_false]

theorem quireTimeout_bestEffort (hbe : q.kind.lc = false) (hwait : localWait s q = some t) :
    quireTimeout tag s = faultQuire (s.advance (t + usTicks 100000 - (s.cl q.cluster).counter.toNat)) tag 0x66 := by
  simp only [quireTimeout, hq, hbe, hwait, hopen, Option.map_some, Bool.not_true, Bool.false_eq_true, if_false]

end Timeout

/-! ### The end of an accounting window (R234) -/

theorem tget?_tmap {α : Type} (t : Table α) (f : Nat → α → α) (i : Nat) : tget? (tmap t f) i = (tget? t i).map (f i) := by
  induction t with
  | nil => rfl
  | cons p r ih =>
    obtain ⟨k, x⟩ := p
    by_cases hk : k = i
    · subst hk
      simp [tmap, tget?]
    · simpa [tmap, tget?, hk] using ih

/-- The accounts of a cluster with one opened for a consumer that has none. -/
def openAccount (t : Table Account) (n : Nat) : Table Account :=
  match tget? t n with
  | some _ => t
  | none => tset t n {}

/-- The accounts of a cluster with one opened for each of some cells that has none. -/
def openAccounts (t : Table Account) (l : List (Nat × Cell)) : Table Account := l.foldl (fun t c => openAccount t (c.1 + 1)) t

/-- An account that is there stays as it is when another is opened. -/
theorem tget?_openAccount {t : Table Account} {i : Nat} {a : Account} (ht : tget? t i = some a) (n : Nat) :
    tget? (openAccount t n) i = some a := by
  unfold openAccount
  split
  · exact ht
  · next habsent =>
    have hother : n ≠ i := by
      rintro rfl
      simp [ht] at habsent
    exact (tget?_tset_other t _ hother).trans ht

theorem tget?_openAccounts {i : Nat} {a : Account} (l : List (Nat × Cell)) :
    ∀ {t : Table Account}, tget? t i = some a → tget? (openAccounts t l) i = some a := by
  induction l with
  | nil => exact id
  | cons c l ih => exact fun ht => ih (tget?_openAccount ht (c.1 + 1))

/-- What the end of a window leaves of an account: the window's count and entitlement for the read-back, the count restarted. -/
def Account.closed (a : Account) (entitled : Nat) : Account :=
  { a with lastWindow := a.window, lastEntitled := entitled, window := 0, exceeds := false }

/-- The cluster after the end of its window, from the state in which its live leaves are charged. -/
theorem accountWindowEnd_cl {k : Fin 4} {s u : State}
    (hu : u = chargeLive (s.advanceTo ((s.cl k).winStart + s.acctWindow * 25000)) k) :
    (accountWindowEnd k s).cl k = { u.cl k with
      accounts := tmap (openAccounts (u.cl k).accounts (u.cellsOn k)) fun n a => a.closed (u.entitlement k n)
      winCycles := 0
      winEngines := (u.inService k.val).length
      winStart := u.ticks.toNat } := by
  subst hu
  exact State.setCl_self _ _ _

theorem accountWindowEnd_account {k : Fin 4} {s u : State} {i : Nat} {a : Account}
    (hu : u = chargeLive (s.advanceTo ((s.cl k).winStart + s.acctWindow * 25000)) k)
    (ha : tget? (u.cl k).accounts i = some a) :
    tget? ((accountWindowEnd k s).cl k).accounts i = some (a.closed (u.entitlement k i)) := by
  simp only [accountWindowEnd_cl hu, tget?_tmap, tget?_openAccounts _ ha, Option.map_some]

/-- Settles O41: each command by the lemma of the way that the clause's hypotheses choose. -/
theorem quires_start_dispatch_time_out_and_account : Obligations.Quires_start_dispatch_time_out_and_account := by
  unfold Obligations.Quires_start_dispatch_time_out_and_account
  refine ⟨?starts, ?kept, startWaits_iff, ?idle, ?busy, ?timeout, ?window⟩
  case starts =>
    intro tag p s u q g m v hq hready hprog hfault hwaits hgrants hversion
    exact congrArg Host.Outcome.next (quireStart_starts hq hready hprog hfault hwaits hgrants hversion)
  case kept =>
    intro tag p s q hq hready hprog
    refine ⟨fun hfew => ?fewEngines, fun henough hbase hsums => ?noStaging, fun hfault hwaits => ?waits,
      fun hfault hwaits hgrants hfirst => ?counted, fun hfault hwaits hgrants hagain => ?again⟩
    case fewEngines =>
      exact congrArg Host.Outcome.next (quireStart_faults hq hready hprog (startFault_fewEngines hfew))
    case noStaging =>
      exact congrArg Host.Outcome.next (quireStart_faults hq hready hprog (startFault_noStaging henough hbase hsums))
    case waits => exact congrArg Host.Outcome.next (quireStart_waits hq hready hprog hfault hwaits)
    case counted =>
      refine congrArg Host.Outcome.next ((quireStart_notFree hq hready hprog hfault hwaits hgrants).trans ?_)
      rw [if_neg (by simp [hfirst])]
    case again =>
      exact congrArg Host.Outcome.next ((quireStart_notFree hq hready hprog hfault hwaits hgrants).trans (if_pos hagain))
  case idle =>
    intro c s hidle hfree
    refine ⟨fun q hfirst hlc => ?_, fun hnone => ?_⟩
    · have hchosen := chooseLeaf_latencyCritical hfree hfirst
      exact congrArg Host.Outcome.next (leafDispatch_latencyCritical hidle hchosen hlc)
    · have hchosen := chooseLeaf_noneReady hfree hnone
      exact ⟨fun q u hpick hbe =>
          congrArg Host.Outcome.next (leafDispatch_bestEffort hidle (hchosen.trans hpick) hbe),
        fun u hpick => congrArg Host.Outcome.next (leafDispatch_nothing hidle (hchosen.trans hpick))⟩
  case busy => exact fun c s hbusy => congrArg Host.Outcome.next (leafDispatch_busy hbusy)
  case timeout =>
    intro tag s q t hq hopen
    exact ⟨fun hlc hdue => congrArg Host.Outcome.next (quireTimeout_latencyCritical hq hopen hlc hdue),
      fun hbe hwait => congrArg Host.Outcome.next (quireTimeout_bestEffort hq hopen hbe hwait)⟩
  case window =>
    intro k s u i a hu
    have hcl := accountWindowEnd_cl hu
    exact ⟨accountWindowEnd k s, rfl, by rw [hcl], by rw [hcl], fun ha _ => accountWindowEnd_account hu ha⟩

end Sys2Proof.Machine
end

section
/-!
SUPPORT. The commands that read a status: what each answers by what it finds, and whether the counters that it read restart.
-/

namespace Sys2Proof.Machine
open Sys2Proof

/-! ### The answer of a served command with an output buffer -/

/-- A served short command answers with what it ran to in its output buffer, where that holds it. -/
theorem shortCmd_repliesOut {code : Nat} {early : Bool} {c : Cmd} {s u : State} {lenOk : Nat → Bool} {out : Bytes}
    {run : Cmd → State → CmdOut} (h : Served code early c s) (hl : lenOk c.params.length = true)
    (hrun : run c (s.takeCmd c.len) = { st := u, outb := out }) (hout : out.length ≤ c.obLen.toNat) :
    shortCmd code early lenOk run c s = replyOut code c 0 out [] u := by
  rw [shortCmd_served h hl, hrun, finish_replyOut _ _ _ _ hout rfl rfl]

/-- A served short command that reads answers with what it read. -/
theorem shortCmd_answers {code : Nat} {early : Bool} {c : Cmd} {s u : State} {lenOk : Nat → Bool} {b : Bytes}
    {run : Cmd → State → CmdOut} (h : Served code early c s) (hl : lenOk c.params.length = true)
    (hrun : run c (s.takeCmd c.len) = .answer u b) (hfits : outFits c b) :
    shortCmd code early lenOk run c s = replyRead code c b u := by
  rw [shortCmd_served h hl, hrun, finish_answer _ _ _ _ _ hfits]

section Reads

variable {c : Cmd} {s : State}

/-! ### QUIRE_STATUS (R244) -/

theorem doQuireStatus_known {q : Quire} (hq : tget? s.quires (par8 c.params 0 % 65536) = some q) :
    doQuireStatus c s = { st := s, body := join8 [q.state.code, q.consumer, q.leaf0, q.leaf1, q.fault.toNat] } := by
  simp only [doQuireStatus, hq]

theorem doQuireStatus_unknown (hq : tget? s.quires (par8 c.params 0 % 65536) = none) :
    doQuireStatus c s = .fail s 7 := by
  simp only [doQuireStatus, hq]

/-! ### ADAPT_STATUS (R185) -/

theorem doAdaptStatus_known {m : Model} (hm : (s.modelSlotOf (par8 c.params 0)).bind s.model? = some m) :
    doAdaptStatus c s = .answer s (m.versions.flatMap versionRecord) := by
  simp only [doAdaptStatus, hm]

theorem doAdaptStatus_unknown (hm : (s.modelSlotOf (par8 c.params 0)).bind s.model? = none) :
    doAdaptStatus c s = .fail s 7 := by
  simp only [doAdaptStatus, hm]

/-! ### MODULE_READ (R307) -/

/-- A page of a present module is read: page 00h of a ready one is known, any other is a free value. -/
theorem doModuleRead_present {cage : Fin 8} (hcage : par8 c.params 0 = cage.val) (hpresent : (s.fe.cages[cage]).present = true)
    (hpage : par8 c.params 1 ∈ [0, 1, 2, 0x11]) (hrange : par8 c.params 2 + par8 c.params 3 ≤ 256) :
    doModuleRead c s = if par8 c.params 1 = 0 ∧ (s.fe.cages[cage]).ready = true then
        { st := s, body := slice (s.fe.cages[cage]).page0 (par8 c.params 2) (par8 c.params 3) }
      else { st := { s with fresh := s.fresh + 1 }, body := toLE (par8 c.params 3) (Config.fresh s.fresh) } := by
  have hfound : s.fe.cages.toList[par8 c.params 0]? = some (s.fe.cages[cage]) := by
    rw [hcage]
    simp
  have hserved : (!(s.fe.cages[cage]).present || !([0, 1, 2, 0x11].contains (par8 c.params 1))
      || decide (256 < par8 c.params 2 + par8 c.params 3)) = false := by
    simp only [hpresent, List.contains_iff_mem.2 hpage, decide_eq_false hrange.not_gt, Bool.not_true, Bool.or_self]
  simp only [doModuleRead, hfound, hserved, Bool.false_eq_true, if_false, Bool.and_eq_true, decide_eq_true_eq, State.draw]

/-! ### FH_STATS (R313) -/

theorem doFhStats_reads (hscope : par8 c.params 0 ≤ 3) (hindex : par8 c.params 1 < scopeSize (par8 c.params 0)) :
    doFhStats c s =
      { st := if bit (par8 c.params 2) 0 then s.setFe fun e => { e with ctrs := e.ctrs.filter fun p =>
            !((scopeCtrs (par8 c.params 0)).map fun x => x.key (par8 c.params 1)).contains p.1 }
          else s
        body := join8 (((scopeCtrs (par8 c.params 0)).map fun x => x.key (par8 c.params 1)).map fun k =>
          (tget s.fe.ctrs k 0).toNat) } :=
  if_neg (by omega)

/-! ### YARDSTICK_READ (R190) -/

theorem doYardstickRead_unplaced
    (hcells : ((List.range 64).filter (bit (par8 c.params 0))).all (fun i => (s.cell? i).isSome) = false) :
    doYardstickRead c s = .fail s 7 :=
  if_pos (by rw [hcells]; rfl)

/-- The head and rows of cells, where an undefined gap or gain is the free value of the next draw. -/
def State.yardRecords (s : State) (cells : List Nat) : Bytes :=
  cells.flatMap fun i => yardBytes (match s.cell? i with | some x => x.yardMode | none => 0) (Config.fresh s.fresh)
    (tget s.yard i {})

/-- The yardsticks with the counts and rows of some cells restarted. -/
def State.yardCleared (s : State) (cells : List Nat) : Table Yard :=
  cells.foldl (fun t i => tmod t i {} fun y =>
    { y with taken := 0, dropped := 0, tb := 0, rows := Vector.replicate 4 {} }) s.yard

theorem doYardstickRead_reads {cells : List Nat} (hmask : (List.range 64).filter (bit (par8 c.params 0)) = cells)
    (hcells : cells.all (fun i => (s.cell? i).isSome) = true) :
    doYardstickRead c s = .answer
      (if par8 c.params 1 = 1 then { s with fresh := s.fresh + 1, yard := s.yardCleared cells }
        else { s with fresh := s.fresh + 1 }) (s.yardRecords cells) := by
  subst hmask
  exact if_neg (by rw [hcells]; decide)

end Reads

/-- Settles O10: each served command answers with what it ran to, by what its parameters name. -/
theorem status_reads_answer : Obligations.Status_reads_answer := by
  unfold Obligations.Status_reads_answer
  refine ⟨?quire, ?noQuire, ?share, ?adapt, ?noModel, ?module, ?fh, ?sl, ?yard, ?noCell⟩
  case quire =>
    exact fun c s q h hl hq => congrArg Host.Outcome.next (shortCmd_replies h hl (doQuireStatus_known hq))
  case noQuire =>
    exact fun c s h hl hq => congrArg Host.Outcome.next (shortCmd_replies h hl (doQuireStatus_unknown hq))
  case share =>
    intro c s out h hl hout hfits
    subst hout
    exact congrArg Host.Outcome.next (shortCmd_repliesOut (run := doShareRead) h hl rfl hfits)
  case adapt =>
    exact fun c s m h hl hm hfits => congrArg Host.Outcome.next (shortCmd_answers h hl (doAdaptStatus_known hm) hfits)
  case noModel =>
    exact fun c s h hl hm => congrArg Host.Outcome.next (shortCmd_replies h hl (doAdaptStatus_unknown hm))
  case module =>
    intro c s cage h hl hcage hpresent hpage hrange
    have hrun := doModuleRead_present (s := s.takeCmd c.len) hcage hpresent hpage hrange
    split
    · next hknown => exact congrArg Host.Outcome.next (shortCmd_replies h hl (hrun.trans (if_pos hknown)))
    · next hfree => exact congrArg Host.Outcome.next (shortCmd_replies h hl (hrun.trans (if_neg hfree)))
  case fh =>
    exact fun c s h hl hscope hindex => congrArg Host.Outcome.next (shortCmd_replies h hl (doFhStats_reads hscope hindex))
  case sl =>
    exact fun c s h hl => congrArg Host.Outcome.next (shortCmd_replies (run := doSlStats) h hl rfl)
  case yard =>
    exact fun c s cells h hl hmask hcells hfits =>
      congrArg Host.Outcome.next (shortCmd_answers h hl (doYardstickRead_reads hmask hcells) hfits)
  case noCell =>
    exact fun c s h hl hcells => congrArg Host.Outcome.next (shortCmd_replies h hl (doYardstickRead_unplaced hcells))

end Sys2Proof.Machine
end

section
/-!
SUPPORT. Slot marks: what each source comes to by whether it is the configured one, and the loss of a timing group's marks.
-/

namespace Sys2Proof.Machine
open Sys2Proof

/-! ### Marks that arrive (R224, R226, R427, R444) -/

theorem noteMark_one (s : State) (g : Nat) : noteMark s [g] = s.setCfg fun c => { c with
    lastMark := tset c.lastMark g s.ticks.toNat
    lostGroups := c.lostGroups.filter (· != g) } := by
  have hothers : (fun x => !([g].contains x)) = fun x : Nat => x != g := by
    funext x
    simp [bne, Bool.beq_eq_decide_eq]
  simp only [noteMark, hothers, List.foldl_cons, List.foldl_nil]

theorem noteMark_cells (s : State) (l : List Nat) : (noteMark s l).cfg.cells = s.cfg.cells := rfl

/-- A mark for every timing group goes to each cell that is placed or waits for its full save. -/
theorem markGroup_all (s : State) (lead : Cell → Nat) : markGroup s (fun _ => true) lead
    = (s.cfg.cells.filter fun p => p.2.placed || p.2.waitFull).foldl (fun s p =>
        alignClock (if p.2.placed then expectClose s p.1 p.2.cluster (lead p.2) else s) p.1 (lead p.2)) s := by
  simp only [markGroup, Bool.and_true]

section Requests

variable {v : BitVec 32} {s : State} (hbar : BarOk s)
include hbar

theorem slotMark_taken (hsource : s.markSource = 0) (hlead : bits v.toNat 0 16 ≤ 9999) :
    slotMark v s = markGroup (noteMark s [bits v.toNat 24 4]) (fun c => c.timingGroup == bits v.toNat 24 4)
      fun _ => bits v.toNat 0 16 := by
  have htaken : ¬(s.markSource ≠ 0 ∨ 9999 < bits v.toNat 0 16) := by simp [hsource, hlead]
  simp only [slotMark, barReq_ok hbar, if_neg htaken]

theorem slotMark_ignored (h : s.markSource ≠ 0 ∨ 9999 < bits v.toNat 0 16) : slotMark v s = ignoreMark s := by
  simp only [slotMark, barReq_ok hbar, if_pos h]

end Requests

theorem slotMarkIn_ignored {s : State} (hsource : s.markSource ≠ 1) : slotMarkIn s = ignoreMark s := if_pos hsource

theorem slotMarkIn_taken {s : State} (hsource : s.markSource = 1) :
    slotMarkIn s = markGroup ((noteMark s (List.range 16)).setCfg fun c => { c with lastEdge := some s.ticks.toNat })
      (fun _ => true) Cell.closeOffset :=
  if_neg (not_not.2 hsource)

/-- The close that a mark sets is expected on the cluster's counter. -/
theorem mem_expectClose (s : State) (cell : Nat) (k : Fin 4) (lead : Nat) :
    { cell := cell, close := (s.cl k).counter.toNat + usTicks lead, marked := (s.cl k).counter.toNat }
      ∈ ((expectClose s cell k lead).cl k).expects := by
  simp [expectClose]

/-! ### Marks that are lost (R226) -/

theorem markLost_known {g : Fin 16} {s : State} (hlost : s.cfg.lostGroups.contains g.val = true) : markLost g s = s :=
  if_pos (by rw [hlost, Bool.or_true])

theorem markLost_first {g : Fin 16} {s s1 : State}
    (hcells : s.cfg.cells.any (fun p => p.2.placed && p.2.timingGroup == g.val) = true)
    (hnew : s.cfg.lostGroups.contains g.val = false)
    (hs1 : s1 = s.advanceTo (tget s.cfg.lastMark g.val s.ticks.toNat + usTicks 10000)) :
    markLost g s = (s1.setCfg fun c => { c with lostGroups := g.val :: c.lostGroups }).event 2 g.val (toLE 4 g.val) := by
  rw [hs1, markLost, if_neg (by rw [hcells, hnew]; exact Bool.false_ne_true)]

/-- Settles O31: a mark of the configured source is noted and goes to its cells, another is counted; a group is lost once. -/
theorem slot_marks_set_the_close : Obligations.Slot_marks_set_the_close := by
  unfold Obligations.Slot_marks_set_the_close
  refine ⟨?mark, ?ignored, ?edgeIgnored, ?edge, ?lost, ?lostAgain, ?close⟩
  case mark =>
    intro v s s0 hbar hsource hlead hs0
    have hnoted : noteMark s [bits v.toNat 24 4] = s0 := (noteMark_one s _).trans hs0.symm
    refine congrArg Host.Outcome.next ((slotMark_taken hbar hsource hlead).trans ?_)
    rw [hnoted, markGroup, hs0]
  case ignored => exact fun v s hbar h => congrArg Host.Outcome.next (slotMark_ignored hbar h)
  case edgeIgnored => exact fun s hsource => congrArg Host.Outcome.next (slotMarkIn_ignored hsource)
  case edge =>
    intro s s0 hsource hs0
    have hcells : s0.cfg.cells = s.cfg.cells := by rw [hs0, State.setCfg_cfg, noteMark_cells]
    refine congrArg Host.Outcome.next ((slotMarkIn_taken hsource).trans ?_)
    rw [← hs0, markGroup_all, hcells]
  case lost => exact fun g s s1 hcells hnew hs1 => congrArg Host.Outcome.next (markLost_first hcells hnew hs1)
  case lostAgain => exact fun g s hlost => congrArg Host.Outcome.next (markLost_known hlost)
  case close => exact fun s cell k lead => ⟨_, mem_expectClose s cell k lead, rfl, rfl⟩

end Sys2Proof.Machine
end

section
/-!
SUPPORT. Sync objects: where a released SIG goes by its reference, how waits end or register again, and what each of the five SYNC messages
does at the object that it names.
-/

namespace Sys2Proof.Machine
open Sys2Proof

/-! ### Where a reference leads -/

@[simp] theorem meetError_cfg (s : State) (k : Fin 4) (i : Nat) (e : SyncError) : (meetError s k i e).cfg = s.cfg := by
  cases e <;> rfl

/-- An object of this chip is on the issuer's cluster, or on the one that a FAR reference names. -/
theorem refLocal_of_place {s : State} {c : Fin 8} {ref : BitVec 64} {k : Fin 4}
    (h : ((ObjRef.of ref).far = false ∧ k = clOfCore c)
      ∨ ((ObjRef.of ref).far = true ∧ (ObjRef.of ref).chip = s.chip ∧ k = (ObjRef.of ref).cluster)) :
    refRemote s ref = false ∧ k = refCluster c ref := by
  rcases h with ⟨hnear, rfl⟩ | ⟨hfar, hchip, rfl⟩
  · simp [refRemote, refCluster, hnear]
  · simp [refRemote, refCluster, hfar, hchip]

theorem routeSig_local {s : State} {ref : BitVec 64} (hlocal : refRemote s ref = false) (c : Fin 8) (tag : BitVec 16) (n : BitVec 32) :
    routeSig s (clOfCore c) tag ref n = sigObj s (refCluster c ref) (ObjRef.of ref).index (ObjRef.of ref).tag n := by
  cases hfar : (ObjRef.of ref).far with
  | false => simp [routeSig, refCluster, hfar]
  | true =>
    have hchip : (ObjRef.of ref).chip = s.chip := by simpa [refRemote, hfar] using hlocal
    simp [routeSig, refCluster, hfar, hchip]

theorem routeSig_away {s : State} {ref : BitVec 64} (hfar : (ObjRef.of ref).far = true) (hchip : (ObjRef.of ref).chip ≠ s.chip)
    (k : Fin 4) (tag : BitVec 16) (n : BitVec 32) : routeSig s k tag ref n = sendSig s tag ref n := by
  simp only [routeSig, hfar, Bool.not_true, Bool.false_eq_true, if_false, if_neg hchip]

/-! ### Released SIGs (R253, R254, R257) -/

section Released

variable {c : Fin 8} (err : SyncError) {s : State}

theorem sigApply_nothing (hnone : (s.core c).released = []) : sigApply c err s = s := by
  simp only [sigApply, hnone]

variable {ref : BitVec 64} {n : BitVec 32} {tag : BitVec 16} {l : List (BitVec 64 × BitVec 32 × BitVec 16)}
  (hreleased : (s.core c).released = (ref, n, tag) :: l)
include hreleased

theorem sigApply_waits (hwaits : sigWaits s tag (ObjRef.of ref) = true) : sigApply c err s = s := by
  simp only [sigApply, hreleased, if_pos hwaits]

/-- The cluster that the grant object is looked for on is the one that the SIG was performed on. -/
theorem sigApply_local (hgoes : sigWaits s tag (ObjRef.of ref) = false) (hlocal : refRemote s ref = false) :
    sigApply c err s = grantCheck (sigObj (meetError (s.setCore c fun x => { x with released := l }) (refCluster c ref)
      (ObjRef.of ref).index err) (refCluster c ref) (ObjRef.of ref).index (ObjRef.of ref).tag n) (refCluster c ref)
      (ObjRef.of ref).index := by
  have hread : refRemote (meetError (s.setCore c fun x => { x with released := l }) (refCluster c ref) (ObjRef.of ref).index err)
      ref = false := (refRemote_congr (meetError_cfg _ _ _ _) ref).trans hlocal
  rw [← routeSig_local hread c tag]
  have hhere : ((ObjRef.of ref).far && (ObjRef.of ref).chip != s.chip) = false := hlocal
  simp only [sigApply, hreleased, hgoes, hhere, Bool.false_eq_true, if_false]
  cases hfar : (ObjRef.of ref).far with
  | false => simp [refCluster, hfar]
  | true =>
    have hchip : (ObjRef.of ref).chip = s.chip := by simpa [refRemote, hfar] using hlocal
    simp [refCluster, hfar, hchip]

theorem sigApply_away (hgoes : sigWaits s tag (ObjRef.of ref) = false) (hfar : (ObjRef.of ref).far = true)
    (hchip : (ObjRef.of ref).chip ≠ s.chip) :
    sigApply c err s = sendSig (s.setCore c fun x => { x with released := l }) tag ref n := by
  rw [← routeSig_away (s := s.setCore c _) hfar hchip (clOfCore c)]
  simp [sigApply, hreleased, hgoes, hfar, hchip]

end Released

/-! ### Waits and holds (R256, R261, R263) -/

section Waits

variable {c : Fin 8} {s : State} {w : WaitCtx} {q : Quire} (hw : (s.core c).wait = some w) (hq : liveQuire s c = some q)

theorem expireWait_local (hlocal : w.remote = false) : expireWait s c w = coreOutcome (dropMonitors s c) c
    { st := .expired, count := (s.obj (if (ObjRef.of w.ref).far then (ObjRef.of w.ref).cluster else clOfCore c)
      (ObjRef.of w.ref).index).count } :=
  if_neg (by simp [hlocal])

include hw hq

theorem waitExpired_ends (hloose : q.pressed = false) (hlimit : w.limit ≠ 0) :
    waitExpired c s = expireWait (s.advance (usTicks w.limit.toNat
      - ((s.cl (clOfCore c)).counter - BitVec.ofNat 48 w.issued).toNat)) c w := by
  simp only [waitExpired, hw, hq]
  exact if_neg (not_or.2 ⟨hlimit, by simp [hloose]⟩)

theorem waitExpired_noLimit (h : w.limit = 0 ∨ q.pressed = true) : waitExpired c s = s := by
  simp only [waitExpired, hw, hq, if_pos h]

theorem registrationRetry_sends {t : Nat} (hbusy : w.busy = some t) :
    registrationRetry c s = sendReg ((s.advanceTo (t + usTicks 2)).setCore c fun x =>
      { x with wait := some { w with busy := none } }) c q w := by
  simp only [registrationRetry, hw, hq, hbusy]

end Waits

theorem objectHoldExpiry_frees {k : Fin 4} {i : Nat} {s : State} {t : Nat} (hheld : tget? (s.cl k).held i = some t)
    (hwaiters : tget ((s.advanceTo (t + usTicks 1000)).cl k).waiters i [] = []) :
    objectHoldExpiry k i s = (s.advanceTo (t + usTicks 1000)).setCl k fun c => { c with held := tdel c.held i } := by
  simp only [objectHoldExpiry, hheld]
  exact if_pos (by rw [hwaiters]; rfl)

/-! ### Messages that are not for their unit (R320, R323) -/

section Passed

variable {typ : Nat} {f : SMsg → State → State} {m : SMsg} {s : State}

theorem onMsg_elsewhere (hdst : m.dst.toNat ≠ s.chip) : onMsg typ f m s = s.sendMsg m := if_pos hdst

theorem onMsg_bad (hdst : m.dst.toNat = s.chip) (hbad : m.typ.toNat ≠ typ ∨ m.reservedSet = true ∨ 4096 < m.data.length) :
    onMsg typ f m s = s.slCount .msgBad 0 := by
  refine (if_neg (not_not.2 hdst)).trans (if_pos ?_)
  rcases hbad with htyp | hreserved | hlen
  · exact .inl htyp
  · exact .inr (.inl hreserved)
  · exact .inr (.inr (.inr hlen))

end Passed

/-- Each of the five SYNC messages passes the checks of a message of its TYPE. -/
theorem exec_syncMsg {i : Instr} {m : SMsg} {err : SyncError} {typ : BitVec 8}
    (h : (i = .syncSig ⟨m, err⟩ ∧ typ = 0x10) ∨ (i = .syncTake ⟨m, err⟩ ∧ typ = 0x11) ∨ (i = .syncReply m ∧ typ = 0x12)
      ∨ (i = .syncReg ⟨m, err⟩ ∧ typ = 0x13) ∨ (i = .syncCancel m ∧ typ = 0x14)) (s : State) :
    ∃ f, exec i s = .next (onMsg typ.toNat f m s) := by
  rcases h with ⟨rfl, rfl⟩ | ⟨rfl, rfl⟩ | ⟨rfl, rfl⟩ | ⟨rfl, rfl⟩ | ⟨rfl, rfl⟩ <;> exact ⟨_, rfl⟩

/-! ### Messages at their object (R254, R255, R263, R264) -/

section Messages

variable {m : SMsg} {s : State}

/-- Only a grant whose object reads with an integrity error meets it before it is judged. -/
theorem onSyncSig_judged {x : ObjRef} (hx : x = ObjRef.of (msgRef m)) (hread : m.xfer = 0 ∨ (s.obj x.cluster x.index).bad = false) :
    onSyncSig m s = if m.xfer ≠ 0 ∧ ((s.obj x.cluster x.index).owner ≠ x.tag ∨ (s.obj x.cluster x.index).felled = true)
      then s.sendMsg (ctrlMsg s 0x07 m.src.toNat 0 0 m.xfer.toNat 1)
      else grantCheck (sigObj s x.cluster x.index x.tag (m.arg.extractLsb' 64 32)) x.cluster x.index := by
  subst hx
  have hkept : ¬(m.xfer ≠ 0 ∧ (s.obj (ObjRef.of (msgRef m)).cluster (ObjRef.of (msgRef m)).index).bad = true) := by
    rcases hread with h | h <;> simp [h]
  simp only [onSyncSig, if_neg hkept]

theorem onSyncSig_applies {x : ObjRef} (hx : x = ObjRef.of (msgRef m))
    (h : m.xfer = 0 ∨ ((s.obj x.cluster x.index).bad = false ∧ (s.obj x.cluster x.index).owner = x.tag
      ∧ (s.obj x.cluster x.index).felled = false)) :
    onSyncSig m s = grantCheck (sigObj s x.cluster x.index x.tag (m.arg.extractLsb' 64 32)) x.cluster x.index := by
  rcases h with hplain | ⟨hread, howner, hstands⟩
  · exact (onSyncSig_judged hx (.inl hplain)).trans (if_neg (by simp [hplain]))
  · exact (onSyncSig_judged hx (.inr hread)).trans (if_neg (by simp [howner, hstands]))

/-- A grant that its object does not take is answered to the owner by COMPLETE (R264; log entry 13). -/
theorem onSyncSig_refused {x : ObjRef} (hx : x = ObjRef.of (msgRef m)) (hgrant : m.xfer ≠ 0)
    (hread : (s.obj x.cluster x.index).bad = false)
    (hstale : (s.obj x.cluster x.index).owner ≠ x.tag ∨ (s.obj x.cluster x.index).felled = true) :
    onSyncSig m s = s.sendMsg (ctrlMsg s 0x07 m.src.toNat 0 0 m.xfer.toNat 1) :=
  (onSyncSig_judged hx (.inr hread)).trans (if_pos ⟨hgrant, hstale⟩)

theorem onSyncReply_take {c : Fin 8} {rd n : Nat} (hreg : m.arg.getLsbD 80 = false) (hn : n = (m.arg.extractLsb' 64 16).toNat)
    (hfind : s.stitch.takes.find? (fun t => t.1 == n) = some (n, c.val, rd))
    (hlive : (s.core c).takes.any (fun t => t.1 == n) = true) :
    onSyncReply m s = (s.setStitch fun t => { t with takes := t.takes.filter fun x => x.1 != n }).setCore c fun x =>
      { x.landS rd (m.arg.extractLsb' 0 64) with takes := x.takes.filter fun t => t.1 != n } := by
  subst hn
  simp only [onSyncReply, hreg, Bool.false_eq_true, if_false, hfind, dif_pos c.isLt]
  exact setCore_congr (if_pos hlive)

/-- A BUSY reaches the live leaf of the core that its grant object names. -/
theorem onSyncReply_busy {k : Fin 4} {g r t : Nat} {q : Quire} {w : WaitCtx} (hreg : m.arg.getLsbD 80 = true)
    (hg : g = (m.arg.extractLsb' 96 16).toNat) (hk : k = (m.arg.extractLsb' 112 2).toFin)
    (hfind : s.quires.find? (fun p => p.2.cluster == k && (grantCore p.2 g).isSome && p.2.state != .ended && p.2.state != .faulted)
      = some (t, q))
    (hcore : grantCore q g = some r) (hleaf : (s.core (coreOf k r)).leaf = some q.tag)
    (hw : (s.core (coreOf k r)).wait = some w) (hremote : w.remote = true) (hseq : w.seq = (m.arg.extractLsb' 88 8).toNat) :
    onSyncReply m s = s.setCore (coreOf k r) fun x => { x with wait := some { w with busy := some s.ticks.toNat } } := by
  subst hg hk
  simp only [onSyncReply, hreg, if_true, hfind, hcore, Option.getD_some, if_pos hleaf]
  exact setCore_congr (by simp only [hw, Option.map_some, hremote, hseq, beq_self_eq_true, Bool.and_self, if_true])

end Messages

/-- Settles O43: each command and message by the lemma of the case that the clause's hypotheses choose. -/
theorem sync_objects_take_signals_waits_and_messages : Obligations.Sync_objects_take_signals_waits_and_messages := by
  unfold Obligations.Sync_objects_take_signals_waits_and_messages
  refine ⟨?released, ?nothing, ?expired, ?expiry, ?noLimit, ?retry, ?hold, ?sig, ?take, ?reply, ?busy, ?reg, ?cancel, ?passed⟩
  case released =>
    intro c err s ref n tag l hreleased
    refine ⟨fun hwaits => ?_, fun hgoes k hplace => ?_, fun hgoes hfar hchip => ?_⟩
    · exact congrArg Host.Outcome.next (sigApply_waits err hreleased hwaits)
    · obtain ⟨hlocal, rfl⟩ := refLocal_of_place hplace
      exact congrArg Host.Outcome.next (sigApply_local err hreleased hgoes hlocal)
    · exact congrArg Host.Outcome.next (sigApply_away err hreleased hgoes hfar hchip)
  case nothing => exact fun c err s hnone => congrArg Host.Outcome.next (sigApply_nothing err hnone)
  case expired =>
    exact fun c s w q hw hq hloose hlimit => congrArg Host.Outcome.next (waitExpired_ends hw hq hloose hlimit)
  case expiry => exact fun c s w hlocal => expireWait_local hlocal
  case noLimit => exact fun c s w q hw hq h => congrArg Host.Outcome.next (waitExpired_noLimit hw hq h)
  case retry => exact fun c s w q t hw hq hbusy => congrArg Host.Outcome.next (registrationRetry_sends hw hq hbusy)
  case hold =>
    rintro k i s _ t hheld rfl hwaiters
    exact congrArg Host.Outcome.next (objectHoldExpiry_frees hheld hwaiters)
  case sig =>
    rintro m err s _ x hdst hreserved hlen htyp hx rfl
    have hmsg : exec (.syncSig ⟨m, err⟩) s = .next (onSyncSig m (meetMsg s m err)) :=
      congrArg Host.Outcome.next (onMsg_ok hdst (by simp [htyp]) hreserved hlen (by simp))
    have hread : meetMsg s m err = meetError s x.cluster x.index err := by rw [hx, meetMsg]
    rw [hmsg, hread]
    exact ⟨fun h => congrArg Host.Outcome.next (onSyncSig_applies hx h),
      fun hgrant hright hstale => congrArg Host.Outcome.next (onSyncSig_refused hx hgrant hright hstale)⟩
  case take =>
    rintro m err s u _ o hdst hreserved hlen htyp rfl htake
    refine congrArg Host.Outcome.next ((onMsg_ok hdst (by simp [htyp]) hreserved hlen (by simp)).trans ?_)
    simp only [onSyncTake, meetMsg, htake]
  case reply =>
    intro m s c rd n hdst hreserved hlen htyp hreg hn hfind hlive
    exact congrArg Host.Outcome.next
      ((onMsg_ok hdst (by simp [htyp]) hreserved hlen (by simp)).trans (onSyncReply_take hreg hn hfind hlive))
  case busy =>
    intro m s k g r t q w hdst hreserved hlen htyp hreg hg hk hfind hcore hleaf hw hremote hseq
    exact congrArg Host.Outcome.next ((onMsg_ok hdst (by simp [htyp]) hreserved hlen (by simp)).trans
      (onSyncReply_busy hreg hg hk hfind hcore hleaf hw hremote hseq))
  case reg =>
    rintro m err s _ _ hdst hreserved hlen htyp rfl rfl
    have hmsg : exec (.syncReg ⟨m, err⟩) s = .next (onSyncReg m (meetMsg s m err)) :=
      congrArg Host.Outcome.next (onMsg_ok hdst (by simp [htyp]) hreserved hlen (by simp))
    rw [hmsg]
    exact ⟨fun hroom => congrArg Host.Outcome.next (if_neg hroom.not_ge),
      fun hfull => congrArg Host.Outcome.next (if_pos hfull)⟩
  case cancel =>
    rintro m s _ hdst hreserved hlen htyp rfl
    exact congrArg Host.Outcome.next (onMsg_ok hdst (by simp [htyp]) hreserved hlen (by simp))
  case passed =>
    intro i m err typ s h
    obtain ⟨f, hmsg⟩ := exec_syncMsg h s
    rw [hmsg]
    refine ⟨fun hdst => congrArg Host.Outcome.next (onMsg_elsewhere hdst), fun hdst hbad => ?_⟩
    exact congrArg Host.Outcome.next (onMsg_bad hdst (hbad.imp_left fun hne heq => hne (BitVec.eq_of_toNat_eq heq)))

end Sys2Proof.Machine
end

section
/-!
SUPPORT. What no command but a reset or start-up touches: the queue, the start-up state, fuses that are set, the security lock, the
canonical form of the memory and the range of LOG2_SIZE.
-/

namespace Sys2Proof.Machine
open Sys2Proof

/-! ### Fuses only ever gain bits -/

theorem FuseLe.refl (f : Fuses) : FuseLe f f := ⟨id, fun _ => id, id, fun _ => id, fun _ => id, fun _ => id⟩

theorem FuseLe.trans {f g k : Fuses} (a : FuseLe f g) (b : FuseLe g k) : FuseLe f k :=
  ⟨b.jtag ∘ a.jtag, fun i => b.life i ∘ a.life i, b.revoked ∘ a.revoked, fun i => b.pkg i ∘ a.pkg i,
    fun i => b.fw i ∘ a.fw i, fun r => b.root r ∘ a.root r⟩

/-! ### Quiet changes of state -/

/-- An owned part is in life cycle OWNED (R395). -/
def Fuses.ownedOk (f : Fuses) : Prop := f.ownerRoot.isSome = true → f.lifecycle = 3

/-- LOG2_SIZE is in its range (R425). -/
def Mailbox.ringOk (m : Mailbox) : Prop := 16 ≤ m.log2Size ∧ m.log2Size ≤ 24

/-- A change of state that neither runs a reset nor start-up: the queue and the boot registers stay, no fuse bit and no security lock
is cleared, and each part of the invariant is kept. -/
structure Quiet (s t : State) : Prop where
  pending : t.pending = s.pending
  boot : t.boot = s.boot
  fuses : FuseLe s.sec.fuses t.sec.fuses
  owned : s.sec.fuses.ownedOk → t.sec.fuses.ownedOk
  lock : s.host.lock = true → t.host.lock = true
  mem : s.mem.wf = true → t.mem.wf = true
  ring : s.mbx.ringOk → t.mbx.ringOk

theorem Quiet.refl (s : State) : Quiet s s := ⟨rfl, rfl, FuseLe.refl _, id, id, id, id⟩

theorem Quiet.trans {s t u : State} (h : Quiet s t) (k : Quiet t u) : Quiet s u :=
  ⟨k.pending.trans h.pending, k.boot.trans h.boot, h.fuses.trans k.fuses, k.owned ∘ h.owned, k.lock ∘ h.lock, k.mem ∘ h.mem,
    k.ring ∘ h.ring⟩

section Operations

variable {s t u : State}

/-- A change of the other parts is quiet. -/
theorem Quiet.same (h : Quiet s t)
    (e : (u.pending, u.boot, u.sec.fuses, u.host.lock, u.mem, u.mbx.log2Size)
      = (t.pending, t.boot, t.sec.fuses, t.host.lock, t.mem, t.mbx.log2Size)) : Quiet s u := by
  simp only [Prod.mk.injEq] at e
  obtain ⟨hp, hb, hf, hl, hm, hr⟩ := e
  refine h.trans ⟨hp, hb, ?_, ?_, ?_, ?_, ?_⟩
  · rw [hf]; exact FuseLe.refl _
  · rw [hf]; exact id
  · rw [hl]; exact id
  · rw [hm]; exact id
  · rw [Mailbox.ringOk, Mailbox.ringOk, hr]; exact id

theorem Quiet.ite {c : Prop} [Decidable c] (h : Quiet s t) (k : Quiet s u) : Quiet s (if c then t else u) := by
  split <;> assumption

theorem Quiet.outIte {c : Prop} [Decidable c] {a b : CmdOut} (h : Quiet s a.st) (k : Quiet s b.st) :
    Quiet s (if c then a else b).st := by
  split <;> assumption

theorem Quiet.dite {c : Prop} [Decidable c] {f : c → State} {g : ¬c → State} (h : ∀ x, Quiet s (f x)) (k : ∀ x, Quiet s (g x)) :
    Quiet s (if x : c then f x else g x) := by
  split
  · exact h _
  · exact k _

/-- A component of a result that has been taken apart. -/
theorem Quiet.fst {α : Type} {p : State × α} {x : α} (h : Quiet s p.1) (e : p = (t, x)) : Quiet s t := by
  subst e; exact h

theorem Quiet.snd {α : Type} {p : α × State} {x : α} (h : Quiet s p.2) (e : p = (x, t)) : Quiet s t := by
  subst e; exact h

theorem Quiet.foldl {α : Type} {f : State → α → State} {l : List α} (h : Quiet s t)
    (hf : ∀ u x, Quiet s u → Quiet s (f u x)) : Quiet s (l.foldl f t) := by
  induction l generalizing t with
  | nil => exact h
  | cons x l ih => exact ih (hf t x h)

/-- The same for a fold over something that carries a state. -/
theorem Quiet.foldlOn {α β : Type} (g : β → State) {f : β → α → β} {l : List α} {b : β} (h : Quiet s (g b))
    (hf : ∀ b x, Quiet s (g b) → Quiet s (g (f b x))) : Quiet s (g (l.foldl f b)) := by
  induction l generalizing b with
  | nil => exact h
  | cons x l ih => exact ih (hf b x h)

/-! ### Places of the state -/

theorem Quiet.setHost (h : Quiet s t) {f : HostLink → HostLink} (hf : (f t.host).lock = t.host.lock) : Quiet s (t.setHost f) :=
  h.same (by simp [hf])

@[simp] theorem Mailbox.setRing_log2Size (m : Mailbox) (n : Nat) (r : Ring) : (m.setRing n r).log2Size = m.log2Size := by
  unfold Mailbox.setRing
  split <;> rfl

theorem Quiet.setMbx (h : Quiet s t) {f : Mailbox → Mailbox} (hf : (f t.mbx).log2Size = t.mbx.log2Size) :
    Quiet s (t.setMbx f) :=
  h.same (by simp [hf])

theorem Quiet.setSec (h : Quiet s t) {f : Security → Security} (hf : (f t.sec).fuses = t.sec.fuses) : Quiet s (t.setSec f) :=
  h.same (by simp [hf])

theorem Quiet.wr (h : Quiet s t) (a b) : Quiet s (t.wr a b) :=
  h.trans ⟨rfl, rfl, FuseLe.refl _, id, id, Mem.write_wf _ _ _, id⟩

theorem Quiet.clearMem (h : Quiet s t) (a n) : Quiet s (t.clearMem a n) :=
  h.trans ⟨rfl, rfl, FuseLe.refl _, id, id, Mem.clear_wf _ _ _, id⟩

theorem Quiet.filterMem (h : Quiet s t) (p) : Quiet s { t with mem := t.mem.filter p } :=
  h.trans ⟨rfl, rfl, FuseLe.refl _, id, id, Mem.filter_wf _ _, id⟩

theorem Quiet.withQuires (h : Quiet s t) (q) : Quiet s { t with quires := q } := h.same rfl

theorem Quiet.withCtxSlots (h : Quiet s t) (c) : Quiet s { t with ctxSlots := c } := h.same rfl

theorem Quiet.withClusters (h : Quiet s t) (c) : Quiet s { t with clusters := c } := h.same rfl

theorem Quiet.withModels (h : Quiet s t) (m) : Quiet s { t with models := m } := h.same rfl

theorem Quiet.withWindows (h : Quiet s t) (w) : Quiet s { t with windows := w } := h.same rfl

theorem Quiet.withYard (h : Quiet s t) (y) : Quiet s { t with yard := y } := h.same rfl

end Operations

end Sys2Proof.Machine
end

section
/-!
SUPPORT. Quiet operations of the shared state, sync objects, leaves and engines: each hands on the queue, the boot registers, fuses, lock,
memory form and ring size.
-/

namespace Sys2Proof.Machine
open Sys2Proof

section Operations

variable {s t u : State}

/-! ### The shared operations: memory, rings, events, responses -/

theorem Quiet.hostWr (h : Quiet s t) (a b) : Quiet s (t.hostWr a b) := h.wr _ _

theorem Quiet.setEng (h : Quiet s t) (e f) : Quiet s (t.setEng e f) := by
  unfold State.setEng
  split
  · exact h.same rfl
  · exact h

theorem Quiet.setCore (h : Quiet s t) (c f) : Quiet s (t.setCore c f) := h.same rfl

theorem Quiet.setCl (h : Quiet s t) (k f) : Quiet s (t.setCl k f) := h.same rfl

theorem Quiet.setLink (h : Quiet s t) (l f) : Quiet s (t.setLink l f) := h.same rfl

theorem Quiet.setFe (h : Quiet s t) (f) : Quiet s (t.setFe f) := h.same rfl

theorem Quiet.setPower (h : Quiet s t) (f) : Quiet s (t.setPower f) := h.same rfl

theorem Quiet.setCoding (h : Quiet s t) (f) : Quiet s (t.setCoding f) := h.same rfl

theorem Quiet.setStitch (h : Quiet s t) (f) : Quiet s (t.setStitch f) := h.same rfl

theorem Quiet.setColo (h : Quiet s t) (f) : Quiet s (t.setColo f) := h.same rfl

theorem Quiet.setCfg (h : Quiet s t) (f) : Quiet s (t.setCfg f) := h.same rfl

theorem Quiet.setQuire (h : Quiet s t) (tag f) : Quiet s (t.setQuire tag f) := by
  unfold State.setQuire
  split
  · exact h.same rfl
  · exact h

theorem Quiet.emit (h : Quiet s t) (o) : Quiet s (t.emit o) := h.same rfl

theorem Quiet.draw (h : Quiet s t) : Quiet s t.draw.2 := h.same rfl

theorem Quiet.msix (h : Quiet s t) (v) : Quiet s (t.msix v) := by
  unfold State.msix
  split
  · exact .ite (h.setHost rfl) (h.emit _)
  · exact h

theorem Quiet.hostWrAll (h : Quiet s t) (w) : Quiet s (t.hostWrAll w) := h.foldl (fun _ _ h1 => h1.hostWr _ _)

theorem Quiet.putIndex (h : Quiet s t) (off n) : Quiet s (t.putIndex off n) := h.hostWr _ _

theorem Quiet.setInt (h : Quiet s t) (i) : Quiet s (t.setInt i) := h.setHost rfl

theorem Quiet.drainRsp (h : Quiet s t) : Quiet s t.drainRsp :=
  .ite (.ite h (((((h.hostWrAll _).setMbx rfl).putIndex _ _).setInt _).msix _)) h

theorem Quiet.drainSpc (h : Quiet s t) : Quiet s t.drainSpc :=
  .ite (.ite h (((((h.hostWrAll _).setMbx rfl).putIndex _ _).setInt _).msix _)) h

theorem Quiet.postSpc (h : Quiet s t) (l) : Quiet s (t.postSpc l) := (h.setMbx rfl).drainSpc

theorem Quiet.tryEvent (h : Quiet s t) (ev src body) (e : t.tryEvent ev src body = some u) : Quiet s u := by
  unfold State.tryEvent at e
  split at e
  · split at e
    · simp at e
    · cases e
      exact ((((h.hostWrAll _).setMbx rfl).putIndex _ _).setInt _).msix _
  · simp at e

theorem Quiet.event (h : Quiet s t) (ev src body) : Quiet s (t.event ev src body) := by
  unfold State.event
  split
  next x v e =>
    exact h.tryEvent _ _ _ e
  next x e =>
    exact h.setMbx rfl

theorem Quiet.hlError (h : Quiet s t) (i) : Quiet s (t.hlError i) := .ite h ((h.setHost rfl).event _ _ _)

theorem Quiet.fail (h : Quiet s t) (status detail) : Quiet s (CmdOut.fail t status detail).st := h

theorem Quiet.answer (h : Quiet s t) (b) : Quiet s (CmdOut.answer t b).st := by
  unfold CmdOut.answer
  split
  · exact h
  · exact h

theorem Quiet.report (h : Quiet s t) (code tag l) : Quiet s (t.report code tag l) := by
  induction l generalizing t with
  | nil => exact h
  | cons r l ih => exact ih (.setMbx (.ite (h.hostWr _ _) h) rfl)

theorem Quiet.respond (h : Quiet s t) (code tag status detail first count outLen body) :
    Quiet s (t.respond code tag status detail first count outLen body) :=
  (h.setMbx rfl).drainRsp

theorem Quiet.finish (h : Quiet s t) (code c r) (k : Quiet s r.st) : Quiet s (finish t code c r) :=
  .ite (h.respond _ _ _ _ _ _ _ _) (.respond (.ite (k.report _ _ _) ((k.report _ _ _).hostWr _ _)) _ _ _ _ _ _ _ _)

theorem Quiet.takeCmd (h : Quiet s t) (len) : Quiet s (t.takeCmd len) := (h.setMbx rfl).putIndex _ _

theorem Quiet.takeSpq (h : Quiet s t) (len) : Quiet s (t.takeSpq len) := (h.setMbx rfl).putIndex _ _

theorem Quiet.shortCmd (h : Quiet s t) (code early lenOk run c) (hrun : ∀ x0 u, Quiet s u → Quiet s (run x0 u).st) :
    Quiet s (shortCmd code early lenOk run c t) := by
  unfold Machine.shortCmd
  extract_lets s1
  have h1 : Quiet s s1 := h.takeCmd _
  split
  · split
    · exact h1.finish _ _ _ (h1.fail _ _)
    · exact .ite (h1.setMbx rfl) (h1.finish _ _ _ (hrun _ _ h1))
  · exact h

theorem Quiet.longCmd (h : Quiet s t) (code early lenOk snap run c) (hrun : ∀ x0 x1 u, Quiet s u → Quiet s (run x0 x1 u).st) :
    Quiet s (longCmd code early lenOk snap run c t) := by
  unfold Machine.longCmd
  extract_lets s1
  have h1 : Quiet s s1 := h.takeCmd _
  split
  · split
    · exact h1.finish _ _ _ (h1.fail _ _)
    · exact .ite (.ite (h1.finish _ _ _ (hrun _ _ _ h1)) (h1.setMbx rfl)) (h1.setMbx rfl)
  · exact h

theorem Quiet.advance (h : Quiet s t) (n) : Quiet s (t.advance n) := .ite h (h.same rfl)

theorem Quiet.advanceTo (h : Quiet s t) (tx) : Quiet s (t.advanceTo tx) := h.advance _

theorem Quiet.feCount (h : Quiet s t) (c i n) : Quiet s (t.feCount c i n) := h.setFe _

theorem Quiet.slCount (h : Quiet s t) (c i n) : Quiet s (t.slCount c i n) := h.setStitch _

theorem Quiet.setRx (h : Quiet s t) (tag f) : Quiet s (t.setRx tag f) := by
  unfold State.setRx
  split
  · exact h.setCoding _
  · exact h

/-! ### Stitch links and routes -/

theorem Quiet.pumpGo (h : Quiet s t) (l n) : Quiet s (pumpGo l n t) := by
  induction n generalizing t with
  | zero => exact h
  | succ n ih =>
    unfold Machine.pumpGo
    extract_lets k ready
    split
    · exact h
    · split
      · exact ih ((h.emit _).setLink _ _)
      · exact ih ((h.emit _).setLink _ _)
      · exact h

theorem Quiet.pump (h : Quiet s t) (l) : Quiet s (t.pump l) := h.pumpGo _ _

theorem Quiet.putOn (h : Quiet s t) (l data m) : Quiet s (t.putOn l data m) := ((h.emit _).setLink _ _).pump _

theorem Quiet.sendAs (h : Quiet s t) (data m) : Quiet s (t.sendAs data m) := by
  unfold State.sendAs
  extract_lets hold
  have hhold : Quiet s hold := h.setStitch _
  split
  · exact .ite hhold (h.putOn _ _ _)
  · exact hhold

theorem Quiet.sendMsg (h : Quiet s t) (m) : Quiet s (t.sendMsg m) := h.sendAs _ _

theorem Quiet.sendHeld (h : Quiet s t) : Quiet s t.sendHeld := (h.setStitch _).foldl (fun _ _ h1 => h1.sendAs _ _)

theorem Quiet.sendFreed (h : Quiet s t) : Quiet s t.sendFreed := .ite h ((h.setStitch _).sendHeld)

theorem Quiet.newXfer (h : Quiet s t) : Quiet s t.newXfer.2 := by
  unfold State.newXfer
  dsimp only
  exact h.setStitch _

theorem Quiet.setLinkState (h : Quiet s t) (l st) : Quiet s (t.setLinkState l st) := .ite h ((h.setLink _ _).event _ _ _)

theorem Quiet.linkDown (h : Quiet s t) (l) : Quiet s (t.linkDown l) := (h.setLink _ _).setLinkState _ _

theorem Quiet.relink (h : Quiet s t) : Quiet s t.relink :=
  h.foldl (fun _ _ h1 => .ite (.ite (h1.setLinkState _ _) h1) (h1.linkDown _))

theorem Quiet.retrain (h : Quiet s t) (l) : Quiet s (t.retrain l) := ((h.slCount _ _ _).setLink _ _).setLinkState _ _

theorem Quiet.resend (h : Quiet s t) (l) : Quiet s (t.resend l) := (h.foldl (fun _ _ h1 => h1.emit _)).setLink _ _

theorem Quiet.replayFrom (h : Quiet s t) (l) : Quiet s (t.replayFrom l) :=
  .ite (h.retrain _) (((h.slCount _ _ _).resend _).setLink _ _)

/-! ### Accounts of engine time -/

theorem Quiet.engCount (h : Quiet s t) (e i n) : Quiet s (t.engCount e i n) := h.setEng _ _

theorem Quiet.chargeTime (h : Quiet s t) (k consumer n) : Quiet s (chargeTime t k consumer n) := h.setCl _ _

theorem Quiet.account (h : Quiet s t) (k consumer f) : Quiet s (t.account k consumer f) := h.setCl _ _

theorem Quiet.chargeRun (h : Quiet s t) (q c cycles) : Quiet s (chargeRun t q c cycles) :=
  (((h.foldl (fun _ _ h1 => (((h1.engCount _ _ _).engCount _ _ _).engCount _ _ _).engCount _ _ _)).chargeTime _ _ _).account _ _
    _).setCl _ _

theorem Quiet.chargeTo (h : Quiet s t) (q c cycles) : Quiet s (chargeTo t q c cycles) := (h.chargeRun _ _ _).setCore _ _

theorem Quiet.chargeLeaf (h : Quiet s t) (q c cycles) : Quiet s (chargeLeaf t q c cycles) := (h.chargeTo _ _ _).account _ _ _

/-! ### The trigger of a quire -/

theorem Quiet.newQuire (h : Quiet s t) (k kind consumer owner sfnSlot deadline) :
    Quiet s (newQuire t k kind consumer owner sfnSlot deadline).2 := by
  unfold Machine.newQuire
  extract_lets n tag st q s1
  have h1 : Quiet s s1 := h.setCl _ _
  exact h1.same rfl

theorem Quiet.triggerQueued (h : Quiet s t) (k) : Quiet s (triggerQueued t k) := by
  unfold Machine.triggerQueued
  split
  · exact h
  · split
    · exact h.setQuire _ _
    · exact h

/-! ### Sync objects and the teardown of a quire -/

theorem Quiet.putObj (h : Quiet s t) (k i o) : Quiet s (t.putObj k i o) := h.setCl _ _

theorem Quiet.coreWr (h : Quiet s t) (a b) : Quiet s (t.coreWr a b) := by
  unfold State.coreWr
  split
  · exact h.setCl _ _
  · exact h.wr _ _

theorem Quiet.coreOutcome (h : Quiet s t) (c o) : Quiet s (coreOutcome t c o) := h.setCore _ _

theorem Quiet.deliver (h : Quiet s t) (k i w o) : Quiet s (deliver t k i w o) := by
  unfold Machine.deliver
  split
  · split
    · exact h.coreOutcome _ _
    · exact h
  · extract_lets ref
    split
    next x x1 v e =>
      exact .ite ((((h.newXfer).snd e).sendMsg _).setStitch _) (((h.newXfer).snd e).sendMsg _)

theorem Quiet.fellObj (h : Quiet s t) (k code i) : Quiet s (fellObj t k code i) :=
  ((h.putObj _ _ _).setCl _ _).foldl (fun _ _ h1 => h1.deliver _ _ _ _)

theorem Quiet.releaseObj (h : Quiet s t) (k i) : Quiet s (releaseObj t k i) :=
  ((h.putObj _ _ _).setCl _ _).foldl (fun _ _ h1 => h1.deliver _ _ _ _)

theorem Quiet.dropMonitors (h : Quiet s t) (c) : Quiet s (dropMonitors t c) := h.same rfl

theorem Quiet.noteStatus (h : Quiet s t) (q c code) : Quiet s (noteStatus t q c code) := h.setCore _ _

theorem Quiet.stopCore (h : Quiet s t) (c) : Quiet s (stopCore t c) := (h.dropMonitors _).setCore _ _

theorem Quiet.freeThreads (h : Quiet s t) (k tag) : Quiet s (freeThreads t k tag) := h.setCl _ _

theorem Quiet.stopCarder (h : Quiet s t) (q) : Quiet s (stopCarder t q) := by
  unfold Machine.stopCarder
  extract_lets s1
  have h1 : Quiet s s1 := by
    dsimp only [s1]
    refine h.foldl ?_
    intro u1 x1 h1
    split
    · exact .ite (h1.setQuire _ _) h1
    · exact h1
  exact h1.freeThreads _ _

theorem Quiet.tearLines (h : Quiet s t) (q) : Quiet s (tearLines t q) := by
  unfold Machine.tearLines
  refine h.foldl ?_
  intro u1 x1 h1
  split
  · split
    · refine h1.foldl ?_
      intro u2 x1 h2
      split
      next x x2 v e =>
        exact ((h2.draw).snd e).wr _ _
    · exact h1
  · exact h1

theorem Quiet.releaseQuire (h : Quiet s t) (q) : Quiet s (releaseQuire t q) := by
  unfold Machine.releaseQuire
  extract_lets k s1 s2 s3 s3' s4 s4' s5 rings s5' halves s6
  have h1 : Quiet s s1 := h.freeThreads _ _
  have h2 : Quiet s s2 := h1.foldl (fun _ _ h2 => h2.putObj _ _ _)
  have h3 : Quiet s s3 := by
    dsimp only [s3]
    refine h2.foldl ?_
    intro u1 x1 h3
    split
    · exact (h3.putObj _ _ _).setStitch _
    · exact h3
  have h3' : Quiet s s3' := h3.sendFreed
  have h4 : Quiet s s4 := by
    dsimp only [s4]
    split
    · split
      · exact h3'.same rfl
      · exact h3'
    · exact h3'
  have h4' : Quiet s s4' := h4.foldl (fun _ _ h5 => h5.setCl _ _)
  have h5 : Quiet s s5 := h4'.setCl _ _
  have h5' : Quiet s s5' := h5.foldl (fun _ _ h6 => (h6.putObj _ _ _).setFe _)
  have h6 : Quiet s s6 := h5'.foldl (fun _ _ h6 => (h6.putObj _ _ _).setStitch _)
  exact .ite (h6.same rfl) h5

theorem Quiet.faultDownlink (h : Quiet s t) (q) : Quiet s (faultDownlink t q) := by
  unfold Machine.faultDownlink
  split
  · exact h
  · exact (h.setCoding _).feCount _ _ _

theorem Quiet.rerun (h : Quiet s t) (q) : Quiet s (rerun t q) := .ite h (h.newQuire _ _ _ _ _ _)

theorem Quiet.faultQuire (h : Quiet s t) (tag code) : Quiet s (faultQuire t tag code) := by
  unfold Machine.faultQuire
  extract_lets code8 cs
  split
  · exact h
  · extract_lets leaf s1 s2 s3 x q1 s4
    have h1 : Quiet s s1 := (h.tearLines _).foldl (fun _ _ h1 => ((h1.noteStatus _ _ _).chargeLeaf _ _ _).stopCore _)
    have h2 : Quiet s s2 := h1.releaseQuire _
    have h3 : Quiet s s3 := h2.foldl (fun _ _ h3 => h3.fellObj _ _ _)
    have h4 : Quiet s s4 := h3.same rfl
    split
    · exact h
    · split
      · exact h4.faultDownlink _
      · exact (h4.event _ _ _).rerun _
      · exact h4.event _ _ _
      · exact h4

theorem Quiet.faultCore (h : Quiet s t) (c code) : Quiet s (faultCore t c code) := by
  unfold Machine.faultCore
  split
  · exact h.faultQuire _ _
  · exact h

theorem Quiet.integrity (h : Quiet s t) (k i) : Quiet s (integrity t k i) :=
  .ite ((h.putObj _ _ _).event _ _ _) (h.faultQuire _ _)

theorem Quiet.meetError (h : Quiet s t) (k i e) : Quiet s (meetError t k i e) := by
  unfold Machine.meetError
  extract_lets count spoil
  split
  · exact h
  · exact h.setCl _ _
  · exact (h.setCl _ _).putObj _ _ _
  · exact h.putObj _ _ _

theorem Quiet.takeObj (h : Quiet s t) (k i tag n) : Quiet s (takeObj t k i tag n).2 := by
  unfold Machine.takeObj
  extract_lets o c
  split
  · exact h.integrity _ _
  · split
    · exact h
    · split
      · exact h
      · split
        · exact h.putObj _ _ _
        · exact h

theorem Quiet.notePages (h : Quiet s t) (tag i n o) : Quiet s (notePages t tag i n o) :=
  .ite h (.ite (h.setRx _ _) (.ite (h.setRx _ _) h))

theorem Quiet.noteWaiter (h : Quiet s t) (w i o) : Quiet s (noteWaiter t w i o) := by
  unfold Machine.noteWaiter
  split
  · exact h.notePages _ _ _ _
  · exact h

theorem Quiet.retryAll (h : Quiet s t) (k i) : Quiet s (retryAll t k i) := by
  unfold Machine.retryAll
  extract_lets ws order
  split
  · split
    · exact h
    · split
      next x x1 v e =>
        exact (((h.setCl _ _).takeObj _ _ _ _).snd e).deliver _ _ _ _
  · refine h.foldl ?_
    intro u1 x1 h1
    split
    · split
      next x x2 v e =>
        exact .ite ((h1.takeObj _ _ _ _).snd e) (((((h1.takeObj _ _ _ _).snd e).setCl _ _).noteWaiter _ _ _).deliver _ _ _ _)
    · exact h1

theorem Quiet.sigApplyGo (h : Quiet s t) (k i tag n) : Quiet s (sigApplyGo t k i tag n) :=
  .ite (h.setCl _ _) (.ite (.ite (h.event _ _ _) (h.faultQuire _ _)) ((h.putObj _ _ _).retryAll _ _))

theorem Quiet.sigObj (h : Quiet s t) (k i tag n) : Quiet s (sigObj t k i tag n) :=
  .ite (.ite ((h.integrity _ _).sigApplyGo _ _ _ _) (h.integrity _ _)) (h.sigApplyGo _ _ _ _)

/-! ### What every instruction of a leaf shares -/

theorem Quiet.putS (h : Quiet s t) (c r v) : Quiet s (t.putS c r v) := h.setCore _ _

theorem Quiet.putA (h : Quiet s t) (c r v) : Quiet s (t.putA c r v) := h.setCore _ _

theorem Quiet.interlock (h : Quiet s t) (c reads) : Quiet s (t.interlock c reads) := .ite h (h.setCore _ _)

theorem Quiet.takeRetry (h : Quiet s t) (c) : Quiet s (t.takeRetry c) :=
  (h.setCore _ _).foldl (fun _ _ h1 => h1.engCount _ _ _)

theorem Quiet.issue (h : Quiet s t) (c words cycles reads body) (hbody : ∀ x0 u, Quiet s u → Quiet s (body x0 u)) :
    Quiet s (issue c words cycles reads body t) := by
  unfold Machine.issue
  extract_lets x s0 s1
  have h0 : Quiet s s0 := h.interlock _ _
  have h1 : Quiet s s1 := .ite h0 (h0.setCore _ _)
  split
  · exact h
  · exact .ite h (.ite (h.faultCore _ _) (.ite (h.takeRetry _) (.ite ((hbody _ _ h1).setCore _ _) (hbody _ _ h1))))

theorem Quiet.issueEng (h : Quiet s t) (c eng sa n words cycles body) (hbody : ∀ x0 u, Quiet s u → Quiet s (body x0 u)) :
    Quiet s (issueEng c eng sa n words cycles body t) :=
  h.issue _ _ _ _ _ (fun _ _ h1 => .ite (h1.faultQuire _ _) (.ite h1 (hbody _ _ h1)))

/-! ### Leaf boundaries and contexts -/

theorem Quiet.startLeaf (h : Quiet s t) (c tag fresh) : Quiet s (startLeaf t c tag fresh) :=
  (h.foldl (fun _ _ h1 => h1.setEng _ _)).setCore _ _

theorem Quiet.replayLeaf (h : Quiet s t) (c tag) : Quiet s (replayLeaf t c tag) :=
  ((((h.dropMonitors _).setCore _ _).foldl (fun _ _ h1 => h1.setEng _ _)).startLeaf _ _ _).setCore _ _

theorem Quiet.keepContext (h : Quiet s t) (q c) : Quiet s (keepContext t q c) := h.same rfl

theorem Quiet.loadContext (h : Quiet s t) (q c) : Quiet s (loadContext t q c) :=
  (h.setCore _ _).foldl (fun _ _ h1 => .ite h1 (h1.setEng _ _))

theorem Quiet.writeControl (h : Quiet s t) (tag) : Quiet s (writeControl t tag) := by
  unfold Machine.writeControl
  split
  · exact h
  · extract_lets q s1 b
    have h1 : Quiet s s1 := h.withQuires _
    split
    · exact h1
    · have h2 := fun a => h1.wr a b
      dsimp only
      split
      · split
        · exact (h2 _).withCtxSlots _
        · exact h2 _
      · exact h2 _

theorem Quiet.freeLeafThread (h : Quiet s t) (q c) : Quiet s (freeLeafThread t q c) := by
  unfold Machine.freeLeafThread
  refine h.foldl ?_
  intro u1 x1 h1
  extract_lets live
  split
  · exact .ite (h1.setCl _ _) h1
  · exact h1

/-! ### Sync operations from afar -/

theorem Quiet.sendSig (h : Quiet s t) (tag ref n) : Quiet s (sendSig t tag ref n) := h.sendAs _ _

theorem Quiet.routeSig (h : Quiet s t) (k tag ref n) : Quiet s (routeSig t k tag ref n) :=
  .ite (h.sigObj _ _ _ _) (.ite (h.sigObj _ _ _ _) (h.sendSig _ _ _))

theorem Quiet.remoteOwner (h : Quiet s t) (st tag) : Quiet s (remoteOwner t st tag).2 := by
  unfold Machine.remoteOwner
  split
  · exact h
  · split
    next x x1 v e =>
      exact (h.draw).snd e

theorem Quiet.endRemote (h : Quiet s t) (c w st reason) : Quiet s (endRemote t c w st reason) := by
  unfold Machine.endRemote
  split
  next x x1 v e =>
    extract_lets s2
    have h2 : Quiet s s2 := by
      dsimp only [s2]
      split
      · exact .ite (((h.remoteOwner _ _).snd e).setQuire _ _) ((h.remoteOwner _ _).snd e)
      · exact (h.remoteOwner _ _).snd e
    exact h2.coreOutcome _ _

theorem Quiet.returnGrant (h : Quiet s t) (k c seq ok) : Quiet s (returnGrant t k c seq ok) := by
  unfold Machine.returnGrant
  extract_lets s1
  have h1 : Quiet s s1 := h.setCore _ _
  split
  · exact h
  · exact .ite (h1.routeSig _ _ _ _) h1

theorem Quiet.grantCheck (h : Quiet s t) (k i) : Quiet s (grantCheck t k i) := by
  unfold Machine.grantCheck
  extract_lets o seq st reason clr
  have hclr : Quiet s clr := h.putObj _ _ _
  split
  · exact h
  extract_lets r c x live kept
  split
  · cases live with
    | none => exact h
    | some w => exact .ite (h.endRemote _ _ _ _) h
  split
  · exact h
  cases live with
  | some w => exact .ite (hclr.endRemote _ _ _ _) (hclr.returnGrant _ _ _ _)
  | none =>
    cases kept with
    | some w => exact .ite h (hclr.returnGrant _ _ _ _)
    | none => exact hclr.returnGrant _ _ _ _

theorem Quiet.sigApply (h : Quiet s t) (core err) : Quiet s (sigApply core err t) := by
  unfold Machine.sigApply
  split
  · exact h
  · extract_lets x s1 s1' s2
    have h1 : Quiet s s1 := h.setCore _ _
    have h1' : Quiet s s1' := .ite h1 (h1.meetError _ _ _)
    have h2 : Quiet s s2 := h1'.routeSig _ _ _ _
    exact .ite h (.ite (h2.grantCheck _ _) (.ite (h2.grantCheck _ _) h2))

theorem Quiet.expireWait (h : Quiet s t) (c w) : Quiet s (expireWait t c w) :=
  .ite (((h.sendMsg _).setCore _ _).coreOutcome _ _) ((h.dropMonitors _).coreOutcome _ _)

theorem Quiet.waitExpired (h : Quiet s t) (core) : Quiet s (waitExpired core t) := by
  unfold Machine.waitExpired
  split
  · exact .ite h ((h.advance _).expireWait _ _)
  · exact h

theorem Quiet.sendReg (h : Quiet s t) (c q w) : Quiet s (sendReg t c q w) := h.sendMsg _

theorem Quiet.registrationRetry (h : Quiet s t) (core) : Quiet s (registrationRetry core t) := by
  unfold Machine.registrationRetry
  split
  · split
    · exact ((h.advanceTo _).setCore _ _).sendReg _ _ _
    · exact h
  · exact h

theorem Quiet.objectHoldExpiry (h : Quiet s t) (k i) : Quiet s (objectHoldExpiry k i t) := by
  unfold Machine.objectHoldExpiry
  split
  · exact h
  · exact .ite ((h.advanceTo _).setCl _ _) (h.advanceTo _)

theorem Quiet.onMsg (h : Quiet s t) (typ f m) (hf : ∀ x0 u, Quiet s u → Quiet s (f x0 u)) : Quiet s (onMsg typ f m t) :=
  .ite (h.sendMsg _) (.ite (h.slCount _ _ _) (hf _ _ h))

theorem Quiet.meetMsg (h : Quiet s t) (m err) : Quiet s (meetMsg t m err) := h.meetError _ _ _

theorem Quiet.onSyncSig (h : Quiet s t) (m) : Quiet s (onSyncSig m t) :=
  .ite (.sendMsg (.ite (h.integrity _ _) h) _) (.grantCheck (.sigObj (.ite (h.integrity _ _) h) _ _ _ _) _ _)

theorem Quiet.onSyncTake (h : Quiet s t) (m) : Quiet s (onSyncTake m t) := by
  unfold Machine.onSyncTake
  extract_lets x
  split
  next x1 x2 v e =>
    exact ((h.takeObj _ _ _ _).snd e).sendMsg _

theorem Quiet.onSyncReply (h : Quiet s t) (m) : Quiet s (onSyncReply m t) := by
  unfold Machine.onSyncReply
  extract_lets g seq k mark req s1
  have h1 : Quiet s s1 := h.setStitch _
  split
  · split
    · exact h
    · extract_lets r c
      split
      · exact h.setCore _ _
      · split
        · exact h.same rfl
        · exact h
  · split
    · exact h
    · split
      · exact h1.setCore _ _
      · exact h1

theorem Quiet.onSyncReg (h : Quiet s t) (m) : Quiet s (onSyncReg m t) := .ite (h.sendMsg _) ((h.setCl _ _).retryAll _ _)

theorem Quiet.onSyncCancel (h : Quiet s t) (m) : Quiet s (onSyncCancel m t) := h.setCl _ _

/-! ### The life of a quire -/

theorem Quiet.suspendQuire (h : Quiet s t) (tag) : Quiet s (suspendQuire t tag) := by
  unfold Machine.suspendQuire
  split
  · exact h
  · exact .account (.writeControl (.setQuire (.ite h (h.stopCarder _)) _ _) _) _ _ _

theorem Quiet.releaseSigs (h : Quiet s t) (c) : Quiet s (releaseSigs t c) := h.setCore _ _

theorem Quiet.clearMismatches (h : Quiet s t) (c) : Quiet s (clearMismatches t c) := h.foldl (fun _ _ h1 => h1.setEng _ _)

theorem Quiet.closeLeaf (h : Quiet s t) (q c cycles) : Quiet s (closeLeaf t q c cycles) :=
  ((((h.noteStatus _ _ _).releaseSigs _).chargeLeaf _ _ _).clearMismatches _).setQuire _ _

theorem Quiet.leaveCore (h : Quiet s t) (q c) : Quiet s (leaveCore t q c) := by
  unfold Machine.leaveCore
  extract_lets want s1
  have h1 : Quiet s s1 := (h.keepContext _ _).setCore _ _
  exact .ite (.ite (h1.setCore _ _) h1) (.ite (h1.suspendQuire _) (h1.setQuire _ _))

theorem Quiet.endQuire (h : Quiet s t) (tag) : Quiet s (endQuire t tag) := by
  unfold Machine.endQuire
  split
  · exact h
  · extract_lets s1 s2 s3
    have h1 : Quiet s s1 := (h.releaseQuire _).foldl (fun _ _ h1 => h1.releaseObj _ _)
    have h2 : Quiet s s2 := h1.setQuire _ _
    have h3 : Quiet s s3 := h2.same rfl
    exact .ite h3 (h3.triggerQueued _)

/-! ### The times of an engine's units -/

theorem Quiet.queued (h : Quiet s t) (c e vec) : Quiet s (t.queued c e vec) := (h.setCore _ _).setEng _ _

theorem Quiet.stallArr (h : Quiet s t) (c e i n) : Quiet s (t.stallArr c e i n) :=
  .ite h ((h.engCount _ _ _).setEng _ _)

theorem Quiet.vecLate (h : Quiet s t) (e n) : Quiet s (t.vecLate e n) := (h.engCount _ _ _).setEng _ _

theorem Quiet.fed (h : Quiet s t) (c e start w) : Quiet s (t.fed c e start w) :=
  ((h.stallArr _ _ _ _).stallArr _ _ _ _).setEng _ _

theorem Quiet.timeMode (h : Quiet s t) (c e) : Quiet s (timeMode t c e) := (h.queued _ _ _).fed _ _ _ _

theorem Quiet.timeLoad (h : Quiet s t) (c e rows) : Quiet s (timeLoad t c e rows) :=
  ((h.queued _ _ _).fed _ _ _ _).stallArr _ _ _ _

theorem Quiet.timeStream (h : Quiet s t) (c e mac vs) : Quiet s (timeStream t c e mac vs) :=
  .ite ((((h.queued _ _ _).fed _ _ _ _).setEng _ _).engCount _ _ _) (((h.queued _ _ _).fed _ _ _ _).setEng _ _)

theorem Quiet.timeDrain (h : Quiet s t) (c e cycles rows) : Quiet s (timeDrain t c e cycles rows) :=
  (h.queued _ _ _).setEng _ _

theorem Quiet.vecDone (h : Quiet s t) (c e start next writes at_ fl) : Quiet s (t.vecDone c e start next writes at_ fl) :=
  (h.setEng _ _).setCore _ _

theorem Quiet.timeVec (h : Quiet s t) (c e cost reads writes) : Quiet s (timeVec t c e cost reads writes) :=
  (h.queued _ _ _).vecDone _ _ _ _ _ _ _

theorem Quiet.timeAccess (h : Quiet s t) (c e store reg extra spans) : Quiet s (timeAccess t c e store reg extra spans) :=
  ((h.queued _ _ _).vecDone _ _ _ _ _ _ _).vecLate _ _

theorem Quiet.timeChain (h : Quiet s t) (c e lat reads writes its) : Quiet s (timeChain t c e lat reads writes its) :=
  ((h.queued _ _ _).vecDone _ _ _ _ _ _ _).vecLate _ _

theorem Quiet.memWait (h : Quiet s t) (c a size store) : Quiet s (t.memWait c a size store) := by
  unfold State.memWait
  split
  · exact .ite h ((h.setCore _ _).vecLate _ _)
  · exact h

theorem Quiet.waitCore (h : Quiet s t) (c tx) : Quiet s (t.waitCore c tx) := h.setCore _ _

/-! ### Parity errors -/

theorem Quiet.rollBack (h : Quiet s t) (q c) : Quiet s (rollBack t q c) :=
  .ite (.ite (((h.replayLeaf _ _).keepContext _ _).setCore _ _)
    ((((h.replayLeaf _ _).keepContext _ _).setCore _ _).suspendQuire _)) (h.replayLeaf _ _)

theorem Quiet.countDiscarded (h : Quiet s t) (c arr) : Quiet s (countDiscarded t c arr) :=
  h.foldl (fun _ _ h1 => (h1.engCount _ _ _).engCount _ _ _)

theorem Quiet.discard (h : Quiet s t) (q c arr roll) (hroll : ∀ u, Quiet s u → Quiet s (roll u)) :
    Quiet s (discard t q c arr roll) :=
  hroll _ ((h.countDiscarded _ _).chargeLeaf _ _ _)

theorem Quiet.countWord (h : Quiet s t) (w) : Quiet s (countWord t w) :=
  .ite (h.engCount _ _ _) (.ite (h.engCount _ _ _) (h.setCl _ _))

theorem Quiet.memParity (h : Quiet s t) (q c fetch w) : Quiet s (memParity t q c fetch w) :=
  .ite ((h.countWord _).faultQuire _ _) (((h.countWord _).setQuire _ _).discard _ _ _ _ (fun _ h1 => h1.rollBack _ _))

theorem Quiet.reading (h : Quiet s t) (k : Quiet s u) (c n par reads q) : Quiet s (reading c n par reads q t u) :=
  .ite (h.memParity _ _ _ _) k

/-! ### The matrix array -/

theorem Quiet.putRow48 (h : Quiet s t) (e ux l) : Quiet s (putRow48 t e ux l) := h.wr _ _

theorem Quiet.putRow32 (h : Quiet s t) (e ux l) : Quiet s (putRow32 t e ux l) := h.wr _ _

theorem Quiet.reloadTile (h : Quiet s t) (c e m) : Quiet s (reloadTile t c e m) := .ite ((h.timeLoad _ _ _).setEng _ _) h

theorem Quiet.putInt {a : StreamAcc} (h : Quiet s a.st) (m o e v p) : Quiet s (putInt m o e v p a).st := by
  unfold Machine.putInt
  extract_lets u r
  split
  · exact h.putRow48 _ _ _
  · exact h.putRow48 _ _ _

theorem Quiet.putFlt {a : StreamAcc} (h : Quiet s a.st) (m o e v p) : Quiet s (putFlt m o e v p a).st := by
  unfold Machine.putFlt
  extract_lets u
  split
  · exact h.putRow32 _ _ _
  · exact h.putRow32 _ _ _

theorem Quiet.streamOne {a : StreamAcc} (h : Quiet s a.st) (m tile o e v) : Quiet s (streamOne m tile o e v a).st := by
  unfold Machine.streamOne
  extract_lets xs g a1
  have h1 : Quiet s a1.st := h
  split
  · exact h1.putFlt _ _ _ _ _
  · exact h1.putInt _ _ _ _ _

theorem Quiet.streamGo {a : StreamAcc} (h : Quiet s a.st) (m tile o e n v) : Quiet s (streamGo m tile o e n v a).st := by
  induction n generalizing v a with
  | zero => exact h
  | succ n ih => exact ih (h.streamOne m tile o e v) _

theorem Quiet.runStream (h : Quiet s t) (c e m o) : Quiet s (runStream t c e m o) := by
  unfold Machine.runStream
  extract_lets s1 tile skips a fl
  have h1 : Quiet s s1 := (h.reloadTile _ _ _).timeStream _ _ _ _
  have ha : Quiet s a.st := Quiet.streamGo h1 _ _ _ _ _ _
  exact ((ha.engCount _ _ _).engCount _ _ _).setEng _ _

theorem Quiet.clearRow (h : Quiet s t) (e ux o) : Quiet s (clearRow t e ux o) :=
  .ite h (.ite (h.putRow32 _ _ _) (h.putRow48 _ _ _))

theorem Quiet.drainGo {a : State × Sticky} (h : Quiet s a.1) (o e n r) : Quiet s (drainGo o e n r a).1 := by
  induction n generalizing r a with
  | zero => exact h
  | succ n ih => exact ih ((h.wr _ _).clearRow _ _ _) _

end Operations

end Sys2Proof.Machine
end

section
/-!
SUPPORT. Quiet operations of the mailbox, the scheduler, the configuration, the vector engine, the coding subsystem and the slot records.
-/

namespace Sys2Proof.Machine
open Sys2Proof

section Operations

variable {s t u : State}

/-! ### The mailbox -/

theorem Quiet.slotError (h : Quiet s t) (cell sfn slot cause pdu) : Quiet s (t.slotError cell sfn slot cause pdu) :=
  h.postSpc _

theorem Quiet.doDeviceInfo (h : Quiet s t) (x) : Quiet s (doDeviceInfo x t).st := h

theorem Quiet.doMbxConfig (h : Quiet s t) (c) : Quiet s (doMbxConfig c t).st := by
  unfold Machine.doMbxConfig
  split
  · exact h
  · split
    exact (h.setMbx rfl).drainSpc

theorem Quiet.barReq (h : Quiet s t) (read f) (hf : ∀ u, Quiet s u → Quiet s (f u)) : Quiet s (barReq read t f) :=
  .ite (h.emit _) (.ite ((h.emit _).hlError _) (hf _ h))

theorem Quiet.latch (h : Quiet s t) (n) : Quiet s (t.latch n) := .ite (h.setMbx (by simp)) h

theorem Quiet.postHeld (h : Quiet s t) : Quiet s t.postHeld := (h.setMbx rfl).foldl (fun _ _ h1 => h1.event _ _ _)

theorem Quiet.ringRoom (h : Quiet s t) (n) : Quiet s (t.ringRoom n) := by
  unfold State.ringRoom
  split
  · exact h.drainRsp
  · exact .ite (h.postHeld) h
  · exact h.drainSpc
  · exact h

theorem Quiet.doorbell (h : Quiet s t) (n idx) : Quiet s (doorbell n idx t) := by
  unfold Machine.doorbell
  extract_lets s1 r bad
  have h1 : Quiet s s1 := .ite (h.latch _) h
  have hbad : Quiet s bad := h1.setMbx (by simp)
  exact .ite hbad (.ite (.ite hbad (h1.setMbx (by simp))) (.ite hbad ((h1.setMbx (by simp)).ringRoom _)))

theorem Quiet.doorbellReset (h : Quiet s t) (n) : Quiet s (doorbellReset n t) := ((h.latch _).setMbx (by simp)).ringRoom _

theorem Quiet.haltRing (h : Quiet s t) (n) : Quiet s (haltRing n t) := (h.setMbx (by simp)).event _ _ _

theorem Quiet.unknownRecord (h : Quiet s t) (spq check1 typ tag len) : Quiet s (unknownRecord spq check1 typ tag len t) :=
  .ite (.ite h (.ite (h.haltRing _) ((h.takeSpq _).slotError _ _ _ _ _)))
    (.ite h (.ite (h.haltRing _) ((h.takeCmd _).respond _ _ _ _ _ _ _ _)))

theorem Quiet.evqOverflow (h : Quiet s t) : Quiet s (evqOverflow t) := by
  unfold Machine.evqOverflow
  split
  · exact h
  · split
    next x v e =>
      exact (h.tryEvent _ _ _ e).setMbx rfl
    next x e =>
      exact h

/-! ### Resident models -/

theorem Quiet.setModel (h : Quiet s t) (i f) : Quiet s (t.setModel i f) := by
  unfold State.setModel
  split
  · exact h.same rfl
  · exact h

theorem Quiet.putModel (h : Quiet s t) (i old new) : Quiet s (t.putModel i old new) :=
  (h.setModel _ _).foldl (fun _ _ h1 => h1.event _ _ _)

theorem Quiet.dropModelWork (h : Quiet s t) (i) : Quiet s (dropModelWork t i) := h.same rfl

theorem Quiet.copyImages (h : Quiet s t) (k) : Quiet s (t.copyImages k) := by
  unfold State.copyImages
  extract_lets ms s1 es
  have h1 : Quiet s s1 := h.foldl (fun _ _ h1 => h1.setModel _ _)
  refine h1.foldl ?_
  intro u1 x1 h2
  refine h2.foldl ?_
  intro u2 x2 h3
  split
  · exact h3.wr _ _
  · exact h3

theorem Quiet.switchVariants (h : Quiet s t) (k) : Quiet s (switchVariants t k).2 :=
  (h.foldl (fun _ _ h1 => h1.setModel _ _)).setCl _ _

theorem Quiet.bringImages (h : Quiet s t) (k) : Quiet s (t.bringImages k) :=
  .ite (((h.copyImages _).setCl _ _).chargeTime _ _ _) h

theorem Quiet.refit (h : Quiet s t) : Quiet s (refit t) := h.foldl (fun _ _ h1 => h1.switchVariants _)

/-! ### The cluster scheduler -/

theorem Quiet.zeroRun (h : Quiet s t) (base r keep) : Quiet s (t.zeroRun base r keep) := h.filterMem _

theorem Quiet.zeroDirty (h : Quiet s t) (k d) : Quiet s (zeroDirty t k d) :=
  (((h.foldl (fun _ _ h1 => (h1.zeroRun _ _ _).zeroRun _ _ _)).zeroRun _ _ _).zeroRun _ _ _).chargeTime _ _ _

theorem Quiet.cleanGrants (h : Quiet s t) (k consumer qd code spad acc) : Quiet s (cleanGrants t k consumer qd code spad acc) :=
  (h.setCl _ _).foldl (fun _ _ h1 => h1.zeroDirty _ _)

theorem Quiet.assignRun (h : Quiet s t) (k tag i l) : Quiet s (assignRun t k tag i l) := by
  induction l generalizing t i with
  | nil => exact h
  | cons n l ih => exact ih (h.putObj _ _ _) _

theorem Quiet.assignLists (h : Quiet s t) (k is ls) : Quiet s (assignLists t k is ls) := by
  induction is generalizing t ls with
  | nil => exact h
  | cons i is ih =>
    cases ls with
    | nil => exact h
    | cons l ls => exact ih (h.putObj _ _ _) _

theorem Quiet.assignQueues (h : Quiet s t) (k tag ns ds) : Quiet s (assignQueues t k tag ns ds) := by
  induction ns generalizing t ds with
  | nil => exact h
  | cons n ns ih =>
    cases ds with
    | nil => exact h
    | cons d ds => exact ih ((h.putObj _ _ _).setStitch _) _

theorem Quiet.bindHeld (h : Quiet s t) (q) : Quiet s (bindHeld t q) := .ite (h.setCl _ _) h

theorem Quiet.countLate (h : Quiet s t) (q) : Quiet s (countLate t q) := .ite (h.setCl _ _) h

theorem Quiet.markLimits (h : Quiet s t) (q model) : Quiet s (markLimits t q model) := by
  unfold Machine.markLimits
  split
  · exact .ite ((h.setCoding _).setQuire _ _) (h.setCoding _)
  · exact h

theorem Quiet.readVersion (h : Quiet s t) (q) {x v} (e : readVersion t q = some (x, v, u)) : Quiet s u := by
  unfold Machine.readVersion at e
  split at e
  · cases e; exact h
  split at e
  · cases e; exact h
  split at e
  · dsimp only at e
    split at e
    · cases e
    · cases e; exact (h.bringImages _).putModel _ _ _
  · cases e; exact h

theorem Quiet.readCell (h : Quiet s t) (q) : Quiet s (readCell t q) := by
  unfold Machine.readCell
  extract_lets i
  split
  · exact h
  · exact .ite h ((h.setRx _ _).setCoding _)

theorem Quiet.applyGrants (h : Quiet s t) (q p g model version) : Quiet s (applyGrants t q p g model version) := by
  unfold Machine.applyGrants
  extract_lets k x q1 s1 s2 s3 s4
  have h1 : Quiet s s1 := (h.cleanGrants _ _ _ _ _ _).foldl (fun _ _ h1 => h1.cleanGrants _ _ _ _ _ _)
  have h2 : Quiet s s2 := h1.same rfl
  have h3 : Quiet s s3 := ((h2.assignRun _ _ _ _).assignLists _ _ _).assignQueues _ _ _ _
  have h4 : Quiet s s4 := by
    dsimp only [s4]
    split
    · split
      · exact h3.same rfl
      · exact h3
    · exact h3
  exact (((h4.bindHeld _).countLate _).markLimits _ _).readCell _

theorem Quiet.quireStart (h : Quiet s t) (tag p) : Quiet s (quireStart tag p t) := by
  unfold Machine.quireStart
  extract_lets s'
  have h' : Quiet s s' := by
    dsimp only [s']
    split
    · exact .ite (h.triggerQueued _) h
    · exact h
  split
  · exact h'
  · split
    · exact h'
    · split
      · exact h'.faultQuire _ _
      · split
        · exact h'
        · split
          · exact .ite h' ((h'.setQuire _ _).setCl _ _)
          · split
            next x e =>
              exact h'
            next x x1 x2 v e =>
              exact (h'.readVersion _ e).applyGrants _ _ _ _ _

theorem Quiet.drrPick (h : Quiet s t) (k cands ready) : Quiet s (drrPick t k cands ready).2 := by
  unfold Machine.drrPick
  extract_lets reset last order r
  have hreset : Quiet s reset := h.setCl _ _
  split
  · exact hreset
  · split
    · exact hreset
    · exact (hreset.foldl (fun _ _ h1 => h1.account _ _ _)).setCl _ _

theorem Quiet.bePick (h : Quiet s t) (k r) : Quiet s (bePick t k r).2 := by
  unfold Machine.bePick
  extract_lets l cands ready
  split
  next x x1 v e =>
    exact (h.drrPick _ _ _).snd e
  next x v e =>
    exact (h.drrPick _ _ _).snd e

theorem Quiet.bindLeaf (h : Quiet s t) (q r) : Quiet s (bindLeaf t q r) := by
  unfold Machine.bindLeaf
  extract_lets n
  split
  · split
    · exact (h.setQuire _ _).setCl _ _
    · exact h
  · exact h

theorem Quiet.startNext (h : Quiet s t) (q c) : Quiet s (startNext t q c) := by
  unfold Machine.startNext
  extract_lets r s1 s2 w w1 s3
  have h1 : Quiet s s1 := (h.bindLeaf _ _).setQuire _ _
  have h2 : Quiet s s2 := (h1.loadContext _ _).startLeaf _ _ _
  have hctx : Quiet s { s2 with qctx := tset s2.qctx q.tag.toNat w1 } := h2.same rfl
  have h3 : Quiet s s3 := hctx.setCore _ _
  exact .ite (h3.grantCheck _ _) h3

theorem Quiet.chooseLeaf (h : Quiet s t) (c) : Quiet s (chooseLeaf t c).2 := by
  unfold Machine.chooseLeaf
  extract_lets k r held lc
  split
  · exact h
  · split
    · exact h
    · exact h.bePick _ _

theorem Quiet.preemptBe (h : Quiet s t) (k c) : Quiet s (preemptBe t k c) :=
  h.foldl (fun _ _ h1 => .ite h1 (.ite (h1.suspendQuire _) (.ite (h1.setCore _ _) h1)))

theorem Quiet.leafDispatch (h : Quiet s t) (c) : Quiet s (leafDispatch c t) := by
  unfold Machine.leafDispatch
  split
  · exact h
  · split
    next x x1 v e =>
      exact .startNext (.ite (((h.chooseLeaf _).snd e).preemptBe _ _) ((h.chooseLeaf _).snd e)) _ _
    next x v e =>
      exact (h.chooseLeaf _).snd e

theorem Quiet.moveBlock (k : Quiet s u) (t q m) : Quiet s (moveBlock q t u m) := by
  unfold Machine.moveBlock
  split
  · exact .ite k (k.foldl (fun _ _ h1 => h1.wr _ _))
  · exact k

theorem Quiet.reshard (h : Quiet s t) (tag hit word again) : Quiet s (reshard tag hit word again t) := by
  unfold Machine.reshard
  split
  · exact h
  · split
    · exact h
    · extract_lets l met s0 n es s1 s2
      have h0 : Quiet s s0 := .ite (h.countWord _) h
      have h1 : Quiet s s1 := h0.foldl (fun _ _ h1 => h1.moveBlock _ _ _)
      have h2 : Quiet s s2 := h1.foldl (fun _ _ h2 => (h2.engCount _ _ _).engCount _ _ _)
      exact .ite h (.ite ((h0.countWord _).faultQuire _ _) (((h2.chargeTime _ _ _).setCl _ _).setQuire _ _))

theorem Quiet.markEvict (h : Quiet s t) (cell claim q) : Quiet s (markEvict cell claim t q) :=
  .ite h (.ite (h.setQuire _ _) ((h.setQuire _ _).suspendQuire _))

theorem Quiet.startEviction (h : Quiet s t) (k cell) : Quiet s (startEviction t k cell) := by
  unfold Machine.startEviction
  split
  · exact h.foldl (fun _ _ h1 => h1.markEvict _ _ _)
  · exact h

theorem Quiet.evictionWindowOpen (h : Quiet s t) (k cell close) : Quiet s (evictionWindowOpen k cell close t) := by
  unfold Machine.evictionWindowOpen
  split
  · exact h
  · exact ((h.advance _).setCl _ _).startEviction _ _

theorem Quiet.contextSave (h : Quiet s t) (tag parityBad) : Quiet s (contextSave tag parityBad t) := by
  unfold Machine.contextSave
  extract_lets s1
  have h1 : Quiet s s1 := (h.setQuire _ _).writeControl _
  split
  · exact h
  · extract_lets data n
    split
    · exact h
    · exact .ite h (.ite (h.faultQuire _ _) ((h1.foldl (fun _ _ h2 => h2.wr _ _)).account _ _ _))

theorem Quiet.contextSaveDone (h : Quiet s t) (k) : Quiet s (contextSaveDone k t) :=
  .ite (.ite h (h.setCl _ _)) (.foldl (.ite h (h.setCl _ _)) (fun _ _ h1 => (h1.advanceTo _).setCfg _))

theorem Quiet.fullQuireSave (h : Quiet s t) (tag) : Quiet s (fullQuireSave tag t) := by
  unfold Machine.fullQuireSave
  extract_lets s1
  have h1 : Quiet s s1 := h.setQuire _ _
  split
  · exact h
  · exact .ite h (.ite h1 (h1.suspendQuire _))

theorem Quiet.restoreData (h : Quiet s t) (e l b) : Quiet s (restoreData t e l b) := by
  induction l generalizing t b with
  | nil => exact h
  | cons x l ih => exact ih (h.wr _ _) _

theorem Quiet.contextRestore (h : Quiet s t) (tag eccBad) : Quiet s (contextRestore tag eccBad t) := by
  unfold Machine.contextRestore
  split
  · exact h
  · extract_lets full
    split
    · exact h
    · extract_lets h' s1 s2
      have h1 : Quiet s s1 := h.foldl (fun _ _ h1 => ((h1.zeroRun _ _ _).zeroRun _ _ _).restoreData _ _ _)
      have h2 : Quiet s s2 := h1.foldl (fun _ _ h2 => h2.setEng _ _)
      exact .ite h (.ite (h.faultQuire _ _) (.ite (h.faultQuire _ _) (.ite (h.faultQuire _ _) (h2.setQuire _ _))))

theorem Quiet.quireTimeout (h : Quiet s t) (tag) : Quiet s (quireTimeout tag t) := by
  unfold Machine.quireTimeout
  split
  · exact h
  extract_lets due
  cases due with
  | none => exact h
  | some d => exact .ite h ((h.advance _).faultQuire _ _)

theorem Quiet.chargeLive (h : Quiet s t) (k) : Quiet s (chargeLive t k) := by
  unfold Machine.chargeLive
  refine h.foldl ?_
  intro u1 x1 h1
  split
  · exact h1.chargeTo _ _ _
  · exact h1

theorem Quiet.accountWindowEnd (h : Quiet s t) (k) : Quiet s (accountWindowEnd k t) := ((h.advanceTo _).chargeLive _).setCl _ _

theorem Quiet.expectClose (h : Quiet s t) (cell k lead) : Quiet s (expectClose t cell k lead) := h.setCl _ _

theorem Quiet.setCell (h : Quiet s t) (i f) : Quiet s (t.setCell i f) := by
  unfold State.setCell
  split
  · exact h.setCfg _
  · exact h

theorem Quiet.alignClock (h : Quiet s t) (i lead) : Quiet s (alignClock t i lead) := by
  unfold Machine.alignClock
  extract_lets e
  split
  · exact h
  · extract_lets n
    split
    · exact h.setCell _ _
    · exact .ite ((h.setCell _ _).feCount _ _ _) (h.setCell _ _)

theorem Quiet.markGroup (h : Quiet s t) (sel lead) : Quiet s (markGroup t sel lead) :=
  h.foldl (fun _ _ h1 => .alignClock (.ite (h1.expectClose _ _ _) h1) _ _)

theorem Quiet.ignoreMark (h : Quiet s t) : Quiet s (ignoreMark t) := h.setCfg _

theorem Quiet.noteMark (h : Quiet s t) (groups) : Quiet s (noteMark t groups) := h.setCfg _

theorem Quiet.slotMark (h : Quiet s t) (v) : Quiet s (slotMark v t) :=
  h.barReq _ _ (fun _ h1 => .ite (h1.ignoreMark) ((h1.noteMark _).markGroup _ _))

theorem Quiet.slotMarkIn (h : Quiet s t) :
    Quiet s (slotMarkIn t) := .ite (h.ignoreMark) (((h.noteMark _).setCfg _).markGroup _ _)

theorem Quiet.markLost (h : Quiet s t) (g) : Quiet s (markLost g t) := .ite h (((h.advanceTo _).setCfg _).event _ _ _)

theorem Quiet.doQuireStatus (h : Quiet s t) (c) : Quiet s (doQuireStatus c t).st := by
  unfold Machine.doQuireStatus
  split
  · exact h.fail _ _
  · exact h

theorem Quiet.doQuireCancel (h : Quiet s t) (c) : Quiet s (doQuireCancel c t).st := by
  unfold Machine.doQuireCancel
  extract_lets tag
  split
  · exact h.fail _ _
  · split
    · exact h.fail _ _
    · split
      · exact h.setQuire _ _
      · exact h.faultQuire _ _

theorem Quiet.doShareRead (h : Quiet s t) (c) : Quiet s (doShareRead c t).st := h

theorem Quiet.firstMismatch (h : Quiet s t) (q c e cycle) : Quiet s (firstMismatch t q c e cycle) :=
  (((h.setEng _ _).engCount _ _ _).noteStatus _ _ _).discard _ _ _ _ (fun _ h1 => h1.rollBack _ _)

theorem Quiet.retireEngine (h : Quiet s t) (q e) : Quiet s (retireEngine t q e) := by
  unfold Machine.retireEngine
  extract_lets k lost s1 s2 s3
  have h1 : Quiet s s1 := h.faultQuire _ _
  have h2 : Quiet s s2 := h1.foldl (fun _ _ h2 => h2.faultQuire _ _)
  have h3 : Quiet s s3 := h2.setEng _ _
  split
  next x x1 v e1 =>
    exact .ite ((((h3.switchVariants _).snd e1).event _ _ _).foldl (fun _ _ h4 => h4.event _ _ _))
      (((h3.switchVariants _).snd e1).event _ _ _)

theorem Quiet.checkMismatch (h : Quiet s t) (e m) : Quiet s (checkMismatch e m t) := by
  unfold Machine.checkMismatch
  extract_lets c attempt
  split
  · exact h
  · exact .ite h (.ite ((h.event _ _ _).firstMismatch _ _ _ _) ((h.event _ _ _).retireEngine _ _))

/-! ### Configuration records -/

theorem Quiet.spineChanged (h : Quiet s t) : Quiet s t.spineChanged := h.setStitch _

theorem Quiet.spineNow (h : Quiet s t) : Quiet s t.spineNow := h.setStitch _

theorem Quiet.doSchedConfig (h : Quiet s t) (c) : Quiet s (doSchedConfig c t).st := by
  unfold Machine.doSchedConfig
  split
  · exact h
  split
  split
  · exact h
  · exact (h.setCfg _).spineChanged

theorem Quiet.doPoolConfig (h : Quiet s t) (c) : Quiet s (doPoolConfig c t).st := by
  unfold Machine.doPoolConfig
  split
  · exact h
  split
  split
  have hdown : Quiet s ((List.finRange 4).foldl State.linkDown t) := h.foldl fun u l hu => hu.linkDown l
  exact (Quiet.setCfg (.ite h hdown) _).spineNow.relink

theorem Quiet.doHarqConfig (h : Quiet s t) (c) : Quiet s (doHarqConfig c t).st := by
  unfold Machine.doHarqConfig
  split
  · exact h
  split
  dsimp only
  split
  · exact h
  · dsimp only
    exact h.setCoding _

theorem Quiet.placeRing (h : Quiet s t) (i c) : Quiet s (placeRing t i c) := by
  unfold Machine.placeRing
  dsimp only
  split
  · exact h.setFe _
  · split
    · exact h
    · exact (h.putObj _ _ _).setFe _

theorem Quiet.placeJr (h : Quiet s t) (i c) : Quiet s (placeJr t i c) := by
  unfold Machine.placeJr
  extract_lets k
  refine h.foldl ?_
  intro u1 x1 h1
  refine h1.foldl ?_
  intro u2 x2 h2
  extract_lets key used obj
  split
  · exact .ite h2 h2
  · split
    · exact (h2.putObj _ _ _).setStitch _
    · exact h2

theorem Quiet.autoPower (h : Quiet s t) : Quiet s t.autoPower := .ite (.ite (h.setPower _) (h.setPower _)) h

theorem Quiet.applyCells (h : Quiet s t) (img) : Quiet s (applyCells t img) :=
  .autoPower (.refit ((((((h.setCfg _).setFe _).setStitch _).foldl (fun _ _ h1 => h1.placeJr _ _)).foldl
    (fun _ _ h1 => h1.placeRing _ _)).same rfl))

theorem Quiet.doSlotConfig (h : Quiet s t) (c x) : Quiet s (doSlotConfig c x t).st := by
  unfold Machine.doSlotConfig
  extract_lets pairs a lost s1 bare s2
  have h1 : Quiet s s1 := (h.applyCells _).spineChanged
  have h2 : Quiet s s2 := (h1.foldl (fun _ _ h2 => h2.event _ _ _)).foldl (fun _ _ h2 => h2.event _ _ _)
  split
  · exact h.fail _ _
  · split
    · exact h.fail _ _
    · exact h2

/-! ### The vector engine -/

theorem Quiet.storeLanes (h : Quiet s t) (e f k sat addr stride act l) :
    Quiet s (storeLanes t e f k sat addr stride act l).1 := by
  unfold Machine.storeLanes
  refine Quiet.foldlOn Prod.fst h fun b i hb => ?_
  split
  · exact hb.wr _ _
  · exact hb

/-! ### Loads, stores and chains -/

theorem Quiet.issueVec (h : Quiet s t) (c eng reads body) (hbody : ∀ x0 x1 u, Quiet s u → Quiet s (body x0 x1 u)) :
    Quiet s (issueVec c eng reads body t) :=
  h.issue _ _ _ _ _ (fun _ _ h1 => .ite h1 (hbody _ _ _ h1))

theorem Quiet.putScalar (h : Quiet s t) (c code y) : Quiet s (putScalar t c code y) := h.putS _ _ _

theorem Quiet.maskRun (h : Quiet s t) (tx e c reg gm mz) : Quiet s (maskRun tx e c reg gm mz t) := by
  unfold Machine.maskRun
  extract_lets en a b all put
  split
  · exact h.setEng _ _
  · exact h.setEng _ _
  · exact h.setEng _ _
  · exact h.setEng _ _
  · exact h.setEng _ _
  · exact h.putScalar _ _ _
  · exact h.putScalar _ _ _
  · exact .ite (h.putScalar _ _ _) (h.setEng _ _)

theorem Quiet.laneMove (h : Quiet s t) (tx e c reg gm mz) : Quiet s (laneMove tx e c reg gm mz t) :=
  .ite (h.putScalar _ _ _) (h.setEng _ _)

theorem Quiet.regRed (h : Quiet s t) (tx e c reg gm) : Quiet s (regRed tx e c reg gm t) :=
  .ite ((h.setEng _ _).putScalar _ _ _) ((h.setEng _ _).setEng _ _)

theorem Quiet.regLanes (h : Quiet s t) (tx e c reg gm mz) : Quiet s (regLanes tx e c reg gm mz t) := h.setEng _ _

theorem Quiet.regVec (h : Quiet s t) (row c eng reg mask mz w) : Quiet s (regVec row c eng reg mask mz w t) := by
  unfold Machine.regVec
  extract_lets t' rg
  refine h.issueVec _ _ _ _ ?_
  intro x x2 u1 h1
  extract_lets en gm s'
  have h' : Quiet s s' := h1.timeVec _ _ _ _ _
  split
  · exact h1.faultQuire _ _
  · split
    · exact h1.faultQuire _ _
    · split
      · exact h'.regRed _ _ _ _ _
      · exact h'.maskRun _ _ _ _ _ _
      · exact h'.laneMove _ _ _ _ _ _
      · exact h'.regLanes _ _ _ _ _ _

theorem Quiet.timeActld (h : Quiet s t) (c e a) : Quiet s (timeActld t c e a) :=
  ((h.queued _ _ _).vecDone _ _ _ _ _ _ _).vecLate _ _

theorem Quiet.storeCompact (h : Quiet s t) (e f k sat cur act l) : Quiet s (storeCompact t e f k sat cur act l).1 := by
  unfold Machine.storeCompact
  exact Quiet.foldlOn Prod.fst h fun b i hb => hb.wr _ _

theorem Quiet.time (h : Quiet s t) (o e c gm mask) : Quiet s (ChainOps.time o e c gm mask t) := h.timeChain _ _ _ _ _ _

theorem Quiet.chainIter {a : ChainAcc} (h : Quiet s a.st) (o e en x gm v) : Quiet s (chainIter o e en x gm v a).st := by
  unfold Machine.chainIter
  dsimp only
  split
  · exact h
  · split
    · exact h.storeCompact _ _ _ _ _ _ _
    · exact h.storeLanes _ _ _ _ _ _ _ _

theorem Quiet.chainGo {a : ChainAcc} (h : Quiet s a.st) (o e en x gm n v) : Quiet s (chainGo o e en x gm n v a).st := by
  induction n generalizing v a with
  | zero => exact h
  | succ n ih => exact ih (h.chainIter o e en x gm v) _

theorem Quiet.chainRun (h : Quiet s t) (o e c gm) : Quiet s (chainRun o e c gm t) := by
  unfold Machine.chainRun
  extract_lets a
  have ha : Quiet s a.st := Quiet.chainGo h _ _ _ _ _ _ _
  split
  · exact ha.setEng _ _
  · dsimp only
    split
    · exact (ha.setEng _ _).putScalar _ _ _
    · exact (ha.setEng _ _).setEng _ _

/-! ### Packages -/

theorem Quiet.putImage (h : Quiet s t) (i b) : Quiet s (putImage t i b) := by
  unfold Machine.putImage
  split
  · exact .refit (((h.dropModelWork i).withModels _).putModel _ _ _).spineChanged
  · exact h

theorem Quiet.doModelLoad (h : Quiet s t) (c x) : Quiet s (doModelLoad c x t).st := by
  unfold Machine.doModelLoad
  split
  · exact h.fail _ _
  · extract_lets slot
    split
    · exact h.fail _ _
    · exact h.putImage _ _

theorem Quiet.doModelUnload (h : Quiet s t) (c) : Quiet s (doModelUnload c t).st := by
  unfold Machine.doModelUnload
  extract_lets id
  split
  · exact h.fail _ _
  · extract_lets s1
    have h1 : Quiet s s1 := h.dropModelWork _
    split
    · exact h.fail _ _
    · split
      · exact .spineChanged (h1.same rfl)
      · exact h.fail _ _

/-! ### The coding subsystem -/

theorem Quiet.setPusch (h : Quiet s t) (tag i f) : Quiet s (t.setPusch tag i f) := h.setRx _ _

theorem Quiet.setCb (h : Quiet s t) (tag i n f) : Quiet s (t.setCb tag i n f) := h.setPusch _ _ _

theorem Quiet.returnPages (h : Quiet s t) (tag obj d) : Quiet s (returnPages t tag obj d) :=
  .ite h ((h.setRx _ _).sigObj _ _ _ _)

theorem Quiet.returnRest (h : Quiet s t) (tag) : Quiet s (returnRest t tag) := by
  unfold Machine.returnRest
  split
  · exact h
  · exact (h.returnPages _ _ _).returnPages _ _ _

theorem Quiet.freeBytes (h : Quiet s t) (tag i n) : Quiet s (freeBytes t tag i n) := by
  unfold Machine.freeBytes
  extract_lets s1
  have h1 : Quiet s s1 := h.setPusch _ _ _
  split
  · exact h
  · split
    · exact h
    · exact h1.returnPages _ _ _

theorem Quiet.leaveRing (h : Quiet s t) (tag i n) : Quiet s (leaveRing t tag i n) := by
  unfold Machine.leaveRing
  split
  · exact h
  · exact (h.setCoding _).freeBytes _ _ _

theorem Quiet.spillGo (h : Quiet s t) (k n) : Quiet s (spillGo t k n) := by
  induction n generalizing t with
  | zero => exact h
  | succ n ih =>
    unfold Machine.spillGo
    split
    · exact h
    split
    · exact h
    extract_lets tag
    split
    · exact ih (((h.leaveRing _ _ _).wr _ _).setCb _ _ _ _)
    · exact h

theorem Quiet.llrSpill (h : Quiet s t) (k) : Quiet s (llrSpill k t) := .ite h (h.spillGo _ _)

theorem Quiet.combinePusch (h : Quiet s t) (r i y at_ ecc) : Quiet s (combinePusch t r i y at_ ecc) :=
  ((h.setPusch _ _ _).setCoding _).freeBytes _ _ _

theorem Quiet.takePlace (h : Quiet s t) (tag i p) {x} (e : takePlace t tag i p = some (x, u)) : Quiet s u := by
  unfold Machine.takePlace at e
  split at e
  · cases e; exact h
  · obtain ⟨a, -, ha⟩ := Option.map_eq_some_iff.1 e
    cases ha
    exact h.setCoding _

theorem Quiet.freePlaces (h : Quiet s t) (tag) : Quiet s (freePlaces t tag) := h.setCoding _

theorem Quiet.codeBlockDecode (h : Quiet s t) (tag pdu cb eccBad) : Quiet s (codeBlockDecode tag pdu cb eccBad t) := by
  unfold Machine.codeBlockDecode
  split
  · exact h
  · split
    · exact h
    · split
      · exact h
      · extract_lets llr
        split
        · exact h
        · split
          next x e =>
            exact h
          next x x1 v e =>
            split
            · split
              next x2 x3 v1 e1 =>
                exact ((((h.takePlace _ _ _ e).draw).snd e1).setPusch _ _ _).setCb _ _ _ _
            · exact ((h.takePlace _ _ _ e).leaveRing _ _ _).setCb _ _ _ _

theorem Quiet.writePart (h : Quiet s t) (y n c) : Quiet s (writePart t y n c) := by
  unfold Machine.writePart
  extract_lets g
  split
  · exact h
  · exact .ite (h.wr _ _) (h.wr _ _)

theorem Quiet.codeBlockWriteback (h : Quiet s t) (tag pdu cb) : Quiet s (codeBlockWriteback tag pdu cb t) := by
  unfold Machine.codeBlockWriteback
  split
  · exact h
  · split
    · exact h
    · split
      · exact h
      · exact .ite h ((h.writePart _ _ _).setCb _ _ _ _)

theorem Quiet.writeHeader (h : Quiet s t) (r i y tbOk) : Quiet s (writeHeader t r i y tbOk) := by
  unfold Machine.writeHeader
  extract_lets m s1
  have h1 : Quiet s s1 := by
    dsimp only [s1]
    split
    · exact h
    · exact h.wr _ _
  exact h1.setPusch _ _ _

theorem Quiet.harqHeaderWrite (h : Quiet s t) (tag pdu) : Quiet s (harqHeaderWrite tag pdu t) := by
  unfold Machine.harqHeaderWrite
  split
  · exact h
  · split
    · exact h
    · split
      · exact h
      · exact .ite h (h.writeHeader _ _ _ _)

theorem Quiet.lateStore (h : Quiet s t) (tag i) : Quiet s (lateStore t tag i) := by
  unfold Machine.lateStore
  split
  · exact h
  · extract_lets cut cbs s1 s2 s3
    have h1 : Quiet s s1 := h.foldl (fun _ _ h1 => .ite h1 (h1.writePart _ _ _))
    have h2 : Quiet s s2 := h1.setPusch _ _ _
    have h3 : Quiet s s3 := h2.foldl (fun _ _ h3 => h3.leaveRing _ _ _)
    split
    · exact h
    · split
      · split
        · exact h3.writeHeader _ _ _ _
        · exact h3
      · exact h3

theorem Quiet.combineHanded (h : Quiet s t) (tag i) : Quiet s (combineHanded t tag i) := by
  unfold Machine.combineHanded
  split
  · exact h
  · split
    · exact h
    · extract_lets free
      split
      · exact h
      · exact .ite h (.ite ((h.combinePusch _ _ _ _ _).lateStore _ _) (h.combinePusch _ _ _ _ _))

theorem Quiet.llrCombine (h : Quiet s t) (tag pdu at_ ecc) : Quiet s (llrCombine tag pdu at_ ecc t) := by
  unfold Machine.llrCombine
  extract_lets live
  split
  · exact h
  · split
    · exact h
    · exact .ite (h.combineHanded _ _) (.ite h ((h.setPusch _ _ _).combineHanded _ _))

theorem Quiet.tbCrcCheck (h : Quiet s t) (tag pdu) : Quiet s (tbCrcCheck tag pdu t) := by
  unfold Machine.tbCrcCheck
  split
  · exact h
  · split
    · exact h
    · extract_lets known whole b out
      split
      · exact h
      · split
        next x e =>
          exact h
        next x x1 v e =>
          exact ((h.takePlace _ _ _ e).wr _ _).setPusch _ _ _

theorem Quiet.uciDone (h : Quiet s t) (tag i ux f) : Quiet s (uciDone t tag i ux f) := (h.setRx _ _).returnPages _ _ _

theorem Quiet.polarDecode (h : Quiet s t) (tag part at_) : Quiet s (polarDecode tag part at_ t) := by
  unfold Machine.polarDecode
  split
  · exact h
  · split
    · exact h
    · split
      · exact h.uciDone _ _ _ _
      · exact h.uciDone _ _ _ _

theorem Quiet.smallBlockDecode (h : Quiet s t) (tag part at_) : Quiet s (smallBlockDecode tag part at_ t) := by
  unfold Machine.smallBlockDecode
  split
  · exact h
  · exact .ite h (h.uciDone _ _ _ _)

theorem Quiet.doLdpcTableLoad (h : Quiet s t) (c) : Quiet s (doLdpcTableLoad c t).st := by
  unfold Machine.doLdpcTableLoad
  extract_lets n t'
  split
  · exact h.fail _ _
  · exact (h.setCoding _).spineChanged

/-! ### Random access -/

theorem Quiet.prachCorrelation (h : Quiet s t) (tag root stream rep) : Quiet s (prachCorrelation tag root stream rep t) := by
  unfold Machine.prachCorrelation
  extract_lets open_
  split
  · exact h
  · extract_lets y y0
    split
    · exact h
    · exact .ite h (h.setCoding _)

/-! ### Slot records -/

theorem Quiet.takeRecord (h : Quiet s t) (len cell sfn slot dl dup keep) (hkeep : ∀ u, Quiet s u → Quiet s (keep u)) :
    Quiet s (takeRecord t len cell sfn slot dl dup keep) := by
  unfold Machine.takeRecord
  extract_lets s1
  have h1 : Quiet s s1 := h.takeSpq _
  split
  · split
    · exact h1.slotError _ _ _ _ _
    · exact hkeep _ (h1.setFe _)
  · exact h

theorem Quiet.pduErrors (h : Quiet s t) (cell sfn slot cause l) : Quiet s (pduErrors t cell sfn slot cause l) :=
  h.foldl (fun _ _ h1 => h1.slotError _ _ _ _ _)

theorem Quiet.ulSlot (h : Quiet s t) (r) : Quiet s (ulSlot r t) := by
  unfold Machine.ulSlot
  extract_lets key dup bare n keepPrach err
  have htaken := h.takeRecord r.len r.cell r.sfn r.slot false dup (fun s =>
    (err 4 r.excluded (err 5 (placesOf n (fun p => prachAllowed p && decide (64 < p.count)) r.prach)
      (err 4 (placesOf n (fun p => !prachAllowed p) r.prach)
        (err 5 (placesOf 0 (fun p => puschAllowed p && !puschServed p) r.pusch)
          (err 4 (placesOf 0 (fun p => !puschAllowed p) r.pusch) s))))).setFe fun f => { f with ulRecs := tset f.ulRecs key r })
    fun u hu => (((((hu.pduErrors _ _ _ _ _).pduErrors _ _ _ _ _).pduErrors _ _ _ _ _).pduErrors _ _ _ _ _).pduErrors
      _ _ _ _ _).setFe _
  split
  · exact .ite (((htaken.pduErrors _ _ _ _ _).pduErrors _ _ _ _ _).setFe _) htaken
  · exact htaken

theorem Quiet.dropDl (h : Quiet s t) (cell sfnSlot) : Quiet s (dropDl t cell sfnSlot) := by
  unfold Machine.dropDl
  exact h.setFe _

theorem Quiet.startDl (h : Quiet s t) (cell sfnSlot) : Quiet s (startDl t cell sfnSlot) := by
  unfold Machine.startDl
  extract_lets key tx
  split
  · split
    · exact h
    · split
      next x x1 v e =>
        exact (((h.newQuire _ _ _ _ _ _).snd e).setCoding _).dropDl _ _
  · exact h

theorem Quiet.dlErrors (h : Quiet s t) (r) : Quiet s (dlErrors r t) :=
  ((h.pduErrors _ _ _ _ _).pduErrors _ _ _ _ _).pduErrors _ _ _ _ _

theorem Quiet.dlSlot (h : Quiet s t) (r) :
    Quiet s (dlSlot r t) := h.takeRecord _ _ _ _ _ _ _ (fun _ h1 => (h1.dlErrors _).setFe _)

theorem Quiet.ulDci (h : Quiet s t) (r) :
    Quiet s (ulDci r t) := h.takeRecord _ _ _ _ _ _ _ (fun _ h1 => (h1.dlErrors _).setFe _)

theorem Quiet.txData (h : Quiet s t) (r) : Quiet s (txData r t) :=
  .ite (((h.takeSpq _).setFe _).startDl _ _) (h.takeRecord _ _ _ _ _ _ _ (fun _ h1 => h1.setFe _))

theorem Quiet.doPrecoderLoad (h : Quiet s t) (c x) : Quiet s (doPrecoderLoad c x t).st := by
  unfold Machine.doPrecoderLoad
  extract_lets cell first n lay str size matrix t'
  split
  · exact h.fail _ _
  · split
    · exact h.fail _ _
    · split
      · exact h.fail _ _
      · exact h.same rfl

/-! ### Adaptation -/

theorem Quiet.doAdaptConfig (h : Quiet s t) (c) : Quiet s (doAdaptConfig c t).st := by
  unfold Machine.doAdaptConfig
  split
  · exact h
  split
  · exact h
  split
  · exact h
  split
  exact Quiet.putModel (.ite (h.dropModelWork _) h) _ _ _

theorem Quiet.triggerBe (h : Quiet s t) (kind consumer owner sfnSlot) : Quiet s (triggerBe t kind consumer owner sfnSlot) := by
  unfold Machine.triggerBe
  split
  next x x1 v e =>
    exact ((h.draw).snd e).newQuire _ _ _ _ _ _

theorem Quiet.triggerAdapt (h : Quiet s t) (i) : Quiet s (triggerAdapt t i) := by
  unfold Machine.triggerAdapt
  split
  · split
    · exact h
    · split
      · exact (h.putModel _ _ _).triggerBe _ _ _ _
      · exact h
  · exact h

theorem Quiet.settleModel (h : Quiet s t) (i old new) : Quiet s (settleModel t i old new) := (h.putModel _ _ _).triggerAdapt _

theorem Quiet.trainingStep (h : Quiet s t) (i r) : Quiet s (trainingStep i r t) := by
  unfold Machine.trainingStep
  split
  · split
    · exact .ite ((h.setQuire _ _).settleModel _ _ _) h
    · exact h
  · exact h

theorem Quiet.shadowEvaluation (h : Quiet s t) (i r) : Quiet s (shadowEvaluation i r t) := by
  unfold Machine.shadowEvaluation
  split
  · extract_lets last s1
    have h1 : Quiet s s1 := h.setQuire _ _
    split
    · exact .ite h (.ite (h1.settleModel _ _ _) (h1.settleModel _ _ _))
    · exact h
  · exact h

theorem Quiet.writeStandby (h : Quiet s t) (k i p e m v) : Quiet s (writeStandby t k i p e m v) := h.wr _ _

theorem Quiet.candidateStaging (h : Quiet s t) (i e) : Quiet s (candidateStaging i e t) := by
  unfold Machine.candidateStaging
  extract_lets k
  split
  · split
    · exact .ite h (((h.writeStandby _ _ _ _ _ _).setModel _ _).chargeTime _ _ _)
    · exact h
  · exact h

theorem Quiet.autoRollback (h : Quiet s t) (i) : Quiet s (autoRollback i t) := by
  unfold Machine.autoRollback
  split
  · split
    · exact .ite h (.ite (h.settleModel _ _ _) (h.settleModel _ _ _))
    · exact h
  · exact h

theorem Quiet.doAdaptRollback (h : Quiet s t) (c x) : Quiet s (doAdaptRollback c x t).st := by
  unfold Machine.doAdaptRollback
  split
  · exact h.fail _ _
  · split
    · exact h.fail _ _
    · extract_lets x' m1
      split
      · exact h.fail _ _
      · extract_lets m2
        split
        · exact h.fail _ _
        · exact (h.dropModelWork _).settleModel _ _ _

theorem Quiet.doAdaptStatus (h : Quiet s t) (c) : Quiet s (doAdaptStatus c t).st := by
  unfold Machine.doAdaptStatus
  split
  · exact h.fail _ _
  · exact h.answer _

end Operations

end Sys2Proof.Machine
end

section
/-!
SUPPORT. Quiet operations of the carder, the front end, colophons, DMA, ports, power and security.
-/

namespace Sys2Proof.Machine
open Sys2Proof

section Operations

variable {s t u : State}

/-! ### The carder unit -/

theorem Quiet.moveLine (k : Quiet s u) (d t q idx bad n) : Quiet s (CDesc.moveLine d t q idx bad u n) := by
  unfold CDesc.moveLine
  extract_lets i none_ line
  split
  · exact k
  · split
    · exact k.wr _ _
    · exact k

theorem Quiet.countParity (h : Quiet s t) (q code n) : Quiet s (countParity t q code n) :=
  .ite (h.engCount _ _ _) (.ite (h.setCl _ _) (.ite (h.setCl _ _) h))

theorem Quiet.noteFill (h : Quiet s t) (tag) : Quiet s (noteFill t tag) := (h.setQuire _ _).setRx _ _

theorem Quiet.carderMoves (h : Quiet s t) (d : CDesc) (q idx bad) (ls : List Nat) :
    Quiet s (ls.foldl (d.moveLine t q idx bad) t) :=
  h.foldl fun _ _ hu => hu.moveLine _ _ _ _ _ _

theorem Quiet.carderTake (h : Quiet s t) (q l b n err) : Quiet s (carderTake t q l b n err) := by
  unfold Machine.carderTake
  extract_lets raw d o s1 idx from_
  have h1 : Quiet s s1 := .ite h (h.putObj _ _ _)
  split
  · exact h1.faultQuire _ _
  · dsimp only
    have h2 := h1.countParity q (d.readSpace (d.errors s1 q idx from_ err).1) (d.errors s1 q idx from_ err).2.1
    split
    · exact h2.faultQuire _ _
    · exact .setCl (.ite ((h2.carderMoves _ _ _ _ _).setQuire _ _) (((h2.carderMoves _ _ _ _ _).setQuire _ _).noteFill _)) _ _

theorem Quiet.carderDescriptor (h : Quiet s t) (k tx err) : Quiet s (carderDescriptor k tx err t) := by
  unfold Machine.carderDescriptor
  split
  · exact h
  · split
    · exact h
    · split
      · exact h
      · exact .ite h (h.carderTake _ _ _ _ _)

theorem Quiet.addDone (h : Quiet s t) (k tag i n) : Quiet s (addDone t k tag i n) := .ite h (h.sigObj _ _ _ _)

theorem Quiet.carderDone (h : Quiet s t) (k tx) : Quiet s (carderDone k tx t) := by
  unfold Machine.carderDone
  split
  · exact h
  · extract_lets s1
    have h1 : Quiet s s1 := h.setCl _ _
    split
    · extract_lets d s3 s4
      have h3 : Quiet s s3 := h1.addDone _ _ _ _
      have h4 : Quiet s s4 := by
        dsimp only [s4]
        split
        · exact h3.sigObj _ _ _ _
        · exact h3
      split
      · exact h4.freeLeafThread _ _
      · exact h4
    · exact h

/-! ### The downlink slot -/

theorem Quiet.holdSymbol (h : Quiet s t) (tag symbol) : Quiet s (holdSymbol t tag symbol) := by
  unfold Machine.holdSymbol
  split
  · exact h
  · exact .ite h (.ite (h.setCoding _) ((h.setCoding _).feCount _ _ _))

theorem Quiet.holdReady (h : Quiet s t) (tag) : Quiet s (holdReady t tag) := h.foldl (fun _ _ h1 => h1.holdSymbol _ _)

theorem Quiet.sendFrame (h : Quiet s t) (c port cell plane sfnSlot symbol b) :
    Quiet s (sendFrame t c port cell plane sfnSlot symbol b) :=
  (h.emit _).setFe _

theorem Quiet.sendOne (h : Quiet s t) (c d port symbol m) : Quiet s (sendOne c d port symbol t m) := by
  unfold Machine.sendOne
  split
  · exact h
  · exact (h.sendFrame _ _ _ _ _ _ _).setFe _

theorem Quiet.sendSymbol (h : Quiet s t) (d port symbol l) : Quiet s (sendSymbol t d port symbol l) :=
  (h.foldl (fun _ _ h1 => h1.sendOne _ _ _ _ _)).setCoding _

theorem Quiet.dlEncode (h : Quiet s t) (tag pdu) : Quiet s (dlEncode tag pdu t) := by
  unfold Machine.dlEncode
  split
  · split
    · extract_lets bytes s1
      have h1 : Quiet s s1 := by
        dsimp only [s1]
        split
        · exact .ite (h.wr _ _) h
        · exact h
      exact .ite h ((h1.setCoding _).holdReady _)
    · exact h
  · exact h

/-! ### The symbol windows of the front end -/

theorem Quiet.sendCplane (h : Quiet s t) (cell c dl sfnSlot w l) : Quiet s (sendCplane t cell c dl sfnSlot w l) := by
  unfold Machine.sendCplane
  extract_lets order
  refine h.foldl ?_
  intro u1 x1 h1
  extract_lets b
  split
  · exact h1
  · exact (h1.sendFrame _ _ _ _ _ _ _).setFe _

theorem Quiet.numberSlot (h : Quiet s t) (cell i other) : Quiet s (numberSlot t cell i other) := by
  unfold Machine.numberSlot
  split
  · exact h
  · split
    · exact h
    · split
      · exact h.setCell _ _
      · exact h

theorem Quiet.serveUl (h : Quiet s t) (cell i c sfnSlot r) : Quiet s (serveUl t cell i c sfnSlot r) :=
  .ite ((h.setFe _).sendCplane _ _ _ _ _ _) (h.setFe _)

theorem Quiet.cplaneWindowOpen (h : Quiet s t) (cell dl) : Quiet s (cplaneWindowOpen cell dl t) := by
  unfold Machine.cplaneWindowOpen
  split
  · exact h
  · extract_lets i other slot s1 s2
    have h1 : Quiet s s1 := h.advanceTo _
    have h2 : Quiet s s2 := (h1.numberSlot _ _ _).setCell _ _
    split
    · split
      · exact h
      · split
        · exact h2
        · split
          · exact h2.feCount _ _ _
          · split
            · exact h2.feCount _ _ _
            · exact .startDl (.ite (h2.sendCplane _ _ _ _ _ _) h2) _ _
    · split
      · exact h
      · split
        · exact h2
        · split
          · exact h2.feCount _ _ _
          · split
            · exact h2.feCount _ _ _
            · exact h2.serveUl _ _ _ _ _

theorem Quiet.setUl (h : Quiet s t) (key f) : Quiet s (setUl t key f) := by
  unfold Machine.setUl
  split
  · exact h.setFe _
  · exact h

theorem Quiet.closeCheck (h : Quiet s t) (key) : Quiet s (closeCheck t key) := h.setUl _ _

theorem Quiet.receptionWindowEnd (h : Quiet s t) (cell sfnSlot symbol) :
    Quiet s (receptionWindowEnd cell sfnSlot symbol t) := by
  unfold Machine.receptionWindowEnd
  extract_lets key
  split
  · extract_lets s1 last hit open_ force s2
    have h1 : Quiet s s1 := by
      dsimp only [s1]
      split
      · exact h.advanceTo _
      · exact h
    have h2 : Quiet s s2 := h1.setUl _ _
    exact h2.closeCheck _
  · exact h

theorem Quiet.takePrb (h : Quiet s t) (cell key symbol stream prb b colo) :
    Quiet s (takePrb cell key symbol stream prb b colo t) := by
  unfold Machine.takePrb
  split
  · exact h.feCount _ _ _
  · split
    · exact h.feCount _ _ _
    · exact .ite (h.feCount _ _ _) (.ite (h.feCount _ _ _) (h.setUl _ _))

theorem Quiet.takePrach (h : Quiet s t) (cell key symbol stream prb b) :
    Quiet s (takePrach cell key symbol stream prb b t) := by
  unfold Machine.takePrach
  split
  · exact h.feCount _ _ _
  · split
    · exact h.feCount _ _ _
    · exact .ite (h.feCount _ _ _) (.ite (h.feCount _ _ _) (h.setUl _ _))

theorem Quiet.holdGranules (h : Quiet s t) (key symbol stream n) : Quiet s (holdGranules t key symbol stream n) :=
  (h.setUl _ _).setFe _

theorem Quiet.takeSection (h : Quiet s t) (cell c prach stream m y) : Quiet s (takeSection cell c prach stream m t y) := by
  unfold Machine.takeSection
  extract_lets key resumed timing first hdr n exceeds s1 prbs kept s2
  have h1 : Quiet s s1 := .ite (h.feCount _ _ _) h
  have h2 : Quiet s s2 := h1.foldl (fun _ _ h2 => h2.takePrb _ _ _ _ _ _ _)
  split
  · exact h.feCount _ _ _
  · split
    · exact h.feCount _ _ _
    · split
      · exact h.feCount _ _ _
      · exact .ite (h1.feCount _ _ _) (.ite (h1.foldl (fun _ _ h3 => h3.takePrach _ _ _ _ _ _))
          (.closeCheck (.ite h2 (h2.holdGranules _ _ _ _)) _))

theorem Quiet.takeMessage (h : Quiet s t) (port vlan m) : Quiet s (takeMessage port vlan t m) := by
  unfold Machine.takeMessage
  split
  · exact h.feCount _ _ _
  · split
    · exact h.feCount _ _ _
    · extract_lets e s1 s2 prach
      have h1 : Quiet s s1 := by
        dsimp only [s1]
        split
        · exact .ite h (h.feCount _ _ _)
        · exact h
      have h2 : Quiet s s2 := h1.setFe _
      split
      · exact h2
      · exact .ite (h2.feCount _ _ _) (h2.foldl (fun _ _ h3 => h3.takeSection _ _ _ _ _ _))

theorem Quiet.macsecIn (h : Quiet s t) (f) (e : macsecIn t f = some u) : Quiet s u := by
  unfold Machine.macsecIn at e
  extract_lets i p at e
  split at e
  · cases e; exact h
  split at e <;> try cases e
  split at e
  · cases e
  split at e
  · cases e
  · cases e; exact h.setFe _

theorem Quiet.frameReceive (h : Quiet s t) (f) : Quiet s (frameReceive f t) := by
  unfold Machine.frameReceive
  extract_lets i s0 vlan
  have h0 : Quiet s s0 := .ite (h.feCount _ _ _) h
  split
  · exact h
  · split
    · exact h0.feCount _ _ _
    · split
      · exact h0.feCount _ _ _
      · split
        next x e =>
          exact h0.feCount _ _ _
        next x v e =>
          exact .ite ((h0.macsecIn _ e).foldl (fun _ _ h1 => h1.feCount _ _ _))
            ((h0.macsecIn _ e).foldl (fun _ _ h1 => h1.takeMessage _ _ _))

theorem Quiet.writeStore (h : Quiet s t) (at_ c y prbs) : Quiet s (writeStore t at_ c y prbs) :=
  h.foldl (fun _ _ h1 => h1.wr _ _)

theorem Quiet.storeParity (h : Quiet s t) (s0 k key a n par) : Quiet s (storeParity s0 t k key a n par) := by
  unfold Machine.storeParity
  split
  · exact h
  · exact .ite h (.ite (((h.setCl _ _).wr _ _).setUl _ _) (h.setCl _ _))

theorem Quiet.slotStoreForward (h : Quiet s t) (cell sfnSlot symbol stream par) :
    Quiet s (slotStoreForward cell sfnSlot symbol stream par t) := by
  unfold Machine.slotStoreForward
  extract_lets key
  split
  · split
    · extract_lets k mine free s1 at_
      have h1 : Quiet s s1 := .ite h ((h.putObj _ _ _).setFe _)
      split
      · exact h
      · exact .setFe (.setUl (.ite ((h1.writeStore _ _ _ _).storeParity _ _ _ _ _ _)
          (((h1.writeStore _ _ _ _).storeParity _ _ _ _ _ _).feCount _ _ _)) _ _) _
    · exact h
  · exact h

theorem Quiet.dlTxWindowOpen (h : Quiet s t) (cell sfnSlot symbol) : Quiet s (dlTxWindowOpen cell sfnSlot symbol t) := by
  unfold Machine.dlTxWindowOpen
  split
  · extract_lets s1
    have h1 : Quiet s s1 := by
      dsimp only [s1]
      split
      · exact h.advanceTo _
      · exact h
    split
    · exact .ite (h1.sendSymbol _ _ _ _) h1
    · exact h1
  · exact h

theorem Quiet.dlTxWindowClose (h : Quiet s t) (cell sfnSlot symbol) : Quiet s (dlTxWindowClose cell sfnSlot symbol t) := by
  unfold Machine.dlTxWindowClose
  split
  · extract_lets s1 drop
    have h1 : Quiet s s1 := by
      dsimp only [s1]
      split
      · exact h.advanceTo _
      · exact h
    have hdrop : Quiet s drop := (h1.setCoding _).feCount _ _ _
    split
    · exact h1
    · split
      · exact .ite (h1.sendSymbol _ _ _ _) hdrop
      · exact hdrop
  · exact h

theorem Quiet.dropUl (h : Quiet s t) (key) : Quiet s (dropUl t key) := by
  unfold Machine.dropUl
  split
  · exact .ite (h.setFe _) h
  · exact h

theorem Quiet.prachWindowEnd (h : Quiet s t) (cell sfnSlot pdu) : Quiet s (prachWindowEnd cell sfnSlot pdu t) := by
  unfold Machine.prachWindowEnd
  extract_lets key
  split
  · extract_lets n
    split
    · exact h
    · extract_lets s1 s2 past ins full y clamps
      have h1 : Quiet s s1 := by
        dsimp only [s1]
        split
        · exact h.advanceTo _
        · exact h
      have h2 : Quiet s s2 := (h1.setUl _ _).dropUl _
      split
      · exact h
      · split
        next x x1 v e =>
          exact .ite (((h2.newQuire _ _ _ _ _ _).snd e).setCoding _)
            ((((h2.newQuire _ _ _ _ _ _).snd e).setCoding _).feCount _ _ _)
  · exact h

/-! ### The yardstick -/

theorem Quiet.triggerYard (h : Quiet s t) (cell) : Quiet s (triggerYard t cell) := by
  unfold Machine.triggerYard
  split
  · exact .ite h (h.triggerBe _ _ _ _)
  · exact h

theorem Quiet.mapLabels (h : Quiet s t) (cell sfnSlot f) : Quiet s (t.mapLabels cell sfnSlot f) := h.same rfl

theorem Quiet.labelEncode (h : Quiet s t) (tag pdu) : Quiet s (labelEncode tag pdu t) := by
  unfold Machine.labelEncode
  split
  · exact h
  · split
    · exact h
    · exact .ite h ((((h.setPusch _ _ _).mapLabels _ _ _).foldl (fun _ _ h1 => h1.triggerAdapt _)).triggerYard _)

theorem Quiet.yardstickMeasure (h : Quiet s t) (cell tag) : Quiet s (yardstickMeasure cell tag t) := by
  unfold Machine.yardstickMeasure
  split
  · dsimp only
    split
    · exact h
    · exact .triggerYard ((h.setQuire _ _).withYard _) _
  · exact h

theorem Quiet.yardstickExpiry (h : Quiet s t) (cell) : Quiet s (yardstickExpiry cell t) := by
  unfold Machine.yardstickExpiry
  split
  · exact .triggerYard (((h.advanceTo _).withYard _).withQuires _) _
  · exact h

theorem Quiet.doYardstickRead (h : Quiet s t) (c) : Quiet s (doYardstickRead c t).st := by
  unfold Machine.doYardstickRead
  extract_lets mask cells
  split
  · exact h.fail _ _
  · split
    next x x1 v e =>
      extract_lets out s2
      have h2 : Quiet s s2 := .ite (((h.draw).snd e).same rfl) ((h.draw).snd e)
      exact h2.answer _

/-! ### The release of a slot-reception -/

theorem Quiet.sampleModel (h : Quiet s t) (i c ux) : Quiet s (sampleModel t i c ux) := by
  unfold Machine.sampleModel
  split
  · exact h
  · exact .ite (h.setModel _ _) (h.setModel _ _)

theorem Quiet.sampleYard (h : Quiet s t) (c ux) : Quiet s (sampleYard t c ux) := .ite (h.same rfl) h

theorem Quiet.matchClose (h : Quiet s t) (cell close c) : Quiet s (matchClose t cell close c) :=
  .ite (.setCl (.ite h (h.setCell _ _)) _ _) (.startEviction (.setCl (.ite h (h.setCell _ _)) _ _) _ _)

theorem Quiet.quireRelease (h : Quiet s t) (cell sfnSlot age) : Quiet s (quireRelease cell sfnSlot age t) := by
  unfold Machine.quireRelease
  extract_lets key
  split
  · split
    · exact h
    · extract_lets s0 s1 s2 counter due
      have h0 : Quiet s s0 := h.advanceTo _
      have h1 : Quiet s s1 := h0.matchClose _ _ _
      have h2 : Quiet s s2 := .ite h1 (h1.slotError _ _ _ _ _)
      split
      · exact h
      · split
        · exact (h2.setUl _ _).dropUl _
        · split
          next x x1 v e =>
            split
            next x2 x3 v1 e1 =>
              extract_lets r s4 s5 s6
              have h4 : Quiet s s4 := (((((h1.newQuire _ _ _ _ _ _).snd e).draw).snd e1).setCoding _).setUl _ _
              have h5 : Quiet s s5 := h4.setQuire _ _
              have h6 : Quiet s s6 := by
                dsimp only [s6]
                split
                · exact h5.sampleModel _ _ _
                · exact h5
              exact h6.sampleYard _ _
  · exact h

/-! ### Colophons -/

theorem Quiet.finalise (h : Quiet s t) (q x) : Quiet s (finalise t q x).2 := by
  unfold Machine.finalise
  dsimp only
  exact h.setColo _

theorem Quiet.sealComplete (h : Quiet s t) : Quiet s (sealComplete t) := by
  unfold Machine.sealComplete
  split
  · exact ((h.wr _ _).setColo _).event _ _ _
  · exact h

theorem Quiet.doColophonStore (h : Quiet s t) (c) : Quiet s (doColophonStore c t).st := by
  unfold Machine.doColophonStore
  split
  · exact h
  split
  · exact h
  split
  split
  · exact h
  · dsimp only
    exact h.setColo _

theorem Quiet.doColophonSeal (h : Quiet s t) (x) : Quiet s (doColophonSeal x t).st := by
  unfold Machine.doColophonSeal
  split
  · exact h.fail _ _
  · split
    · exact h.fail _ _
    · exact h.setColo _

theorem Quiet.doColophonCollect (h : Quiet s t) (c x) : Quiet s (doColophonCollect c x t).st := by
  unfold Machine.doColophonCollect
  dsimp only
  exact h.setColo _

theorem Quiet.doSetupRead (h : Quiet s t) (c) : Quiet s (doSetupRead c t).st := by
  unfold Machine.doSetupRead
  extract_lets d
  split
  · exact h.answer _
  · split
    · exact h.answer _
    · exact h.fail _ _

/-! ### The DMA channels -/

theorem Quiet.setChan (h : Quiet s t) (ch f) : Quiet s (t.setChan ch f) := h.same rfl

theorem Quiet.doDmaConfig (h : Quiet s t) (c) : Quiet s (doDmaConfig c t).st := by
  unfold Machine.doDmaConfig
  split
  · exact h
  dsimp only
  split
  · split
    · exact h
    · dsimp only
      exact h.setChan _ _
  · exact h

theorem Quiet.doWindowCreate (h : Quiet s t) (c) : Quiet s (doWindowCreate c t).st := by
  unfold Machine.doWindowCreate
  split
  · exact h
  extract_lets m0 m size
  split
  · exact h
  split
  extract_lets len rep2
  split
  · exact h
  split
  · exact h
  · exact h.same rfl

theorem Quiet.doWindowRemove (h : Quiet s t) (c) : Quiet s (doWindowRemove c t).st := by
  unfold Machine.doWindowRemove
  extract_lets n
  split
  · split
    · extract_lets x
      split
      · exact h.fail _ _
      · exact h.same rfl
    · exact h.fail _ _
  · exact h.fail _ _

theorem Quiet.dropWindows (h : Quiet s t) : Quiet s t.dropWindows := h.withWindows _

theorem Quiet.writeStretch (h : Quiet s t) (at_ base g b lo hi) : Quiet s (writeStretch at_ base g b lo hi t) :=
  .ite h (h.foldl (fun _ _ h1 => h1.wr _ _))

theorem Quiet.move (h : Quiet s t) (d w host lo hi) : Quiet s (DDesc.move d w host lo hi t) :=
  .ite (h.writeStretch _ _ _ _ _ _) (h.writeStretch _ _ _ _ _ _)

theorem Quiet.dmaEnd (h : Quiet s t) (ch desc status parked lines) : Quiet s (dmaEnd t ch desc status parked lines) :=
  .dropWindows (.ite (.ite ((((h.setChan _ _).hostWr _ _).setInt _).msix _) ((h.setChan _ _).hostWr _ _)) (h.setChan _ _))

theorem Quiet.endRun (h : Quiet s t) (ch r status lines) : Quiet s (endRun t ch r status lines) := h.dmaEnd _ _ _ _ _

theorem Quiet.winParity (h : Quiet s t) (w n) : Quiet s (winParity w n t) := by
  unfold Machine.winParity
  split
  · exact h.setCl _ _
  · exact h

theorem Quiet.dmaGo (h : Quiet s t) (ch r host ev) : Quiet s (dmaGo t ch r host ev) := by
  unfold Machine.dmaGo
  extract_lets d n
  split
  · exact h
  · extract_lets all
    have hall : Quiet s all := (h.move _ _ _ _ _).setChan _ _
    split
    · exact hall
    · exact .ite hall (((h.move _ _ _ _ _).setChan _ _).emit _)
    · exact .ite hall ((h.move _ _ _ _ _).endRun _ _ _ _)
    · exact .ite hall (((h.winParity _ _).move _ _ _ _ _).endRun _ _ _ _)
    · exact .ite (hall.winParity _ _) hall

theorem Quiet.dmaDescriptor (h : Quiet s t) (ch desc host ev) : Quiet s (dmaDescriptor ch desc host ev t) := by
  unfold Machine.dmaDescriptor
  split
  · exact h
  · split
    · exact h.dmaEnd _ _ _ _ _
    · split
      · exact h.dmaEnd _ _ _ _ _
      · exact h.dmaGo _ _ _ _

theorem Quiet.dmaReadBack (h : Quiet s t) (ch ok) : Quiet s (dmaReadBack ch ok t) := by
  unfold Machine.dmaReadBack
  split
  · exact h
  · exact .ite h (.ite (h.endRun _ _ _ _) (h.endRun _ _ _ _))

theorem Quiet.translationCompletion (h : Quiet s t) (ch lacks host ev) :
    Quiet s (translationCompletion ch lacks host ev t) := by
  unfold Machine.translationCompletion
  split
  · exact h
  · exact .ite h (.ite (h.dmaGo _ _ _ _) (.ite ((h.setChan _ _).emit _) (h.endRun _ _ _ _)))

theorem Quiet.pageResponse (h : Quiet s t) (ch success host ev) : Quiet s (pageResponse ch success host ev t) := by
  unfold Machine.pageResponse
  split
  · exact h
  · exact .ite h (.ite (h.dmaGo _ _ _ _) (h.endRun _ _ _ _))

theorem Quiet.pageTimeout (h : Quiet s t) (ch) : Quiet s (pageTimeout ch t) := by
  unfold Machine.pageTimeout
  split
  · exact h
  · exact .ite h ((h.advanceTo _).endRun _ _ _ _)

theorem Quiet.hostAbort (h : Quiet s t) (ch) : Quiet s (hostAbort ch t) := by
  unfold Machine.hostAbort
  split
  · exact h
  · exact .ite h (h.endRun _ _ _ _)

theorem Quiet.dmaDbCount (h : Quiet s t) (n count) : Quiet s (dmaDbCount n count t) := .ite (h.hlError _) (h.setChan _ _)

theorem Quiet.dmaDbCancel (h : Quiet s t) (n) : Quiet s (dmaDbCancel n t) := by
  unfold Machine.dmaDbCancel
  extract_lets ch c s1
  have h1 : Quiet s s1 := by
    dsimp only [s1]
    split
    · exact h.endRun _ _ _ _
    · exact h
  exact .ite (h.hlError _) (h1.setChan _ _)

theorem Quiet.stopDma (h : Quiet s t) : Quiet s t.stopDma := .dropWindows (h.same rfl)

theorem Quiet.dropLink (h : Quiet s t) : Quiet s t.dropLink := ((h.stopDma).setMbx rfl).hlError _

theorem Quiet.pcieLinkTrained (h : Quiet s t) (speed width) : Quiet s (pcieLinkTrained speed width t) :=
  .drainSpc (.drainRsp (.ite ((h.setHost rfl).hlError _) (h.setHost rfl)))

/-! ### The core DSP -/

theorem Quiet.bundleOp (h : Quiet s t) (c b x0) : Quiet s (bundleOp c b x0 t) := by
  unfold Machine.bundleOp
  extract_lets t' o
  split
  · exact (h.setCore _ _).putS _ _ _
  · split
    · exact h.setCore _ _
    · split
      · exact h.setCore _ _
      · exact h

theorem Quiet.bankClash (h : Quiet s t) (c a) : Quiet s (bankClash t c a) := by
  unfold Machine.bankClash
  extract_lets s1
  have h1 : Quiet s s1 := h.setCore _ _
  split
  · exact h1.vecLate _ _
  · exact h1

theorem Quiet.bundleMoves (h : Quiet s t) (c b x px py pz) : Quiet s (bundleMoves c b x px py pz t) := by
  unfold Machine.bundleMoves
  extract_lets wait ld s1
  have hwait : ∀ m p st u, Quiet s u → Quiet s (wait m p st u) := fun _ _ _ _ hu => .ite (hu.memWait _ _ _ _) hu
  have hld : ∀ m p u, Quiet s u → Quiet s (ld m p u) := by
    intro m p u hu
    cases p with
    | none => exact hu
    | some a => exact hu.setCore _ _
  have h1 : Quiet s s1 := hld _ _ _ (hld _ _ _ (hwait _ _ _ _ (hwait _ _ _ _ (hwait _ _ _ _ h))))
  split
  · exact h1.coreWr _ _
  · exact h1

theorem Quiet.bundleEffect (h : Quiet s t) (c b x0 px py pz) : Quiet s (bundleEffect c b x0 px py pz t) :=
  .ite ((((h.bundleMoves _ _ _ _ _ _).bundleOp _ _ _).setCore _ _).bankClash _ _)
    (((h.bundleMoves _ _ _ _ _ _).bundleOp _ _ _).setCore _ _)

theorem Quiet.runBundle (h : Quiet s t) (ops c w0 w1 par) : Quiet s (runBundle ops c w0 w1 par t) := by
  unfold Machine.runBundle
  extract_lets b
  refine h.issue _ _ _ _ _ ?_
  intro x u1 h1
  extract_lets x0
  split
  · exact h1.faultQuire _ _
  · split
    · exact h1.faultQuire _ _
    · exact h1.faultQuire _ _
    · exact h1.faultQuire _ _
    · exact h1.reading (h1.bundleEffect _ _ _ _ _ _) _ _ _ _ _

/-! ### The stitch links -/

theorem Quiet.applyLink (h : Quiet s t) (l r) : Quiet s (applyLink t l r) := h.setLink _ _

theorem Quiet.doSlConfig (h : Quiet s t) (c) : Quiet s (doSlConfig c t).st := by
  unfold Machine.doSlConfig
  extract_lets rs
  split
  · exact h.fail _ _
  · exact (h.foldl (fun _ _ h1 => h1.applyLink _ _)).relink

theorem Quiet.doSlStats (h : Quiet s t) (c) : Quiet s (doSlStats c t).st := by
  unfold Machine.doSlStats
  exact .ite ((h.setStitch _).withClusters _) h

theorem Quiet.sendHello (h : Quiet s t) (l) : Quiet s (t.sendHello l) := (h.emit _).setLink _ _

theorem Quiet.linkTrained (h : Quiet s t) (l slow fast) : Quiet s (linkTrained l slow fast t) := by
  unfold Machine.linkTrained
  extract_lets k
  split
  · split
    · exact ((h.setLinkState _ _).setLink _ _).sendHello _
    · exact h
  · exact h

theorem Quiet.holdXfers (h : Quiet s t) (l) : Quiet s (holdXfers t l) := by
  unfold Machine.holdXfers
  exact h.setStitch _

theorem Quiet.linkUp (h : Quiet s t) (l) : Quiet s (linkUp t l) :=
  .sendHeld (.pump (.setLink (.ite (.resend (.setLinkState (.ite (h.holdXfers _) h) _ _) _)
    (.setLinkState (.ite (h.holdXfers _) h) _ _)) _ _) _)

theorem Quiet.miswire (h : Quiet s t) (l) : Quiet s (t.miswire l) := (h.setLink _ _).setLinkState _ _

theorem Quiet.onHello (h : Quiet s t) (l chip poolId topology link) : Quiet s (onHello l chip poolId topology link t) :=
  .ite (.ite (h.linkUp _) (h.miswire _)) (.ite (h.miswire _) h)

theorem Quiet.helloRetry (h : Quiet s t) (l) : Quiet s (helloRetry l t) := .ite ((h.advanceTo _).sendHello _) h

theorem Quiet.takeAck (h : Quiet s t) (l seq) : Quiet s (takeAck t l seq) := by
  unfold Machine.takeAck
  split
  · exact h.setLink _ _
  · exact h

theorem Quiet.sendNull (h : Quiet s t) (l nak cc dc) : Quiet s (sendNull t l nak cc dc) := h.emit _

theorem Quiet.goodFlit (h : Quiet s t) (l hx ack flags) : Quiet s (goodFlit t l hx ack flags) := by
  unfold Machine.goodFlit
  extract_lets isMsg s1 s2 s3 s4 s5
  have h1 : Quiet s s1 := .ite (h.setLink _ _) h
  have h2 : Quiet s s2 := .ite (h1.takeAck _ _) h1
  have h3 : Quiet s s3 := h2.setLink _ _
  have h4 : Quiet s s4 := .ite (h3.replayFrom _) h3
  have h5 : Quiet s s5 := .ite (.ite (h4.sendNull _ _ _ _) (h4.sendNull _ _ _ _)) h4
  exact h5.pump _

theorem Quiet.flitReceive (h : Quiet s t) (l flit fec) : Quiet s (flitReceive l flit fec t) := by
  unfold Machine.flitReceive
  extract_lets k s' h' want
  have h' : Quiet s s' := .ite (h.slCount _ _ _) h
  exact .ite h' (.ite ((h'.slCount _ _ _).sendNull _ _ _ _)
    (.ite ((h'.slCount _ _ _).sendNull _ _ _ _) (.ite (h'.sendNull _ _ _ _) (h'.goodFlit _ _ _ _))))

theorem Quiet.replayTimeout (h : Quiet s t) (l) : Quiet s (replayTimeout l t) := .ite ((h.advanceTo _).replayFrom _) h

theorem Quiet.linkHoldExpiry (h : Quiet s t) (l) :
    Quiet s (linkHoldExpiry l t) := .ite (((h.advanceTo _).linkDown _).sendHeld) h

/-! ### Ports and modules -/

theorem Quiet.setPort (h : Quiet s t) (p f) : Quiet s (t.setPort p f) := h.setFe _

theorem Quiet.fhLink (h : Quiet s t) (p rate up) : Quiet s (fhLink t p rate up) := h.event _ _ _

theorem Quiet.downPort (h : Quiet s t) (p) : Quiet s (downPort p t) := .ite ((h.setPort _ _).fhLink _ _ _) h

theorem Quiet.portUp (h : Quiet s t) (p peer) : Quiet s (portUp p peer t) :=
  .ite h (((h.setPort _ _).foldl (fun _ _ h1 => h1.setCell _ _)).fhLink _ _ _)

theorem Quiet.applyQuad (h : Quiet s t) (q r) : Quiet s (applyQuad t q r) :=
  .foldl (.foldl (.setFe (.ite h (h.foldl (fun _ _ h1 => h1.downPort _))) _) (fun _ _ h1 => h1.setPort _ _))
    (fun _ _ h1 => .ite (h1.downPort _) h1)

theorem Quiet.doFhConfig (h : Quiet s t) (c) : Quiet s (doFhConfig c t).st := by
  unfold Machine.doFhConfig
  refine .outIte h ?_
  generalize checkFields 0 quadFields (slice c.params 0 296) = a
  generalize checkFields 1 quadFields (slice c.params 592 296) = b
  obtain ⟨a, ra⟩ := a
  obtain ⟨b, rb⟩ := b
  dsimp only
  exact (h.applyQuad 0 a).applyQuad 1 b

theorem Quiet.mkaKeyDistribute (h : Quiet s t) (p sci an) : Quiet s (mkaKeyDistribute p sci an t) := .ite h (h.setPort _ _)

theorem Quiet.saRetire (h : Quiet s t) (p) : Quiet s (saRetire p t) := by
  unfold Machine.saRetire
  split
  · exact h
  · exact (h.advanceTo _).setPort _ _

theorem Quiet.setCage (h : Quiet s t) (i f) : Quiet s (t.setCage i f) := h.setFe _

theorem Quiet.evaluateCage (h : Quiet s t) (i) : Quiet s (evaluateCage i t) := by
  unfold Machine.evaluateCage
  extract_lets c mode s1 s2 s1'
  have h1 : Quiet s s1 := .ite (h.emit _) h
  have h2 : Quiet s s2 := h1.setCage _ _
  have h1' : Quiet s s1' := ((h.emit _).downPort _).setCage _ _
  exact .ite h (.ite (h1.setCage _ _) (.ite (.ite h2 (h2.event _ _ _)) (.ite h (h1'.event _ _ _))))

theorem Quiet.setModule (h : Quiet s t) (serial f) : Quiet s (t.setModule serial f) := h.setFe _

theorem Quiet.enterModule (h : Quiet s t) (serial) : Quiet s (enterModule t serial) := by
  unfold Machine.enterModule
  split
  · exact h.setModule _ _
  · exact h.setFe _

theorem Quiet.moduleIdentify (h : Quiet s t) (i lower upper) : Quiet s (moduleIdentify i lower upper t) :=
  .ite h (.evaluateCage (.ite ((h.setCage _ _).enterModule _) (h.setCage _ _)) _)

theorem Quiet.moduleRemove (h : Quiet s t) (i) : Quiet s (moduleRemove i t) :=
  .ite h (.ite ((((h.downPort _).setCage _ _).setFe _).setModule _ _) ((h.downPort _).setCage _ _))

theorem Quiet.biasSample (h : Quiet s t) (i mult bias) : Quiet s (biasSample i mult bias t) := .ite (h.setModule _ _) h

theorem Quiet.lifeUpdate (h : Quiet s t) (i) : Quiet s (lifeUpdate i t) := by
  unfold Machine.lifeUpdate
  extract_lets c
  split
  · exact h
  · split
    · exact h
    · exact .ite ((h.setModule _ _).event _ _ _) (h.setModule _ _)

theorem Quiet.doModuleRead (h : Quiet s t) (c) : Quiet s (doModuleRead c t).st := by
  unfold Machine.doModuleRead
  extract_lets cage page off len
  split
  · exact h.fail _ _
  · split
    · exact h.fail _ _
    · split
      · exact h
      · split
        next x x1 v e =>
          exact (h.draw).snd e

theorem Quiet.doModulePolicy (h : Quiet s t) (c) : Quiet s (doModulePolicy c t).st := by
  unfold Machine.doModulePolicy
  dsimp only
  split
  · exact h
  · dsimp only
    exact h.setFe _

theorem Quiet.restoreModule (h : Quiet s t) (b) : Quiet s (restoreModule t b) := by
  unfold Machine.restoreModule
  extract_lets serial s1 s1'
  have h1 : Quiet s s1 := h.enterModule _
  have h1' : Quiet s s1' := by
    dsimp only [s1']
    split
    · exact h
    · exact (h1.setFe _).setModule _ _
  exact h1'.setModule _ _

theorem Quiet.doModuleTable (h : Quiet s t) (c) : Quiet s (doModuleTable c t).st := by
  unfold Machine.doModuleTable
  extract_lets n
  split
  · exact h
  · exact h.foldl (fun _ _ h1 => h1.restoreModule _)

theorem Quiet.doFhStats (h : Quiet s t) (c) : Quiet s (doFhStats c t).st := by
  unfold Machine.doFhStats
  extract_lets scope i keys body s1
  have h1 : Quiet s s1 := .ite (h.setFe _) h
  split
  · exact h.fail _ _
  · exact h1

/-! ### Power states and throttling -/

theorem Quiet.thermalReadings (h : Quiet s t) (tx) : Quiet s (thermalReadings tx t) :=
  .ite ((h.setPower _).setPower _) (h.setPower _)

theorem Quiet.powerWindowEnd (h : Quiet s t) (mean) : Quiet s (powerWindowEnd mean t) := .ite (h.setPower _) h

theorem Quiet.imonSample (h : Quiet s t) (milliamp) : Quiet s (imonSample milliamp t) := .ite (h.setPower _) h

theorem Quiet.throttleHoldExpiry (h : Quiet s t) (c) : Quiet s (throttleHoldExpiry c t) := by
  unfold Machine.throttleHoldExpiry
  split
  · exact .ite h ((h.advanceTo _).setPower _)
  · exact h

theorem Quiet.setStep (h : Quiet s t) (v cause) : Quiet s (setStep v cause t) := (h.setPower _).event _ _ _

theorem Quiet.throttleStepChange (h : Quiet s t) : Quiet s (throttleStepChange t) := by
  unfold Machine.throttleStepChange
  extract_lets p s1 v
  have h1 : Quiet s s1 := by
    dsimp only [s1]
    split
    · exact h.advanceTo _
    · exact h
  exact .ite h (.ite (h.setStep _ _) (.ite ((h1.setPower _).setStep _ _) h))

theorem Quiet.domainGate (h : Quiet s t) (d) : Quiet s (domainGate d t) := .ite h (h.setPower _)

theorem Quiet.pllStandby (h : Quiet s t) (p) : Quiet s (pllStandby p t) := .ite (h.setPower _) h

theorem Quiet.domainWake (h : Quiet s t) (d) : Quiet s (domainWake d t) := .ite (h.setPower _) (.ite h (h.setPower _))

theorem Quiet.doTelemetryRead (h : Quiet s t) (x) : Quiet s (doTelemetryRead x t).st := h

theorem Quiet.lanesDown (h : Quiet s t) : Quiet s t.lanesDown :=
  (h.foldl (fun _ _ h1 => h1.downPort _)).foldl (fun _ _ h1 => h1.linkDown _)

theorem Quiet.doPowerState (h : Quiet s t) (c x) : Quiet s (doPowerState c x t).st := by
  unfold Machine.doPowerState
  extract_lets coding
  split
  · exact h.fail _ _
  · split
    · extract_lets s1 s1'
      have h1 : Quiet s s1 := (h.lanesDown).setPower _
      have h1' : Quiet s s1' := h.setPower _
      split
      · split
        · exact h.fail _ _
        · exact h1
      · split
        · exact ((h1'.setPower _).autoPower).relink
        · exact h1'

theorem Quiet.unplaceAll (h : Quiet s t) : Quiet s (unplaceAll t) := h.applyCells _

theorem Quiet.enterD3 (h : Quiet s t) (st pll) : Quiet s
    ((t.setPower fun p => { p with state := st, pllStandby := pll }).setHost fun h => { h with d3hot := true }) :=
  (h.setPower _).setHost rfl

theorem Quiet.d3hotEntry (h : Quiet s t) : Quiet s (d3hotEntry t) := by
  unfold Machine.d3hotEntry
  split
  · exact h
  · exact ((h.unplaceAll.spineChanged.foldl fun _ _ hu => hu.faultQuire _ _).lanesDown.stopDma).enterD3 _ _

theorem Quiet.d0Return (h : Quiet s t) : Quiet s (d0Return t) :=
  .ite ((((((h.setPower _).setHost rfl).autoPower).relink).drainRsp).drainSpc) h

/-! ### The root of trust -/

theorem Quiet.doFwStage (h : Quiet s t) (c x) : Quiet s (doFwStage c x t).st := by
  unfold Machine.doFwStage
  split
  · exact h
  split
  · exact h
  · dsimp only
    exact h.setSec rfl

theorem Quiet.doCertGet (h : Quiet s t) (x) : Quiet s (doCertGet x t).st := h

theorem Quiet.doAttest (h : Quiet s t) (x snap) : Quiet s (doAttest x snap t).st := h

/-- Programming the owner root only sets bits: the part had none, and OWNED is the life cycle of all ones (R395). -/
theorem Quiet.fuseOwner (h : Quiet s t) (hnone : t.sec.fuses.ownerRoot = none) (root) :
    Quiet s (t.setSec fun x => { x with fuses := { x.fuses with ownerRoot := some root, lifecycle := 3 } }) := by
  have hlife : ∀ i, t.sec.fuses.lifecycle.getLsbD i = true → (3 : BitVec 2).getLsbD i = true := fun i hi => by
    have := BitVec.lt_of_getLsbD hi
    interval_cases i <;> rfl
  exact h.trans ⟨rfl, rfl, ⟨id, hlife, id, fun _ => id, fun _ => id, by simp [hnone]⟩, fun _ _ => rfl, id, id, id⟩

theorem Quiet.importOwner (h : Quiet s t) (b) : Quiet s (importOwner b t).st := by
  unfold Machine.importOwner
  split
  · exact h
  next hfree =>
    split
    · exact h
    · refine h.fuseOwner ?_ _
      rw [Bool.or_eq_true, not_or] at hfree
      simpa using hfree.1

theorem Quiet.importCak (h : Quiet s t) (b) : Quiet s (importCak b t).st := by
  unfold Machine.importCak
  dsimp only
  split
  · exact h
  split
  · exact h
  split
  · exact h
  split
  · exact h
  split
  · exact h
  split
  · dsimp only
    exact h.setFe _
  · exact h

theorem Quiet.doKeyImport (h : Quiet s t) (c) : Quiet s (doKeyImport c t).st := by
  unfold Machine.doKeyImport
  split
  · exact h.fail _ _
  · split
    · exact h.importOwner _
    · exact h.importCak _

theorem Quiet.setSpdm (h : Quiet s t) (f) : Quiet s (t.setSpdm f) := h.setSec rfl

theorem Quiet.spdmError (h : Quiet s t) (code) : Quiet s (spdmError t code) := h.emit _

theorem Quiet.spdmReply (h : Quiet s t) (code named request) : Quiet s (spdmReply t code named request) := by
  unfold Machine.spdmReply
  split
  next x x1 v e =>
    exact ((h.draw).snd e).emit _

theorem Quiet.spdmServe (h : Quiet s t) (ready f) (hf : ∀ u, Quiet s u → Quiet s (f u)) : Quiet s (spdmServe t ready f) :=
  .ite h (.ite (hf _ h) (h.spdmError _))

theorem Quiet.ideKm (h : Quiet s t) (stream go) : Quiet s (ideKm stream go t) :=
  .ite (.ite (.ite (h.setHost rfl) (h.spdmError _)) (h.setHost rfl))
    (.ite (.ite (h.setHost rfl) (h.spdmError _)) (h.setHost rfl))

/-! ### Long commands -/

theorem Quiet.runLong (h : Quiet s t) (code c snap) : Quiet s (runLong code c snap t).st := by
  unfold Machine.runLong
  split
  · exact h.doAttest _ _
  · split
    · exact h.doFwStage _ _
    · split
      · exact h.doSlotConfig _ _
      · split
        · exact h.doModelLoad _ _
        · split
          · exact h.doPrecoderLoad _ _
          · split
            · exact h.doAdaptRollback _ _
            · split
              · exact h.doColophonCollect _ _
              · exact h.doPowerState _ _

theorem Quiet.runShort (h : Quiet s t) (code c) : Quiet s (runShort code c t).st := by
  unfold Machine.runShort
  split
  · exact h.doFhConfig _
  · split
    · exact h.doPoolConfig _
    · split
      · exact h.doModelUnload _
      · split
        · exact h.doAdaptConfig _
        · split
          · exact h.doAdaptStatus _
          · split
            · exact h.doColophonStore _
            · exact h.doColophonSeal _

theorem Quiet.serveWaiting (h : Quiet s t) : Quiet s (serveWaiting t) :=
  (h.setMbx rfl).foldl (fun _ _ h1 => h1.finish _ _ _ (h1.runShort _ _))

theorem Quiet.longCommandLeaf (h : Quiet s t) : Quiet s (longCommandLeaf t) := by
  unfold Machine.longCommandLeaf
  split
  · exact h
  · split
    · exact h
    · exact .ite (((h.setMbx rfl).finish _ _ _ ((h.setMbx rfl).runLong _ _ _)).serveWaiting) (h.setMbx rfl)

end Operations

end Sys2Proof.Machine
end

section
/-!
SUPPORT. Quiet operations of posting, transfers, registers, the HOST level of resets, the core sequencer and the spine.
-/

namespace Sys2Proof.Machine
open Sys2Proof

section Operations

variable {s t u : State}

/-! ### What a quire reports -/

theorem Quiet.colophonFinalise (h : Quiet s t) (tag) : Quiet s (colophonFinalise tag t) := by
  unfold Machine.colophonFinalise
  split
  · exact h
  · split
    · split
      · exact h
      · split
        next x x1 v e =>
          exact (((h.finalise _ _).snd e).setRx _ _).setCoding _
    · split
      · exact h
      · split
        next x x1 v e =>
          exact ((h.finalise _ _).snd e).setCoding _
    · split
      · exact h
      · split
        next x x1 v e =>
          exact ((h.finalise _ _).snd e).setCoding _
    · exact h

theorem Quiet.settleYard (h : Quiet s t) (r) : Quiet s (settleYard t r) := h.same rfl

theorem Quiet.countPosted (h : Quiet s t) (q r) : Quiet s (countPosted t q r) := by
  unfold Machine.countPosted
  extract_lets n keep mine
  split
  · exact h
  · split
    · exact h
    · split
      · exact h
      · split
        · exact h.setModel _ _
        · split
          next x x1 v e =>
            exact ((h.draw).snd e).setModel _ _

theorem Quiet.afterPosting (h : Quiet s t) (q r) : Quiet s (afterPosting t q r) := by
  unfold Machine.afterPosting
  extract_lets key s1 s2 s3
  have h1 : Quiet s s1 := (h.setUl _ _).dropUl _
  have h2 : Quiet s s2 := h1.countPosted _ _
  have h3 : Quiet s s3 := by
    dsimp only [s3]
    split
    · exact h2.triggerAdapt _
    · exact h2
  exact (h3.settleYard _).triggerYard _

theorem Quiet.postUl (h : Quiet s t) (q r) : Quiet s (postUl t q r) := by
  unfold Machine.postUl
  extract_lets tag s1 s2 s3 s4 s5
  have h1 : Quiet s s1 := h.foldl (fun _ _ h1 => .ite h1 (h1.hostWr _ _))
  have h2 : Quiet s s2 := h1.postSpc _
  have h3 : Quiet s s3 := .ite h2 (h2.setCoding _)
  have h4 : Quiet s s4 := (h3.freePlaces _).returnRest _
  have h5 : Quiet s s5 := h4.setRx _ _
  exact h5.afterPosting _ _

theorem Quiet.resultPosting (h : Quiet s t) (tag) : Quiet s (resultPosting tag t) := by
  unfold Machine.resultPosting
  extract_lets t'
  split
  · exact h
  · split
    · exact h
    · split
      · exact .ite h (h.postUl _ _)
      · exact .ite h ((h.postSpc _).setCoding _)
      · exact .ite h ((h.postSpc _).setCoding _)
      · exact h

theorem Quiet.dropColo (h : Quiet s t) (b) : Quiet s (dropColo t b) := .ite h (h.setColo _)

theorem Quiet.reopen (h : Quiet s t) (tag r) : Quiet s (reopen t tag r) :=
  .setRx (.ite ((h.setMbx rfl).dropColo _) (h.setMbx rfl)) _ _

theorem Quiet.slotDeadline (h : Quiet s t) (tag) : Quiet s (slotDeadline tag t) := by
  unfold Machine.slotDeadline
  split
  · extract_lets s' s1 s2
    have h' : Quiet s s' := by
      dsimp only [s']
      split
      · exact h.advance _
      · exact h
    have h1 : Quiet s s1 := h'.reopen _ _
    have h2 : Quiet s s2 := h1.foldl (fun _ _ h2 => (h2.combineHanded _ _).lateStore _ _)
    exact .ite h' ((((h2.freePlaces _).returnRest _).colophonFinalise _).resultPosting _)
  · exact h

/-! ### Transfers at their source -/

theorem Quiet.sendWire (h : Quiet s t) (y chip lo hi) : Quiet s (sendWire t y chip lo hi) :=
  .ite h (h.foldl (fun _ _ h1 => h1.sendMsg _))

theorem Quiet.putX (h : Quiet s t) (y) : Quiet s (t.putX y) := h.setStitch _

theorem Quiet.goOn (h : Quiet s t) (y) : Quiet s (goOn t y) :=
  (h.foldl (fun _ _ h1 => .ite (((h1.sendWire _ _ _ _).sendMsg _).slCount _ _ _) (h1.sendWire _ _ _ _))).putX _

theorem Quiet.endIfDone (h : Quiet s t) (num) : Quiet s (endIfDone t num) := by
  unfold Machine.endIfDone
  extract_lets s1
  have h1 : Quiet s s1 := h.setStitch _
  split
  · exact h
  · extract_lets d s2
    have h2 : Quiet s s2 := by
      dsimp only [s2]
      split
      · exact h1
      · split
        · exact h1
        · exact h1.addDone _ _ _ _
    exact .ite h (h2.sendFreed)

theorem Quiet.setTarget (h : Quiet s t) (num chip f) : Quiet s (t.setTarget num chip f) := by
  unfold State.setTarget
  split
  · exact h
  · exact h.putX _

theorem Quiet.takeProgress (h : Quiet s t) (num chip n) : Quiet s (takeProgress t num chip n) := by
  unfold Machine.takeProgress
  extract_lets s1
  have h1 : Quiet s s1 := h.setTarget _ _ _
  split
  · exact .ite (h1.goOn _) h1
  · exact h1

theorem Quiet.markLeaf (h : Quiet s t) (tag f g) : Quiet s (t.markLeaf tag f g) :=
  (h.setQuire _ _).foldl (fun _ _ h1 => .ite (h1.setCore _ _) h1)

theorem Quiet.takeComplete (h : Quiet s t) (num chip code) : Quiet s (takeComplete t num chip code) := by
  unfold Machine.takeComplete
  split
  · exact h
  · extract_lets s1 s2 s3
    have h1 : Quiet s s1 := by
      dsimp only [s1]
      split
      · split
        · exact h.markLeaf _ _ _
        · exact h
      · exact h
    have h2 : Quiet s s2 := h1.setTarget _ _ _
    have h3 : Quiet s s3 := by
      dsimp only [s3]
      split
      · exact .ite (h2.goOn _) h2
      · exact h2
    exact h3.endIfDone _

theorem Quiet.undoGrant (h : Quiet s t) (num) : Quiet s (undoGrant t num) := by
  unfold Machine.undoGrant
  extract_lets s1
  have h1 : Quiet s s1 := h.setStitch _
  split
  · exact h
  · split
    · exact .ite h1 ((h1.putObj _ _ _).retryAll _ _)
    · exact h1

theorem Quiet.onReadReq (h : Quiet s t) (m) : Quiet s (onReadReq m t) := by
  unfold Machine.onReadReq
  split
  · exact h
  · exact .ite (.sendWire (.ite (h.putX _) h) _ _ _ _) h

theorem Quiet.onProgress (h : Quiet s t) (m) : Quiet s (onProgress m t) := h.takeProgress _ _ _

theorem Quiet.onComplete (h : Quiet s t) (m) : Quiet s (onComplete m t) := .ite (h.undoGrant _) (h.takeComplete _ _ _)

theorem Quiet.failXfer (h : Quiet s t) (y) : Quiet s (failXfer t y) := by
  unfold Machine.failXfer
  split
  · exact h.faultQuire _ _
  · exact (h.setStitch _).sendFreed

theorem Quiet.xferLost (h : Quiet s t) (num) : Quiet s (xferLost num t) := by
  unfold Machine.xferLost
  split
  · exact h
  · exact .ite h ((h.advanceTo _).failXfer _)

theorem Quiet.peerLost (h : Quiet s t) (chip c) : Quiet s (peerLost t chip c) := by
  unfold Machine.peerLost
  split
  · exact .ite ((h.sigObj _ _ _ _).grantCheck _ _) h
  · exact h

theorem Quiet.peerLostKept (h : Quiet s t) (chip tag) : Quiet s (peerLostKept t chip tag) := by
  unfold Machine.peerLostKept
  split
  · next q x _ _ =>
    extract_lets one
    have hone : ∀ u r w, Quiet s u → Quiet s (one u r w) := by
      intro u r w hu
      cases w with
      | none => exact hu
      | some w => exact .ite (hu.sigObj _ _ _ _) hu
    exact hone _ _ _ (hone _ _ _ h)
  · exact h

theorem Quiet.chipLost (h : Quiet s t) (c) : Quiet s (chipLost c t) := by
  unfold Machine.chipLost
  extract_lets s1 s2 s3
  have h1 : Quiet s s1 := (h.setStitch _).event _ _ _
  have h2 : Quiet s s2 := h1.foldl (fun _ _ h2 => h2.peerLost _ _)
  have h3 : Quiet s s3 := h2.foldl (fun _ _ h3 => h3.peerLostKept _ _)
  exact .ite h (h3.foldl (fun _ _ h4 => .ite h4 (.ite (h4.takeComplete _ _ _) (h4.failXfer _))))

theorem Quiet.chipFound (h : Quiet s t) (c) : Quiet s (chipFound c t) := .ite (((h.setStitch _).event _ _ _).sendHeld) h

/-! ### Transfers at their destination -/

theorem Quiet.replyX (h : Quiet s t) (src num typ arg) : Quiet s (replyX t src num typ arg) := by
  unfold Machine.replyX
  split
  · split
    · exact h.takeProgress _ _ _
    · exact h.takeComplete _ _ _
    · exact h
  · exact h.sendMsg _

theorem Quiet.putIn (h : Quiet s t) (y) : Quiet s (t.putIn y) := h.setStitch _

theorem Quiet.setSum (h : Quiet s t) (tag g f) : Quiet s (t.setSum tag g f) := h.setQuire _ _

theorem Quiet.addInto (h : Quiet s t) (fmt at_ b) : Quiet s (addInto t fmt at_ b) := h.wr _ _

theorem Quiet.addStaged (h : Quiet s t) (q g at_) : Quiet s (addStaged t q g at_) :=
  h.foldl (fun _ _ h1 => h1.foldl (fun _ _ h2 => h2.addInto _ _ _))

theorem Quiet.landSum (h : Quiet s t) (q i c) : Quiet s (landSum t q i c) := by
  unfold Machine.landSum
  extract_lets s1
  have h1 : Quiet s s1 := h.setSum _ _ _
  split
  · exact h1
  · extract_lets obj
    split
    · exact h1.sigObj _ _ _ _
    · exact .ite ((h1.addStaged _ _ _).sigObj _ _ _ _) h1

theorem Quiet.refuseMsg (h : Quiet s t) : Quiet s (refuseMsg t).1 := h.slCount _ _ _

theorem Quiet.parityMsg (h : Quiet s t) (k q) : Quiet s (parityMsg t k q).1 := by
  unfold Machine.parityMsg
  extract_lets s1 s2
  have h1 : Quiet s s1 := h.setCl _ _
  have h2 : Quiet s s2 := by
    dsimp only [s2]
    split
    · exact h1.faultQuire _ _
    · exact h1
  exact h2.refuseMsg

theorem Quiet.onWrite (h : Quiet s t) (m parity p) : Quiet s (onWrite m parity p t).1 := by
  unfold Machine.onWrite
  extract_lets a
  split
  · exact h.refuseMsg
  · split
    · exact h.refuseMsg
    · split
      · exact h.parityMsg _ _
      · exact h.wr _ _

theorem Quiet.onMcast (h : Quiet s t) (m parity p) : Quiet s (onMcast m parity p t).1 := by
  unfold Machine.onMcast
  extract_lets w a
  split
  · exact h.refuseMsg
  · split
    · exact h.parityMsg _ _
    · exact h.wr _ _

theorem Quiet.onSum (h : Quiet s t) (m parity p) : Quiet s (onSum m parity p t).1 := by
  unfold Machine.onSum
  extract_lets a c
  split
  · exact h.refuseMsg
  · extract_lets s1
    have h1 : Quiet s s1 := .ite (h.setSum _ _ _) h
    split
    · exact h.refuseMsg
    · extract_lets fmt n rel s2 els old
      have h2 : Quiet s s2 := .ite (h1.setQuire _ _) h1
      split
      · exact h.refuseMsg
      · split
        · exact h.setCl _ _
        · split
          · exact h2.parityMsg _ _
          · split
            · exact h2.addInto _ _ _
            · exact (h2.wr _ _).setSum _ _ _

theorem Quiet.jrCount (h : Quiet s t) (cell y) : Quiet s (jrCount t cell y) := by
  unfold Machine.jrCount
  split
  · exact h
  · exact h.slCount _ _ _
  · exact h.slCount _ _ _
  · exact h.slCount _ _ _
  · exact h.slCount _ _ _

theorem Quiet.onJr (h : Quiet s t) (m parity p) : Quiet s (onJr m parity p t).1 := by
  unfold Machine.onJr
  extract_lets areas fates s1 take s2 x
  have h1 : Quiet s s1 := h.foldl (fun _ _ h1 => h1.jrCount _ _)
  have h2 : Quiet s s2 := h1.foldl (fun _ _ h2 => (h2.wr _ _).setStitch _)
  split
  · exact h.refuseMsg
  · split
    · exact h1
    · split
      · exact h1.parityMsg _ _
      · exact h2.putIn _

theorem Quiet.landX (h : Quiet s t) (m x) : Quiet s (landX m x t) := by
  unfold Machine.landX
  extract_lets s1 s2
  have h1 : Quiet s s1 := by
    dsimp only [s1]
    split
    · split
      · exact h.landSum _ _ _
      · exact h
    · refine h.foldl ?_
      intro u1 x1 h1
      split
      · exact h1.sigObj _ _ _ _
      · exact h1
    · exact h
  have h2 : Quiet s s2 := .ite h1 (h1.addDone _ _ _ _)
  exact h2.replyX _ _ _ _

theorem Quiet.dropMsg (h : Quiet s t) (m x) : Quiet s (dropMsg m x t) :=
  .putIn (.ite (h.foldl (fun _ _ h1 => h1.jrCount _ _)) (.ite h (h.slCount _ _ _))) _

theorem Quiet.nextMsg {on : SMsg → Bool → Placed → State → State × Verdict}
    (hon : ∀ m b p u, Quiet s u → Quiet s (on m b p u).1) (h : Quiet s t) (m par x) : Quiet s (nextMsg on m par x t) := by
  unfold Machine.nextMsg
  split
  · exact h.dropMsg _ _
  extract_lets p s1
  have h1 : Quiet s s1 := h.slCount _ _ _
  split
  next s2 v e =>
    have h2 : Quiet s s2 := by
      split at e
      · exact h1.refuseMsg.fst e
      split at e
      · cases e; exact h1
      · exact (hon _ _ _ _ (.ite (h1.setCl _ _) h1)).fst e
    extract_lets x2
    clear_value x2
    cases v with
    | refused code => exact (h2.putIn _).replyX _ _ _ _
    | ok =>
      have h3 := fun x3 => h2.putIn x3
      have h4 := fun x3 c => Quiet.ite (c := x.wire / 16384 < c / 16384) ((h3 x3).replyX x.src x.num 6 c) (h3 x3)
      exact .ite ((h4 _ _).landX _ _) (h4 _ _)

theorem Quiet.recvData (h : Quiet s t) (on par m) (hon : ∀ x0 x1 x2 u, Quiet s u → Quiet s (on x0 x1 x2 u).1) :
    Quiet s (recvData on par m t) := by
  unfold Machine.recvData
  extract_lets src num new s1
  have h1 : Quiet s s1 := h.slCount _ _ _
  split
  · exact .ite ((h.putIn _).nextMsg (fun _ _ _ _ h2 => hon _ _ _ _ h2) _ _ _) (h1.replyX _ _ _ _)
  · split
    · exact (h.putIn _).nextMsg (fun _ _ _ _ h2 => hon _ _ _ _ h2) _ _ _
    · exact .ite h1 (.ite (h.nextMsg (fun _ _ _ _ h2 => hon _ _ _ _ h2) _ _ _) (.ite (h1.replyX _ _ _ _) h1))

theorem Quiet.recvAny (h : Quiet s t) (m) : Quiet s (recvAny m t) := by
  unfold Machine.recvAny
  split
  · exact h.recvData _ _ _ (fun _ _ _ _ h1 => h1.onWrite _ _ _)
  · exact h.recvData _ _ _ (fun _ _ _ _ h1 => h1.onMcast _ _ _)
  · exact h.recvData _ _ _ (fun _ _ _ _ h1 => h1.onSum _ _ _)
  · exact h.recvData _ _ _ (fun _ _ _ _ h1 => h1.onJr _ _ _)
  · exact h

theorem Quiet.onCut (h : Quiet s t) (m) : Quiet s (onCut m t) := by
  unfold Machine.onCut
  extract_lets src num
  split
  · exact (h.putIn _).replyX _ _ _ _
  · exact .ite h (.ite ((h.putIn _).replyX _ _ _ _) ((h.putIn _).replyX _ _ _ _))

theorem Quiet.setScale (h : Quiet s t) (n l) : Quiet s (setScale t n l) := by
  unfold Machine.setScale
  split
  · exact h.setStitch _
  · exact h

theorem Quiet.launchX (h : Quiet s t) (q n raw) : Quiet s (launchX t q n raw) := by
  unfold Machine.launchX
  extract_lets d stream chans wire nf s1 s2 gone
  have h1 : Quiet s s1 := (h.slCount _ _ _).slCount _ _ _
  have h2 : Quiet s s2 := .ite (h1.markLeaf _ _ _) h1
  split
  next x x1 v e =>
    extract_lets x' s4 s5 s6
    have h4 : Quiet s s4 := (((h2.setScale _ _).newXfer).snd e).setStitch _
    have h5 : Quiet s s5 := .ite (h4.goOn _) (.ite h4 (h4.sendWire _ _ _ _))
    have h6 : Quiet s s6 := .ite (h5.foldl (fun _ _ h3 => h3.recvAny _)) h5
    exact h6.endIfDone _

theorem Quiet.stitchDescriptor (h : Quiet s t) (n) : Quiet s (stitchDescriptor n t) := by
  unfold Machine.stitchDescriptor
  extract_lets sq raw d
  split
  · exact h
  · extract_lets o s1
    have h1 : Quiet s s1 := h.putObj _ _ _
    split
    · exact h
    · split
      · exact h1.faultQuire _ _
      · exact .ite (h1.faultQuire _ _) ((h1.setStitch _).launchX _ _ _)

theorem Quiet.expireReady (h : Quiet s t) (hx tag) : Quiet s (expireReady t hx tag) := by
  unfold Machine.expireReady
  refine h.foldl ?_
  intro u1 x1 h1
  split
  · exact .ite ((h1.expireWait _ _).setQuire _ _) h1
  · exact h1

theorem Quiet.jrCutoff (h : Quiet s t) (cell slot) : Quiet s (jrCutoff cell slot t) := by
  unfold Machine.jrCutoff
  split
  · exact h
  extract_lets q pressed v keys s1 s2
  have hv : Quiet s v := by
    dsimp only [v]
    split
    · exact h.advanceTo _
    · exact h
  have h1 : Quiet s s1 := hv.setStitch _
  have h2 : Quiet s s2 := by
    dsimp only [s2]
    cases q with
    | some q => exact h1.foldl fun u p hu => hu.expireReady _ _
    | none => exact h1
  exact .ite h (h2.foldl fun u x hu => .ite ((hu.putIn _).replyX _ _ _ _) hu)

theorem Quiet.jrAreaDeadline (h : Quiet s t) (cell slot) : Quiet s (jrAreaDeadline cell slot t) :=
  .ite h (h.foldl (fun _ _ h1 => (h1.putObj _ _ _).setStitch _))

/-! ### Register writes -/

theorem Quiet.setLock (h : Quiet s t) : Quiet s (setLock t) :=
  h.trans ⟨rfl, rfl, FuseLe.refl _, id, fun _ => setLock_lock t, id, id⟩

theorem Quiet.setLog2Size (h : Quiet s t) (v) :
    Quiet s (t.setMbx fun m => { m with log2Size := clampNat 16 24 v }) :=
  h.trans ⟨rfl, rfl, FuseLe.refl _, id, id, id, fun _ => ⟨le_clampNat (by decide) _, clampNat_le (by decide) _⟩⟩

@[simp] theorem clearBad_log2Size (v : BitVec 32) (m : Mailbox) : (clearBad v m).log2Size = m.log2Size := by
  unfold clearBad
  apply foldl_keeps (fun m : Mailbox => m.log2Size)
  intro m i
  split
  · exact Mailbox.setRing_log2Size _ _ _
  · rfl

theorem Quiet.write32 (h : Quiet s t) (off v) : Quiet s (write32 off v t) :=
  .ite (h.setHost rfl) <| .ite (.ite h (h.setHost rfl)) <| .ite (.ite h.setLock h) <| .ite (h.setHost rfl) <|
    .ite (h.setMbx rfl) <| .ite (h.setMbx rfl) <| .ite (h.setMbx rfl) <| .ite (h.setMbx rfl) <| .ite (h.setLog2Size _) <|
    .ite (h.setMbx (clearBad_log2Size _ _)) <| .ite (h.slotMark _) <| .ite (.ite (h.dmaDbCancel _) (h.dmaDbCount _ _)) h

theorem Quiet.doorbellWrite (h : Quiet s t) (v) :
    Quiet s (doorbellWrite v t) := .ite h (.ite (h.doorbellReset _) (h.doorbell _ _))

theorem Quiet.registerWrite (h : Quiet s t) (off val wide) : Quiet s (registerWrite off val wide t) := by
  unfold Machine.registerWrite
  extract_lets o
  split
  · exact h
  · refine h.barReq _ _ (fun _ h1 => .ite (h1.hlError _) (.ite ((h1.emit _).hlError _)
      (.ite (h1.write32 _ _) (.ite (h1.doorbellWrite _) ((h1.write32 _ _).write32 _ _)))))

/-! ### The HOST level of resets, and start-up -/

theorem Quiet.underLink (h : Quiet s t) {w host sec mbx} (hl : host.lock = t.host.lock) (hf : sec.fuses = t.sec.fuses)
    (hr : mbx.ringOk) : Quiet s { t with windows := w, host := host, sec := sec, mbx := mbx } := by
  refine h.trans ⟨rfl, rfl, ?_, ?_, ?_, id, fun _ => hr⟩
  · exact hf ▸ FuseLe.refl _
  · exact fun ho => hf ▸ ho
  · exact fun hs => hl ▸ hs

theorem Quiet.hostReset (h : Quiet s t) (keep) : Quiet s (hostReset keep t) := by
  have hs : Quiet s t.stopDma := h.stopDma
  have hh : t.stopDma.host = t.host := rfl
  have hf : t.stopDma.sec = t.sec := rfl
  unfold Machine.hostReset
  generalize t.stopDma = u at hs hh hf ⊢
  exact hs.underLink (by rw [hh]) (by rw [hf]; rfl) ⟨le_refl 16, show 16 ≤ 24 by decide⟩

theorem Quiet.hotReset (h : Quiet s t) : Quiet s (hotReset t) := ((h.d0Return).hostReset _).hlError _

theorem Quiet.functionLevelReset (h : Quiet s t) : Quiet s (functionLevelReset t) := (h.d0Return).hostReset _

theorem Quiet.loadImages (h : Quiet s t) (img) : Quiet s (loadImages img t) := h.foldl (fun _ _ h1 => h1.wr _ _)

theorem Quiet.retireAtStart (h : Quiet s t) (e) : Quiet s (retireAtStart t e) := by
  unfold Machine.retireAtStart
  extract_lets k
  split
  next x x1 v e1 =>
    exact (((h.setEng _ _).switchVariants _).snd e1).setMbx rfl

theorem Quiet.openRings (h : Quiet s t) : Quiet s (openRings t) := h.foldl (fun _ _ h1 => (h1.putObj _ _ _).putObj _ _ _)

/-! ### The core sequencer -/

theorem Quiet.sendTake (h : Quiet s t) (c rd ref n) : Quiet s (sendTake t c rd ref n) :=
  ((h.setStitch _).setCore _ _).sendMsg _

theorem Quiet.countRetry (h : Quiet s t) (c ref empty) : Quiet s (countRetry c ref empty t) :=
  (h.foldl (fun _ _ h1 => h1.engCount _ _ _)).setCore _ _

theorem Quiet.spinLocal (h : Quiet s t) (c rd ref n limit) : Quiet s (spinLocal t c rd ref n limit) :=
  (h.setCl _ _).setCore _ _

theorem Quiet.spinRemote (h : Quiet s t) (c q rd ref n limit) : Quiet s (spinRemote t c q rd ref n limit) :=
  ((h.setStitch _).setCore _ _).sendReg _ _ _

theorem Quiet.waitTake (h : Quiet s t) (c q rd ref n limit err) : Quiet s (waitTake t c q rd ref n limit err) := by
  unfold Machine.waitTake
  extract_lets x
  split
  · exact h.spinRemote _ _ _ _ _ _
  · split
    next x1 x2 v e =>
      extract_lets ends late s2
      have h2 : Quiet s s2 := (((h.meetError _ _ _).takeObj _ _ _ _).snd e).setQuire _ _
      split
      · exact (h2.putS _ _ _).setCore _ _
      · split
        · exact (((h.meetError _ _ _).takeObj _ _ _ _).snd e).spinLocal _ _ _ _ _
        · exact .ite (((h.meetError _ _ _).takeObj _ _ _ _).snd e)
            ((((((h.meetError _ _ _).takeObj _ _ _ _).snd e).notePages _ _ _ _).putS _ _ _).setCore _ _)

theorem Quiet.waitInstr (h : Quiet s t) (c rd ra imm err) : Quiet s (waitInstr c rd ra imm err t) := by
  unfold Machine.waitInstr
  extract_lets n limit
  refine h.issue _ _ _ _ _ (fun _ _ h1 => .ite h1 (.ite (h1.faultQuire _ _)
    (.ite (h1.faultQuire _ _) (.ite (h1.faultQuire _ _) (.ite
      (.ite (h1.takeRetry _) (.ite ((((h1.waitCore _ _).closeLeaf _ _ _).holdReady _).leaveCore _ _)
        (((((h1.waitCore _ _).closeLeaf _ _ _).holdReady _).startLeaf _ _ _).waitTake _ _ _ _ _ _ _)))
          ((h1.waitCore _ _).waitTake _ _ _ _ _ _ _))))))

theorem Quiet.leafEnd (h : Quiet s t) (c cycles last live q) : Quiet s (leafEnd c cycles last live q t) := by
  unfold Machine.leafEnd
  extract_lets x s0 s1 s2 s3
  have h0 : Quiet s s0 := (h.waitCore _ _).setCore _ _
  have h1 : Quiet s s1 := h0.closeLeaf _ _ _
  have h2 : Quiet s s2 := h1.setQuire _ _
  have h3 : Quiet s s3 := h2.setCore _ _
  split
  · exact h
  · split
    · exact h.faultQuire _ _
    · split
      · exact h.faultQuire _ _
      · split
        · exact h.takeRetry _
        · split
          · exact h2
          · exact .ite ((h3.endQuire _).holdReady _) (((h2.leaveCore _ _).freeLeafThread _ _).holdReady _)

theorem Quiet.enterOverrun (h : Quiet s t) (c q) : Quiet s (enterOverrun t c q) := (h.setCore _ _).account _ _ _

theorem Quiet.takePreempt (h : Quiet s t) (c q) : Quiet s (takePreempt t c q) := by
  unfold Machine.takePreempt
  extract_lets s0 s1 s2
  have h0 : Quiet s s0 := h.setCore _ _
  have h1 : Quiet s s1 := ((h0.chargeLeaf _ _ _).keepContext _ _).setCore _ _
  have h2 : Quiet s s2 := h1.suspendQuire _
  exact .ite (h2.setQuire _ _) h2

/-! ### Configuration agreement -/

theorem Quiet.spineRound (h : Quiet s t) : Quiet s (spineRound t) :=
  .ite h (((h.advanceTo _).setStitch _).foldl (fun _ _ h1 => h1.sendMsg _))

theorem Quiet.putMember (h : Quiet s t) (c m) : Quiet s (t.putMember c m) := h.setStitch _

theorem Quiet.onSpine (h : Quiet s t) (m) : Quiet s (onSpine m t) :=
  .ite (.ite (h.putMember _ _) ((h.putMember _ _).event _ _ _)) (.ite ((h.putMember _ _).event _ _ _) (h.putMember _ _))

theorem Quiet.spineMissing (h : Quiet s t) (c) :
    Quiet s (spineMissing c t) := .ite (((h.advanceTo _).putMember _ _).event _ _ _) h

end Operations

end Sys2Proof.Machine
end

section
/-!
SUPPORT. Every command but those of resets and start-up is quiet.
-/

namespace Sys2Proof.Machine
open Sys2Proof

section Operations

variable {s t u : State}

/-- The next state that an outcome gives, where it gives one, is reached quietly. -/
def QuietNext (s : State) (o : Host.Outcome State Fault Refusal) : Prop := ∀ t, o = .next t → Quiet s t

theorem QuietNext.next (h : Quiet s t) : QuietNext s (.next t) := fun _ e => by cases e; exact h

theorem QuietNext.execScalarArith (core op rd ra rb im imm) : QuietNext s (execScalarArith core op rd ra rb im imm s) := by
  refine .next ?_
  have h := Quiet.refl s
  refine h.issue _ _ _ _ _ ?_
  intro x u1 h1
  extract_lets b
  split
  · exact .ite ((h1.setCore _ _).putS _ _ _) (h1.putS _ _ _)
  · exact h1.faultQuire _ _

theorem QuietNext.execLds (core rd ra imm par) : QuietNext s (execLds core rd ra imm par s) := by
  refine .next ?_
  have h := Quiet.refl s
  refine h.issue _ _ _ _ _ ?_
  intro x u1 h1
  split
  · exact h1.reading (((h1.memWait _ _ _ _).setCore _ _).putS _ _ _) _ _ _ _ _
  · exact h1.faultQuire _ _

theorem QuietNext.execSts (core ra rb imm) : QuietNext s (execSts core ra rb imm s) := by
  refine .next ?_
  have h := Quiet.refl s
  refine h.issue _ _ _ _ _ ?_
  intro x u1 h1
  split
  · exact (h1.memWait _ _ _ _).coreWr _ _
  · exact h1.faultQuire _ _

theorem QuietNext.execMova (core rd ra) : QuietNext s (execMova core rd ra s) := by
  refine .next ?_
  have h := Quiet.refl s
  extract_lets n
  refine h.issue _ _ _ _ _ ?_
  intro x u1 h1
  extract_lets v
  split
  · exact h1.putA _ _ _
  · split
    · exact .ite (h1.putA _ _ _) (h1.faultQuire _ _)
    · exact h1.faultQuire _ _

theorem QuietNext.execBranch (core op ra rb imm) : QuietNext s (execBranch core op ra rb imm s) := by
  refine .next ?_
  have h := Quiet.refl s
  refine h.issue _ _ _ _ _ ?_
  intro x u1 h1
  split
  · exact h1.faultQuire _ _
  · split
    · exact h1.faultQuire _ _
    · exact h1
    · exact h1.setCore _ _

theorem QuietNext.execTake (core rd ra imm err) : QuietNext s (execTake core rd ra imm err s) := by
  refine .next ?_
  have h := Quiet.refl s
  extract_lets n
  refine h.issue _ _ _ _ _ ?_
  intro x u1 h1
  extract_lets ref k
  split
  · exact h1.faultQuire _ _
  · split
    · exact h1.faultQuire _ _
    · split
      · exact h1.sendTake _ _ _ _
      · split
        next x1 x2 v e =>
          exact ((((((h1.meetError _ _ _).takeObj _ _ _ _).snd e).notePages _ _ _ _).setCore _ _).countRetry _ _ _).putS _ _ _

theorem QuietNext.execArrayMode (core eng sa) : QuietNext s (execArrayMode core eng sa s) := by
  refine .next ?_
  have h := Quiet.refl s
  refine h.issueEng _ _ _ _ _ _ _ ?_
  intro x u1 h1
  extract_lets m
  split
  · exact h1.faultQuire _ _
  · exact (h1.timeMode _ _).setEng _ _

theorem QuietNext.execArrayLoad (core eng sa par) : QuietNext s (execArrayLoad core eng sa par s) := by
  refine .next ?_
  have h := Quiet.refl s
  extract_lets e
  refine h.issueEng _ _ _ _ _ _ _ ?_
  intro x u1 h1
  extract_lets w addr stride
  split
  · exact h1.faultQuire _ _
  · exact .ite (h1.faultQuire _ _) (h1.reading ((h1.timeLoad _ _ _).setEng _ _) _ _ _ _ _)

theorem QuietNext.execArrayStream (core eng sa par) : QuietNext s (execArrayStream core eng sa par s) := by
  refine .next ?_
  have h := Quiet.refl s
  extract_lets e
  refine h.issueEng _ _ _ _ _ _ _ ?_
  intro x u1 h1
  extract_lets o
  split
  · exact h1.faultQuire _ _
  · split
    · exact h1.faultQuire _ _
    · exact h1.reading (h1.runStream _ _ _ _) _ _ _ _ _

theorem QuietNext.execArrayDrain (core eng sa par) : QuietNext s (execArrayDrain core eng sa par s) := by
  refine .next ?_
  have h := Quiet.refl s
  extract_lets e
  refine h.issueEng _ _ _ _ _ _ _ ?_
  intro x u1 h1
  extract_lets o own
  split
  · exact h1.faultQuire _ _
  · split
    next x1 v x2 e1 =>
      exact h1.reading ((((h1.timeDrain _ _ _ _).drainGo _ _ _ _).fst e1).setEng _ _) _ _ _ _ _

theorem QuietNext.execChain (core eng sa mask mz stages par) : QuietNext s (execChain core eng sa mask mz stages par s) := by
  refine .next ?_
  have h := Quiet.refl s
  extract_lets e
  refine h.issue _ _ _ _ _ ?_
  intro x u1 h1
  extract_lets r o gm
  split
  · exact h1.faultQuire _ _
  · split
    · exact h1
    · split
      · exact h1.faultQuire _ _
      · exact h1.reading ((h1.time _ _ _ _ _).chainRun _ _ _ _) _ _ _ _ _

theorem QuietNext.execVld (core eng sa reg mask w par) : QuietNext s (execVld core eng sa reg mask w par s) := by
  refine .next ?_
  have h := Quiet.refl s
  refine h.issueVec _ _ _ _ ?_
  intro x x2 u1 h1
  extract_lets en x' gm
  split
  · exact h1.faultQuire _ _
  · exact h1.reading ((h1.timeAccess _ _ _ _ _ _).setEng _ _) _ _ _ _ _

theorem QuietNext.execVst (core eng sa reg mask w par) : QuietNext s (execVst core eng sa reg mask w par s) := by
  refine .next ?_
  have h := Quiet.refl s
  extract_lets t
  refine h.issueVec _ _ _ _ ?_
  intro x x2 u1 h1
  extract_lets en x' gm s0
  have h0 : Quiet s s0 := h1.timeAccess _ _ _ _ _ _
  split
  · exact h1.faultQuire _ _
  · split
    · exact h1.faultQuire _ _
    · split
      next x1 v x3 e =>
        exact h1.reading (((h0.storeLanes _ _ _ _ _ _ _ _).fst e).setEng _ _) _ _ _ _ _

theorem QuietNext.execActld (core eng sa table par) : QuietNext s (execActld core eng sa table par s) := by
  refine .next ?_
  have h := Quiet.refl s
  exact h.issueEng _ _ _ _ _ _ _ (fun _ _ h1 => .ite (h1.faultQuire _ _)
    (h1.reading (.ite ((h1.timeActld _ _ _).setEng _ _) (h1.faultQuire _ _)) _ _ _ _ _))

theorem QuietNext.execReti (core) : QuietNext s (execReti core s) := by
  refine .next ?_
  have h := Quiet.refl s
  extract_lets x s1
  have h1 : Quiet s s1 := h.setCore _ _
  split
  · exact h
  · exact .ite (.ite (h1.takePreempt _ _) (.ite (h1.enterOverrun _ _) h1)) (h.faultCore _ _)

theorem QuietNext.execPreempt (core) : QuietNext s (execPreempt core s) := by
  refine .next ?_
  have h := Quiet.refl s
  split
  · exact h
  · exact .ite (h.takePreempt _ _) (h.setCore _ _)

theorem QuietNext.execOverrun (core) : QuietNext s (execOverrun core s) := by
  refine .next ?_
  have h := Quiet.refl s
  extract_lets s1
  have h1 : Quiet s s1 := h.waitCore _ _
  split
  · exact h
  · exact .ite h (.ite (h1.setCore _ _) (h1.enterOverrun _ _))

theorem QuietNext.execCplTimeout (ch) : QuietNext s (execCplTimeout ch s) := by
  refine .next ?_
  have h := Quiet.refl s
  split
  · exact (h.hlError _).hostAbort _
  · exact h.hlError _

theorem QuietNext.execPoisonedRx (ch again) : QuietNext s (execPoisonedRx ch again s) := by
  refine .next ?_
  have h := Quiet.refl s
  split
  · exact .ite ((h.hlError _).hostAbort _) (h.hlError _)
  · exact h.hlError _

theorem QuietNext.execGetMeasurements (index nonce) : QuietNext s (execGetMeasurements index nonce s) := by
  refine .next ?_
  have h := Quiet.refl s
  exact h.spdmServe _ _ (fun _ h1 => .ite (h1.spdmReply _ _ _)
    (.ite (h1.spdmReply _ _ _) (.ite (h1.spdmReply _ _ _) (h1.spdmError _))))

theorem QuietNext.execFinish (hmac) : QuietNext s (execFinish hmac s) := by
  refine .next ?_
  have h := Quiet.refl s
  refine h.spdmServe _ _ ?_
  intro u1 h1
  split
  · exact .ite ((h1.setSpdm _).spdmReply _ _ _) ((h1.setSpdm _).spdmError _)
  · exact h1.spdmError _

/-- The commands of start-up: they run the boot ROM or Busum's own start. -/
def isStartCmd : Instr → Bool
  | .perstDeassert _ _ => true
  | .thermalTripRelease => true
  | .extestExit => true
  | .firmwareInit _ => true
  | _ => false

theorem exec_quiet {c : Instr} (hr : isResetCmd c = false) (hb : isStartCmd c = false) : QuietNext s (exec c s) := by
  have h := Quiet.refl s
  cases c with
  | nop _ => exact .next (h.shortCmd _ _ _ _ _ (fun _ _ h1 => h1))
  | deviceInfo _ => exact .next (h.shortCmd _ _ _ _ _ (fun _ _ h1 => h1.doDeviceInfo _))
  | certGet _ => exact .next (h.shortCmd _ _ _ _ _ (fun _ _ h1 => h1.doCertGet _))
  | attest _ => exact .next (h.longCmd _ _ _ _ _ _ (fun _ _ _ h1 => h1.doAttest _ _))
  | keyImport _ => exact .next (h.shortCmd _ _ _ _ _ (fun _ _ h1 => h1.doKeyImport _))
  | fwStage _ => exact .next (h.longCmd _ _ _ _ _ _ (fun _ _ _ h1 => h1.doFwStage _ _))
  | mbxConfig _ => exact .next (h.shortCmd _ _ _ _ _ (fun _ _ h1 => h1.doMbxConfig _))
  | schedConfig _ => exact .next (h.shortCmd _ _ _ _ _ (fun _ _ h1 => h1.doSchedConfig _))
  | slotConfig _ => exact .next (h.longCmd _ _ _ _ _ _ (fun _ _ _ h1 => h1.doSlotConfig _ _))
  | fhConfig _ => exact .next (h.shortCmd _ _ _ _ _ (fun _ _ h1 => h1.doFhConfig _))
  | slConfig _ => exact .next (h.shortCmd _ _ _ _ _ (fun _ _ h1 => h1.doSlConfig _))
  | poolConfig _ => exact .next (h.shortCmd _ _ _ _ _ (fun _ _ h1 => h1.doPoolConfig _))
  | harqConfig _ => exact .next (h.shortCmd _ _ _ _ _ (fun _ _ h1 => h1.doHarqConfig _))
  | dmaConfig _ => exact .next (h.shortCmd _ _ _ _ _ (fun _ _ h1 => h1.doDmaConfig _))
  | windowCreate _ => exact .next (h.shortCmd _ _ _ _ _ (fun _ _ h1 => h1.doWindowCreate _))
  | windowRemove _ => exact .next (h.shortCmd _ _ _ _ _ (fun _ _ h1 => h1.doWindowRemove _))
  | modelLoad _ => exact .next (h.longCmd _ _ _ _ _ _ (fun _ _ _ h1 => h1.doModelLoad _ _))
  | modelUnload _ => exact .next (h.shortCmd _ _ _ _ _ (fun _ _ h1 => h1.doModelUnload _))
  | ldpcTableLoad _ => exact .next (h.shortCmd _ _ _ _ _ (fun _ _ h1 => h1.doLdpcTableLoad _))
  | precoderLoad _ => exact .next (h.longCmd _ _ _ _ _ _ (fun _ _ _ h1 => h1.doPrecoderLoad _ _))
  | adaptConfig _ => exact .next (h.shortCmd _ _ _ _ _ (fun _ _ h1 => h1.doAdaptConfig _))
  | adaptRollback _ => exact .next (h.longCmd _ _ _ _ _ _ (fun _ _ _ h1 => h1.doAdaptRollback _ _))
  | adaptStatus _ => exact .next (h.shortCmd _ _ _ _ _ (fun _ _ h1 => h1.doAdaptStatus _))
  | yardstickRead _ => exact .next (h.shortCmd _ _ _ _ _ (fun _ _ h1 => h1.doYardstickRead _))
  | quireStatus _ => exact .next (h.shortCmd _ _ _ _ _ (fun _ _ h1 => h1.doQuireStatus _))
  | quireCancel _ => exact .next (h.shortCmd _ _ _ _ _ (fun _ _ h1 => h1.doQuireCancel _))
  | shareRead _ => exact .next (h.shortCmd _ _ _ _ _ (fun _ _ h1 => h1.doShareRead _))
  | colophonStore _ => exact .next (h.shortCmd _ _ _ _ _ (fun _ _ h1 => h1.doColophonStore _))
  | colophonSeal _ => exact .next (h.shortCmd _ _ _ _ _ (fun _ _ h1 => h1.doColophonSeal _))
  | colophonCollect _ => exact .next (h.longCmd _ _ _ _ _ _ (fun _ _ _ h1 => h1.doColophonCollect _ _))
  | setupRead _ => exact .next (h.shortCmd _ _ _ _ _ (fun _ _ h1 => h1.doSetupRead _))
  | fhStats _ => exact .next (h.shortCmd _ _ _ _ _ (fun _ _ h1 => h1.doFhStats _))
  | moduleRead _ => exact .next (h.shortCmd _ _ _ _ _ (fun _ _ h1 => h1.doModuleRead _))
  | modulePolicy _ => exact .next (h.shortCmd _ _ _ _ _ (fun _ _ h1 => h1.doModulePolicy _))
  | moduleTable _ => exact .next (h.shortCmd _ _ _ _ _ (fun _ _ h1 => h1.doModuleTable _))
  | slStats _ => exact .next (h.shortCmd _ _ _ _ _ (fun _ _ h1 => h1.doSlStats _))
  | telemetryRead _ => exact .next (h.shortCmd _ _ _ _ _ (fun _ _ h1 => h1.doTelemetryRead _))
  | powerState _ => exact .next (h.longCmd _ _ _ _ _ _ (fun _ _ _ h1 => h1.doPowerState _ _))
  | longCommandLeaf => exact .next (h.longCommandLeaf)
  | ulSlot _ => exact .next (h.ulSlot _)
  | dlSlot _ => exact .next (h.dlSlot _)
  | ulDci _ => exact .next (h.ulDci _)
  | txData _ => exact .next (h.txData _)
  | mbxDoorbell _ _ => exact .next (h.barReq _ _ (fun _ h1 => .ite h1 (h1.doorbell _ _)))
  | mbxDoorbellReset _ _ => exact .next (h.barReq _ _ (fun _ h1 => .ite h1 (h1.doorbellReset _)))
  | slotMark _ => exact .next (h.slotMark _)
  | dmaDbCount _ _ => exact .next (h.barReq _ _ (fun _ h1 => h1.dmaDbCount _ _))
  | dmaDbCancel _ => exact .next (h.barReq _ _ (fun _ h1 => h1.dmaDbCancel _))
  | secLockSet => exact .next (h.barReq _ _ (fun _ h1 => h1.setLock))
  | registerWrite _ _ _ => exact .next (h.registerWrite _ _ _)
  | barAccessSize _ _ => exact .next (h.barReq _ _ (fun _ h1 => .ite ((h1.hlError _).emit _) (h1.hlError _)))
  | unsupportedReq _ => exact .next (h.barReq _ _ (fun _ h1 => (h1.emit _).hlError _))
  | scalarArith _ _ _ _ _ _ _ => exact .execScalarArith _ _ _ _ _ _ _
  | lds _ _ _ _ _ => exact .execLds _ _ _ _ _
  | sts _ _ _ _ => exact .execSts _ _ _ _
  | mova _ _ _ => exact .execMova _ _ _
  | movsa _ _ _ => exact .next (h.issue _ _ _ _ _ (fun _ _ h1 => h1.putS _ _ _))
  | movsb _ _ _ => exact .next (h.issue _ _ _ _ _ (fun _ _ h1 => h1.putS _ _ _))
  | movbs _ _ _ => exact .next (h.issue _ _ _ _ _ (fun _ _ h1 => .ite (h1.setCore _ _) (h1.faultQuire _ _)))
  | branch _ _ _ _ _ => exact .execBranch _ _ _ _ _
  | dloop _ _ _ _ => exact .next (h.issue _ _ _ _ _ (fun _ _ h1 => .ite h1 (.ite (h1.faultQuire _ _) (h1.setCore _ _))))
  | sig _ _ _ => exact .next (h.issue _ _ _ _ _ (fun _ _ h1 => .ite (h1.faultQuire _ _)
      (.ite (h1.faultQuire _ _) (h1.setCore _ _))))
  | take _ _ _ _ _ => exact .execTake _ _ _ _ _
  | wait _ _ _ _ _ => exact .next (h.waitInstr _ _ _ _ _)
  | remoteWait _ _ _ _ => exact .next (h.waitInstr _ _ _ _ _)
  | leafEnd _ _ _ _ => exact .next (h.issue _ _ _ _ _ (fun _ _ h1 => h1.leafEnd _ _ _ _ _))
  | arrayMode _ _ _ => exact .execArrayMode _ _ _
  | arrayLoad _ _ _ _ => exact .execArrayLoad _ _ _ _
  | arrayStream _ _ _ _ => exact .execArrayStream _ _ _ _
  | arrayDrain _ _ _ _ => exact .execArrayDrain _ _ _ _
  | chain _ _ _ _ mz _ _ => exact .execChain _ _ _ _ mz _ _
  | vld _ _ _ _ _ w _ => exact .execVld _ _ _ _ _ w _
  | vst _ _ _ _ _ _ _ => exact .execVst _ _ _ _ _ _ _
  | actld _ _ _ _ _ => exact .execActld _ _ _ _ _
  | act _ _ _ _ _ _ => exact .next (h.regVec _ _ _ _ _ _ _)
  | vecIntArith _ _ _ _ _ _ => exact .next (h.regVec _ _ _ _ _ _ _)
  | vecLogic _ _ _ _ _ _ => exact .next (h.regVec _ _ _ _ _ _ _)
  | vecFloatArith _ _ _ _ _ _ => exact .next (h.regVec _ _ _ _ _ _ _)
  | vecFdivRoot _ _ _ _ _ _ => exact .next (h.regVec _ _ _ _ _ _ _)
  | vecComplexArith _ _ _ _ _ _ => exact .next (h.regVec _ _ _ _ _ _ _)
  | cmp _ _ _ _ _ _ => exact .next (h.regVec _ _ _ _ _ _ _)
  | sel _ _ _ _ _ _ => exact .next (h.regVec _ _ _ _ _ _ _)
  | cvt _ _ _ _ _ _ => exact .next (h.regVec _ _ _ _ _ _ _)
  | perm _ _ _ _ _ _ => exact .next (h.regVec _ _ _ _ _ _ _)
  | shuf _ _ _ _ _ _ => exact .next (h.regVec _ _ _ _ _ _ _)
  | packc _ _ _ _ _ _ => exact .next (h.regVec _ _ _ _ _ _ _)
  | unpackc _ _ _ _ _ _ => exact .next (h.regVec _ _ _ _ _ _ _)
  | red _ _ _ _ _ _ => exact .next (h.regVec _ _ _ _ _ _ _)
  | maskOp _ _ _ _ _ _ => exact .next (h.regVec _ _ _ _ _ _ _)
  | ins _ _ _ _ _ _ => exact .next (h.regVec _ _ _ _ _ _ _)
  | ext _ _ _ _ _ _ => exact .next (h.regVec _ _ _ _ _ _ _)
  | cmac _ _ _ _ => exact .next (h.runBundle _ _ _ _ _)
  | cmacc _ _ _ _ => exact .next (h.runBundle _ _ _ _ _)
  | cmul _ _ _ _ => exact .next (h.runBundle _ _ _ _ _)
  | dmac _ _ _ _ => exact .next (h.runBundle _ _ _ _ _)
  | dmul _ _ _ _ => exact .next (h.runBundle _ _ _ _ _)
  | cmag2 _ _ _ _ => exact .next (h.runBundle _ _ _ _ _)
  | dspHalfArith _ _ _ _ => exact .next (h.runBundle _ _ _ _ _)
  | dspLogic _ _ _ _ => exact .next (h.runBundle _ _ _ _ _)
  | pack _ _ _ _ => exact .next (h.runBundle _ _ _ _ _)
  | unpack _ _ _ _ => exact .next (h.runBundle _ _ _ _ _)
  | mov _ _ _ _ => exact .next (h.runBundle _ _ _ _ _)
  | movsd _ _ _ _ => exact .next (h.runBundle _ _ _ _ _)
  | movds _ _ _ _ => exact .next (h.runBundle _ _ _ _ _)
  | dclr _ _ _ _ => exact .next (h.runBundle _ _ _ _ _)
  | reti _ => exact .execReti _
  | preempt _ => exact .execPreempt _
  | overrun _ => exact .execOverrun _
  | leafTimeout _ => exact .next (h.faultCore _ _)
  | checkMismatch _ _ _ _ _ _ _ _ => exact .next (h.checkMismatch _ _)
  | quireStart _ _ => exact .next (h.quireStart _ _)
  | leafDispatch _ => exact .next (h.leafDispatch _)
  | reshard _ _ _ _ => exact .next (h.reshard _ _ _ _)
  | evictionWindowOpen _ _ _ => exact .next (h.evictionWindowOpen _ _ _)
  | contextSave _ _ => exact .next (h.contextSave _ _)
  | contextSaveDone _ => exact .next (h.contextSaveDone _)
  | fullQuireSave _ => exact .next (h.fullQuireSave _)
  | contextRestore _ _ => exact .next (h.contextRestore _ _)
  | quireTimeout _ => exact .next (h.quireTimeout _)
  | accountWindowEnd _ => exact .next (h.accountWindowEnd _)
  | objectHoldExpiry _ _ => exact .next (h.objectHoldExpiry _ _)
  | slotDeadline _ => exact .next (h.slotDeadline _)
  | sigApply _ _ => exact .next (h.sigApply _ _)
  | waitExpired _ => exact .next (h.waitExpired _)
  | registrationRetry _ => exact .next (h.registrationRetry _)
  | frameReceive _ => exact .next (h.frameReceive _)
  | slotStoreForward _ _ _ _ => exact .next (h.slotStoreForward _ _ _ _ _)
  | quireRelease _ _ _ => exact .next (h.quireRelease _ _ _)
  | receptionWindowEnd _ _ _ => exact .next (h.receptionWindowEnd _ _ _)
  | cplaneWindowOpen _ _ => exact .next (h.cplaneWindowOpen _ _)
  | dlTxWindowOpen _ _ _ => exact .next (h.dlTxWindowOpen _ _ _)
  | dlTxWindowClose _ _ _ => exact .next (h.dlTxWindowClose _ _ _)
  | prachWindowEnd _ _ _ => exact .next (h.prachWindowEnd _ _ _)
  | portUp _ _ => exact .next (h.portUp _ _)
  | portDown _ => exact .next (h.downPort _)
  | moduleInsert _ => exact .next (.ite h ((h.downPort _).setCage _ _))
  | moduleIdentify _ _ _ => exact .next (h.moduleIdentify _ _ _)
  | moduleReadyTimeout _ => exact .next (.ite h ((h.setCage _ _).evaluateCage _))
  | moduleEvaluate => exact .next (h.foldl (fun _ _ h1 => h1.evaluateCage _))
  | biasSample _ _ => exact .next (h.biasSample _ _ _)
  | lifeUpdate _ => exact .next (h.lifeUpdate _)
  | powerOnMinute _ => exact .next (.ite (h.setModule _ _) h)
  | moduleFlag _ _ => exact .next (.ite (h.event _ _ _) h)
  | mkaKeyDistribute _ _ _ => exact .next (h.mkaKeyDistribute _ _ _)
  | saRetire _ => exact .next (h.saRetire _)
  | llrCombine _ _ _ _ => exact .next (h.llrCombine _ _ _ _)
  | llrSpill _ => exact .next (h.llrSpill _)
  | codeBlockDecode _ _ _ _ => exact .next (h.codeBlockDecode _ _ _ _)
  | codeBlockWriteback _ _ _ => exact .next (h.codeBlockWriteback _ _ _)
  | harqHeaderWrite _ _ => exact .next (h.harqHeaderWrite _ _)
  | tbCrcCheck _ _ => exact .next (h.tbCrcCheck _ _)
  | polarDecode _ _ _ => exact .next (h.polarDecode _ _ _)
  | smallBlockDecode _ _ _ => exact .next (h.smallBlockDecode _ _ _)
  | dlEncode _ _ => exact .next (h.dlEncode _ _)
  | labelEncode _ _ => exact .next (h.labelEncode _ _)
  | prachCorrelation _ _ _ _ => exact .next (h.prachCorrelation _ _ _ _)
  | resultPosting _ => exact .next (h.resultPosting _)
  | colophonFinalise _ => exact .next (h.colophonFinalise _)
  | sealComplete => exact .next (h.sealComplete)
  | trainingStep _ _ => exact .next (h.trainingStep _ _)
  | shadowEvaluation _ _ => exact .next (h.shadowEvaluation _ _)
  | candidateStaging _ => exact .next (h.candidateStaging _ _)
  | autoRollback _ => exact .next (h.autoRollback _)
  | yardstickMeasure _ _ => exact .next (h.yardstickMeasure _ _)
  | yardstickExpiry _ => exact .next (h.yardstickExpiry _)
  | linkTrained _ _ _ => exact .next (h.linkTrained _ _ _)
  | hello _ _ _ _ _ => exact .next (h.onHello _ _ _ _ _)
  | helloRetry _ => exact .next (h.helloRetry _)
  | flitReceive _ _ _ => exact .next (h.flitReceive _ _ _)
  | replayTimeout _ => exact .next (h.replayTimeout _)
  | linkHoldExpiry _ => exact .next (h.linkHoldExpiry _)
  | chipLost _ => exact .next (h.chipLost _)
  | chipFound _ => exact .next (h.chipFound _)
  | write _ _ => exact .next (h.onMsg _ _ _ (fun _ _ h1 => h1.recvData _ _ _ (fun _ _ _ _ h2 => h2.onWrite _ _ _)))
  | mcast _ _ => exact .next (h.onMsg _ _ _ (fun _ _ h1 => h1.recvData _ _ _ (fun _ _ _ _ h2 => h2.onMcast _ _ _)))
  | sum _ _ => exact .next (h.onMsg _ _ _ (fun _ _ h1 => h1.recvData _ _ _ (fun _ _ _ _ h2 => h2.onSum _ _ _)))
  | jr _ _ => exact .next (h.onMsg _ _ _ (fun _ _ h1 => h1.recvData _ _ _ (fun _ _ _ _ h2 => h2.onJr _ _ _)))
  | readReq _ => exact .next (h.onMsg _ _ _ (fun _ _ h1 => h1.onReadReq _))
  | progress _ => exact .next (h.onMsg _ _ _ (fun _ _ h1 => h1.onProgress _))
  | complete _ => exact .next (h.onMsg _ _ _ (fun _ _ h1 => h1.onComplete _))
  | cut _ => exact .next (h.onMsg _ _ _ (fun _ _ h1 => h1.onCut _))
  | syncSig _ => exact .next (h.onMsg _ _ _ (fun _ _ h1 => (h1.meetMsg _ _).onSyncSig _))
  | syncTake _ => exact .next (h.onMsg _ _ _ (fun _ _ h1 => (h1.meetMsg _ _).onSyncTake _))
  | syncReply _ => exact .next (h.onMsg _ _ _ (fun _ _ h1 => h1.onSyncReply _))
  | syncReg _ => exact .next (h.onMsg _ _ _ (fun _ _ h1 => (h1.meetMsg _ _).onSyncReg _))
  | syncCancel _ => exact .next (h.onMsg _ _ _ (fun _ _ h1 => h1.onSyncCancel _))
  | spine _ => exact .next (h.onMsg _ _ _ (fun _ _ h1 => h1.onSpine _))
  | stitchDescriptor _ => exact .next (h.stitchDescriptor _)
  | xferLost _ => exact .next (h.xferLost _)
  | spineRecompute => exact .next (.ite (h.spineNow) h)
  | spineRound => exact .next (h.spineRound)
  | spineMissing _ => exact .next (h.spineMissing _)
  | jrCutoff _ _ => exact .next (h.jrCutoff _ _)
  | carderDescriptor _ _ _ => exact .next (h.carderDescriptor _ _ _)
  | carderDone _ _ => exact .next (h.carderDone _ _)
  | dmaDescriptor _ _ _ _ => exact .next (h.dmaDescriptor _ _ _ _)
  | dmaReadBack _ _ => exact .next (h.dmaReadBack _ _)
  | pageResponse _ _ _ _ => exact .next (h.pageResponse _ _ _ _)
  | pageTimeout _ => exact .next (h.pageTimeout _)
  | cplTimeout _ => exact .execCplTimeout _
  | atsInvalidation _ => exact .next (.ite (h.hlError _) (h.emit _))
  | poisonedRx _ _ => exact .execPoisonedRx _ _
  | linkDown => exact .next (.ite ((h.setHost rfl).dropLink) h)
  | hotReset => exact .next (h.hotReset)
  | functionLevelReset => exact .next (h.functionLevelReset)
  | ideStreamInsecure => exact .next (.ite (.ite ((h.setHost rfl).dropLink) (h.setHost rfl)) h)
  | d3hotEntry => exact .next (h.d3hotEntry)
  | d0Return => exact .next (h.d0Return)
  | getVersion => exact .next (h.spdmServe _ _ (fun _ h1 => (h1.setSpdm _).spdmReply _ _ _))
  | getCapabilities => exact .next (h.spdmServe _ _ (fun _ h1 => (h1.setSpdm _).spdmReply _ _ _))
  | negotiateAlgorithms _ _ => exact .next (h.spdmServe _ _
      (fun _ h1 => .ite (h1.spdmError _) ((h1.setSpdm _).spdmReply _ _ _)))
  | getDigests => exact .next (h.spdmServe _ _ (fun _ h1 => h1.spdmReply _ _ _))
  | getCertificate _ _ _ => exact .next (h.spdmServe _ _ (fun _ h1 => .ite (h1.spdmError _) (h1.emit _)))
  | challenge _ _ => exact .next (h.spdmServe _ _ (fun _ h1 => .ite (h1.spdmError _) (h1.spdmReply _ _ _)))
  | getMeasurements _ _ => exact .execGetMeasurements _ _
  | keyExchange _ _ => exact .next (h.spdmServe _ _ (fun _ h1 => .ite (h1.spdmError _) ((h1.setSpdm _).spdmReply _ _ _)))
  | finish _ => exact .execFinish _
  | endSession => exact .next (h.spdmServe _ _ (fun _ h1 => (h1.setSpdm _).spdmReply _ _ _))
  | ideKm _ _ => exact .next (h.spdmServe _ _ (fun _ h1 => ((h1.ideKm _ _).drainRsp).drainSpc))
  | powerWindowEnd _ => exact .next (h.powerWindowEnd _)
  | imonSample _ => exact .next (h.imonSample _)
  | throttleHoldExpiry _ => exact .next (h.throttleHoldExpiry _)
  | throttleStepChange => exact .next (h.throttleStepChange)
  | domainGate _ => exact .next (h.domainGate _)
  | pllStandby _ => exact .next (h.pllStandby _)
  | domainWake _ => exact .next (h.domainWake _)
  | slotMarkIn => exact .next (h.slotMarkIn)
  | markLost _ => exact .next (h.markLost _)
  | evqOverflow => exact .next (h.evqOverflow)
  | moduleRemove _ => exact .next (h.moduleRemove _)
  | pcieLinkTrained _ _ => exact .next (h.pcieLinkTrained _ _)
  | msixVectorUnmask _ => exact .next (h.barReq _ _ (fun _ h1 => .ite ((h1.setHost rfl).emit _) (h1.setHost rfl)))
  | unknownTypeRecord _ _ _ _ _ => exact .next (h.unknownRecord _ _ _ _ _)
  | padRecord _ _ => exact .next (.ite (.ite (h.takeSpq _) h) (.ite (h.takeCmd _) h))
  | jrAreaDeadline _ _ => exact .next (h.jrAreaDeadline _ _)
  | translationCompletion _ _ _ _ => exact .next (h.translationCompletion _ _ _ _)
  | powerOnReset => cases hr
  | pwrGoodFall => cases hr
  | perst => cases hr
  | thermalTrip => cases hr
  | thermalSense _ => cases hr
  | watchdog => cases hr
  | extest => cases hr
  | firmwareFatal => cases hr
  | perstDeassert _ _ => cases hb
  | thermalTripRelease => cases hb
  | extestExit => cases hb
  | firmwareInit _ => cases hb

end Operations

end Sys2Proof.Machine
end

section
/-!
SUPPORT. Resets and start-up, and what every step keeps: the invariant, the fuses, the lock, the queue, a failed start-up and the thermal trip.
-/

namespace Sys2Proof.Machine
open Sys2Proof

section Operations

variable {s t u : State}

/-- What every step keeps, resets and start-up among them. -/
structure Safe (s t : State) : Prop where
  pending : t.pending = s.pending
  fuses : FuseLe s.sec.fuses t.sec.fuses
  owned : s.sec.fuses.ownedOk → t.sec.fuses.ownedOk
  mem : s.mem.wf = true → t.mem.wf = true
  ring : s.mbx.ringOk → t.mbx.ringOk

theorem Quiet.safe (h : Quiet s t) : Safe s t := ⟨h.pending, h.fuses, h.owned, h.mem, h.ring⟩

theorem Safe.refl (s : State) : Safe s s := (Quiet.refl s).safe

theorem Safe.trans (h : Safe s t) (k : Safe t u) : Safe s u :=
  ⟨k.pending.trans h.pending, h.fuses.trans k.fuses, k.owned ∘ h.owned, k.mem ∘ h.mem, k.ring ∘ h.ring⟩

theorem Safe.quiet (h : Safe s t) (k : Quiet t u) : Safe s u := h.trans k.safe

theorem Safe.setBoot (h : Safe s t) (b) : Safe s { t with boot := b } := ⟨h.pending, h.fuses, h.owned, h.mem, h.ring⟩

/-- A device that something holds is in the start-up state RESET (R401, R411, R415, R441). -/
def State.heldOk (s : State) : Prop := s.managed = false → s.boot.state = .reset

theorem inv_iff : Inv s ↔ s.mem.wf = true ∧ s.heldOk ∧ s.sec.fuses.ownedOk ∧ s.mbx.ringOk :=
  ⟨fun h => ⟨h.mem, h.held, h.owned, h.ring⟩, fun ⟨m, b, o, r⟩ => ⟨m, b, o, r⟩⟩

theorem Safe.inv (h : Safe s t) (hb : t.heldOk) (hs : Inv s) : Inv t :=
  inv_iff.2 ⟨h.mem hs.mem, hb, h.owned hs.owned, h.ring hs.ring⟩

theorem Quiet.heldOk (h : Quiet s t) (hs : s.heldOk) : t.heldOk := by
  rwa [State.heldOk, State.managed, h.boot]

/-! ### The COLD and POWER-ON levels -/

theorem coldReset_safe (cause s) : Safe s (coldReset cause s) :=
  ⟨rfl, FuseLe.refl _, id, Mem.filter_wf _ _, fun _ => ⟨le_refl 16, show 16 ≤ 24 by decide⟩⟩

theorem powerOn_safe (good s) : Safe s (powerOn good s) :=
  ⟨rfl, FuseLe.refl _, id, Mem.filter_wf _ _, fun _ => ⟨le_refl 16, show 16 ≤ 24 by decide⟩⟩

/-! ### The boot ROM -/

theorem loadImages_quiet (img s) : Quiet s (loadImages img s) :=
  (Quiet.refl s).foldl fun _ _ h => h.wr _ _

@[simp] theorem loadImages_host (img s) : (loadImages img s).host = s.host := by
  unfold loadImages
  apply foldl_keeps (fun u : State => u.host)
  exact fun _ _ => rfl

@[simp] theorem loadImages_boot (img s) : (loadImages img s).boot = s.boot := (loadImages_quiet img s).boot

theorem startBusum_safe (b s) : Safe s (startBusum b s) := by
  have h := (loadImages_quiet (flashSlot s.sec.flash b) s).safe
  exact ⟨h.pending, h.fuses, h.owned, h.mem, h.ring⟩

@[simp] theorem startBusum_host (b s) : (startBusum b s).host = s.host := by
  simp [startBusum]

/-- What holds the device, and whether it has power. -/
def Boot.holds (b : Boot) : Bool × Bool × Bool × Bool := (b.pwrGood, b.perst, b.tripHold, b.extestHold)

theorem managed_of_holds (h : t.boot.holds = s.boot.holds) : t.managed = s.managed := by
  simp only [Boot.holds, Prod.mk.injEq] at h
  simp [State.managed, h]

@[simp] theorem startBusum_holds (b s) : (startBusum b s).boot.holds = s.boot.holds := by
  simp [startBusum, Boot.holds]

@[simp] theorem Boot.setFault_holds (b : Boot) (n c) : (b.setFault n c).holds = b.holds := by
  unfold Boot.setFault
  split <;> rfl

/-- The boot ROM fails, or starts Busum from a slot; the holds stay. -/
theorem bootRom_cases {P : State → Prop} {s : State} (hfail : ∀ b, b.holds = s.boot.holds → P { s with boot := b })
    (hstart : ∀ n b, b.holds = s.boot.holds → P (startBusum n { s with boot := b })) : P (bootRom s) := by
  unfold bootRom
  dsimp only
  split
  · exact hfail _ rfl
  split
  · exact hstart _ _ rfl
  split
  · exact hstart _ _ (Boot.setFault_holds _ _ _)
  · exact hfail _ ((Boot.setFault_holds _ _ _).trans (Boot.setFault_holds _ _ _))

theorem bootRom_safe (s) : Safe s (bootRom s) :=
  bootRom_cases (fun b _ => (Safe.refl s).setBoot b) fun n b _ => ((Safe.refl s).setBoot b).trans (startBusum_safe n _)

@[simp] theorem bootRom_host (s : State) : (bootRom s).host = s.host :=
  bootRom_cases (P := fun t => t.host = s.host) (fun _ _ => rfl) fun _ _ _ => startBusum_host _ _

@[simp] theorem bootRom_holds (s : State) : (bootRom s).boot.holds = s.boot.holds :=
  bootRom_cases (P := fun t => t.boot.holds = s.boot.holds) (fun _ h => h) fun _ _ h => (startBusum_holds _ _).trans h

theorem bootIfFree_safe (s) : Safe s (bootIfFree s) := by
  unfold bootIfFree
  split
  · exact bootRom_safe s
  · exact Safe.refl s

@[simp] theorem bootIfFree_host (s : State) : (bootIfFree s).host = s.host := by
  unfold bootIfFree
  split
  · exact bootRom_host s
  · rfl

theorem bootIfFree_held (h : s.managed = false) : bootIfFree s = s := by
  simp [bootIfFree, h]

theorem bootIfFree_heldOk (h : s.heldOk) : (bootIfFree s).heldOk := by
  unfold bootIfFree
  split
  · intro hm
    simp_all [managed_of_holds (bootRom_holds s)]
  · exact h

theorem coldThenBoot_safe (h : Safe s t) (cause) : Safe s (coldThenBoot cause t) := by
  unfold coldThenBoot
  split
  · exact (h.trans (coldReset_safe cause t)).trans (bootIfFree_safe _)
  · exact h

theorem coldThenBoot_heldOk (cause) (h : s.boot.pwrGood = false → s.boot.state = .reset) : (coldThenBoot cause s).heldOk := by
  unfold coldThenBoot
  split
  · exact bootIfFree_heldOk fun _ => rfl
  · exact fun _ => h (by simp_all)

theorem State.heldOk.reset (h : s.heldOk) (hm : s.managed = false) : s.boot.state = .reset := h hm

theorem State.heldOk.noPower (h : s.heldOk) (hp : s.boot.pwrGood = false) : s.boot.state = .reset :=
  h (by simp [State.managed, hp])

/-! ### Busum's start -/

theorem thermometer_getLsbD (n f : Nat) (v : BitVec 64) (i : Nat) (h : v.getLsbD i = true) :
    (thermometer n f v).getLsbD i = true := by
  induction f generalizing v with
  | zero => exact h
  | succ f ih =>
    unfold thermometer
    split
    · exact ih _ (by simp [h])
    · exact h

theorem advanceFuses_le (m : Bytes) (f : Fuses) : FuseLe f (advanceFuses m f) :=
  ⟨id, fun _ => id, fun h => by simp [advanceFuses, h], fun _ => thermometer_getLsbD _ _ _ _,
    fun _ => thermometer_getLsbD _ _ _ _, fun _ => id⟩

/-- The state in which FIRMWARE_INIT has derived the keys and advanced the counters. -/
def State.initialised (s : State) : State :=
  { s with
    sec := { s.sec with keys := true, fuses := advanceFuses s.sec.manifest s.sec.fuses }
    boot := { s.boot with identityMismatch := !certsMatch s.sec.flash.certs, state := .ready } }

theorem initialised_safe (s : State) : Safe s s.initialised := ⟨rfl, advanceFuses_le _ _, id, id, id⟩

theorem firmwareInit_quiet {e} (h : s.boot.state = .firmwareInit ∧ s.power.state ≠ .aon) :
    Quiet s.initialised (firmwareInit e s) := by
  unfold firmwareInit
  rw [if_pos h]
  exact ((Quiet.refl s.initialised).foldl fun _ _ hu => hu.retireAtStart _).openRings.autoPower

theorem firmwareInit_skips {e} (h : ¬(s.boot.state = .firmwareInit ∧ s.power.state ≠ .aon)) : firmwareInit e s = s := by
  unfold firmwareInit
  rw [if_neg h]

/-! ### The commands of resets and start-up -/

theorem perstDeassert_safe (ddr flash s) : Safe s (perstDeassert ddr flash s) := by
  unfold perstDeassert
  split
  · have h := ((Quiet.refl s).advanceTo (usTicks 100000)).safe
    refine Safe.trans ?_ (bootIfFree_safe _)
    cases flash with
    | none => exact h.setBoot _
    | some f => exact (h.setBoot _).quiet ((Quiet.refl _).setSec rfl)
  · exact Safe.refl s

theorem perstDeassert_lock (ddr flash) (h : s.host.lock = true) : (perstDeassert ddr flash s).host.lock = true := by
  unfold perstDeassert
  split
  · have hl := ((Quiet.refl s).advanceTo (usTicks 100000)).lock h
    rw [bootIfFree_host]
    cases flash <;> exact hl
  · exact h

theorem perstDeassert_heldOk (ddr flash) (h : s.heldOk) : (perstDeassert ddr flash s).heldOk := by
  unfold perstDeassert
  split
  next hp =>
    have hr : s.boot.state = .reset := h (by simp_all [State.managed])
    have hb := ((Quiet.refl s).advanceTo (usTicks 100000)).boot
    refine bootIfFree_heldOk fun _ => ?_
    cases flash with
    | none => simp [hb, hr]
    | some f => simp [hb, hr]
  · exact h

theorem thermalTripRelease_safe (s) : Safe s (thermalTripRelease s) := by
  unfold thermalTripRelease
  split
  · exact ((Safe.refl s).setBoot _).trans (bootIfFree_safe _)
  · exact Safe.refl s

theorem thermalTripRelease_heldOk (h : s.heldOk) : (thermalTripRelease s).heldOk := by
  unfold thermalTripRelease
  split
  next hp =>
    have hr : s.boot.state = .reset := h (by simp_all [State.managed])
    exact bootIfFree_heldOk fun _ => hr
  · exact h

theorem thermalTrip_safe (s) : Safe s (thermalTrip s) := by
  unfold thermalTrip
  split
  · exact Safe.refl s
  · exact coldThenBoot_safe ((Safe.refl s).setBoot _) 3

theorem thermalTrip_heldOk (h : s.heldOk) : (thermalTrip s).heldOk := by
  unfold thermalTrip
  split
  · exact h
  · exact coldThenBoot_heldOk _ h.noPower

theorem thermalTripRelease_lock (h : s.host.lock = true) : (thermalTripRelease s).host.lock = true := by
  unfold thermalTripRelease
  split
  · rw [bootIfFree_host]; exact h
  · exact h

theorem firmwareInit_safe (e s) : Safe s (firmwareInit e s) := by
  by_cases h : s.boot.state = .firmwareInit ∧ s.power.state ≠ .aon
  · exact (initialised_safe s).quiet (firmwareInit_quiet h)
  · rw [firmwareInit_skips h]; exact Safe.refl s

theorem firmwareInit_lock (e) (h : s.host.lock = true) : (firmwareInit e s).host.lock = true := by
  by_cases hc : s.boot.state = .firmwareInit ∧ s.power.state ≠ .aon
  · exact (firmwareInit_quiet hc).lock h
  · rw [firmwareInit_skips hc]; exact h

theorem firmwareInit_heldOk (e) (h : s.heldOk) : (firmwareInit e s).heldOk := by
  by_cases hc : s.boot.state = .firmwareInit ∧ s.power.state ≠ .aon
  · refine (firmwareInit_quiet hc).heldOk fun hm => ?_
    exact absurd ((h hm).symm.trans hc.1) (by decide)
  · rw [firmwareInit_skips hc]; exact h

/-- A statement about every command: the quiet ones, those of resets, those of start-up. -/
theorem Instr.resetCases {P : Instr → Prop} (quiet : ∀ c, isResetCmd c = false → isStartCmd c = false → P c)
    (powerOnReset : P .powerOnReset) (pwrGoodFall : P .pwrGoodFall) (perst : P .perst) (thermalTrip : P .thermalTrip)
    (thermalSense : ∀ r, P (.thermalSense r)) (watchdog : P .watchdog) (extest : P .extest) (firmwareFatal : P .firmwareFatal)
    (perstDeassert : ∀ d f, P (.perstDeassert d f)) (thermalTripRelease : P .thermalTripRelease) (extestExit : P .extestExit)
    (firmwareInit : ∀ e, P (.firmwareInit e)) (c : Instr) : P c := by
  cases c with
  | powerOnReset => exact powerOnReset
  | pwrGoodFall => exact pwrGoodFall
  | perst => exact perst
  | thermalTrip => exact thermalTrip
  | thermalSense r => exact thermalSense r
  | watchdog => exact watchdog
  | extest => exact extest
  | firmwareFatal => exact firmwareFatal
  | perstDeassert d f => exact perstDeassert d f
  | thermalTripRelease => exact thermalTripRelease
  | extestExit => exact extestExit
  | firmwareInit e => exact firmwareInit e
  | _ => exact quiet _ rfl rfl

theorem thermalSense_safe {r} (e : exec (.thermalSense r) s = .next t) : Safe s t := by
  have h := ((Quiet.refl s).thermalReadings r).safe
  cases e
  split
  · exact Safe.refl s
  · dsimp only
    split
    · exact h.trans (thermalTrip_safe _)
    · exact h

theorem thermalSense_heldOk {r} (hs : s.heldOk) (e : exec (.thermalSense r) s = .next t) : t.heldOk := by
  have h := ((Quiet.refl s).thermalReadings r).heldOk hs
  cases e
  split
  · exact hs
  · dsimp only
    split
    · exact thermalTrip_heldOk h
    · exact h

/-- Every command is safe. -/
theorem exec_safe {c : Instr} : ∀ {s t}, exec c s = .next t → Safe s t := by
  induction c using Instr.resetCases with
  | quiet c hr hb => exact fun e => (exec_quiet hr hb _ e).safe
  | powerOnReset | pwrGoodFall => intro s t e; cases e; exact powerOn_safe _ s
  | perst | extest => intro s t e; cases e; exact coldThenBoot_safe ((Safe.refl s).setBoot _) _
  | watchdog => intro s t e; cases e; exact coldThenBoot_safe (Safe.refl s) _
  | thermalTrip => intro s t e; cases e; exact thermalTrip_safe s
  | thermalSense r => exact thermalSense_safe
  | firmwareFatal =>
    intro s t e
    cases e
    split
    · exact coldThenBoot_safe (Safe.refl s) _
    · exact Safe.refl s
  | perstDeassert d f => intro s t e; cases e; exact perstDeassert_safe d f s
  | thermalTripRelease => intro s t e; cases e; exact thermalTripRelease_safe s
  | extestExit =>
    intro s t e
    cases e
    split
    · exact ((Safe.refl s).setBoot _).trans (bootIfFree_safe _)
    · exact Safe.refl s
  | firmwareInit f => intro s t e; cases e; exact firmwareInit_safe f s

theorem exec_heldOk {c : Instr} : ∀ {s t}, s.heldOk → exec c s = .next t → t.heldOk := by
  induction c using Instr.resetCases with
  | quiet c hr hb => exact fun hs e => (exec_quiet hr hb _ e).heldOk hs
  | powerOnReset | pwrGoodFall => intro s t _ e; cases e; exact fun _ => rfl
  | perst | extest | watchdog => intro s t hs e; cases e; exact coldThenBoot_heldOk _ hs.noPower
  | thermalTrip => intro s t hs e; cases e; exact thermalTrip_heldOk hs
  | thermalSense r => exact thermalSense_heldOk
  | firmwareFatal =>
    intro s t hs e
    cases e
    split
    · exact coldThenBoot_heldOk _ hs.noPower
    · exact hs
  | perstDeassert d f => intro s t hs e; cases e; exact perstDeassert_heldOk d f hs
  | thermalTripRelease => intro s t hs e; cases e; exact thermalTripRelease_heldOk hs
  | extestExit =>
    intro s t hs e
    cases e
    split
    next hx => exact bootIfFree_heldOk fun _ => hs (by simp_all [State.managed])
    · exact hs
  | firmwareInit f => intro s t hs e; cases e; exact firmwareInit_heldOk f hs

/-! ### A device that start-up has left, and one that the trip holds -/

/-- Start-up commands other than FIRMWARE_INIT act only on a device in RESET. -/
theorem exec_failed {c : Instr} : ∀ {s t}, s.heldOk → s.boot.state = .failed → isResetCmd c = false → exec c s = .next t →
    t.boot.state = .failed := by
  have hfree : ∀ {s : State}, s.heldOk → s.boot.state = .failed → s.managed = true := fun hs hf => by
    by_contra hm
    cases (hs (by simpa using hm)).symm.trans hf
  induction c using Instr.resetCases with
  | quiet c hr hb => exact fun _ hf _ e => (exec_quiet hr hb _ e).boot ▸ hf
  | powerOnReset | pwrGoodFall | perst | thermalTrip | thermalSense | watchdog | extest | firmwareFatal =>
    intro _ _ _ _ hr; cases hr
  | perstDeassert d f =>
    intro s t hs hf _ e
    cases e
    have := hfree hs hf
    unfold perstDeassert
    rw [if_neg (by simp_all [State.managed])]
    exact hf
  | thermalTripRelease =>
    intro s t hs hf _ e
    cases e
    have := hfree hs hf
    unfold thermalTripRelease
    rw [if_neg (by simp_all [State.managed])]
    exact hf
  | extestExit =>
    intro s t hs hf _ e
    cases e
    have := hfree hs hf
    rw [if_neg (by simp_all [State.managed])]
    exact hf
  | firmwareInit f =>
    intro s t _ hf _ e
    cases e
    rw [firmwareInit_skips (by simp [hf])]
    exact hf

theorem managed_of_tripHold (h : s.boot.tripHold = true) : s.managed = false := by
  simp [State.managed, h]

/-- Held by the thermal trip in RESET. -/
def State.tripped (s : State) : Prop := s.boot.tripHold = true ∧ s.boot.state = .reset

/-- A COLD reset keeps the trip's hold, and nothing boots under it. -/
theorem coldThenBoot_tripped (cause) (h : s.tripped) : (coldThenBoot cause s).tripped := by
  unfold coldThenBoot
  split
  · rw [bootIfFree_held (s := coldReset cause s) (managed_of_tripHold h.1)]
    exact ⟨h.1, rfl⟩
  · exact h

theorem bootIfFree_tripped (h : s.tripped) : (bootIfFree s).tripped := by
  rw [bootIfFree_held (managed_of_tripHold h.1)]
  exact h

theorem Quiet.tripped (h : Quiet s t) (hs : s.tripped) : t.tripped := by
  rwa [State.tripped, h.boot]

theorem thermalTrip_tripped (h : s.tripped) : (thermalTrip s).tripped := by
  unfold thermalTrip
  rwa [if_pos h.1]

theorem perstDeassert_tripped (d f) (h : s.tripped) : (perstDeassert d f s).tripped := by
  unfold perstDeassert
  split
  · have ha := ((Quiet.refl s).advanceTo (usTicks 100000)).tripped h
    apply bootIfFree_tripped
    cases f <;> exact ha
  · exact h

theorem Power.le_hottest (p : Power) (i : Fin 8) : (p.sensors[i]).toInt ≤ p.hottest := by
  have hfold : ∀ (l : List (BitVec 8)) (m : Int), m ≤ l.foldl (fun m t => max m (celsius t)) m
      ∧ ∀ x ∈ l, celsius x ≤ l.foldl (fun m t => max m (celsius t)) m := by
    intro l
    induction l with
    | nil => simp
    | cons y l ih =>
      intro m
      obtain ⟨hm, hl⟩ := ih (max m (celsius y))
      refine ⟨(le_max_left _ _).trans hm, fun x hx => ?_⟩
      rcases List.mem_cons.1 hx with rfl | hx
      · exact (le_max_right _ _).trans hm
      · exact hl x hx
  exact (hfold p.sensors.toList (-128)).2 _ (by simp)

/-- The part stays tripped but for a release on cool sensors, and for the power. -/
theorem exec_tripped {c : Instr} : ∀ {s t}, s.tripped → exec c s = .next t →
    t.tripped ∨ (c = .thermalTripRelease ∧ ∀ i : Fin 8, (s.power.sensors[i]).toInt ≤ 95) ∨ c = .powerOnReset ∨ c = .pwrGoodFall := by
  induction c using Instr.resetCases with
  | quiet c hr hb => exact fun hs e => .inl ((exec_quiet hr hb _ e).tripped hs)
  | powerOnReset => exact fun _ _ => .inr (.inr (.inl rfl))
  | pwrGoodFall => exact fun _ _ => .inr (.inr (.inr rfl))
  | perst | extest | watchdog => intro s t hs e; cases e; exact .inl (coldThenBoot_tripped _ hs)
  | thermalTrip => intro s t hs e; cases e; exact .inl (thermalTrip_tripped hs)
  | thermalSense r =>
    intro s t hs e
    have h := ((Quiet.refl s).thermalReadings r).tripped hs
    cases e
    refine .inl ?_
    split
    · exact hs
    · dsimp only
      split
      · exact thermalTrip_tripped h
      · exact h
  | firmwareFatal =>
    intro s t hs e
    cases e
    refine .inl ?_
    split
    · exact coldThenBoot_tripped _ hs
    · exact hs
  | perstDeassert d f => intro s t hs e; cases e; exact .inl (perstDeassert_tripped d f hs)
  | thermalTripRelease =>
    intro s t hs e
    cases e
    by_cases hcool : s.power.hottest ≤ 95
    · exact .inr (.inl ⟨rfl, fun i => (s.power.le_hottest i).trans hcool⟩)
    · refine .inl ?_
      unfold thermalTripRelease
      rwa [if_neg (by simp [hcool])]
  | extestExit =>
    intro s t hs e
    cases e
    refine .inl ?_
    split
    · exact bootIfFree_tripped hs
    · exact hs
  | firmwareInit f =>
    intro s t hs e
    cases e
    rw [firmwareInit_skips (by simp [hs.2])]
    exact .inl hs

/-! ### The obligations -/

/-- A step is a tick of the clock, or the command at the front. -/
theorem step_cases (e : step s = .next t) :
    (s.pending = [] ∧ t = s.advance 1) ∨ ∃ c rest, s.pending = c :: rest ∧ exec c { s with pending := rest } = .next t := by
  unfold step at e
  split at e
  next hp => cases e; exact .inl ⟨hp, rfl⟩
  next c rest hp => exact .inr ⟨c, rest, hp, e⟩

/-- Settles O4: a tick and the quiet commands keep each part, the resets set them, and start-up runs where nothing holds the part. -/
theorem every_step_keeps_the_invariant : Obligations.Every_step_keeps_the_invariant := by
  intro s t hs e
  obtain ⟨-, rfl⟩ | ⟨c, rest, -, e⟩ := step_cases e
  · have h := (Quiet.refl s).advance 1
    exact h.safe.inv (h.heldOk hs.held) hs
  · have hs' : Inv { s with pending := rest } := ⟨hs.mem, hs.held, hs.owned, hs.ring⟩
    exact (exec_safe e).inv (exec_heldOk hs'.held e) hs'

/-- Settles O5: of the quiet commands only KEY_IMPORT changes fuses, setting bits; FIRMWARE_INIT fills thermometers. -/
theorem no_command_clears_a_fuse_bit : Obligations.No_command_clears_a_fuse_bit :=
  fun _ _ _ e => (exec_safe e).fuses

/-- Settles O6. -/
theorem security_lock_stays_until_a_cold_reset : Obligations.Security_lock_stays_until_a_cold_reset := by
  intro c
  induction c using Instr.resetCases with
  | quiet c hr hb => exact fun s t _ hl e => (exec_quiet hr hb t e).lock hl
  | powerOnReset | pwrGoodFall | perst | thermalTrip | thermalSense | watchdog | extest | firmwareFatal =>
    intro _ _ hr; cases hr
  | perstDeassert d f => intro s t _ hl e; cases e; exact perstDeassert_lock d f hl
  | thermalTripRelease => intro s t _ hl e; cases e; exact thermalTripRelease_lock hl
  | extestExit =>
    intro s t _ hl e
    cases e
    split
    · rw [bootIfFree_host]; exact hl
    · exact hl
  | firmwareInit f => intro s t _ hl e; cases e; exact firmwareInit_lock f hl

/-- Settles O7: every command, quiet or not, hands the queue on. -/
theorem commands_leave_the_queue_alone : Obligations.Commands_leave_the_queue_alone :=
  fun _ _ _ e => (exec_safe e).pending

/-- Settles O57: what leaves RESET or BOOT acts on a device that is in it, so FAILED ends with a reset only. -/
theorem failed_start_up_lasts_until_a_reset : Obligations.Failed_start_up_lasts_until_a_reset := by
  intro s t hs hf e
  obtain ⟨-, rfl⟩ | ⟨c, rest, hp, e⟩ := step_cases e
  · exact .inl (((Quiet.refl s).advance 1).boot ▸ hf)
  · cases hr : isResetCmd c with
    | true => exact .inr ⟨c, by simp [hp], hr⟩
    | false => exact .inl (exec_failed (s := { s with pending := rest }) hs.held hf hr e)

@[simp] theorem thermalReadings_sensors (r s) : (thermalReadings r s).power.sensors = r := by
  have hask : ∀ (p : Power) (c v : Fin 3), (p.setAsk c v).sensors = p.sensors := fun p c v => by
    unfold Power.setAsk
    split <;> rfl
  have hjudge : ∀ (p : Power) n c d u, (p.judge n c d u).sensors = p.sensors := fun p n c d u => by
    unfold Power.judge
    dsimp only
    split
    · exact hask _ _ _
    · rfl
  unfold thermalReadings
  dsimp only
  split
  · exact hjudge _ _ _ _ _
  · rfl

/-- Settles O56. -/
theorem thermal_trip_holds_the_part_in_reset : Obligations.Thermal_trip_holds_the_part_in_reset := by
  refine ⟨fun r s i hp hn hot => ?_, fun s t hs htrip e => ?_⟩
  · have hb := ((Quiet.refl s).thermalReadings r).boot
    have hhot : 115 ≤ (thermalReadings r s).power.hottest := by
      have hi := (thermalReadings r s).power.le_hottest i
      rw [thermalReadings_sensors] at hi
      exact hot.trans hi
    have hexec : exec (.thermalSense r) s = .next (coldReset 3 { thermalReadings r s with
        boot := { (thermalReadings r s).boot with tripHold := true } }) := by
      change Host.Outcome.next _ = _
      simp [hp, hhot, thermalTrip, hb, hn, coldThenBoot, bootIfFree, State.managed, coldReset]
    exact ⟨_, hexec, rfl, rfl, rfl, rfl, rfl, thermalReadings_sensors r s⟩
  · obtain ⟨-, rfl⟩ | ⟨c, rest, hq, e⟩ := step_cases e
    · exact .inl (((Quiet.refl s).advance 1).tripped ⟨htrip, hs.held (managed_of_tripHold htrip)⟩)
    · rw [hq]
      have h := exec_tripped (s := { s with pending := rest }) ⟨htrip, hs.held (managed_of_tripHold htrip)⟩ e
      simpa [State.tripped] using h

end Operations

end Sys2Proof.Machine
end

section
/-!
SUPPORT. The step and the reset state, the memory's own law.
-/

namespace Sys2Proof.Machine
open Sys2Proof

/-- A tick while the part has power, by the parts that count it (R222, R258, R422). -/
theorem advance_powered {s : State} (h : s.boot.pwrGood = true) (n : Nat) :
    (s.advance n).ticks = s.ticks + BitVec.ofNat 64 n
      ∧ (∀ k : Fin 4, ((s.advance n).cl k).counter = (s.cl k).counter + BitVec.ofNat 48 n)
      ∧ (∀ e : Fin 16, (s.advance n).engines[e] =
          if s.spins (e.val / 2) then (s.engines[e]).spin (4 * s.cyclesIn n) else s.engines[e])
      ∧ ∀ c : Fin 8, (s.advance n).cores[c] = if s.spins c.val then (s.cores[c]).spin (4 * s.cyclesIn n) else s.cores[c] := by
  have hadv : ¬(!s.boot.pwrGood) = true := by simp [h]
  unfold State.advance
  rw [if_neg hadv]
  exact ⟨rfl, fun k => by simp [State.cl], fun e => by simp, fun c => by simp⟩

/-- It changes none of the rest. -/
theorem advance_frame (s : State) (n : Nat) :
    (s.advance n).quires = s.quires ∧ (s.advance n).mem = s.mem ∧ (s.advance n).cfg = s.cfg ∧ (s.advance n).host = s.host
      ∧ (s.advance n).mbx = s.mbx ∧ (s.advance n).boot = s.boot ∧ (s.advance n).power = s.power ∧ (s.advance n).sec = s.sec
      ∧ (s.advance n).pending = s.pending := by
  unfold State.advance
  dsimp only
  split <;> exact ⟨rfl, rfl, rfl, rfl, rfl, rfl, rfl, rfl, rfl⟩

/-- Settles O1. -/
theorem step_runs_the_command_at_the_front : Obligations.Step_runs_the_command_at_the_front :=
  fun _ _ _ => rfl

/-- Settles O2: the step of an empty queue is one tick. -/
theorem idle_step_is_one_tick : Obligations.Idle_step_is_one_tick := by
  intro s hq hp
  have hstep : step s = .next (s.advance 1) := by
    unfold step
    rw [hq]
  obtain ⟨hticks, hcl, heng, hcore⟩ := advance_powered hp 1
  obtain ⟨hquires, hmem, hcfg, hhost, hmbx, hboot, hpower, hsec, hpending⟩ := advance_frame s 1
  exact ⟨_, hstep, hticks, hcl, heng, hcore, hquires, hmem, hcfg, hhost, hmbx, hboot, hpower, hsec, hpending.trans hq⟩

/-- Settles O3: the memory is empty, PWR_GOOD is low in RESET, and LOG2_SIZE is 16. -/
theorem reset_meets_the_invariant : Obligations.Reset_meets_the_invariant :=
  ⟨rfl, fun _ => rfl, (fun h => by cases h), le_refl 16, show 16 ≤ 24 by decide⟩

/-- Settles O8. -/
theorem memory_reads_what_was_written : Obligations.Memory_reads_what_was_written :=
  fun m a b h => ⟨Mem.write_wf b m a h, Mem.read_write b m a h, fun x hx => Mem.byte_write_other b m a x hx h⟩

end Sys2Proof.Machine
end

section
/-!
SUPPORT. The mailbox: the commands that read the device, MBX_CONFIG, the ring doorbells, and records that no command answers.
-/

namespace Sys2Proof.Machine
open Sys2Proof

section Device

variable {c : Cmd} {s : State}

/-! ### SETUP_READ (R280) -/

theorem doSetupRead_all (hzero : slice c.params 0 32 = zeros 32) : doSetupRead c s = .answer s s.colo.setups.flatten :=
  if_pos hzero

theorem doSetupRead_known {b : Bytes} (hdigest : slice c.params 0 32 ≠ zeros 32)
    (hb : s.colo.setups.find? (fun x => digest256 x == slice c.params 0 32) = some b) : doSetupRead c s = .answer s b := by
  simp only [doSetupRead, if_neg hdigest, hb]

theorem doSetupRead_unknown (hdigest : slice c.params 0 32 ≠ zeros 32)
    (hnone : ∀ b ∈ s.colo.setups, digest256 b ≠ slice c.params 0 32) : doSetupRead c s = .fail s 7 := by
  have hfind : s.colo.setups.find? (fun x => digest256 x == slice c.params 0 32) = none := by
    simpa using hnone
  simp only [doSetupRead, if_neg hdigest, hfind]

/-! ### MBX_CONFIG (R360, R361) -/

theorem doMbxConfig_takes {p : Bytes} {rep : List Rep} (hcpl : cplAt c.params 0 64 = true)
    (hp : checkFields 0 mbxFields (slice c.params 0 64) = (p, rep)) :
    doMbxConfig c s =
      { st := (s.setMbx fun m => { m with
          spq := { base := par8 p 0, size := par8 p 1 / 16 }, spc := { base := par8 p 2, size := par8 p 3 / 16 }
          spcVec := par8 p 4, rspVec := par8 p 5, reportBase := par8 p 6, reportSize := par8 p 7 }).drainSpc
        rep := rep } := by
  unfold doMbxConfig
  rw [hcpl, hp]
  rfl

theorem doMbxConfig_badComplement (hcpl : cplAt c.params 0 64 = false) : doMbxConfig c s = .fail s 5 :=
  if_pos (by rw [hcpl]; rfl)

end Device

/-- Settles O9: each served read answers from the state in which its record was taken. -/
theorem device_reads_answer : Obligations.Device_reads_answer := by
  unfold Obligations.Device_reads_answer
  refine ⟨?nop, ?info, ?telemetry, ?cert, ?setups, ?setup, ?noSetup⟩
  case nop => exact fun c s h hl => congrArg Host.Outcome.next (shortCmd_replies (run := fun _ s => { st := s }) h hl rfl)
  case info => exact fun c s h hl => congrArg Host.Outcome.next (shortCmd_replies (run := doDeviceInfo) h hl rfl)
  case telemetry => exact fun c s h hl => congrArg Host.Outcome.next (shortCmd_replies (run := doTelemetryRead) h hl rfl)
  case cert =>
    intro c s h hl hfits
    refine congrArg Host.Outcome.next ((shortCmd_served h hl doCertGet).trans ?_)
    exact finish_replyOut _ _ _ _ hfits rfl rfl
  case setups =>
    exact fun c s h hl hzero hfits => congrArg Host.Outcome.next (shortCmd_answers h hl (doSetupRead_all hzero) hfits)
  case setup =>
    exact fun c s b h hl hdigest hb hfits =>
      congrArg Host.Outcome.next (shortCmd_answers h hl (doSetupRead_known hdigest hb) hfits)
  case noSetup =>
    exact fun c s h hl hdigest hnone => congrArg Host.Outcome.next (shortCmd_replies h hl (doSetupRead_unknown hdigest hnone))

/-- Settles O11. -/
theorem mailbox_configuration_takes_effect : Obligations.Mailbox_configuration_takes_effect := by
  refine ⟨fun c s p rep h hl hcpl hp => ?_, fun c s h hl hcpl => ?_⟩
  · exact congrArg Host.Outcome.next (shortCmd_replies h hl (doMbxConfig_takes hcpl hp))
  · exact congrArg Host.Outcome.next (shortCmd_replies h hl (doMbxConfig_badComplement hcpl))

section Doorbells

variable {n : Nat} {index : BitVec 32} {s : State}

/-! ### The doorbells of the rings (R362, R425, R426) -/

/-- The state with the BAD_INDEX flag of a ring set. -/
def State.badIndex (s : State) (n : Nat) : State := s.setMbx fun m => m.setRing n { s.mbx.ring n with badIndex := true }

/-- What a doorbell does once its ring is latched or needs no latching. -/
theorem doorbell_settled (h : (s.mbx.ring n).base ≠ 0 ∨ s.mbx.baseReg n = 0) : doorbell n index s =
    if (s.mbx.ring n).base = 0 then s.badIndex n
    else if n ≤ 1 then
      if (s.mbx.ring n).size < (index - (s.mbx.ring n).cons).toNat then s.badIndex n
      else s.setMbx fun m => m.setRing n { s.mbx.ring n with prod := index }
    else
      if ((s.mbx.ring n).prod - (s.mbx.ring n).cons).toNat < (index - (s.mbx.ring n).cons).toNat then s.badIndex n
      else (s.setMbx fun m => m.setRing n { s.mbx.ring n with cons := index }).ringRoom n := by
  have hkept : (isGeneral n && (s.mbx.ring n).base == 0 && s.mbx.baseReg n != 0) = false := by
    rcases h with h | h <;> simp [h]
  simp only [doorbell, hkept, Bool.false_eq_true, if_false, State.badIndex]

theorem doorbell_unset (hbase : (s.mbx.ring n).base = 0) (hreg : s.mbx.baseReg n = 0) : doorbell n index s = s.badIndex n :=
  (doorbell_settled (.inr hreg)).trans (if_pos hbase)

section Set

variable (hbase : (s.mbx.ring n).base ≠ 0)
include hbase

theorem doorbell_producer (hn : n ≤ 1) (hfits : (index - (s.mbx.ring n).cons).toNat ≤ (s.mbx.ring n).size) :
    doorbell n index s = s.setMbx fun m => m.setRing n { s.mbx.ring n with prod := index } := by
  rw [doorbell_settled (.inl hbase), if_neg hbase, if_pos hn, if_neg hfits.not_gt]

theorem doorbell_tooFar (hn : n ≤ 1) (hover : (s.mbx.ring n).size < (index - (s.mbx.ring n).cons).toNat) :
    doorbell n index s = s.badIndex n := by
  rw [doorbell_settled (.inl hbase), if_neg hbase, if_pos hn, if_pos hover]

theorem doorbell_consumer (hn : 2 ≤ n) (hfits : (index - (s.mbx.ring n).cons).toNat
      ≤ ((s.mbx.ring n).prod - (s.mbx.ring n).cons).toNat) :
    doorbell n index s = (s.setMbx fun m => m.setRing n { s.mbx.ring n with cons := index }).ringRoom n := by
  rw [doorbell_settled (.inl hbase), if_neg hbase, if_neg (by omega), if_neg hfits.not_gt]

theorem doorbell_pastProducer (hn : 2 ≤ n) (hover : ((s.mbx.ring n).prod - (s.mbx.ring n).cons).toNat
      < (index - (s.mbx.ring n).cons).toNat) : doorbell n index s = s.badIndex n := by
  rw [doorbell_settled (.inl hbase), if_neg hbase, if_neg (by omega), if_pos hover]

end Set

/-! ### Latching (R425) -/

theorem latch_ring (hgen : isGeneral n = true) :
    ((s.latch n).mbx.ring n).base = s.mbx.baseReg n ∧ ((s.latch n).mbx.ring n).size = 2 ^ s.mbx.log2Size / 16
      ∧ (s.latch n).mbx.idxLatched = s.mbx.idxBase.toNat := by
  have hn : n = 0 ∨ n = 2 ∨ n = 3 := by simpa [isGeneral, or_assoc] using hgen
  rcases hn with rfl | rfl | rfl <;> exact ⟨rfl, rfl, rfl⟩

theorem doorbell_latches (hgen : isGeneral n = true) (hbase : (s.mbx.ring n).base = 0) (hreg : s.mbx.baseReg n ≠ 0) :
    doorbell n index s = doorbell n index (s.latch n) := by
  have hset : ((s.latch n).mbx.ring n).base ≠ 0 := by rwa [(latch_ring hgen).1]
  have hfirst : (isGeneral n && (s.mbx.ring n).base == 0 && s.mbx.baseReg n != 0) = true := by simp [hgen, hbase, hreg]
  rw [doorbell_settled (.inl hset)]
  simp only [doorbell, hfirst, if_true, State.badIndex]

end Doorbells

section Requests

variable {ring : BitVec 4} {index : BitVec 32} {s : State}

theorem exec_mbxDoorbell (h : BarOk s) (hring : ring.toNat ≤ 4) :
    exec (.mbxDoorbell ring index) s = .next (doorbell ring.toNat index s) :=
  congrArg Host.Outcome.next ((barReq_ok h).trans (if_neg hring.not_gt))

theorem exec_mbxDoorbellReset (h : BarOk s) (hring : ring.toNat ≤ 4) :
    exec (.mbxDoorbellReset ring index) s = .next (doorbellReset ring.toNat s) :=
  congrArg Host.Outcome.next ((barReq_ok h).trans (if_neg hring.not_gt))

theorem State.latch_host (s : State) (n : Nat) : (s.latch n).host = s.host := by
  unfold State.latch
  split <;> rfl

theorem State.latch_boot (s : State) (n : Nat) : (s.latch n).boot = s.boot := by
  unfold State.latch
  split <;> rfl

theorem State.latch_power (s : State) (n : Nat) : (s.latch n).power = s.power := by
  unfold State.latch
  split <;> rfl

theorem barOk_latch (h : BarOk s) (n : Nat) : BarOk (s.latch n) := by
  obtain ⟨hserved, hide⟩ := h
  refine ⟨?_, by rwa [State.latch_host]⟩
  simpa only [State.barServed, State.busumUp, State.latch_host, State.latch_boot, State.latch_power] using hserved

end Requests

/-- Settles O12: the count is held against the ring that the doorbell names. -/
theorem doorbells_move_the_counts : Obligations.Doorbells_move_the_counts := by
  refine ⟨?producer, ?tooFar, ?consumer, ?pastProducer, ?unset, ?ignored, ?reset⟩
  case producer =>
    exact fun ring index s h hn hbase hfits =>
      (exec_mbxDoorbell h (by omega)).trans (congrArg Host.Outcome.next (doorbell_producer hbase hn hfits))
  case tooFar =>
    exact fun ring index s h hn hbase hover =>
      (exec_mbxDoorbell h (by omega)).trans (congrArg Host.Outcome.next (doorbell_tooFar hbase hn hover))
  case consumer =>
    exact fun ring index s h hn hring hbase hfits =>
      (exec_mbxDoorbell h hring).trans (congrArg Host.Outcome.next (doorbell_consumer hbase hn hfits))
  case pastProducer =>
    exact fun ring index s h hn hring hbase hover =>
      (exec_mbxDoorbell h hring).trans (congrArg Host.Outcome.next (doorbell_pastProducer hbase hn hover))
  case unset =>
    exact fun ring index s h hring hbase hreg =>
      (exec_mbxDoorbell h hring).trans (congrArg Host.Outcome.next (doorbell_unset hbase hreg))
  case ignored =>
    exact fun ring index s h hring => ⟨congrArg Host.Outcome.next ((barReq_ok h).trans (if_pos hring)),
      congrArg Host.Outcome.next ((barReq_ok h).trans (if_pos hring))⟩
  case reset => exact fun ring index s h hring => exec_mbxDoorbellReset h hring

/-- Settles O13. -/
theorem first_doorbell_latches_a_general_ring : Obligations.First_doorbell_latches_a_general_ring := by
  intro ring index s h hgen hbase hreg
  have hring : ring.toNat ≤ 4 := by
    have hn : (ring.toNat = 0 ∨ ring.toNat = 2) ∨ ring.toNat = 3 := by simpa only [isGeneral, Bool.or_eq_true, beq_iff_eq] using hgen
    omega
  refine ⟨?_, latch_ring hgen⟩
  rw [exec_mbxDoorbell h hring, exec_mbxDoorbell (barOk_latch h _) hring, doorbell_latches hgen hbase hreg]

section Records

variable {typ : Byte} {tag len : BitVec 16} {s : State}

/-! ### Records that no command answers (R364, R365) -/

theorem unknownRecord_cmd (hread : s.canRead s.mbx.cmdq 1 = true) (hlen : s.canRead s.mbx.cmdq len.toNat = true) :
    unknownRecord false true typ tag len s
      = (s.takeCmd len).respond typ.toNat tag.toNat 2 0 s.mbx.reportCount.toNat 0 0 [] := by
  simp only [unknownRecord, hread, hlen, Bool.not_true, Bool.false_or, Bool.false_eq_true, if_false]
  rfl

theorem unknownRecord_slot (hread : s.canRead s.mbx.spq 1 = true) (hlen : s.canRead s.mbx.spq len.toNat = true) :
    unknownRecord true true typ tag len s = (s.takeSpq len).slotError tag.toNat 0 0 5 := by
  simp only [unknownRecord, hread, hlen, Bool.not_true, Bool.false_or, Bool.false_eq_true, if_false, if_true]

theorem unknownRecord_badCmd (hread : s.canRead s.mbx.cmdq 1 = true) : unknownRecord false false typ tag len s = haltRing 0 s := by
  simp only [unknownRecord, hread, Bool.not_true, Bool.not_false, Bool.true_or, Bool.false_eq_true, if_false, if_true]

theorem unknownRecord_badSlot (hread : s.canRead s.mbx.spq 1 = true) : unknownRecord true false typ tag len s = haltRing 1 s := by
  simp only [unknownRecord, hread, Bool.not_true, Bool.not_false, Bool.true_or, Bool.false_eq_true, if_false, if_true]

theorem evqOverflow_posts {t : State} (howed : s.mbx.evtOwed ≠ 0) (ht : s.tryEvent 0x15 0 (toLE 8 s.mbx.evtOwed) = some t) :
    evqOverflow s = t.setMbx fun m => { m with evtOwed := 0 } := by
  simp only [evqOverflow, if_neg howed, ht]

end Records

/-- Settles O14. -/
theorem records_without_a_command_are_skipped_or_halt : Obligations.Records_without_a_command_are_skipped_or_halt := by
  refine ⟨?padCmd, ?padSlot, ?cmd, ?slot, ?badCmd, ?badSlot, ?owed⟩
  case padCmd => exact fun len s hread => congrArg Host.Outcome.next (if_pos hread)
  case padSlot => exact fun len s hread => congrArg Host.Outcome.next (if_pos hread)
  case cmd => exact fun typ tag len s hread hlen => congrArg Host.Outcome.next (unknownRecord_cmd hread hlen)
  case slot => exact fun typ tag len s hread hlen => congrArg Host.Outcome.next (unknownRecord_slot hread hlen)
  case badCmd => exact fun typ tag len s hread => congrArg Host.Outcome.next (unknownRecord_badCmd hread)
  case badSlot => exact fun typ tag len s hread => congrArg Host.Outcome.next (unknownRecord_badSlot hread)
  case owed => exact fun s t howed ht => congrArg Host.Outcome.next (evqOverflow_posts howed ht)

end Sys2Proof.Machine
end

section
/-!
SUPPORT. The DMA channels: DMA_CONFIG and device windows, the doorbells, what the link's answers do to a descriptor in progress, and a
completion entry over a memory that is not in canonical form.
-/

namespace Sys2Proof.Machine
open Sys2Proof

section Config

variable {c : Cmd} {s : State}

/-! ### DMA_CONFIG (R344, R348) -/

theorem doDmaConfig_badComplement (hcpl : cplAt c.params 0 88 = false) : doDmaConfig c s = .fail s 5 :=
  if_pos (by rw [hcpl]; rfl)

theorem doDmaConfig_takes {ch : Fin 16} {r : Bytes} {rep : List Rep} (hcpl : cplAt c.params 0 88 = true)
    (hch : par8 c.params 0 = ch.val) (hhost : 8 ≤ ch.val) (hidle : (s.chan ch).run = none)
    (hr : checkFields 0 (dmaFields ch.val) (slice c.params 0 88) = (r, rep)) :
    doDmaConfig c s =
      { st := s.setChan ch fun _ =>
          { configured := true, ringBase := par8 r 1, size := par8 r 2, cplBase := par8 r 3, vector := some (par8 r 4),
            lc := par8 r 5 == 1, pasid := BitVec.ofNat 20 (par8 r 6), pasidEn := par8 r 7 == 1, atsEn := par8 r 8 == 1,
            priEn := par8 r 9 == 1, pageTimeout := par8 r 10 }
        rep := rep } := by
  unfold doDmaConfig
  simp only [hcpl, hch, hhost, ch.isLt, hidle, hr, and_self, dif_pos, Option.isSome_none, Bool.not_true, Bool.false_eq_true,
    if_false]

theorem doDmaConfig_busy {ch : Fin 16} (hcpl : cplAt c.params 0 88 = true) (hch : par8 c.params 0 = ch.val) (hhost : 8 ≤ ch.val)
    (hrun : (s.chan ch).run ≠ none) : doDmaConfig c s = .fail s 9 := by
  unfold doDmaConfig
  simp only [hcpl, hch, hhost, ch.isLt, Option.isSome_iff_ne_none.2 hrun, and_self, dif_pos, Bool.not_true, Bool.false_eq_true,
    if_false, if_true]

theorem doDmaConfig_noChannel (hcpl : cplAt c.params 0 88 = true) (hch : ¬(8 ≤ par8 c.params 0 ∧ par8 c.params 0 < 16)) :
    doDmaConfig c s = { st := s, rep := [{ kind := 4, field := 1, written := low8 (par8 c.params 0), applied := 0 }] } := by
  unfold doDmaConfig
  simp only [hcpl, hch, dif_neg, Bool.not_true, Bool.false_eq_true, if_false, not_false_eq_true]

/-! ### WINDOW_CREATE and WINDOW_REMOVE (R353, R371, R400) -/

theorem doWindowCreate_badComplement (hcpl : cplAt c.params 0 32 = false) : doWindowCreate c s = .fail s 5 :=
  if_pos (by rw [hcpl]; rfl)

section Create

variable {m : WinMem} {r : Bytes} {rep : List Rep} (hcpl : cplAt c.params 0 32 = true)
  (hm : winMem (if par8 c.params 0 ≤ 6 then par8 c.params 0 else 0) = m) (hsize : s.winSize m ≠ 0)
  (hr : checkFields 0 (winFields (s.winSize m)) (slice c.params 0 32) = (r, rep))
include hcpl hm hsize hr

theorem doWindowCreate_takes {n : Fin 64} {len : Nat} (hlen : clampNat 1 (s.winSize m - par8 r 1) (par8 r 2) = len)
    (hfree : s.windowFree m ⟨par8 r 1, len⟩ = true)
    (hn : (List.finRange 64).find? (fun k : Fin 64 => (s.windows[k]).isNone) = some n) :
    doWindowCreate c s =
      { st := { s with windows := s.windows.set n (some
          { mem := m, base := par8 r 1, len := len, rd := bit (par8 r 3) 0, wr := bit (par8 r 3) 1, host := true }) }
        body := join8 [n.val]
        rep := rep ++ if len = par8 r 2 then [] else [{ kind := 0, field := 3, written := par8 r 2, applied := len }] } := by
  unfold doWindowCreate
  simp only [hcpl, hm, if_neg hsize, hr, hlen, hfree, hn, Bool.not_true, Bool.false_eq_true, if_false]

theorem doWindowCreate_overlaps
    (hfree : s.windowFree m ⟨par8 r 1, clampNat 1 (s.winSize m - par8 r 1) (par8 r 2)⟩ = false) :
    doWindowCreate c s = .fail s 9 := by
  unfold doWindowCreate
  simp only [hcpl, hm, if_neg hsize, hr, hfree, Bool.not_true, Bool.not_false, Bool.false_eq_true, if_false, if_true]

end Create

theorem doWindowRemove_removes {n : Fin 64} {w : DevWindow} (hn : par8 c.params 0 = n.val) (hw : s.windows[n] = some w)
    (hhost : w.host = true) (hstays : w.removing = false) :
    doWindowRemove c s =
      { st := { s with windows := s.windows.set n (if s.windowUsed n.val then some { w with removing := true } else none) } } := by
  have hw' : s.windows[n.val] = some w := hw
  unfold doWindowRemove
  simp only [hn, n.isLt, dif_pos, hw', hhost, hstays, Bool.not_true, Bool.or_self, Bool.false_eq_true, if_false]

theorem doWindowRemove_free {n : Fin 64} (hn : par8 c.params 0 = n.val) (hw : s.windows[n] = none) :
    doWindowRemove c s = .fail s 7 := by
  have hw' : s.windows[n.val] = none := hw
  unfold doWindowRemove
  simp only [hn, n.isLt, dif_pos, hw']

theorem doWindowRemove_noEntry (hn : 64 ≤ par8 c.params 0) : doWindowRemove c s = .fail s 7 :=
  dif_neg hn.not_gt

end Config

/-- Settles O17: each served command answers with what it ran to, by the checks that the clause's hypotheses decide. -/
theorem dma_channels_and_windows_are_configured : Obligations.Dma_channels_and_windows_are_configured := by
  unfold Obligations.Dma_channels_and_windows_are_configured
  refine ⟨?takes, ?busy, ?noChannel, ?create, ?overlap, ?remove, ?free, ?noEntry, ?dmaBroken, ?windowBroken⟩
  case takes =>
    intro c s ch r rep h hl hcpl hch hhost hidle hr
    have hrun := doDmaConfig_takes (s := s.takeCmd c.len) hcpl hch hhost hidle hr
    exact congrArg Host.Outcome.next (shortCmd_replies h hl hrun)
  case busy =>
    exact fun c s ch h hl hcpl hch hhost hrun =>
      congrArg Host.Outcome.next (shortCmd_replies h hl (doDmaConfig_busy hcpl hch hhost hrun))
  case noChannel =>
    exact fun c s h hl hcpl hch => congrArg Host.Outcome.next (shortCmd_replies h hl (doDmaConfig_noChannel hcpl hch))
  case create =>
    intro c s m n len r rep h hl hcpl hm hsize hr hlen hfree hn
    have hrun := doWindowCreate_takes (s := s.takeCmd c.len) hcpl hm hsize hr hlen hfree hn
    exact congrArg Host.Outcome.next (shortCmd_replies h hl hrun)
  case overlap =>
    intro c s m r rep h hl hcpl hm hsize hr hfree
    have hrun := doWindowCreate_overlaps (s := s.takeCmd c.len) hcpl hm hsize hr hfree
    exact congrArg Host.Outcome.next (shortCmd_replies h hl hrun)
  case remove =>
    intro c s n w h hl hn hw hhost hstays
    have hrun := doWindowRemove_removes (s := s.takeCmd c.len) hn hw hhost hstays
    exact congrArg Host.Outcome.next (shortCmd_replies h hl hrun)
  case free =>
    intro c s n h hl hn hw
    have hrun := doWindowRemove_free (s := s.takeCmd c.len) hn hw
    exact congrArg Host.Outcome.next (shortCmd_replies h hl hrun)
  case noEntry =>
    exact fun c s h hl hn => congrArg Host.Outcome.next (shortCmd_replies h hl (doWindowRemove_noEntry hn))
  case dmaBroken =>
    exact fun c s h hl hcpl => congrArg Host.Outcome.next (shortCmd_replies h hl (doDmaConfig_badComplement hcpl))
  case windowBroken =>
    exact fun c s h hl hcpl => congrArg Host.Outcome.next (shortCmd_replies h hl (doWindowCreate_badComplement hcpl))

/-! ### The doorbells of the channels (R348, R358, R428) -/

section Doorbells

variable {n : Fin 8} {s : State}

theorem dmaDbCount_stores {count : BitVec 16} (hcfg : (s.chan (dbChan n)).configured = true)
    (hfits : (count - (s.chan (dbChan n)).completed).toNat ≤ (s.chan (dbChan n)).size) :
    dmaDbCount n count s = s.setChan (dbChan n) fun c => { c with prod := count } :=
  if_neg (by simpa only [hcfg, Bool.not_true, Bool.false_or, decide_eq_true_eq] using hfits.not_gt)

theorem dmaDbCount_overruns {count : BitVec 16} (h : (s.chan (dbChan n)).configured = false ∨
    (s.chan (dbChan n)).size < (count - (s.chan (dbChan n)).completed).toNat) : dmaDbCount n count s = s.hlError 8 :=
  if_pos (by simpa using h)

theorem dmaDbCancel_unconfigured (hcfg : (s.chan (dbChan n)).configured = false) : dmaDbCancel n s = s.hlError 8 :=
  if_pos (by rw [hcfg]; rfl)

theorem dmaDbCancel_idle (hcfg : (s.chan (dbChan n)).configured = true) (hidle : (s.chan (dbChan n)).run = none) :
    dmaDbCancel n s = s.setChan (dbChan n) fun c => { c with cancelTo := if c.next = c.prod then none else some c.prod } := by
  simp only [dmaDbCancel, hcfg, hidle, Bool.not_true, Bool.false_eq_true, if_false]

theorem dmaDbCancel_running {r : DmaRun} (hcfg : (s.chan (dbChan n)).configured = true)
    (hrun : (s.chan (dbChan n)).run = some r) :
    dmaDbCancel n s = (dmaEnd s (dbChan n) r.desc 0x9A r.parkedOnce
        (if r.readBack then (DDesc.of r.desc).dstCount else (DDesc.of r.desc).delivered r.hostLine)).setChan (dbChan n)
      fun c => { c with cancelTo := if c.next = c.prod then none else some c.prod } := by
  simp only [dmaDbCancel, hcfg, hrun, Bool.not_true, Bool.false_eq_true, if_false, endRun]

end Doorbells

/-- Settles O18. -/
theorem dma_doorbells : Obligations.Dma_doorbells := by
  refine ⟨?count, ?overrun, ?idle, ?running, ?unconfigured⟩
  case count =>
    exact fun n count s h hcfg hfits => congrArg Host.Outcome.next ((barReq_ok h).trans (dmaDbCount_stores hcfg hfits))
  case overrun => exact fun n count s h hover => congrArg Host.Outcome.next ((barReq_ok h).trans (dmaDbCount_overruns hover))
  case idle => exact fun n s h hcfg hidle => congrArg Host.Outcome.next ((barReq_ok h).trans (dmaDbCancel_idle hcfg hidle))
  case running => exact fun n r s h hcfg hrun => congrArg Host.Outcome.next ((barReq_ok h).trans (dmaDbCancel_running hcfg hrun))
  case unconfigured =>
    exact fun n s h hcfg => congrArg Host.Outcome.next ((barReq_ok h).trans (dmaDbCancel_unconfigured hcfg))

/-! ### Translation, page faults and errors of the link (R346, R356, R357) -/

section Errors

variable {ch : Fin 16} {r : DmaRun} {s : State} (hrun : (s.chan ch).run = some r)
include hrun

section Reply

variable {lacks : List Nat} {host : Bytes} {ev : DmaEvent} (hmissed : r.missed = true) (hlink : s.linkOk = true)
include hmissed hlink

theorem translationCompletion_granted (hnone : (DDesc.of r.desc).lacking r.hostLine lacks = []) :
    translationCompletion ch lacks host ev s = dmaGo s ch { r with missed := false } host ev := by
  simp only [translationCompletion, hrun, hmissed, hlink, hnone, Bool.not_true, Bool.or_self, Bool.false_eq_true, if_false, if_true]

variable (hsome : (DDesc.of r.desc).lacking r.hostLine lacks ≠ [])
include hsome

theorem translationCompletion_parks (hpri : (s.chan ch).priEn = true) {pages : List Nat}
    (hpages : pages = ((DDesc.of r.desc).lacking r.hostLine lacks).take (256 - s.pagesOut)) :
    translationCompletion ch lacks host ev s = (s.setChan ch fun c =>
      { c with run := some { r with missed := false, parkedOnce := true, parked := some pages, parkedAt := s.ticks.toNat } }).emit
        (.pageRequest ch.val (s.chan ch).tagged pages) := by
  simp only [translationCompletion, hrun, hmissed, hlink, if_neg hsome, hpri, hpages, Bool.not_true, Bool.or_self,
    Bool.false_eq_true, if_false, if_true]

theorem translationCompletion_faults (hpri : (s.chan ch).priEn = false) : translationCompletion ch lacks host ev s
    = dmaEnd s ch r.desc 0x96 r.parkedOnce ((DDesc.of r.desc).delivered r.hostLine) := by
  simp only [translationCompletion, hrun, hmissed, hlink, if_neg hsome, hpri, Bool.not_true, Bool.or_self, Bool.false_eq_true,
    if_false, endRun]

end Reply

section Parked

variable {pages : List Nat} (hparked : r.parked = some pages)
include hparked

theorem pageResponse_success (hlink : s.linkOk = true) (host : Bytes) (ev : DmaEvent) :
    pageResponse ch true host ev s = dmaGo s ch { r with parked := none } host ev := by
  simp only [pageResponse, hrun, hparked, hlink, Option.isNone_some, Bool.not_true, Bool.or_self, Bool.false_eq_true, if_false,
    if_true]

theorem pageResponse_failure (hlink : s.linkOk = true) (host : Bytes) (ev : DmaEvent) : pageResponse ch false host ev s
    = dmaEnd s ch r.desc 0x96 r.parkedOnce ((DDesc.of r.desc).delivered r.hostLine) := by
  simp only [pageResponse, hrun, hparked, hlink, Option.isNone_some, Bool.not_true, Bool.or_self, Bool.false_eq_true, if_false,
    endRun]

theorem pageTimeout_parked : pageTimeout ch s
    = dmaEnd (s.advanceTo (r.parkedAt + usTicks (1000 * (s.chan ch).pageTimeout))) ch r.desc 0x97 r.parkedOnce
      ((DDesc.of r.desc).delivered r.hostLine) := by
  simp only [pageTimeout, hrun, hparked, Option.isNone_some, Bool.false_eq_true, if_false, endRun]

end Parked

theorem hostAbort_running (hidle : r.parked = none) : hostAbort ch s = dmaEnd s ch r.desc 0x98 r.parkedOnce
    (if r.readBack then (DDesc.of r.desc).dstCount - 1 else (DDesc.of r.desc).delivered r.hostLine) := by
  simp only [hostAbort, hrun, hidle, Option.isSome_none, Bool.false_eq_true, if_false, endRun]

end Errors

/-- Settles O20. -/
theorem dma_translation_and_errors : Obligations.Dma_translation_and_errors := by
  refine ⟨?granted, ?parks, ?faults, ?response, ?timeout, ?link, ?abort, ?invalidation⟩
  case granted =>
    exact fun ch r lacks host ev s hrun hmissed hlink hnone =>
      congrArg Host.Outcome.next (translationCompletion_granted hrun hmissed hlink hnone)
  case parks =>
    exact fun ch r lacks host ev pages s hrun hmissed hlink hpri hpages hsome =>
      congrArg Host.Outcome.next (translationCompletion_parks hrun hmissed hlink hsome hpri hpages)
  case faults =>
    exact fun ch r lacks host ev s hrun hmissed hlink hpri hsome =>
      congrArg Host.Outcome.next (translationCompletion_faults hrun hmissed hlink hsome hpri)
  case response =>
    exact fun ch r host ev pages s hrun hparked hlink =>
      ⟨congrArg Host.Outcome.next (pageResponse_success hrun hparked hlink host ev),
        congrArg Host.Outcome.next (pageResponse_failure hrun hparked hlink host ev)⟩
  case timeout => exact fun ch r pages s hrun hparked => congrArg Host.Outcome.next (pageTimeout_parked hrun hparked)
  case link => exact fun ch s => ⟨rfl, rfl, rfl, rfl, rfl, rfl⟩
  case abort => exact fun ch r s hrun hidle => hostAbort_running hrun hidle
  case invalidation => exact fun s => ⟨rfl, rfl⟩

/-- A memory that lists a byte of the first completion entry twice: writing zero there strikes out the first entry alone. -/
def twiceListed : Mem := [(hostAt + 6, 1), (hostAt + 6, 2)]

/-- Refutes O19: the last clause holds for a memory in canonical form (`Mem.read_write`) but is stated for every state. Over
`twiceListed` the entry of host channel 8 reads 2 in byte 6 where it was written zero. -/
theorem not_dma_descriptors_run_to_completion : ¬ Obligations.Dma_descriptors_run_to_completion := by
  intro h
  obtain ⟨-, -, -, -, hend⟩ := h
  obtain ⟨-, -, -, hentry, -⟩ := hend 8 [] 0 0 false { State.reset with mem := twiceListed }
  exact absurd (hentry (by decide)) (by decide +kernel)

end Sys2Proof.Machine
end

section
/-!
SUPPORT. Requests of the host to BAR0: those that reach a register, and those that are refused before it.
-/

namespace Sys2Proof.Machine
open Sys2Proof

section Served

variable {off : BitVec 21} {val : BitVec 64} {s : State} (h : BarOk s)
include h

/-! ### REGISTER_WRITE where BAR0 is served (R4, R6, R420) -/

theorem registerWrite_served (wide : Bool) : registerWrite off val wide s =
    if off.toNat % (if wide then 8 else 4) ≠ 0 then s.hlError 3
    else if !inGroup off.toNat then (s.emit (.unsupported false)).hlError 4
    else if !wide then write32 off.toNat (val.setWidth 32) s
    else if off.toNat = 0x2028 then doorbellWrite val s
    else write32 (off.toNat + 4) (BitVec.ofNat 32 (val.toNat / 2 ^ 32)) (write32 off.toNat (val.setWidth 32) s) := by
  have hup : ¬(off.toNat = 8 ∧ (s.boot.state = .failed ∨ s.boot.state = .bootRom)) := by
    rintro ⟨-, hdown⟩
    rcases barOk_up h with hstate | hstate <;> simp [hstate] at hdown
  unfold registerWrite
  rw [if_neg hup, barReq_ok h]

theorem registerWrite_misaligned {wide : Bool} (ho : off.toNat % (if wide then 8 else 4) ≠ 0) :
    registerWrite off val wide s = s.hlError 3 := by
  rw [registerWrite_served h, if_pos ho]

theorem registerWrite_noGroup {wide : Bool} (ho : off.toNat % (if wide then 8 else 4) = 0) (hgroup : inGroup off.toNat = false) :
    registerWrite off val wide s = (s.emit (.unsupported false)).hlError 4 := by
  rw [registerWrite_served h, if_neg (not_not.2 ho), if_pos (by rw [hgroup]; rfl)]

theorem registerWrite_narrow (ho : off.toNat % 4 = 0) (hgroup : inGroup off.toNat = true) :
    registerWrite off val false s = write32 off.toNat (val.setWidth 32) s := by
  simp only [registerWrite_served h, hgroup, Bool.false_eq_true, if_false, Bool.not_true, Bool.not_false, if_true, if_neg (not_not.2 ho)]

theorem registerWrite_wide (ho : off.toNat % 8 = 0) (hgroup : inGroup off.toNat = true) (hdoorbell : off.toNat ≠ 0x2028) :
    registerWrite off val true s
      = write32 (off.toNat + 4) (BitVec.ofNat 32 (val.toNat / 2 ^ 32)) (write32 off.toNat (val.setWidth 32) s) := by
  simp only [registerWrite_served h, hgroup, Bool.false_eq_true, if_false, Bool.not_true, if_true, if_neg (not_not.2 ho), if_neg hdoorbell]

theorem registerWrite_doorbell : registerWrite 0x2028 val true s = doorbellWrite val s := registerWrite_served h true

end Served

/-! ### Requests that are refused (R345, R420) -/

/-- Where BAR0 is not served, or IDE is required and no stream is Secure, a write reaches no register. -/
theorem barReq_refused {s t : State} (h : s.barServed = false ∧ t = s.emit (.unsupported false)
      ∨ s.barServed = true ∧ s.host.ideRequired = true ∧ s.host.secure0 = false ∧ s.host.secure1 = false
        ∧ t = (s.emit (.unsupported false)).hlError 7) (f : State → State) : barReq false s f = t := by
  rcases h with ⟨hdown, rfl⟩ | ⟨hserved, hide, h0, h1, rfl⟩
  · exact if_pos (by rw [hdown]; rfl)
  · simp only [barReq, hserved, hide, h0, h1, Bool.not_true, Bool.or_self, Bool.not_false, Bool.and_self, Bool.false_eq_true,
      if_false, if_true]

/-- Settles O15: a request that is served acts as its register does, and one that is refused comes to the refusal. -/
theorem host_requests_to_registers : Obligations.Host_requests_to_registers := by
  unfold Obligations.Host_requests_to_registers
  refine ⟨?narrow, ?wide, ?doorbell, ?misaligned, ?noGroup, ?lock, ?size, ?unsupported, ?unmask, ?refused⟩
  case narrow => exact fun off val s h ho hgroup => congrArg Host.Outcome.next (registerWrite_narrow h ho hgroup)
  case wide =>
    exact fun off val s h ho hgroup hdoorbell => congrArg Host.Outcome.next (registerWrite_wide h ho hgroup hdoorbell)
  case doorbell => exact fun val s h => congrArg Host.Outcome.next (registerWrite_doorbell h)
  case misaligned => exact fun off val w s h ho => congrArg Host.Outcome.next (registerWrite_misaligned h ho)
  case noGroup => exact fun off val w s h ho hgroup => congrArg Host.Outcome.next (registerWrite_noGroup h ho hgroup)
  case lock => exact fun s h => congrArg Host.Outcome.next (barReq_ok h)
  case size =>
    exact fun len s h => ⟨congrArg Host.Outcome.next (barReq_ok h), congrArg Host.Outcome.next (barReq_ok h)⟩
  case unsupported => exact fun read s h => congrArg Host.Outcome.next (barReq_ok h)
  case unmask =>
    intro v s h
    refine congrArg Host.Outcome.next ((barReq_ok h).trans ?_)
    dsimp only
    split <;> rfl
  case refused =>
    intro s t h
    have hbar (f : State → State) : (.next (barReq false s f) : Host.Outcome State Fault Refusal) = .next t :=
      congrArg Host.Outcome.next (barReq_refused h f)
    refine ⟨hbar _, fun _ => hbar _, fun _ => hbar _, hbar _, fun _ _ => ⟨hbar _, hbar _⟩,
      fun v => congrArg Host.Outcome.next (by unfold slotMark; exact barReq_refused h _),
      fun _ _ => ⟨hbar _, hbar _⟩, fun off val w hoff => ?_⟩
    have hwrite : registerWrite off val w s = t := by
      unfold registerWrite
      rw [if_neg fun ho => hoff ho.1, barReq_refused h]
    exact congrArg Host.Outcome.next hwrite

end Sys2Proof.Machine
end

section
/-!
SUPPORT. Configuration, colophon, module, security and power commands by what they run to, and long commands leaf by leaf.
-/

namespace Sys2Proof.Machine
open Sys2Proof

/-- A served long command answers with what it ran to in its output buffer, where that holds it. -/
theorem longCmd_repliesOut {code : Nat} {early : Bool} {c : Cmd} {s u : State} {lenOk : Nat → Bool} {out : Bytes}
    {snap : State → Bytes} {run : Cmd → Bytes → State → CmdOut} (h : ServedLong early c s) (hl : lenOk c.params.length = true)
    (hrun : run c (snap (s.takeCmd c.len)) (s.takeCmd c.len) = { st := u, outb := out }) (hout : out.length ≤ c.obLen.toNat) :
    longCmd code early lenOk snap run c s = replyOut code c 0 out [] u := by
  rw [longCmd_served h hl, hrun, finish_replyOut _ _ _ _ hout rfl rfl]

section Runs

variable {c : Cmd} {s : State} {snap : Bytes}

/-! ### SLOT_CONFIG, FH_CONFIG and SL_CONFIG (R287, R315, R375) -/

theorem doSlotConfig_badComplement (hcpl : (chunks 512 c.params).all (fun x => cplAt x 0 256) = false) :
    doSlotConfig c snap s = .fail s 5 :=
  if_pos (by rw [hcpl]; rfl)

theorem doSlotConfig_standby (hcpl : (chunks 512 c.params).all (fun x => cplAt x 0 256) = true) (hpower : s.power.state = .standby)
    (hactive : (chunks 512 c.params).any (fun x => fld x 4 1 == 1) = true) : doSlotConfig c snap s = .fail s 9 := by
  unfold doSlotConfig
  rw [if_neg (by rw [hcpl]; decide), if_pos ⟨hpower, hactive⟩]

/-- The records of SLOT_CONFIG taken in order, from the pool's image. -/
def slotRecords (c : Cmd) (s : State) : SlotAcc :=
  ((chunks 512 c.params).zip (List.range (chunks 512 c.params).length)).foldl (fun a p => takeCell s a p.2 (p.1.take 256))
    { img := s.cfg.poolCells, rep := [], applied := 0, asked := [] }

/-- The cells asked to be placed here that the checks do not let be placed. -/
def SlotAcc.lost (a : SlotAcc) : List Nat :=
  a.asked.filter fun k => match tget? a.img k with | some x => !(asCell x).active | none => true

/-- Those placed on a cluster without engines. -/
def SlotAcc.bare (s : State) (a : SlotAcc) : List Nat :=
  a.asked.filter fun k => match tget? a.img k with | some x => (asCell x).active && enginesFor s x == 0 | none => false

theorem doSlotConfig_takes (hcpl : (chunks 512 c.params).all (fun x => cplAt x 0 256) = true)
    (hpower : ¬(s.power.state = .standby ∧ (chunks 512 c.params).any (fun x => fld x 4 1 == 1) = true)) :
    doSlotConfig c snap s =
      { st := ((slotRecords c s).bare s).foldl (fun s k => s.event 0x05 k (toLE 4 k ++ toLE 4 0))
          ((slotRecords c s).lost.foldl (fun s k => s.event 0x05 k (toLE 4 k ++ toLE 4 1))
            (applyCells s (slotRecords c s).img).spineChanged)
        body := join8 [(slotRecords c s).applied, (slotRecords c s).lost.length]
        rep := (slotRecords c s).rep } := by
  unfold doSlotConfig
  rw [if_neg (by rw [hcpl]; decide), if_neg hpower]
  rfl

theorem doFhConfig_badComplement (hcpl : cplAt c.params 0 296 = false ∨ cplAt c.params 592 296 = false) :
    doFhConfig c s = .fail s 5 :=
  if_pos (by simpa using hcpl)

theorem doFhConfig_takes {a b : Bytes} {ra rb : List Rep} (hcpl0 : cplAt c.params 0 296 = true) (hcpl1 : cplAt c.params 592 296 = true)
    (ha : checkFields 0 quadFields (slice c.params 0 296) = (a, ra))
    (hb : checkFields 1 quadFields (slice c.params 592 296) = (b, rb)) :
    doFhConfig c s =
      { st := applyQuad (applyQuad s 0 a) 1 b
        body := join8 ((List.range 8).flatMap fun p =>
          [((applyQuad (applyQuad s 0 a) 1 b).port p).up.toNat, ((applyQuad (applyQuad s 0 a) 1 b).port p).rate])
        rep := ra ++ rb } := by
  have hgood : ¬(!cplAt c.params 0 296 || !cplAt c.params 592 296) = true := by rw [hcpl0, hcpl1]; decide
  unfold doFhConfig
  rw [if_neg hgood, ha, hb]

theorem doSlConfig_badComplement (hcpl : (List.range 4).all (fun l => cplAt c.params (48 * l) 24) = false) :
    doSlConfig c s = .fail s 5 :=
  if_pos (by rw [hcpl]; rfl)

theorem doSlConfig_takes {rs : List (Fin 4 × Bytes × List Rep)}
    (hcpl : (List.range 4).all (fun l => cplAt c.params (48 * l) 24) = true)
    (hrs : ((List.finRange 4).map fun (l : Fin 4) => (l, checkFields l.val slFields (slice c.params (48 * l.val) 24))) = rs) :
    doSlConfig c s = { st := (rs.foldl (fun s p => applyLink s p.1 p.2.1) s).relink, rep := rs.flatMap fun p => p.2.2 } := by
  unfold doSlConfig
  rw [if_neg (by rw [hcpl]; decide), hrs]

/-! ### Colophon and module commands (R284, R285, R309, R310) -/

theorem doColophonSeal_seals (hopen : s.colo.openRecs ≠ []) (hroom : s.colo.full = false) :
    doColophonSeal c s = { st := s.setColo Colophon.seal, body := join8 [s.colo.openNumber] } := by
  simp only [doColophonSeal, List.isEmpty_eq_false_iff.2 hopen, hroom, Bool.false_eq_true, if_false]

theorem doColophonSeal_empty (hopen : s.colo.openRecs = []) : doColophonSeal c s = .fail s 9 :=
  if_pos (by rw [hopen]; rfl)

theorem doColophonSeal_full (hopen : s.colo.openRecs ≠ []) (hfull : s.colo.full = true) : doColophonSeal c s = .fail s 8 := by
  simp only [doColophonSeal, List.isEmpty_eq_false_iff.2 hopen, hfull, Bool.false_eq_true, if_false, if_true]

theorem doModulePolicy_badComplement (hcpl : cplAt c.params 0 (c.params.length / 2) = false) : doModulePolicy c s = .fail s 5 :=
  if_pos (by rw [hcpl]; rfl)

theorem doModulePolicy_takes {h : Bytes} {rep : List Rep} (hcpl : cplAt c.params 0 (c.params.length / 2) = true)
    (hh : checkFields 0 policyFields (slice c.params 0 40) = (h, rep)) :
    doModulePolicy c s =
      { st := { s with
          fe := { s.fe with
            quarantineMode := ⟨par8 h 0 % 3, by omega⟩
            allow := (List.range (min (par8 h 4) ((c.params.length / 2 - 40) / 40))).map fun i =>
              ((slice c.params (40 + 40 * i) 40).take 3, slice (slice c.params (40 + 40 * i) 40) 3 16,
                slice (slice c.params (40 + 40 * i) 40) 19 16)
            ratedHours := par8 h 1
            driftEol := par8 h 2
            lifeWarn := par8 h 3 } }
        rep := rep } := by
  unfold doModulePolicy
  simp only [hcpl, hh, Bool.not_true, Bool.false_eq_true, if_false]
  rfl

theorem doModuleTable_saves (hdir : par8 c.params 0 = 0) :
    doModuleTable c s = { st := s, outb := s.fe.modules.flatMap moduleRecord } :=
  if_pos hdir

theorem doModuleTable_restores (hdir : par8 c.params 0 ≠ 0) :
    doModuleTable c s = { st := ((List.range (min 32 ((c.params.length - 8) / 32))).foldl
      (fun s i => restoreModule s (slice c.params (8 + 32 * i) 32)) s) } :=
  if_neg hdir

/-! ### FW_STAGE and KEY_IMPORT (R389, R395, R396) -/

theorem doFwStage_locked (hlock : s.host.lock = true) : doFwStage c snap s = .fail s 0xA :=
  if_pos hlock

theorem doFwStage_refused {code : Nat} (hlock : s.host.lock = false)
    (hfault : bundleFault s.sec.fuses s.ddrBytes c.params = some code) :
    doFwStage c snap s = .fail s (if code = 0x14 then 0x21 else 0x20) code := by
  simp only [doFwStage, hlock, hfault, Bool.false_eq_true, if_false]

theorem doFwStage_takes (hlock : s.host.lock = false) (hfault : bundleFault s.sec.fuses s.ddrBytes c.params = none) :
    doFwStage c snap s =
      { st := { s with sec := { s.sec with
          flash := if s.boot.bootSlotB then { s.sec.flash with slotA := c.params, prefer := 0xA5A50000 }
            else { s.sec.flash with slotB := c.params, prefer := 0xA5A50001 } } }
        body := join8 [fld c.params 8 4, fld c.params 0x10 4] ++ digest256 (signedPart c.params) } := by
  simp only [doFwStage, hlock, hfault, Bool.false_eq_true, if_false]
  cases s.boot.bootSlotB <;> rfl

theorem doKeyImport_badBlob (hblob : blobOk c.params = false) : doKeyImport c s = .fail s 2 :=
  if_pos (by rw [hblob]; rfl)

section Blob

variable (hblob : blobOk c.params = true)
include hblob

theorem doKeyImport_owner (huse : fld c.params 0 1 = 0) : doKeyImport c s = importOwner c.params s := by
  simp only [doKeyImport, hblob, huse, Bool.not_true, Bool.false_eq_true, if_false, if_true]

theorem doKeyImport_cak (huse : fld c.params 0 1 = 1) : doKeyImport c s = importCak c.params s := by
  have hother : ¬fld c.params 0 1 = 0 := by omega
  simp only [doKeyImport, hblob, if_neg hother, Bool.not_true, Bool.false_eq_true, if_false]

end Blob

theorem importOwner_locked {b : Bytes} (h : s.sec.fuses.ownerRoot ≠ none ∨ s.host.lock = true) : importOwner b s = .fail s 0xA :=
  if_pos (by simpa [Option.isSome_iff_ne_none] using h)

section Owner

variable {b : Bytes} (hfree : s.sec.fuses.ownerRoot = none) (hlock : s.host.lock = false)
include hfree hlock

theorem importOwner_unsigned (hsigned : blobSigned b = false) : importOwner b s = .fail s 0x20 := by
  simp only [importOwner, hfree, hlock, hsigned, Option.isSome_none, Bool.or_self, Bool.not_false, Bool.false_eq_true, if_false,
    if_true]

theorem importOwner_takes (hsigned : blobSigned b = true) :
    importOwner b s = { st := { s with sec := { s.sec with
      fuses := { s.sec.fuses with ownerRoot := some (digest256 (slice b 0x4C8 1952)), lifecycle := 3 } } } } := by
  simp only [importOwner, hfree, hlock, hsigned, Option.isSome_none, Bool.or_self, Bool.not_true, Bool.false_eq_true, if_false]
  rfl

end Owner

theorem importCak_noRoot {b : Bytes} (hfree : s.sec.fuses.ownerRoot = none) : importCak b s = .fail s 9 := by
  simp only [importCak, hfree]

theorem importCak_takes {b root key : Bytes} {p : Fin 8} (hroot : s.sec.fuses.ownerRoot = some root)
    (hsigner : digest256 (slice b 0x4C8 1952) = root) (hsigned : blobSigned b = true) (hkem : slice b 0x28 32 = kemKeyId)
    (hkey : unwrapKey (slice b 0x48 1088) (slice b 0x488 12) (slice b 0x498 32) (slice b 0x4B8 16) (slice b 0 0x30) = some key)
    (hp : fld b 1 1 = p.val) :
    importCak b s = { st := { s with fe := { s.fe with ports := vmod s.fe.ports p fun x =>
      { x with cak := slice key 0 (fld b 2 1), cakName := slice b 8 (fld b 3 1) } } } } := by
  have hport : fld b 1 1 < 8 := hp ▸ p.isLt
  have hfin : (⟨fld b 1 1, hport⟩ : Fin 8) = p := Fin.ext hp
  simp only [importCak, hroot, hsigner, hsigned, hkem, hkey, ne_eq, not_true, if_false, Bool.not_true, Bool.false_eq_true,
    dif_pos hport, hfin]
  rfl

/-! ### POWER_STATE (R407, R418) -/

theorem doPowerState_badComplement (hcpl : cplAt c.params 0 16 = false) : doPowerState c snap s = .fail s 5 :=
  if_pos (by rw [hcpl]; rfl)

section Power

variable {r : Bytes} {rep : List Rep} (hcpl : cplAt c.params 0 16 = true)
  (hr : checkFields 0 powerFields (slice c.params 0 16) = (r, rep))
include hcpl hr

theorem doPowerState_standby (hstandby : par8 r 0 = 1) (hquiet : s.quireLive = false)
    (hunplaced : s.cfg.cells.any (fun p => p.2.placed || p.2.waitFull) = false) :
    doPowerState c snap s =
      { st := s.lanesDown.setPower fun p => { setFloor (par8 r 1) p with
          state := .standby, pllStandby := [0, 1],
          gated := ((List.range 19).map (129 + ·)) ++ p.gated.filter (!((List.range 19).map (129 + ·)).contains ·) }
        rep := rep } := by
  unfold doPowerState
  simp only [hcpl, hr, hstandby, hquiet, hunplaced, Bool.not_true, Bool.or_self, Bool.false_eq_true, if_false, if_true]

theorem doPowerState_busy (hstandby : par8 r 0 = 1)
    (hbusy : s.quireLive = true ∨ s.cfg.cells.any (fun p => p.2.placed || p.2.waitFull) = true) :
    doPowerState c snap s = .fail s 9 := by
  have hrefused : (s.quireLive || s.cfg.cells.any fun p => p.2.placed || p.2.waitFull) = true := Bool.or_eq_true_iff.2 hbusy
  unfold doPowerState
  simp only [hcpl, hr, hstandby, hrefused, Bool.not_true, Bool.false_eq_true, if_false, if_true]

theorem doPowerState_active (hactive : par8 r 0 ≠ 1) :
    doPowerState c snap s =
      { st := if s.power.state = .standby then
            (((s.setPower (setFloor (par8 r 1))).setPower fun p => { p with state := .quiet, pllStandby := [] }).autoPower).relink
          else s.setPower (setFloor (par8 r 1))
        rep := rep } := by
  unfold doPowerState
  simp only [hcpl, hr, if_neg hactive, Bool.not_true, Bool.false_eq_true, if_false]
  split <;> rfl

end Power

end Runs

/-- Settles O22: each served command answers with what it ran to, by its records. -/
theorem cells_ports_and_links_are_configured : Obligations.Cells_ports_and_links_are_configured := by
  unfold Obligations.Cells_ports_and_links_are_configured
  refine ⟨?slots, ?standby, ?slotsBroken, ?fh, ?fhBroken, ?sl, ?slBroken⟩
  case slots =>
    rintro c s _ _ _ h hl hcpl hpower rfl rfl rfl
    have hrun := doSlotConfig_takes (s := s.takeCmd c.len) (snap := []) hcpl hpower
    exact congrArg Host.Outcome.next (longCmd_replies h hl hrun)
  case standby =>
    exact fun c s h hl hcpl hpower hactive =>
      congrArg Host.Outcome.next (longCmd_replies h hl (doSlotConfig_standby hcpl hpower hactive))
  case slotsBroken =>
    exact fun c s h hl hcpl => congrArg Host.Outcome.next (longCmd_replies h hl (doSlotConfig_badComplement hcpl))
  case fh =>
    rintro c s a b ra rb _ h hl hcpl0 hcpl1 ha hb rfl
    exact congrArg Host.Outcome.next (shortCmd_replies h hl (doFhConfig_takes hcpl0 hcpl1 ha hb))
  case fhBroken =>
    exact fun c s h hl hcpl => congrArg Host.Outcome.next (shortCmd_replies h hl (doFhConfig_badComplement hcpl))
  case sl =>
    exact fun c s rs h hl hcpl hrs => congrArg Host.Outcome.next (shortCmd_replies h hl (doSlConfig_takes hcpl hrs))
  case slBroken =>
    exact fun c s h hl hcpl => congrArg Host.Outcome.next (shortCmd_replies h hl (doSlConfig_badComplement hcpl))

/-- Settles O25. -/
theorem colophon_and_module_commands : Obligations.Colophon_and_module_commands := by
  unfold Obligations.Colophon_and_module_commands
  refine ⟨?seals, ?sealEmpty, ?sealFull, ?collect, ?policy, ?policyBroken, ?save, ?restore⟩
  case seals =>
    intro c s h hl hopen hroom
    have hrun := doColophonSeal_seals (c := c) (s := s.takeCmd c.len) hopen hroom
    exact congrArg Host.Outcome.next (shortCmd_replies h hl hrun)
  case sealEmpty =>
    exact fun c s h hl hopen => congrArg Host.Outcome.next (shortCmd_replies h hl (doColophonSeal_empty hopen))
  case sealFull =>
    exact fun c s h hl hopen hfull => congrArg Host.Outcome.next (shortCmd_replies h hl (doColophonSeal_full hopen hfull))
  case collect =>
    rintro c s _ h hl rfl hfits
    exact congrArg Host.Outcome.next (longCmd_repliesOut (run := doColophonCollect) h hl rfl hfits)
  case policy =>
    intro c s b rep h hmin hmax hcpl hb
    have hrun := doModulePolicy_takes (s := s.takeCmd c.len) hcpl hb
    exact congrArg Host.Outcome.next (shortCmd_replies h (decide_eq_true ⟨hmin, hmax⟩) hrun)
  case policyBroken =>
    exact fun c s h hmin hmax hcpl => congrArg Host.Outcome.next
      (shortCmd_replies h (decide_eq_true ⟨hmin, hmax⟩) (doModulePolicy_badComplement hcpl))
  case save =>
    exact fun c s h hmin hmax hdir hfits => congrArg Host.Outcome.next
      (shortCmd_repliesOut h (decide_eq_true ⟨hmin, hmax⟩) (doModuleTable_saves hdir) hfits)
  case restore =>
    exact fun c s h hmin hmax hdir => congrArg Host.Outcome.next
      (shortCmd_replies h (decide_eq_true ⟨hmin, hmax⟩) (doModuleTable_restores hdir))

/-- Settles O26. -/
theorem security_commands : Obligations.Security_commands := by
  unfold Obligations.Security_commands
  refine ⟨?attest, ?locked, ?refused, ?staged, ?owner, ?ownerLocked, ?ownerUnsigned, ?cakNoRoot, ?cak, ?badBlob⟩
  case attest =>
    exact fun c s h hl hfits => congrArg Host.Outcome.next (longCmd_repliesOut (run := doAttest) h hl rfl hfits)
  case locked =>
    exact fun c s h hmin hmax hlock => congrArg Host.Outcome.next
      (longCmd_replies h (decide_eq_true ⟨hmin, hmax⟩) (doFwStage_locked hlock))
  case refused =>
    exact fun c s code h hmin hmax hlock hfault => congrArg Host.Outcome.next
      (longCmd_replies h (decide_eq_true ⟨hmin, hmax⟩) (doFwStage_refused hlock hfault))
  case staged =>
    intro c s h hmin hmax hlock hfault
    have hrun := doFwStage_takes (s := s.takeCmd c.len) (snap := []) hlock hfault
    exact congrArg Host.Outcome.next (longCmd_replies h (decide_eq_true ⟨hmin, hmax⟩) hrun)
  case owner =>
    intro c s h hlen hblob huse hfree hlock hsigned
    have hrun := (doKeyImport_owner (s := s.takeCmd c.len) hblob huse).trans (importOwner_takes hfree hlock hsigned)
    exact congrArg Host.Outcome.next (shortCmd_replies h (beq_iff_eq.2 hlen) hrun)
  case ownerLocked =>
    exact fun c s h hlen hblob huse hlock => congrArg Host.Outcome.next
      (shortCmd_replies h (beq_iff_eq.2 hlen) ((doKeyImport_owner hblob huse).trans (importOwner_locked hlock)))
  case ownerUnsigned =>
    exact fun c s h hlen hblob huse hfree hlock hsigned => congrArg Host.Outcome.next
      (shortCmd_replies h (beq_iff_eq.2 hlen) ((doKeyImport_owner hblob huse).trans (importOwner_unsigned hfree hlock hsigned)))
  case cakNoRoot =>
    exact fun c s h hlen hblob huse hfree => congrArg Host.Outcome.next
      (shortCmd_replies h (beq_iff_eq.2 hlen) ((doKeyImport_cak hblob huse).trans (importCak_noRoot hfree)))
  case cak =>
    intro c s root key p h hlen hblob huse hroot hsigner hsigned hkem hkey hp
    have hrun := (doKeyImport_cak (s := s.takeCmd c.len) hblob huse).trans (importCak_takes hroot hsigner hsigned hkem hkey hp)
    exact congrArg Host.Outcome.next (shortCmd_replies h (beq_iff_eq.2 hlen) hrun)
  case badBlob =>
    exact fun c s h hlen hblob => congrArg Host.Outcome.next
      (shortCmd_replies h (beq_iff_eq.2 hlen) (doKeyImport_badBlob hblob))

/-- Settles O27. -/
theorem power_states_change : Obligations.Power_states_change := by
  unfold Obligations.Power_states_change
  refine ⟨?standby, ?busy, ?active, ?broken, ?d3hot, ?d0⟩
  case standby =>
    intro c s r rep h hl hcpl hr hstandby hquiet hunplaced
    have hrun := doPowerState_standby (s := s.takeCmd c.len) (snap := []) hcpl hr hstandby hquiet hunplaced
    exact congrArg Host.Outcome.next (longCmd_replies h hl hrun)
  case busy =>
    intro c s r rep h hl hcpl hr hstandby hbusy
    have hrun := doPowerState_busy (s := s.takeCmd c.len) (snap := []) hcpl hr hstandby hbusy
    exact congrArg Host.Outcome.next (longCmd_replies h hl hrun)
  case active =>
    intro c s r rep h hl hcpl hr hactive
    have hrun := doPowerState_active (s := s.takeCmd c.len) (snap := []) hcpl hr hactive
    exact congrArg Host.Outcome.next (longCmd_replies h hl hrun)
  case broken =>
    exact fun c s h hl hcpl => congrArg Host.Outcome.next (longCmd_replies h hl (doPowerState_badComplement hcpl))
  case d3hot =>
    exact fun s hpower hboot => congrArg Host.Outcome.next (if_neg (not_or.2 ⟨hpower, hboot⟩))
  case d0 => exact fun s hpower => congrArg Host.Outcome.next (if_pos hpower)

/-! ### Long commands leaf by leaf (R369, R370) -/

section Leaves

variable {s : State} {j : Job} {rest : List Job} (hup : s.busumUp = true) (hpower : s.power.state ≠ .aon)
  (hq : s.mbx.longQ = j :: rest)
include hup hpower hq

theorem longCommandLeaf_running : longCommandLeaf s =
    if (j.begun s).leaves ≤ 1 then
      serveWaiting (finish (s.setMbx fun m => { m with longQ := rest }) (j.begun s).code (j.begun s).cmd
        (runLong (j.begun s).code (j.begun s).cmd (j.begun s).snap (s.setMbx fun m => { m with longQ := rest })))
    else s.setMbx fun m => { m with longQ := { j.begun s with leaves := (j.begun s).leaves - 1 } :: rest } := by
  have hserved : (!s.busumUp || s.power.state == .aon) = false := by simp [hup, hpower]
  simp only [longCommandLeaf, hserved, hq, Bool.false_eq_true, if_false]

end Leaves

/-- The snapshot of a first leaf changes neither the command nor its count. -/
theorem begun_keeps (j : Job) (s : State) :
    (j.begun s).leaves = j.leaves ∧ (j.begun s).code = j.code ∧ (j.begun s).cmd = j.cmd := by
  unfold Job.begun
  split <;> exact ⟨rfl, rfl, rfl⟩

section Arrivals

variable {s : State} {c : Cmd} {code : Nat} {lenOk : Nat → Bool} (hread : s.canRead s.mbx.cmdq c.len.toNat = true)
  (hmin : 3 ≤ c.len.toNat) (hmax : c.len.toNat ≤ 257) (hready : s.boot.state = .ready) (hxfer : c.xferFail = none)
  (hl : lenOk c.params.length = true)
include hmin hmax hready hxfer hl

theorem cmdRefusal_ready : cmdRefusal s false lenOk c = none := by
  have hlen : ¬(c.len.toNat < 3 ∨ 257 < c.len.toNat) := by omega
  simp [cmdRefusal, hlen, hready, hl, hxfer]

include hread

theorem longCmd_begins {snap : State → Bytes} {run : Cmd → Bytes → State → CmdOut} (hfirst : s.mbx.longQ = [])
    (hleaves : 2 ≤ c.leaves) : longCmd code false lenOk snap run c s
      = (s.takeCmd c.len).setMbx fun m => { m with longQ := [⟨code, c, c.leaves - 1, snap (s.takeCmd c.len)⟩] } := by
  have hq : (s.takeCmd c.len).mbx.longQ = [] := hfirst
  have hmore : ¬c.leaves ≤ 1 := by omega
  simp only [longCmd, hread, cmdRefusal_ready hmin hmax hready hxfer hl, hq, if_neg hmore, List.isEmpty_nil, if_true]

theorem longCmd_queues {snap : State → Bytes} {run : Cmd → Bytes → State → CmdOut} (hrunning : s.mbx.longQ ≠ []) :
    longCmd code false lenOk snap run c s
      = (s.takeCmd c.len).setMbx fun m => { m with longQ := m.longQ ++ [⟨code, c, c.leaves, []⟩] } := by
  have hq : (s.takeCmd c.len).mbx.longQ.isEmpty = false := List.isEmpty_eq_false_iff.2 hrunning
  simp only [longCmd, hread, cmdRefusal_ready hmin hmax hready hxfer hl, hq, Bool.false_eq_true, if_false, if_true]

theorem shortCmd_waits {run : Cmd → State → CmdOut} (hbusy : s.targetBusy code c = true) :
    shortCmd code false lenOk run c s
      = (s.takeCmd c.len).setMbx fun m => { m with waitQ := m.waitQ ++ [⟨code, c, 1, []⟩] } := by
  have hheld : (s.takeCmd c.len).targetBusy code c = true := hbusy
  simp only [shortCmd, hread, cmdRefusal_ready hmin hmax hready hxfer hl, hheld, if_true]

end Arrivals

/-- Settles O28. -/
theorem long_commands_run_leaf_by_leaf : Obligations.Long_commands_run_leaf_by_leaf := by
  refine ⟨?counts, ?commits, ?begins, ?queues, ?waits⟩
  case counts =>
    intro s j rest hup hpower hq hleaves
    obtain ⟨hcount, -, -⟩ := begun_keeps j s
    refine congrArg Host.Outcome.next ((longCommandLeaf_running hup hpower hq).trans ?_)
    rw [hcount, if_neg (by omega)]
    rfl
  case commits =>
    intro s j rest hup hpower hq hleaves
    obtain ⟨hcount, hcode, hcmd⟩ := begun_keeps j s
    refine congrArg Host.Outcome.next ((longCommandLeaf_running hup hpower hq).trans ?_)
    rw [hcount, hcode, hcmd, if_pos hleaves]
    rfl
  case begins =>
    exact fun s c hread hmin hmax hready hxfer hl hfirst hleaves =>
      congrArg Host.Outcome.next (longCmd_begins hread hmin hmax hready hxfer hl hfirst hleaves)
  case queues =>
    exact fun s c hread hmin hmax hready hxfer hl hrunning =>
      congrArg Host.Outcome.next (longCmd_queues hread hmin hmax hready hxfer hl hrunning)
  case waits =>
    exact fun s c hread hmin hmax hready hxfer hl hbusy =>
      congrArg Host.Outcome.next (shortCmd_waits hread hmin hmax hready hxfer hl hbusy)

end Sys2Proof.Machine
end

section
/-!
SUPPORT. Answers: what a response leaves as it is, and what stands in RSPQ and its index block after it.
-/

namespace Sys2Proof.Machine
open Sys2Proof

/-! ### Changes on the host's side -/

/-- A change of the host link, the mailbox, host memory and what is sent; every byte of the part's own memory stays. -/
structure HostSide (s t : State) : Prop where
  rest : t = { s with host := t.host, mbx := t.mbx, mem := t.mem, out := t.out }
  mem : s.mem.wf = true → t.mem.wf = true ∧ ∀ a < hostAt, t.mem.byte a = s.mem.byte a

section Answering

variable {s t u : State}

theorem HostSide.refl (s : State) : HostSide s s := ⟨rfl, fun h => ⟨h, fun _ _ => rfl⟩⟩

theorem HostSide.trans (h : HostSide s t) (k : HostSide t u) : HostSide s u := by
  refine ⟨?_, fun hs => ?_⟩
  · rw [k.rest, h.rest]
  · obtain ⟨hwf, hbytes⟩ := h.mem hs
    obtain ⟨kwf, kbytes⟩ := k.mem hwf
    exact ⟨kwf, fun a ha => (kbytes a ha).trans (hbytes a ha)⟩

theorem HostSide.setMbx (h : HostSide s t) (f) : HostSide s (t.setMbx f) :=
  h.trans ⟨rfl, fun hs => ⟨hs, fun _ _ => rfl⟩⟩

theorem HostSide.setHost (h : HostSide s t) (f) : HostSide s (t.setHost f) :=
  h.trans ⟨rfl, fun hs => ⟨hs, fun _ _ => rfl⟩⟩

theorem HostSide.emit (h : HostSide s t) (o) : HostSide s (t.emit o) :=
  h.trans ⟨rfl, fun hs => ⟨hs, fun _ _ => rfl⟩⟩

theorem HostSide.hostWr (h : HostSide s t) (a b) : HostSide s (t.hostWr a b) :=
  h.trans ⟨rfl, fun hs => ⟨Mem.write_wf _ _ _ hs, fun x hx => Mem.byte_write_other b t.mem (hostAt + a) x (.inl (by omega)) hs⟩⟩

theorem HostSide.hostWrAll (h : HostSide s t) (l) : HostSide s (t.hostWrAll l) := by
  induction l generalizing t with
  | nil => exact h
  | cons p l ih => exact ih (h.hostWr p.1 p.2)

theorem HostSide.msix (h : HostSide s t) (v) : HostSide s (t.msix v) := by
  unfold State.msix
  split
  · split
    · exact h.setHost _
    · exact h.emit _
  · exact h

theorem HostSide.drainRsp (h : HostSide s t) : HostSide s t.drainRsp := by
  unfold State.drainRsp
  split
  · dsimp only
    split
    · exact h
    · exact (((h.hostWrAll _).setMbx _).hostWr _ _).setHost _ |>.msix _
  · exact h

theorem HostSide.report (h : HostSide s t) (code tag rep) : HostSide s (t.report code tag rep) := by
  induction rep generalizing t with
  | nil => exact h
  | cons r rep ih =>
    refine ih (HostSide.setMbx ?_ _)
    split
    · exact h.hostWr _ _
    · exact h

theorem reply_hostSide (s : State) (code c status detail body rep) : HostSide s (reply code c status detail body rep s) :=
  ((HostSide.refl s).report _ _ _ |>.setMbx _).drainRsp

/-! ### The response ring (R361, R362) -/

theorem mul_ceilDiv_add_mod (n : Nat) : 16 * ceilDiv n 16 = n + (16 - n % 16) % 16 := by
  unfold ceilDiv
  omega

theorem padTo_length (b : Bytes) : (padTo 16 b).length = 16 * ceilDiv b.length 16 := by
  simp [padTo, zeros, mul_ceilDiv_add_mod]

theorem recHead_length (typ tag seq len : Nat) : (recHead typ tag seq len).length = 16 := by
  simp [recHead, cpl, toLE_length]

/-- A record with its head fills its units. -/
theorem record_length (typ tag seq len : Nat) (b : Bytes) :
    (recHead typ tag seq len ++ padTo 16 b).length = 16 * recUnits b := by
  rw [List.length_append, recHead_length, padTo_length, recUnits, Nat.mul_add]

/-- A record that fits before the ring's end goes to the next unit. -/
theorem Ring.put_fits {r : Ring} {o : OutRec} (hbase : r.base ≠ 0) (hroom : r.used + recUnits o.body ≤ r.size)
    (hend : r.prod.toNat % r.size + recUnits o.body ≤ r.size) :
    r.put o = some ({ r with prod := r.prod + BitVec.ofNat 32 (recUnits o.body), seq := r.seq + 1 },
      [(r.base + 16 * (r.prod.toNat % r.size), recHead o.typ o.tag r.seq.toNat (recUnits o.body) ++ padTo 16 o.body)]) := by
  have hpad : ¬r.prod.toNat % r.size + recUnits o.body > r.size := by omega
  simp [Ring.put, if_neg hpad, hbase, hroom]

/-- The body of a response (R366). -/
def responseBody (status detail first count outLen : Nat) (body : Bytes) : Bytes :=
  toLE 2 status ++ toLE 2 detail ++ toLE 4 first ++ toLE 2 count ++ toLE 2 0 ++ toLE 4 outLen ++ body

/-- The one response that waits is posted where the ring has room for it before its end. -/
theorem drainRsp_posts {o : OutRec} (hlink : s.linkOk = true) (hwait : s.mbx.rspWait = [o]) (hbase : s.mbx.rspq.base ≠ 0)
    (hroom : s.mbx.rspq.used + recUnits o.body ≤ s.mbx.rspq.size)
    (hend : s.mbx.rspq.prod.toNat % s.mbx.rspq.size + recUnits o.body ≤ s.mbx.rspq.size) :
    s.drainRsp = ((((s.hostWr (s.mbx.rspq.base + 16 * (s.mbx.rspq.prod.toNat % s.mbx.rspq.size))
        (recHead o.typ o.tag s.mbx.rspq.seq.toNat (recUnits o.body) ++ padTo 16 o.body)).setMbx fun m =>
          { m with
            rspq := { s.mbx.rspq with prod := s.mbx.rspq.prod + BitVec.ofNat 32 (recUnits o.body), seq := s.mbx.rspq.seq + 1 }
            rspWait := [] }).putIndex 0 (s.mbx.rspq.prod + BitVec.ofNat 32 (recUnits o.body))).setInt 2).msix s.mbx.rspVec := by
  have hall : s.mbx.rspq.putAll [o] = ({ s.mbx.rspq with
      prod := s.mbx.rspq.prod + BitVec.ofNat 32 (recUnits o.body), seq := s.mbx.rspq.seq + 1 },
      [(s.mbx.rspq.base + 16 * (s.mbx.rspq.prod.toNat % s.mbx.rspq.size),
        recHead o.typ o.tag s.mbx.rspq.seq.toNat (recUnits o.body) ++ padTo 16 o.body)], []) := by
    simp only [Ring.putAll, Ring.put_fits hbase hroom hend, List.append_nil]
  unfold State.drainRsp
  rw [if_pos hlink, hwait, hall]
  rfl

/-- A message leaves the mailbox, the memory and INT_STATUS as they are; one that is not masked goes out. -/
theorem msix_mem (s : State) (v : Nat) : (s.msix v).mem = s.mem := by
  unfold State.msix
  split_ifs <;> rfl

theorem msix_mbx (s : State) (v : Nat) : (s.msix v).mbx = s.mbx := by
  unfold State.msix
  split_ifs <;> rfl

theorem msix_intStatus (s : State) (v : Nat) : (s.msix v).host.intStatus = s.host.intStatus := by
  unfold State.msix
  split_ifs <;> rfl

theorem msix_out {v : Fin 64} {n : Nat} (hn : v.val = n) (h : (s.host.msix[v]).masked = false) :
    (s.msix n).out = .msix v.val :: s.out := by
  have hv : (s.host.msix[v.val]).masked = false := h
  simp [← hn, State.msix, hv, State.emit]

/-! ### Two strings that lie apart -/

theorem Mem.read_congr {m m' : Mem} : ∀ {n a : Nat}, (∀ x, a ≤ x → x < a + n → m.byte x = m'.byte x) → m.read a n = m'.read a n
  | 0, _, _ => rfl
  | n + 1, a, h => by
    have hrest : m.read (a + 1) n = m'.read (a + 1) n := Mem.read_congr fun x hx hx' => h x (by omega) (by omega)
    simp only [Mem.read, hrest, h a (le_refl a) (by omega)]

/-- A string written before another that lies apart reads back. -/
theorem Mem.read_write_apart {m : Mem} {a c : Nat} {b d : Bytes} (h : m.wf = true)
    (hapart : a + b.length ≤ c ∨ c + d.length ≤ a) : ((m.write a b).write c d).read a b.length = b := by
  exact (Mem.read_congr fun x hx hx' => Mem.byte_write_other d (m.write a b) c x (by omega) (Mem.write_wf b m a h)).trans
    (Mem.read_write b m a h)

/-- A response where none waits and RSPQ has room before its end (R361, R365). -/
theorem respond_posts {code tag status detail first count outLen : Nat} {body b : Bytes} (hlink : s.linkOk = true)
    (hwait : s.mbx.rspWait = []) (hb : b = responseBody status detail first count outLen body) (hbase : s.mbx.rspq.base ≠ 0)
    (hroom : s.mbx.rspq.used + recUnits b ≤ s.mbx.rspq.size)
    (hend : s.mbx.rspq.prod.toNat % s.mbx.rspq.size + recUnits b ≤ s.mbx.rspq.size) :
    s.respond code tag status detail first count outLen body
      = (((((s.setMbx fun m => { m with rspWait := [⟨code, tag, b⟩] }).hostWr
        (s.mbx.rspq.base + 16 * (s.mbx.rspq.prod.toNat % s.mbx.rspq.size))
        (recHead code tag s.mbx.rspq.seq.toNat (recUnits b) ++ padTo 16 b)).setMbx fun m =>
          { m with
            rspq := { s.mbx.rspq with prod := s.mbx.rspq.prod + BitVec.ofNat 32 (recUnits b), seq := s.mbx.rspq.seq + 1 }
            rspWait := [] }).putIndex 0 (s.mbx.rspq.prod + BitVec.ofNat 32 (recUnits b))).setInt 2).msix s.mbx.rspVec := by
  have hqueue : s.respond code tag status detail first count outLen body
      = (s.setMbx fun m => { m with rspWait := [⟨code, tag, b⟩] }).drainRsp := by
    rw [hb, State.respond]
    dsimp only [State.setMbx]
    rw [hwait]
    rfl
  exact hqueue.trans (drainRsp_posts (o := ⟨code, tag, b⟩) hlink rfl hbase hroom hend)

/-- What a posted record leaves: the record, then its count in the index block. -/
theorem posted_mem (s : State) (a v : Nat) (b : Bytes) (n : BitVec 32) (f) :
    (((((s.hostWr a b).setMbx f).putIndex 0 n).setInt 2).msix v).mem
      = (s.mem.write (hostAt + a) b).write (hostAt + (f s.mbx).idxLatched) (toLE 8 n.toNat) := by
  rw [msix_mem]
  rfl

theorem posted_apart {base prod size n idx : Nat} (hend : prod % size + n ≤ size)
    (hapart : base + 16 * size ≤ idx ∨ idx + 8 ≤ base) :
    hostAt + (base + 16 * (prod % size)) + 16 * n ≤ hostAt + idx ∨ hostAt + idx + 8 ≤ hostAt + (base + 16 * (prod % size)) := by
  omega

theorem read_write_count {m : Mem} (a n : Nat) (h : m.wf = true) : (m.write a (toLE 8 n)).read a 8 = toLE 8 n := by
  simpa only [toLE_length] using Mem.read_write (toLE 8 n) m a h

theorem drainRsp_of_linkDown (hlink : s.linkOk = false) : s.drainRsp = s := by
  unfold State.drainRsp
  rw [if_neg (by simp [hlink])]

theorem respond_waits {code tag status detail first count outLen : Nat} {body : Bytes} (hlink : s.linkOk = false) :
    s.respond code tag status detail first count outLen body
      = s.setMbx fun m => { m with rspWait := m.rspWait ++ [⟨code, tag, responseBody status detail first count outLen body⟩] } := by
  exact drainRsp_of_linkDown hlink

end Answering

/-- Settles O58: RSPQ takes the record and the index block its count, and a reply is a change of the host's side. -/
theorem answers_reach_the_response_ring : Obligations.Answers_reach_the_response_ring := by
  refine ⟨?posted, fun s code tag status detail first count outLen body hlink => respond_waits hlink, ?others⟩
  case posted =>
    intro s code tag status detail first count outLen body b t hwf hlink hwait hbase hb hroom hend hapart ht
    rw [respond_posts hlink hwait hb hbase hroom hend] at ht
    subst ht
    have hlen := record_length code tag.toNat s.mbx.rspq.seq.toNat (recUnits b) b
    refine ⟨?record, ?_, ?_, ?index, ?_, ?_, ?message⟩
    case record =>
      rw [← hlen, posted_mem]
      exact Mem.read_write_apart hwf (by rw [hlen, toLE_length]; exact posted_apart hend hapart)
    case index =>
      rw [posted_mem, msix_mbx]
      exact read_write_count _ _ (Mem.write_wf _ _ _ hwf)
    case message =>
      intro v hv hmask
      refine (msix_out hv ?_).trans rfl
      exact hmask
    · rw [msix_mbx]; rfl
    · rw [msix_mbx]; rfl
    · rw [msix_intStatus]
      simp [State.setInt, State.setHost]
    · rw [msix_mbx]; rfl
  case others =>
    rintro s t code c status detail body rep hwf rfl
    have hside := reply_hostSide s code c status detail body rep
    rw [hside.rest]
    exact ⟨rfl, rfl, rfl, rfl, rfl, rfl, rfl, rfl, rfl, rfl, rfl, rfl, rfl, rfl, rfl, rfl, (hside.mem hwf).2⟩

end Sys2Proof.Machine
end

section
/-!
SUPPORT. Complements: a record whose complement does not match fails its command before any field is read (R373).
-/

namespace Sys2Proof.Machine
open Sys2Proof

section Complements

variable {c : Cmd} {s : State}

theorem doPoolConfig_badComplement (hcpl : cplAt c.params 0 64 = false) : doPoolConfig c s = .fail s 5 :=
  if_pos (by simp [hcpl])

theorem doColophonStore_badComplement (hcpl : cplAt c.params 0 16 = false) : doColophonStore c s = .fail s 5 :=
  if_pos (by simp [hcpl])

end Complements

/-- A check that fails for one member fails for the list. -/
theorem all_false_of_mem {α : Type} {p : α → Bool} {l : List α} (h : ∃ x ∈ l, p x = false) : l.all p = false :=
  List.all_eq_false.mpr (h.imp fun _ ⟨hx, hp⟩ => ⟨hx, by simp [hp]⟩)

/-- Settles O54: each command's first test is of its complements. -/
theorem complements_are_checked_before_any_field : Obligations.Complements_are_checked_before_any_field := by
  refine ⟨?mbx, ?sched, ?slots, ?fronthaul, ?links, ?pool, ?harq, ?dma, ?window, ?adapt, ?store, ?policy, ?power, ?runs⟩
  case mbx => exact fun c s h hl hcpl => congrArg Host.Outcome.next (shortCmd_replies h hl (doMbxConfig_badComplement hcpl))
  case sched => exact fun c s h hl hcpl => congrArg Host.Outcome.next (shortCmd_replies h hl (doSchedConfig_badComplement hcpl))
  case slots =>
    exact fun c s h hl hcpl => congrArg Host.Outcome.next
      (longCmd_replies h hl (doSlotConfig_badComplement (all_false_of_mem hcpl)))
  case fronthaul => exact fun c s h hl hcpl => congrArg Host.Outcome.next (shortCmd_replies h hl (doFhConfig_badComplement hcpl))
  case links =>
    rintro c s h hl ⟨l, hlt, hcpl⟩
    exact congrArg Host.Outcome.next (shortCmd_replies h hl
      (doSlConfig_badComplement (all_false_of_mem ⟨l, List.mem_range.mpr hlt, hcpl⟩)))
  case pool => exact fun c s h hl hcpl => congrArg Host.Outcome.next (shortCmd_replies h hl (doPoolConfig_badComplement hcpl))
  case harq => exact fun c s h hl hcpl => congrArg Host.Outcome.next (shortCmd_replies h hl (doHarqConfig_badComplement hcpl))
  case dma => exact fun c s h hl hcpl => congrArg Host.Outcome.next (shortCmd_replies h hl (doDmaConfig_badComplement hcpl))
  case window =>
    exact fun c s h hl hcpl => congrArg Host.Outcome.next (shortCmd_replies h hl (doWindowCreate_badComplement hcpl))
  case adapt => exact fun c s h hl hcpl => congrArg Host.Outcome.next (shortCmd_replies h hl (doAdaptConfig_badComplement hcpl))
  case store =>
    exact fun c s h hl hcpl => congrArg Host.Outcome.next (shortCmd_replies h hl (doColophonStore_badComplement hcpl))
  case policy =>
    exact fun c s h hl hcpl => congrArg Host.Outcome.next (shortCmd_replies h hl (doModulePolicy_badComplement hcpl))
  case power => exact fun c s h hl hcpl => congrArg Host.Outcome.next (longCmd_replies h hl (doPowerState_badComplement hcpl))
  case runs =>
    exact fun c snap s => ⟨fun hcpl => doSlotConfig_badComplement (all_false_of_mem hcpl), fun hcpl => doPowerState_badComplement hcpl⟩

end Sys2Proof.Machine
end

section
/-!
SUPPORT. SPDM requests in and out of their turn (R393), and the host link's rise and fall (R345, R346).
-/

namespace Sys2Proof.Machine
open Sys2Proof

section Responder

variable {s : State}

theorem spdmServe_notServed {r : Bool} {f : State → State} (h : s.barServed = false) : spdmServe s r f = s := by
  simp [spdmServe, h]

/-- A measurement block by its number. -/
theorem getMeasurements_block {i : Nat} {nonce : Bytes} (hserved : s.barServed = true) (hagreed : s.sec.spdm.agreed = true)
    (hlow : 1 ≤ i) (hhigh : i ≤ 3) : exec (.getMeasurements i nonce) s = .next (spdmReply s 0x60 (measurement s i) nonce) := by
  refine congrArg Host.Outcome.next ((spdmServe_ok hserved hagreed).trans ?_)
  rw [if_neg (by omega), if_neg (by omega), if_pos hhigh]

theorem getMeasurements_beyond {i : Nat} {nonce : Bytes} (hserved : s.barServed = true) (hagreed : s.sec.spdm.agreed = true)
    (hlow : 3 < i) (hall : i ≠ 255) : exec (.getMeasurements i nonce) s = .next (spdmError s 1) := by
  refine congrArg Host.Outcome.next ((spdmServe_ok hserved hagreed).trans ?_)
  rw [if_neg (by omega), if_neg hall, if_neg (by omega)]

theorem finish_judged {n : BitVec 16} {hmac : Bytes} (hserved : s.barServed = true) (hsession : s.sec.spdm.session = some n)
    (hopen : s.sec.spdm.finished = false) :
    exec (.finish hmac) s = .next (if Config.finishOk n hmac then
        spdmReply (s.setSpdm fun p => { p with finished := true }) 0x65 [] hmac
      else spdmError (s.setSpdm fun p => { p with session := none }) 6) := by
  refine congrArg Host.Outcome.next ((spdmServe_ok hserved (by simp [hsession, hopen])).trans ?_)
  rw [hsession]

end Responder

/-- Settles O52: the responder serves a request in its turn, and the link's events act on the link's state. -/
theorem spdm_and_the_host_link_answer : Obligations.Spdm_and_the_host_link_answer := by
  refine ⟨?agreement, ?asked, ?outOfRange, ?notAgreed, ?noSession, ?exchange, ?session, ?keys, ?notServed, ?trained, ?falls, ?stopped⟩
  case agreement =>
    intro s hserved
    refine ⟨?version, ?caps, ?early, ?common, ?none⟩
    case version => exact congrArg Host.Outcome.next (spdmServe_ok hserved rfl)
    case caps => exact fun hversion => congrArg Host.Outcome.next (spdmServe_ok hserved hversion)
    case early =>
      exact fun hversion => ⟨congrArg Host.Outcome.next (spdmServe_no hserved hversion),
        fun a b => congrArg Host.Outcome.next (spdmServe_no hserved (by simp [hversion]))⟩
    case common =>
      intro a b hversion hcaps hab
      refine congrArg Host.Outcome.next ((spdmServe_ok hserved (by simp [hversion, hcaps])).trans (if_neg ?_))
      rcases hab with rfl | rfl <;> simp
    case none => exact fun hversion hcaps => congrArg Host.Outcome.next (spdmServe_ok hserved (by simp [hversion, hcaps]))
  case asked =>
    intro s off len i nonce hserved hagreed
    refine ⟨?digests, ?certificate, ?challenge, ?count, ?all, getMeasurements_block hserved hagreed⟩
    case digests => exact congrArg Host.Outcome.next (spdmServe_ok hserved hagreed)
    case certificate =>
      exact fun hoff => congrArg Host.Outcome.next ((spdmServe_ok hserved hagreed).trans (if_neg (by omega)))
    case challenge => exact congrArg Host.Outcome.next (spdmServe_ok hserved hagreed)
    case count => exact congrArg Host.Outcome.next (spdmServe_ok hserved hagreed)
    case all => exact congrArg Host.Outcome.next (spdmServe_ok hserved hagreed)
  case outOfRange =>
    intro s slot off len i nonce hserved hagreed
    exact ⟨fun hbad => congrArg Host.Outcome.next ((spdmServe_ok hserved hagreed).trans (if_pos hbad)),
      fun hslot => congrArg Host.Outcome.next ((spdmServe_ok hserved hagreed).trans (if_pos hslot)),
      getMeasurements_beyond hserved hagreed⟩
  case notAgreed =>
    intro s slot off len i n nonce kem hserved hagreed
    exact ⟨congrArg Host.Outcome.next (spdmServe_no hserved hagreed), congrArg Host.Outcome.next (spdmServe_no hserved hagreed),
      congrArg Host.Outcome.next (spdmServe_no hserved hagreed), congrArg Host.Outcome.next (spdmServe_no hserved hagreed),
      congrArg Host.Outcome.next (spdmServe_no hserved hagreed)⟩
  case noSession =>
    intro s hmac i go hserved
    refine ⟨fun hturn => congrArg Host.Outcome.next (spdmServe_no hserved ?_), fun hturn => ?_⟩
    · rcases hturn with h | h <;> simp [h]
    · have hno : (s.sec.spdm.session.isSome && s.sec.spdm.finished) = false := by rcases hturn with h | h <;> simp [h]
      exact ⟨congrArg Host.Outcome.next (spdmServe_no hserved hno), congrArg Host.Outcome.next (spdmServe_no hserved hno)⟩
  case exchange =>
    intro s n kem hserved hagreed
    exact ⟨fun hnone => congrArg Host.Outcome.next ((spdmServe_ok hserved hagreed).trans (if_neg (by simp [hnone]))),
      fun hsome => congrArg Host.Outcome.next ((spdmServe_ok hserved hagreed).trans (if_pos (Option.isSome_iff_ne_none.mpr hsome)))⟩
  case session =>
    intro s n hmac hserved hsession
    refine ⟨fun hopen hok => ?_, fun hopen hwrong => ?_, fun hfin => ?_, fun hfin i go => ?_⟩
    · rw [finish_judged hserved hsession hopen, if_pos hok]
    · rw [finish_judged hserved hsession hopen, if_neg (by simp [hwrong])]
    · exact congrArg Host.Outcome.next (spdmServe_ok hserved (by simp [hsession, hfin]))
    · exact congrArg Host.Outcome.next (spdmServe_ok hserved (by simp [hsession, hfin]))
  case keys =>
    exact fun s => ⟨rfl, fun h => if_pos h, fun h => by simp [ideKm, h], rfl, fun h => if_pos h, fun h => by simp [ideKm, h]⟩
  case notServed =>
    intro s slot off len i a b go n nonce kem hmac j hserved
    exact ⟨congrArg Host.Outcome.next (spdmServe_notServed hserved), congrArg Host.Outcome.next (spdmServe_notServed hserved),
      congrArg Host.Outcome.next (spdmServe_notServed hserved), congrArg Host.Outcome.next (spdmServe_notServed hserved),
      congrArg Host.Outcome.next (spdmServe_notServed hserved), congrArg Host.Outcome.next (spdmServe_notServed hserved),
      congrArg Host.Outcome.next (spdmServe_notServed hserved), congrArg Host.Outcome.next (spdmServe_notServed hserved),
      congrArg Host.Outcome.next (spdmServe_notServed hserved), congrArg Host.Outcome.next (spdmServe_notServed hserved),
      congrArg Host.Outcome.next (spdmServe_notServed hserved)⟩
  case trained =>
    rintro speed width s u rfl
    rfl
  case falls =>
    intro s
    exact ⟨fun h => congrArg Host.Outcome.next (if_pos h), fun h => congrArg Host.Outcome.next (if_neg (by simp [h])),
      fun h hreq => congrArg Host.Outcome.next ((if_pos h).trans (if_pos hreq)),
      fun h hreq => congrArg Host.Outcome.next ((if_pos h).trans (if_neg (by simp [hreq])))⟩
  case stopped =>
    intro s i hi
    have hrow : s.stopDma.dma[i] = if 8 ≤ i.val then {} else s.dma[i] := by
      show (Vector.ofFn _)[i.val] = _
      rw [Vector.getElem_ofFn]
    rw [hrow, if_pos hi]

end Sys2Proof.Machine
end

section
/-!
SUPPORT. Resets: the bytes a filter keeps, the boot ROM's choice of a slot, and what Busum's start leaves of the fuses.
-/

namespace Sys2Proof.Machine
open Sys2Proof

/-! ### Memory over a reset -/

theorem Mem.byte_filter_from (m : Mem) (p : Host.Cell → Bool) (lo a : Nat) (hm : m.risingFrom lo = true)
    (hp : ∀ v, p (a, v) = true) : Mem.byte (m.filter p) a = m.byte a := by
  induction m generalizing lo with
  | nil => rfl
  | cons c r ih =>
    obtain ⟨k, v⟩ := c
    rw [Mem.risingFrom_cons] at hm
    obtain ⟨-, hr⟩ := hm
    have hrest := ih (k + 1) hr
    rw [List.filter_cons]
    split
    · simp only [Mem.byte, hrest]
    · rename_i hdropped
      have hne : k ≠ a := fun e => hdropped (e ▸ hp v)
      by_cases hbelow : a < k
      · have hrising := Mem.filter_rising r p (k + 1) hr
        simp [Mem.byte, hne, hbelow, Mem.byte_below _ (k + 1) a (by omega) hrising]
      · simp [Mem.byte, hne, hbelow, hrest]

/-- A byte whose address the filter keeps reads as before. -/
theorem Mem.byte_filter {m : Mem} {p : Host.Cell → Bool} {a : Nat} (hm : m.wf = true) (hp : ∀ v, p (a, v) = true) :
    Mem.byte (m.filter p) a = m.byte a :=
  Mem.byte_filter_from m p 0 a hm hp

/-! ### COLD resets and what holds the part -/

section Cold

variable {s : State} {cause : BitVec 4}

theorem coldThenBoot_held (hp : s.boot.pwrGood = true) (hm : s.managed = false) : coldThenBoot cause s = coldReset cause s :=
  (if_pos hp).trans (bootIfFree_held hm)

theorem bootIfFree_free (hm : s.managed = true) (hr : s.boot.state = .reset) : bootIfFree s = bootRom s :=
  if_pos (by simp [hm, hr])

theorem coldThenBoot_free (hm : s.managed = true) : coldThenBoot cause s = bootRom (coldReset cause s) := by
  have hp : s.boot.pwrGood = true := by simp_all [State.managed]
  exact (if_pos hp).trans (bootIfFree_free hm rfl)

theorem coldThenBoot_noPower (hp : s.boot.pwrGood = false) : coldThenBoot cause s = s := if_neg (by simp [hp])

end Cold

/-! ### The boot ROM's choice (R388) -/

section Choice

variable {s : State} {a b : Nat}

theorem startBusum_boot (n : Bool) (s : State) :
    (startBusum n s).boot.state = .firmwareInit ∧ (startBusum n s).boot.bootSlotB = n
      ∧ (startBusum n s).boot.faultA = s.boot.faultA := by
  refine ⟨rfl, rfl, ?_⟩
  show (loadImages _ s).boot.faultA = _
  rw [loadImages_boot]

theorem bootRom_badDdr (hddr : ddrOk s.boot.ddr = false) :
    bootRom s = { s with boot := { s.boot with state := .failed, memFault := 1 } } :=
  if_pos (by simp [hddr])

/-- What the boot ROM tries with slot A preferred. -/
theorem bootRom_prefersA (hddr : ddrOk s.boot.ddr = true) (hprefer : s.sec.flash.prefer ≠ 0xA5A50001) :
    bootRom s =
      match slotFault s.sec.fuses (ddrTotal s.boot.ddr * 2 ^ 30) s.sec.flash.slotA with
      | none => startBusum false { s with boot := { s.boot with state := .bootRom, ddrGiB := ddrTotal s.boot.ddr } }
      | some x =>
        match slotFault s.sec.fuses (ddrTotal s.boot.ddr * 2 ^ 30) s.sec.flash.slotB with
        | none => startBusum true { s with boot :=
            { s.boot with state := .bootRom, ddrGiB := ddrTotal s.boot.ddr, faultA := BitVec.ofNat 8 x } }
        | some y => { s with boot := { s.boot with
            state := .failed, ddrGiB := ddrTotal s.boot.ddr, faultA := BitVec.ofNat 8 x, faultB := BitVec.ofNat 8 y } } := by
  have hfirst : (s.sec.flash.prefer == 0xA5A50001) = false := by simpa using hprefer
  unfold bootRom
  rw [if_neg (by simp [hddr])]
  dsimp only
  rw [hfirst]
  rfl

end Choice

/-! ### FIRMWARE_INIT and the fuses (R390, R416) -/

@[simp] theorem setModel_sec (s : State) (i : Nat) (f : Model → Model) : (s.setModel i f).sec = s.sec := by
  unfold State.setModel
  split <;> rfl

theorem switchVariants_sec (s : State) (k : Fin 4) : (switchVariants s k).2.sec = s.sec :=
  foldl_keeps State.sec _ (fun _ _ => setModel_sec _ _ _) _ s

theorem retireAtStart_sec (s : State) (e : Fin 16) : (retireAtStart s e).sec = s.sec :=
  (switchVariants_sec (s.setEng e.val _) (clOfEng e)).trans (State.setEng_sec s _ _)

theorem openRings_sec (s : State) : (openRings s).sec = s.sec := by
  unfold openRings
  apply foldl_keeps State.sec
  exact fun _ _ => rfl

theorem autoPower_sec (s : State) : s.autoPower.sec = s.sec := by
  unfold State.autoPower
  split_ifs <;> rfl

theorem firmwareInit_sec {e : BitVec 16} {s : State} (h : s.boot.state = .firmwareInit ∧ s.power.state ≠ .aon) :
    (firmwareInit e s).sec = s.initialised.sec := by
  unfold firmwareInit
  rw [if_pos h]
  exact (autoPower_sec _).trans ((openRings_sec _).trans (foldl_keeps State.sec _ retireAtStart_sec _ s.initialised))

/-- Settles O51: each reset is its level's state, with the boot ROM after it where nothing holds the part. -/
theorem resets_hold_clear_and_boot : Obligations.Resets_hold_clear_and_boot := by
  refine ⟨?power, ?powered, ?unpowered, ?cold, ?memory, ?deassert, ?thermal, ?boot, ?host, ?kept, ?start⟩
  case power => exact fun s => ⟨rfl, rfl, rfl, rfl, rfl, rfl, rfl, rfl⟩
  case powered =>
    intro s hp
    refine ⟨?perst, ?watchdogHeld, ?watchdog, ?fatal, ?trip, ?extest⟩
    case perst => exact congrArg Host.Outcome.next (coldThenBoot_held hp (by simp [State.managed]))
    case watchdogHeld => exact fun hm => congrArg Host.Outcome.next (coldThenBoot_held hp hm)
    case watchdog => exact fun hm => congrArg Host.Outcome.next (coldThenBoot_free hm)
    case fatal => exact fun hm hup => congrArg Host.Outcome.next ((if_pos hup).trans (coldThenBoot_free hm))
    case trip =>
      intro htrip
      refine congrArg Host.Outcome.next ((if_neg (by simp [htrip])).trans ?_)
      rw [hp]
      exact coldThenBoot_held hp (by simp [State.managed])
    case extest =>
      have hheld := coldThenBoot_held (cause := 5) (s := { s with boot := { s.boot with extestHold := true } }) hp
        (by simp [State.managed])
      rw [← hheld, ← hp]
      rfl
  case unpowered =>
    exact fun s hp => ⟨congrArg Host.Outcome.next (coldThenBoot_noPower hp), congrArg Host.Outcome.next (coldThenBoot_noPower hp)⟩
  case cold =>
    intro cause s i e
    refine ⟨rfl, rfl, rfl, rfl, rfl, rfl, rfl, rfl, ?leaf, ?engine, ?cage⟩
    case leaf => simp [coldReset]
    case engine => simp [coldReset]
    case cage => simp [coldReset, keepCages]
  case memory =>
    exact fun cause s a hwf ha => ⟨Mem.byte_filter hwf fun v => decide_eq_true (.inr (.inr ha)),
      Mem.byte_filter hwf fun v => decide_eq_true ha⟩
  case deassert =>
    rintro ddr s u hp hperst rfl
    have hheld : (s.boot.pwrGood && s.boot.perst) = true := by simp [hp, hperst]
    exact ⟨congrArg Host.Outcome.next (if_pos hheld), fun f => congrArg Host.Outcome.next (if_pos hheld)⟩
  case thermal =>
    intro s t
    refine ⟨fun htrip hcool => ?_, fun htap => ?_, fun hp hlow => ?_, fun hp hhigh => ?_⟩
    · exact congrArg Host.Outcome.next (if_pos (by simp [htrip, hcool]))
    · exact congrArg Host.Outcome.next (if_pos htap)
    · exact congrArg Host.Outcome.next ((if_neg (by simp [hp])).trans (if_neg (by omega)))
    · exact congrArg Host.Outcome.next ((if_neg (by simp [hp])).trans (if_pos hhigh))
  case boot =>
    intro s
    refine ⟨bootRom_badDdr, fun hddr hprefer ha => ?_, fun a hddr hprefer ha hb => ?_, fun a b hddr hprefer ha hb => ?_⟩
    · rw [bootRom_prefersA hddr hprefer, ha]
      obtain ⟨hstate, hslot, -⟩ := startBusum_boot false
        { s with boot := { s.boot with state := .bootRom, ddrGiB := ddrTotal s.boot.ddr } }
      exact ⟨hstate, hslot⟩
    · rw [bootRom_prefersA hddr hprefer, ha, hb]
      exact startBusum_boot _ _
    · rw [bootRom_prefersA hddr hprefer, ha, hb]
  case host => exact fun s => ⟨rfl, rfl, fun h => if_neg h⟩
  case kept =>
    intro keep s i
    unfold hostReset State.stopDma State.dropWindows
    exact ⟨rfl, rfl, rfl, rfl, rfl, rfl, rfl, rfl, rfl, rfl, rfl, rfl, rfl, rfl⟩
  case start =>
    intro m s hstate hpower
    have h := And.intro hstate hpower
    refine ⟨firmwareInit m s, rfl, ?_, ?_, ?_⟩
    · rw [(firmwareInit_quiet h).boot]
      rfl
    · rw [firmwareInit_sec h]
      rfl
    · rw [firmwareInit_sec h]
      rfl

end Sys2Proof.Machine
end

section
/-!
SUPPORT. Stitch links and members of the pool (R315 to R321, R337, R338): what each of their commands does on a link or a member that it
acts on.
-/

namespace Sys2Proof.Machine
open Sys2Proof

section Links

variable {s : State} {l : Fin 4}

/-! ### Training, HELLO and the states of a link (R315) -/

theorem linkTrained_acts {slow fast : BitVec 4} (hlanes : s.lanesOn = true) (henable : (s.link l).enable = true)
    (hwired : s.wired l = true) (hstate : (s.link l).state = .training ∨ (s.link l).state = .down) :
    linkTrained l slow fast s = match (s.link l).trains slow fast with
      | some (rate, set, lanes) =>
        ((s.setLinkState l .training).setLink l fun k => { k with lanes := lanes, laneSet := set, rate := rate }).sendHello l
      | none => s :=
  if_pos (by rcases hstate with h | h <;> simp [hlanes, henable, hwired, h])

/-- HELLO names this chip's pool, its topology, the neighbour and the link expected there. -/
abbrev HelloMatches (s : State) (l : Fin 4) (chip : BitVec 6) (pool : BitVec 64) (topo link : BitVec 2) : Prop :=
  pool.toNat = s.poolId ∧ topo.toNat = s.topology ∧ chip.toNat = s.neighbour l ∧ link.toNat = peerLink l

section Hello

variable {chip : BitVec 6} {pool : BitVec 64} {topo link : BitVec 2}

theorem not_helloMatches (h : pool.toNat ≠ s.poolId ∨ topo.toNat ≠ s.topology ∨ chip.toNat ≠ s.neighbour l ∨ link.toNat ≠ peerLink l) :
    ¬HelloMatches s l chip pool topo link := by
  rintro ⟨hpool, htopo, hchip, hlink⟩
  rcases h with h | h | h | h <;> contradiction

theorem onHello_matches (hopen : ((s.link l).state = .training ∧ (s.link l).lanes ≠ 0) ∨ (s.link l).state = .miswired)
    (h : HelloMatches s l chip pool topo link) : onHello l chip pool topo link s = linkUp s l :=
  (if_pos hopen).trans (if_pos (decide_eq_true h))

theorem onHello_differs (hopen : ((s.link l).state = .training ∧ (s.link l).lanes ≠ 0) ∨ (s.link l).state = .miswired)
    (h : ¬HelloMatches s l chip pool topo link) : onHello l chip pool topo link s = s.miswire l :=
  (if_pos hopen).trans (if_neg fun e => h (of_decide_eq_true e))

theorem onHello_differs_up (hup : (s.link l).state = .up ∨ (s.link l).state = .degraded)
    (h : ¬HelloMatches s l chip pool topo link) : onHello l chip pool topo link s = s.miswire l := by
  have hclosed : ¬(((s.link l).state = .training ∧ (s.link l).lanes ≠ 0) ∨ (s.link l).state = .miswired) := by
    rcases hup with hs | hs <;> simp [hs]
  exact (if_neg hclosed).trans (if_pos ⟨hup, (Bool.not_eq_true' _).mpr (decide_eq_false h)⟩)

end Hello

/-! ### Flits, replay and retrain (R316, R318) -/

section Flits

variable {b : Bytes} {fec : Fin 3} {u : State}

/-- The tests of a flit on a link that is up, in their order. -/
theorem flitReceive_up (hup : (s.link l).state = .up ∨ (s.link l).state = .degraded)
    (hu : u = if fec.val = 1 then s.slCount .fecCorr l.val else s) :
    flitReceive l b fec s =
      if fec.val = 2 then sendNull (u.slCount .fecUncorr l.val) l true 0 0
      else if b.length ≠ 256 ∨ crc32c (b.take 252) ≠ fld b 252 4 then sendNull (u.slCount .crcErr l.val) l true 0 0
      else if 1 < bits (fld b 0 8) 60 4
          ∨ (if bits (fld b 0 8) 60 4 = 1 then (s.link l).rxSeq + 1 else (s.link l).rxSeq).toNat ≠ bits (fld b 0 8) 0 16 then
        sendNull u l true 0 0
      else goodFlit u l (fld b 0 8) (fld b 0xF8 2) (fld b 0xFA 1) := by
  have hserves : ¬((s.link l).state ≠ .up ∧ (s.link l).state ≠ .degraded) := by
    rcases hup with h | h <;> simp [h]
  subst hu
  exact if_neg hserves

end Flits

theorem event_stitch (s : State) (ev src : Nat) (b : Bytes) : (s.event ev src b).stitch = s.stitch := by
  obtain ⟨h, x, m, o, heq⟩ := event_eq s ev src b
  rw [heq]

/-- A change of a link's state changes nothing else of the link. -/
theorem setLinkState_replay (s : State) (l : Fin 4) (st : LinkState) :
    ((s.setLinkState l st).link l).replay = (s.link l).replay := by
  unfold State.setLinkState
  dsimp only
  split
  · rfl
  · have hlinks : ∀ u ev src b, (State.event u ev src b).link l = u.link l := fun u ev src b =>
      congrArg (fun x : Stitch => x.links[l]) (event_stitch u ev src b)
    rw [hlinks, State.setLink_self]

theorem linkDown_replay (s : State) (l : Fin 4) : ((s.linkDown l).link l).replay = [] := by
  unfold State.linkDown
  rw [setLinkState_replay, State.setLink_self]

/-! ### Chips lost (R321) -/

theorem peerLost_noWait {c : Nat} {k : Fin 8} (h : (s.core k).wait = none) : peerLost s c k = s := by
  unfold peerLost
  rw [h]

/-- What a lost chip leaves to end once it is reported: remote waits, those of held contexts, and transfers to it. -/
def endPeer (c : Nat) (s : State) : State :=
  let s2 := (List.finRange 8).foldl (fun s k => peerLost s c k) s
  let s3 := (s2.qctx.map (·.1)).foldl (fun s t => peerLostKept s c t) s2
  s3.stitch.outX.foldl (fun s x =>
    if !x.targets.any (fun t => t.chip == c && !t.done) then s
    else if (XDesc.of x.desc).many then takeComplete s x.num c 0
    else failXfer s x) s3

theorem endPeer_nothing {c : Nat} (hwaits : ∀ k : Fin 8, (s.core k).wait = none) (hctx : s.qctx = []) (hout : s.stitch.outX = []) :
    endPeer c s = s := by
  have hcores : (List.finRange 8).foldl (fun s k => peerLost s c k) s = s :=
    List.foldl_fixed' (fun k => peerLost_noWait (hwaits k)) _
  simp only [endPeer, hcores, hctx, hout, List.map_nil, List.foldl_nil]

theorem chipLost_reports {c : Nat} (hother : c ≠ s.chip) (hmember : c < s.poolSize)
    (hknown : (tget s.stitch.members c {}).lost = false) :
    chipLost c s = endPeer c ((s.setStitch fun t => { t with
      members := tmod t.members c {} fun m => { m with lost := true }
      held := t.held.filter fun m => m.2.dst.toNat != c }).event 0x08 c (toLE 4 c)) := by
  refine if_neg ?_
  rw [hknown]
  simp only [Bool.false_eq_true, or_false]
  omega

theorem event_qctx (s : State) (ev src : Nat) (b : Bytes) : (s.event ev src b).qctx = s.qctx := by
  obtain ⟨h, x, m, o, heq⟩ := event_eq s ev src b
  rw [heq]

end Links

/-- Settles O49: each command on a link or a member that it acts on. -/
theorem stitch_links_and_members_change_state : Obligations.Stitch_links_and_members_change_state := by
  refine ⟨?trained, ?hello, ?helloUp, ?retry, ?flits, ?replay, ?hold, ?lost, ?found, ?recompute, ?round, ?spine, ?missing⟩
  case trained =>
    intro l slow fast s hlanes henable hwired hstate
    have hacts := linkTrained_acts (slow := slow) (fast := fast) hlanes henable hwired hstate
    exact ⟨fun rate set lanes h => congrArg Host.Outcome.next (hacts.trans (by rw [h])),
      fun h => congrArg Host.Outcome.next (hacts.trans (by rw [h]))⟩
  case hello =>
    intro l chip pool topo link s hopen
    exact ⟨fun hpool htopo hchip hlink => congrArg Host.Outcome.next (onHello_matches hopen ⟨hpool, htopo, hchip, hlink⟩),
      fun h => congrArg Host.Outcome.next (onHello_differs hopen (not_helloMatches h))⟩
  case helloUp =>
    exact fun l chip pool topo link s hup h => congrArg Host.Outcome.next (onHello_differs_up hup (not_helloMatches h))
  case retry => exact fun l s h => congrArg Host.Outcome.next (if_pos h)
  case flits =>
    intro l b fec s u want hup hwant hu
    have hflit := flitReceive_up (b := b) hup hu
    rw [← hwant] at hflit
    refine ⟨fun hfec => ?_, fun hfec hcrc => ?_, fun hfec hlen hcrc hseq => ?_, fun hfec hlen hcrc hkind hseq => ?_⟩
    · exact congrArg Host.Outcome.next (hflit.trans (if_pos hfec))
    · exact congrArg Host.Outcome.next (hflit.trans ((if_neg hfec).trans (if_pos hcrc)))
    · refine congrArg Host.Outcome.next (hflit.trans ((if_neg hfec).trans ((if_neg (by simp [hlen, hcrc])).trans (if_pos ?_))))
      exact hseq.imp_right Ne.symm
    · refine congrArg Host.Outcome.next (hflit.trans ((if_neg hfec).trans ((if_neg (by simp [hlen, hcrc])).trans (if_neg ?_))))
      rintro (h | h)
      · omega
      · exact h hseq.symm
  case replay => exact fun l s hup hreplay => congrArg Host.Outcome.next (if_pos ⟨hup, hreplay⟩)
  case hold => exact fun l s h => ⟨congrArg Host.Outcome.next (if_pos h), linkDown_replay _ l⟩
  case lost =>
    rintro c s u hother hmember hknown hwaits hctx hout rfl
    refine congrArg Host.Outcome.next ((chipLost_reports hother hmember hknown).trans (endPeer_nothing (fun k => ?_) ?_ ?_))
    · exact (congrArg (fun x : Vector Core 8 => (x[k]).wait) (event_cores _ _ _ _)).trans (hwaits k)
    · exact (event_qctx _ _ _ _).trans hctx
    · exact (congrArg Stitch.outX (event_stitch _ _ _ _)).trans hout
  case found => exact fun c s h => congrArg Host.Outcome.next (if_pos h)
  case recompute =>
    exact fun s => ⟨fun h => congrArg Host.Outcome.next (if_pos h), fun h => congrArg Host.Outcome.next (if_neg (by simp [h]))⟩
  case round =>
    rintro s u hpool rfl
    exact congrArg Host.Outcome.next (if_neg (by omega))
  case spine =>
    rintro m s x hdst htyp hres hlen rfl
    have hmsg : onMsg 0x30 onSpine m s = onSpine m s := onMsg_ok hdst (congrArg BitVec.toNat htyp) hres hlen (by omega)
    refine ⟨fun hepoch hdata => ?_, fun hepoch hdata => ?_, fun hepoch hrounds => ?_, fun hepoch hrounds => ?_⟩
    · exact congrArg Host.Outcome.next (hmsg.trans ((if_pos hepoch).trans (if_pos hdata)))
    · exact congrArg Host.Outcome.next (hmsg.trans ((if_pos hepoch).trans (if_neg hdata)))
    · exact congrArg Host.Outcome.next (hmsg.trans ((if_neg hepoch).trans (if_neg hrounds)))
    · exact congrArg Host.Outcome.next (hmsg.trans ((if_neg hepoch).trans (if_pos hrounds)))
  case missing =>
    rintro c s u m hreach rfl rfl
    exact congrArg Host.Outcome.next (if_pos hreach)

end Sys2Proof.Machine
end
